-- ==== Sys2Proof/Word.lean ====
section
/-!
DEFINITION. The word types of the SL8: a byte, a 32-bit instruction word, a 64-bit word and the 32-bit
tag (R6).
-/

namespace Sys2Proof

/-- A byte. -/
abbrev Byte := BitVec 8

/-- A 32-bit word of a block (R275). -/
abbrev Word := BitVec 32

/-- A 64-bit word: hold registers (R198), counters and most registers (R74). -/
abbrev Dword := BitVec 64

/-- A tag: CTX [31:22], FRM [21:14], GEN [13:12], ITR [11:0] (R6). -/
abbrev Tag := BitVec 32

end Sys2Proof
end

