-- ==== Sys2Proof/Syntax.lean ====
section
/-!
DEFINITION. The instructions and machine steps of the SL8: one constructor of `Instr` per row of
spec/opcode_table.json. The 182 rows with bits come first and carry the fields of their word (R275 to
R289); the operands they fire on are the accord's, in the state. The 140 rows without bits are the part's
other steps (spec/95): they have no word, and the operands that name what moves, or what the surroundings
supply, stand in the state as well (`Machine.Args`, log 3).
-/

namespace Sys2Proof

/-- A port of an accord (R190). -/
inductive Port where
  | l | r | p
  deriving DecidableEq, Repr

/-- A 9-bit target (R276). -/
inductive Target where
  /-- A consumer slot of the same window, on a port, under NextTag when `adv`. -/
  | slot (port : Port) (adv : Bool) (slot : BitVec 6)
  /-- Output arc a0 to a63 of the window. -/
  | arc (n : BitVec 6)
  /-- Hold-register write, H0 to H31. -/
  | hold (h : BitVec 5)
  /-- 0x7F: no token is sent. -/
  | discard
  deriving DecidableEq, Repr

/-- The completion target ct of Format T (R278): no token, or a slot of the window. -/
inductive Completion where
  | none
  | slot (port : Port) (slot : BitVec 6)
  deriving DecidableEq, Repr

/-- The predicate modes that an opcode of entry a accepts (R190, R277). -/
inductive Pd where
  | always | ifTrue | ifFalse
  deriving DecidableEq, Repr

/-- Conditions of CMP (R283, R325). -/
inductive IntCond where
  | eq | ne | lt | le | gt | ge | ltu | leu | gtu | geu
  deriving DecidableEq, Repr

/-- Conditions of FCMP (R334). -/
inductive FloatCond where
  | eq | ne | lt | le | gt | ge | un | ord
  deriving DecidableEq, Repr

/-- Conditions of VCMP (R287, R347). -/
inductive LaneCond where
  | eq | ne | lt | le | gt | ge | un
  deriving DecidableEq, Repr

/-- FT of the scalar float instructions (R284): FP32, FP16, BF16. -/
inductive FloatFmt where
  | s | h | b
  deriving DecidableEq, Repr

/-- Rounding modes (R261): nearest even, toward zero, toward +Inf, toward -Inf. -/
inductive Rm where
  | rn | rz | ru | rd
  deriving DecidableEq, Repr

/-- Scopes of fences (R240). -/
inductive Scope where
  | cell | region | die | device | system
  deriving DecidableEq, Repr

/-- Operations of AMOT (R285, R384). -/
inductive AmotOp where
  | add | add64 | and | or | xor | min | max | minu | maxu | fmin | fmax | swap | fadd
  deriving DecidableEq, Repr

/-- Operations of TREE, numbered 1 to 9 as in R96. -/
inductive TreeOp where
  | fsum | fmin | fmax | isum | imin | imax | and | or | xor
  deriving DecidableEq, Repr

/-- Tile states (R204). -/
inductive TileState where
  | empty | filling | ready | draining
  deriving DecidableEq, Repr

/-- Bank modes (R200). -/
inductive BankMode where
  | scratchpad | cache | fifo | compute
  deriving DecidableEq, Repr

/-- Every step of the part: the rows of spec/opcode_table.json, those with a word first. -/
inductive Instr where
  /-- NOP (R304). -/
  | nop (pd : Pd)
  /-- MOV (R304). -/
  | mov (pd : Pd) (t1 t0 : Target)
  /-- LIT (R304). -/
  | lit (pd : Pd) (imm : BitVec 14) (t0 : Target)
  /-- LIT32 (R304). -/
  | lit32 (pd : Pd) (t1 t0 : Target)
  /-- STEER (R305). -/
  | steer (pd : Pd) (t1 t0 : Target)
  /-- GATE (R305). -/
  | gate (pd : Pd) (t1 t0 : Target)
  /-- GATEN (R305). -/
  | gaten (pd : Pd) (t1 t0 : Target)
  /-- MERGE (R306). -/
  | merge (t1 t0 : Target)
  /-- SYNC (R307). -/
  | sync (pd : Pd) (t1 t0 : Target)
  /-- ITER (R313). -/
  | iter (pd : Pd) (t1 t0 : Target)
  /-- NEXT (R313). -/
  | nextIter (pd : Pd) (t1 t0 : Target)
  /-- RETIRE (R314). -/
  | retire (pd : Pd) (t1 t0 : Target)
  /-- FRAME (R312). -/
  | frame (pd : Pd) (level : BitVec 3) (t1 t0 : Target)
  /-- FRET (R315). -/
  | fret (pd : Pd) (t1 t0 : Target)
  /-- SEND (R317). -/
  | send (pd : Pd)
  /-- SENDM (R318). -/
  | sendm (pd : Pd)
  /-- CNT (R308). -/
  | cnt (pd : Pd) (t1 t0 : Target)
  /-- BOUND (R308). -/
  | bound (pd : Pd) (t1 t0 : Target)
  /-- TAGRD (R319). -/
  | tagrd (pd : Pd) (t1 t0 : Target)
  /-- QLVL (R320). -/
  | qlvl (pd : Pd) (t1 t0 : Target)
  /-- RDH (R321). -/
  | rdh (pd : Pd) (trapE : Bool) (h : BitVec 5) (t0 : Target)
  /-- WRH (R321). -/
  | wrh (pd : Pd) (h : BitVec 5) (t0 : Target)
  /-- CLRH (R321). -/
  | clrh (pd : Pd) (h : BitVec 5) (t0 : Target)
  /-- TSTH (R321). -/
  | tsth (pd : Pd) (h : BitVec 5) (t0 : Target)
  /-- END (R322). -/
  | endRegion (pd : Pd)
  /-- ADD (R325). -/
  | add (pd : Pd) (wide : Bool) (t1 t0 : Target)
  /-- SUB (R325). -/
  | sub (pd : Pd) (wide : Bool) (t1 t0 : Target)
  /-- MUL (R325). -/
  | mul (pd : Pd) (wide : Bool) (t1 t0 : Target)
  /-- MULH (R325). -/
  | mulh (pd : Pd) (wide : Bool) (t1 t0 : Target)
  /-- MULHU (R325). -/
  | mulhu (pd : Pd) (wide : Bool) (t1 t0 : Target)
  /-- DIV (R326). -/
  | div (pd : Pd) (wide : Bool) (t1 t0 : Target)
  /-- DIVU (R326). -/
  | divu (pd : Pd) (wide : Bool) (t1 t0 : Target)
  /-- REM (R326). -/
  | rem (pd : Pd) (wide : Bool) (t1 t0 : Target)
  /-- REMU (R326). -/
  | remu (pd : Pd) (wide : Bool) (t1 t0 : Target)
  /-- AND (R325). -/
  | and (pd : Pd) (wide : Bool) (t1 t0 : Target)
  /-- OR (R325). -/
  | or (pd : Pd) (wide : Bool) (t1 t0 : Target)
  /-- XOR (R325). -/
  | xor (pd : Pd) (wide : Bool) (t1 t0 : Target)
  /-- ANDN (R325). -/
  | andn (pd : Pd) (wide : Bool) (t1 t0 : Target)
  /-- SHL (R325). -/
  | shl (pd : Pd) (wide : Bool) (t1 t0 : Target)
  /-- SHR (R325). -/
  | shr (pd : Pd) (wide : Bool) (t1 t0 : Target)
  /-- SRA (R325). -/
  | sra (pd : Pd) (wide : Bool) (t1 t0 : Target)
  /-- ROL (R325). -/
  | rol (pd : Pd) (wide : Bool) (t1 t0 : Target)
  /-- ROR (R325). -/
  | ror (pd : Pd) (wide : Bool) (t1 t0 : Target)
  /-- CMP (R325). -/
  | cmp (pd : Pd) (wide : Bool) (cc : IntCond) (t1 t0 : Target)
  /-- MIN (R325). -/
  | min (pd : Pd) (wide : Bool) (t1 t0 : Target)
  /-- MAX (R325). -/
  | max (pd : Pd) (wide : Bool) (t1 t0 : Target)
  /-- MINU (R325). -/
  | minu (pd : Pd) (wide : Bool) (t1 t0 : Target)
  /-- MAXU (R325). -/
  | maxu (pd : Pd) (wide : Bool) (t1 t0 : Target)
  /-- BFXU (R327). -/
  | bfxu (pd : Pd) (wide : Bool) (t1 t0 : Target)
  /-- BFXS (R327). -/
  | bfxs (pd : Pd) (wide : Bool) (t1 t0 : Target)
  /-- BFI (R327). -/
  | bfi (wide : Bool) (t1 t0 : Target)
  /-- POPC (R328). -/
  | popc (pd : Pd) (wide : Bool) (t1 t0 : Target)
  /-- CLZ (R328). -/
  | clz (pd : Pd) (wide : Bool) (t1 t0 : Target)
  /-- CTZ (R328). -/
  | ctz (pd : Pd) (wide : Bool) (t1 t0 : Target)
  /-- SEL (R328). -/
  | sel (wide : Bool) (t1 t0 : Target)
  /-- NEG (R325). -/
  | neg (pd : Pd) (wide : Bool) (t1 t0 : Target)
  /-- ABS (R325). -/
  | abs (pd : Pd) (wide : Bool) (t1 t0 : Target)
  /-- SX8 (R328). -/
  | sx8 (pd : Pd) (wide : Bool) (t1 t0 : Target)
  /-- SX16 (R328). -/
  | sx16 (pd : Pd) (wide : Bool) (t1 t0 : Target)
  /-- SX32 (R328). -/
  | sx32 (pd : Pd) (t1 t0 : Target)
  /-- ZX8 (R328). -/
  | zx8 (pd : Pd) (wide : Bool) (t1 t0 : Target)
  /-- ZX16 (R328). -/
  | zx16 (pd : Pd) (wide : Bool) (t1 t0 : Target)
  /-- ZX32 (R328). -/
  | zx32 (pd : Pd) (t1 t0 : Target)
  /-- ADDI (R328). -/
  | addi (pd : Pd) (imm : BitVec 14) (t0 : Target)
  /-- ANDI (R328). -/
  | andi (pd : Pd) (imm : BitVec 14) (t0 : Target)
  /-- ORI (R328). -/
  | ori (pd : Pd) (imm : BitVec 14) (t0 : Target)
  /-- XORI (R328). -/
  | xori (pd : Pd) (imm : BitVec 14) (t0 : Target)
  /-- FADD (R331). -/
  | fadd (pd : Pd) (ft : FloatFmt) (rm : Rm) (t1 t0 : Target)
  /-- FSUB (R331). -/
  | fsub (pd : Pd) (ft : FloatFmt) (rm : Rm) (t1 t0 : Target)
  /-- FMUL (R331). -/
  | fmul (pd : Pd) (ft : FloatFmt) (rm : Rm) (t1 t0 : Target)
  /-- FFMA (R331). -/
  | ffma (ft : FloatFmt) (rm : Rm) (t1 t0 : Target)
  /-- FDIV (R331). -/
  | fdiv (pd : Pd) (ft : FloatFmt) (rm : Rm) (t1 t0 : Target)
  /-- FSQRT (R331). -/
  | fsqrt (pd : Pd) (ft : FloatFmt) (rm : Rm) (t1 t0 : Target)
  /-- FMIN (R332). -/
  | fmin (pd : Pd) (ft : FloatFmt) (t1 t0 : Target)
  /-- FMAX (R332). -/
  | fmax (pd : Pd) (ft : FloatFmt) (t1 t0 : Target)
  /-- FMINM (R332). -/
  | fminm (pd : Pd) (ft : FloatFmt) (t1 t0 : Target)
  /-- FMAXM (R332). -/
  | fmaxm (pd : Pd) (ft : FloatFmt) (t1 t0 : Target)
  /-- FABS (R333). -/
  | fabs (pd : Pd) (ft : FloatFmt) (t1 t0 : Target)
  /-- FNEG (R333). -/
  | fneg (pd : Pd) (ft : FloatFmt) (t1 t0 : Target)
  /-- FCMP (R334). -/
  | fcmp (pd : Pd) (ft : FloatFmt) (cc : FloatCond) (t1 t0 : Target)
  /-- FRCP (R335). -/
  | frcp (pd : Pd) (ft : FloatFmt) (t1 t0 : Target)
  /-- FRSQ (R335). -/
  | frsq (pd : Pd) (ft : FloatFmt) (t1 t0 : Target)
  /-- FEXP2 (R335). -/
  | fexp2 (pd : Pd) (ft : FloatFmt) (t1 t0 : Target)
  /-- FLOG2 (R335). -/
  | flog2 (pd : Pd) (ft : FloatFmt) (t1 t0 : Target)
  /-- FSIN (R335). -/
  | fsin (pd : Pd) (ft : FloatFmt) (t1 t0 : Target)
  /-- FCOS (R335). -/
  | fcos (pd : Pd) (ft : FloatFmt) (t1 t0 : Target)
  /-- FRND (R336). -/
  | frnd (pd : Pd) (ft : FloatFmt) (rm : Rm) (t1 t0 : Target)
  /-- CVT_S (R337). -/
  | cvtS (pd : Pd) (ft : FloatFmt) (rm : Rm) (t1 t0 : Target)
  /-- CVT_H (R337). -/
  | cvtH (pd : Pd) (ft : FloatFmt) (rm : Rm) (t1 t0 : Target)
  /-- CVT_B (R337). -/
  | cvtB (pd : Pd) (ft : FloatFmt) (rm : Rm) (t1 t0 : Target)
  /-- CVTFI (R337). -/
  | cvtfi (pd : Pd) (ft : FloatFmt) (rm : Rm) (t1 t0 : Target)
  /-- CVTIF (R337). -/
  | cvtif (pd : Pd) (ft : FloatFmt) (rm : Rm) (t1 t0 : Target)
  /-- CVTIF_L (R337). -/
  | cvtifL (pd : Pd) (ft : FloatFmt) (rm : Rm) (t1 t0 : Target)
  /-- CVT8 (R338). -/
  | cvt8 (pd : Pd) (ft : FloatFmt) (t1 t0 : Target)
  /-- CVF8 (R338). -/
  | cvf8 (pd : Pd) (ft : FloatFmt) (t1 t0 : Target)
  /-- FCLASS (R339). -/
  | fclass (pd : Pd) (ft : FloatFmt) (t1 t0 : Target)
  /-- LD (R379). -/
  | ld (pd : Pd) (seq : BitVec 5) (prevD nextD : BitVec 2) (port : BitVec 5) (t0 : Target)
  /-- ST (R379). -/
  | st (pd : Pd) (seq : BitVec 5) (prevD nextD : BitVec 2) (port : BitVec 5) (t0 : Target)
  /-- LDT (R380). -/
  | ldt (pd : Pd) (seq : BitVec 5) (prevD nextD : BitVec 2) (port : BitVec 5) (t0 : Target)
  /-- STT (R380). -/
  | stt (pd : Pd) (seq : BitVec 5) (prevD nextD : BitVec 2) (port : BitVec 5) (t0 : Target)
  /-- LDH (R379). -/
  | ldh (pd : Pd) (seq : BitVec 5) (prevD nextD : BitVec 2) (port h : BitVec 5)
  /-- PFT (R379). -/
  | pft (pd : Pd) (seq : BitVec 5) (prevD nextD : BitVec 2) (port : BitVec 5) (t0 : Target)
  /-- MNOP (R378). -/
  | mnop (pd : Pd) (seq : BitVec 5) (prevD nextD : BitVec 2) (port : BitVec 5) (t0 : Target)
  /-- FENCE_ACQ (R244). -/
  | fenceAcq (pd : Pd) (scope : Scope) (t1 t0 : Target)
  /-- FENCE_REL (R244). -/
  | fenceRel (pd : Pd) (scope : Scope) (t1 t0 : Target)
  /-- FENCE_FULL (R244). -/
  | fenceFull (pd : Pd) (scope : Scope) (t1 t0 : Target)
  /-- SCAS64 (R386). -/
  | scas64 (pd : Pd) (seq : BitVec 5) (prevD nextD : BitVec 2) (port : BitVec 5) (t0 : Target)
  /-- SCAS128 (R386). -/
  | scas128 (pd : Pd) (seq : BitVec 5) (prevD nextD : BitVec 2) (port : BitVec 5) (t0 : Target)
  /-- SADD (R386). -/
  | sadd (pd : Pd) (seq : BitVec 5) (prevD nextD : BitVec 2) (port : BitVec 5) (t0 : Target)
  /-- SSWAP (R386). -/
  | sswap (pd : Pd) (seq : BitVec 5) (prevD nextD : BitVec 2) (port : BitVec 5) (t0 : Target)
  /-- AMOT (R384). -/
  | amot (pd : Pd) (td : BitVec 5) (op : AmotOp) (ct : Completion)
  /-- AMOADD (R385). -/
  | amoadd (pd : Pd) (seq : BitVec 5) (prevD nextD : BitVec 2) (port : BitVec 5) (t0 : Target)
  /-- AMOMIN (R385). -/
  | amomin (pd : Pd) (seq : BitVec 5) (prevD nextD : BitVec 2) (port : BitVec 5) (t0 : Target)
  /-- AMOMAX (R385). -/
  | amomax (pd : Pd) (seq : BitVec 5) (prevD nextD : BitVec 2) (port : BitVec 5) (t0 : Target)
  /-- QPUSH (R387). -/
  | qpush (pd : Pd) (queue lim : BitVec 5) (t0 : Target)
  /-- QPOP (R387). -/
  | qpop (pd : Pd) (queue lim : BitVec 5) (t0 : Target)
  /-- QPEEK (R387). -/
  | qpeek (pd : Pd) (queue lim : BitVec 5) (t0 : Target)
  /-- BARR (R389). -/
  | barr (pd : Pd) (group : BitVec 8) (t0 : Target)
  /-- TREE (R389). -/
  | tree (pd : Pd) (op : TreeOp) (group : BitVec 8) (t0 : Target)
  /-- TAILADV (R391). -/
  | tailadv (pd : Pd) (chain : BitVec 6) (t0 : Target)
  /-- TLREAD (R392). -/
  | tlread (pd : Pd) (chain : BitVec 6) (t0 : Target)
  /-- TLWAIT (R393). -/
  | tlwait (pd : Pd) (chain : BitVec 6) (t0 : Target)
  /-- COLLREC (R394). -/
  | collrec (pd : Pd) (chain : BitVec 6) (t0 : Target)
  /-- TRAP (R396). -/
  | trap (pd : Pd) (imm : BitVec 14) (t0 : Target)
  /-- TRAPF (R396). -/
  | trapf (pd : Pd) (mask : BitVec 5) (t0 : Target)
  /-- SYSQ_HANDLE (R399). -/
  | sysqHandle (pd : Pd) (t1 t0 : Target)
  /-- SYSQ_DIE (R399). -/
  | sysqDie (pd : Pd) (t1 t0 : Target)
  /-- SYSQ_REPLICA (R399). -/
  | sysqReplica (pd : Pd) (t1 t0 : Target)
  /-- SYSQ_CTX (R399). -/
  | sysqCtx (pd : Pd) (t1 t0 : Target)
  /-- RDCFG (R400). -/
  | rdcfg (pd : Pd) (index : BitVec 12) (t0 : Target)
  /-- WRCFG (R401). -/
  | wrcfg (pd : Pd) (index : BitVec 12) (t0 : Target)
  /-- YIELD (R402). -/
  | yield (pd : Pd) (t1 t0 : Target)
  /-- BKPT (R397). -/
  | bkpt (pd : Pd) (code : BitVec 10) (set : BitVec 4) (t0 : Target)
  /-- CYC (R402). -/
  | cyc (pd : Pd) (t1 t0 : Target)
  /-- VADD (R344). -/
  | vadd (pd : Pd) (t1 t0 : Target)
  /-- VSUB (R344). -/
  | vsub (pd : Pd) (t1 t0 : Target)
  /-- VMUL (R344). -/
  | vmul (pd : Pd) (t1 t0 : Target)
  /-- VMIN (R344). -/
  | vmin (pd : Pd) (t1 t0 : Target)
  /-- VMAX (R344). -/
  | vmax (pd : Pd) (t1 t0 : Target)
  /-- VSCALE (R346). -/
  | vscale (pd : Pd) (t1 t0 : Target)
  /-- VCMP (R347). -/
  | vcmp (pd : Pd) (cc : LaneCond) (t1 t0 : Target)
  /-- VABS (R344). -/
  | vabs (pd : Pd) (t1 t0 : Target)
  /-- VNEG (R344). -/
  | vneg (pd : Pd) (t1 t0 : Target)
  /-- VRCP (R345). -/
  | vrcp (pd : Pd) (t1 t0 : Target)
  /-- VRSQ (R345). -/
  | vrsq (pd : Pd) (t1 t0 : Target)
  /-- VEXP2 (R345). -/
  | vexp2 (pd : Pd) (t1 t0 : Target)
  /-- VLOG2 (R345). -/
  | vlog2 (pd : Pd) (t1 t0 : Target)
  /-- VBCAST (R348). -/
  | vbcast (pd : Pd) (t1 t0 : Target)
  /-- VRED_SUM (R349). -/
  | vredSum (pd : Pd) (t1 t0 : Target)
  /-- VRED_MIN (R349). -/
  | vredMin (pd : Pd) (t1 t0 : Target)
  /-- VRED_MAX (R349). -/
  | vredMax (pd : Pd) (t1 t0 : Target)
  /-- VCVT (R351). -/
  | vcvt (pd : Pd) (t1 t0 : Target)
  /-- VQUANT (R352). -/
  | vquant (pd : Pd) (t1 t0 : Target)
  /-- VFMA (R344). -/
  | vfma (t1 t0 : Target)
  /-- VSEL (R347). -/
  | vsel (t1 t0 : Target)
  /-- VCLAMP (R344). -/
  | vclamp (t1 t0 : Target)
  /-- VTRANS (R358). -/
  | vtrans (pd : Pd) (td ta : BitVec 5) (ct : Completion)
  /-- VPOOLMAX (R359). -/
  | vpoolmax (pd : Pd) (td ta tb : BitVec 5) (ct : Completion)
  /-- VPOOLAVG (R359). -/
  | vpoolavg (pd : Pd) (td ta tb : BitVec 5) (ct : Completion)
  /-- TDEF (R353). -/
  | tdef (pd : Pd) (tile : BitVec 5) (t0 : Target)
  /-- TSET (R354). -/
  | tset (pd : Pd) (state : TileState) (tile : BitVec 5) (t0 : Target)
  /-- TSTATE (R355). -/
  | tstate (pd : Pd) (tile : BitVec 5) (t0 : Target)
  /-- BMODE (R360). -/
  | bmode (pd : Pd) (bank : BitVec 2) (mode : BankMode) (intlv : Bool) (t0 : Target)
  /-- PERMIT (R356). -/
  | permit (pd : Pd) (tile : BitVec 5) (t0 : Target)
  /-- BINV (R365). -/
  | binv (pd : Pd) (tile : BitVec 5) (t0 : Target)
  /-- BLOAD (R364). -/
  | bload (pd : Pd) (td ta : BitVec 5) (ct : Completion)
  /-- MMA (R367). -/
  | mma (pd : Pd) (ta tb : BitVec 5) (ct : Completion)
  /-- MMAZ (R367). -/
  | mmaz (pd : Pd) (ta tb : BitVec 5) (ct : Completion)
  /-- MZERO (R371). -/
  | mzero (pd : Pd) (t1 t0 : Target)
  /-- MRD (R371). -/
  | mrd (pd : Pd) (t1 t0 : Target)
  /-- MRDA (R371). -/
  | mrda (pd : Pd) (t1 t0 : Target)
  /-- MSTAT (R372). -/
  | mstat (pd : Pd) (t1 t0 : Target)
  /-- RSETUP (R404). -/
  | rsetup (pd : Pd) (t1 t0 : Target)
  /-- RSTEP (R405). -/
  | rstep (pd : Pd) (t1 t0 : Target)
  /-- RBARY (R406). -/
  | rbary (pd : Pd) (t1 t0 : Target)
  /-- RAYXF (R407). -/
  | rayxf (pd : Pd) (t1 t0 : Target)
  /-- RAYBOX (R408). -/
  | raybox (pd : Pd) (t1 t0 : Target)
  /-- RAYTRI (R409). -/
  | raytri (pd : Pd) (t1 t0 : Target)
  /-- MIGR (R410). -/
  | migr (pd : Pd)
  /-- SEQGET (R412). -/
  | seqget (pd : Pd) (t1 t0 : Target)
  /-- SEQWAIT (R413). -/
  | seqwait (pd : Pd) (t1 t0 : Target)
  /-- BLEND (R414). -/
  | blend (pd : Pd) (t1 t0 : Target)
  /-- COLD_RESET (R19). -/
  | coldReset
  /-- MODULE_RESET (R19). -/
  | moduleReset
  /-- DIE_RESET (R19). -/
  | dieReset
  /-- BRINGUP_PHASE (R19). -/
  | bringupPhase
  /-- GOVERNOR_INTERVAL (R12). -/
  | governorInterval
  /-- STEP_TRANSITION_END (R10). -/
  | stepTransitionEnd
  /-- THERMAL_BAND_ENTERED (R15). -/
  | thermalBandEntered
  /-- THERMAL_TRIP (R15). -/
  | thermalTrip
  /-- HUB_PWR_CAP_WRITE (R16). -/
  | hubPwrCapWrite
  /-- EMERGENCY_HOLD_SET (R20). -/
  | emergencyHoldSet
  /-- EMERGENCY_HOLD_RELEASE (R20). -/
  | emergencyHoldRelease
  /-- SWITCH_PACKET_ARRIVAL (R31). -/
  | switchPacketArrival
  /-- HEADER_STORE_ENTRY (R33). -/
  | headerStoreEntry
  /-- FLIT_DEPART (R34). -/
  | flitDepart
  /-- FLIT_REPLAY (R24). -/
  | flitReplay
  /-- STREAM_OPEN (R35). -/
  | streamOpen
  /-- OPEN_RECEIVE (R35). -/
  | openReceive
  /-- REFUSE_RECEIVE (R35). -/
  | refuseReceive
  /-- OPEN_RETRY (R35). -/
  | openRetry
  /-- GRANT_RECEIVE (R35). -/
  | grantReceive
  /-- PACKET_SEND (R35). -/
  | packetSend
  /-- RREQ_RECEIVE (R38). -/
  | rreqReceive
  /-- RETRANSMIT (R38). -/
  | retransmit
  /-- RETRANSMISSION_TIMEOUT (R36). -/
  | retransmissionTimeout
  /-- ACK_RECEIVE (R36). -/
  | ackReceive
  /-- TRIMMED_HEADER_RECEIVE (R37). -/
  | trimmedHeaderReceive
  /-- RREQ_SEND (R37). -/
  | rreqSend
  /-- DATA_PACKET_RECEIVE (R41). -/
  | dataPacketReceive
  /-- PACKET_DELIVER (R39). -/
  | packetDeliver
  /-- ACK_TIMER (R36). -/
  | ackTimer
  /-- CLOSE_RECEIVE (R40). -/
  | closeReceive
  /-- CLOSED_RECEIVE (R40). -/
  | closedReceive
  /-- STREAM_SELECT (R47). -/
  | streamSelect
  /-- STREAM_RESUME (R42). -/
  | streamResume
  /-- STREAM_ABORT (R42). -/
  | streamAbort
  /-- LINK_DOWN (R56). -/
  | linkDown
  /-- LINK_TRAINED (R54). -/
  | linkTrained
  /-- READ_CLEAR (R3). -/
  | readClear
  /-- REGISTER_WRITE (R3). -/
  | registerWrite
  /-- TREE_OP_START (R60). -/
  | treeOpStart
  /-- TREE_RESULT (R60). -/
  | treeResult
  /-- COLL_PARTIAL_RECEIVE (R62). -/
  | collPartialReceive
  /-- PTP_MESSAGE (R66). -/
  | ptpMessage
  /-- RELEASE_INSTANT (R68). -/
  | releaseInstant
  /-- PHASE_TOKEN (R134). -/
  | phaseToken
  /-- DEADLINE_TOKEN_RECEIVE (R134). -/
  | deadlineTokenReceive
  /-- PHASE_TOKEN_RECEIVE (R134). -/
  | phaseTokenReceive
  /-- FRAME_COMPLETION_REPORT (R68). -/
  | frameCompletionReport
  /-- HOLDOVER_ENTER (R69). -/
  | holdoverEnter
  /-- REL_ENABLE (R71). -/
  | relEnable
  /-- APERTURE_READ (R76). -/
  | apertureRead
  /-- APERTURE_WRITE (R76). -/
  | apertureWrite
  /-- TAIL_WRITE (R94). -/
  | tailWrite
  /-- HUB_INV_PAGE (R80). -/
  | hubInvPage
  /-- HUB_INV_CONTEXT (R80). -/
  | hubInvContext
  /-- HUB_INV_ALL (R80). -/
  | hubInvAll
  /-- INVALIDATION_COMPLETE (R80). -/
  | invalidationComplete
  /-- PAGE_WALK (R79). -/
  | pageWalk
  /-- ATS_TRANSLATION_COMPLETION (R81). -/
  | atsTranslationCompletion
  /-- PRI_RESPONSE (R81). -/
  | priResponse
  /-- ATS_INVALIDATION_REQUEST (R81). -/
  | atsInvalidationRequest
  /-- ATS_INVALIDATION_COMPLETE (R81). -/
  | atsInvalidationComplete
  /-- HOST_SNOOP (R238). -/
  | hostSnoop
  /-- KEY_GENERATE (R85). -/
  | keyGenerate
  /-- KEY_DESTROY (R85). -/
  | keyDestroy
  /-- KEY_COMMAND_DONE (R85). -/
  | keyCommandDone
  /-- ATTEST_REPORT (R88). -/
  | attestReport
  /-- ATTEST_CERTIFICATE (R88). -/
  | attestCertificate
  /-- ATTEST_DONE (R88). -/
  | attestDone
  /-- RECORD_FETCH (R93). -/
  | recordFetch
  /-- NOP_RECORD (R97). -/
  | nopRecord
  /-- JUMP_RECORD (R93). -/
  | jumpRecord
  /-- COPY_RECORD (R96). -/
  | copyRecord
  /-- FILL_RECORD (R96). -/
  | fillRecord
  /-- LAUNCH_RECORD (R101). -/
  | launchRecord
  /-- COLL_RECORD (R61). -/
  | collRecord
  /-- RECORD_COMPLETE (R97). -/
  | recordComplete
  /-- CHAIN_RETRY (R100). -/
  | chainRetry
  /-- CHAIN_SKIP (R100). -/
  | chainSkip
  /-- CHAIN_RESET (R100). -/
  | chainReset
  /-- TOKEN_INJECT (R102). -/
  | tokenInject
  /-- QUEUE_REQUEST (R105). -/
  | queueRequest
  /-- QWAIT_EXPIRY (R107). -/
  | qwaitExpiry
  /-- ENGINE_PUSH_EXPIRY (R105). -/
  | enginePushExpiry
  /-- QUEUE_SELECT (R108). -/
  | queueSelect
  /-- QUEUE_RESET (R108). -/
  | queueReset
  /-- REGION_LOAD (R114). -/
  | regionLoad
  /-- REGION_SELECT (R115). -/
  | regionSelect
  /-- HANG_SET (R168). -/
  | hangSet
  /-- PLACEMENT_SAMPLE (R120). -/
  | placementSample
  /-- BUCKET_STATE_COPY (R124). -/
  | bucketStateCopy
  /-- BUCKET_RELEASE (R124). -/
  | bucketRelease
  /-- REPLICA_FREE (R122). -/
  | replicaFree
  /-- SHARE_REWEIGHT (R129). -/
  | shareReweight
  /-- TOKEN_ARRIVAL (R188). -/
  | tokenArrival
  /-- TOKEN_MATCH (R189). -/
  | tokenMatch
  /-- CREDIT_NOTICE (R186). -/
  | creditNotice
  /-- QUALITY_GATE (R136). -/
  | qualityGate
  /-- PROGRESS_REPORT (R135). -/
  | progressReport
  /-- MARKER_REPORT (R195). -/
  | markerReport
  /-- LAP_UPDATE (R196). -/
  | lapUpdate
  /-- LAP_ACK (R194). -/
  | lapAck
  /-- FRAME_TRAP (R158). -/
  | frameTrap
  /-- TRAP_RESUME (R162). -/
  | trapResume
  /-- PARK_REINJECT (R162). -/
  | parkReinject
  /-- TRAP_KILL (R163). -/
  | trapKill
  /-- KILL_TAGS_FREE (R163). -/
  | killTagsFree
  /-- REGION_SILENT (R169). -/
  | regionSilent
  /-- DRYDOWN (R172). -/
  | drydown
  /-- MARKER_ARRIVAL (R172). -/
  | markerArrival
  /-- CUT_COMPLETE (R172). -/
  | cutComplete
  /-- FREEZE (R173). -/
  | freeze
  /-- FREEZE_COMPLETE (R173). -/
  | freezeComplete
  /-- SAVE (R174). -/
  | save
  /-- REGION_RELEASE (R173). -/
  | regionRelease
  /-- RESTORE (R181). -/
  | restore
  /-- RESTORE_PLACEMENT (R181). -/
  | restorePlacement
  /-- CONFIG_UE (R182). -/
  | configUe
  /-- TILE_ROW_LAND (R205). -/
  | tileRowLand
  /-- TILE_DRAIN_COMPLETE (R205). -/
  | tileDrainComplete
  /-- ROUND_START (R218). -/
  | roundStart
  /-- PARAM_OVERWRITE (R219). -/
  | paramOverwrite
  /-- READ_AHEAD (R220). -/
  | readAhead
  /-- TILE_FILL_START (R224). -/
  | tileFillStart
  /-- SPACE_TOKEN (R226). -/
  | spaceToken
  /-- MEMORY_ACCESS_ARRIVAL (R221). -/
  | memoryAccessArrival
  /-- HELD_ACCESS_PERFORM (R221). -/
  | heldAccessPerform
  /-- RETRY_REISSUE (R221). -/
  | retryReissue
  /-- MEMORY_RESPONSE (R379). -/
  | memoryResponse
  /-- HOME_SLICE_REQUEST (R237). -/
  | homeSliceRequest
  /-- INVALIDATION_ACK (R237). -/
  | invalidationAck
  /-- ATOMICOP_COMPLETION (R254). -/
  | atomicopCompletion
  /-- HOST_READ_COMPLETION (R255). -/
  | hostReadCompletion
  /-- FENCE_COMPLETE (R244). -/
  | fenceComplete
  /-- END_COMPLETE (R322). -/
  | endComplete
  /-- TILE_ENGINE_DONE (R357). -/
  | tileEngineDone
  /-- MATRIX_ROW_STEP (R367). -/
  | matrixRowStep
  /-- LOAD_COMPLETE (R114). -/
  | loadComplete
  /-- DIE_RESET_RELEASE (R19). -/
  | dieResetRelease
  /-- CONFIG_SINGLE_BIT_ERROR (R182). -/
  | configSingleBitError
  deriving DecidableEq, Repr

end Sys2Proof
end

