-- ==== Sys2Proof/Config.lean ====
section
/-!
DEFINITION. What the spec leaves to the surroundings or leaves open: free values without a body, and the
sizes the spec fixes for every module.
-/

namespace Sys2Proof.Config

/-- The stored bits of a byte of device memory that nothing has written since power-on (R75: arbitrary); a free value of
the device physical address (log 2). -/
opaque coldByte : Nat → Byte

/-- Byte i of the n-th key pair that the security processor draws (R82, R85): 32 bytes of data key, then 32 of tweak key;
free (log 6). -/
opaque keyByte : Nat → Nat → Byte

/-- What a reader without a frame finds in a byte whose home die is lost (R237 names the fault of a frame's access alone);
a free value of the device physical address (log 48). -/
opaque lostByte : Nat → Byte

/-- A byte of host memory that no step has written (the host's own, outside the manual); free (log 2). -/
opaque hostByte : Nat → Byte

/-- Whether the host, asked in a hub cycle, lets the device translate a host page (R81, log 53). -/
opaque hostGrants : Nat → Nat → Bool

/-- The BSEED that the security processor draws for the n-th key command (R85); free (log 5). -/
opaque bankSeed : Nat → Dword

/-- The bytes of an attestation report that the manual leaves to cryptography: the identity public key and
the ML-DSA-65 signature (R88), by draw and offset; free (log 5). -/
opaque attestByte : Nat → Nat → Byte

/-- What RAYBOX takes for a slab's bound whose quotient is of two infinities (R408 states none), by MIN or MAX, ORG and
DIR of the axis; free (log 20). -/
opaque infQuotient : Word → Word → Word → Word

/-- A die's activity meter over a governor interval, in millijoules, by interval and die (R12); free (log 7). -/
opaque meter : Nat → Nat → Nat

/-- The power of the hub, memory and link rails over a governor interval, in watts, by interval (R12); free (log 7). -/
opaque rails : Nat → Nat

/-- The coolant inlet temperature that the baseboard reports, by governor interval (R20); free (log 7). -/
opaque inlet : Nat → Nat

/-- What a whole ATOMIC packet leaves at its address, by its operands and what was there (R28); free (log 55). -/
opaque packetAtomic : Nat → Nat → Nat

/-- Fabric dies (R7). -/
def dies : Nat := 8
/-- Columns of a die's mesh (R7). -/
def columns : Nat := 80
/-- Rows of a die's mesh (R7). -/
def rows : Nat := 40
/-- Port cores of a die (R7). -/
def portCores : Nat := 80
/-- Contexts of a module (R6). -/
def contexts : Nat := 1024
/-- Matching-store entries of a cell (R183). -/
def matchEntries : Nat := 2048
/-- Value-buffer lines of a cell (R183). -/
def valueLines : Nat := 512
/-- Input-queue entries of a cell (R183). -/
def queueEntries : Nat := 256
/-- Live tags of a region (R132). -/
def liveTags : Nat := 8192

end Sys2Proof.Config
end

