-- ==== Sys2Proof/Machine/Crypto.lean ====
section
/-!
DEFINITION. The ciphers and digests that the spec names: AES-256 and its XTS mode on the lines of device memory (R82),
SHAKE256 (R17, R86, R87, R88), and the keystream of a cell bank (R84). AES is that of FIPS 197, XTS that of IEEE 1619,
SHAKE256 that of FIPS 202: the spec names them and gives no text of its own (log 6).
-/

namespace Sys2Proof.Machine

/-! ## AES-256 (FIPS 197) -/

/-- The S-box, byte x at bits [8x + 7 : 8x]. -/
def sboxBits : Nat :=
  0x16BB54B00F2D99416842E6BF0D89A18CDF2855CEE9871E9B948ED9691198F8E19E1DC186B95735610EF6034866B53E708A8BBD4B1F74DDE8C6B4A61C2E2578BA08AE7A65EAF4566CA94ED58D6D37C8E779E4959162ACD3C25C2406490A3A32E0DB0B5EDE14B8EE4688902A22DC4F816073195D643D7EA7C41744975FEC130CCDD2F3FF1021DAB6BCF5389D928F40A351A89F3C507F02F94585334D43FBAAEFD0CF584C4A39BECB6A5BB1FC20ED00D153842FE329B3D63B52A05A6E1B1A2C830975B227EBE28012079A059618C323C7041531D871F1E5A534CCF73F362693FDB7C072A49CAFA2D4ADF04759FA7DC982CA76ABD7FE2B670130C56F6BF27B777C63

/-- The inverse S-box, in the same form. -/
def sboxInvBits : Nat :=
  0x7D0C2155631469E126D677BA7E042B17619953833CBBEBC8B0F52AAE4D3BE0A0EF9CC9939F7AE52D0D4AB519A97F51605FEC8027591012B131C7078833A8DD1FF45ACD78FEC0DB9A2079D2C64B3E56FC1BBE18AA0E62B76F89C5291D711AF1476EDF751CE837F9E28535ADE72274AC9673E6B4F0CECFF297EADC674F4111913A6B8A130103BDAFC1020F3FCA8F1E2CD00645B3B80558E4F70AD3BC8C00ABD890849D8DA75746155EDAB9EDFD5048706C92B6655DCC5CA4D41698688664F6F87225D18B6D49A25B76B224D92866A12E084EC3FA420B954CEE3D23C2A632947B54CBE9DEC444438E3487FF2F9B8239E37CFBD7F3819EA340BF38A53630D56A0952

/-- A byte substituted by a table. -/
def subByte (table : Nat) (b : Byte) : Byte := BitVec.ofNat 8 (table / 2 ^ (8 * b.toNat))

/-- Multiplication by x in GF(2^8). -/
def xtime (b : Byte) : Byte := (b <<< 1) ^^^ (if b.toNat.testBit 7 then 0x1B else 0)

/-- A product in GF(2^8). -/
def gfMul (a b : Byte) : Byte :=
  ((List.range 8).foldl (fun (q : Byte × Byte) i => (if b.toNat.testBit i then q.1 ^^^ q.2 else q.1, xtime q.2)) (0, a)).1

/-- Two lists of bytes added bit by bit. -/
def xorBytes (a b : List Byte) : List Byte := (a.zip b).map (fun q => q.1 ^^^ q.2)

/-- The round constant of the n-th key word of eight. -/
def roundConst (n : Nat) : Byte := (List.range (n - 1)).foldl (fun b _ => xtime b) 1

/-- The next word of the key schedule of AES-256, from the eight words before it, the last first. -/
def nextKeyWord (n : Nat) (ws : List (List Byte)) : List Byte :=
  let last := ws.headD []
  let t :=
    if n % 8 = 0 then xorBytes ((last.drop 1 ++ last.take 1).map (subByte sboxBits)) [roundConst (n / 8), 0, 0, 0]
    else if n % 8 = 4 then last.map (subByte sboxBits)
    else last
  xorBytes t (ws.getD 7 [])

/-- The pieces of a list, n elements each. -/
def chunksOf {α : Type} (n count : Nat) (l : List α) : List (List α) := (List.range count).map (fun i => (l.drop (n * i)).take n)

/-- The 15 round keys of a key of 32 bytes, of 16 bytes each. -/
def roundKeys (key : List Byte) : List (List Byte) :=
  let ws := (List.range 52).foldl (fun ws i => nextKeyWord (i + 8) ws :: ws) (chunksOf 4 8 key).reverse
  chunksOf 16 15 ws.reverse.flatten

/-- A column of four bytes under the circulant matrix whose first row is given. -/
def mixColumn (row c : List Byte) : List Byte :=
  (List.range 4).map (fun i => (List.range 4).foldl (fun s j => s ^^^ gfMul (c.getD j 0) (row.getD ((j + 4 - i) % 4) 0)) 0)

/-- Every column of a block mixed. -/
def mixColumns (row b : List Byte) : List Byte := ((chunksOf 4 4 b).map (mixColumn row)).flatten

/-- The rows of a block (byte r + 4 c in row r) rotated left by r, or right. -/
def shiftRows (left : Bool) (b : List Byte) : List Byte :=
  (List.range 16).map (fun i => b.getD (i % 4 + 4 * ((i / 4 + (if left then i % 4 else 4 - i % 4)) % 4)) 0)

/-- A block encrypted under AES-256. -/
def aesEncrypt (key block : List Byte) : List Byte :=
  match roundKeys key with
  | [] => block
  | k0 :: ks =>
    let body := (ks.take 13).foldl (fun b k => xorBytes (mixColumns [2, 3, 1, 1] (shiftRows true (b.map (subByte sboxBits)))) k)
      (xorBytes block k0)
    xorBytes (shiftRows true (body.map (subByte sboxBits))) (ks.getD 13 [])

/-- A block decrypted under AES-256. -/
def aesDecrypt (key block : List Byte) : List Byte :=
  match (roundKeys key).reverse with
  | [] => block
  | k0 :: ks =>
    let undo := fun (b k : List Byte) => xorBytes ((shiftRows false b).map (subByte sboxInvBits)) k
    let body := (ks.take 13).foldl (fun b k => mixColumns [14, 11, 13, 9] (undo b k)) (xorBytes block k0)
    undo body (ks.getD 13 [])

/-! ## XTS on a 64-byte line (R82, IEEE 1619) -/

/-- The little-endian number of some bytes. -/
def leNat (bs : List Byte) : Nat := bs.foldr (fun b n => b.toNat + 256 * n) 0

/-- The n bytes of a little-endian number. -/
def leBytes (n v : Nat) : List Byte := (List.range n).map (fun i => BitVec.ofNat 8 (v / 2 ^ (8 * i)))

/-- The next block's tweak: times x in GF(2^128). -/
def nextTweak (t : Nat) : Nat := (2 * t % 2 ^ 128) ^^^ (if t.testBit 127 then 0x87 else 0)

/-- The tweaks of the four blocks of a line. -/
def tweaks (key : List Byte) (line : Nat) : List (List Byte) :=
  let t0 := leNat (aesEncrypt (key.drop 32) (leBytes 16 line))
  [t0, nextTweak t0, nextTweak (nextTweak t0), nextTweak (nextTweak (nextTweak t0))].map (leBytes 16)

/-- A line under XTS by a block cipher: the key pair is the data key and the tweak key, 32 bytes each. -/
def xts (cipher : List Byte → List Byte → List Byte) (key : List Byte) (line : Nat) (data : List Byte) : List Byte :=
  (((chunksOf 16 4 data).zip (tweaks key line)).map (fun q => xorBytes (cipher (key.take 32) (xorBytes q.1 q.2)) q.2)).flatten

/-- A line encrypted for memory (R82). -/
def xtsEncrypt (key : List Byte) (line : Nat) (data : List Byte) : List Byte := xts aesEncrypt key line data

/-- A line of memory decrypted (R82). -/
def xtsDecrypt (key : List Byte) (line : Nat) (data : List Byte) : List Byte := xts aesDecrypt key line data

/-! ## SHAKE256 (FIPS 202) -/

/-- The round constants of Keccak-f[1600]. -/
def keccakConsts : List Dword :=
  [0x0000000000000001, 0x0000000000008082, 0x800000000000808A, 0x8000000080008000, 0x000000000000808B, 0x0000000080000001,
   0x8000000080008081, 0x8000000000008009, 0x000000000000008A, 0x0000000000000088, 0x0000000080008009, 0x000000008000000A,
   0x000000008000808B, 0x800000000000008B, 0x8000000000008089, 0x8000000000008003, 0x8000000000008002, 0x8000000000000080,
   0x000000000000800A, 0x800000008000000A, 0x8000000080008081, 0x8000000000008080, 0x0000000080000001, 0x8000000080008008]

/-- The rotations of the lanes, lane x + 5 y. -/
def keccakRotations : List Nat :=
  [0, 1, 62, 28, 27, 36, 44, 6, 55, 20, 3, 10, 43, 25, 39, 41, 45, 15, 21, 8, 18, 2, 61, 56, 14]

/-- A lane of the state. -/
def lane (a : List Dword) (x y : Nat) : Dword := a.getD (x % 5 + 5 * (y % 5)) 0

/-- A state from its lanes. -/
def lanes (f : Nat → Nat → Dword) : List Dword := (List.range 25).map (fun i => f (i % 5) (i / 5))

/-- One round of Keccak-f[1600]. -/
def keccakRound (a : List Dword) (rc : Dword) : List Dword :=
  let c := (List.range 5).map (fun x => lane a x 0 ^^^ lane a x 1 ^^^ lane a x 2 ^^^ lane a x 3 ^^^ lane a x 4)
  let d := (List.range 5).map (fun x => c.getD ((x + 4) % 5) 0 ^^^ (c.getD ((x + 1) % 5) 0).rotateLeft 1)
  let a := lanes (fun x y => lane a x y ^^^ d.getD x 0)
  let r := (a.zip keccakRotations).map (fun q => q.1.rotateLeft q.2)
  let b := lanes (fun x y => lane r (x + 3 * y) x)
  let e := lanes (fun x y => lane b x y ^^^ (~~~(lane b (x + 1) y) &&& lane b (x + 2) y))
  e.set 0 (e.getD 0 0 ^^^ rc)

/-- Keccak-f[1600]. -/
def keccakF (a : List Dword) : List Dword := keccakConsts.foldl keccakRound a

/-- The bytes of a state. -/
def laneBytes (a : List Dword) : List Byte := (a.map (fun w => leBytes 8 w.toNat)).flatten

/-- A block of 136 bytes absorbed. -/
def absorb (a : List Dword) (block : List Byte) : List Dword :=
  keccakF (lanes (fun x y => lane a x y ^^^ (if x + 5 * y < 17 then BitVec.ofNat 64 (leNat ((block.drop (8 * (x + 5 * y))).take 8)) else 0)))

/-- The message padded to whole blocks of 136 bytes. -/
def shakePad (bs : List Byte) : List Byte :=
  let n := 135 - bs.length % 136
  if n = 0 then bs ++ [0x9F] else bs ++ [0x1F] ++ List.replicate (n - 1) 0 ++ [0x80]

/-- SHAKE256 with an output of 512 bits (R17, R86, R87). -/
def shake256 (bs : List Byte) : List Byte :=
  let m := shakePad bs
  (laneBytes ((chunksOf 136 (m.length / 136) m).foldl absorb (List.replicate 25 0))).take 64

/-! ## The keystream of a bank (R84) -/

/-- BankMask: the mask of a 64-bit word of bank k. -/
def bankMask (bseed : Dword) (k word : Nat) : Dword :=
  let z := (bseed ^^^ BitVec.ofNat 64 (k * 2 ^ 13 + word)) + 0x9E3779B97F4A7C15
  let z := (z ^^^ (z >>> 30)) * 0xBF58476D1CE4E5B9
  let z := (z ^^^ (z >>> 27)) * 0x94D049BB133111EB
  z ^^^ (z >>> 31)

end Sys2Proof.Machine
end

