-- ==== Sys2Proof/Machine/State.lean ====
section
/-!
DEFINITION. The state of the SL8 as plain data: everything spec/00 to 25 gives the machine, the work that
is outstanding between its units (as lists), and the few fields of the model's own (`Sched`, log 3, log 14).
Tables are lists of (key, value) pairs in one canonical form: keys strictly rising, and no entry equal to
what an unlisted key reads as (`Assoc`, Machine/Assoc.lean).
-/

namespace Sys2Proof.Machine

/-- A sparse table: (key, value) pairs with strictly rising keys. -/
abbrev Assoc (α : Type) := List (Nat × α)

/-! ## Tokens, accords and firings -/

/-- Priority classes (R6, R116), most urgent first. -/
inductive Note where
  | top | heart | base
  deriving DecidableEq, Repr

/-- A token value: its length in bytes and its bits, below 2^(8 len) (R184, R189). -/
structure Val where
  len : Nat := 0
  bits : Nat := 0
  deriving DecidableEq, Repr

/-- One instruction's set of operands in the matching store (R188 to R190): physical window, slot, tag, the
three operand fields, the order of completion, whether a trap accord is issued again (R395), and the ports filled so far with the order
in which their tokens came (R124, R179). -/
structure Accord where
  win : Nat := 0
  slot : Nat := 0
  tag : Tag := 0
  l : Option Val := none
  r : Option Val := none
  p : Option Val := none
  stamp : Nat := 0
  reissue : Bool := false
  came : List (Nat × Port) := []
  deriving DecidableEq, Repr

/-- The firing that an instruction's meaning carries out: the accord, the cell, the region and the window. -/
structure Firing where
  die : Nat := 0
  x : Nat := 0
  y : Nat := 0
  region : Nat := 0
  rwin : Nat := 0
  acc : Accord := {}
  deriving DecidableEq, Repr

/-- Kinds of tokens (R179, R184); `unparked` for one that RESUME has put back (R162). -/
inductive TokKind where
  | operand | arc | response | forwarded | injected | unparked
  deriving DecidableEq, Repr

/-- The pool an input-queue entry was taken from (R127). -/
inductive Pool where
  | none | arc | qextra | shared
  deriving DecidableEq, Repr

/-- Where a token is bound inside a cell (R184): a slot and port, or an input arc. -/
inductive Dest where
  | slot (rwin slot : Nat) (port : Port)
  | arc (rwin arc : Nat)
  deriving DecidableEq, Repr

/-- A token on the mesh or in an input queue (R184, R188). Source and destination cells are die cells; `held`
where its matching-store entry and value lines were held from the choice (R190); `pwin` and `parc` the producer's window and
output arc of an arc token. -/
structure Tok where
  id : Nat := 0
  region : Nat := 0
  sx : Nat := 0
  sy : Nat := 0
  x : Nat := 0
  y : Nat := 0
  dest : Dest := .slot 0 0 .l
  tag : Tag := 0
  val : Val := {}
  kind : TokKind := .operand
  note : Note := .base
  pool : Pool := .none
  held : Bool := false
  pwin : Nat := 0
  parc : Nat := 0
  deriving DecidableEq, Repr

/-- What rides the notice lane (R186): a free-slot notice of an arc (several entries of a FIFO arc). -/
structure Notice where
  id : Nat := 0
  region : Nat := 0
  x : Nat := 0
  y : Nat := 0
  rwin : Nat := 0
  arc : Nat := 0
  count : Nat := 1
  deriving DecidableEq, Repr

/-! ## The cell (spec/09) -/

/-- An output arc of a window (R187, R192): consumer, depth, level and credit; `spilling` names, by the stamps of their accords, the
late results that are to enter the spill queue of an extended arc (R170). -/
structure OutArc where
  cx : Nat := 0
  cy : Nat := 0
  cwin : Nat := 0
  carc : Nat := 0
  depth : Nat := 1
  level : Nat := 0
  fifo : Bool := false
  cred : Nat := 0
  spilling : List Nat := []
  deriving DecidableEq, Repr

/-- An input arc of a window (R187, R192, R193): the slot and port it feeds, its producer, the slots (or FIFO
entries) occupied, and the spill extension of R170: the spill queue `area` of the spill area, the tokens that have left it, those in
it, and the late results on their way to it counted in `pending`; `ring` holds the numbers of the tokens in a FIFO arc's ring, in
order (R195). -/
structure InArc where
  port : Port := .l
  slot : Nat := 0
  px : Nat := 0
  py : Nat := 0
  pwin : Nat := 0
  parc : Nat := 0
  depth : Nat := 1
  level : Nat := 0
  fifo : Option Nat := none
  progress : Bool := false
  occupied : Nat := 0
  extended : Bool := false
  area : Nat := 0
  spilled : Nat := 0
  spill : List Tok := []
  pending : Nat := 0
  ring : List Nat := []
  deriving DecidableEq, Repr

/-- A physical block window (R187): owner region and region-relative number, header, words, share and
pass values of the arbiter by unit (R128, R129, R402), arc table, and the actor and replica it belongs to (R119). -/
structure Window where
  region : Nat := 0
  rwin : Nat := 0
  header : Word := 0
  words : List Word := []
  note : Note := .base
  share : BitVec 4 := 0
  eff : Nat := 0
  pass : Assoc (BitVec 32) := []
  outs : Assoc OutArc := []
  ins : Assoc InArc := []
  actor : Option Nat := none
  replica : Nat := 0
  occSum : Nat := 0
  occSince : Nat := 0
  live : Bool := true
  deriving DecidableEq, Repr

/-- States of a hold register (R199). -/
inductive HoldState where
  | empty | full | pending
  deriving DecidableEq, Repr

/-- A hold register (R198, R199). -/
structure HoldReg where
  st : HoldState := .empty
  val : Dword := 0
  deriving DecidableEq, Repr

/-- A write, flag update or clear that waits for a PENDING register (R199, R262). -/
inductive HoldWait where
  | write (region frm : Nat) (h : BitVec 5) (val : Dword)
  | flags (region frm : Nat) (fl : BitVec 5)
  deriving DecidableEq, Repr

/-- One of the 16 frame slots of a cell (R198): taken for (region, FRM). -/
structure FrameSlot where
  region : Nat := 0
  frm : Nat := 0
  regs : Assoc HoldReg := []
  deriving DecidableEq, Repr

/-- A bank's mapping (R200, R201, R209), the seed of the mask under which its words are stored, its owner's BSEED at the claim
(R84), and, in FIFO mode, the ring's head and entries in use (R193). -/
structure Bank where
  mode : BankMode := .scratchpad
  intlv : Bool := false
  claimed : Bool := false
  owner : BitVec 10 := 0
  region : Nat := 0
  seed : Dword := 0
  fifoHead : Nat := 0
  fifoCount : Nat := 0
  deriving DecidableEq, Repr

/-- A tile-table entry (R204), field by field; `defined` while the cell's configuration or TDEF names it, and
`tdef` for an entry that TDEF wrote (R353: a reload keeps its copy), `opened` while TSET FILLING lets the transfers
that name it bring their rows (R234, R354). -/
structure Tile where
  defined : Bool := false
  tdef : Bool := false
  opened : Bool := false
  st : TileState := .empty
  bank : BitVec 2 := 0
  fmt : BitVec 6 := 0
  bs : Bool := false
  base : BitVec 11 := 0
  rows : BitVec 10 := 0
  cols : BitVec 12 := 0
  stride : BitVec 12 := 0
  rowsIn : BitVec 11 := 0
  otag : Tag := 0
  deriving DecidableEq, Repr

/-- An accumulator entry (R272): S of 56 bits and E of 10 bits, two's complement. -/
structure AccEntry where
  s : BitVec 56 := 0
  e : BitVec 10 := 0
  deriving DecidableEq, Repr

/-- CELL_FMT (R208). -/
structure CellFmt where
  set : Bool := false
  bs : Bool := false
  vfmt : BitVec 6 := 0
  afmt : BitVec 6 := 0
  bfmt : BitVec 6 := 0
  wa : BitVec 5 := 0
  wb : BitVec 5 := 0
  deriving DecidableEq, Repr

/-- CELL_ECC_CNT (R182). -/
structure EccCnt where
  corr : BitVec 16 := 0
  uncorr : BitVec 16 := 0
  deriving DecidableEq, Repr

/-- Operations of the tile engine (R357, R364, R365). -/
inductive EngineKind where
  | trans | poolMax | poolAvg | bload | binv
  deriving DecidableEq, Repr

/-- The operation in the tile engine (R357): its tiles, its L operand and where its completion goes. -/
structure EngineOp where
  kind : EngineKind := .trans
  td : Nat := 0
  ta : Nat := 0
  tb : Nat := 0
  l : Nat := 0
  targets : List Target := []
  firing : Firing := {}
  deriving DecidableEq, Repr

/-- A matrix sequence in progress or interrupted (R367, R369). -/
structure MatSeq where
  zero : Bool := false
  ta : Nat := 0
  tb : Nat := 0
  mt : Nat := 1
  nt : Nat := 1
  bidx : Nat := 0
  row : Nat := 0
  targets : List Target := []
  firing : Firing := {}
  deriving DecidableEq, Repr

/-- A line of the cell cache (R203): the line's VA, owner context (none for a PLAIN line), the bank whose way holds it, and its
bytes. The list is in order of use, most recent first. -/
structure CacheLine where
  va : Nat := 0
  ctx : Option Nat := none
  bank : Nat := 0
  data : List Byte := []
  deriving DecidableEq, Repr

/-- Kinds of fences (R244). -/
inductive FenceKind where
  | acq | rel | full
  deriving DecidableEq, Repr

/-- What completes with a fence: its own result, a TAILADV's offer (R391), or a TLWAIT's end (R393). -/
inductive FenceThen where
  | send
  | tail (chain : Nat) (value : Dword)
  deriving DecidableEq, Repr

/-- An outstanding FENCE (R244, R382): its firing, kind, scope, targets and the accesses of Before(F), queue pops and peeks
among them (R245); once they have performed on their die, `settled`, and `before` names the stores whose other dies have
still to answer. `hostRead` while the read of R255 is outstanding, `readDone` once it has returned. -/
structure Fence where
  id : Nat := 0
  firing : Firing := {}
  kind : FenceKind := .full
  scope : Scope := .cell
  targets : List Target := []
  before : List Nat := []
  settled : Bool := false
  hostRead : Bool := false
  readDone : Bool := false
  andThen : FenceThen := .send
  pool : Pool := .none
  deriving DecidableEq, Repr

/-- A BMODE in its steps 1 and 2 (R202): the accord that it fired with, by stamp, window and slot, and the banks whose mapping it
changes. -/
structure ModeOp where
  stamp : Nat := 0
  win : Nat := 0
  slot : Nat := 0
  banks : List Nat := []
  deriving DecidableEq, Repr

/-- A cell (R183); `ownReads` the stores still under way (region, FRM, access) whose value a load of a frame has returned from the
cell cache (R241). Keys: windows 0-7, tiles 0-31, accumulator items 32 m + n, bank bytes 2^16 k + offset; by
region id: rng, the input-queue entries taken of each pool (R127), and the matching-store entries and value lines
held for results on their way (R190), the dequeues not reported and the fabric cycle of the first of them (R135). -/
structure Cell where
  windows : Assoc Window := []
  matching : List Accord := []
  waiting : List Accord := []
  queue : List Tok := []
  frames : List FrameSlot := []
  holdWaits : List HoldWait := []
  banks : Assoc Bank := []
  bytes : Assoc Byte := []
  tiles : Assoc Tile := []
  acc : Assoc AccEntry := []
  accOwner : Option Nat := none
  rng : Assoc Word := []
  fmt : CellFmt := {}
  ecc : EccCnt := {}
  engine : Option EngineOp := none
  seqs : List MatSeq := []
  cache : List CacheLine := []
  fences : List Fence := []
  ownReads : List (Nat × Nat × Nat) := []
  modeOps : List ModeOp := []
  collCount : Assoc Nat := []
  qextraUsed : Assoc Nat := []
  sharedUsed : Assoc Nat := []
  heldEntries : Assoc Nat := []
  heldLines : Assoc Nat := []
  dequeued : Assoc Nat := []
  unreported : Assoc Nat := []
  deriving DecidableEq, Repr

/-! ## Memory accesses, tile transfers and port cores (spec/10, 11, 18) -/

/-- What an access does when it performs (R376 to R386). -/
inductive AccessOp where
  /-- LD. -/
  | ld
  /-- LDH into a hold register. -/
  | ldh (h : BitVec 5)
  /-- ST of the low bytes of the data. -/
  | st (data : Nat)
  /-- PFT. -/
  | pft
  /-- A wave position filled without effect: a consumed accord (R190). -/
  | skip
  /-- MNOP over the ranks a to b of its iteration (R378); `n` positions still to pass. -/
  | mnop (last : Nat)
  | scas64 (cmp new : Nat)
  | scas128 (cmp new : Nat)
  | sadd (v : Nat)
  | sswap (v : Nat)
  | amoadd (v : Nat)
  | amomin (v : Nat)
  | amomax (v : Nat)
  /-- LDT and STT of tile j (R380). -/
  | ldt (j : Nat)
  | stt (j : Nat) (retain : Bool)
  deriving DecidableEq, Repr

/-- Where an access stands. -/
inductive Phase where
  /-- Held in the cell's memory unit behind a fence (R382). -/
  | fenced (fence : Nat)
  /-- On its way from the cell to the port core. -/
  | travel
  /-- Held in a wave window (R221). -/
  | held
  /-- Refused, in the cell's retry buffer (R221), and whether the window notice has come. -/
  | retry (noticed : Bool)
  /-- Waiting for a page walk (R79). -/
  | walk
  /-- At the home slice (R237). -/
  | home
  /-- At the host port (R238, R254, R255). -/
  | host
  /-- LDT or STT under way as a transfer (R380). -/
  | moving
  /-- Stopped at its sequence point by a fault of its frame (R164). -/
  | stopped
  deriving DecidableEq, Repr

/-- A translation held by a TLB or a die's translation cache (R79). `va` and `size` are bytes. -/
structure TlbEntry where
  ctx : Nat := 0
  va : Nat := 0
  size : Nat := 0
  addr : Nat := 0
  host : Bool := false
  coh : Bool := false
  plain : Bool := false
  w : Bool := false
  d : Bool := false
  deriving DecidableEq, Repr

/-- A memory access of a cell (R376, R377, R221). `core` is the port core's key 80 die + index; `wseq` is none
on a random-class binding; `va`, `fmt`, `half` and `entry` are its element's address, format code, 4-bit half and
translation once it performs; `noFill` where the line it returns may lack a store of its own cell (R242). -/
structure Access where
  id : Nat := 0
  firing : Firing := {}
  port : Nat := 0
  core : Nat := 0
  op : AccessOp := .ld
  pos : Nat := 0
  wseq : Option Nat := none
  target : Target := .discard
  pool : Pool := .none
  phase : Phase := .travel
  va : Nat := 0
  fmt : Nat := 0
  half : Bool := false
  entry : TlbEntry := {}
  noFill : Bool := false
  deriving DecidableEq, Repr

/-- A response on its way to the cell (R379): a value for the access's targets, or an LDH's register. -/
structure Response where
  id : Nat := 0
  firing : Firing := {}
  targets : List Target := []
  vals : List Val := []
  pool : Pool := .none
  hold : Option (BitVec 5) := none
  line : Option CacheLine := none
  deriving DecidableEq, Repr

/-- Kinds of tile transfers. -/
inductive XferKind where
  /-- A fill of a destination tile from memory, by AGN round or LDT (R224, R380). -/
  | fill
  /-- A drain of a source tile to memory, by AGN round or STT (R224, R380). -/
  | drain
  deriving DecidableEq, Repr

/-- A tile transfer (R224 to R228): tile j of a round of binding `port`, into or out of buffer b; `begun` once its tiles
have left EMPTY or READY (R205); `row` of `rows` rows have moved; `access` is the LDT or STT behind it, if any; `pass`
the pass of R231; `faulted` while it waits for the RESUME of its frame; `owed` the destinations (cell, tile) whose tile has
still to become READY (R225). -/
structure Xfer where
  id : Nat := 0
  region : Nat := 0
  port : Nat := 0
  kind : XferKind := .fill
  tile : Nat := 0
  buffer : Nat := 0
  row : Nat := 0
  rows : Nat := 0
  tag : Tag := 0
  retain : Bool := false
  access : Option Nat := none
  pass : Nat := 0
  begun : Bool := false
  faulted : Bool := false
  owed : List (Nat × Nat) := []
  deriving DecidableEq, Repr

/-- A space token or TSET EMPTY / PERMIT notice on its way to a join unit (R226, R356). -/
structure Space where
  id : Nat := 0
  region : Nat := 0
  port : Nat := 0
  buffer : Nat := 0
  tag : Tag := 0
  reply : Option (Firing × List Target) := none
  deriving DecidableEq, Repr

/-- The round in progress of an AGN (R218): its tag, the next position or tile, the positions or tiles in all; `delivered`
the tiles done, or the position below which every one has been accessed, and `gone` those accessed above it; the elements
read ahead (position, code) of R220, those among them that proved uncorrectable (R381), and the pass of R231. -/
structure Round where
  tag : Tag := 0
  next : Nat := 0
  total : Nat := 0
  tiles : Nat := 0
  readAhead : List (Nat × Nat) := []
  bad : List Nat := []
  delivered : Nat := 0
  gone : List Nat := []
  pass : Nat := 0
  faulted : Bool := false
  deriving DecidableEq, Repr

/-- One dimension of a shape record (R215). -/
structure Dim where
  ext : BitVec 24 := 0
  padb : BitVec 8 := 0
  pada : BitVec 8 := 0
  stride : BitVec 48 := 0
  deriving DecidableEq, Repr

/-- Access classes (R220). -/
inductive AccClass where
  | streaming | random | ordered
  deriving DecidableEq, Repr

/-- Padding modes (R215, R216). -/
inductive PadMode where
  | zero | replicate | none
  deriving DecidableEq, Repr

/-- A shape record (R215). -/
structure Shape where
  base : BitVec 57 := 0
  bs : Bool := false
  fmt : BitVec 6 := 0
  ndim : Nat := 1
  write : Bool := false
  cls : AccClass := .streaming
  ovl : Bool := false
  pad : PadMode := .zero
  note : Note := .base
  dims : List Dim := []
  deriving DecidableEq, Repr

/-- Binding modes (R214). -/
inductive BindMode where
  | element | tile | conv
  deriving DecidableEq, Repr

/-- A destination of a binding (R293): cell of the region, tile, window and completion target. -/
structure BindDest where
  x : Nat := 0
  y : Nat := 0
  tile : Nat := 0
  rwin : Nat := 0
  target : Target := .discard
  deriving DecidableEq, Repr

/-- A binding of a region (R214, R293). -/
structure Binding where
  p : Nat := 0
  offset : Nat := 0
  agn : Nat := 0
  core : Nat := 0
  mode : BindMode := .element
  stg : Nat := 0
  nbuf : Nat := 1
  div : Bool := false
  kh : Nat := 0
  kw : Nat := 0
  dilh : Nat := 0
  dilw : Nat := 0
  sh : Nat := 0
  sw : Nat := 0
  cb : Nat := 0
  ows : Nat := 0
  ix : Nat := 0
  iy : Nat := 0
  iwin : Nat := 0
  start : Target := .discard
  param : Target := .discard
  endt : Target := .discard
  dests : List BindDest := []
  shape : Shape := {}
  deriving DecidableEq, Repr

/-- The state of an AGN that serves a binding (R214, R218, R219): starts and PARAM tokens waiting, the pending
overwrite, the round in progress, and how many of each buffer's permits are given (R226). -/
structure Agn where
  region : Nat := 0
  port : Nat := 0
  shape : Shape := {}
  starts : List Accord := []
  params : List Accord := []
  pending : Option Dword := none
  round : Option Round := none
  busyBufs : List Nat := []
  joins : Assoc Nat := []
  deriving DecidableEq, Repr

/-- A wave-table entry (R221): NEXTW of (region, FRM, binding), and the stop of R164. -/
structure Wave where
  region : Nat := 0
  frm : Nat := 0
  port : Nat := 0
  nextw : Word := 0
  stop : Option Nat := none
  deriving DecidableEq, Repr

/-- An input row in the line buffer (R228, R230): the AGN whose round it serves, the row, the strip and channel block, its
codes, column by column, and the scale bytes of each column (R260). -/
structure LineRow where
  agn : Nat := 0
  row : Nat := 0
  strip : Nat := 0
  block : Nat := 0
  codes : List Nat := []
  scales : List (List Nat) := []
  deriving DecidableEq, Repr

/-- A port core (R211, R235), but for the lines of its data cache, which `State.caches` holds; `turn` the client that its
block-transfer engine served last: an AGN, or 8 for its chain (R227). -/
structure PortCore where
  off : Bool := false
  agns : Assoc Agn := []
  waves : List Wave := []
  tlb : List TlbEntry := []
  lines : List LineRow := []
  turn : Nat := 0
  deriving DecidableEq, Repr

/-! ## Regions (spec/06, 08, 13) -/

/-- A parsed ARCS record (R292). -/
structure ArcRec where
  px : Nat := 0
  py : Nat := 0
  pwin : Nat := 0
  parc : Nat := 0
  cx : Nat := 0
  cy : Nat := 0
  cwin : Nat := 0
  carc : Nat := 0
  depth : Nat := 0
  level : Nat := 0
  port : Port := .l
  slot : Nat := 0
  progress : Bool := false
  fifo : Bool := false
  bank : Nat := 0
  deriving DecidableEq, Repr

/-- A block of a CELLS record (R275, R291). -/
structure BlockRec where
  rwin : Nat := 0
  share : BitVec 4 := 0
  header : Word := 0
  words : List Word := []
  deriving DecidableEq, Repr

/-- A CELLS record (R291). -/
structure CellRec where
  x : Nat := 0
  y : Nat := 0
  modes : List BankMode := []
  intlv01 : Bool := false
  intlv23 : Bool := false
  tiles : Assoc Tile := []
  blocks : List BlockRec := []
  consts : List (Nat × Nat × List Dword) := []
  deriving DecidableEq, Repr

/-- An ACTORS record (R119, R294). -/
structure ActorRec where
  actor : Nat := 0
  wins : Nat := 0
  elastic : Bool := false
  hi : Nat := 0
  lo : Nat := 0
  minr : Nat := 0
  maxr : Nat := 0
  dn : Nat := 0
  hold : Nat := 0
  ksrc : Nat := 0
  khi : Nat := 0
  klo : Nat := 0
  blog : Nat := 0
  sbank : Nat := 0
  sbase : Nat := 0
  ssize : Nat := 0
  deriving DecidableEq, Repr

/-- A PRIMES record (R295). -/
structure PrimeRec where
  x : Nat := 0
  y : Nat := 0
  rwin : Nat := 0
  slot : Nat := 0
  tag : Tag := 0
  deriving DecidableEq, Repr

/-- A region configuration image (R290 to R295), parsed. -/
structure Image where
  sys : Bool := false
  length : Nat := 0
  ctx : Nat := 0
  width : Nat := 1
  height : Nat := 1
  wpc : Nat := 1
  banks : Nat := 0
  qextra : Nat := 0
  fmtWord : Word := 0
  seed : Word := 0
  hang : Word := 0
  ptotal : Nat := 0
  margin : Nat := 0
  quota : List Nat := []
  parkVa : Nat := 0
  parkSize : Nat := 0
  spillVa : Nat := 0
  spillSize : Nat := 0
  cells : List CellRec := []
  arcs : List ArcRec := []
  bindings : List Binding := []
  actors : List ActorRec := []
  groups : List (Nat × List (Nat × Nat)) := []
  frames : List (Nat × Nat) := []
  primes : List PrimeRec := []
  signature : Word := 0
  deriving DecidableEq, Repr

/-- States of a region (R115). -/
inductive RegionState where
  | loading | running | draining | frozen
  deriving DecidableEq, Repr

/-- A wrap in progress (R194): the cells that have not taken the new lap, and the acknowledgements on their way. -/
structure Wrap where
  cells : List (Nat × Nat) := []
  acks : List (Nat × Nat) := []
  deriving DecidableEq, Repr

/-- A frame of the tag allocator (R194, R312): level, LAP, wraps, NEXT, live iterations (ITR, GEN), PARENT,
lap markers outstanding (lap, the marker's number among the tokens, arcs 64 (8 cell + window) + arc not yet passed), the wrap in progress, and kill and release progress. -/
structure FrameRec where
  frm : Nat := 0
  level : Nat := 0
  lap : BitVec 2 := 0
  wraps : Nat := 0
  next : BitVec 12 := 0
  live : List (Nat × Nat) := []
  parent : Option Tag := none
  markers : List (Nat × Nat × List Nat) := []
  marked : List Nat := []
  wrap : Option Wrap := none
  returned : Bool := false
  killed : Bool := false
  deriving DecidableEq, Repr

/-- Kinds of tag requests (R311 to R313). -/
inductive AskKind where
  | iter | frame
  deriving DecidableEq, Repr

/-- A waiting tag request (R133, R311). -/
structure TagAsk where
  kind : AskKind := .iter
  level : Nat := 0
  stamp : Nat := 0
  targets : List Target := []
  firing : Firing := {}
  deriving DecidableEq, Repr

/-- An entry of the park area (R159, R179), in park order. A trap accord keeps its operands together. -/
inductive Parked where
  | token (t : Tok)
  | accord (f : Firing)
  deriving DecidableEq, Repr

/-- A bucket move (R124): bucket, from, to, and step 1 to 4. -/
structure Move where
  bucket : Nat := 0
  src : Nat := 0
  dst : Nat := 0
  step : Nat := 1
  deriving DecidableEq, Repr

/-- An actor's placement (R119 to R124): the cells of the image's placement, replica cells, bucket owners, moves, samples;
`leaving` the replicas that R122 frees, `freed` the indices that no replica holds any more, `held` the tokens that a bucket's new owner holds, forwarded ones by their kind. -/
structure Actor where
  cfg : ActorRec := {}
  placed : List (Nat × Nat) := []
  replicas : List (Nat × Nat) := []
  buckets : List Nat := []
  moves : List Move := []
  high : Bool := false
  low : Nat := 0
  since : Nat := 16
  leaving : List Nat := []
  freed : List Nat := []
  held : List Tok := []
  deriving DecidableEq, Repr

/-- Progress of a drydown or freeze (R172, R173). -/
inductive Stop where
  | none
  /-- Drydown: cells that have taken their marker. -/
  | drydown (cells : List (Nat × Nat))
  | freeze
  deriving DecidableEq, Repr

/-- Why a region stops (R159, R169, R172, R173, R182). -/
inductive FreezeCause where
  | request | drydown | tagx | deadlock | parkFull | configUe
  deriving DecidableEq, Repr

/-- A region (R110, R115). -/
structure Region where
  id : Nat := 0
  die : Nat := 0
  x0 : Nat := 0
  y0 : Nat := 0
  w : Nat := 1
  h : Nat := 1
  ctx : Nat := 0
  st : RegionState := .running
  imageVa : Nat := 0
  image : Image := {}
  imageBytes : List Byte := []
  chain : Nat := 0
  ordinal : Nat := 0
  note : Note := .base
  hndl : Nat := 0
  priv : Bool := false
  disp : Bool := false
  frame : Dword := 0
  ql : Nat := 0
  lowered : Option Nat := none
  count : Nat := 0
  hang : Nat := 0
  silentFor : Nat := 0
  margin : Nat := 0
  quota : List Nat := []
  frames : List FrameRec := []
  asks : List TagAsk := []
  trapSet : List Nat := []
  park : List Parked := []
  parkKept : List Parked := []
  actors : List Actor := []
  inject : List (Nat × Nat × Nat) := []
  stop : Stop := .none
  cause : FreezeCause := .request
  ended : Bool := false
  complete : Bool := false
  posted : Bool := false
  inflight : List Tok := []
  lastUe : Option Nat := none
  lastSpill : Option Nat := none
  resuming : List Nat := []
  pool : List (Nat × Nat) := []
  deriving DecidableEq, Repr

/-! ## Faults (spec/08) -/

/-- The fault classes (R156). -/
inductive FaultClass where
  | cmdFormat | cmdEngine | cmdToken | cfgIllop | cfgRsvd | cfgFormat | cfgNoprime | cfgShape | cfgAlign
  | cfgBusy | cfgGroup | cfgPlace | cfgQuota | cfgUe | cfgFlacon | pageNp | pageWp | ptFormat | hostPage
  | agnAlign | sysAtomicUnsup | memUe | dataLost | qwait | qInvalid | tagx | stale | deadlock | hempty
  | parkFull | trap | bkpt | priv | linkStarve | linkDown | treeShape | dieLost
  deriving DecidableEq, Repr

/-- A fault record (R155): class, context, tag, WHERE, cycle and the two bodies as little-endian numbers. -/
structure FaultRec where
  cls : FaultClass := .trap
  ctx : Nat := 0
  tag : Tag := 0
  loc : Word := 0
  bodyA : Nat := 0
  cycle : Dword := 0
  bodyB : Nat := 0
  deriving DecidableEq, Repr

/-- A trap report at a die scheduler (R158 step 1): the frame, its trap accord (none for STALE and the
memory-port faults, whose access stays at its port core) and the record. -/
structure TrapReport where
  region : Nat := 0
  frm : Nat := 0
  accord : Option Firing := none
  rcd : FaultRec := {}
  deriving DecidableEq, Repr

/-! ## Dies (spec/01, 06, 08) -/

/-- SCH_PWR_STATUS (R16). -/
structure PwrStatus where
  step : BitVec 3 := 0
  throttle : Bool := false
  tripped : Bool := false
  temp : BitVec 11 := 0
  budget : BitVec 16 := 0
  deriving DecidableEq, Repr

/-- SCH_REG_IMG, SCH_REG_CTL and SCH_REG_STAT (R115). -/
structure SchReg where
  img : BitVec 57 := 0
  busy : Bool := false
  code : BitVec 2 := 0
  x0 : BitVec 7 := 0
  y0 : BitVec 6 := 0
  stat : Dword := 0
  deriving DecidableEq, Repr

/-- SCH_TRAP_CTL (R161). -/
structure SchTrap where
  busy : Bool := false
  refused : Bool := false
  frm : BitVec 8 := 0
  x0 : BitVec 7 := 0
  y0 : BitVec 6 := 0
  deriving DecidableEq, Repr

/-- SCH_HANG (R168). -/
structure SchHang where
  hang : Word := 0
  x0 : BitVec 7 := 0
  y0 : BitVec 6 := 0
  deriving DecidableEq, Repr

/-- SCH_PRE_CTL, SCH_PRE_IMG, SCH_PRE_LIM and SCH_PRE_SIZE (R174). -/
structure SchPre where
  busy : Bool := false
  code : BitVec 3 := 0
  x0 : BitVec 7 := 0
  y0 : BitVec 6 := 0
  img : BitVec 57 := 0
  lim : BitVec 40 := 0
  size : BitVec 40 := 0
  deriving DecidableEq, Repr

/-- SCH_BKPT (R398). -/
structure SchBkpt where
  mask : BitVec 16 := 0
  ctx : BitVec 10 := 0
  deriving DecidableEq, Repr

/-- An entry of the die's group table (R117): owner context and member cells. -/
structure Group where
  ctx : Nat := 0
  members : List (Nat × Nat) := []
  deriving DecidableEq, Repr

/-- A contribution to a tree operation (R60): its number among the machine's accesses and fences (R245, R389), the cell, its elements,
and where the result goes. `coll` names the (chain, ordinal, chunk) of a COLLREC's contribution (R61, R394). -/
structure Contribution where
  id : Nat := 0
  x : Nat := 0
  y : Nat := 0
  op : Nat := 0
  val : Val := {}
  targets : List Target := []
  firing : Firing := {}
  pool : Pool := .none
  coll : Option (Nat × Nat × Nat) := none
  deriving DecidableEq, Repr

/-- The k-th operation of a group on a die's tree (R60): members fixed at the first contribution. -/
structure TreeOpn where
  id : Nat := 0
  group : Nat := 0
  ctx : Nat := 0
  note : Note := .base
  members : List (Nat × Nat) := []
  contribs : List Contribution := []
  active : Bool := false
  bad : Bool := false
  deriving DecidableEq, Repr

/-- A quality gate at a die scheduler (R136, R320), with the input-queue entry of each of its tokens. -/
structure Gate where
  firing : Firing := {}
  targets : List Target := []
  pools : List Pool := []
  deriving DecidableEq, Repr

/-- A fabric die (R7, R16, R115, R161, R168, R174, R398). -/
structure Die where
  pwr : PwrStatus := {}
  transition : Bool := false
  moved : Bool := false
  band : Nat := 0
  demand : Option Nat := none
  fabCycles : Dword := 0
  netCycles : Dword := 0
  reg : SchReg := {}
  trapCtl : SchTrap := {}
  hangReg : SchHang := {}
  pre : SchPre := {}
  bkpt : SchBkpt := {}
  groups : Assoc Group := []
  tree : List TreeOpn := []
  tcache : List TlbEntry := []
  phases : Assoc Nat := []
  gates : List Gate := []
  reports : List TrapReport := []
  loading : Option Nat := none
  deriving DecidableEq, Repr

/-! ## The hub (spec/01, 03, 04, 05) -/

/-- The public key whose signatures the parts of the model's reset state bear (log 5). -/
def factoryKey : List Byte := List.replicate 1952 0

/-- An image of a firmware stage (R86), field by field; `signed` whether its signature verifies under its key (R87, log 5). -/
structure Firmware where
  magic : Word := 0x57464C53
  stage : Nat := 1
  reserved : Nat := 0
  version : Word := 0
  length : Nat := 0
  digest : List Byte := shake256 []
  key : List Byte := factoryKey
  signed : Bool := true
  padding : Nat := 0
  body : List Byte := []
  deriving DecidableEq, Repr

/-- An entry of the defect map (R17): type, die, x or unit, y, and the bytes reserved. -/
structure Defect where
  kind : Nat := 1
  die : Nat := 0
  x : Nat := 0
  y : Nat := 0
  reserved : Nat := 0
  deriving DecidableEq, Repr

/-- The defect map (R17), field by field; `signed` whether its signature verifies under its key (log 5). -/
structure DefectMap where
  magic : Word := 0x4D444C53
  version : BitVec 16 := 1
  serial : Nat := 0
  reserved : Nat := 0
  entries : List Defect := []
  key : List Byte := factoryKey
  signed : Bool := true
  deriving DecidableEq, Repr

/-- What stands in the module's flash, ROM and PUF, and whether training succeeds (R17, R18, R19, R86, R87, R88): plain data
that no step changes (log 5). `rom` is the vendor key digest; `enabled`, `clockLimits` (by die, the lowest STEP) and `linkPorts` are the part configuration of the signed
firmware; `puf` to `hostLink` say how the steps of bring-up that only the hardware decides come out. -/
structure Flash where
  rom : List Byte := shake256 factoryKey
  stages : List Firmware := [{ stage := 1 }, { stage := 2 }, { stage := 3 }]
  map : DefectMap := {}
  enabled : BitVec 8 := 0xFF
  clockLimits : Assoc Nat := []
  linkPorts : Nat := 18
  puf : Bool := true
  lpddr : Bool := true
  dieFail : BitVec 8 := 0
  network : Bool := true
  hostLink : Bool := true
  cxl : Bool := true
  certificate : List Byte := []
  deriving DecidableEq, Repr

/-- A context descriptor as the hub read it (R77, R92, R153): `bad` where a reserved field or a range makes it invalid
although it can be read. -/
structure Desc where
  bad : Bool := false
  vec : Nat := 0
  root : Nat := 0
  bseed : Dword := 0
  chtab : Nat := 0
  tlbase : Nat := 0
  qtab : Nat := 0
  fqn : Nat := 0
  fqbase : Nat := 0
  fqctl : Nat := 0
  fasz : Nat := 0
  farea : Nat := 0
  deriving DecidableEq, Repr

/-- A command record fetched by an engine (R95, R97): its ordinal, VA and 64 bytes, and how far it is. -/
structure CmdRec where
  ordinal : Nat := 0
  va : Nat := 0
  bits : Nat := 0
  started : Bool := false
  stamp : Nat := 0
  complete : Bool := false
  status : Nat := 0
  work : Nat := 0
  pushed : Bool := false
  deriving DecidableEq, Repr

/-- A chain table entry as the hub read it (R91). -/
structure ChainEntry where
  kind : Nat := 0
  index : Nat := 0
  note : Note := .base
  start : Nat := 0
  deriving DecidableEq, Repr

/-- A chain (R91 to R100). `recs` are the records fetched whose completion TL does not cover yet. -/
structure Chain where
  entry : Option ChainEntry := none
  invalid : Bool := false
  tail : Dword := 0
  walked : Dword := 0
  tl : Dword := 0
  nextVa : Nat := 0
  recs : List CmdRec := []
  halted : Option Nat := none
  deriving DecidableEq, Repr

/-- Operations on a hardware queue (R105). -/
inductive QKind where
  | push | pop | peek | enginePush
  deriving DecidableEq, Repr

/-- A queue operation at the hub (R105, R387): of an instruction (firing, targets) or of an engine's record. -/
structure QOp where
  id : Nat := 0
  kind : QKind := .push
  ctx : Nat := 0
  queue : Nat := 0
  rcd : Nat := 0
  lim : Nat := 0
  arrived : Nat := 0
  firing : Firing := {}
  targets : List Target := []
  pool : Pool := .none
  chain : Nat := 0
  ordinal : Nat := 0
  deriving DecidableEq, Repr

/-- A hardware queue (R103 to R105): whether its entry has been read, and N and BASE of a valid one. -/
structure HwQueue where
  read : Bool := false
  entry : Option (Nat × Nat) := none
  head : Dword := 0
  tail : Dword := 0
  pushes : List QOp := []
  pops : List QOp := []
  deriving DecidableEq, Repr

/-- A context as the hub holds it (R77, R93, R103). -/
structure Ctx where
  desc : Option Desc := none
  chains : Assoc Chain := []
  queues : Assoc HwQueue := []
  deriving DecidableEq, Repr

/-- A launch or an accepted restore that waits for a region (R101, R112, R181). -/
structure Waiting where
  ctx : Nat := 0
  ordinal : Nat := 0
  note : Note := .base
  stamp : Nat := 0
  intervals : Nat := 0
  dieMask : Nat := 0
  image : Image := {}
  imageBytes : List Byte := []
  tokens : List (Nat × Nat × Nat) := []
  disp : Bool := false
  ql : Nat := 0
  frame : Dword := 0
  cfgVa : Nat := 0
  hndl : Nat := 0
  flacon : Option (List Byte) := none
  deriving DecidableEq, Repr

/-- A page walk queued or active at the hub (R79). -/
structure Walk where
  ctx : Nat := 0
  vpn : Nat := 0
  write : Bool := false
  die : Nat := 0
  core : Nat := 0
  note : Note := .base
  deriving DecidableEq, Repr

/-- An ATS translation request of a host page (R81): the walk that asked for it, the leaf that the walk gave, and whether a PRI Page
Request is outstanding for it. -/
structure AtsReq where
  walk : Walk := {}
  leaf : TlbEntry := {}
  pri : Bool := false
  deriving DecidableEq, Repr

/-- HUB_APER (R76). -/
structure Aper where
  plain : Bool := false
  ctx : BitVec 10 := 0
  base : BitVec 48 := 0
  deriving DecidableEq, Repr

/-- HUB_INV (R80). -/
structure InvReg where
  op : BitVec 2 := 0
  busy : Bool := false
  ctx : BitVec 10 := 0
  vpn : BitVec 41 := 0
  deriving DecidableEq, Repr

/-- HUB_CHAIN_CTL (R100). -/
structure ChainCtl where
  busy : Bool := false
  refused : Bool := false
  ctx : BitVec 10 := 0
  chain : BitVec 6 := 0
  deriving DecidableEq, Repr

/-- HUB_Q_CTL (R108). -/
structure QCtl where
  refused : Bool := false
  ctx : BitVec 10 := 0
  queue : BitVec 5 := 0
  deriving DecidableEq, Repr

/-- HUB_RESTORE_IMG and HUB_RESTORE_CTL (R180). -/
structure RestoreReg where
  img : BitVec 57 := 0
  busy : Bool := false
  refused : Bool := false
  dieMask : BitVec 8 := 0
  ctx : BitVec 10 := 0
  deriving DecidableEq, Repr

/-- SEC_KEYCMD (R85). -/
structure KeyCmd where
  busy : Bool := false
  refused : Bool := false
  ctx : BitVec 10 := 0
  deriving DecidableEq, Repr

/-- SEC_ATTEST (R88). -/
structure AttestReg where
  busy : Bool := false
  op : BitVec 2 := 1
  buf : BitVec 48 := 0
  deriving DecidableEq, Repr

/-- Which reset the bring-up in progress belongs to (R19). -/
inductive ResetKind where
  | cold | moduleReset
  deriving DecidableEq, Repr

/-- The hub's registers and the state of its engines other than network, links and release; `sideband` the thermal events (die, TEMP)
that the hub has raised on the management sideband (R15, R20), `bar4` the size of BAR4 as a power of two (R73), `walkWait` the walk
requests that wait at the translation caches (R79), and `priLimit` the Outstanding Page Request allocation of the host (R81). -/
structure Hub where
  phase : BitVec 4 := 0
  dieOk : BitVec 8 := 0
  homes : BitVec 8 := 0
  err : BitVec 4 := 0
  ready : Bool := false
  halted : Bool := false
  kind : ResetKind := .cold
  puf : Bool := false
  dieBusy : BitVec 8 := 0
  cap : BitVec 13 := 0x1068
  hold : Bool := false
  rails : Nat := 0
  sideband : List (Nat × Nat) := []
  ctxBase : BitVec 32 := 0
  aper : Aper := {}
  bar4 : Nat := 41
  inv : InvReg := {}
  evtBase : BitVec 52 := 0
  evtHead : Dword := 0
  evtTail : Dword := 0
  evtLost : Word := 0
  evtOver : Bool := false
  chainCtl : ChainCtl := {}
  qCtl : QCtl := {}
  qHead : Dword := 0
  qTail : Dword := 0
  restore : RestoreReg := {}
  ageLim : BitVec 16 := 0x0040
  keyCmd : KeyCmd := {}
  attest : AttestReg := {}
  keys : Assoc Nat := []
  keyDraws : Nat := 0
  cycles : Dword := 0
  intervals : Nat := 0
  ctxs : Assoc Ctx := []
  waiting : List Waiting := []
  lastDie : Nat := 7
  walks : List Walk := []
  walkWait : List Walk := []
  priLimit : Nat := 4096
  ats : List AtsReq := []
  atsInv : List (Nat × Nat) := []
  qreqs : List QOp := []
  irqs : List Nat := []
  msix : Assoc Word := []
  atomicOps : Bool := true
  hostRead : Dword := 0
  deriving DecidableEq, Repr

/-! ## Memory (spec/04, 11) -/

/-- The owner of a stored line (R82, R443): none for a line in the clear, else the context and the number of
the key pair that its slot held at the write. -/
abbrev Owner := Option (Nat × Nat)

/-- A line in a port core's data cache or an L2 slice (R83, R211, R212, R236, R237): the line's key, its holder (port
core 80 die + index, or slice 640 + 16 die + number), the owner that tags it (none for a shared line), whether it is
dirty, whether an invalidation is on its way to it, and its 64 bytes in the clear. -/
structure CLine where
  line : Nat := 0
  holder : Nat := 0
  owner : Owner := none
  dirty : Bool := false
  stale : Bool := false
  data : List Byte := []
  deriving DecidableEq, Repr

/-- An invalidation whose acknowledgement the home slice waits for (R237): the line, the die asked, and the
access whose store it belongs to. -/
structure Ack where
  line : Nat := 0
  die : Nat := 0
  access : Nat := 0
  deriving DecidableEq, Repr

/-! ## The routed network, links, collectives and release (spec/02, 03) -/

/-- A packet: its header fields (R27), HCRC as received, and its payload bytes (none on a trimmed header).
Addresses are module [17:14], die [13:10], endpoint [9:0]. -/
structure Pkt where
  dst : Nat := 0
  src : Nat := 0
  cls : Nat := 0
  kind : Nat := 0
  trim : Bool := false
  retx : Bool := false
  last : Bool := false
  ord : Bool := false
  len : Nat := 0
  ctx : Nat := 0
  stream : Nat := 0
  seq : Nat := 0
  tag : Nat := 0
  addr : Nat := 0
  tcnt : Nat := 0
  dgrp : Nat := 0
  sgrp : Nat := 0
  rsvd : Nat := 0
  hcrc : Nat := 0
  payload : List Byte := []
  deriving DecidableEq, Repr

/-- A switch output (R30 to R34, R44, R46): thresholds, trim counters, the three data queues with the flits left
of each packet, the packet in service, the header stores by input, and the round-robin and last-slot state. -/
structure SwOut where
  thrTop : BitVec 7 := 0x20
  thrHeart : BitVec 7 := 0x30
  thrBase : BitVec 7 := 0x40
  cntTop : BitVec 48 := 0
  cntHeart : BitVec 48 := 0
  cntBase : BitVec 48 := 0
  qTop : List (Pkt × Nat) := []
  qHeart : List (Pkt × Nat) := []
  qBase : List (Pkt × Nat) := []
  service : Option Note := none
  stores : Assoc (List Pkt) := []
  rr : Nat := 0
  lastSil : Bool := false
  deriving DecidableEq, Repr

/-- A switch input (R33): packets whose heads have arrived, SILLAGE headers in the 8 receive slots, those that the endpoint
behind the input holds for want of a slot, and the trimmed header that pauses the input with the output it waits for. -/
structure SwIn where
  data : List Pkt := []
  sil : List Pkt := []
  wait : List Pkt := []
  paused : Option (Nat × Pkt) := none
  deriving DecidableEq, Repr

/-- NET_ERR_CNT (R48). -/
structure ErrCnt where
  hcrc : BitVec 16 := 0
  malformed : BitVec 16 := 0
  deriving DecidableEq, Repr

/-- What a stream's operation is (R40): a command record, a MIGR record stream, a collective, an activation stream, or the
release engine's tokens. -/
inductive StreamOwner where
  | record (ctx chain ordinal : Nat)
  | migr (region port die : Nat)
  | coll (ctx chain ordinal : Nat)
  | act (id : Nat)
  | release
  | outside
  deriving DecidableEq, Repr

/-- What a source still has to send on a stream: a copy or fill of `left` bytes, token values in order, or the tokens of an
activation stream. -/
inductive Feed where
  | copy (src dst left : Nat)
  | fill (dst left pattern done : Nat)
  | act (id : Nat)
  | tokens (ts : List (Nat × Nat × Val)) (final : Bool)
  deriving DecidableEq, Repr

/-- States of a stream entry (R35, R42, R47). -/
inductive StreamState where
  | opening | refused | open | closing | starved
  deriving DecidableEq, Repr

/-- A send-table entry (R35, R36, R38, R43): `kept` holds each packet sent and not yet covered by an ACK with the cycle at
which its timer started, `resend` the SEQ and TCNT of each re-request, `via` the module that relays its path (R56), `rto` the RTO of
its opening (R45); SEQ values here are not reduced modulo 2^24. -/
structure SendStream where
  index : Nat := 0
  stream : Nat := 0
  dst : Nat := 0
  cls : Note := .base
  ord : Bool := false
  ctx : Nat := 0
  st : StreamState := .opening
  limit : Nat := 0
  next : Nat := 0
  feed : Feed := .tokens [] true
  sentLast : Bool := false
  kept : List (Pkt × Nat) := []
  since : Nat := 0
  resend : List (Nat × Nat) := []
  trims : BitVec 16 := 0
  retx : BitVec 16 := 0
  dups : BitVec 16 := 0
  owner : StreamOwner := .outside
  via : Option Nat := none
  rto : BitVec 5 := 0x10
  deriving DecidableEq, Repr

/-- A hole of a receive stream (R37, R42): SEQ, TCNT, whether its RREQ is out or still paced, the packet's TAG
and ADDR from its trimmed header, and the cycle at which that header arrived. -/
structure Hole where
  seq : Nat := 0
  tcnt : Nat := 0
  sent : Bool := false
  starved : Bool := false
  tag : Nat := 0
  addr : Nat := 0
  kind : Nat := 0
  born : Nat := 0
  deriving DecidableEq, Repr

/-- A receive-table entry (R35 to R43): `cum` the lowest SEQ not delivered, `held` the whole packets not delivered, `seen`
the SEQs delivered above `cum`, `granted` and `acked` the points of the last GRANT and ACK, `since` the cycle at which the
oldest packet not acknowledged arrived, `via` the module that relays its path (R56), `kmax` the KMAX of its opening (R45), `fed` the
regions into which a MIGR stream has delivered (R177). -/
structure RecvStream where
  index : Nat := 0
  src : Nat := 0
  stream : Nat := 0
  cls : Note := .base
  ord : Bool := false
  ctx : Nat := 0
  st : StreamState := .open
  win : Nat := 16
  limit : Nat := 0
  cum : Nat := 0
  held : List Pkt := []
  seen : List Nat := []
  holes : List Hole := []
  last : Option Nat := none
  closeAsked : Bool := false
  granted : Nat := 0
  acked : Nat := 0
  unacked : Bool := false
  since : Nat := 0
  trims : BitVec 16 := 0
  retx : BitVec 16 := 0
  dups : BitVec 16 := 0
  via : Option Nat := none
  kmax : BitVec 4 := 8
  fed : List Nat := []
  deriving DecidableEq, Repr

/-- An endpoint (R35 to R48): NET_PACE, NET_EP_CFG, NET_ERR_CNT, NET_STREAM_SEL and STAT0-3, its tables, packets
received and not yet taken, operations that wait for a send entry, and by source address the cycle after the last RREQ. -/
structure Endpoint where
  kmax : BitVec 4 := 8
  gap : BitVec 16 := 0x0040
  rto : BitVec 5 := 0x10
  win : BitVec 9 := 0x010
  err : ErrCnt := {}
  sel : Word := 0
  stat0 : Word := 0
  stat1 : Word := 0
  stat2 : Word := 0
  stat3 : Word := 0
  sends : List SendStream := []
  recvs : List RecvStream := []
  inbox : List Pkt := []
  wants : List SendStream := []
  nextStream : Nat := 0
  paced : Assoc Nat := []
  deriving DecidableEq, Repr

/-- States of a link port (R55). -/
inductive LinkState where
  | down | training | up | miswire
  deriving DecidableEq, Repr

/-- A link port (R53 to R55), the peer's SILLAGE receive slots that its headers hold (R33, R53), and the packets that left on it
for the peer module. -/
structure Link where
  st : LinkState := .down
  peer : BitVec 8 := 0
  replays : BitVec 16 := 0
  slots : Nat := 0
  sent : List Pkt := []
  deriving DecidableEq, Repr

/-- A COLL record in progress (R61, R62): its fields, the members by rank (16 group + module), the chunks (engine, die, chunk) that
the dies' trees have sent, the chunks (engine, die, chunk, value) that have reached their engines, the partials of the own shard by
rank that are combined and those that wait in the owner's engine, the partials sent to other ranks, and its STATUS once it has ended. -/
structure Coll where
  ctx : Nat := 0
  chain : Nat := 0
  ordinal : Nat := 0
  op : Nat := 0
  elems : Nat := 0
  group : Nat := 0
  dieMask : Nat := 0
  dst : Nat := 0
  cid : Nat := 0
  engine : Nat := 0
  members : List Nat := []
  rank : Nat := 0
  fed : List (Nat × Nat × Nat) := []
  chunks : List (Nat × Nat × Nat × Val) := []
  partials : List (Nat × List Word) := []
  incoming : List (Nat × List Word) := []
  sent : List (Nat × List Word) := []
  status : Option Nat := none
  deriving DecidableEq, Repr

/-- An activation stream (R151), from an output arc of a producer's window to an input arc of a consumer's, whose ends the
surroundings set up (log 54): the addresses of the two port cores, the STREAM number, the ends that lie in this module (the ordinal of
the LAUNCH record of each region, its cell in region coordinates, window and arc), the credit of the consumer's arc that its port core
holds, and the producer's tokens that wait to be sent. -/
structure ActStream where
  id : Nat := 0
  src : Nat := 0
  goal : Nat := 0
  stream : Nat := 0
  ctx : Nat := 0
  note : Note := .base
  launch : Nat := 0
  x : Nat := 0
  y : Nat := 0
  rwin : Nat := 0
  arc : Nat := 0
  opened : Bool := false
  queue : List (Tag × Val) := []
  claunch : Nat := 0
  cx : Nat := 0
  cy : Nat := 0
  cwin : Nat := 0
  carc : Nat := 0
  cred : Nat := 0
  deriving DecidableEq, Repr

/-- LOCK of REL_STATUS (R71). -/
inductive LockState where
  | free | acquiring | locked | holdover
  deriving DecidableEq, Repr

/-- A display output (R68, R70, R71): REL_OUT and REL_SURF_BASE, and the frame and surface address it shows. -/
structure RelOut where
  en : Bool := false
  fmt : BitVec 3 := 0
  stride : BitVec 16 := 0
  base : BitVec 57 := 0
  shown : Option (Nat × Nat) := none
  deriving DecidableEq, Repr

/-- A token of the release engine on its way to a die scheduler (R67, R134). -/
inductive RelToken where
  | deadline (frame : Nat)
  | phase (frame k : Nat)
  deriving DecidableEq, Repr

/-- The release engine (R66 to R71): registers, disciplined time, the next instant and phase, completions on
their way, the tokens that have reached each die scheduler, the offset still to slew and the nanoseconds since it was last
corrected, whether the servo has ever locked (R69), and the hub cycle of the last PTP message. -/
structure Release where
  en : Bool := false
  ptpSrc : Bool := false
  nsurf : BitVec 4 := 2
  ctx : BitVec 10 := 0
  domain : BitVec 8 := 0
  t0sec : BitVec 48 := 0
  t0ns : BitVec 30 := 0
  period : Dword := 0x00FE502AAAAAAAAB
  lock : LockState := .free
  ebound : BitVec 14 := 0x3FFF
  done : Dword := 0
  miss : Dword := 0
  lastMiss : Dword := 0
  outs : Assoc RelOut := []
  sec : Nat := 0
  ns : Nat := 0
  running : Bool := false
  instant : Nat := 0
  phase : Nat := 0
  reports : List Nat := []
  tokens : Assoc (List RelToken) := []
  slew : Int := 0
  slewed : Nat := 0
  everLocked : Bool := false
  heard : Dword := 0
  deriving DecidableEq, Repr

/-! ## The order of steps (the model's own) -/

/-- The operands of a machine step that has no word: what moves, where, and what the surroundings supply
(log 3). A step reads the fields that its meaning names and ignores the rest. -/
structure Args where
  die : Nat := 0
  x : Nat := 0
  y : Nat := 0
  region : Nat := 0
  frm : Nat := 0
  id : Nat := 0
  ctx : Nat := 0
  chain : Nat := 0
  ordinal : Nat := 0
  queue : Nat := 0
  port : Nat := 0
  arc : Nat := 0
  actor : Nat := 0
  sw : Nat := 0
  out : Nat := 0
  inp : Nat := 0
  ep : Nat := 0
  src : Nat := 0
  stream : Nat := 0
  seq : Nat := 0
  link : Nat := 0
  offset : Nat := 0
  size : Nat := 8
  value : Dword := 0
  temp : Nat := 0
  flag : Bool := false
  list : List Nat := []
  deriving DecidableEq, Repr

/-- The model's own fields (log 3, log 14): the steps put first, the operands of the step being carried out, the
firing being carried out, the arbiter's choice not yet carried out, whether the last firing was not ready, the cell and those of its
units (16 cell + a bit for each) that have fired in this cycle, and the counters. -/
structure Sched where
  agenda : List (Instr × Args) := []
  args : Args := {}
  cur : Firing := {}
  chosen : Option Firing := none
  blocked : Bool := false
  turn : Nat := 0
  fresh : Nat := 0
  nextId : Nat := 1
  stamp : Nat := 0
  deriving DecidableEq, Repr

/-! ## The whole machine -/

/-- The SL8. Keys: dies 0-7; cells 3200 die + 80 y + x; ports 80 die + index; switch outputs and inputs
128 switch + number, with switch 24 die + s and the hub switch 192; switch error counters by switch;
endpoints 1024 die + number, with die 8 the hub; links 0-17; `mem` by DPA and `hostMem` by host address, bytes;
`lineOwner` by DPA / 64; `farDown` holds the pairs of other modules of the group whose link is not UP, as the hubs tell each other
(R56); `caches` holds the lines of the port cores' data caches and of the L2 slices, the most recently
used first. -/
structure State where
  sch : Sched := {}
  hub : Hub := {}
  flash : Flash := {}
  dies : Assoc Die := []
  cells : Assoc Cell := []
  ports : Assoc PortCore := []
  regions : List Region := []
  toks : List Tok := []
  notices : List Notice := []
  accesses : List Access := []
  responses : List Response := []
  xfers : List Xfer := []
  spaces : List Space := []
  outs : Assoc SwOut := []
  ins : Assoc SwIn := []
  swErr : Assoc ErrCnt := []
  eps : Assoc Endpoint := []
  links : Assoc Link := []
  lnkMod : BitVec 8 := 0
  farDown : List (Nat × Nat) := []
  acts : List ActStream := []
  colls : List Coll := []
  rel : Release := {}
  mem : List Host.Cell := []
  lineOwner : Assoc Owner := []
  caches : List CLine := []
  acks : List Ack := []
  hostMem : List Host.Cell := []
  deriving DecidableEq, Repr

/-- A check code of R298. -/
abbrev WordCheckCode := Nat

/-- Why the machine stops. No rule of the spec stops the SL8: every fault of spec/08 is a next state. -/
inductive Fault where
  /-- Raised by `step` alone, where the arbiter's choice names a slot whose word R281 refuses, which no load
  admits (R297); safe: such a word never executes. -/
  | undecodable (check : WordCheckCode)
  deriving DecidableEq, Repr

/-- Why an instruction has no meaning. -/
inductive Refusal where
  /-- Raised by an arm of `exec` whose instruction is not modelled yet; safe: nothing is claimed of it. -/
  | notModelled (mnemonic : String)
  deriving DecidableEq, Repr

/-- The machine right after a cold reset began: phase 0, nothing up, every register at the value that its map
gives (R16, R19, R44, R45, R71, R74), or at zero where the spec gives none (log 1). -/
def State.reset : State := {}

end Sys2Proof.Machine
end

