-- ==== Sys2Proof/Machine/Assoc.lean ====
section
/-!
DEFINITION. Sparse tables in canonical form (`Assoc`), byte memories in canonical form, and the numbers read
from and written to them, little-endian (R2). An unlisted key of a table reads as its default; an unlisted
byte of device or host memory has no value (R75).
-/

namespace Sys2Proof.Machine

variable {α : Type}

/-- The value of key `k`: its entry, else the default `d`. -/
def look (d : α) : Assoc α → Nat → α
  | [], _ => d
  | (k', v) :: t, k => if k = k' then v else look d t k

/-- The table with `v` at key `k`; an entry equal to the default is not listed. -/
def put [DecidableEq α] (d : α) (k : Nat) (v : α) : Assoc α → Assoc α
  | [] => if v = d then [] else [(k, v)]
  | (k', w) :: t =>
    if k < k' then (if v = d then (k', w) :: t else (k, v) :: (k', w) :: t)
    else if k = k' then (if v = d then t else (k, v) :: t)
    else (k', w) :: put d k v t

/-- The table with key `k` changed by `f`. -/
def upd [DecidableEq α] (d : α) (k : Nat) (f : α → α) (l : Assoc α) : Assoc α := put d k (f (look d l k)) l

/-- The canonical form of a table: keys strictly rising, no entry equal to the default. -/
def tableWf [DecidableEq α] (d : α) : Assoc α → Bool
  | [] => true
  | (k, v) :: t =>
    decide (v ≠ d) && (match t with
      | [] => true
      | (k', _) :: _ => decide (k < k')) && tableWf d t

/-! ## Byte memories -/

/-- The byte at an address; none where nothing has written it. -/
def readByte : List Host.Cell → Nat → Option Byte
  | [], _ => none
  | (a', b) :: t, a => if a = a' then some b else readByte t a

/-- The memory with byte `b` at address `a`. -/
def writeByte (a : Nat) (b : Byte) : List Host.Cell → List Host.Cell
  | [] => [(a, b)]
  | (a', c) :: t =>
    if a < a' then (a, b) :: (a', c) :: t
    else if a = a' then (a, b) :: t
    else (a', c) :: writeByte a b t

/-- The memory with the bytes `bs` from address `a` upwards. -/
def writeBytes (a : Nat) : List Byte → List Host.Cell → List Host.Cell
  | [], m => m
  | b :: bs, m => writeBytes (a + 1) bs (writeByte a b m)

/-- The canonical form of a byte memory: addresses strictly rising. -/
def memoryWf : List Host.Cell → Bool
  | [] => true
  | (a, _) :: t =>
    (match t with
      | [] => true
      | (a', _) :: _ => decide (a < a')) && memoryWf t

/-! ## Bytes and numbers -/

/-- A number's `n` low bytes, least significant first (R2). -/
def toBytes : Nat → Nat → List Byte
  | 0, _ => []
  | n + 1, v => BitVec.ofNat 8 v :: toBytes n (v / 256)

/-- The number that bytes stand for, least significant first (R2). -/
def ofBytes : List Byte → Nat
  | [] => 0
  | b :: bs => b.toNat + 256 * ofBytes bs

end Sys2Proof.Machine
end

