-- ==== Sys2Proof/Machine/Bits.lean ====
section
/-!
DEFINITION. Bit fields, signed readings and narrowing of numbers, checksums (R27, R275, R290), and the counting
functions that several families share.
-/

namespace Sys2Proof.Machine

/-- Bits [hi : lo] of a number (R2). -/
def bits (v hi lo : Nat) : Nat := v / 2 ^ lo % 2 ^ (hi + 1 - lo)

/-- Bit `i` of a number. -/
def bit (v i : Nat) : Bool := v / 2 ^ i % 2 == 1

/-- Signed(x) at n bits (R325). -/
def signed (n v : Nat) : Int := if v % 2 ^ n < 2 ^ (n - 1) then (v % 2 ^ n : Nat) else (v % 2 ^ n : Nat) - (2 ^ n : Nat)

/-- An integer modulo 2^n. -/
def wrap (n : Nat) (i : Int) : Nat := (i % ((2 ^ n : Nat) : Int)).toNat

/-- A number of m bits sign-extended to n bits. -/
def signExtend (m n v : Nat) : Nat := wrap n (signed m v)

/-- ceil(a / b). -/
def ceilDiv (a b : Nat) : Nat := (a + b - 1) / b

/-- The number 1 for a true condition, else 0. -/
def bitOf (b : Bool) : Nat := if b then 1 else 0

/-- Floor(log2 v) for v > 0. -/
def ilog2 (v : Nat) : Nat := Nat.log2 v

/-- One step of CRC-16/CCITT on a bit (R27, R275). -/
def crc16Bit (crc : Nat) (b : Bool) : Nat :=
  let top := bit crc 15
  let c := crc * 2 % 65536
  if top != b then c ^^^ 0x1021 else c

/-- CRC-16/CCITT over a byte, most significant bit first. -/
def crc16Byte (crc : Nat) (b : Byte) : Nat :=
  [7, 6, 5, 4, 3, 2, 1, 0].foldl (fun c i => crc16Bit c (bit b.toNat i)) crc

/-- CRC-16/CCITT: polynomial 0x1021, initial value 0xFFFF, no reflection, no final XOR (R27, R275). -/
def crc16 (bs : List Byte) : Nat := bs.foldl crc16Byte 0xFFFF

/-- One byte of CRC-32C, reflected (R290). -/
def crc32cByte (crc : Nat) (b : Byte) : Nat :=
  (List.range 8).foldl (fun c _ => if c % 2 = 1 then (c / 2) ^^^ 0x82F63B78 else c / 2) (crc ^^^ b.toNat)

/-- The CRC of the bytes so far carried over more bytes. The match has each byte's remainder evaluated before the next. -/
def crc32cFrom : List Byte → Nat → Nat
  | [], c => c
  | b :: bs, c =>
    match crc32cByte c b with
    | 0 => crc32cFrom bs 0
    | n + 1 => crc32cFrom bs (n + 1)

/-- CRC-32C (R290): initial value and final XOR 0xFFFF_FFFF. -/
def crc32c (bs : List Byte) : Nat := crc32cFrom bs 0xFFFFFFFF ^^^ 0xFFFFFFFF

/-- A counter that stops at 2^w - 1 (R43, R48, R55, R182). -/
def satInc {w : Nat} (v : BitVec w) : BitVec w := if v.toNat + 1 < 2 ^ w then v + 1 else v

/-- The elements of a list without repeats, the first of each kept. -/
def distinct {α : Type} [DecidableEq α] (l : List α) : List α :=
  l.foldl (fun acc x => if acc.contains x then acc else acc ++ [x]) []

/-- The sum of a list. -/
def sumOf (l : List Nat) : Nat := l.foldl (· + ·) 0

/-- The greatest number of a list, 0 for none. -/
def maxOf (l : List Nat) : Nat := l.foldl max 0

/-- Insertion of an element into a list ordered by `le`, after its equals. -/
def insertBy {α : Type} (le : α → α → Bool) (x : α) : List α → List α
  | [] => [x]
  | y :: t => if le y x then y :: insertBy le x t else x :: y :: t

/-- A list put in the order `le`, equals in their order. -/
def sortBy {α : Type} (le : α → α → Bool) (l : List α) : List α := l.foldl (fun acc x => insertBy le x acc) []

/-- The elements of a list with the index that `p` holds of first, if any. -/
def findIdx {α : Type} (p : α → Bool) : List α → Option Nat
  | [] => none
  | x :: t => if p x then some 0 else (findIdx p t).map (· + 1)

/-- A list without the first element that `p` holds of. -/
def dropFirst {α : Type} (p : α → Bool) : List α → List α
  | [] => []
  | x :: t => if p x then t else x :: dropFirst p t

/-- A list with the first element that `p` holds of changed by `f`. -/
def changeFirst {α : Type} (p : α → Bool) (f : α → α) : List α → List α
  | [] => []
  | x :: t => if p x then f x :: t else x :: changeFirst p f t

end Sys2Proof.Machine
end

