-- ==== Sys2Proof/Machine/Memory.lean ====
section
/-!
DEFINITION. Device memory under its owners' keys (R75, R82, R443), the lines that the dies' caches hold (R83, R236, R237),
address translation by the page walk (R78), and the reads and writes by virtual address that the hub, the engines, the loaders and the die schedulers make
(R154, R159, R171, R176, R290).
-/

namespace Sys2Proof.Machine

/-! ## Dies and defects -/

/-- A fabric die. -/
def State.die (s : State) (d : Nat) : Die := look {} s.dies d

/-- A fabric die changed. -/
def State.updDie (s : State) (d : Nat) (f : Die → Die) : State := { s with dies := upd {} d f s.dies }

/-- Whether die d is up (R15, R19). -/
def State.dieUp (s : State) (d : Nat) : Bool := bit s.hub.dieOk.toNat d

/-- Whether the defect map holds an entry (R17). -/
def State.defect (s : State) (type die x y : Nat) : Bool := 
  s.flash.map.entries.any (fun e => e.kind = type && e.die = die && e.x = x && e.y = y)

/-- GDDR7 channels of die d that the defect map leaves enabled (R7, R17). -/
def State.channels (s : State) (d : Nat) : Nat :=
  ((List.range 6).filter (fun c => !s.defect 5 d c 0)).length

/-! ## Device physical memory (R75) -/

/-- Whether a device physical address is populated (R75): a die lost in bring-up removes its bytes, one lost later does
not. -/
def State.populated (s : State) (dpa : Nat) : Bool :=
  let off := dpa % 0x1000000000
  let unit := dpa / 0x1000000000
  if unit < 8 then bit s.hub.homes.toNat unit && decide (off < 0x1DCD65000 * s.channels unit)
  else decide (0x10 ≤ unit) && decide (unit < 0x20) && decide (off < 0xEE6B28000)

/-! ## Homes (R237, R238) -/

/-- The home die of a device address, or of a coherent host address (R237, R238). -/
def State.homeDieOf (s : State) (host : Bool) (a : Nat) : Nat :=
  if !host && decide (a < 0x8000000000) then bits a 38 36
  else
    let d := bits a 8 6 ^^^ bits a 11 9 ^^^ bits a 14 12 ^^^ bits a 17 15
    ((List.range 8).map (fun i => (d + i) % 8)).find? (fun i => bit s.hub.homes.toNat i) |>.getD d

/-- The home slice of an address on its home die: a disabled slice is replaced by the next enabled one (R17, R237). -/
def State.homeSliceOf (s : State) (host : Bool) (a : Nat) : Nat :=
  let h := bits a 9 6 ^^^ bits a 13 10 ^^^ bits a 17 14 ^^^ bits a 21 18
  (((List.range 16).map (fun i => (h + i) % 16)).find? (fun i => !s.defect 4 (s.homeDieOf host a) i 0)).getD h

/-- Whether a device address can be reached: its home die is up (R237). -/
def State.reached (s : State) (dpa : Nat) : Bool := s.dieUp (s.homeDieOf false dpa)

/-! ## Lines in memory (R82) -/

/-- The key owner of a context (R82, R85): the context and the number of the pair that its slot holds. DESIGN CHOICE (log 52): an
access under a context whose slot is empty, which only the aperture can make (R76), works under number 0 as under a key. -/
def State.owner (s : State) (ctx : Nat) : Owner := some (ctx, look 0 s.hub.keys ctx)

/-- The key pair of an owner, data key and tweak key (R82). -/
def ownerKey (o : Nat × Nat) : List Byte := (List.range 64).map (Config.keyByte o.2)

/-- A line as memory stores it for an owner: encrypted under the owner's keys, or in the clear (R82). -/
def sealLine (o : Owner) (line : Nat) (data : List Byte) : List Byte :=
  match o with
  | none => data
  | some k => xtsEncrypt (ownerKey k) line data

/-- A stored line as an owner reads it (R82). -/
def openLine (o : Owner) (line : Nat) (data : List Byte) : List Byte :=
  match o with
  | none => data
  | some k => xtsDecrypt (ownerKey k) line data

/-- The arbitrary stored bits of a line that nothing has written since power-on (R75). -/
def coldLine (line : Nat) : List Byte := (List.range 64).map (fun i => Config.coldByte (64 * line + i))

/-- A byte of memory as its line's owner reads it: what was written, else what the stored bits give (R75, R82). -/
def State.ownedByte (s : State) (dpa : Nat) : Byte :=
  match readByte s.mem dpa with
  | some b => b
  | none => (openLine (look none s.lineOwner (dpa / 64)) (dpa / 64) (coldLine (dpa / 64))).getD (dpa % 64) 0

/-- A line of memory as its owner reads it. -/
def State.ownedLine (s : State) (line : Nat) : List Byte := (List.range 64).map (fun i => s.ownedByte (64 * line + i))

/-- A byte of memory as a reader under owner `o` finds it (R82): another owner's line is deciphered under the reader's key. -/
def State.memByte (s : State) (o : Owner) (dpa : Nat) : Byte :=
  let line := dpa / 64
  let w := look none s.lineOwner line
  if w = o then s.ownedByte dpa else (openLine o line (sealLine w line (s.ownedLine line))).getD (dpa % 64) 0

/-- A line of memory as a reader under owner `o` finds it. -/
def State.memLine (s : State) (o : Owner) (line : Nat) : List Byte := (List.range 64).map (fun i => s.memByte o (64 * line + i))

/-! ## Lines in the caches (R83, R211, R236, R237) -/

/-- The die of a holder of lines. -/
def holderDie (h : Nat) : Nat := if h < 640 then h / 80 else (h - 640) / 16

/-- The copy of a line that is up to date, for an owner (R83: a lookup hits only under the line's own tag). -/
def State.freshCopy (s : State) (o : Owner) (line : Nat) : Option CLine :=
  s.caches.find? (fun c => c.line = line && c.owner = o && !c.stale)

/-- A device line as an owner's accesses find it: in a cache, else in memory. -/
def State.devLine (s : State) (o : Owner) (line : Nat) : List Byte :=
  match s.freshCopy o line with
  | some c => c.data
  | none => s.memLine o line

/-- The 64 bytes of a line that a cache holds. -/
def CLine.bytes (c : CLine) : List Byte := (c.data ++ List.replicate 64 0).take 64

/-- A line written back to memory under its tag (R82). -/
def State.writeBack (s : State) (c : CLine) : State :=
  { s with mem := writeBytes (64 * c.line) c.bytes s.mem, lineOwner := put none c.line c.owner s.lineOwner }

/-- The byte at a device physical address, as an access under owner `o` finds it (R75, R82, R83): free where its home die is
lost (log 48). -/
def State.devByte (s : State) (o : Owner) (dpa : Nat) : Byte :=
  if !s.reached dpa then Config.lostByte dpa
  else match s.freshCopy o (dpa / 64) with
    | some c => c.data.getD (dpa % 64) 0
    | none => s.memByte o dpa

/-- `n` bytes from a device physical address, as owner `o` reads them. -/
def State.devRead (s : State) (o : Owner) (dpa n : Nat) : List Byte :=
  (List.range n).map (fun i => s.devByte o (dpa + i))

/-- Whether memory holds any written byte of a line. -/
def State.written (s : State) (line : Nat) : Bool := (List.range 64).any (fun i => (readByte s.mem (64 * line + i)).isSome)

/-- A line of memory taken over by owner `o`, with the content that `o` finds in it (R82, R83). -/
def State.ownLine (s : State) (o : Owner) (line : Nat) : State :=
  match s.freshCopy o line with
  | some c => s.writeBack c
  | none =>
    if look none s.lineOwner line = o then s
    else if s.written line || (look none s.lineOwner line).isSome then s.writeBack { line := line, owner := o, data := s.memLine o line }
    else { s with lineOwner := put none line o s.lineOwner }

/-- Bytes stored in memory within one line under owner `o`, over what `o` finds in the line. An unpopulated address
discards them (R76), and one whose home die is lost (log 48). -/
def State.devPut (s : State) (o : Owner) (dpa : Nat) (bs : List Byte) : State :=
  if s.populated dpa && s.reached dpa then
    let s := s.ownLine o (dpa / 64)
    { s with mem := writeBytes dpa bs s.mem }
  else s

/-- Bytes written within one line under owner `o` by the hub or an engine, through the home slice to memory (log 48), and
every copy of the line in the dies' caches ended (R237). -/
def State.devWriteLine (s : State) (o : Owner) (dpa : Nat) (bs : List Byte) : State :=
  let s := s.devPut o dpa bs
  { s with caches := s.caches.filter (fun c => c.line ≠ dpa / 64) }

/-- The pieces of `n` bytes at an address, each within one line: (address, offset, length). -/
def lineParts (a n : Nat) : List (Nat × Nat × Nat) :=
  (List.range (n / 64 + 2)).filterMap (fun i =>
    let lo := max a (64 * (a / 64 + i))
    let hi := min (a + n) (64 * (a / 64 + i + 1))
    if lo < hi then some (lo, lo - a, hi - lo) else none)

/-- Bytes written from a device physical address under owner `o`. -/
def State.devWrite (s : State) (o : Owner) (dpa : Nat) (bs : List Byte) : State :=
  (lineParts dpa bs.length).foldl (fun s q => s.devWriteLine o q.1 ((bs.drop q.2.1).take q.2.2)) s

/-! ## Host memory -/

/-- The byte at a host address. -/
def State.hostByte (s : State) (a : Nat) : Byte := (readByte s.hostMem a).getD (Config.hostByte a)

/-- `n` bytes from a host address. -/
def State.hostRead (s : State) (a n : Nat) : List Byte := (List.range n).map (fun i => s.hostByte (a + i))

/-- Bytes written from a host address; the device's copies of the lines end (R238). -/
def State.hostWrite (s : State) (a : Nat) (bs : List Byte) : State :=
  { s with
    hostMem := writeBytes a bs s.hostMem
    caches := s.caches.filter (fun c => !(decide (2 ^ 60 + a / 64 ≤ c.line) && decide (c.line ≤ 2 ^ 60 + (a + bs.length - 1) / 64))) }

/-! ## Context descriptors (R77, R92, R153) -/

/-- The descriptor that the hub holds of a context (R77). -/
def State.ctx (s : State) (c : Nat) : Ctx := look {} s.hub.ctxs c

/-- A context changed. -/
def State.updCtx (s : State) (c : Nat) (f : Ctx → Ctx) : State :=
  { s with hub := { s.hub with ctxs := upd {} c f s.hub.ctxs } }

/-- The 64-bit word `i` of a context's descriptor, stored in the clear (R443). -/
def State.descWord (s : State) (ctx i : Nat) : Nat :=
  ofBytes (s.devRead none (s.hub.ctxBase.toNat * 65536 + 64 * ctx + 8 * i) 8)

/-- Whether a reserved field of the descriptor's words is set (R77, R92, R153). -/
def descReserved (w : Nat → Nat) : Bool :=
  bits (w 0) 55 48 ≠ 0 || bits (w 0) 11 1 ≠ 0 || bits (w 2) 63 48 ≠ 0 || bits (w 2) 10 0 ≠ 0 || bits (w 3) 63 57 ≠ 0 ||
  bits (w 3) 8 0 ≠ 0 || bits (w 4) 63 48 ≠ 0 || bits (w 4) 9 0 ≠ 0 || bits (w 5) 58 57 ≠ 0 || bits (w 5) 11 0 ≠ 0 ||
  bits (w 6) 63 57 ≠ 0 || bits (w 6) 4 0 ≠ 0 || bit (w 7) 57 || bits (w 7) 15 0 ≠ 0

/-- Whether FQN or FASZ lies outside its range (R153). -/
def descRange (w : Nat → Nat) : Bool :=
  !(decide (4 ≤ bits (w 5) 63 59) && decide (bits (w 5) 63 59 ≤ 16) && decide (16 ≤ bits (w 7) 63 58) && decide (bits (w 7) 63 58 ≤ 30))

/-- Why a descriptor is invalid (R77, R89): 0 V = 0, 1 a reserved field, 3 a range, 2 an empty key slot. Where several apply, the
first in that order is the reason reported: DESIGN CHOICE (log 52), the spec gives no order. -/
def State.descReason (s : State) (ctx : Nat) : Option Nat :=
  let w := s.descWord ctx
  if !bit (w 0) 0 then some 0
  else if descReserved w then some 1
  else if descRange w then some 3
  else if look 0 s.hub.keys ctx = 0 then some 2
  else none

/-- The descriptor of a context read and held (R77), and why it is invalid. -/
def State.readDesc (s : State) (ctx : Nat) : State × Option Nat :=
  let w := s.descWord ctx
  let why := s.descReason ctx
  let d : Desc := {
    bad := why.isSome, vec := bits (w 0) 63 56, root := bits (w 0) 47 12 * 4096, bseed := BitVec.ofNat 64 (w 1),
    chtab := bits (w 2) 47 11 * 2048, tlbase := bits (w 3) 56 9 * 512, qtab := bits (w 4) 47 10 * 1024,
    fqn := bits (w 5) 63 59, fqbase := bits (w 5) 56 0, fqctl := bits (w 6) 56 0, fasz := bits (w 7) 63 58,
    farea := bits (w 7) 56 0 }
  (s.updCtx ctx (fun c => { c with desc := some d }), why)

/-- The descriptor of a context read again (R77), and with it, at their next use, the entries of its queues that are not in use
(R104, log 18). -/
def State.rereadDesc (s : State) (ctx : Nat) : State :=
  ((s.readDesc ctx).1).updCtx ctx (fun c => { c with queues := c.queues.filterMap (fun (q : Nat × HwQueue) =>
    if q.2.head = q.2.tail && q.2.pushes.isEmpty && q.2.pops.isEmpty then none else some q) })

/-- The descriptor of a context that the hub holds, read first where it holds none (log 18). -/
def State.holdDesc (s : State) (ctx : Nat) : State := if (s.ctx ctx).desc.isSome then s else (s.readDesc ctx).1

/-! ## The page walk (R78) -/

/-- The size of the page that a leaf of a level maps, 0 where no leaf is allowed (R78). -/
def leafSize (level : Nat) : Nat :=
  if level = 2 then 0x40000000 else if level = 1 then 0x200000 else if level = 0 then 0x10000 else 0

/-- The index of a VA at a level (R78). -/
def levelIndex (va level : Nat) : Nat :=
  if level = 4 then bits va 56 48 else if level = 3 then bits va 47 39 else if level = 2 then bits va 38 30
  else if level = 1 then bits va 29 21 else bits va 20 16

/-- What a walk answers (R78): the fault with its level, or the translation, whether every entry permits a
write, and the DPAs of its entries from level 4 down, the leaf last. -/
structure WalkEnd where
  entry : TlbEntry := {}
  path : List Nat := []
  deriving DecidableEq, Repr

/-- A page table's entry, read in the clear (R443). -/
def State.tableEntry (s : State) (dpa : Nat) : Nat := ofBytes (s.devRead none dpa 8)

/-- One level of the walk and those below it. A table at an unpopulated address reads as the arbitrary bytes that memory gives there:
DESIGN CHOICE (log 52), the spec names no case for it. One whose home die is lost cannot be read (R166, R237). -/
def State.walkFrom (s : State) (ctx va : Nat) (write : Bool) :
    List Nat → Nat → Bool → List Nat → Except (FaultClass × Nat) WalkEnd
  | [], _, _, _ => .error (.ptFormat, 0)
  | level :: rest, table, w, path =>
    let a := table + 8 * levelIndex va level
    let e := s.tableEntry a
    let addr := 256 * bits e 47 8
    let leaf := bit e 1
    let size := leafSize level
    let w := w && bit e 2
    if !s.reached a then .error (.memUe, level)
    else if !bit e 0 then .error (.pageNp, level)
    else if bits e 63 48 ≠ 0 then .error (.ptFormat, level)
    else if leaf then
      if size = 0 then .error (.ptFormat, level)
      else if addr % size ≠ 0 then .error (.ptFormat, level)
      else if !bit e 3 && bit e 4 then .error (.ptFormat, level)
      else if !bit e 3 && !(s.populated addr && s.populated (addr + size - 1)) then .error (.ptFormat, level)
      else if write && !w then .error (.pageWp, level)
      else .ok {
        entry := { ctx := ctx, va := va / size * size, size := size, addr := addr, host := bit e 3, coh := bit e 4,
                   plain := bit e 5, w := w, d := bit e 7 || write }
        path := path ++ [a] }
    else if level = 0 then .error (.ptFormat, level)
    else if addr % (if level = 1 then 256 else 4096) ≠ 0 then .error (.ptFormat, level)
    else s.walkFrom ctx va write rest addr w (path ++ [a])

/-- The walk of a VA of a context (R78). A context whose descriptor has not been read maps nothing (R77). -/
def State.walk (s : State) (ctx va : Nat) (write : Bool) : Except (FaultClass × Nat) WalkEnd :=
  match (s.ctx ctx).desc with
  | none => .error (.pageNp, 4)
  | some d => s.walkFrom ctx va write [4, 3, 2, 1, 0] d.root true []

/-- A set bit of a page-table entry, by compare-and-swap in the clear (R79, R443). -/
def State.setEntryBits (s : State) (dpa mask : Nat) : State :=
  let e := s.tableEntry dpa
  if e ||| mask = e then s else s.devWrite none dpa (toBytes 8 (e ||| mask))

/-- A and D written for a walk that ended at a leaf (R78): A in every entry, D in the leaf for a write. -/
def State.setAccessed (s : State) (path : List Nat) (write : Bool) : State :=
  match path.getLast? with
  | none => s
  | some leaf =>
    let s := path.foldl (fun s a => s.setEntryBits a 0x40) s
    if write then s.setEntryBits leaf 0x80 else s

/-- The owner under which a page's lines are stored (R82). -/
def State.pageOwner (s : State) (e : TlbEntry) : Owner := if e.plain then none else s.owner e.ctx

/-- The address that a translation gives a VA. -/
def TlbEntry.target (e : TlbEntry) (va : Nat) : Nat := e.addr + (va - e.va)

/-! ## Accesses by VA of the hub, the engines, the loaders and the die schedulers -/

/-- The level of a leaf by its page's size. -/
def sizeLevel (size : Nat) : Nat := if size = 0x40000000 then 2 else if size = 0x200000 then 1 else 0

/-- Whether a page that a unit without a wait of its own reaches may be used now: a host page needs the host's translation, whose
answer, after any Page Request, is the surroundings' (R81, log 53). -/
def State.hostGrants (s : State) (e : TlbEntry) : Bool := !e.host || Config.hostGrants s.hub.cycles.toNat e.addr

/-- `n` bytes at a VA within one line, with the A bits set. -/
def State.vaReadLine (s : State) (ctx va n : Nat) : Except (FaultClass × Nat) (List Byte × State) :=
  match s.walk ctx va false with
  | .error e => .error e
  | .ok w =>
    if !s.hostGrants w.entry then .error (.hostPage, sizeLevel w.entry.size) else
    let a := w.entry.target va
    let bs := if w.entry.host then s.hostRead a n else s.devRead (s.pageOwner w.entry) a n
    .ok (bs, s.setAccessed w.path false)

/-- The pieces of a read by VA, in order. -/
def State.vaReadParts (s : State) (ctx : Nat) : List (Nat × Nat × Nat) → Except (FaultClass × Nat) (List Byte × State)
  | [] => .ok ([], s)
  | q :: t =>
    match s.vaReadLine ctx q.1 q.2.2 with
    | .error e => .error e
    | .ok (bs, s) =>
      match s.vaReadParts ctx t with
      | .error e => .error e
      | .ok (bs', s) => .ok (bs ++ bs', s)

/-- `n` bytes at a VA of a context, or the first translation fault with its level. -/
def State.vaRead (s : State) (ctx va n : Nat) : Except (FaultClass × Nat) (List Byte × State) :=
  s.vaReadParts ctx (lineParts va n)

/-- Bytes written at a VA within one line, with the A and D bits set. -/
def State.vaWriteLine (s : State) (ctx va : Nat) (bs : List Byte) : Except (FaultClass × Nat) State :=
  match s.walk ctx va true with
  | .error e => .error e
  | .ok w =>
    if !s.hostGrants w.entry then .error (.hostPage, sizeLevel w.entry.size) else
    let a := w.entry.target va
    let s := s.setAccessed w.path true
    .ok (if w.entry.host then s.hostWrite a bs else s.devWrite (s.pageOwner w.entry) a bs)

/-- The pieces of a write by VA, in order; a fault leaves the pieces before it written. -/
def State.vaWriteParts (s : State) (ctx : Nat) (bs : List Byte) :
    List (Nat × Nat × Nat) → State × Option (FaultClass × Nat × Nat)
  | [] => (s, none)
  | q :: t =>
    match s.vaWriteLine ctx q.1 ((bs.drop q.2.1).take q.2.2) with
    | .error e => (s, some (e.1, e.2, q.1))
    | .ok s => s.vaWriteParts ctx bs t

/-- Bytes written at a VA of a context: the state, and the first fault with its level and VA. -/
def State.vaWrite (s : State) (ctx va : Nat) (bs : List Byte) : State × Option (FaultClass × Nat × Nat) :=
  s.vaWriteParts ctx bs (lineParts va bs.length)

/-- The little-endian number in `n` bytes at a VA. -/
def State.vaNum (s : State) (ctx va n : Nat) : Except (FaultClass × Nat) (Nat × State) :=
  match s.vaRead ctx va n with
  | .error e => .error e
  | .ok (bs, s) => .ok (ofBytes bs, s)

/-- Whether a range of a context touches a host page (R99). -/
def State.touchesHost (s : State) (ctx va n : Nat) (write : Bool) : Bool :=
  (List.range (n / 65536 + 2)).any (fun i =>
    let a := if i = 0 then va else (va / 65536 + i) * 65536
    decide (a < va + n) && (match s.walk ctx a write with
      | .ok w => w.entry.host
      | .error _ => false))

end Sys2Proof.Machine
end

