-- ==== Sys2Proof/WellFormed.lean ====
section
/-!
DEFINITION. Which terms of `Instr` stand for a word that the loader accepts: the sub-field values that the word checks of
R281 to R289 refuse although the fields could hold them. A machine step has no word and is always well formed.
-/

namespace Sys2Proof

/-- The configuration indices that RDCFG reads (R400). -/
def readableIndices : List Nat :=
  [0x000, 0x001, 0x002, 0x003, 0x010, 0x020, 0x021, 0x030, 0x031, 0x032, 0x033, 0x034, 0x035, 0x036, 0x037, 0x040]

/-- The configuration indices that WRCFG writes (R400). -/
def writableIndices : List Nat :=
  [0x020, 0x021, 0x030, 0x031, 0x032, 0x033, 0x034, 0x035, 0x036, 0x037, 0x040]

/-- Whether an instruction's fields hold only values that the checks of R281 accept: a CVT between two formats (R284), a TRAP
code below 0x3FF0 (R396), an index of RDCFG or WRCFG that R400 assigns, and compute mode only of K0 and K1 (R200). -/
def Instr.wf : Instr → Bool
  | .cvtS _ ft _ _ _ => decide (ft ≠ .s)
  | .cvtH _ ft _ _ _ => decide (ft ≠ .h)
  | .cvtB _ ft _ _ _ => decide (ft ≠ .b)
  | .trap _ imm _ => decide (imm.toNat < 0x3FF0)
  | .rdcfg _ index _ => readableIndices.contains index.toNat
  | .wrcfg _ index _ => writableIndices.contains index.toNat
  | .bmode _ bank mode _ _ => decide (mode = .compute → bank.toNat < 2)
  | .nop .. | .mov .. | .lit .. | .lit32 .. | .steer .. | .gate .. | .gaten .. | .merge .. | .sync .. | .iter ..
  | .nextIter .. | .retire .. | .frame .. | .fret .. | .send .. | .sendm .. | .cnt .. | .bound .. | .tagrd .. | .qlvl ..
  | .rdh .. | .wrh .. | .clrh .. | .tsth .. | .endRegion .. | .add .. | .sub .. | .mul .. | .mulh .. | .mulhu .. | .div ..
  | .divu .. | .rem .. | .remu .. | .and .. | .or .. | .xor .. | .andn .. | .shl .. | .shr .. | .sra .. | .rol .. | .ror ..
  | .cmp .. | .min .. | .max .. | .minu .. | .maxu .. | .bfxu .. | .bfxs .. | .bfi .. | .popc .. | .clz .. | .ctz ..
  | .sel .. | .neg .. | .abs .. | .sx8 .. | .sx16 .. | .sx32 .. | .zx8 .. | .zx16 .. | .zx32 .. | .addi .. | .andi ..
  | .ori .. | .xori .. | .fadd .. | .fsub .. | .fmul .. | .ffma .. | .fdiv .. | .fsqrt .. | .fmin .. | .fmax .. | .fminm ..
  | .fmaxm .. | .fabs .. | .fneg .. | .fcmp .. | .frcp .. | .frsq .. | .fexp2 .. | .flog2 .. | .fsin .. | .fcos ..
  | .frnd .. | .cvtfi .. | .cvtif .. | .cvtifL .. | .cvt8 .. | .cvf8 .. | .fclass .. | .ld .. | .st .. | .ldt .. | .stt ..
  | .ldh .. | .pft .. | .mnop .. | .fenceAcq .. | .fenceRel .. | .fenceFull .. | .scas64 .. | .scas128 .. | .sadd ..
  | .sswap .. | .amot .. | .amoadd .. | .amomin .. | .amomax .. | .qpush .. | .qpop .. | .qpeek .. | .barr .. | .tree ..
  | .tailadv .. | .tlread .. | .tlwait .. | .collrec .. | .trapf .. | .sysqHandle .. | .sysqDie .. | .sysqReplica ..
  | .sysqCtx .. | .yield .. | .bkpt .. | .cyc .. | .vadd .. | .vsub .. | .vmul .. | .vmin .. | .vmax .. | .vscale ..
  | .vcmp .. | .vabs .. | .vneg .. | .vrcp .. | .vrsq .. | .vexp2 .. | .vlog2 .. | .vbcast .. | .vredSum .. | .vredMin ..
  | .vredMax .. | .vcvt .. | .vquant .. | .vfma .. | .vsel .. | .vclamp .. | .vtrans .. | .vpoolmax .. | .vpoolavg ..
  | .tdef .. | .tset .. | .tstate .. | .permit .. | .binv .. | .bload .. | .mma .. | .mmaz .. | .mzero .. | .mrd ..
  | .mrda .. | .mstat .. | .rsetup .. | .rstep .. | .rbary .. | .rayxf .. | .raybox .. | .raytri .. | .migr .. | .seqget ..
  | .seqwait .. | .blend .. | .coldReset | .moduleReset | .dieReset | .bringupPhase | .governorInterval | .stepTransitionEnd
  | .thermalBandEntered | .thermalTrip | .hubPwrCapWrite | .emergencyHoldSet | .emergencyHoldRelease | .switchPacketArrival
  | .headerStoreEntry | .flitDepart | .flitReplay | .streamOpen | .openReceive | .refuseReceive | .openRetry | .grantReceive
  | .packetSend | .rreqReceive | .retransmit | .retransmissionTimeout | .ackReceive | .trimmedHeaderReceive | .rreqSend
  | .dataPacketReceive | .packetDeliver | .ackTimer | .closeReceive | .closedReceive | .streamSelect | .streamResume
  | .streamAbort | .linkDown | .linkTrained | .readClear | .registerWrite | .treeOpStart | .treeResult | .collPartialReceive
  | .ptpMessage | .releaseInstant | .phaseToken | .deadlineTokenReceive | .phaseTokenReceive | .frameCompletionReport
  | .holdoverEnter | .relEnable | .apertureRead | .apertureWrite | .tailWrite | .hubInvPage | .hubInvContext | .hubInvAll
  | .invalidationComplete | .pageWalk | .atsTranslationCompletion | .priResponse | .atsInvalidationRequest
  | .atsInvalidationComplete | .hostSnoop | .keyGenerate | .keyDestroy | .keyCommandDone | .attestReport
  | .attestCertificate | .attestDone | .recordFetch | .nopRecord | .jumpRecord | .copyRecord | .fillRecord | .launchRecord
  | .collRecord | .recordComplete | .chainRetry | .chainSkip | .chainReset | .tokenInject | .queueRequest | .qwaitExpiry
  | .enginePushExpiry | .queueSelect | .queueReset | .regionLoad | .regionSelect | .hangSet | .placementSample
  | .bucketStateCopy | .bucketRelease | .replicaFree | .shareReweight | .tokenArrival | .tokenMatch | .creditNotice
  | .qualityGate | .progressReport | .markerReport | .lapUpdate | .lapAck | .frameTrap | .trapResume | .parkReinject
  | .trapKill | .killTagsFree | .regionSilent | .drydown | .markerArrival | .cutComplete | .freeze | .freezeComplete | .save
  | .regionRelease | .restore | .restorePlacement | .configUe | .tileRowLand | .tileDrainComplete | .roundStart
  | .paramOverwrite | .readAhead | .tileFillStart | .spaceToken | .memoryAccessArrival | .heldAccessPerform | .retryReissue
  | .memoryResponse | .homeSliceRequest | .invalidationAck | .atomicopCompletion | .hostReadCompletion | .fenceComplete
  | .endComplete | .tileEngineDone | .matrixRowStep | .loadComplete | .dieResetRelease | .configSingleBitError => true

end Sys2Proof
end

