-- ==== Sys2Proof/Decode.lean ====
section
/-!
DEFINITION. Decoding of a 32-bit word of a block (R275 to R289), total, each refusal named by the check code
of R298; and, after it, the encoder, whose fields and codes are those of spec/opcode_table.json. A word is
first split into the fields of its format (R278) and then read by its opcode.
-/

namespace Sys2Proof

/-- The word checks of R298, in the order of their codes: 0x10 unassigned opcode, 0x11 unassigned sub-field
value, 0x12 pd not accepted, 0x20 reserved bit set, 0x21 target fails R276. -/
inductive WordCheck where
  | opcode | subfield | predicate | reserved | target
  deriving DecidableEq, Repr

/-- The check code of R298. -/
def WordCheck.code : WordCheck → Nat
  | .opcode => 0x10
  | .subfield => 0x11
  | .predicate => 0x12
  | .reserved => 0x20
  | .target => 0x21

/-- A word of a slot other than a constant: an instruction, or a PRIME, which never fires (R309). -/
inductive SlotWord where
  | instr (i : Instr)
  | prime (imm : BitVec 14) (t0 : Target)
  deriving DecidableEq, Repr

/-- A word split into the fields of its format (R278). -/
inductive Raw where
  | g (op pd x t1 t0 : Nat)
  | i (op pd imm t0 : Nat)
  | m (op pd seq pv nx port t0 : Nat)
  | q (op pd queue lim mode t0 : Nat)
  | t (op pd td ta tb ct : Nat)
  deriving DecidableEq, Repr

/-- Formats (R278). -/
inductive Format where
  | g | i | m | q | t
  deriving DecidableEq, Repr

/-- The format of an opcode (R282 to R289); none for an unassigned opcode (R281). -/
def formatOf (op : Nat) : Option Format :=
  if op = 0x02 ∨ op = 0x0B ∨ op = 0x0E then some .i
  else if op ≤ 0x24 then some .g
  else if op ≤ 0x28 then some .i
  else if op ≤ 0x2F then none
  else if op ≤ 0x47 then some .g
  else if op ≤ 0x4F then none
  else if op = 0x57 then some .g
  else if op = 0x5C then some .t
  else if op ≤ 0x5F then some .m
  else if op = 0x60 then some .q
  else if op = 0x69 ∨ op = 0x6C ∨ op = 0x6E then some .g
  else if op ≤ 0x6D then some .i
  else if op = 0x6F then none
  else if op ≤ 0x72 then some .g
  else if op ≤ 0x75 then some .t
  else if op ≤ 0x77 then some .i
  else if op ≤ 0x7A then some .t
  else if op ≤ 0x7E then some .g
  else none

/-- Bits [lo + len - 1 : lo] of a number. -/
def bitField (w lo len : Nat) : Nat := w / 2 ^ lo % 2 ^ len

/-- The fields of a word (R278). -/
def split (w : Nat) : Option Raw :=
  let op := bitField w 25 7
  let pd := bitField w 23 2
  match formatOf op with
  | none => none
  | some .g => some (.g op pd (bitField w 18 5) (bitField w 9 9) (bitField w 0 9))
  | some .i => some (.i op pd (bitField w 9 14) (bitField w 0 9))
  | some .m => some (.m op pd (bitField w 18 5) (bitField w 16 2) (bitField w 14 2) (bitField w 9 5) (bitField w 0 9))
  | some .q => some (.q op pd (bitField w 18 5) (bitField w 13 5) (bitField w 9 4) (bitField w 0 9))
  | some .t => some (.t op pd (bitField w 18 5) (bitField w 13 5) (bitField w 8 5) (bitField w 0 8))

/-- The word that carries the fields. -/
def Raw.word : Raw → Nat
  | .g op pd x t1 t0 => op * 2 ^ 25 + pd * 2 ^ 23 + x * 2 ^ 18 + t1 * 2 ^ 9 + t0
  | .i op pd imm t0 => op * 2 ^ 25 + pd * 2 ^ 23 + imm * 2 ^ 9 + t0
  | .m op pd seq pv nx port t0 =>
    op * 2 ^ 25 + pd * 2 ^ 23 + seq * 2 ^ 18 + pv * 2 ^ 16 + nx * 2 ^ 14 + port * 2 ^ 9 + t0
  | .q op pd queue lim mode t0 => op * 2 ^ 25 + pd * 2 ^ 23 + queue * 2 ^ 18 + lim * 2 ^ 13 + mode * 2 ^ 9 + t0
  | .t op pd td ta tb ct => op * 2 ^ 25 + pd * 2 ^ 23 + td * 2 ^ 18 + ta * 2 ^ 13 + tb * 2 ^ 8 + ct

/-! ## Codes of the sub-fields -/

/-- A target code read (R276); none for the reserved codes 0x60 to 0x7E of port 00, with bits [8:7] 00. -/
def readTarget (n : Nat) : Except WordCheck Target :=
  let s := BitVec.ofNat 6 (bitField n 0 6)
  let adv := bitField n 6 1 == 1
  match bitField n 7 2 with
  | 1 => .ok (.slot .l adv s)
  | 2 => .ok (.slot .r adv s)
  | 3 => .ok (.slot .p adv s)
  | _ =>
    let c := bitField n 0 7
    if c < 0x40 then .ok (.arc (BitVec.ofNat 6 c))
    else if c < 0x60 then .ok (.hold (BitVec.ofNat 5 (c - 0x40)))
    else if c = 0x7F then .ok .discard
    else .error .target

/-- A completion target ct (R278). -/
def readCt (n : Nat) : Except WordCheck Completion :=
  let s := BitVec.ofNat 6 (bitField n 0 6)
  match bitField n 6 2 with
  | 1 => .ok (.slot .l s)
  | 2 => .ok (.slot .r s)
  | 3 => .ok (.slot .p s)
  | _ => if bitField n 0 6 = 0 then .ok .none else .error .target

/-- pd of an opcode of entry a (R277). -/
def readPd (n : Nat) : Except WordCheck Pd :=
  match n with
  | 0 => .ok .always
  | 1 => .ok .ifTrue
  | 2 => .ok .ifFalse
  | _ => .error .predicate

/-- FT of the scalar float instructions (R284). -/
def readFt (n : Nat) : Except WordCheck FloatFmt :=
  match n with
  | 0 => .ok .s
  | 1 => .ok .h
  | 2 => .ok .b
  | _ => .error .subfield

/-- RM (R261). -/
def readRm (n : Nat) : Rm :=
  match n with
  | 0 => .rn
  | 1 => .rz
  | 2 => .ru
  | _ => .rd

/-- Conditions of CMP (R283). -/
def readIntCond (n : Nat) : Except WordCheck IntCond :=
  match n with
  | 0 => .ok .eq
  | 1 => .ok .ne
  | 2 => .ok .lt
  | 3 => .ok .le
  | 4 => .ok .gt
  | 5 => .ok .ge
  | 6 => .ok .ltu
  | 7 => .ok .leu
  | 8 => .ok .gtu
  | 9 => .ok .geu
  | _ => .error .subfield

/-- Conditions of FCMP (R330). -/
def readFloatCond (n : Nat) : FloatCond :=
  match n with
  | 0 => .eq
  | 1 => .ne
  | 2 => .lt
  | 3 => .le
  | 4 => .gt
  | 5 => .ge
  | 6 => .un
  | _ => .ord

/-- Conditions of VCMP (R342). -/
def readLaneCond (n : Nat) : Except WordCheck LaneCond :=
  match n with
  | 0 => .ok .eq
  | 1 => .ok .ne
  | 2 => .ok .lt
  | 3 => .ok .le
  | 4 => .ok .gt
  | 5 => .ok .ge
  | 6 => .ok .un
  | _ => .error .subfield

/-- Scopes (R240); 101 to 111 are reserved. -/
def readScope (n : Nat) : Except WordCheck Scope :=
  match n with
  | 0 => .ok .cell
  | 1 => .ok .region
  | 2 => .ok .die
  | 3 => .ok .device
  | 4 => .ok .system
  | _ => .error .reserved

/-- Operations of AMOT (R285). -/
def readAmotOp (n : Nat) : Except WordCheck AmotOp :=
  match n with
  | 0 => .ok .add
  | 1 => .ok .add64
  | 2 => .ok .and
  | 3 => .ok .or
  | 4 => .ok .xor
  | 5 => .ok .min
  | 6 => .ok .max
  | 7 => .ok .minu
  | 8 => .ok .maxu
  | 9 => .ok .fmin
  | 10 => .ok .fmax
  | 11 => .ok .swap
  | 12 => .ok .fadd
  | _ => .error .subfield

/-- Operations of TREE (R286, R375): 1 to 9. -/
def readTreeOp (n : Nat) : Except WordCheck TreeOp :=
  match n with
  | 1 => .ok .fsum
  | 2 => .ok .fmin
  | 3 => .ok .fmax
  | 4 => .ok .isum
  | 5 => .ok .imin
  | 6 => .ok .imax
  | 7 => .ok .and
  | 8 => .ok .or
  | 9 => .ok .xor
  | _ => .error .subfield

/-- Tile states (R204). -/
def readTileState (n : Nat) : TileState :=
  match n with
  | 0 => .empty
  | 1 => .filling
  | 2 => .ready
  | _ => .draining

/-- Bank modes (R200). -/
def readBankMode (n : Nat) : BankMode :=
  match n with
  | 0 => .scratchpad
  | 1 => .cache
  | 2 => .fifo
  | _ => .compute

/-! ## The formats read -/

/-- A reserved part that must be 0, else check 0x20 (R281). -/
def zeroed (n : Nat) : Except WordCheck Unit := if n = 0 then .ok () else .error .reserved

/-- A sub-field value that must hold, else check 0x11 (R281). -/
def assigned (b : Bool) : Except WordCheck Unit := if b then .ok () else .error .subfield

/-- An unused target field, which must hold 0x07F (R276). -/
def unusedTarget (n : Nat) : Except WordCheck Unit := if n = 0x7F then .ok () else .error .target

/-- The predicate mode 11 of an opcode of entry 3 (R277). -/
def ternary (pd : Nat) : Except WordCheck Unit := if pd = 3 then .ok () else .error .predicate

/-- The predicate mode 00 of an opcode of entry 0 (R277). -/
def unpredicated (pd : Nat) : Except WordCheck Unit := if pd = 0 then .ok () else .error .predicate

/-- A Format G word with pd of entry a and both targets. -/
def gWord (c : Pd → Target → Target → Instr) (pd t1 t0 : Nat) : Except WordCheck Instr := do
  let p ← readPd pd
  let b ← readTarget t1
  let a ← readTarget t0
  return c p b a

/-- A Format G word of entry 3. -/
def gWord3 (c : Target → Target → Instr) (pd t1 t0 : Nat) : Except WordCheck Instr := do
  ternary pd
  let b ← readTarget t1
  let a ← readTarget t0
  return c b a

/-- A Format G word that uses no target. -/
def gSink (c : Pd → Instr) (pd t1 t0 : Nat) : Except WordCheck Instr := do
  let p ← readPd pd
  unusedTarget t1
  unusedTarget t0
  return c p

/-- A Format I word with pd of entry a and T0. -/
def iWord (c : Pd → Target → Instr) (pd t0 : Nat) : Except WordCheck Instr := do
  let p ← readPd pd
  let a ← readTarget t0
  return c p a

/-- A Format I word with a reserved part of imm14. -/
def iWordR (c : Pd → Target → Instr) (rsvd pd t0 : Nat) : Except WordCheck Instr := do
  let p ← readPd pd
  zeroed rsvd
  let a ← readTarget t0
  return c p a

/-- An integer word (R283): xop [4] is W. -/
def intWord (c : Pd → Bool → Target → Target → Instr) (x pd t1 t0 : Nat) : Except WordCheck Instr :=
  gWord (fun p => c p (bitField x 4 1 == 1)) pd t1 t0

/-- An integer word of an opcode that lists only xop [3:0] = 0 (R323). -/
def intWord0 (c : Pd → Bool → Target → Target → Instr) (x pd t1 t0 : Nat) : Except WordCheck Instr := do
  assigned (bitField x 0 4 == 0)
  intWord c x pd t1 t0

/-- A float word with FT and RM and no V (R284). -/
def floatWord (c : Pd → FloatFmt → Rm → Target → Target → Instr) (x pd t1 t0 : Nat) : Except WordCheck Instr := do
  let ft ← readFt (bitField x 3 2)
  let p ← readPd pd
  zeroed (bitField x 2 1)
  let b ← readTarget t1
  let a ← readTarget t0
  return c p ft (readRm (bitField x 0 2)) b a

/-- A float word with FT and V and no RM (R284). -/
def floatWordV (c0 c1 : Pd → FloatFmt → Target → Target → Instr) (x pd t1 t0 : Nat) : Except WordCheck Instr := do
  let ft ← readFt (bitField x 3 2)
  let p ← readPd pd
  zeroed (bitField x 0 2)
  let b ← readTarget t1
  let a ← readTarget t0
  return if bitField x 2 1 = 1 then c1 p ft b a else c0 p ft b a

/-- A float word with FT alone (R284). -/
def floatWord1 (c : Pd → FloatFmt → Target → Target → Instr) (x pd t1 t0 : Nat) : Except WordCheck Instr := do
  let ft ← readFt (bitField x 3 2)
  let p ← readPd pd
  zeroed (bitField x 0 3)
  let b ← readTarget t1
  let a ← readTarget t0
  return c p ft b a

/-- A conversion between the IEEE formats (R284): FT equal to the destination is refused. -/
def cvtWord (dst : FloatFmt) (c : Pd → FloatFmt → Rm → Target → Target → Instr) (x pd t1 t0 : Nat) :
    Except WordCheck Instr := do
  let ft ← readFt (bitField x 3 2)
  assigned (ft != dst)
  floatWord c x pd t1 t0

/-- A Format M word. -/
def mWord (c : Pd → BitVec 5 → BitVec 2 → BitVec 2 → BitVec 5 → Target → Instr)
    (pd seq pv nx port t0 : Nat) : Except WordCheck Instr := do
  let p ← readPd pd
  let a ← readTarget t0
  return c p (BitVec.ofNat 5 seq) (BitVec.ofNat 2 pv) (BitVec.ofNat 2 nx) (BitVec.ofNat 5 port) a

/-- A Format T word with a reserved part. -/
def tWord (c : Pd → Completion → Instr) (rsvd pd ct : Nat) : Except WordCheck Instr := do
  let p ← readPd pd
  zeroed rsvd
  let k ← readCt ct
  return c p k

/-! ## Reading by opcode -/

/-- Format G (R282 to R284, R285 FENCE, R286 to R289). -/
def readG (op pd x t1 t0 : Nat) : Except WordCheck Instr :=
  match op with
  | 0x00 => do assigned (x == 0); gSink .nop pd t1 t0
  | 0x01 => do assigned (x == 0); gWord .mov pd t1 t0
  | 0x03 => do assigned (x == 0); gWord .lit32 pd t1 t0
  | 0x04 => do assigned (x == 0); gWord .steer pd t1 t0
  | 0x05 =>
    match x with
    | 0 => gWord .gate pd t1 t0
    | 1 => gWord .gaten pd t1 t0
    | _ => .error .subfield
  | 0x06 => do
    assigned (x == 0)
    unpredicated pd
    let b ← readTarget t1
    let a ← readTarget t0
    return .merge b a
  | 0x07 => do assigned (x == 0); gWord .sync pd t1 t0
  | 0x08 =>
    match x with
    | 0 => gWord .iter pd t1 t0
    | 1 => gWord .nextIter pd t1 t0
    | 2 => gWord .retire pd t1 t0
    | _ => .error .subfield
  | 0x09 => do
    let p ← readPd pd
    zeroed (bitField x 3 1)
    if bitField x 4 1 = 0 then
      let b ← readTarget t1
      let a ← readTarget t0
      return .frame p (BitVec.ofNat 3 (bitField x 0 3)) b a
    else
      zeroed (bitField x 0 3)
      let b ← readTarget t1
      let a ← readTarget t0
      return .fret p b a
  | 0x0A =>
    match x with
    | 0 => gSink .send pd t1 t0
    | 1 => gSink .sendm pd t1 t0
    | _ => .error .subfield
  | 0x0C =>
    match x with
    | 0 => gWord .cnt pd t1 t0
    | 1 => gWord .bound pd t1 t0
    | _ => .error .subfield
  | 0x0D =>
    match x with
    | 0 => gWord .tagrd pd t1 t0
    | 1 => gWord .qlvl pd t1 t0
    | _ => .error .subfield
  | 0x0F => do assigned (x == 0); gSink .endRegion pd t1 t0
  | 0x10 => intWord0 .add x pd t1 t0
  | 0x11 => intWord0 .sub x pd t1 t0
  | 0x12 =>
    match bitField x 0 4 with
    | 0 => intWord .mul x pd t1 t0
    | 1 => intWord .mulh x pd t1 t0
    | 2 => intWord .mulhu x pd t1 t0
    | _ => .error .subfield
  | 0x13 =>
    match bitField x 0 4 with
    | 0 => intWord .div x pd t1 t0
    | 1 => intWord .divu x pd t1 t0
    | _ => .error .subfield
  | 0x14 =>
    match bitField x 0 4 with
    | 0 => intWord .rem x pd t1 t0
    | 1 => intWord .remu x pd t1 t0
    | _ => .error .subfield
  | 0x15 => intWord0 .and x pd t1 t0
  | 0x16 => intWord0 .or x pd t1 t0
  | 0x17 => intWord0 .xor x pd t1 t0
  | 0x18 => intWord0 .andn x pd t1 t0
  | 0x19 => intWord0 .shl x pd t1 t0
  | 0x1A => intWord0 .shr x pd t1 t0
  | 0x1B => intWord0 .sra x pd t1 t0
  | 0x1C =>
    match bitField x 0 4 with
    | 0 => intWord .rol x pd t1 t0
    | 1 => intWord .ror x pd t1 t0
    | _ => .error .subfield
  | 0x1D => do
    let cc ← readIntCond (bitField x 0 4)
    intWord (fun p w => .cmp p w cc) x pd t1 t0
  | 0x1E =>
    match bitField x 0 4 with
    | 0 => intWord .min x pd t1 t0
    | 1 => intWord .max x pd t1 t0
    | 2 => intWord .minu x pd t1 t0
    | 3 => intWord .maxu x pd t1 t0
    | _ => .error .subfield
  | 0x1F =>
    match bitField x 0 4 with
    | 0 => intWord .bfxu x pd t1 t0
    | 1 => intWord .bfxs x pd t1 t0
    | _ => .error .subfield
  | 0x20 => do assigned (bitField x 0 4 == 0); gWord3 (.bfi (bitField x 4 1 == 1)) pd t1 t0
  | 0x21 =>
    match bitField x 0 4 with
    | 0 => intWord .popc x pd t1 t0
    | 1 => intWord .clz x pd t1 t0
    | 2 => intWord .ctz x pd t1 t0
    | _ => .error .subfield
  | 0x22 => do assigned (bitField x 0 4 == 0); gWord3 (.sel (bitField x 4 1 == 1)) pd t1 t0
  | 0x23 =>
    match bitField x 0 4 with
    | 0 => intWord .neg x pd t1 t0
    | 1 => intWord .abs x pd t1 t0
    | _ => .error .subfield
  | 0x24 =>
    match bitField x 0 4 with
    | 0 => intWord .sx8 x pd t1 t0
    | 1 => intWord .sx16 x pd t1 t0
    | 2 => do assigned (bitField x 4 1 == 0); gWord .sx32 pd t1 t0
    | 4 => intWord .zx8 x pd t1 t0
    | 5 => intWord .zx16 x pd t1 t0
    | 6 => do assigned (bitField x 4 1 == 0); gWord .zx32 pd t1 t0
    | _ => .error .subfield
  | 0x30 => floatWord .fadd x pd t1 t0
  | 0x31 => floatWord .fsub x pd t1 t0
  | 0x32 => floatWord .fmul x pd t1 t0
  | 0x33 => do
    let ft ← readFt (bitField x 3 2)
    ternary pd
    zeroed (bitField x 2 1)
    let b ← readTarget t1
    let a ← readTarget t0
    return .ffma ft (readRm (bitField x 0 2)) b a
  | 0x34 => floatWord .fdiv x pd t1 t0
  | 0x35 => floatWord .fsqrt x pd t1 t0
  | 0x36 => floatWordV .fmin .fmax x pd t1 t0
  | 0x37 => floatWordV .fminm .fmaxm x pd t1 t0
  | 0x38 => floatWordV .fabs .fneg x pd t1 t0
  | 0x39 => do
    let ft ← readFt (bitField x 3 2)
    gWord (fun p => .fcmp p ft (readFloatCond (bitField x 0 3))) pd t1 t0
  | 0x3A => floatWord1 .frcp x pd t1 t0
  | 0x3B => floatWord1 .frsq x pd t1 t0
  | 0x3C => floatWord1 .fexp2 x pd t1 t0
  | 0x3D => floatWord1 .flog2 x pd t1 t0
  | 0x3E => floatWordV .fsin .fcos x pd t1 t0
  | 0x3F => floatWord .frnd x pd t1 t0
  | 0x40 => cvtWord .s .cvtS x pd t1 t0
  | 0x41 => cvtWord .h .cvtH x pd t1 t0
  | 0x42 => cvtWord .b .cvtB x pd t1 t0
  | 0x43 => floatWord .cvtfi x pd t1 t0
  | 0x44 => do
    let ft ← readFt (bitField x 3 2)
    gWord (fun p => if bitField x 2 1 = 1 then .cvtifL p ft (readRm (bitField x 0 2))
      else .cvtif p ft (readRm (bitField x 0 2))) pd t1 t0
  | 0x45 => floatWord1 .cvt8 x pd t1 t0
  | 0x46 => floatWord1 .cvf8 x pd t1 t0
  | 0x47 => floatWord1 .fclass x pd t1 t0
  | 0x57 => do
    let p ← readPd pd
    let sc ← readScope (bitField x 0 3)
    match bitField x 3 2 with
    | 1 => do let b ← readTarget t1; let a ← readTarget t0; return .fenceAcq p sc b a
    | 2 => do let b ← readTarget t1; let a ← readTarget t0; return .fenceRel p sc b a
    | 3 => do let b ← readTarget t1; let a ← readTarget t0; return .fenceFull p sc b a
    | _ => .error .reserved
  | 0x69 =>
    match x with
    | 0 => gWord .sysqHandle pd t1 t0
    | 1 => gWord .sysqDie pd t1 t0
    | 2 => gWord .sysqReplica pd t1 t0
    | 3 => gWord .sysqCtx pd t1 t0
    | _ => .error .subfield
  | 0x6C => do assigned (x == 0); gWord .yield pd t1 t0
  | 0x6E => do assigned (x == 0); gWord .cyc pd t1 t0
  | 0x70 =>
    match x with
    | 0 => gWord .vadd pd t1 t0
    | 1 => gWord .vsub pd t1 t0
    | 2 => gWord .vmul pd t1 t0
    | 3 => gWord .vmin pd t1 t0
    | 4 => gWord .vmax pd t1 t0
    | 5 => gWord .vscale pd t1 t0
    | 6 | 7 => .error .subfield
    | _ => do
      assigned (decide (x < 16))
      let cc ← readLaneCond (bitField x 0 3)
      gWord (fun p => .vcmp p cc) pd t1 t0
  | 0x71 =>
    match x with
    | 0 => gWord .vabs pd t1 t0
    | 1 => gWord .vneg pd t1 t0
    | 2 => gWord .vrcp pd t1 t0
    | 3 => gWord .vrsq pd t1 t0
    | 4 => gWord .vexp2 pd t1 t0
    | 5 => gWord .vlog2 pd t1 t0
    | 6 => gWord .vbcast pd t1 t0
    | 8 => gWord .vredSum pd t1 t0
    | 9 => gWord .vredMin pd t1 t0
    | 10 => gWord .vredMax pd t1 t0
    | 16 => gWord .vcvt pd t1 t0
    | 17 => gWord .vquant pd t1 t0
    | _ => .error .subfield
  | 0x72 =>
    match x with
    | 0 => gWord3 .vfma pd t1 t0
    | 1 => gWord3 .vsel pd t1 t0
    | 2 => gWord3 .vclamp pd t1 t0
    | _ => .error .subfield
  | 0x7B =>
    match x with
    | 0 => gWord .mzero pd t1 t0
    | 1 => gWord .mrd pd t1 t0
    | 2 => gWord .mrda pd t1 t0
    | 3 => gWord .mstat pd t1 t0
    | _ => .error .subfield
  | 0x7C =>
    match x with
    | 0 => gWord .rsetup pd t1 t0
    | 1 => gWord .rstep pd t1 t0
    | 2 => gWord .rbary pd t1 t0
    | _ => .error .subfield
  | 0x7D =>
    match x with
    | 0 => gWord .rayxf pd t1 t0
    | 1 => gWord .raybox pd t1 t0
    | 2 => gWord .raytri pd t1 t0
    | 3 => gSink .migr pd t1 t0
    | _ => .error .subfield
  | 0x7E =>
    match x with
    | 0 => gWord .seqget pd t1 t0
    | 1 => gWord .seqwait pd t1 t0
    | 2 => gWord .blend pd t1 t0
    | _ => .error .subfield
  | _ => .error .opcode

/-- The indices that RDCFG accepts (R400). -/
def rdcfgIndex (n : Nat) : Bool := n ≤ 3 || n == 0x10 || n == 0x20 || n == 0x21 || (0x30 ≤ n && n ≤ 0x37) || n == 0x40

/-- The indices that WRCFG accepts (R400). -/
def wrcfgIndex (n : Nat) : Bool := n == 0x20 || n == 0x21 || (0x30 ≤ n && n ≤ 0x37) || n == 0x40

/-- Format I (R282, R283, R286, R287), without PRIME. -/
def readI (op pd imm t0 : Nat) : Except WordCheck Instr :=
  match op with
  | 0x02 => iWord (fun p => .lit p (BitVec.ofNat 14 imm)) pd t0
  | 0x0E =>
    match bitField imm 12 2 with
    | 0 => iWordR (fun p => .rdh p (bitField imm 11 1 == 1) (BitVec.ofNat 5 imm)) (bitField imm 5 6) pd t0
    | 1 => iWordR (fun p => .wrh p (BitVec.ofNat 5 imm)) (bitField imm 5 7) pd t0
    | 2 => iWordR (fun p => .clrh p (BitVec.ofNat 5 imm)) (bitField imm 5 7) pd t0
    | _ => iWordR (fun p => .tsth p (BitVec.ofNat 5 imm)) (bitField imm 5 7) pd t0
  | 0x25 => iWord (fun p => .addi p (BitVec.ofNat 14 imm)) pd t0
  | 0x26 => iWord (fun p => .andi p (BitVec.ofNat 14 imm)) pd t0
  | 0x27 => iWord (fun p => .ori p (BitVec.ofNat 14 imm)) pd t0
  | 0x28 => iWord (fun p => .xori p (BitVec.ofNat 14 imm)) pd t0
  | 0x61 => iWordR (fun p => .barr p (BitVec.ofNat 8 imm)) (bitField imm 8 6) pd t0
  | 0x62 => do
    let o ← readTreeOp (bitField imm 10 4)
    iWordR (fun p => .tree p o (BitVec.ofNat 8 imm)) (bitField imm 8 2) pd t0
  | 0x63 => iWordR (fun p => .tailadv p (BitVec.ofNat 6 imm)) (bitField imm 6 8) pd t0
  | 0x64 => iWordR (fun p => .tlread p (BitVec.ofNat 6 imm)) (bitField imm 6 8) pd t0
  | 0x65 => iWordR (fun p => .tlwait p (BitVec.ofNat 6 imm)) (bitField imm 6 8) pd t0
  | 0x66 => iWordR (fun p => .collrec p (BitVec.ofNat 6 imm)) (bitField imm 6 8) pd t0
  | 0x67 => do
    assigned (decide (imm < 0x3FF0))
    iWord (fun p => .trap p (BitVec.ofNat 14 imm)) pd t0
  | 0x68 => iWordR (fun p => .trapf p (BitVec.ofNat 5 imm)) (bitField imm 5 9) pd t0
  | 0x6A => do
    assigned (rdcfgIndex (bitField imm 0 12))
    iWordR (fun p => .rdcfg p (BitVec.ofNat 12 imm)) (bitField imm 12 2) pd t0
  | 0x6B => do
    assigned (wrcfgIndex (bitField imm 0 12))
    iWordR (fun p => .wrcfg p (BitVec.ofNat 12 imm)) (bitField imm 12 2) pd t0
  | 0x6D => iWord (fun p => .bkpt p (BitVec.ofNat 10 (bitField imm 4 10)) (BitVec.ofNat 4 imm)) pd t0
  | 0x76 =>
    match bitField imm 12 2 with
    | 0 => iWordR (fun p => .tdef p (BitVec.ofNat 5 imm)) (bitField imm 5 7) pd t0
    | 1 => iWordR (fun p => .tset p (readTileState (bitField imm 10 2)) (BitVec.ofNat 5 imm)) (bitField imm 5 5) pd t0
    | 2 => iWordR (fun p => .tstate p (BitVec.ofNat 5 imm)) (bitField imm 5 7) pd t0
    | _ => .error .subfield
  | 0x77 =>
    match bitField imm 12 2 with
    | 0 => do
      let p ← readPd pd
      zeroed (bitField imm 0 7)
      zeroed (if bitField imm 8 2 = 3 ∧ 2 ≤ bitField imm 10 2 then 1 else 0)
      let a ← readTarget t0
      return .bmode p (BitVec.ofNat 2 (bitField imm 10 2)) (readBankMode (bitField imm 8 2)) (bitField imm 7 1 == 1) a
    | 1 => iWordR (fun p => .permit p (BitVec.ofNat 5 imm)) (bitField imm 5 7) pd t0
    | 2 => iWordR (fun p => .binv p (BitVec.ofNat 5 imm)) (bitField imm 5 7) pd t0
    | _ => .error .subfield
  | _ => .error .opcode

/-- Format M (R285). -/
def readM (op pd seq pv nx port t0 : Nat) : Except WordCheck Instr :=
  match op with
  | 0x50 => mWord .ld pd seq pv nx port t0
  | 0x51 => mWord .st pd seq pv nx port t0
  | 0x52 => mWord .ldt pd seq pv nx port t0
  | 0x53 => mWord .stt pd seq pv nx port t0
  | 0x54 => do
    let p ← readPd pd
    match (← readTarget t0) with
    | .hold h => return .ldh p (BitVec.ofNat 5 seq) (BitVec.ofNat 2 pv) (BitVec.ofNat 2 nx) (BitVec.ofNat 5 port) h
    | _ => .error .target
  | 0x55 => mWord .pft pd seq pv nx port t0
  | 0x56 => mWord .mnop pd seq pv nx port t0
  | 0x58 => mWord .scas64 pd seq pv nx port t0
  | 0x59 => mWord .scas128 pd seq pv nx port t0
  | 0x5A => mWord .sadd pd seq pv nx port t0
  | 0x5B => mWord .sswap pd seq pv nx port t0
  | 0x5D => mWord .amoadd pd seq pv nx port t0
  | 0x5E => mWord .amomin pd seq pv nx port t0
  | 0x5F => mWord .amomax pd seq pv nx port t0
  | _ => .error .opcode

/-- Format Q (R286, R375). -/
def readQ (op pd queue lim mode t0 : Nat) : Except WordCheck Instr :=
  match op with
  | 0x60 =>
    let k := BitVec.ofNat 5 queue
    let n := BitVec.ofNat 5 lim
    match bitField mode 2 2 with
    | 0 => iWordR (fun p => .qpush p k n) (bitField mode 0 2) pd t0
    | 1 => iWordR (fun p => .qpop p k n) (bitField mode 0 2) pd t0
    | 2 => iWordR (fun p => .qpeek p k n) (bitField mode 0 2) pd t0
    | _ => .error .subfield
  | _ => .error .opcode

/-- Format T (R285, R287, R288). -/
def readT (op pd td ta tb ct : Nat) : Except WordCheck Instr :=
  let d := BitVec.ofNat 5 td
  let a := BitVec.ofNat 5 ta
  let b := BitVec.ofNat 5 tb
  match op with
  | 0x5C => do
    let o ← readAmotOp ta
    tWord (fun p => .amot p d o) tb pd ct
  | 0x73 => tWord (fun p => .vtrans p d a) tb pd ct
  | 0x74 => tWord (fun p => .vpoolmax p d a b) 0 pd ct
  | 0x75 => tWord (fun p => .vpoolavg p d a b) 0 pd ct
  | 0x78 => tWord (fun p => .bload p d a) tb pd ct
  | 0x79 => tWord (fun p => .mma p a b) td pd ct
  | 0x7A => tWord (fun p => .mmaz p a b) td pd ct
  | _ => .error .opcode

/-- An instruction read from its fields. -/
def Raw.read : Raw → Except WordCheck Instr
  | .g op pd x t1 t0 => readG op pd x t1 t0
  | .i op pd imm t0 => readI op pd imm t0
  | .m op pd seq pv nx port t0 => readM op pd seq pv nx port t0
  | .q op pd queue lim mode t0 => readQ op pd queue lim mode t0
  | .t op pd td ta tb ct => readT op pd td ta tb ct

/-- The instruction that a word stands for, or the first check of R298 that it fails. -/
def decodeNat (w : Nat) : Except WordCheck Instr :=
  match split w with
  | none => .error .opcode
  | some r => r.read

/-- The instruction that a word of a block stands for. -/
def decode (w : Word) : Except WordCheck Instr := decodeNat w.toNat

/-- PRIME (R282, R309): pd 00, a T0 other than 0x07F, without ADV. -/
def readPrime (w : Nat) : Except WordCheck SlotWord := do
  unpredicated (bitField w 23 2)
  match (← readTarget (bitField w 0 9)) with
  | .discard => .error .target
  | .slot _ true _ => .error .target
  | t => return .prime (BitVec.ofNat 14 (bitField w 9 14)) t

/-- A word of a slot that is not a constant (R279): an instruction, or a PRIME. -/
def decodeSlot (w : Word) : Except WordCheck SlotWord :=
  if bitField w.toNat 25 7 = 0x0B then readPrime w.toNat
  else (decode w).map .instr

/-- The instruction that an opcode-table word stands for: one 32-bit word (log 8). -/
def decodeTableWord (nbits w : Nat) : Option Instr :=
  if nbits = 32 ∧ w < 2 ^ 32 then (decodeNat w).toOption else none

/-! ## The encoder -/

/-- The port code of a target (R276). -/
def Port.code : Port → Nat
  | .l => 1
  | .r => 2
  | .p => 3

/-- A Boolean field. -/
def boolCode (b : Bool) : Nat := if b then 1 else 0

/-- A target's 9 bits (R276). -/
def Target.code : Target → Nat
  | .slot port adv s => port.code * 128 + boolCode adv * 64 + s.toNat
  | .arc n => n.toNat
  | .hold h => 0x40 + h.toNat
  | .discard => 0x7F

/-- A completion target's 8 bits (R278). -/
def Completion.code : Completion → Nat
  | .none => 0
  | .slot port s => port.code * 64 + s.toNat

/-- pd (R190). -/
def Pd.code : Pd → Nat
  | .always => 0
  | .ifTrue => 1
  | .ifFalse => 2

/-- FT (R284). -/
def FloatFmt.code : FloatFmt → Nat
  | .s => 0
  | .h => 1
  | .b => 2

/-- RM (R261). -/
def Rm.code : Rm → Nat
  | .rn => 0
  | .rz => 1
  | .ru => 2
  | .rd => 3

/-- Conditions of CMP (R283). -/
def IntCond.code : IntCond → Nat
  | .eq => 0
  | .ne => 1
  | .lt => 2
  | .le => 3
  | .gt => 4
  | .ge => 5
  | .ltu => 6
  | .leu => 7
  | .gtu => 8
  | .geu => 9

/-- Conditions of FCMP (R330). -/
def FloatCond.code : FloatCond → Nat
  | .eq => 0
  | .ne => 1
  | .lt => 2
  | .le => 3
  | .gt => 4
  | .ge => 5
  | .un => 6
  | .ord => 7

/-- Conditions of VCMP (R342). -/
def LaneCond.code : LaneCond → Nat
  | .eq => 0
  | .ne => 1
  | .lt => 2
  | .le => 3
  | .gt => 4
  | .ge => 5
  | .un => 6

/-- Scopes (R240). -/
def Scope.code : Scope → Nat
  | .cell => 0
  | .region => 1
  | .die => 2
  | .device => 3
  | .system => 4

/-- Operations of AMOT (R285). -/
def AmotOp.code : AmotOp → Nat
  | .add => 0
  | .add64 => 1
  | .and => 2
  | .or => 3
  | .xor => 4
  | .min => 5
  | .max => 6
  | .minu => 7
  | .maxu => 8
  | .fmin => 9
  | .fmax => 10
  | .swap => 11
  | .fadd => 12

/-- Operations of TREE (R96). -/
def TreeOp.code : TreeOp → Nat
  | .fsum => 1
  | .fmin => 2
  | .fmax => 3
  | .isum => 4
  | .imin => 5
  | .imax => 6
  | .and => 7
  | .or => 8
  | .xor => 9

/-- Tile states (R204). -/
def TileState.code : TileState → Nat
  | .empty => 0
  | .filling => 1
  | .ready => 2
  | .draining => 3

/-- Bank modes (R200). -/
def BankMode.code : BankMode → Nat
  | .scratchpad => 0
  | .cache => 1
  | .fifo => 2
  | .compute => 3

/-- The fields of an instruction's word (R282 to R289, spec/opcode_table.json); none for a machine step, which
has no word. -/
def Instr.raw : Instr → Option Raw
  | .nop pd => some (.g 0x00 pd.code 0 0x7F 0x7F)
  | .mov pd t1 t0 => some (.g 0x01 pd.code 0 t1.code t0.code)
  | .lit pd imm t0 => some (.i 0x02 pd.code imm.toNat t0.code)
  | .lit32 pd t1 t0 => some (.g 0x03 pd.code 0 t1.code t0.code)
  | .steer pd t1 t0 => some (.g 0x04 pd.code 0 t1.code t0.code)
  | .gate pd t1 t0 => some (.g 0x05 pd.code 0 t1.code t0.code)
  | .gaten pd t1 t0 => some (.g 0x05 pd.code 1 t1.code t0.code)
  | .merge t1 t0 => some (.g 0x06 0 0 t1.code t0.code)
  | .sync pd t1 t0 => some (.g 0x07 pd.code 0 t1.code t0.code)
  | .iter pd t1 t0 => some (.g 0x08 pd.code 0 t1.code t0.code)
  | .nextIter pd t1 t0 => some (.g 0x08 pd.code 1 t1.code t0.code)
  | .retire pd t1 t0 => some (.g 0x08 pd.code 2 t1.code t0.code)
  | .frame pd level t1 t0 => some (.g 0x09 pd.code level.toNat t1.code t0.code)
  | .fret pd t1 t0 => some (.g 0x09 pd.code 0x10 t1.code t0.code)
  | .send pd => some (.g 0x0A pd.code 0 0x7F 0x7F)
  | .sendm pd => some (.g 0x0A pd.code 1 0x7F 0x7F)
  | .cnt pd t1 t0 => some (.g 0x0C pd.code 0 t1.code t0.code)
  | .bound pd t1 t0 => some (.g 0x0C pd.code 1 t1.code t0.code)
  | .tagrd pd t1 t0 => some (.g 0x0D pd.code 0 t1.code t0.code)
  | .qlvl pd t1 t0 => some (.g 0x0D pd.code 1 t1.code t0.code)
  | .rdh pd trapE h t0 => some (.i 0x0E pd.code (2048 * (boolCode trapE) + h.toNat) t0.code)
  | .wrh pd h t0 => some (.i 0x0E pd.code (0x1000 + h.toNat) t0.code)
  | .clrh pd h t0 => some (.i 0x0E pd.code (0x2000 + h.toNat) t0.code)
  | .tsth pd h t0 => some (.i 0x0E pd.code (0x3000 + h.toNat) t0.code)
  | .endRegion pd => some (.g 0x0F pd.code 0 0x7F 0x7F)
  | .add pd wide t1 t0 => some (.g 0x10 pd.code (16 * (boolCode wide)) t1.code t0.code)
  | .sub pd wide t1 t0 => some (.g 0x11 pd.code (16 * (boolCode wide)) t1.code t0.code)
  | .mul pd wide t1 t0 => some (.g 0x12 pd.code (16 * (boolCode wide)) t1.code t0.code)
  | .mulh pd wide t1 t0 => some (.g 0x12 pd.code (1 + 16 * (boolCode wide)) t1.code t0.code)
  | .mulhu pd wide t1 t0 => some (.g 0x12 pd.code (2 + 16 * (boolCode wide)) t1.code t0.code)
  | .div pd wide t1 t0 => some (.g 0x13 pd.code (16 * (boolCode wide)) t1.code t0.code)
  | .divu pd wide t1 t0 => some (.g 0x13 pd.code (1 + 16 * (boolCode wide)) t1.code t0.code)
  | .rem pd wide t1 t0 => some (.g 0x14 pd.code (16 * (boolCode wide)) t1.code t0.code)
  | .remu pd wide t1 t0 => some (.g 0x14 pd.code (1 + 16 * (boolCode wide)) t1.code t0.code)
  | .and pd wide t1 t0 => some (.g 0x15 pd.code (16 * (boolCode wide)) t1.code t0.code)
  | .or pd wide t1 t0 => some (.g 0x16 pd.code (16 * (boolCode wide)) t1.code t0.code)
  | .xor pd wide t1 t0 => some (.g 0x17 pd.code (16 * (boolCode wide)) t1.code t0.code)
  | .andn pd wide t1 t0 => some (.g 0x18 pd.code (16 * (boolCode wide)) t1.code t0.code)
  | .shl pd wide t1 t0 => some (.g 0x19 pd.code (16 * (boolCode wide)) t1.code t0.code)
  | .shr pd wide t1 t0 => some (.g 0x1A pd.code (16 * (boolCode wide)) t1.code t0.code)
  | .sra pd wide t1 t0 => some (.g 0x1B pd.code (16 * (boolCode wide)) t1.code t0.code)
  | .rol pd wide t1 t0 => some (.g 0x1C pd.code (16 * (boolCode wide)) t1.code t0.code)
  | .ror pd wide t1 t0 => some (.g 0x1C pd.code (1 + 16 * (boolCode wide)) t1.code t0.code)
  | .cmp pd wide cc t1 t0 => some (.g 0x1D pd.code (16 * (boolCode wide) + cc.code) t1.code t0.code)
  | .min pd wide t1 t0 => some (.g 0x1E pd.code (16 * (boolCode wide)) t1.code t0.code)
  | .max pd wide t1 t0 => some (.g 0x1E pd.code (1 + 16 * (boolCode wide)) t1.code t0.code)
  | .minu pd wide t1 t0 => some (.g 0x1E pd.code (2 + 16 * (boolCode wide)) t1.code t0.code)
  | .maxu pd wide t1 t0 => some (.g 0x1E pd.code (3 + 16 * (boolCode wide)) t1.code t0.code)
  | .bfxu pd wide t1 t0 => some (.g 0x1F pd.code (16 * (boolCode wide)) t1.code t0.code)
  | .bfxs pd wide t1 t0 => some (.g 0x1F pd.code (1 + 16 * (boolCode wide)) t1.code t0.code)
  | .bfi wide t1 t0 => some (.g 0x20 3 (16 * (boolCode wide)) t1.code t0.code)
  | .popc pd wide t1 t0 => some (.g 0x21 pd.code (16 * (boolCode wide)) t1.code t0.code)
  | .clz pd wide t1 t0 => some (.g 0x21 pd.code (1 + 16 * (boolCode wide)) t1.code t0.code)
  | .ctz pd wide t1 t0 => some (.g 0x21 pd.code (2 + 16 * (boolCode wide)) t1.code t0.code)
  | .sel wide t1 t0 => some (.g 0x22 3 (16 * (boolCode wide)) t1.code t0.code)
  | .neg pd wide t1 t0 => some (.g 0x23 pd.code (16 * (boolCode wide)) t1.code t0.code)
  | .abs pd wide t1 t0 => some (.g 0x23 pd.code (1 + 16 * (boolCode wide)) t1.code t0.code)
  | .sx8 pd wide t1 t0 => some (.g 0x24 pd.code (16 * (boolCode wide)) t1.code t0.code)
  | .sx16 pd wide t1 t0 => some (.g 0x24 pd.code (1 + 16 * (boolCode wide)) t1.code t0.code)
  | .sx32 pd t1 t0 => some (.g 0x24 pd.code 2 t1.code t0.code)
  | .zx8 pd wide t1 t0 => some (.g 0x24 pd.code (4 + 16 * (boolCode wide)) t1.code t0.code)
  | .zx16 pd wide t1 t0 => some (.g 0x24 pd.code (5 + 16 * (boolCode wide)) t1.code t0.code)
  | .zx32 pd t1 t0 => some (.g 0x24 pd.code 6 t1.code t0.code)
  | .addi pd imm t0 => some (.i 0x25 pd.code imm.toNat t0.code)
  | .andi pd imm t0 => some (.i 0x26 pd.code imm.toNat t0.code)
  | .ori pd imm t0 => some (.i 0x27 pd.code imm.toNat t0.code)
  | .xori pd imm t0 => some (.i 0x28 pd.code imm.toNat t0.code)
  | .fadd pd ft rm t1 t0 => some (.g 0x30 pd.code (8 * ft.code + rm.code) t1.code t0.code)
  | .fsub pd ft rm t1 t0 => some (.g 0x31 pd.code (8 * ft.code + rm.code) t1.code t0.code)
  | .fmul pd ft rm t1 t0 => some (.g 0x32 pd.code (8 * ft.code + rm.code) t1.code t0.code)
  | .ffma ft rm t1 t0 => some (.g 0x33 3 (8 * ft.code + rm.code) t1.code t0.code)
  | .fdiv pd ft rm t1 t0 => some (.g 0x34 pd.code (8 * ft.code + rm.code) t1.code t0.code)
  | .fsqrt pd ft rm t1 t0 => some (.g 0x35 pd.code (8 * ft.code + rm.code) t1.code t0.code)
  | .fmin pd ft t1 t0 => some (.g 0x36 pd.code (8 * ft.code) t1.code t0.code)
  | .fmax pd ft t1 t0 => some (.g 0x36 pd.code (4 + 8 * ft.code) t1.code t0.code)
  | .fminm pd ft t1 t0 => some (.g 0x37 pd.code (8 * ft.code) t1.code t0.code)
  | .fmaxm pd ft t1 t0 => some (.g 0x37 pd.code (4 + 8 * ft.code) t1.code t0.code)
  | .fabs pd ft t1 t0 => some (.g 0x38 pd.code (8 * ft.code) t1.code t0.code)
  | .fneg pd ft t1 t0 => some (.g 0x38 pd.code (4 + 8 * ft.code) t1.code t0.code)
  | .fcmp pd ft cc t1 t0 => some (.g 0x39 pd.code (8 * ft.code + cc.code) t1.code t0.code)
  | .frcp pd ft t1 t0 => some (.g 0x3A pd.code (8 * ft.code) t1.code t0.code)
  | .frsq pd ft t1 t0 => some (.g 0x3B pd.code (8 * ft.code) t1.code t0.code)
  | .fexp2 pd ft t1 t0 => some (.g 0x3C pd.code (8 * ft.code) t1.code t0.code)
  | .flog2 pd ft t1 t0 => some (.g 0x3D pd.code (8 * ft.code) t1.code t0.code)
  | .fsin pd ft t1 t0 => some (.g 0x3E pd.code (8 * ft.code) t1.code t0.code)
  | .fcos pd ft t1 t0 => some (.g 0x3E pd.code (4 + 8 * ft.code) t1.code t0.code)
  | .frnd pd ft rm t1 t0 => some (.g 0x3F pd.code (8 * ft.code + rm.code) t1.code t0.code)
  | .cvtS pd ft rm t1 t0 => some (.g 0x40 pd.code (8 * ft.code + rm.code) t1.code t0.code)
  | .cvtH pd ft rm t1 t0 => some (.g 0x41 pd.code (8 * ft.code + rm.code) t1.code t0.code)
  | .cvtB pd ft rm t1 t0 => some (.g 0x42 pd.code (8 * ft.code + rm.code) t1.code t0.code)
  | .cvtfi pd ft rm t1 t0 => some (.g 0x43 pd.code (8 * ft.code + rm.code) t1.code t0.code)
  | .cvtif pd ft rm t1 t0 => some (.g 0x44 pd.code (8 * ft.code + rm.code) t1.code t0.code)
  | .cvtifL pd ft rm t1 t0 => some (.g 0x44 pd.code (4 + 8 * ft.code + rm.code) t1.code t0.code)
  | .cvt8 pd ft t1 t0 => some (.g 0x45 pd.code (8 * ft.code) t1.code t0.code)
  | .cvf8 pd ft t1 t0 => some (.g 0x46 pd.code (8 * ft.code) t1.code t0.code)
  | .fclass pd ft t1 t0 => some (.g 0x47 pd.code (8 * ft.code) t1.code t0.code)
  | .ld pd seq prevD nextD port t0 => some (.m 0x50 pd.code seq.toNat prevD.toNat nextD.toNat port.toNat t0.code)
  | .st pd seq prevD nextD port t0 => some (.m 0x51 pd.code seq.toNat prevD.toNat nextD.toNat port.toNat t0.code)
  | .ldt pd seq prevD nextD port t0 => some (.m 0x52 pd.code seq.toNat prevD.toNat nextD.toNat port.toNat t0.code)
  | .stt pd seq prevD nextD port t0 => some (.m 0x53 pd.code seq.toNat prevD.toNat nextD.toNat port.toNat t0.code)
  | .ldh pd seq prevD nextD port h => some (.m 0x54 pd.code seq.toNat prevD.toNat nextD.toNat port.toNat (0x40 + h.toNat))
  | .pft pd seq prevD nextD port t0 => some (.m 0x55 pd.code seq.toNat prevD.toNat nextD.toNat port.toNat t0.code)
  | .mnop pd seq prevD nextD port t0 => some (.m 0x56 pd.code seq.toNat prevD.toNat nextD.toNat port.toNat t0.code)
  | .fenceAcq pd scope t1 t0 => some (.g 0x57 pd.code (8 + scope.code) t1.code t0.code)
  | .fenceRel pd scope t1 t0 => some (.g 0x57 pd.code (0x10 + scope.code) t1.code t0.code)
  | .fenceFull pd scope t1 t0 => some (.g 0x57 pd.code (0x18 + scope.code) t1.code t0.code)
  | .scas64 pd seq prevD nextD port t0 => some (.m 0x58 pd.code seq.toNat prevD.toNat nextD.toNat port.toNat t0.code)
  | .scas128 pd seq prevD nextD port t0 => some (.m 0x59 pd.code seq.toNat prevD.toNat nextD.toNat port.toNat t0.code)
  | .sadd pd seq prevD nextD port t0 => some (.m 0x5A pd.code seq.toNat prevD.toNat nextD.toNat port.toNat t0.code)
  | .sswap pd seq prevD nextD port t0 => some (.m 0x5B pd.code seq.toNat prevD.toNat nextD.toNat port.toNat t0.code)
  | .amot pd td op ct => some (.t 0x5C pd.code td.toNat op.code 0 ct.code)
  | .amoadd pd seq prevD nextD port t0 => some (.m 0x5D pd.code seq.toNat prevD.toNat nextD.toNat port.toNat t0.code)
  | .amomin pd seq prevD nextD port t0 => some (.m 0x5E pd.code seq.toNat prevD.toNat nextD.toNat port.toNat t0.code)
  | .amomax pd seq prevD nextD port t0 => some (.m 0x5F pd.code seq.toNat prevD.toNat nextD.toNat port.toNat t0.code)
  | .qpush pd queue lim t0 => some (.q 0x60 pd.code queue.toNat lim.toNat 0 t0.code)
  | .qpop pd queue lim t0 => some (.q 0x60 pd.code queue.toNat lim.toNat 4 t0.code)
  | .qpeek pd queue lim t0 => some (.q 0x60 pd.code queue.toNat lim.toNat 8 t0.code)
  | .barr pd group t0 => some (.i 0x61 pd.code group.toNat t0.code)
  | .tree pd op group t0 => some (.i 0x62 pd.code (1024 * op.code + group.toNat) t0.code)
  | .tailadv pd chain t0 => some (.i 0x63 pd.code chain.toNat t0.code)
  | .tlread pd chain t0 => some (.i 0x64 pd.code chain.toNat t0.code)
  | .tlwait pd chain t0 => some (.i 0x65 pd.code chain.toNat t0.code)
  | .collrec pd chain t0 => some (.i 0x66 pd.code chain.toNat t0.code)
  | .trap pd imm t0 => some (.i 0x67 pd.code imm.toNat t0.code)
  | .trapf pd mask t0 => some (.i 0x68 pd.code mask.toNat t0.code)
  | .sysqHandle pd t1 t0 => some (.g 0x69 pd.code 0 t1.code t0.code)
  | .sysqDie pd t1 t0 => some (.g 0x69 pd.code 1 t1.code t0.code)
  | .sysqReplica pd t1 t0 => some (.g 0x69 pd.code 2 t1.code t0.code)
  | .sysqCtx pd t1 t0 => some (.g 0x69 pd.code 3 t1.code t0.code)
  | .rdcfg pd index t0 => some (.i 0x6A pd.code index.toNat t0.code)
  | .wrcfg pd index t0 => some (.i 0x6B pd.code index.toNat t0.code)
  | .yield pd t1 t0 => some (.g 0x6C pd.code 0 t1.code t0.code)
  | .bkpt pd code set t0 => some (.i 0x6D pd.code (16 * code.toNat + set.toNat) t0.code)
  | .cyc pd t1 t0 => some (.g 0x6E pd.code 0 t1.code t0.code)
  | .vadd pd t1 t0 => some (.g 0x70 pd.code 0 t1.code t0.code)
  | .vsub pd t1 t0 => some (.g 0x70 pd.code 1 t1.code t0.code)
  | .vmul pd t1 t0 => some (.g 0x70 pd.code 2 t1.code t0.code)
  | .vmin pd t1 t0 => some (.g 0x70 pd.code 3 t1.code t0.code)
  | .vmax pd t1 t0 => some (.g 0x70 pd.code 4 t1.code t0.code)
  | .vscale pd t1 t0 => some (.g 0x70 pd.code 5 t1.code t0.code)
  | .vcmp pd cc t1 t0 => some (.g 0x70 pd.code (8 + cc.code) t1.code t0.code)
  | .vabs pd t1 t0 => some (.g 0x71 pd.code 0 t1.code t0.code)
  | .vneg pd t1 t0 => some (.g 0x71 pd.code 1 t1.code t0.code)
  | .vrcp pd t1 t0 => some (.g 0x71 pd.code 2 t1.code t0.code)
  | .vrsq pd t1 t0 => some (.g 0x71 pd.code 3 t1.code t0.code)
  | .vexp2 pd t1 t0 => some (.g 0x71 pd.code 4 t1.code t0.code)
  | .vlog2 pd t1 t0 => some (.g 0x71 pd.code 5 t1.code t0.code)
  | .vbcast pd t1 t0 => some (.g 0x71 pd.code 6 t1.code t0.code)
  | .vredSum pd t1 t0 => some (.g 0x71 pd.code 8 t1.code t0.code)
  | .vredMin pd t1 t0 => some (.g 0x71 pd.code 9 t1.code t0.code)
  | .vredMax pd t1 t0 => some (.g 0x71 pd.code 0xA t1.code t0.code)
  | .vcvt pd t1 t0 => some (.g 0x71 pd.code 0x10 t1.code t0.code)
  | .vquant pd t1 t0 => some (.g 0x71 pd.code 0x11 t1.code t0.code)
  | .vfma t1 t0 => some (.g 0x72 3 0 t1.code t0.code)
  | .vsel t1 t0 => some (.g 0x72 3 1 t1.code t0.code)
  | .vclamp t1 t0 => some (.g 0x72 3 2 t1.code t0.code)
  | .vtrans pd td ta ct => some (.t 0x73 pd.code td.toNat ta.toNat 0 ct.code)
  | .vpoolmax pd td ta tb ct => some (.t 0x74 pd.code td.toNat ta.toNat tb.toNat ct.code)
  | .vpoolavg pd td ta tb ct => some (.t 0x75 pd.code td.toNat ta.toNat tb.toNat ct.code)
  | .tdef pd tile t0 => some (.i 0x76 pd.code tile.toNat t0.code)
  | .tset pd state tile t0 => some (.i 0x76 pd.code (0x1000 + 1024 * state.code + tile.toNat) t0.code)
  | .tstate pd tile t0 => some (.i 0x76 pd.code (0x2000 + tile.toNat) t0.code)
  | .bmode pd bank mode intlv t0 => some (.i 0x77 pd.code (1024 * bank.toNat + 256 * mode.code + 128 * (boolCode intlv)) t0.code)
  | .permit pd tile t0 => some (.i 0x77 pd.code (0x1000 + tile.toNat) t0.code)
  | .binv pd tile t0 => some (.i 0x77 pd.code (0x2000 + tile.toNat) t0.code)
  | .bload pd td ta ct => some (.t 0x78 pd.code td.toNat ta.toNat 0 ct.code)
  | .mma pd ta tb ct => some (.t 0x79 pd.code 0 ta.toNat tb.toNat ct.code)
  | .mmaz pd ta tb ct => some (.t 0x7A pd.code 0 ta.toNat tb.toNat ct.code)
  | .mzero pd t1 t0 => some (.g 0x7B pd.code 0 t1.code t0.code)
  | .mrd pd t1 t0 => some (.g 0x7B pd.code 1 t1.code t0.code)
  | .mrda pd t1 t0 => some (.g 0x7B pd.code 2 t1.code t0.code)
  | .mstat pd t1 t0 => some (.g 0x7B pd.code 3 t1.code t0.code)
  | .rsetup pd t1 t0 => some (.g 0x7C pd.code 0 t1.code t0.code)
  | .rstep pd t1 t0 => some (.g 0x7C pd.code 1 t1.code t0.code)
  | .rbary pd t1 t0 => some (.g 0x7C pd.code 2 t1.code t0.code)
  | .rayxf pd t1 t0 => some (.g 0x7D pd.code 0 t1.code t0.code)
  | .raybox pd t1 t0 => some (.g 0x7D pd.code 1 t1.code t0.code)
  | .raytri pd t1 t0 => some (.g 0x7D pd.code 2 t1.code t0.code)
  | .migr pd => some (.g 0x7D pd.code 3 0x7F 0x7F)
  | .seqget pd t1 t0 => some (.g 0x7E pd.code 0 t1.code t0.code)
  | .seqwait pd t1 t0 => some (.g 0x7E pd.code 1 t1.code t0.code)
  | .blend pd t1 t0 => some (.g 0x7E pd.code 2 t1.code t0.code)
  | .coldReset => none
  | .moduleReset => none
  | .dieReset => none
  | .bringupPhase => none
  | .governorInterval => none
  | .stepTransitionEnd => none
  | .thermalBandEntered => none
  | .thermalTrip => none
  | .hubPwrCapWrite => none
  | .emergencyHoldSet => none
  | .emergencyHoldRelease => none
  | .switchPacketArrival => none
  | .headerStoreEntry => none
  | .flitDepart => none
  | .flitReplay => none
  | .streamOpen => none
  | .openReceive => none
  | .refuseReceive => none
  | .openRetry => none
  | .grantReceive => none
  | .packetSend => none
  | .rreqReceive => none
  | .retransmit => none
  | .retransmissionTimeout => none
  | .ackReceive => none
  | .trimmedHeaderReceive => none
  | .rreqSend => none
  | .dataPacketReceive => none
  | .packetDeliver => none
  | .ackTimer => none
  | .closeReceive => none
  | .closedReceive => none
  | .streamSelect => none
  | .streamResume => none
  | .streamAbort => none
  | .linkDown => none
  | .linkTrained => none
  | .readClear => none
  | .registerWrite => none
  | .treeOpStart => none
  | .treeResult => none
  | .collPartialReceive => none
  | .ptpMessage => none
  | .releaseInstant => none
  | .phaseToken => none
  | .deadlineTokenReceive => none
  | .phaseTokenReceive => none
  | .frameCompletionReport => none
  | .holdoverEnter => none
  | .relEnable => none
  | .apertureRead => none
  | .apertureWrite => none
  | .tailWrite => none
  | .hubInvPage => none
  | .hubInvContext => none
  | .hubInvAll => none
  | .invalidationComplete => none
  | .pageWalk => none
  | .atsTranslationCompletion => none
  | .priResponse => none
  | .atsInvalidationRequest => none
  | .atsInvalidationComplete => none
  | .hostSnoop => none
  | .keyGenerate => none
  | .keyDestroy => none
  | .keyCommandDone => none
  | .attestReport => none
  | .attestCertificate => none
  | .attestDone => none
  | .recordFetch => none
  | .nopRecord => none
  | .jumpRecord => none
  | .copyRecord => none
  | .fillRecord => none
  | .launchRecord => none
  | .collRecord => none
  | .recordComplete => none
  | .chainRetry => none
  | .chainSkip => none
  | .chainReset => none
  | .tokenInject => none
  | .queueRequest => none
  | .qwaitExpiry => none
  | .enginePushExpiry => none
  | .queueSelect => none
  | .queueReset => none
  | .regionLoad => none
  | .regionSelect => none
  | .hangSet => none
  | .placementSample => none
  | .bucketStateCopy => none
  | .bucketRelease => none
  | .replicaFree => none
  | .shareReweight => none
  | .tokenArrival => none
  | .tokenMatch => none
  | .creditNotice => none
  | .qualityGate => none
  | .progressReport => none
  | .markerReport => none
  | .lapUpdate => none
  | .lapAck => none
  | .frameTrap => none
  | .trapResume => none
  | .parkReinject => none
  | .trapKill => none
  | .killTagsFree => none
  | .regionSilent => none
  | .drydown => none
  | .markerArrival => none
  | .cutComplete => none
  | .freeze => none
  | .freezeComplete => none
  | .save => none
  | .regionRelease => none
  | .restore => none
  | .restorePlacement => none
  | .configUe => none
  | .tileRowLand => none
  | .tileDrainComplete => none
  | .roundStart => none
  | .paramOverwrite => none
  | .readAhead => none
  | .tileFillStart => none
  | .spaceToken => none
  | .memoryAccessArrival => none
  | .heldAccessPerform => none
  | .retryReissue => none
  | .memoryResponse => none
  | .homeSliceRequest => none
  | .invalidationAck => none
  | .atomicopCompletion => none
  | .hostReadCompletion => none
  | .fenceComplete => none
  | .endComplete => none
  | .tileEngineDone => none
  | .matrixRowStep => none
  | .loadComplete => none
  | .dieResetRelease => none
  | .configSingleBitError => none

/-- The word of an instruction. -/
def encode (i : Instr) : Option Word := i.raw.map (fun r => BitVec.ofNat 32 r.word)

end Sys2Proof
end

