-- ==== Sys2Proof/Machine/Operands.lean ====
section
/-!
DEFINITION. Every operand form: the ports an instruction uses and their widths (R190, R303, R324, R330, R341,
R342, R375, R403 to R414), its predicate mode, the unit it takes (R442), and the readings of a firing's
operands (R189, R329).
-/

namespace Sys2Proof

/-- The units of a cell that the arbiter chooses for (R128, R442). -/
inductive Unit4 where
  | scalar | vector | matrix | memory
  deriving DecidableEq, Repr

/-- The number of a unit. -/
def Unit4.num : Unit4 → Nat
  | .scalar => 0
  | .vector => 1
  | .matrix => 2
  | .memory => 3

/-- The data ports of an instruction with the width in bytes of each (256 where a port keeps the length of its
value or only triggers); none for a step without a word. -/
def Instr.dataPorts : Instr → List (Port × Nat)
  | .nop .. | .mov .. | .lit .. | .lit32 .. | .iter .. | .nextIter .. | .retire .. | .frame ..
  | .fret .. | .tagrd .. | .qlvl .. | .rdh .. | .clrh .. | .tsth .. | .endRegion .. | .fenceAcq ..
  | .fenceRel .. | .fenceFull .. | .qpop .. | .qpeek .. | .barr .. | .tlread .. | .sysqHandle ..
  | .sysqDie .. | .sysqReplica .. | .sysqCtx .. | .rdcfg .. | .yield .. | .cyc .. | .vquant ..
  | .vtrans .. | .tset .. | .tstate .. | .permit .. | .binv .. => [(.l, 256)]
  | .steer .. | .gate .. | .gaten .. => [(.l, 256), (.r, 8)]
  | .merge .. | .sync .. => [(.l, 256), (.r, 256)]
  | .send .. | .sendm .. => [(.l, 256), (.r, 4)]
  | .cnt .. | .bound .. | .fadd .. | .fsub .. | .fmul .. | .fdiv .. | .fmin .. | .fmax .. | .fminm ..
  | .fmaxm .. | .fcmp .. | .seqget .. => [(.l, 4), (.r, 4)]
  | .wrh .. | .cvtifL .. | .ld .. | .ldt .. | .stt .. | .ldh .. | .pft .. | .mnop .. | .tailadv ..
  | .tlwait .. | .trap .. | .trapf .. | .wrcfg .. | .bkpt .. | .vpoolmax .. | .vpoolavg .. | .bload ..
  | .mma .. | .mmaz .. | .mzero .. | .mrd .. | .mstat .. => [(.l, 8)]
  | .add _ w _ _ => [(.l, if w then 8 else 4), (.r, if w then 8 else 4)]
  | .sub _ w _ _ => [(.l, if w then 8 else 4), (.r, if w then 8 else 4)]
  | .mul _ w _ _ => [(.l, if w then 8 else 4), (.r, if w then 8 else 4)]
  | .mulh _ w _ _ => [(.l, if w then 8 else 4), (.r, if w then 8 else 4)]
  | .mulhu _ w _ _ => [(.l, if w then 8 else 4), (.r, if w then 8 else 4)]
  | .div _ w _ _ => [(.l, if w then 8 else 4), (.r, if w then 8 else 4)]
  | .divu _ w _ _ => [(.l, if w then 8 else 4), (.r, if w then 8 else 4)]
  | .rem _ w _ _ => [(.l, if w then 8 else 4), (.r, if w then 8 else 4)]
  | .remu _ w _ _ => [(.l, if w then 8 else 4), (.r, if w then 8 else 4)]
  | .and _ w _ _ => [(.l, if w then 8 else 4), (.r, if w then 8 else 4)]
  | .or _ w _ _ => [(.l, if w then 8 else 4), (.r, if w then 8 else 4)]
  | .xor _ w _ _ => [(.l, if w then 8 else 4), (.r, if w then 8 else 4)]
  | .andn _ w _ _ => [(.l, if w then 8 else 4), (.r, if w then 8 else 4)]
  | .shl _ w _ _ => [(.l, if w then 8 else 4), (.r, if w then 8 else 4)]
  | .shr _ w _ _ => [(.l, if w then 8 else 4), (.r, if w then 8 else 4)]
  | .sra _ w _ _ => [(.l, if w then 8 else 4), (.r, if w then 8 else 4)]
  | .rol _ w _ _ => [(.l, if w then 8 else 4), (.r, if w then 8 else 4)]
  | .ror _ w _ _ => [(.l, if w then 8 else 4), (.r, if w then 8 else 4)]
  | .cmp _ w _ _ _ => [(.l, if w then 8 else 4), (.r, if w then 8 else 4)]
  | .min _ w _ _ => [(.l, if w then 8 else 4), (.r, if w then 8 else 4)]
  | .max _ w _ _ => [(.l, if w then 8 else 4), (.r, if w then 8 else 4)]
  | .minu _ w _ _ => [(.l, if w then 8 else 4), (.r, if w then 8 else 4)]
  | .maxu _ w _ _ => [(.l, if w then 8 else 4), (.r, if w then 8 else 4)]
  | .bfxu _ w _ _ => [(.l, if w then 8 else 4), (.r, if w then 8 else 4)]
  | .bfxs _ w _ _ => [(.l, if w then 8 else 4), (.r, if w then 8 else 4)]
  | .bfi w _ _ => [(.l, if w then 8 else 4), (.r, if w then 8 else 4), (.p, if w then 8 else 4)]
  | .sel w _ _ => [(.l, if w then 8 else 4), (.r, if w then 8 else 4), (.p, if w then 8 else 4)]
  | .popc _ w _ _ => [(.l, if w then 8 else 4)]
  | .clz _ w _ _ => [(.l, if w then 8 else 4)]
  | .ctz _ w _ _ => [(.l, if w then 8 else 4)]
  | .neg _ w _ _ => [(.l, if w then 8 else 4)]
  | .abs _ w _ _ => [(.l, if w then 8 else 4)]
  | .sx8 _ w _ _ => [(.l, if w then 8 else 4)]
  | .sx16 _ w _ _ => [(.l, if w then 8 else 4)]
  | .zx8 _ w _ _ => [(.l, if w then 8 else 4)]
  | .zx16 _ w _ _ => [(.l, if w then 8 else 4)]
  | .sx32 .. | .zx32 .. | .addi .. | .andi .. | .ori .. | .xori .. | .fsqrt .. | .fabs .. | .fneg ..
  | .frcp .. | .frsq .. | .fexp2 .. | .flog2 .. | .fsin .. | .fcos .. | .frnd .. | .cvtS .. | .cvtH ..
  | .cvtB .. | .cvtfi .. | .cvtif .. | .cvt8 .. | .cvf8 .. | .fclass .. | .vbcast .. | .bmode .. => [(.l, 4)]
  | .ffma .. => [(.l, 4), (.r, 4), (.p, 4)]
  | .st .. | .amoadd .. | .amomin .. | .amomax .. | .mrda .. => [(.l, 8), (.r, 4)]
  | .scas64 .. => [(.l, 8), (.r, 16)]
  | .scas128 .. => [(.l, 8), (.r, 32)]
  | .sadd .. | .sswap .. | .amot .. => [(.l, 8), (.r, 8)]
  | .qpush .. => [(.l, 32)]
  | .tree .. | .collrec .. | .vabs .. | .vneg .. | .vrcp .. | .vrsq .. | .vexp2 .. | .vlog2 ..
  | .vredSum .. | .vredMin .. | .vredMax .. => [(.l, 64)]
  | .vadd .. | .vsub .. | .vmul .. | .vmin .. | .vmax .. | .vcmp .. => [(.l, 64), (.r, 64)]
  | .vscale .. | .rstep .. | .rbary .. | .migr .. | .seqwait .. => [(.l, 64), (.r, 4)]
  | .vcvt .. => [(.l, 68)]
  | .vfma .. | .vclamp .. => [(.l, 64), (.r, 64), (.p, 64)]
  | .vsel .. => [(.l, 64), (.r, 64), (.p, 8)]
  | .tdef .. => [(.l, 16)]
  | .rsetup .. => [(.l, 24), (.r, 4)]
  | .rayxf .. => [(.l, 64), (.r, 48)]
  | .raybox .. => [(.l, 64), (.r, 24)]
  | .raytri .. => [(.l, 64), (.r, 40)]
  | .blend .. => [(.l, 64), (.r, 136)]
  | _ => []

/-- The predicate mode of an instruction of entry a (R277); `always` for the others. -/
def Instr.pd : Instr → Pd
  | .nop pd | .send pd | .sendm pd | .endRegion pd | .migr pd => pd
  | .mov pd _ _ | .lit32 pd _ _ | .steer pd _ _ | .gate pd _ _ | .gaten pd _ _ | .sync pd _ _
  | .iter pd _ _ | .nextIter pd _ _ | .retire pd _ _ | .fret pd _ _ | .cnt pd _ _ | .bound pd _ _
  | .tagrd pd _ _ | .qlvl pd _ _ | .sx32 pd _ _ | .zx32 pd _ _ | .sysqHandle pd _ _ | .sysqDie pd _ _
  | .sysqReplica pd _ _ | .sysqCtx pd _ _ | .yield pd _ _ | .cyc pd _ _ | .vadd pd _ _ | .vsub pd _ _
  | .vmul pd _ _ | .vmin pd _ _ | .vmax pd _ _ | .vscale pd _ _ | .vabs pd _ _ | .vneg pd _ _
  | .vrcp pd _ _ | .vrsq pd _ _ | .vexp2 pd _ _ | .vlog2 pd _ _ | .vbcast pd _ _ | .vredSum pd _ _
  | .vredMin pd _ _ | .vredMax pd _ _ | .vcvt pd _ _ | .vquant pd _ _ | .mzero pd _ _ | .mrd pd _ _
  | .mrda pd _ _ | .mstat pd _ _ | .rsetup pd _ _ | .rstep pd _ _ | .rbary pd _ _ | .rayxf pd _ _
  | .raybox pd _ _ | .raytri pd _ _ | .seqget pd _ _ | .seqwait pd _ _ | .blend pd _ _ => pd
  | .lit pd _ _ | .addi pd _ _ | .andi pd _ _ | .ori pd _ _ | .xori pd _ _ | .trap pd _ _ => pd
  | .frame pd _ _ _ => pd
  | .rdh pd _ _ _ => pd
  | .wrh pd _ _ | .clrh pd _ _ | .tsth pd _ _ => pd
  | .add pd _ _ _ | .sub pd _ _ _ | .mul pd _ _ _ | .mulh pd _ _ _ | .mulhu pd _ _ _ | .div pd _ _ _
  | .divu pd _ _ _ | .rem pd _ _ _ | .remu pd _ _ _ | .and pd _ _ _ | .or pd _ _ _ | .xor pd _ _ _
  | .andn pd _ _ _ | .shl pd _ _ _ | .shr pd _ _ _ | .sra pd _ _ _ | .rol pd _ _ _ | .ror pd _ _ _
  | .min pd _ _ _ | .max pd _ _ _ | .minu pd _ _ _ | .maxu pd _ _ _ | .bfxu pd _ _ _ | .bfxs pd _ _ _
  | .popc pd _ _ _ | .clz pd _ _ _ | .ctz pd _ _ _ | .neg pd _ _ _ | .abs pd _ _ _ | .sx8 pd _ _ _
  | .sx16 pd _ _ _ | .zx8 pd _ _ _ | .zx16 pd _ _ _ => pd
  | .cmp pd _ _ _ _ => pd
  | .fadd pd _ _ _ _ | .fsub pd _ _ _ _ | .fmul pd _ _ _ _ | .fdiv pd _ _ _ _ | .fsqrt pd _ _ _ _
  | .frnd pd _ _ _ _ | .cvtS pd _ _ _ _ | .cvtH pd _ _ _ _ | .cvtB pd _ _ _ _ | .cvtfi pd _ _ _ _
  | .cvtif pd _ _ _ _ | .cvtifL pd _ _ _ _ => pd
  | .fmin pd _ _ _ | .fmax pd _ _ _ | .fminm pd _ _ _ | .fmaxm pd _ _ _ | .fabs pd _ _ _
  | .fneg pd _ _ _ | .frcp pd _ _ _ | .frsq pd _ _ _ | .fexp2 pd _ _ _ | .flog2 pd _ _ _
  | .fsin pd _ _ _ | .fcos pd _ _ _ | .cvt8 pd _ _ _ | .cvf8 pd _ _ _ | .fclass pd _ _ _ => pd
  | .fcmp pd _ _ _ _ => pd
  | .ld pd _ _ _ _ _ | .st pd _ _ _ _ _ | .ldt pd _ _ _ _ _ | .stt pd _ _ _ _ _ | .pft pd _ _ _ _ _
  | .mnop pd _ _ _ _ _ | .scas64 pd _ _ _ _ _ | .scas128 pd _ _ _ _ _ | .sadd pd _ _ _ _ _
  | .sswap pd _ _ _ _ _ | .amoadd pd _ _ _ _ _ | .amomin pd _ _ _ _ _ | .amomax pd _ _ _ _ _ => pd
  | .ldh pd _ _ _ _ _ => pd
  | .fenceAcq pd _ _ _ | .fenceRel pd _ _ _ | .fenceFull pd _ _ _ => pd
  | .amot pd _ _ _ => pd
  | .qpush pd _ _ _ | .qpop pd _ _ _ | .qpeek pd _ _ _ => pd
  | .barr pd _ _ => pd
  | .tree pd _ _ _ => pd
  | .tailadv pd _ _ | .tlread pd _ _ | .tlwait pd _ _ | .collrec pd _ _ => pd
  | .trapf pd _ _ => pd
  | .rdcfg pd _ _ | .wrcfg pd _ _ => pd
  | .bkpt pd _ _ _ => pd
  | .vcmp pd _ _ _ => pd
  | .vtrans pd _ _ _ | .bload pd _ _ _ => pd
  | .vpoolmax pd _ _ _ _ | .vpoolavg pd _ _ _ _ => pd
  | .tdef pd _ _ | .tstate pd _ _ | .permit pd _ _ | .binv pd _ _ => pd
  | .tset pd _ _ _ => pd
  | .bmode pd _ _ _ _ => pd
  | .mma pd _ _ _ | .mmaz pd _ _ _ => pd
  | _ => .always

/-- The unit an instruction takes (R442); none for a step without a word. -/
def Instr.unit : Instr → Option Unit4
  | .nop .. | .mov .. | .lit .. | .lit32 .. | .steer .. | .gate .. | .gaten .. | .merge .. | .sync ..
  | .iter .. | .nextIter .. | .retire .. | .frame .. | .fret .. | .send .. | .sendm .. | .cnt ..
  | .bound .. | .tagrd .. | .qlvl .. | .rdh .. | .wrh .. | .clrh .. | .tsth .. | .endRegion ..
  | .add .. | .sub .. | .mul .. | .mulh .. | .mulhu .. | .div .. | .divu .. | .rem .. | .remu ..
  | .and .. | .or .. | .xor .. | .andn .. | .shl .. | .shr .. | .sra .. | .rol .. | .ror .. | .cmp ..
  | .min .. | .max .. | .minu .. | .maxu .. | .bfxu .. | .bfxs .. | .bfi .. | .popc .. | .clz ..
  | .ctz .. | .sel .. | .neg .. | .abs .. | .sx8 .. | .sx16 .. | .sx32 .. | .zx8 .. | .zx16 ..
  | .zx32 .. | .addi .. | .andi .. | .ori .. | .xori .. | .fadd .. | .fsub .. | .fmul .. | .ffma ..
  | .fdiv .. | .fsqrt .. | .fmin .. | .fmax .. | .fminm .. | .fmaxm .. | .fabs .. | .fneg .. | .fcmp ..
  | .frcp .. | .frsq .. | .fexp2 .. | .flog2 .. | .fsin .. | .fcos .. | .frnd .. | .cvtS .. | .cvtH ..
  | .cvtB .. | .cvtfi .. | .cvtif .. | .cvtifL .. | .cvt8 .. | .cvf8 .. | .fclass .. | .amot ..
  | .trap .. | .trapf .. | .sysqHandle .. | .sysqDie .. | .sysqReplica .. | .sysqCtx .. | .rdcfg ..
  | .wrcfg .. | .yield .. | .bkpt .. | .cyc .. => some .scalar
  | .ld .. | .st .. | .ldt .. | .stt .. | .ldh .. | .pft .. | .mnop .. | .fenceAcq .. | .fenceRel ..
  | .fenceFull .. | .scas64 .. | .scas128 .. | .sadd .. | .sswap .. | .amoadd .. | .amomin ..
  | .amomax .. | .qpush .. | .qpop .. | .qpeek .. | .barr .. | .tree .. | .tailadv .. | .tlread ..
  | .tlwait .. | .collrec .. | .migr .. => some .memory
  | .vadd .. | .vsub .. | .vmul .. | .vmin .. | .vmax .. | .vscale .. | .vcmp .. | .vabs .. | .vneg ..
  | .vrcp .. | .vrsq .. | .vexp2 .. | .vlog2 .. | .vbcast .. | .vredSum .. | .vredMin .. | .vredMax ..
  | .vcvt .. | .vquant .. | .vfma .. | .vsel .. | .vclamp .. | .vtrans .. | .vpoolmax .. | .vpoolavg ..
  | .tdef .. | .tset .. | .tstate .. | .bmode .. | .permit .. | .binv .. | .bload .. | .rsetup ..
  | .rstep .. | .rbary .. | .rayxf .. | .raybox .. | .raytri .. | .seqget .. | .seqwait .. | .blend .. => some .vector
  | .mma .. | .mmaz .. | .mzero .. | .mrd .. | .mrda .. | .mstat .. => some .matrix
  | _ => none

/-- Every port that an accord of the instruction needs (R190): the data ports, and P as a predicate. -/
def Instr.ports (i : Instr) : List Port :=
  i.dataPorts.map Prod.fst ++ (if i.pd = .always then [] else [.p])

/-- Whether each token of the instruction is an accord by itself (R306). -/
def Instr.merges : Instr → Bool
  | .merge .. => true
  | _ => false

/-- Whether the instruction uses the port. -/
def Instr.uses (i : Instr) (p : Port) : Bool := i.ports.contains p

/-- The width of a port (R102, R189): a predicate port takes 8 bytes. -/
def Instr.portWidth (i : Instr) (p : Port) : Nat :=
  match i.dataPorts.find? (fun q => q.1 = p) with
  | some q => q.2
  | none => 8

/-- What each slot of a block holds: an instruction, a PRIME, or the constant after a LIT32 (R275, R279). -/
def blockSlots : List Word → List (Option SlotWord)
  | [] => []
  | w :: t =>
    match decodeSlot w, t with
    | .ok (.instr (.lit32 pd a b)), _ :: t' => some (.instr (.lit32 pd a b)) :: none :: blockSlots t'
    | .ok x, t => some x :: blockSlots t
    | .error _, t => none :: blockSlots t

/-- The instruction in a slot of a block, if the slot holds one. -/
def slotInstr (ws : List Word) (slot : Nat) : Option Instr :=
  match (blockSlots ws).getD slot none with
  | some (.instr i) => some i
  | _ => none

end Sys2Proof

namespace Sys2Proof.Machine

/-- A value of `n` bytes from a number, cut to them. -/
def Val.of (n v : Nat) : Val := ⟨n, v % 2 ^ (8 * n)⟩

/-- The low `n` bytes of a value, zero-extended where it is shorter (R189). -/
def Val.low (v : Val) (n : Nat) : Nat := v.bits % 2 ^ (8 * n)

/-- A value's bytes, least significant first. -/
def Val.bytes (v : Val) : List Byte := toBytes v.len v.bits

/-- The value that bytes stand for. -/
def Val.ofList (bs : List Byte) : Val := ⟨bs.length, ofBytes bs⟩

/-- Value-buffer lines of a value (R188). -/
def Val.lines (v : Val) : Nat := if 8 < v.len then ceilDiv v.len 64 else 0

/-- Port L of a firing, as it arrived. -/
def Firing.valL (f : Firing) : Val := f.acc.l.getD {}
/-- Port R of a firing, as it arrived. -/
def Firing.valR (f : Firing) : Val := f.acc.r.getD {}
/-- Port P of a firing, as it arrived. -/
def Firing.valP (f : Firing) : Val := f.acc.p.getD {}

/-- Port L at `n` bytes. -/
def Firing.l (f : Firing) (n : Nat) : Nat := f.valL.low n
/-- A firing with another value at port L. -/
def Firing.withL (f : Firing) (v : Val) : Firing := { f with acc := { f.acc with l := some v } }

/-- Port R at `n` bytes. -/
def Firing.r (f : Firing) (n : Nat) : Nat := f.valR.low n
/-- Port P at `n` bytes. -/
def Firing.p (f : Firing) (n : Nat) : Nat := f.valP.low n

/-- Whether an accord of this predicate mode fires (R190); otherwise it is consumed without firing. -/
def Firing.passes (f : Firing) : Pd → Bool
  | .always => true
  | .ifTrue => f.p 1 % 2 == 1
  | .ifFalse => f.p 1 % 2 == 0

/-- The value on a port of an accord. -/
def Accord.port (a : Accord) : Port → Option Val
  | .l => a.l
  | .r => a.r
  | .p => a.p

/-- An accord with a value on a port. -/
def Accord.fill (a : Accord) (p : Port) (v : Val) : Accord :=
  match p with
  | .l => { a with l := some v }
  | .r => { a with r := some v }
  | .p => { a with p := some v }

/-- An accord with a token on a port, the `n`-th to come. -/
def Accord.take (a : Accord) (n : Nat) (p : Port) (v : Val) : Accord := { a.fill p v with came := a.came ++ [(n, p)] }

/-- Value-buffer lines that an accord holds (R188). -/
def Accord.lines (a : Accord) : Nat := sumOf ([a.l, a.r, a.p].filterMap (·.map Val.lines))

end Sys2Proof.Machine
end

