-- ==== Sys2Proof/Machine/Ops.lean ====
section
/-!
DEFINITION. The named operations over cells, tokens, registers and frames: acceptance and matching of tokens (R188,
R189, R196), credits and targets (R191, R192), hold registers and flags (R198, R199, R262), input-queue entries
(R127), fault records (R154, R155), the report of a frame trap (R158) and the park area (R159).
-/

namespace Sys2Proof.Machine

/-- HUB_BOOT_STATUS (R19). -/
def Hub.bootStatus (h : Hub) : Nat :=
  h.phase.toNat * 2 ^ 28 + h.dieOk.toNat * 2 ^ 20 + h.err.toNat * 2 ^ 16 + bitOf h.ready

/-- The outcome of a step. -/
abbrev Result := Host.Outcome State Fault Refusal

/-! ## Lookups -/

/-- The key of a cell. -/
def cellKey (die x y : Nat) : Nat := 3200 * die + 80 * y + x

/-- The cell with a key. -/
def State.cell (s : State) (k : Nat) : Cell := look {} s.cells k

/-- A cell changed. -/
def State.updCell (s : State) (k : Nat) (f : Cell → Cell) : State := { s with cells := upd {} k f s.cells }

/-- The region with an id, if it is present. -/
def State.region? (s : State) (id : Nat) : Option Region := s.regions.find? (fun r => r.id = id)

/-- The region with an id; the empty region where there is none. -/
def State.region (s : State) (id : Nat) : Region := (s.region? id).getD {}

/-- A region changed. -/
def State.updRegion (s : State) (id : Nat) (f : Region → Region) : State :=
  { s with regions := changeFirst (fun r => r.id = id) f s.regions }

/-- The port core with a key 80 die + index. -/
def State.portCore (s : State) (k : Nat) : PortCore := look {} s.ports k

/-- A port core changed. -/
def State.updPort (s : State) (k : Nat) (f : PortCore → PortCore) : State := { s with ports := upd {} k f s.ports }

/-- A number that names a new token, access, operation or region. -/
def State.newId (s : State) : Nat × State := (s.sch.nextId, { s with sch := { s.sch with nextId := s.sch.nextId + 1 } })

/-- A stamp later than every stamp before it. -/
def State.newStamp (s : State) : Nat × State := (s.sch.stamp, { s with sch := { s.sch with stamp := s.sch.stamp + 1 } })

/-- The key of a firing's cell. -/
def Firing.cell (f : Firing) : Nat := cellKey f.die f.x f.y

/-- The window of a cell that a region numbers `rwin` (R110), with its physical number. -/
def Cell.findWin (c : Cell) (region rwin : Nat) : Option (Nat × Window) :=
  c.windows.find? (fun q => q.2.region = region && q.2.rwin = rwin)

/-- A physical window of a cell. -/
def Cell.window (c : Cell) (w : Nat) : Window := look {} c.windows w

/-- A window changed. -/
def Cell.updWindow (c : Cell) (w : Nat) (f : Window → Window) : Cell := { c with windows := upd {} w f c.windows }

/-- The regions present in a cell. -/
def Cell.regions (c : Cell) : List Nat := distinct (c.windows.map (fun q => q.2.region))

/-- The frame of a region's tag allocator with a number. -/
def Region.frame? (r : Region) (frm : Nat) : Option FrameRec := r.frames.find? (fun f => f.frm = frm)

/-- A frame changed. -/
def Region.updFrame (r : Region) (frm : Nat) (f : FrameRec → FrameRec) : Region :=
  { r with frames := changeFirst (fun g => g.frm = frm) f r.frames }

/-- The cells of a region in order of y, then x, as die cells. -/
def Region.cells (r : Region) : List (Nat × Nat) :=
  (List.range r.h).flatMap (fun j => (List.range r.w).map (fun i => (r.x0 + i, r.y0 + j)))

/-- Whether a die cell lies in a region. -/
def Region.contains (r : Region) (x y : Nat) : Bool :=
  decide (r.x0 ≤ x) && decide (x < r.x0 + r.w) && decide (r.y0 ≤ y) && decide (y < r.y0 + r.h)

/-- A region handle (R101). -/
def Region.handle (r : Region) : Nat :=
  r.die * 2 ^ 28 + r.x0 * 2 ^ 21 + r.y0 * 2 ^ 15 + (r.w - 1) * 2 ^ 8 + (r.h - 1) * 4

/-- The region on a die whose handle corner is (x0, y0) (R115). -/
def State.regionAt (s : State) (die x0 y0 : Nat) : Option Region :=
  s.regions.find? (fun r => r.die = die && r.x0 = x0 && r.y0 = y0)

/-! ## Tags (R6, R191) -/

/-- CTX of a tag. -/
def tagCtx (t : Tag) : Nat := bits t.toNat 31 22
/-- FRM of a tag. -/
def tagFrm (t : Tag) : Nat := bits t.toNat 21 14
/-- GEN of a tag. -/
def tagGen (t : Tag) : Nat := bits t.toNat 13 12
/-- ITR of a tag. -/
def tagItr (t : Tag) : Nat := bits t.toNat 11 0
/-- A tag from its fields. -/
def mkTag (ctx frm gen itr : Nat) : Tag := BitVec.ofNat 32 (ctx % 1024 * 2 ^ 22 + frm % 256 * 2 ^ 14 + gen % 4 * 2 ^ 12 + itr % 4096)

/-- NextTag (R191). -/
def nextTag (t : Tag) : Tag :=
  if tagItr t = 4095 then mkTag (tagCtx t) (tagFrm t) ((tagGen t + 1) % 4) 0 else t + 1

/-- FRM of a firing's tag. -/
def Firing.frm (f : Firing) : Nat := tagFrm f.acc.tag

/-! ## Fault records (R154, R155) -/

/-- WHERE in form C (R107, R155). -/
def whereC (die x y rwin slot : Nat) : Word :=
  BitVec.ofNat 32 (die * 2 ^ 28 + x * 2 ^ 21 + y * 2 ^ 15 + rwin * 2 ^ 12 + slot * 64)

/-- WHERE of a firing. -/
def Firing.where_ (f : Firing) : Word := whereC f.die f.x f.y f.rwin f.acc.slot

/-- WHERE in form N: a die, 8 for the hub, and an endpoint (R155). -/
def whereN (die ep : Nat) : Word := BitVec.ofNat 32 (die * 2 ^ 28 + ep * 2 ^ 18)

/-- WHERE in form D (R155). -/
def whereD (die : Nat) : Word := BitVec.ofNat 32 (die * 2 ^ 28)

/-- The class codes (R156). -/
def FaultClass.code : FaultClass → Nat
  | .cmdFormat => 0x0001 | .cmdEngine => 0x0002 | .cmdToken => 0x0003
  | .cfgIllop => 0x0010 | .cfgRsvd => 0x0011 | .cfgFormat => 0x0012 | .cfgNoprime => 0x0013
  | .cfgShape => 0x0014 | .cfgAlign => 0x0015 | .cfgBusy => 0x0016 | .cfgGroup => 0x0017
  | .cfgPlace => 0x0018 | .cfgQuota => 0x0019 | .cfgUe => 0x001A | .cfgFlacon => 0x001B
  | .pageNp => 0x0020 | .pageWp => 0x0021 | .ptFormat => 0x0022 | .hostPage => 0x0023
  | .agnAlign => 0x0024 | .sysAtomicUnsup => 0x0025 | .memUe => 0x0026 | .dataLost => 0x0027
  | .qwait => 0x0030 | .qInvalid => 0x0031
  | .tagx => 0x0040 | .stale => 0x0041 | .deadlock => 0x0042 | .hempty => 0x0043 | .parkFull => 0x0044
  | .trap => 0x0050 | .bkpt => 0x0051 | .priv => 0x0052
  | .linkStarve => 0x0060 | .linkDown => 0x0061 | .treeShape => 0x0062 | .dieLost => 0x0070

/-- A record's 64 bytes (R155). -/
def FaultRec.bytes (r : FaultRec) : List Byte :=
  toBytes 2 r.cls.code ++ toBytes 2 (r.ctx % 1024) ++ toBytes 4 r.tag.toNat ++ toBytes 4 r.loc.toNat ++
  toBytes 20 r.bodyA ++ toBytes 8 r.cycle.toNat ++ toBytes 24 r.bodyB

/-- MSI-X vector `v` sent to the host (R89). -/
def State.sendVector (s : State) (v : Nat) : State := { s with hub := { s.hub with irqs := s.hub.irqs ++ [v] } }

/-- A record written to its context's ring, or counted in LOST where the ring is full, and VEC sent (R154). A
context without a valid descriptor receives none; a translation fault of the ring or its control block leaves the
record unwritten (log 15). -/
def State.putFault (s : State) (r : FaultRec) : State :=
  let s := s.holdDesc r.ctx
  match (s.ctx r.ctx).desc with
  | none => s
  | some d =>
    if d.bad then s else
    match s.vaRead r.ctx d.fqctl 24 with
    | .error _ => s
    | .ok (ctl, s) =>
      let head := ofBytes (ctl.take 8)
      let tail := ofBytes ((ctl.drop 8).take 8)
      let lost := ofBytes ((ctl.drop 16).take 8)
      if (tail + 2 ^ 64 - head) % 2 ^ 64 < 2 ^ d.fqn then
        match s.vaWrite r.ctx (d.fqbase + 64 * (tail % 2 ^ d.fqn)) r.bytes with
        | (s, some _) => s
        | (s, none) => ((s.vaWrite r.ctx (d.fqctl + 8) (toBytes 8 (tail + 1))).1).sendVector d.vec
      else (s.vaWrite r.ctx (d.fqctl + 16) (toBytes 8 (lost + 1))).1

/-! ## Region stops -/

/-- A freeze of a region begins (R169, R173): firing stops; a drydown in progress gives way to it (R175). -/
def State.startFreeze (s : State) (id : Nat) (cause : FreezeCause) : State :=
  s.updRegion id (fun r => { r with stop := .freeze, cause := cause })

/-! ## The park area (R159, R179) -/

/-- The target word of a saved token (R102 bytes 8–11, R179): PORT 00 names an arc. -/
def savedTarget (r : Region) (x y : Nat) (d : Dest) : Nat :=
  match d with
  | .slot w sl p => (x - r.x0) * 2 ^ 25 + (y - r.y0) * 2 ^ 19 + w * 2 ^ 16 + p.code * 2 ^ 14 + sl * 2 ^ 8
  | .arc w a => (x - r.x0) * 2 ^ 25 + (y - r.y0) * 2 ^ 19 + w * 2 ^ 16 + a * 2 ^ 8

/-- The code of a note. -/
def Note.code : Note → Nat
  | .top => 0
  | .heart => 1
  | .base => 2

/-- The note with a code. -/
def Note.ofCode : Nat → Note
  | 0 => .top
  | 1 => .heart
  | _ => .base

/-- The length that a value has on the mesh (R184). -/
def meshLen (v : Val) : Nat := max 4 (4 * ceilDiv v.len 4)

/-- A saved-token entry (R179). -/
def savedToken (r : Region) (x y : Nat) (d : Dest) (kind : Nat) (tag : Tag) (v : Val) (note : Note) (order : Nat) :
    List Byte :=
  toBytes 4 tag.toNat ++ toBytes 4 (savedTarget r x y d + kind * 16) ++ toBytes 2 (meshLen v) ++ toBytes 1 note.code ++
  toBytes 1 0 ++ toBytes 4 order ++ toBytes (8 * ceilDiv (meshLen v) 8) v.bits

/-- An accord's operands as tokens of its slot. -/
def Accord.operands (a : Accord) : List (Port × Val) :=
  [Port.l, Port.r, Port.p].filterMap (fun p => (a.port p).map (fun v => (p, v)))

/-- The targets that a parked item's entries are for (R179). -/
def Parked.targets : Parked → List (Nat × Nat × Dest)
  | .token t => [(t.x, t.y, t.dest)]
  | .accord f => f.acc.operands.map (fun q => (f.x, f.y, .slot f.rwin f.acc.slot q.1))

/-- The entries that a parked item makes behind entries for the targets `before`: kind 4, and kind 5 for a trap accord (log 25), each
with the number of earlier entries for its target (R179). -/
def Parked.entries (r : Region) (note : Note) (before : List (Nat × Nat × Dest)) : Parked → List (List Byte)
  | .token t => [savedToken r t.x t.y t.dest 4 t.tag t.val t.note (before.count (t.x, t.y, t.dest))]
  | .accord f => f.acc.operands.map (fun q =>
      let d := Dest.slot f.rwin f.acc.slot q.1
      savedToken r f.x f.y d 5 f.acc.tag q.2 note (before.count (f.x, f.y, d)))

/-- The entries of parked items in park order, behind entries for the targets `before`. -/
def parkEntries (r : Region) : List (Nat × Nat × Dest) → List Parked → List (List Byte)
  | _, [] => []
  | before, p :: t => p.entries r r.note before ++ parkEntries r (before ++ p.targets) t

/-- The targets of the entries that the park area holds, in order. -/
def Region.parkTargets (r : Region) : List (Nat × Nat × Dest) := r.park.flatMap Parked.targets

/-- The bytes of the park area that are in use. -/
def Region.parkUsed (r : Region) : Nat := sumOf ((parkEntries r [] r.park).map List.length)

/-- PARK_FULL raised, and the region's freeze begun (R159). -/
def State.parkFull (s : State) (id : Nat) (item : Parked) (fault : Bool) : State :=
  let r := s.region id
  let s := s.updRegion id (fun r => { r with parkKept := [item] })
  let s := s.putFault { cls := .parkFull, ctx := r.ctx, loc := whereD r.die, cycle := (s.die r.die).netCycles,
                        bodyA := bitOf fault + r.parkUsed * 2 ^ 32, bodyB := r.handle }
  s.startFreeze id .parkFull

/-- An item appended to the park area of its region (R159); once one has found no room there, the die scheduler keeps those after it
behind it. -/
def State.park (s : State) (id : Nat) (item : Parked) : State :=
  let r := s.region id
  let used := r.parkUsed
  let new := (item.entries r r.note r.parkTargets).flatten
  if !r.parkKept.isEmpty then s.updRegion id (fun r => { r with parkKept := r.parkKept ++ [item] })
  else if r.image.parkSize < 64 + used + new.length then s.parkFull id item false
  else
    match s.vaWrite r.ctx (r.image.parkVa + 64 + used) new with
    | (s, some _) => s.parkFull id item true
    | (s, none) =>
      match s.vaWrite r.ctx r.image.parkVa (toBytes 8 (used + new.length)) with
      | (s, some _) => s.parkFull id item true
      | (s, none) => s.updRegion id (fun r => { r with park := r.park ++ [item] })

/-! ## Traps of a frame (R158 step 1) -/

/-- The report of a trap to the die scheduler: the record, its CYCLE of the raising unit's clock (R155), and the accord that becomes
the trap accord, whose operands leave the matching store. -/
def State.reportAt (s : State) (cycle : Dword) (f : Firing) (accord : Bool) (cls : FaultClass) (bodyA : Nat) : State :=
  let r := s.region f.region
  let rcd : FaultRec := { cls := cls, ctx := r.ctx, tag := f.acc.tag, loc := f.where_, bodyA := bodyA, cycle := cycle, bodyB := r.handle }
  s.updDie f.die (fun d => { d with
    reports := d.reports ++ [{ region := f.region, frm := f.frm, accord := if accord then some f else none, rcd := rcd }] })

/-- The report of a trap that a cell raises: its clock is the fabric's (R155, R211). -/
def State.report (s : State) (f : Firing) (accord : Bool) (cls : FaultClass) (bodyA : Nat) : State :=
  s.reportAt (s.die f.die).fabCycles f accord cls bodyA

/-- The report of a trap that a port core raises: its clock is the network's (R155, R211). -/
def State.reportPort (s : State) (f : Firing) (accord : Bool) (cls : FaultClass) (bodyA : Nat) : State :=
  s.reportAt (s.die f.die).netCycles f accord cls bodyA

/-- The trap of the firing being carried out, taken as its effect: nothing of the accord completes, and its operands
become the frame's trap accord (R158 step 1, R395). `code` and `operand` fill body A (R157). -/
def State.takeTrap (s : State) (f : Firing) (cls : FaultClass) (code operand : Nat) : Result :=
  .next (s.report f true cls (code % 2 ^ 32 + operand % 2 ^ 64 * 2 ^ 32))

/-- The CFG_SHAPE trap of an accord (R205, R353 to R360): field code, image VA and the record's offset. -/
def State.takeShape (s : State) (f : Firing) (field offset : Nat) : Result :=
  .next (s.report f true .cfgShape (field + (s.region f.region).imageVa * 2 ^ 32 + offset * 2 ^ 96))

/-! ## Hold registers (R198, R199) -/

/-- The frame slot of a cell that (region, FRM) holds. -/
def Cell.frameSlot (c : Cell) (region frm : Nat) : Option Nat :=
  findIdx (fun q : FrameSlot => q.region = region && q.frm = frm && q.region ≠ 0) c.frames

/-- The frame slot that (region, FRM) holds or the lowest free one, taken for it with every register EMPTY; none
where all 16 are in use (R198). -/
def Cell.takeSlot (c : Cell) (region frm : Nat) : Option (Nat × Cell) :=
  match c.frameSlot region frm with
  | some i => some (i, c)
  | none =>
    match findIdx (fun q : FrameSlot => q.region = 0) c.frames with
    | some i => some (i, { c with frames := c.frames.set i { region := region, frm := frm } })
    | none =>
      if c.frames.length < 16 then
        some (c.frames.length, { c with frames := c.frames ++ [{ region := region, frm := frm }] })
      else none

/-- Whether (region, FRM) has a frame slot in a cell or can take one. -/
def Cell.slotFree (c : Cell) (region frm : Nat) : Bool := (c.takeSlot region frm).isSome

/-- A register of a frame slot. -/
def Cell.hold (c : Cell) (i : Nat) (h : Nat) : HoldReg := look {} ((c.frames.getD i {}).regs) h

/-- A register of a frame slot set. -/
def Cell.setHold (c : Cell) (i h : Nat) (v : HoldReg) : Cell :=
  { c with frames := c.frames.modify i (fun q => { q with regs := put {} h v q.regs }) }

/-- The register of (region, FRM), EMPTY where the frame has no slot. -/
def Cell.holdOf (c : Cell) (region frm h : Nat) : HoldReg :=
  match c.frameSlot region frm with
  | some i => c.hold i h
  | none => {}

/-- A value that lands in a hold register (R199): FULL with it, or waiting while the register is PENDING. -/
def Cell.writeHold (c : Cell) (region frm : Nat) (h : BitVec 5) (v : Dword) : Cell :=
  match c.takeSlot region frm with
  | none => c
  | some (i, c) =>
    if (c.hold i h.toNat).st = .pending then { c with holdWaits := c.holdWaits ++ [.write region frm h v] }
    else c.setHold i h.toNat { st := .full, val := v }

/-- Flags ORed into H31 (R262): they wait for a PENDING register, or for a frame slot. -/
def Cell.orFlags (c : Cell) (region frm : Nat) (fl : BitVec 5) : Cell :=
  if fl = 0 then c else
  match c.takeSlot region frm with
  | none => { c with holdWaits := c.holdWaits ++ [.flags region frm fl] }
  | some (i, c) =>
    let q := c.hold i 31
    match q.st with
    | .pending => { c with holdWaits := c.holdWaits ++ [.flags region frm fl] }
    | .full => c.setHold i 31 { st := .full, val := q.val ||| fl.setWidth 64 }
    | .empty => c.setHold i 31 { st := .full, val := fl.setWidth 64 }

/-- The waits of a cell tried again, in order (R199, R262). -/
def Cell.settle (c : Cell) : Cell :=
  c.holdWaits.foldl (fun c w =>
    match w with
    | .write region frm h v => c.writeHold region frm h v
    | .flags region frm fl => c.orFlags region frm fl) { c with holdWaits := [] }

/-- An LDH response that lands (R199): FULL with the value, then the effects that waited for it. -/
def Cell.landHold (c : Cell) (region frm : Nat) (h : BitVec 5) (v : Dword) : Cell :=
  match c.frameSlot region frm with
  | none => c
  | some i => (c.setHold i h.toNat { st := .full, val := v }).settle

/-- The frame slot of a frame freed, with what waits for it; flag updates that waited for a slot follow (R198, R262). -/
def Cell.freeSlot (c : Cell) (region frm : Nat) : Cell :=
  let c := { c with holdWaits := c.holdWaits.filter (fun w =>
    match w with
    | .write r g _ _ => !(r = region && g = frm)
    | .flags r g _ => !(r = region && g = frm)) }
  match c.frameSlot region frm with
  | none => c
  | some i => ({ c with frames := c.frames.set i {} }).settle

/-! ## Room in a cell -/

/-- Matching-store entries of a region in use in a cell, those held for results on their way included (R190). -/
def Cell.entriesOf (c : Cell) (region : Nat) : Nat :=
  ((c.matching ++ c.waiting).filter (fun a => (c.window a.win).region = region)).length + look 0 c.heldEntries region

/-- Value-buffer lines of a region in use in a cell. -/
def Cell.linesOf (c : Cell) (region : Nat) : Nat :=
  sumOf (((c.matching ++ c.waiting).filter (fun a => (c.window a.win).region = region)).map Accord.lines) +
    look 0 c.heldLines region

/-- Whether a region's use of a store, raised by `n`, fits: its guarantee, or the shared rest (R188). -/
def fitsShared (total guarantee : Nat) (regions : List Nat) (use : Nat → Nat) (region n : Nat) : Bool :=
  let after := fun r => use r + if r = region then n else 0
  decide (after region ≤ guarantee) ||
    decide (sumOf (regions.map (fun r => after r - guarantee)) + guarantee * regions.length ≤ total)

/-- Whether a cell can give a region `n` new matching-store entries and `lines` value-buffer lines (R188). -/
def Cell.canEnter (c : Cell) (region n lines : Nat) : Bool :=
  fitsShared Config.matchEntries 64 c.regions c.entriesOf region n &&
  fitsShared Config.valueLines 32 c.regions c.linesOf region lines

/-- A region's reservation in a cell (R126). -/
def Cell.qres (c : Cell) (qextra : Nat) (region : Nat) : Nat :=
  sumOf ((c.windows.filter (fun q => q.2.region = region)).flatMap (fun q =>
    (q.2.ins.filter (fun a => a.2.fifo.isNone)).map (fun a => a.2.depth))) + qextra

/-- The shared remainder S of a cell's input queue (R126). -/
def State.sharedRest (s : State) (k : Nat) : Nat :=
  let c := s.cell k
  Config.queueEntries - sumOf (c.regions.map (fun r => c.qres (s.region r).image.qextra r))

/-- A non-arc input-queue entry taken for a region (R127): of its QEXTRA first, then of the shared remainder. -/
def State.takeEntry (s : State) (k region : Nat) : Option (Pool × State) :=
  let c := s.cell k
  if look 0 c.qextraUsed region < (s.region region).image.qextra then
    some (.qextra, s.updCell k (fun c => { c with qextraUsed := upd 0 region (· + 1) c.qextraUsed }))
  else
    let rest := s.sharedRest k
    if sumOf (c.sharedUsed.map Prod.snd) < rest && look 0 c.sharedUsed region < rest / 2 then
      some (.shared, s.updCell k (fun c => { c with sharedUsed := upd 0 region (· + 1) c.sharedUsed }))
    else none

/-- `n` such entries taken, or none at all. -/
def State.takePools (s : State) (k region : Nat) : Nat → Option (List Pool × State)
  | 0 => some ([], s)
  | n + 1 =>
    match s.takeEntry k region with
    | none => none
    | some (p, s) => (s.takePools k region n).map (fun q => (p :: q.1, q.2))

/-- An input-queue entry returned to its pool (R127). -/
def Cell.giveEntry (c : Cell) (region : Nat) : Pool → Cell
  | .qextra => { c with qextraUsed := upd 0 region (· - 1) c.qextraUsed }
  | .shared => { c with sharedUsed := upd 0 region (· - 1) c.sharedUsed }
  | _ => c

/-- The room held for a slot target given back (R190). -/
def Cell.unhold (c : Cell) (region lines : Nat) : Cell :=
  { c with heldEntries := upd 0 region (· - 1) c.heldEntries, heldLines := upd 0 region (· - lines) c.heldLines }

/-! ## Acceptance and matching (R188, R189, R196, R197, R316) -/

/-- What becomes of a token that reaches a cell. -/
inductive Admission where
  | accept | park | drop | stale (lap : Nat)
  deriving DecidableEq, Repr

/-- LAP of a frame as a cell last acknowledged it, and whether it has ever wrapped (R194, R196). -/
def FrameRec.lapAt (f : FrameRec) (x y : Nat) : Bool × Nat :=
  match f.wrap with
  | some w => if !w.cells.contains (x, y) then (true, (f.lap.toNat + 1) % 4) else (decide (0 < f.wraps), f.lap.toNat)
  | none => (decide (0 < f.wraps), f.lap.toNat)

/-- Whether a generation lies in the lap window (R196). -/
def FrameRec.inWindow (f : FrameRec) (x y gen : Nat) : Bool :=
  let q := f.lapAt x y
  if q.1 then gen = q.2 || gen = (q.2 + 3) % 4 else gen = 0

/-- The admission of a token of a region under a tag at a cell (R159, R163, R196, R316). -/
def Region.admission (r : Region) (x y : Nat) (tag : Tag) : Admission :=
  match r.frame? (tagFrm tag) with
  | none => .drop
  | some f =>
    if f.killed || f.returned then .drop
    else if r.trapSet.contains (tagFrm tag) then .park
    else if f.inWindow x y (tagGen tag) then .accept
    else .stale (f.lapAt x y).2

/-- An accord put behind the waiting accords. -/
def addWaiting (l : List Accord) (a : Accord) : List Accord := l ++ [a]

/-- Difference of two pass values, which compare modulo 2^32 (R128). -/
def passBefore (a b : BitVec 32) : Bool := bit (a - b).toNat 31

/-- The unit of the instruction of an accord in a cell. -/
def Cell.unitOf (c : Cell) (a : Accord) : Option Unit4 := (slotInstr (c.window a.win).words a.slot).bind Instr.unit

/-- The pass value of a window for a unit (R128, R402). -/
def Window.passOf (w : Window) (u : Unit4) : BitVec 32 := look 0 w.pass u.num

/-- The pass value of a window that becomes ready for a unit, by a complete accord, after holding nothing ready (R128). -/
def Cell.catchUp (c : Cell) (w : Nat) (u : Unit4) : Cell :=
  let ready := fun (v : Nat) => c.waiting.any (fun a => a.win = v && c.unitOf a = some u)
  if ready w then c else
  let win := c.window w
  match (c.windows.filter (fun q => q.2.note = win.note && ready q.1)).map (fun q => q.2.passOf u) with
  | [] => c
  | p :: t =>
    let least := t.foldl (fun m q => if passBefore q m then q else m) p
    if passBefore (win.passOf u) least then c.updWindow w (fun win => { win with pass := put 0 u.num least win.pass }) else c

/-- An accord that is complete joins the waiting accords under the next stamp. -/
def State.completed (s : State) (k : Nat) (a : Accord) : State :=
  let (st, s) := s.newStamp
  s.updCell k (fun c =>
    let c := match c.unitOf a with
      | some u => c.catchUp a.win u
      | none => c
    { c with waiting := addWaiting c.waiting { a with stamp := st } })

/-- The binding whose START (true) or PARAM (false) port a slot's port is (R214, R218, R219). -/
def State.portTarget (s : State) (k w slot : Nat) (port : Port) : Option (Binding × Bool) :=
  let win := (s.cell k).window w
  let r := s.region win.region
  let names := fun (t : Target) => match t with
    | .slot p _ sl => p = port && sl.toNat = slot
    | _ => false
  let mine := fun (b : Binding) => k = cellKey r.die (r.x0 + b.ix) (r.y0 + b.iy) && b.iwin = win.rwin
  r.image.bindings.findSome? (fun b =>
    if mine b && names b.start then some (b, true) else if mine b && names b.param then some (b, false) else none)

/-- The AGN that serves a binding of a region. -/
def State.agn (s : State) (r : Region) (b : Binding) : Agn := look {} (s.portCore (80 * r.die + b.core)).agns b.agn

/-- The AGN that serves a binding changed. -/
def State.updAgn (s : State) (r : Region) (b : Binding) (f : Agn → Agn) : State :=
  s.updPort (80 * r.die + b.core) (fun c => { c with agns := upd {} b.agn f c.agns })

/-- A token entered into the matching store of a cell (R189, R306): it joins the oldest entry of its slot and tag
whose port is empty, or starts one; an accord that has every port is complete (R190). A token of a START or PARAM port
goes to its AGN (R218, R219). -/
def State.matchToken (s : State) (k w slot : Nat) (port : Port) (tag : Tag) (v : Val) : State :=
  let c := s.cell k
  match s.portTarget k w slot port with
  | some (b, start) =>
    let (st, s) := s.newStamp
    let a : Accord := { win := w, slot := slot, tag := tag, l := some v, stamp := st }
    s.updAgn (s.region (c.window w).region) b (fun g =>
      if start then { g with starts := g.starts ++ [a] } else { g with params := g.params ++ [a] })
  | none =>
  match slotInstr (c.window w).words slot with
  | none => s
  | some i =>
    let (n, s) := s.newStamp
    let fresh : Accord := ({ win := w, slot := slot, tag := tag } : Accord).take n port v
    if i.merges then s.completed k fresh else
    let here := fun a : Accord => a.win = w && a.slot = slot && a.tag = tag && (a.port port).isNone
    if c.waiting.any here then
      s.updCell k (fun c => { c with waiting := changeFirst here (fun a => a.take n port v) c.waiting })
    else
      let a := match c.matching.find? here with
        | some a => a.take n port v
        | none => fresh
      let rest := dropFirst here c.matching
      if i.ports.all (fun p => (a.port p).isSome) then
        (s.updCell k (fun c => { c with matching := rest })).completed k a
      else if c.matching.any here then
        s.updCell k (fun c => { c with matching := changeFirst here (fun a => a.take n port v) c.matching })
      else s.updCell k (fun c => { c with matching := c.matching ++ [a] })

/-- The STALE report of a token (R157, R197). -/
def State.stale_ (s : State) (die x y region rwin slot : Nat) (tag : Tag) (lap : Nat) : State :=
  s.report { die := die, x := x, y := y, region := region, rwin := rwin, acc := { slot := slot, tag := tag } } false
    .stale (tagGen tag + lap * 256)

/-- The steering hash of a key (R123). -/
def steerHash (k blog : Nat) : Nat := k * 0x9E3779B1 % 2 ^ 32 / 2 ^ (32 - blog)

/-- The bucket of a token (R123). -/
def ActorRec.bucket (a : ActorRec) (tag : Tag) (v : Val) : Nat :=
  if a.blog = 0 then 0
  else if a.ksrc = 0 then steerHash tag.toNat a.blog
  else if a.ksrc = 1 then steerHash (bits v.bits a.khi a.klo) a.blog
  else bits v.bits (a.klo + a.blog - 1) a.klo

/-- The indices at which an actor has a replica (R119, R122). -/
def Actor.present (a : Actor) : List Nat := (List.range a.replicas.length).filter (fun i => !a.freed.contains i)

/-- Those of them that do not leave (R122). -/
def Actor.staying (a : Actor) : List Nat := a.present.filter (fun i => !a.leaving.contains i)

/-- The cells of an actor's replicas. -/
def Actor.cells (a : Actor) : List (Nat × Nat) := a.present.filterMap (fun i => a.replicas[i]?)

/-- The elastic actor of a region that owns a window of a cell, if any (R119): of a replica, or of a cell that the image
gave it. -/
def Region.actorAt (r : Region) (x y rwin : Nat) : Option Actor :=
  r.actors.find? (fun a => a.cfg.elastic && bit a.cfg.wins rwin && (a.cells.contains (x, y) || a.placed.contains (x, y)))

/-- The cell to which the steering map sends a token bound for a window (R123, R124). -/
def Region.steer (r : Region) (x y rwin : Nat) (tag : Tag) (v : Val) : Nat × Nat :=
  match r.actorAt x y rwin with
  | none => (x, y)
  | some a => a.replicas.getD (a.buckets.getD (a.cfg.bucket tag v) 0) (x, y)

/-- What a cell does with a token of an elastic actor's window. -/
inductive Steer where
  /-- It enters the matching store here. -/
  | here
  /-- It goes on to another cell (R124 step 2). -/
  | away (x y : Nat)
  /-- Its bucket is moving here, and it is held until the move's release (R124 step 1). -/
  | hold (actor : Nat)
  deriving DecidableEq, Repr

/-- Where a token for a window that has reached a cell goes (R123, R124). -/
def Region.steerAt (r : Region) (x y rwin : Nat) (tag : Tag) (v : Val) : Steer :=
  match r.actorAt x y rwin with
  | none => .here
  | some a =>
    let b := a.cfg.bucket tag v
    let goal := a.replicas.getD (a.buckets.getD b 0) (x, y)
    if goal ≠ (x, y) then .away goal.1 goal.2
    else if 0 < a.cfg.ssize && a.moves.any (fun m => m.bucket = b && m.step < 4) then .hold a.cfg.actor
    else .here

/-- A token offered to a slot of a cell without passing through its input queue: accepted and matched, parked,
discarded or STALE; one whose bucket has moved away, or is moving here, queues, to be forwarded or held (R124). -/
def State.offer (s : State) (die x y region rwin slot : Nat) (port : Port) (tag : Tag) (v : Val) (note : Note) : State :=
  match (s.region region).admission x y tag with
  | .drop => s
  | .park => s.park region (.token { region := region, sx := x, sy := y, x := x, y := y, dest := .slot rwin slot port,
                                     tag := tag, val := v, note := note })
  | .stale lap => s.stale_ die x y region rwin slot tag lap
  | .accept =>
    match (s.cell (cellKey die x y)).findWin region rwin with
    | none => s
    | some (w, _) =>
      if (s.region region).steerAt x y rwin tag v = .here then s.matchToken (cellKey die x y) w slot port tag v
      else
        let (id, s) := s.newId
        s.updCell (cellKey die x y) (fun c => { c with queue := c.queue ++
          [{ id := id, region := region, sx := x, sy := y, x := x, y := y, dest := .slot rwin slot port, tag := tag, val := v, note := note }] })

/-! ## Arcs (R191 to R193) -/

/-- What a token takes of an output arc's CRED (R192, R193). -/
def OutArc.need (o : OutArc) (len : Nat) : Nat := if o.fifo then ceilDiv (16 + len) 64 else 1

/-- The input arc of a cell's window. -/
def State.inArc (s : State) (k w a : Nat) : InArc := look {} ((s.cell k).window w).ins a

/-- An input arc changed. -/
def State.updIn (s : State) (k w a : Nat) (f : InArc → InArc) : State :=
  s.updCell k (fun c => c.updWindow w (fun win => { win with ins := upd {} a f win.ins }))

/-- An output arc changed. -/
def State.updOut (s : State) (k w a : Nat) (f : OutArc → OutArc) : State :=
  s.updCell k (fun c => c.updWindow w (fun win => { win with outs := upd {} a f win.outs }))

/-- The consumer end of an output arc: cell key, physical window, arc. -/
def State.consumer (s : State) (region : Nat) (o : OutArc) : Option (Nat × Nat × Nat) :=
  let k := cellKey (s.region region).die o.cx o.cy
  ((s.cell k).findWin region o.cwin).map (fun q => (k, q.1, o.carc))

/-- The spill entries free behind an extended arc: 1,024 less those queued or spoken for (R170); 0 for an arc not extended. -/
def State.spillRoom (s : State) (region : Nat) (o : OutArc) : Nat :=
  match s.consumer region o with
  | none => 0
  | some (k, w, a) => let i := s.inArc k w a; if i.extended then 1024 - i.spill.length - i.pending else 0

/-- The slots, or entries of a ring, that a token of a length takes at its consumer (R192, R193). -/
def InArc.need (i : InArc) (len : Nat) : Nat := if i.fifo.isSome then ceilDiv (16 + len) 64 else 1

/-- The tokens at the head of a spill queue that `n` slots or entries take, those that stay, and what is left of `n`. -/
def InArc.fit (i : InArc) : List Tok → Nat → List Tok × List Tok × Nat
  | [], n => ([], [], n)
  | t :: rest, n =>
    let e := i.need (meshLen t.val)
    if e ≤ n then let q := i.fit rest (n - e); (t :: q.1, q.2.1, q.2.2) else ([], t :: rest, n)

/-- The extension of an arc ends once its spill queue is empty and no late result is on its way to it (R170). -/
def InArc.settled (i : InArc) : InArc := { i with extended := i.extended && (!i.spill.isEmpty || 0 < i.pending) }

/-- `n` slots or entries of an arc given to the head of its spill queue, whose tokens follow those on their way (R170); what is left
of `n`. -/
def State.refill (s : State) (k w a n : Nat) : Nat × State :=
  let i := s.inArc k w a
  let q := i.fit i.spill n
  let s := s.updIn k w a (fun i => ({ i with spill := q.2.1, spilled := i.spilled + q.1.length } : InArc).settled)
  (q.2.2, { s with toks := s.toks ++ q.1 })

/-- A token put behind the others of an extended arc's spill queue (R170), and into its entry of the spill area (R290, log 26). -/
def State.appendSpill (s : State) (k w a : Nat) (t : Tok) : State :=
  let i := s.inArc k w a
  let r := s.region t.region
  let e := 278528 * i.area + 272 * ((i.spilled + i.spill.length) % 1024)
  let s := (s.vaWrite r.ctx (r.image.spillVa + e) (savedToken r t.x t.y t.dest 2 t.tag t.val t.note 0)).1
  s.updIn k w a (fun i => { i with spill := i.spill ++ [t] })

/-- A free-slot notice on its way to the producer of an input arc (R186, R192). -/
def State.notify (s : State) (region : Nat) (i : InArc) (count : Nat) : State :=
  let (id, s) := s.newId
  { s with notices := s.notices ++ [{ id := id, region := region, x := i.px, y := i.py, rwin := i.pwin, arc := i.parc, count := count }] }

/-- An input arc as the token in its slot came by it: a clone's token has its own producer (R121). -/
def InArc.by (i : InArc) (t : Tok) : InArc := { i with px := t.sx, py := t.sy, pwin := t.pwin, parc := t.parc }

/-- A slot of an input arc freed (R170, R192): the head of its spill queue takes it, else its producer is told. -/
def State.freeArcSlot (s : State) (t : Tok) (k w a : Nat) : State :=
  let i := s.inArc k w a
  let q := (s.updIn k w a (fun i => { i with occupied := i.occupied - 1 })).refill k w a 1
  if q.1 = 0 then q.2 else q.2.notify t.region (i.by t) 1

/-- The spill queue behind an output arc drawn down by the credit that its producer holds (R170). -/
def State.drawSpill (s : State) (region k w a : Nat) : State :=
  let o := look {} ((s.cell k).window w).outs a
  match s.consumer region o with
  | none => s
  | some (ck, cw, ca) =>
    if (s.inArc ck cw ca).spill.isEmpty then s else
    let q := s.refill ck cw ca o.cred
    q.2.updOut k w a (fun o => { o with cred := q.1 })

/-- What a token of an input queue holds given back as it leaves: its arc slot, its entry, and its room (R127, R190, R192). -/
def State.leaveQueue (s : State) (k : Nat) (t : Tok) : State :=
  let s := match t.pool, t.dest with
    | .arc, .arc rwin a =>
      match (s.cell k).findWin t.region rwin with
      | some (w, _) => s.freeArcSlot t k w a
      | none => s
    | _, _ => s.updCell k (fun c => c.giveEntry t.region t.pool)
  if t.held then s.updCell k (fun c => c.unhold t.region t.val.lines) else s

/-- Whether an arc takes tokens of these lengths now: its credit covers them (R192), or its spill queue takes those
beyond it (R170). -/
def State.arcReady (s : State) (region : Nat) (o : OutArc) (lens : List Nat) : Bool :=
  let need := sumOf (lens.map o.need)
  decide (need ≤ o.cred) || decide (lens.length ≤ s.spillRoom region o)

/-! ## Endpoints and activation streams (R25, R35, R55, R151) -/

/-- An address: module, die (8 for the hub) and endpoint (R25). -/
def netAddr (module die ep : Nat) : Nat := module * 2 ^ 14 + die * 2 ^ 10 + ep

/-- The module's own group and number (R55). -/
def State.ownGroup (s : State) : Nat := bits s.lnkMod.toNat 7 4
/-- The module's own number in its group (R55). -/
def State.ownModule (s : State) : Nat := bits s.lnkMod.toNat 3 0

/-- The endpoint with a key 1024 die + number. -/
def State.ep (s : State) (k : Nat) : Endpoint := look {} s.eps k

/-- An endpoint changed. -/
def State.updEp (s : State) (k : Nat) (f : Endpoint → Endpoint) : State := { s with eps := upd {} k f s.eps }

/-- The address of an endpoint of this module, with its group above it. -/
def State.epAddr (s : State) (k : Nat) : Nat := netAddr s.ownModule (k / 1024) (k % 1024) + s.ownGroup * 2 ^ 18

/-- An operation that needs a new stream of an endpoint (R35). -/
def State.wantStream (s : State) (k : Nat) (t : SendStream) : State := s.updEp k (fun e => { e with wants := e.wants ++ [t] })

/-- Token values (tag, ADDR, value) put on the stream of an endpoint that has `t`'s owner and goal, which the first of them opens. -/
def State.feedStream (s : State) (k : Nat) (t : SendStream) (items : List (Nat × Nat × Val)) (final : Bool) : State :=
  let mine := fun (q : SendStream) => q.owner = t.owner && q.dst = t.dst
  let add := fun (q : SendStream) => match q.feed with
    | .tokens l _ => { q with feed := .tokens (l ++ items) final }
    | _ => q
  let e := s.ep k
  if e.sends.any mine then s.updEp k (fun e => { e with sends := changeFirst mine add e.sends })
  else if e.wants.any mine then s.updEp k (fun e => { e with wants := changeFirst mine add e.wants })
  else s.wantStream k { t with feed := .tokens items final }

/-- The region that a LAUNCH record of a context has started. -/
def State.launched (s : State) (ctx ordinal : Nat) : Option Region :=
  s.regions.find? (fun r => r.ctx = ctx && r.chain = 0 && r.ordinal = ordinal)

/-- The activation stream that leaves by an output arc of a cell (R151). -/
def State.actFrom (s : State) (region x y rwin a : Nat) : Option ActStream :=
  s.acts.find? (fun q => q.x + (s.region region).x0 = x && q.y + (s.region region).y0 = y && q.rwin = rwin && q.arc = a &&
    (s.launched q.ctx q.launch).map (fun r => r.id) = some region)

/-- An activation stream changed. -/
def State.updAct (s : State) (id : Nat) (f : ActStream → ActStream) : State :=
  { s with acts := changeFirst (fun q => q.id = id) f s.acts }

/-- The endpoint of this module with an address. -/
def addrKey (a : Nat) : Nat := bits a 13 10 * 1024 + bits a 9 0

/-- A token handed to the port core that carries its activation stream (R151), which opens with the first of them. -/
def State.feedAct (s : State) (q : ActStream) (tag : Tag) (v : Val) : State :=
  let s := s.updAct q.id (fun q => { q with queue := q.queue ++ [(tag, v)], opened := true })
  if q.opened then s
  else s.wantStream (addrKey q.src) { dst := q.goal, stream := q.stream, cls := q.note, ord := true, ctx := q.ctx, feed := .act q.id, owner := .act q.id }

/-- A token of a producer on an arc: onto the mesh against its credit, or to the spill queue of an extended arc, which it never
overtakes (R170, R192), or to the port core of its activation stream (R151). The credit of a late result was `paid` before. -/
def State.emitArc (s : State) (die x y region : Nat) (w a : Nat) (tag : Tag) (v : Val) (kind : TokKind) (note : Note) (paid : Bool) :
    State :=
  let k := cellKey die x y
  let win := (s.cell k).window w
  let o := look {} win.outs a
  let cred := if paid then o.cred + o.need v.len else o.cred
  match s.actFrom region x y win.rwin a with
  | some q => (s.updOut k w a (fun o => { o with cred := cred - o.need v.len })).feedAct q tag v
  | none =>
  let (id, s) := s.newId
  let goal := (s.region region).steer o.cx o.cy o.cwin tag v
  let t : Tok := { id := id, region := region, sx := x, sy := y, x := goal.1, y := goal.2, dest := .arc o.cwin o.carc, tag := tag,
                   val := v, kind := kind, note := note, pool := .arc, pwin := win.rwin, parc := a }
  let behind := (s.consumer region o).filter (fun q => !(s.inArc q.1 q.2.1 q.2.2).spill.isEmpty || decide (cred < o.need v.len))
  match behind with
  | none =>
    let s := s.updOut k w a (fun o => { o with cred := cred - o.need v.len })
    { s with toks := s.toks ++ [t] }
  | some (ck, cw, ca) => ((s.updOut k w a (fun o => { o with cred := cred })).appendSpill ck cw ca t).drawSpill region k w a

/-! ## Results (R190, R191) -/

/-- The slot sends of a list of sends. -/
def slotSends (l : List (Target × Val)) : List Val :=
  l.filterMap (fun q => match q.1 with | .slot .. => some q.2 | _ => none)

/-- The registers that a list of sends writes. -/
def holdSends (l : List (Target × Val)) : List Nat :=
  l.filterMap (fun q => match q.1 with | .hold h => some h.toNat | _ => none)

/-- The arcs that a list of sends targets. -/
def arcSends (l : List (Target × Val)) : List Nat :=
  l.filterMap (fun q => match q.1 with | .arc n => some n.toNat | _ => none)

/-- The lengths of the tokens that a list of sends puts on an arc. -/
def arcLens (l : List (Target × Val)) (a : Nat) : List Nat :=
  l.filterMap (fun q => match q.1 with | .arc n => if n.toNat = a then some q.2.len else none | _ => none)

/-- Whether a register can be written by a firing (R190, R199): its frame has or can take a slot, and it is not
PENDING. -/
def Cell.holdReady (c : Cell) (region frm h : Nat) : Bool :=
  c.slotFree region frm && (c.holdOf region frm h).st ≠ .pending

/-- Whether a firing's sends are ready (R190): every output arc has the credits, every register can be written, and
the cell can give every slot target its entry and lines. -/
def State.canSend (s : State) (f : Firing) (l : List (Target × Val)) : Bool :=
  let c := s.cell f.cell
  let win := c.window f.acc.win
  (distinct (arcSends l)).all (fun a => s.arcReady f.region (look {} win.outs a) (arcLens l a)) &&
  (holdSends l).all (fun h => c.holdReady f.region f.frm h) &&
  c.canEnter f.region (slotSends l).length (sumOf ((slotSends l).map Val.lines))

/-- One send of a firing under a tag (R191). -/
def State.send1 (s : State) (f : Firing) (tag : Tag) (paid : Bool) (t : Target) (v : Val) : State :=
  let note := ((s.cell f.cell).window f.acc.win).note
  match t with
  | .discard => s
  | .slot port adv slot => s.offer f.die f.x f.y f.region f.rwin slot.toNat port (if adv then nextTag tag else tag) v note
  | .arc n => s.emitArc f.die f.x f.y f.region f.acc.win n.toNat tag v .arc note paid
  | .hold h => s.updCell f.cell (fun c => c.writeHold f.region (tagFrm tag) h (BitVec.ofNat 64 v.bits))

/-- The sends of a firing, in order. -/
def State.sendAll (s : State) (f : Firing) (tag : Tag) (paid : Bool) (l : List (Target × Val)) : State :=
  l.foldl (fun s q => s.send1 f tag paid q.1 q.2) s

/-- A firing that is not ready: its accord is again the first to wait, and nothing else happens (R190). -/
def State.putBack (s : State) (f : Firing) : State :=
  let s := s.updCell f.cell (fun c => { c with waiting := f.acc :: c.waiting })
  { s with sch := { s.sch with blocked := true } }

/-- Flags of a firing ORed into H31 of its frame in its cell (R262, R340). -/
def State.raise (s : State) (f : Firing) (fl : BitVec 5) : State :=
  if fl = 0 then s else s.updCell f.cell (fun c => c.orFlags f.region f.frm fl)

/-- A firing whose results leave at once (R191): the flags and the sends, where they are ready; `eff` is what the
firing does besides, before its sends. -/
def State.finish (s : State) (f : Firing) (l : List (Target × Val)) (fl : BitVec 5) (eff : State → State) : Result :=
  if s.canSend f l then .next (((eff s).raise f fl).sendAll f f.acc.tag false l) else .next (s.putBack f)

/-- An accord turned away by its predicate: consumed, with no result, flag or fault (R190). Otherwise the meaning. -/
def State.fire (s : State) (pd : Pd) (m : Firing → State → Result) : Result :=
  if s.sch.cur.passes pd then m s.sch.cur s else .next s

/-- A result sent to T0 and then T1. -/
def both (t0 t1 : Target) (v : Val) : List (Target × Val) := [(t0, v), (t1, v)]

/-- The targets of a completion ct (R278). -/
def ctTargets : Completion → List Target
  | .none => []
  | .slot p sl => [.slot p false sl]

/-! ## Results that land later (R127, R190) -/

/-- A placeholder of the length that a later result will have. -/
def later (targets : List Target) (len : Nat) : List (Target × Val) := targets.map (fun t => (t, Val.of len 0))

/-- The place of a late result on an output arc taken ahead of it (R190, R192): of the arc's credit, else of the spill queue of an
extended arc (R170). -/
def State.takeArc (s : State) (f : Firing) (a len : Nat) : State :=
  let o := look {} ((s.cell f.cell).window f.acc.win).outs a
  if o.need len ≤ o.cred then s.updOut f.cell f.acc.win a (fun o => { o with cred := o.cred - o.need len })
  else
    match s.consumer f.region o with
    | none => s
    | some (k, w, i) =>
      (s.updOut f.cell f.acc.win a (fun o => { o with spilling := o.spilling ++ [f.acc.stamp] })).updIn k w i
        (fun i => { i with pending := i.pending + 1 })

/-- Whether a late result's place is in the spill queue of its arc. -/
def State.spills (s : State) (f : Firing) (a : Nat) : Bool :=
  (look {} ((s.cell f.cell).window f.acc.win).outs a).spilling.contains f.acc.stamp

/-- A late result's place in the spill queue of its arc given up. -/
def State.leaveSpill (s : State) (f : Firing) (a : Nat) : State :=
  let o := look {} ((s.cell f.cell).window f.acc.win).outs a
  let s := s.updOut f.cell f.acc.win a (fun o => { o with spilling := dropFirst (· = f.acc.stamp) o.spilling })
  match s.consumer f.region o with
  | none => s
  | some (k, w, i) => s.updIn k w i (fun i => ({ i with pending := i.pending - 1 } : InArc).settled)

/-- The place that a late result took on its arc given back. -/
def State.giveArc (s : State) (f : Firing) (a len : Nat) : State :=
  if s.spills f a then s.leaveSpill f a
  else (s.updOut f.cell f.acc.win a (fun o => { o with cred := o.cred + o.need len })).drawSpill f.region f.cell f.acc.win a

/-- Room taken for results that land later: the credits of their arcs, the frame slot of a register, and for a slot
target the matching-store entry and value lines, held until the token enters (R190). -/
def State.reserve (s : State) (f : Firing) (targets : List Target) (len : Nat) : State :=
  let l := later targets len
  let s := l.foldl (fun s q =>
    match q.1 with
    | .arc n => s.takeArc f n.toNat len
    | .hold _ => s.updCell f.cell (fun c => match c.takeSlot f.region f.frm with | some q => q.2 | none => c)
    | _ => s) s
  s.updCell f.cell (fun c => { c with
    heldEntries := upd 0 f.region (· + (slotSends l).length) c.heldEntries
    heldLines := upd 0 f.region (· + sumOf ((slotSends l).map Val.lines)) c.heldLines })

/-- The room of results that will not land given back. -/
def State.unreserve (s : State) (f : Firing) (targets : List Target) (len : Nat) : State :=
  let l := later targets len
  let s := l.foldl (fun s q =>
    match q.1 with
    | .arc n => s.giveArc f n.toNat len
    | _ => s) s
  s.updCell f.cell (fun c => { c with
    heldEntries := upd 0 f.region (· - (slotSends l).length) c.heldEntries
    heldLines := upd 0 f.region (· - sumOf ((slotSends l).map Val.lines)) c.heldLines })

/-- A firing whose results land later, where it is ready: `mesh` where they land over the mesh and take an
input-queue entry first (R127). `eff` starts the operation with the pool that the entry came from. -/
def State.startLate (s : State) (f : Firing) (targets : List Target) (len : Nat) (mesh : Bool)
    (eff : Pool → State → State) : Result :=
  if s.canSend f (later targets len) then
    if mesh then
      match s.takeEntry f.cell f.region with
      | none => .next (s.putBack f)
      | some (p, s) => .next (eff p (s.reserve f targets len))
    else .next (eff .none (s.reserve f targets len))
  else .next (s.putBack f)

/-- One late result: a slot target's token joins the input queue, with the entry it was given; an arc or a register
takes the value at once. -/
def State.land1 (s : State) (f : Firing) (tag : Tag) (pool : Pool) (t : Target) (v : Val) : State :=
  match t with
  | .slot port adv slot =>
    let tag := if adv then nextTag tag else tag
    let note := ((s.cell f.cell).window f.acc.win).note
    let (id, s) := s.newId
    let tok : Tok := { id := id, region := f.region, sx := f.x, sy := f.y, x := f.x, y := f.y, dest := .slot f.rwin slot.toNat port,
                       tag := tag, val := v, kind := .response, note := note, pool := pool, held := true }
    let give := fun s : State => s.updCell f.cell (fun c => (c.giveEntry f.region pool).unhold f.region v.lines)
    match (s.region f.region).admission f.x f.y tag with
    | .drop => give s
    | .park => give (s.park f.region (.token tok))
    | .stale lap => give (s.stale_ f.die f.x f.y f.region f.rwin slot.toNat tag lap)
    | .accept => s.updCell f.cell (fun c => { c with queue := c.queue ++ [tok] })
  | .discard => s.updCell f.cell (fun c => c.giveEntry f.region pool)
  | .arc n =>
    let s := s.updCell f.cell (fun c => c.giveEntry f.region pool)
    if (s.region f.region).admission f.x f.y tag = .drop then s.giveArc f n.toNat v.len
    else if s.spills f n.toNat then (s.leaveSpill f n.toNat).send1 f tag false t v
    else s.send1 f tag true t v
  | .hold _ =>
    let s := s.updCell f.cell (fun c => c.giveEntry f.region pool)
    if (s.region f.region).admission f.x f.y tag = .drop then s else s.send1 f tag true t v

/-- Late results landed under a tag: each slot target's token carries an input-queue entry, as far as there are any. -/
def State.landEach (s : State) (f : Firing) (tag : Tag) : List Pool → List (Target × Val) → State
  | ps, [] => ps.foldl (fun s p => s.updCell f.cell (fun c => c.giveEntry f.region p)) s
  | [], q :: t => (s.land1 f tag .none q.1 q.2).landEach f tag [] t
  | p :: ps, q :: t =>
    match q.1 with
    | .slot .. => (s.land1 f tag p q.1 q.2).landEach f tag ps t
    | _ => (s.land1 f tag .none q.1 q.2).landEach f tag (p :: ps) t

/-- Late results landed under a tag with one input-queue entry. -/
def State.land (s : State) (f : Firing) (tag : Tag) (pool : Pool) (l : List (Target × Val)) : State := s.landEach f tag [pool] l

/-- A result that never lands: its room and its input-queue entry given back. -/
def State.dropLate (s : State) (f : Firing) (targets : List Target) (len : Nat) (pool : Pool) : State :=
  (s.unreserve f targets len).updCell f.cell (fun c => c.giveEntry f.region pool)

/-! ## Banks and tiles (R200 to R206) -/

/-- The bank of a cell. -/
def Cell.bank (c : Cell) (k : Nat) : Bank := look {} c.banks k

/-- A bank changed. -/
def Cell.updBank (c : Cell) (k : Nat) (f : Bank → Bank) : Cell := { c with banks := upd {} k f c.banks }

/-- The tile-table entry of a cell. -/
def Cell.tile (c : Cell) (j : Nat) : Tile := look {} c.tiles j

/-- A tile-table entry changed. -/
def Cell.updTile (c : Cell) (j : Nat) (f : Tile → Tile) : Cell := { c with tiles := upd {} j f c.tiles }

/-- The byte of a scratchpad address of a bank or interleaved pair: bank key and offset (R200). -/
def bankKey (bank : Nat) (intlv : Bool) (a : Nat) : Nat :=
  if intlv then
    let line := a / 64
    65536 * (bank / 2 * 2 + line % 2) + (line / 2 * 64 + a % 64)
  else 65536 * bank + a

/-- A byte of a bank or pair. -/
def Cell.bankByte (c : Cell) (bank : Nat) (a : Nat) : Byte := look 0 c.bytes (bankKey bank (c.bank bank).intlv a)

/-- `n` bytes of a bank or pair, as a number. -/
def Cell.bankRead (c : Cell) (bank a n : Nat) : Nat := ofBytes ((List.range n).map (fun i => c.bankByte bank (a + i)))

/-- Bytes written to a bank or pair. -/
def Cell.bankWrite (c : Cell) (bank a : Nat) (bs : List Byte) : Cell :=
  { c with bytes := (bs.foldl (fun (q : Nat × Assoc Byte) b =>
      (q.1 + 1, put 0 (bankKey bank (c.bank bank).intlv q.1) b q.2)) (a, c.bytes)).2 }

/-- Element width in bits of a format code; 0 for an unassigned code (R256). -/
def fmtBits (code : Nat) : Nat :=
  if code = 0 then 32 else if code = 1 || code = 2 then 16 else if code = 3 || code = 4 then 8
  else if code = 5 || code = 6 then 4 else if code = 7 then 16 else if code = 8 then 32
  else if 0x10 ≤ code && code ≤ 0x2E && code % 8 ≠ 7 then 8 else 0

/-- Elements per row of a tile. -/
def Tile.ncols (t : Tile) : Nat := t.cols.toNat + 1
/-- Rows of a tile. -/
def Tile.nrows (t : Tile) : Nat := t.rows.toNat + 1
/-- Row stride in bytes; the field counts 64-byte units from 1 (R204). -/
def Tile.pitch (t : Tile) : Nat := 64 * (t.stride.toNat)

/-- RowBytes of a tile (R204). -/
def Tile.rowBytes (t : Tile) : Nat :=
  ceilDiv (t.ncols * fmtBits t.fmt.toNat) 8 + (if t.bs then ceilDiv t.ncols 32 else 0)

/-- The address of a tile's row within its bank or pair. -/
def Tile.rowAddr (t : Tile) (r : Nat) : Nat := 64 * t.base.toNat + t.pitch * r

/-- A word of a bank as its array stores it: the data under the mask of the bank's owner (R84). `bytes` holds the data. -/
def Cell.storedWord (c : Cell) (k word : Nat) : Dword :=
  BitVec.ofNat 64 (ofBytes ((List.range 8).map (fun i => look 0 c.bytes (65536 * k + 8 * word + i)))) ^^^ bankMask (c.bank k).seed.toNat k word

/-- Whether the tile lies in bank b, or in its pair where it is interleaved. -/
def Cell.tileInBank (c : Cell) (t : Tile) (b : Nat) : Bool :=
  t.bank.toNat = b || ((c.bank t.bank.toNat).intlv && t.bank.toNat / 2 = b / 2)

/-- An entry of the tile table as 128 bits (R204). -/
def Tile.word (t : Tile) : Nat :=
  (match t.st with | .empty => 0 | .filling => 1 | .ready => 2 | .draining => 3) * 2 ^ 126 + t.bank.toNat * 2 ^ 124 +
  t.fmt.toNat * 2 ^ 118 + bitOf t.bs * 2 ^ 117 + t.base.toNat * 2 ^ 106 + t.rows.toNat * 2 ^ 96 + t.cols.toNat * 2 ^ 84 +
  (t.stride.toNat) % 2 ^ 12 * 2 ^ 72 + t.rowsIn.toNat * 2 ^ 32 + t.otag.toNat

/-- The static fields of an entry from its 128 bits (R204), in state EMPTY. -/
def Tile.ofWord (v : Nat) : Tile :=
  { defined := true, bank := BitVec.ofNat 2 (bits v 125 124), fmt := BitVec.ofNat 6 (bits v 123 118), bs := bit v 117,
    base := BitVec.ofNat 11 (bits v 116 106), rows := BitVec.ofNat 10 (bits v 105 96), cols := BitVec.ofNat 12 (bits v 95 84),
    stride := BitVec.ofNat 12 (bits v 83 72) }

/-- Whether an entry is valid (R204). -/
def Cell.tileValid (c : Cell) (t : Tile) : Bool :=
  decide (1 ≤ t.stride.toNat) && decide (t.stride.toNat ≤ 2048) && decide (t.rowBytes ≤ t.pitch) &&
  decide (64 * t.base.toNat + t.pitch * (t.nrows - 1) + t.rowBytes ≤ if (c.bank t.bank.toNat).intlv then 131072 else 65536) &&
  (!(c.bank t.bank.toNat).intlv || t.bank.toNat % 2 = 0)

/-- Whether a tile-engine operation names a tile (R357, R364, R365). -/
def EngineOp.names (e : EngineOp) (j : Nat) : Bool :=
  match e.kind with
  | .trans | .bload => e.td = j || e.ta = j
  | .poolMax | .poolAvg => e.td = j || e.ta = j || e.tb = j
  | .binv => e.td = j

/-- Whether the tile engine or a matrix sequence holds a tile of the cell (R357, R364, R365, R369). -/
def Cell.engineHolds (c : Cell) (j : Nat) : Bool :=
  (match c.engine with
   | none => false
   | some e => e.names j) || c.seqs.any (fun q => q.ta = j || q.tb = j)

/-- Whether a BMODE of a bank is in its steps 1 and 2, its accord waiting for them to end (R202, R209). -/
def Cell.bankBusy (c : Cell) (k : Nat) : Bool :=
  c.modeOps.any (fun m => m.banks.contains k && c.waiting.any (fun a => a.stamp = m.stamp && a.win = m.win && a.slot = m.slot))

/-- Whether the accesses that begin on a tile wait for a BMODE of its bank (R202). -/
def Cell.tileBusy (c : Cell) (j : Nat) : Bool :=
  (List.range 4).any (fun k => c.bankBusy k && c.tileInBank (c.tile j) k)

/-- Whether a tile may be released: READY and not held (R206, R356, R357). -/
def Cell.tileFree (c : Cell) (j : Nat) : Bool := (c.tile j).st = .ready && !c.engineHolds j

/-- Whether an instruction may use a tile now: READY, not held, and its bank's mapping not about to change (R202, R206, R357). -/
def Cell.tileReady (c : Cell) (j : Nat) : Bool := c.tileFree j && !c.tileBusy j

end Sys2Proof.Machine
end

