-- ==== Sys2Proof/Machine/Frames.lean ====
section
/-!
DEFINITION. The tag allocator of a region in its die scheduler (R132, R133, R194, R195, R311 to R316): used counts and
grants, iterations, laps and wraps, lap markers, and the allocation and return of frames.
-/

namespace Sys2Proof.Machine

/-! ## Counts and grants (R132, R133) -/

/-- Live tags counted at a level (R132). -/
def Region.used (r : Region) (k : Nat) : Nat := sumOf ((r.frames.filter (fun f => f.level = k)).map (fun f => f.live.length))

/-- Live tags of the region (R132). -/
def Region.tags (r : Region) : Nat := sumOf (r.frames.map (fun f => f.live.length))

/-- Grant(L): whether one tag at a level is granted (R133). -/
def Region.grants (r : Region) (l : Nat) : Bool :=
  let free := Config.liveTags - r.tags
  let owed := sumOf ((List.range 8).map (fun k => if k = l then 0 else r.quota.getD k 0 - r.used k))
  decide (r.used l < r.quota.getD l 0) || decide (owed + 1 ≤ free)

/-- The AGN-served port cores that the wave-ordered bindings of a region use: one key for each binding (R221). -/
def Region.waveCores (r : Region) : List (Nat × Nat) :=
  (r.image.bindings.filter (fun b => b.shape.cls ≠ .random)).map (fun b => (b.p, 80 * r.die + b.core))

/-- Whether every port core has a wave-table entry free for each wave-ordered binding of the region (R221, R312). -/
def State.waveFree (s : State) (r : Region) : Bool :=
  r.waveCores.all (fun q =>
    decide ((s.portCore q.2).waves.length + (r.waveCores.filter (fun p => p.2 = q.2)).length ≤ 2048))

/-- The wave-table entries of a new frame, NEXTW 0 at every binding (R312). -/
def State.openWaves (s : State) (r : Region) (frm : Nat) : State :=
  r.waveCores.foldl (fun s q => s.updPort q.2 (fun c =>
    { c with waves := c.waves ++ [{ region := r.id, frm := frm, port := q.1 }] })) s

/-- The wave-table entries of a frame freed (R221, R315). -/
def State.closeWaves (s : State) (r : Region) (frm : Nat) : State :=
  (distinct (r.waveCores.map Prod.snd)).foldl (fun s k => s.updPort k (fun c =>
    { c with waves := c.waves.filter (fun w => !(w.region = r.id && w.frm = frm)) })) s

/-- The lowest FRM that is not allocated (R312). -/
def Region.freeFrm (r : Region) : Option Nat := (List.range 256).find? (fun n => (r.frame? n).isNone)

/-! ## Lap markers (R195) -/

/-- The key of an input arc of a region: 64 (8 cell + window) + arc. -/
def arcKey (cell w a : Nat) : Nat := 64 * (8 * cell + w) + a

/-- The input arcs of a region's cells, by key. -/
def State.arcsOf (s : State) (r : Region) : List (Nat × InArc) :=
  r.cells.flatMap (fun q =>
    let k := cellKey r.die q.1 q.2
    ((s.cell k).windows.filter (fun w => w.2.region = r.id)).flatMap (fun w =>
      w.2.ins.map (fun a => (arcKey k w.1 a.1, a.2))))

/-- Whether a lap of a frame has granted its last iteration: an earlier lap, or the present one with NEXT at 0. -/
def FrameRec.lapOver (f : FrameRec) (g : Nat) : Bool := decide (g < f.wraps) || (g = f.wraps && f.next = 0)

/-- Whether no iteration of a lap is live. -/
def FrameRec.lapEmpty (f : FrameRec) (g : Nat) : Bool := !f.live.any (fun q => q.2 = g % 4)

/-- Marker M(g) sent for every lap that is over, has no live iteration and has not sent it yet (R195). -/
def State.sendMarkers (s : State) (region frm : Nat) : State :=
  let r := s.region region
  match r.frame? frm with
  | none => s
  | some f =>
    (List.range (f.wraps + 1)).foldl (fun s g =>
      let r := s.region region
      match r.frame? frm with
      | none => s
      | some f =>
        if g + 2 ≤ f.wraps || !f.lapOver g || !f.lapEmpty g || f.marked.contains g || f.markers.any (fun m => m.1 = g) then s
        else
          let arcs := ((s.arcsOf r).filter (fun a => a.2.level = f.level)).map Prod.fst
          let (id, s) := s.newId
          s.updRegion region (fun r => r.updFrame frm (fun f =>
            if arcs.isEmpty then { f with marked := f.marked ++ [g] }
            else { f with markers := f.markers ++ [(g, id, arcs)] }))) s

/-! ## Serving the waiting requests (R133, R311 to R313) -/

/-- How a waiting request stands. -/
inductive AskStand where
  | wait
  | grant
  | startWrap
  deriving DecidableEq, Repr

/-- Where a request stands (R312, R313, R194): a wrap starts once M(L - 1) has returned, and ends when every cell has
acknowledged it. -/
def State.askStand (s : State) (r : Region) (a : TagAsk) : AskStand :=
  match a.kind with
  | .frame => if r.freeFrm.isSome && r.grants a.level && s.waveFree r then .grant else .wait
  | .iter =>
    match r.frame? a.firing.frm with
    | none => .wait
    | some f =>
      if f.returned || f.killed || !r.grants f.level || f.live.any (fun q => q.1 = f.next.toNat) then .wait
      else if f.next ≠ 0 then .grant
      else match f.wrap with
        | some w => if w.cells.isEmpty && w.acks.isEmpty then .grant else .wait
        | none => if f.wraps = 0 || f.marked.contains (f.wraps - 1) then .startWrap else .wait

/-- The level at which a request waits (R312, R313). -/
def Region.askLevel (r : Region) (a : TagAsk) : Nat :=
  match a.kind with
  | .frame => a.level
  | .iter => ((r.frame? a.firing.frm).map FrameRec.level).getD 0

/-- The note of a firing's window. -/
def State.noteOf (s : State) (f : Firing) : Note := ((s.cell f.cell).window f.acc.win).note

/-- The waiting order (R133): deepest level, note, arrival. -/
def State.askBefore (s : State) (r : Region) (a b : TagAsk) : Bool :=
  let la := r.askLevel a
  let lb := r.askLevel b
  let na := (s.noteOf a.firing).code
  let nb := (s.noteOf b.firing).code
  decide (lb < la) || (la = lb && (decide (na < nb) || (na = nb && decide (a.stamp ≤ b.stamp))))

/-- The tokens of a frame whose generation has left the window (R196), reported as STALE, once for each (R197). -/
def State.sweepStale (s : State) (region frm : Nat) (cells : List (Nat × Nat)) : State :=
  let r := s.region region
  cells.foldl (fun s q =>
    let k := cellKey r.die q.1 q.2
    let c := s.cell k
    match r.frame? frm with
    | none => s
    | some f =>
      let bad := fun (t : Tag) => tagFrm t = frm && !f.inWindow q.1 q.2 (tagGen t)
      let mine := fun (a : Accord) => (c.window a.win).region = region && bad a.tag
      let lap := (f.lapAt q.1 q.2).2
      let gone := (c.matching.filter mine) ++ (c.waiting.filter mine)
      let toks := c.queue.filter (fun t => t.region = region && bad t.tag)
      let s := s.updCell k (fun c => { c with
        matching := c.matching.filter (fun a => !mine a)
        waiting := c.waiting.filter (fun a => !mine a)
        queue := c.queue.filter (fun t => !(t.region = region && bad t.tag)) })
      let s := gone.foldl (fun s a => a.operands.foldl (fun s _ => s.stale_ r.die q.1 q.2 region (c.window a.win).rwin a.slot a.tag lap) s) s
      toks.foldl (fun s t =>
        let s := s.leaveQueue k t
        s.stale_ r.die q.1 q.2 region (match t.dest with | .slot w _ _ => w | .arc w _ => w)
          (match t.dest with | .slot _ sl _ => sl | .arc _ _ => 0) t.tag lap) s) s

/-- The grant of a request (R312, R313): the frame or the iteration, and the firing's sends. -/
def State.grantAsk (s : State) (region : Nat) (a : TagAsk) : State :=
  let r := s.region region
  let s := s.updRegion region (fun r => { r with asks := dropFirst (fun b => b.stamp = a.stamp) r.asks })
  let v := a.firing.valL
  match a.kind with
  | .frame =>
    match r.freeFrm with
    | none => s
    | some frm =>
      let t := mktagOf r frm
      let s := s.updRegion region (fun r => { r with frames :=
        r.frames ++ [{ frm := frm, level := a.level, next := 1, live := [(0, 0)], parent := some a.firing.acc.tag }] })
      let s := s.openWaves r frm
      let s := s.land a.firing t .none ((a.targets.take 1).map (fun x => (x, v)))
      s.land a.firing a.firing.acc.tag .none ((a.targets.drop 1).map (fun x => (x, Val.of 4 t.toNat)))
  | .iter =>
    match r.frame? a.firing.frm with
    | none => s
    | some f =>
      let wraps := if f.wrap.isSome then f.wraps + 1 else f.wraps
      let gen := wraps % 4
      let t := mkTag r.ctx f.frm gen f.next.toNat
      let s := s.updRegion region (fun r => r.updFrame f.frm (fun f => { f with
        wraps := wraps, lap := BitVec.ofNat 2 wraps, wrap := none, next := f.next + 1,
        live := f.live ++ [(f.next.toNat, gen)],
        marked := f.marked.filter (fun g => wraps ≤ g + 2) }))
      s.land a.firing t .none (a.targets.map (fun x => (x, v)))
where
  /-- The first tag of a new frame. -/
  mktagOf (r : Region) (frm : Nat) : Tag := mkTag r.ctx frm 0 0

/-- The requests served while one of them can be, in the waiting order; `n` bounds the grants. -/
def State.serveN (s : State) (region : Nat) : Nat → State
  | 0 => s
  | n + 1 =>
    let r := s.region region
    let order := sortBy (s.askBefore r) r.asks
    match order.find? (fun a => s.askStand r a ≠ .wait) with
    | none => s
    | some a =>
      if s.askStand r a = .startWrap then
        (s.updRegion region (fun r => r.updFrame a.firing.frm (fun f => { f with wrap := some { cells := r.cells } }))).serveN region n
      else (s.grantAsk region a).serveN region n

/-- The allocator's waiting requests served (R133, R311). -/
def State.serveAsks (s : State) (region : Nat) : State := s.serveN region (2 * (s.region region).asks.length)

/-- A request put to the allocator, and what it can serve (R311). -/
def State.ask (s : State) (f : Firing) (kind : AskKind) (level : Nat) (targets : List Target) : State :=
  let (st, s) := s.newStamp
  let a : TagAsk := { kind := kind, level := level, stamp := st, targets := targets, firing := f }
  (s.updRegion f.region (fun r => { r with asks := r.asks ++ [a] })).serveAsks f.region

/-! ## Frees (R314, R315) -/

/-- The iteration of a tag freed (R314), before the waiting requests are served: nothing changes unless it is live in the lap that
allocated it. -/
def State.endTag (s : State) (region : Nat) (t : Tag) : State :=
  (s.updRegion region (fun r => r.updFrame (tagFrm t) (fun f =>
    { f with live := f.live.filter (fun q => !(q.1 = tagItr t && q.2 = tagGen t)) }))).sendMarkers region (tagFrm t)

/-- The iteration of a tag freed, and the waiting requests that can be granted then (R133, R314). -/
def State.retireTag (s : State) (region : Nat) (t : Tag) : State := (s.endTag region t).serveAsks region

/-- Whether a request of a frame is outstanding at any port core (R315, R163). -/
def State.frameBusy (s : State) (region frm : Nat) : Bool :=
  s.accesses.any (fun a => a.firing.region = region && a.firing.frm = frm) ||
  s.responses.any (fun p => p.firing.region = region && p.firing.frm = frm) ||
  s.xfers.any (fun x => x.region = region && x.access.isSome && tagFrm x.tag = frm)

/-- A frame free for FRAME (R315 step 4, R316): its wave-table entries are freed and its waiting requests are dropped. -/
def State.freeFrame (s : State) (region frm : Nat) : State :=
  let r := s.region region
  let gone := r.asks.filter (fun a => a.kind = .iter && a.firing.frm = frm)
  let s := s.closeWaves r frm
  let s := gone.foldl (fun s a => s.dropLate a.firing a.targets a.firing.valL.len .none) s
  (s.updRegion region (fun r => { r with
    frames := r.frames.filter (fun f => f.frm ≠ frm)
    trapSet := r.trapSet.filter (· ≠ frm)
    asks := r.asks.filter (fun a => !(a.kind = .iter && a.firing.frm = frm)) })).serveAsks region

/-- A returned frame whose last request has ended is free for FRAME (R315 step 4). -/
def State.settleFrame (s : State) (region frm : Nat) : State :=
  match (s.region region).frame? frm with
  | none => s
  | some f => if f.returned && !s.frameBusy region frm then s.freeFrame region frm else s

/-- The return of an allocated frame (R315 steps 2 to 4): its iterations freed, LAP and NEXT 0, its hold-register slots
released in every cell, and the requests that its tags let through granted (R133). -/
def State.returnFrame (s : State) (region frm : Nat) : State :=
  let r := s.region region
  let s := s.updRegion region (fun r => r.updFrame frm (fun f => { f with
    live := [], lap := 0, wraps := 0, next := 0, markers := [], marked := [], wrap := none, returned := true }))
  let s := r.cells.foldl (fun s q => s.updCell (cellKey r.die q.1 q.2) (fun c => c.freeSlot region frm)) s
  (s.settleFrame region frm).serveAsks region

end Sys2Proof.Machine
end

