-- ==== Sys2Proof/Machine/Dataflow.lean ====
section
/-!
DEFINITION. The instructions of spec/14: moving, choosing and joining values, tags and frames, sends across the
region, hold registers, quality and END (R302 to R322).
-/

namespace Sys2Proof.Machine

/-! ## Moving, choosing and joining values -/

/-- NOP (R304). -/
def execNop (pd : Pd) (s : State) : Result := s.fire pd fun f s => s.finish f [] 0 id

/-- MOV (R304). -/
def execMov (pd : Pd) (t1 t0 : Target) (s : State) : Result := s.fire pd fun f s => s.finish f (both t0 t1 f.valL) 0 id

/-- LIT: imm14 sign-extended to 8 bytes (R304). -/
def execLit (pd : Pd) (imm : BitVec 14) (t0 : Target) (s : State) : Result :=
  s.fire pd fun f s => s.finish f [(t0, Val.of 8 (imm.signExtend 64).toNat)] 0 id

/-- The constant word behind a slot (R279). -/
def State.constOf (s : State) (f : Firing) : Word := ((s.cell f.cell).window f.acc.win).words.getD (f.acc.slot + 1) 0

/-- LIT32: the constant word of the next slot, 4 bytes (R304). -/
def execLit32 (pd : Pd) (t1 t0 : Target) (s : State) : Result :=
  s.fire pd fun f s => s.finish f (both t0 t1 (Val.of 4 (s.constOf f).toNat)) 0 id

/-- STEER: L to T0 where R[0] = 1, else to T1 (R305). -/
def execSteer (pd : Pd) (t1 t0 : Target) (s : State) : Result :=
  s.fire pd fun f s => s.finish f [(if bit (f.r 8) 0 then t0 else t1, f.valL)] 0 id

/-- GATE: L to both targets where R[0] = 1 (R305). -/
def execGate (pd : Pd) (t1 t0 : Target) (s : State) : Result :=
  s.fire pd fun f s => s.finish f (if bit (f.r 8) 0 then both t0 t1 f.valL else []) 0 id

/-- GATEN: L to both targets where R[0] = 0 (R305). -/
def execGaten (pd : Pd) (t1 t0 : Target) (s : State) : Result :=
  s.fire pd fun f s => s.finish f (if bit (f.r 8) 0 then [] else both t0 t1 f.valL) 0 id

/-- MERGE: the value of the one token, from L or R (R306). -/
def execMerge (t1 t0 : Target) (s : State) : Result :=
  s.fire .always fun f s => s.finish f (both t0 t1 ((f.acc.l <|> f.acc.r).getD {})) 0 id

/-- SYNC: L to T0 and R to T1 (R307). -/
def execSync (pd : Pd) (t1 t0 : Target) (s : State) : Result :=
  s.fire pd fun f s => s.finish f [(t0, f.valL), (t1, f.valR)] 0 id

/-- CNT: c = L + 1 to T0, and whether c < R to T1 (R308). -/
def execCnt (pd : Pd) (t1 t0 : Target) (s : State) : Result :=
  s.fire pd fun f s =>
    let c := (f.l 4 + 1) % 2 ^ 32
    s.finish f [(t0, Val.of 4 c), (t1, Val.of 4 (bitOf (decide (c < f.r 4))))] 0 id

/-- BOUND: L to T0 where L < R, else to T1 (R308). -/
def execBound (pd : Pd) (t1 t0 : Target) (s : State) : Result :=
  s.fire pd fun f s => s.finish f [(if f.l 4 < f.r 4 then t0 else t1, Val.of 4 (f.l 4))] 0 id

/-! ## Frames and iterations -/

/-- ITER: a new iteration of the accord's frame (R313). -/
def execIter (pd : Pd) (t1 t0 : Target) (s : State) : Result :=
  s.fire pd fun f s => s.startLate f [t0, t1] f.valL.len false fun _ s => s.ask f .iter 0 [t0, t1]

/-- NEXT: the accord's own iteration is freed before it asks, then as ITER (R313). -/
def execNextIter (pd : Pd) (t1 t0 : Target) (s : State) : Result :=
  s.fire pd fun f s => s.startLate f [t0, t1] f.valL.len false fun _ s =>
    (s.endTag f.region f.acc.tag).ask f .iter 0 [t0, t1]

/-- RETIRE: the accord's iteration is freed, and L is sent under the accord's tag (R314). -/
def execRetire (pd : Pd) (t1 t0 : Target) (s : State) : Result :=
  s.fire pd fun f s => s.finish f (both t0 t1 f.valL) 0 fun s => s.retireTag f.region f.acc.tag

/-- FRAME.Lk: a new frame at level k; L to T0 under its first tag, that tag to T1 under the accord's (R312). -/
def execFrame (pd : Pd) (level : BitVec 3) (t1 t0 : Target) (s : State) : Result :=
  s.fire pd fun f s =>
    if s.canSend f [(t0, f.valL), (t1, Val.of 4 0)] then
      let s := (s.reserve f [t0] f.valL.len).reserve f [t1] 4
      .next (s.ask f .frame level.toNat [t0, t1])
    else .next (s.putBack f)

/-- FRET: the accord's frame is returned, and L is sent under PARENT; nothing happens where the frame is not allocated,
and a frame of the loader sends nothing (R315). -/
def execFret (pd : Pd) (t1 t0 : Target) (s : State) : Result :=
  s.fire pd fun f s =>
    match (s.region f.region).frame? f.frm with
    | none => .next s
    | some g =>
      if g.returned then .next s else
      match g.parent with
      | none => .next (s.returnFrame f.region f.frm)
      | some p =>
        let l := both t0 t1 f.valL
        if s.canSend f l then .next ((s.sendAll f p false l).returnFrame f.region f.frm) else .next (s.putBack f)

/-! ## Sending across the region -/

/-- A token of the firing sent over the mesh to a slot, against an input-queue entry taken there (R127, R317). -/
def State.sendSlot (s : State) (f : Firing) (x y rwin slot : Nat) (port : Port) (tag : Tag) (pool : Pool) (v : Val) : State :=
  let (id, s) := s.newId
  let t : Tok := { id := id, region := f.region, sx := f.x, sy := f.y, x := x, y := y, dest := .slot rwin slot port, tag := tag,
                   val := v, note := s.noteOf f, pool := pool }
  { s with toks := s.toks ++ [t] }

/-- The port with a 2-bit code; none for 00 (R276). -/
def portOf : Nat → Option Port
  | 1 => some .l
  | 2 => some .r
  | 3 => some .p
  | _ => none

/-- Whether a cell's window of a region holds, in a slot, an instruction that uses a port (R317); an elastic actor's window is that
of its replica 0 (R119). -/
def State.slotTakes (s : State) (region k rwin slot : Nat) (port : Port) : Bool :=
  let r := s.region region
  let k := match r.actorAt (k % 80) (k / 80 % 40) rwin with
    | some a =>
      match a.replicas with
      | q :: _ => cellKey r.die q.1 q.2
      | [] => k
    | none => k
  match (s.cell k).findWin region rwin with
  | none => false
  | some (_, w) =>
    match slotInstr w.words slot with
    | none => false
    | some i => i.uses port

/-- The output arc of a firing's window that ends in an input arc of a cell's window (R317). -/
def State.arcTo (s : State) (f : Firing) (x y rwin arc : Nat) : Option Nat :=
  (((s.cell f.cell).window f.acc.win).outs.find? (fun o =>
    o.2.cx = x && o.2.cy = y && o.2.cwin = rwin && o.2.carc = arc)).map Prod.fst

/-- SEND: L to the slot or arc of the region that R names (R317). -/
def execSend (pd : Pd) (s : State) : Result :=
  s.fire pd fun f s =>
    let d := f.r 4
    let r := s.region f.region
    let x := r.x0 + bits d 27 21
    let y := r.y0 + bits d 20 15
    let rwin := bits d 14 12
    let n := bits d 11 6
    let tag := if bit d 3 then nextTag f.acc.tag else f.acc.tag
    if bits d 31 28 ≠ 0 || bits d 2 0 ≠ 0 || !r.contains x y || r.image.wpc ≤ rwin then s.takeTrap f .trap 0x3FF1 d else
    match portOf (bits d 5 4) with
    | none =>
      match s.arcTo f x y rwin n with
      | none => s.takeTrap f .trap 0x3FF1 d
      | some a =>
        let o := look {} ((s.cell f.cell).window f.acc.win).outs a
        if s.arcReady f.region o [f.valL.len] then
          .next (s.emitArc f.die f.x f.y f.region f.acc.win a tag f.valL .arc (s.noteOf f) false)
        else .next (s.putBack f)
    | some port =>
      if !s.slotTakes f.region (cellKey f.die x y) rwin n port then s.takeTrap f .trap 0x3FF1 d else
      let goal := r.steer x y rwin tag f.valL
      match s.takeEntry (cellKey f.die goal.1 goal.2) f.region with
      | none => .next (s.putBack f)
      | some (pool, s) => .next (s.sendSlot f goal.1 goal.2 rwin n port tag pool f.valL)

/-- Input-queue entries taken at every member of a multicast, or none at all (R127, R318). -/
def State.takeEntries (s : State) (die region : Nat) : List (Nat × Nat) → Option (List (Nat × Nat × Pool) × State)
  | [] => some ([], s)
  | q :: t =>
    match s.takeEntry (cellKey die q.1 q.2) region with
    | none => none
    | some (pool, s) =>
      match s.takeEntries die region t with
      | none => none
      | some (l, s) => some ((q.1, q.2, pool) :: l, s)

/-- SENDM: L to the same slot of every member of a group in the sender's region (R318). -/
def execSendm (pd : Pd) (s : State) : Result :=
  s.fire pd fun f s =>
    let d := f.r 4
    let r := s.region f.region
    let g := look {} (s.die f.die).groups (bits d 23 16)
    let rwin := bits d 14 12
    let slot := bits d 11 6
    let tag := if bit d 3 then nextTag f.acc.tag else f.acc.tag
    match portOf (bits d 5 4) with
    | none => s.takeTrap f .trap 0x3FF2 d
    | some port =>
      if bits d 31 24 ≠ 0 || bit d 15 || bits d 2 0 ≠ 0 || g.members.isEmpty || g.ctx ≠ tagCtx f.acc.tag then
        s.takeTrap f .trap 0x3FF2 d
      else
        let goal := g.members.filter (fun q => r.contains q.1 q.2)
        if !goal.all (fun q => decide (rwin < r.image.wpc) && s.slotTakes f.region (cellKey f.die q.1 q.2) rwin slot port) then
          s.takeTrap f .trap 0x3FF1 d
        else
          match s.takeEntries f.die f.region goal with
          | none => .next (s.putBack f)
          | some (l, s) => .next (l.foldl (fun s q => s.sendSlot f q.1 q.2.1 rwin slot port tag q.2.2 f.valL) s)

/-! ## Tags and quality -/

/-- TAGRD: the accord's tag and PARENT of its frame (R319). -/
def execTagrd (pd : Pd) (t1 t0 : Target) (s : State) : Result :=
  s.fire pd fun f s =>
    let parent := (((s.region f.region).frame? f.frm).bind FrameRec.parent).getD 0
    s.finish f (both t0 t1 (Val.of 8 (f.acc.tag.toNat + parent.toNat * 2 ^ 32))) 0 id

/-- QLVL: a gate sent to the die scheduler, whose reply lands as the level (R320). -/
def execQlvl (pd : Pd) (t1 t0 : Target) (s : State) : Result :=
  s.fire pd fun f s =>
    let l := later [t0, t1] 4
    if !s.canSend f l then .next (s.putBack f) else
    match s.takePools f.cell f.region (max 1 (slotSends l).length) with
    | none => .next (s.putBack f)
    | some (ps, s') => .next ((s'.reserve f [t0, t1] 4).updDie f.die fun d =>
        { d with gates := d.gates ++ [{ firing := f, targets := [t0, t1], pools := ps }] })

/-! ## Hold registers (R321) -/

/-- The frame slot of a firing taken in its cell (R198). -/
def State.withSlot (s : State) (f : Firing) (m : Nat → State → Result) : Result :=
  match (s.cell f.cell).takeSlot f.region f.frm with
  | none => .next (s.putBack f)
  | some (i, c) => m i (s.updCell f.cell fun _ => c)

/-- RDH: the register's value when it is FULL; otherwise the accord waits, or HEMPTY traps the frame (R321). -/
def execRdh (pd : Pd) (trapE : Bool) (h : BitVec 5) (t0 : Target) (s : State) : Result :=
  s.fire pd fun f s => s.withSlot f fun i s' =>
    let q := (s'.cell f.cell).hold i h.toNat
    if q.st = .full then
      let l := [(t0, Val.of 8 q.val.toNat)]
      if s.canSend f l then .next (s'.sendAll f f.acc.tag false l) else .next (s.putBack f)
    else if trapE then .next (s'.report f true .hempty (h.toNat + i * 256))
    else .next (s.putBack f)

/-- WRH: the register becomes FULL with L, and L is sent after the write (R321). -/
def execWrh (pd : Pd) (h : BitVec 5) (t0 : Target) (s : State) : Result :=
  s.fire pd fun f s =>
    if (s.cell f.cell).holdReady f.region f.frm h.toNat then
      s.finish f [(t0, Val.of 8 (f.l 8))] 0 fun s =>
        s.updCell f.cell fun c => c.writeHold f.region f.frm h (BitVec.ofNat 64 (f.l 8))
    else .next (s.putBack f)

/-- CLRH: the register becomes EMPTY, waiting while it is PENDING, and L is sent after the clear (R321). -/
def execClrh (pd : Pd) (h : BitVec 5) (t0 : Target) (s : State) : Result :=
  s.fire pd fun f s =>
    if (s.cell f.cell).holdReady f.region f.frm h.toNat then
      s.finish f [(t0, f.valL)] 0 fun s =>
        s.updCell f.cell fun c =>
          match c.takeSlot f.region f.frm with
          | none => c
          | some (i, c) => c.setHold i h.toNat {}
    else .next (s.putBack f)

/-- TSTH: whether the register is FULL (R321). -/
def execTsth (pd : Pd) (h : BitVec 5) (t0 : Target) (s : State) : Result :=
  s.fire pd fun f s => s.withSlot f fun i s' =>
    let l := [(t0, Val.of 8 (bitOf (((s'.cell f.cell).hold i h.toNat).st = .full)))]
    if s.canSend f l then .next (s'.sendAll f f.acc.tag false l) else .next (s.putBack f)

/-! ## Ending a region -/

/-- END: fires only while the trap set is empty, and stops firing in the region (R322 steps 1 and 2). -/
def execEndRegion (pd : Pd) (s : State) : Result :=
  s.fire pd fun f s =>
    if (s.region f.region).trapSet.isEmpty then .next (s.updRegion f.region fun r => { r with ended := true })
    else .next (s.putBack f)

end Sys2Proof.Machine
end

