-- ==== Sys2Proof/Machine/Cells.lean ====
section
/-!
DEFINITION. Tokens as they reach their cells and enter the matching store (R123, R124, R184 to R189, R192, R193, R196), the
notices, the progress counts and quality gates (R135 to R137), and the laps of a frame (R194, R195).
-/

namespace Sys2Proof.Machine

/-! ## The ring of a FIFO arc (R193) -/

/-- The header of a token as the mesh carries it (R184). -/
def Tok.header (t : Tok) (win arc : Nat) : Nat :=
  t.tag.toNat * 2 ^ 96 + t.x * 2 ^ 89 + t.y * 2 ^ 83 + win * 2 ^ 80 + arc * 2 ^ 72 + 2 ^ 68 + t.note.code * 2 ^ 66 +
  (meshLen t.val / 4 - 1) * 2 ^ 60

/-- Entries of a ring that a value takes (R193). -/
def ringNeed (len : Nat) : Nat := ceilDiv (16 + len) 64

/-- `n` bytes of a bank's ring from an offset, wrapping. -/
def Cell.ringRead (c : Cell) (b o n : Nat) : Nat := ofBytes ((List.range n).map (fun i => look 0 c.bytes (65536 * b + (o + i) % 65536)))

/-- Bytes written to a bank's ring from an offset, wrapping. -/
def Cell.ringWrite (c : Cell) (b o : Nat) (bs : List Byte) : Cell :=
  { c with bytes := (bs.foldl (fun (q : Nat × Assoc Byte) x => (q.1 + 1, put 0 (65536 * b + q.1 % 65536) x q.2)) (o, c.bytes)).2 }

/-- A token written at a ring's tail (R193). -/
def Cell.ringPut (c : Cell) (b win arc : Nat) (t : Tok) : Cell :=
  let k := c.bank b
  let n := meshLen t.val
  (c.ringWrite b (64 * (k.fifoHead + k.fifoCount)) (toBytes 16 (t.header win arc) ++ toBytes n t.val.bits)).updBank b
    (fun k => { k with fifoCount := k.fifoCount + ringNeed n })

/-- The token at a ring's head (R193). -/
def Cell.ringFront (c : Cell) (b : Nat) : Option Tok :=
  let k := c.bank b
  if k.fifoCount = 0 then none
  else
    let h := c.ringRead b (64 * k.fifoHead) 16
    let n := 4 * (bits h 65 60 + 1)
    some { tag := BitVec.ofNat 32 (bits h 127 96), note := Note.ofCode (bits h 67 66), kind := .arc,
           val := { len := n, bits := c.ringRead b (64 * k.fifoHead + 16) n } }

/-- A ring without the token at its head, which takes `e` entries. -/
def Cell.ringPop (c : Cell) (b e : Nat) : Cell :=
  c.updBank b (fun k => { k with fifoHead := (k.fifoHead + e) % 1024, fifoCount := k.fifoCount - e })

/-- The tag and value of each token in a ring, from an entry on; `fuel` bounds them. -/
def Cell.ringFrom (c : Cell) (b : Nat) : Nat → Nat → Nat → List (Tag × Val)
  | 0, _, _ => []
  | fuel + 1, head, left =>
    if left = 0 then []
    else
      let h := c.ringRead b (64 * head) 16
      let n := 4 * (bits h 65 60 + 1)
      (BitVec.ofNat 32 (bits h 127 96), { len := n, bits := c.ringRead b (64 * head + 16) n }) ::
        c.ringFrom b fuel ((head + ringNeed n) % 1024) (left - ringNeed n)

/-- The tokens of a FIFO bank. -/
def Cell.fifoTokens (c : Cell) (b : Nat) : List (Tag × Val) := let k := c.bank b; c.ringFrom b k.fifoCount k.fifoHead k.fifoCount

/-- An input arc with its producer: the port core of the activation stream that ends there (R151), if one does. -/
def State.fedBy (s : State) (region k w a : Nat) (i : InArc) : InArc :=
  let r := s.region region
  match s.acts.find? (fun q => cellKey r.die (r.x0 + q.cx) (r.y0 + q.cy) = k && q.carc = a &&
      ((s.cell k).findWin region q.cwin).map Prod.fst = some w && (s.launched q.ctx q.claunch).map (fun r => r.id) = some region) with
  | none => i
  | some q => { i with px := 80 + bits q.goal 9 0, py := 0, pwin := 0, parc := q.id }

/-- Entries of a ring freed (R170, R193): the spill queue refills them first, and the producer is told of the rest. Entries that the
next spilled token cannot use yet are kept for it in `occupied`. -/
def State.freeRing (s : State) (region k w a e : Nat) : State :=
  let q := s.refill k w a ((s.inArc k w a).occupied + e)
  let i := q.2.inArc k w a
  let kept := !i.spill.isEmpty
  let s := q.2.updIn k w a (fun i => { i with occupied := if kept then q.1 else 0 })
  if kept || q.1 = 0 then s else s.notify region (s.fedBy region k w a i) q.1

/-! ## Where a token goes (R123, R124) -/

/-- An actor of a region changed. -/
def Region.updActor (r : Region) (actor : Nat) (f : Actor → Actor) : Region :=
  { r with actors := changeFirst (fun a => a.cfg.actor = actor) f r.actors }

/-- A region's interval of silence begun again: a token of it has entered or left a cell, or an accord fired (R168). -/
def State.stir (s : State) (region : Nat) : State := s.updRegion region (fun r => { r with silentFor := 0 })

/-! ## Arrival (R127, R159, R163, R172, R188, R196) -/

/-- The region-relative window of a destination. -/
def Dest.win : Dest → Nat
  | .slot w _ _ => w
  | .arc w _ => w

/-- The slot that a destination names; 0 for an arc. -/
def Dest.slotOf : Dest → Nat
  | .slot _ sl _ => sl
  | .arc _ _ => 0

/-- Whether a cell has taken its drydown marker (R172). -/
def Region.cut (r : Region) (x y : Nat) : Bool :=
  match r.stop with
  | .drydown cells => cells.contains (x, y)
  | _ => false

/-- What a token that does not stay in the cell holds given back on arrival (R127, R158, R192, R193). -/
def State.turnAway (s : State) (k : Nat) (t : Tok) : State :=
  match t.pool, t.dest with
  | .arc, .arc rwin a =>
    match (s.cell k).findWin t.region rwin with
    | none => s
    | some (w, _) =>
      let i := s.inArc k w a
      match i.fifo with
      | some _ => s.freeRing t.region k w a (ringNeed (meshLen t.val))
      | none => (s.updIn k w a (fun i => { i with occupied := i.occupied + 1 })).freeArcSlot t k w a
  | _, _ => s.updCell k (fun c => c.giveEntry t.region t.pool)

/-- A token that a cell accepts: into its arc's ring, into the region's in-flight tokens behind the cut, or into the queue. -/
def State.acceptTok (s : State) (k : Nat) (t : Tok) (behind : Bool) : State :=
  let plain := fun s : State => s.updCell k (fun c => { c with queue := c.queue ++ [t] })
  match t.dest with
  | .slot _ _ _ => plain s
  | .arc rwin a =>
    if behind then s.updRegion t.region (fun r => { r with inflight := r.inflight ++ [t] })
    else
      match (s.cell k).findWin t.region rwin with
      | none => s
      | some (w, _) =>
        if t.pool ≠ .arc then plain s else
        match (s.inArc k w a).fifo with
        | some b => (s.updCell k (fun c => c.ringPut b w a t)).updIn k w a (fun i => { i with ring := i.ring ++ [t.id] })
        | none => plain (s.updIn k w a (fun i => { i with occupied := i.occupied + 1 }))

/-- Whether two tokens keep their order: they travel from one place to one cell (R185), or are list tokens of one region bound for
one cell (R101). -/
def State.sameWay (s : State) (t u : Tok) : Bool :=
  let injected := fun (q : Tok) => decide (q.kind = .injected)
  t.x = u.x && t.y = u.y && ((injected t && injected u && t.region = u.region) ||
    (t.sx = u.sx && t.sy = u.sy && (injected t = injected u || t.dest = u.dest) && (s.region t.region).die = (s.region u.region).die))

/-- The input-queue entry of a token that its cell accepts: the one it was sent with, or, for a token that leaves a port core, one
that is free now (R127). -/
def State.entryFor (s : State) (k : Nat) (t : Tok) : Option (Pool × State) :=
  if 80 ≤ t.sx && t.pool = .none then s.takeEntry k t.region else some (t.pool, s)

/-- Whether an arc token waits for a BMODE of the bank of its ring (R193, R202). -/
def State.ringHeld (s : State) (k : Nat) (t : Tok) : Bool :=
  match t.dest with
  | .slot .. => false
  | .arc rwin a =>
    match (s.cell k).findWin t.region rwin with
    | none => false
    | some (w, _) =>
      match (s.inArc k w a).fifo with
      | none => false
      | some b => t.pool = .arc && (s.cell k).bankBusy b

/-- Whether a token can reach its cell now: it is the first of its way, and the cell has what it needs. -/
def State.arrives (s : State) (t : Tok) : Bool :=
  let r := s.region t.region
  let k := cellKey r.die t.x t.y
  (s.toks.find? (fun u => s.sameWay t u)).map Tok.id = some t.id &&
  (r.admission t.x t.y t.tag ≠ .accept || (!s.ringHeld k t && (s.entryFor k t).isSome))

/-- TOKEN_ARRIVAL (R159, R163, R172, R185, R188, R193, R196): the token `id`, the first of its way, reaches its cell. -/
def execTokenArrival (s : State) : Result :=
  match s.toks.find? (fun t => t.id = s.sch.args.id) with
  | none => .next s
  | some t =>
    if !s.arrives t then .next s else
    let r := s.region t.region
    let k := cellKey r.die t.x t.y
    let s := { s with toks := dropFirst (fun u => u.id = t.id) s.toks }.stir t.region
    .next (match r.admission t.x t.y t.tag with
      | .drop => s.turnAway k t
      | .park => (s.turnAway k t).park r.id (.token t)
      | .stale lap => (s.turnAway k t).stale_ r.die t.x t.y r.id t.dest.win t.dest.slotOf t.tag lap
      | .accept =>
        match s.entryFor k t with
        | none => s
        | some (pool, s) => s.acceptTok k { t with pool := pool } (r.cut t.x t.y))

/-- CREDIT_NOTICE (R151, R186, R192): the notice `id` reaches its producer, whose CRED rises; for the arc of an activation stream that
is the port core. -/
def execCreditNotice (s : State) : Result :=
  match s.notices.find? (fun n => n.id = s.sch.args.id) with
  | none => .next s
  | some n =>
    let s := { s with notices := dropFirst (fun m => m.id = n.id) s.notices }
    if 80 ≤ n.x then .next (s.updAct n.arc (fun q => { q with cred := q.cred + n.count })) else
    let k := cellKey (s.region n.region).die n.x n.y
    match (s.cell k).findWin n.region n.rwin with
    | none => .next s
    | some (w, _) => .next ((s.updOut k w n.arc (fun o => { o with cred := o.cred + n.count })).drawSpill n.region k w n.arc)

/-! ## Into the matching store (R188, R189) -/

/-- Whether a cell has the room that a token needs to enter (R188): none for a START or PARAM port, what was held for a late
result, and a new entry where it joins none, as a MERGE's never does (R306). -/
def State.roomFor (s : State) (k w region slot : Nat) (port : Port) (tag : Tag) (v : Val) (held : Bool) : Bool :=
  let c := s.cell k
  held || (s.portTarget k w slot port).isSome ||
  (let here := fun (a : Accord) => a.win = w && a.slot = slot && a.tag = tag && (a.port port).isNone
   let merges := ((slotInstr (c.window w).words slot).map Instr.merges).getD false
   c.canEnter region (if !merges && (c.matching.any here || c.waiting.any here) then 0 else 1) v.lines)

/-- The slot and port that a destination in a physical window leads to. -/
def State.portOfDest (s : State) (k w : Nat) : Dest → Nat × Port
  | .slot _ sl p => (sl, p)
  | .arc _ a => let i := s.inArc k w a; (i.slot, i.port)

/-- A dequeue from the progress arc counted (R135), with the cycle of the first that is not reported. -/
def State.countProgress (s : State) (k w region : Nat) : Dest → State
  | .slot _ _ _ => s
  | .arc _ a =>
    if !(s.inArc k w a).progress then s else
    let now := (s.die (k / 3200)).fabCycles.toNat
    s.updCell k (fun c => { c with
      dequeued := upd 0 region (· + 1) c.dequeued
      unreported := if look 0 c.dequeued region = 0 then put 0 region now c.unreported else c.unreported })

/-- A token forwarded to its bucket's new owner once an entry is held there (R124, R127); `gone` takes it out of its cell. -/
def State.forward (s : State) (die : Nat) (t : Tok) (x y : Nat) (gone : State → State) : State :=
  match s.takeEntry (cellKey die x y) t.region with
  | none => s
  | some (pool, s) =>
    let (id, s) := (gone s).newId
    { s with toks := s.toks ++ [{ t with id := id, sx := t.x, sy := t.y, x := x, y := y, kind := .forwarded, pool := pool, held := false }] }

/-- A token held by its bucket's new owner (R124 step 1). -/
def State.holdTok (s : State) (id actor : Nat) (t : Tok) : State :=
  s.updRegion id (fun r => r.updActor actor (fun a => { a with held := a.held ++ [t] }))

/-- The first queue token of a region matched, forwarded or held (R123, R124, R188, R189). -/
def State.matchQueue (s : State) (r : Region) (k : Nat) (t : Tok) : State :=
  let out := fun s : State => s.updCell k (fun c => { c with queue := dropFirst (fun u => u.id = t.id) c.queue })
  let gone := fun s : State => ((out s).leaveQueue k t).stir r.id
  match r.steerAt t.x t.y t.dest.win t.tag t.val with
  | .away x y => s.forward r.die t x y gone
  | .hold actor => (out s).holdTok r.id actor t
  | .here =>
    match (s.cell k).findWin r.id t.dest.win, if t.kind = .unparked then .accept else r.admission t.x t.y t.tag with
    | none, _ => gone s
    | _, .drop => gone s
    | _, .park => (gone s).park r.id (.token t)
    | _, .stale lap => (gone s).stale_ r.die t.x t.y r.id t.dest.win t.dest.slotOf t.tag lap
    | some (w, _), .accept =>
      let q := s.portOfDest k w t.dest
      if !s.roomFor k w r.id q.1 q.2 t.tag t.val t.held then s
      else ((gone s).countProgress k w r.id t.dest).matchToken k w q.1 q.2 t.tag t.val

/-- The token at the head of a FIFO arc's ring matched, forwarded or held (R124, R193), or what the frame's state asks (R159, R163,
R196). Nothing leaves the ring while a BMODE of its bank is under way (R202). -/
def State.matchRing (s : State) (r : Region) (k x y rwin a : Nat) : State :=
  match (s.cell k).findWin r.id rwin with
  | none => s
  | some (w, _) =>
    let i := s.inArc k w a
    match i.fifo with
    | none => s
    | some b =>
      if (s.cell k).bankBusy b then s else
      match (s.cell k).ringFront b with
      | none => s
      | some t =>
        let e := ringNeed t.val.len
        let t := { t with id := i.ring.headD 0, region := r.id, x := x, y := y, dest := .arc rwin a }
        let pop := fun s : State =>
          (((s.updCell k (fun c => c.ringPop b e)).updIn k w a (fun i => { i with ring := i.ring.tail })).freeRing r.id k w a e).stir r.id
        match r.steerAt x y rwin t.tag t.val, r.admission x y t.tag with
        | .away gx gy, _ => s.forward r.die t gx gy pop
        | .hold actor, _ => (pop s).holdTok r.id actor t
        | _, .drop => pop s
        | _, .park => (pop s).park r.id (.token t)
        | _, .stale lap => (pop s).stale_ r.die x y r.id rwin 0 t.tag lap
        | _, .accept =>
          if !s.roomFor k w r.id i.slot i.port t.tag t.val false then s
          else ((pop s).countProgress k w r.id t.dest).matchToken k w i.slot i.port t.tag t.val

/-- TOKEN_MATCH (R124, R188, R189, R193): the first queue token of region `region` in cell (`x`, `y`) of die `die` enters the matching
store; with `flag`, the first token of the ring of arc `arc` of window `port`. A region that has stopped there matches nothing. -/
def execTokenMatch (s : State) : Result :=
  let a := s.sch.args
  match s.region? a.region with
  | none => .next s
  | some r =>
    let k := cellKey r.die a.x a.y
    if r.stop = .freeze || r.st = .frozen || r.cut a.x a.y then .next s
    else if a.flag then .next (s.matchRing r k a.x a.y a.port a.arc)
    else
      match (s.cell k).queue.find? (fun t => t.region = r.id) with
      | none => .next s
      | some t => .next (s.matchQueue r k t)

/-! ## Progress and gates (R135 to R137) -/

/-- Whether a cell reports a region's dequeues in a fabric cycle (R135): after 64 of them, or 256 cycles after the first. -/
def Cell.reports (c : Cell) (region cycle : Nat) : Bool :=
  let n := look 0 c.dequeued region
  decide (64 ≤ n) || (decide (0 < n) && decide (look 0 c.unreported region + 256 ≤ cycle))

/-- PROGRESS_REPORT (R135): cell (`x`, `y`) reports its count of region `region` to the die scheduler. -/
def execProgressReport (s : State) : Result :=
  let a := s.sch.args
  match s.region? a.region with
  | none => .next s
  | some r =>
    let k := cellKey r.die a.x a.y
    if !(s.cell k).reports r.id (s.die r.die).fabCycles.toNat then .next s else
    let n := look 0 (s.cell k).dequeued r.id
    .next ((s.updRegion r.id (fun r => { r with count := r.count + n })).updCell k (fun c => { c with
      dequeued := put 0 r.id 0 c.dequeued, unreported := put 0 r.id 0 c.unreported }))

/-- Whether a region is behind at a phase (R136). -/
def Region.behind (r : Region) (phase : Nat) : Bool :=
  decide (r.margin * r.image.ptotal + 256 * r.count < 16 * phase * r.image.ptotal)

/-- QUALITY_GATE (R136, R137): the next gate of die `die` is handled: its region's level falls by one where it is behind and has not
been lowered in this phase, and the level is the token. -/
def execQualityGate (s : State) : Result :=
  let die := s.sch.args.die
  match (s.die die).gates with
  | [] => .next s
  | g :: t =>
    let s := s.updDie die (fun d => { d with gates := t })
    let r := s.region g.firing.region
    let phase := look 0 (s.die die).phases r.frame.toNat
    let lower := r.disp && r.behind phase && 0 < r.ql && r.lowered ≠ some phase
    let s := if lower then s.updRegion r.id (fun r => { r with ql := r.ql - 1, lowered := some phase }) else s
    .next (s.landEach g.firing g.firing.acc.tag g.pools (g.targets.map (fun x => (x, Val.of 4 (if lower then r.ql - 1 else r.ql)))))

/-! ## Laps (R194, R195) -/

/-- Whether a token older than a marker is still on an arc: on the mesh, in the consumer's queue or ring, spilled, or held in its slot
by a bucket's new owner (R124, R195). -/
def State.aheadOf (s : State) (region key marker : Nat) : Bool :=
  let r := s.region region
  let a := key % 64
  let w := key / 64 % 8
  let k := key / 512
  let win := (s.cell k).window w
  let mine := fun (t : Tok) => t.region = region && t.dest = .arc win.rwin a && decide (t.id < marker)
  let i := s.inArc k w a
  let held := fun (t : Tok) => mine t && t.pool = .arc && cellKey r.die t.x t.y = k
  s.toks.any (fun t => mine t && cellKey r.die t.x t.y = k) || (s.cell k).queue.any mine || i.spill.any mine ||
  r.actors.any (fun (q : Actor) => q.held.any held) || (i.fifo.isSome && i.ring.any (fun n => decide (n < marker)))

/-- MARKER_REPORT (R192, R195): the lap marker of frame `frm` of region `region` that has reached the head of the arc with key `arc` is
reported; M(g) has returned with its last arc. -/
def execMarkerReport (s : State) : Result :=
  let a := s.sch.args
  match (s.region a.region).frame? a.frm with
  | none => .next s
  | some f =>
    match f.markers.find? (fun m => m.2.2.contains a.arc) with
    | none => .next s
    | some m =>
      if s.aheadOf a.region a.arc m.2.1 then .next s
      else
        let left := m.2.2.filter (· ≠ a.arc)
        let s := s.updRegion a.region (fun r => r.updFrame a.frm (fun f =>
          if left.isEmpty then { f with markers := f.markers.filter (fun q => q.1 ≠ m.1), marked := f.marked ++ [m.1] }
          else { f with markers := changeFirst (fun q => q.1 = m.1) (fun q => (q.1, q.2.1, left)) f.markers }))
        .next (s.serveAsks a.region)

/-- LAP_UPDATE (R194, R196): cell (`x`, `y`) takes the new lap of frame `frm` of region `region`, checks its tokens, and acknowledges. -/
def execLapUpdate (s : State) : Result :=
  let a := s.sch.args
  match ((s.region a.region).frame? a.frm).bind FrameRec.wrap with
  | none => .next s
  | some w =>
    if !w.cells.contains (a.x, a.y) then .next s
    else
      let w := { w with cells := w.cells.filter (· ≠ (a.x, a.y)), acks := w.acks ++ [(a.x, a.y)] }
      let s := s.updRegion a.region (fun r => r.updFrame a.frm (fun f => { f with wrap := some w }))
      .next (s.sweepStale a.region a.frm [(a.x, a.y)])

/-- LAP_ACK (R194): an acknowledgement of the new lap reaches the die scheduler; the grant follows the last. -/
def execLapAck (s : State) : Result :=
  let a := s.sch.args
  match ((s.region a.region).frame? a.frm).bind FrameRec.wrap with
  | none => .next s
  | some w =>
    let s := s.updRegion a.region (fun r => r.updFrame a.frm (fun f => { f with wrap := some { w with acks := w.acks.tail } }))
    .next (s.serveAsks a.region)

end Sys2Proof.Machine
end

