-- ==== Sys2Proof/Machine/Flags.lean ====
section
/-!
DEFINITION. Every flag computation and the rounding it belongs to (spec/12): the number formats (R256 to R260),
rounding once with IV, DZ, OF, UF and NX (R261, R262), conversions (R263 to R265), stochastic underflow (R266, R267),
and the arithmetic of R331 to R339 on decoded numbers.
-/

namespace Sys2Proof.Machine

/-! ## Flags and formats -/

/-- The floating-point flags (R262). -/
abbrev Flags := BitVec 5

/-- IV. -/
def flagIV : Flags := 0x10
/-- DZ. -/
def flagDZ : Flags := 0x08
/-- OF. -/
def flagOF : Flags := 0x04
/-- UF. -/
def flagUF : Flags := 0x02
/-- NX. -/
def flagNX : Flags := 0x01

/-- A number as a format decodes it: NaN (signalling or not), infinity, or (-1)^neg * m * 2^e with m = 0 for zero. -/
inductive Num where
  | nan (sig : Bool)
  | inf (neg : Bool)
  | fin (neg : Bool) (m : Nat) (e : Int)
  deriving DecidableEq, Repr

/-- The kinds of element formats (R256): IEEE with its exponent and fraction widths, binary8 with precision, sign and
extended or finite, and integers. -/
inductive Fmt where
  | ieee (eb mb : Nat)
  | b8 (p : Nat) (sgn ext : Bool)
  | int (bits : Nat) (sgn : Bool)
  deriving DecidableEq, Repr

/-- FP32. -/
def fp32 : Fmt := .ieee 8 23
/-- FP16. -/
def fp16 : Fmt := .ieee 5 10
/-- BF16. -/
def bf16 : Fmt := .ieee 8 7

/-- The format with a code (R256); an unassigned code, which no load admits, reads as FP32. -/
def Fmt.ofCode (c : Nat) : Fmt :=
  if c = 0 then fp32 else if c = 1 then fp16 else if c = 2 then bf16
  else if c = 3 then .int 8 true else if c = 4 then .int 8 false
  else if c = 5 then .int 4 true else if c = 6 then .int 4 false
  else if c = 7 then .int 16 true else if c = 8 then .int 32 true
  else if 0x10 ≤ c && c < 0x30 && c % 8 ≠ 7 then .b8 (c % 8 + 1) (c < 0x20) (c / 8 % 2 = 0)
  else fp32

/-- Width in bits. -/
def Fmt.bits : Fmt → Nat
  | .ieee eb mb => 1 + eb + mb
  | .b8 .. => 8
  | .int n _ => n

/-- Whether a format is an integer format. -/
def Fmt.isInt : Fmt → Bool
  | .int .. => true
  | _ => false

/-- Whether a format is a binary8 format. -/
def Fmt.isB8 : Fmt → Bool
  | .b8 .. => true
  | _ => false

/-- Precision p in bits of a float format. -/
def Fmt.prec : Fmt → Nat
  | .ieee _ mb => mb + 1
  | .b8 p _ _ => p
  | .int n _ => n

/-- Exponent bias (R257, R258). -/
def Fmt.bias : Fmt → Int
  | .ieee eb _ => 2 ^ (eb - 1) - 1
  | .b8 p sgn _ => 2 ^ ((if sgn then 8 - p else 9 - p) - 1)
  | .int .. => 0

/-- Exponent of the least normal binade; for p = 1 of binary8 the least magnitude itself, which has field 1. -/
def Fmt.emin (f : Fmt) : Int := 1 - f.bias

/-- Exponent of the spacing of the subnormals. -/
def Fmt.qmin (f : Fmt) : Int := f.emin - (f.prec - 1)

/-- The NaN code that results carry (R257, R258). -/
def Fmt.nanCode : Fmt → Nat
  | .ieee eb mb => (2 ^ (eb + 1) - 1) * 2 ^ (mb - 1)
  | .b8 _ sgn _ => if sgn then 0x80 else 0xFF
  | .int .. => 0

/-- The largest finite magnitude's code. -/
def Fmt.maxCode : Fmt → Nat
  | .ieee eb mb => (2 ^ eb - 1) * 2 ^ mb - 1
  | .b8 _ sgn ext => if sgn then (if ext then 0x7E else 0x7F) else (if ext then 0xFD else 0xFE)
  | .int n sgn => if sgn then 2 ^ (n - 1) - 1 else 2 ^ n - 1

/-- A magnitude's code with a sign. -/
def Fmt.signed (f : Fmt) (neg : Bool) (mag : Nat) : Nat :=
  match f with
  | .ieee eb mb => mag + bitOf neg * 2 ^ (eb + mb)
  | .b8 _ sgn _ => if sgn && neg then mag + 0x80 else mag
  | .int .. => mag

/-- A magnitude code decoded (R257, R258), the special codes apart. -/
def Fmt.decodeMag (f : Fmt) (neg : Bool) (mag : Nat) : Num :=
  match f with
  | .b8 1 _ _ => if mag = 0 then .fin neg 0 0 else .fin neg 1 (mag - f.bias)
  | _ =>
    let fb := f.prec - 1
    let e := mag / 2 ^ fb
    let t := mag % 2 ^ fb
    if e = 0 then .fin neg t f.qmin else .fin neg (2 ^ fb + t) (f.qmin + e - 1)

/-- A code decoded (R257, R258). -/
def Fmt.decode (f : Fmt) (c : Nat) : Num :=
  match f with
  | .ieee eb mb =>
    let neg := bit c (eb + mb)
    let mag := c % 2 ^ (eb + mb)
    let t := mag % 2 ^ mb
    if mag / 2 ^ mb = 2 ^ eb - 1 then (if t = 0 then .inf neg else .nan (!bit t (mb - 1)))
    else f.decodeMag neg mag
  | .b8 _ sgn ext =>
    let c := c % 256
    if c = f.nanCode then .nan false
    else if sgn then
      if ext && c % 128 = 0x7F then .inf (bit c 7) else f.decodeMag (bit c 7) (c % 128)
    else if ext && c = 0xFE then .inf false else f.decodeMag false c
  | .int n sgn =>
    let v : Int := if sgn then Machine.signed n c else ((c % 2 ^ n : Nat) : Int)
    .fin (decide (v < 0)) v.natAbs 0

/-- Whether a number is a NaN. -/
def Num.isNan : Num → Bool
  | .nan _ => true
  | _ => false

/-- Whether a number is a signalling NaN. -/
def Num.isSig : Num → Bool
  | .nan s => s
  | _ => false

/-- Whether a number is a zero. -/
def Num.isZero : Num → Bool
  | .fin _ m _ => m = 0
  | _ => false

/-- The sign of a number; false for a NaN. -/
def Num.neg : Num → Bool
  | .nan _ => false
  | .inf n => n
  | .fin n _ _ => n

/-- A number with its sign inverted. -/
def Num.negate : Num → Num
  | .nan s => .nan s
  | .inf n => .inf !n
  | .fin n m e => .fin (!n) m e

/-- A number times 2^k. -/
def Num.scale (k : Int) : Num → Num
  | .fin n m e => .fin n m (e + k)
  | x => x

/-! ## Rounding once (R261, R262, R265) -/

/-- m / 2^s rounded to an integer in a mode; `neg` the sign of the value. -/
def roundShift (rm : Rm) (neg : Bool) (m s : Nat) : Nat :=
  let q := m / 2 ^ s
  let r := m % 2 ^ s
  if r = 0 then q else
  match rm with
  | .rn => if 2 ^ s < 2 * r || (2 * r = 2 ^ s && q % 2 = 1) then q + 1 else q
  | .rz => q
  | .ru => if neg then q else q + 1
  | .rd => if neg then q + 1 else q

/-- m * 2^e as an integer multiple of 2^q, rounded in a mode. -/
def roundAt (rm : Rm) (neg : Bool) (m : Nat) (e q : Int) : Nat :=
  if q ≤ e then m * 2 ^ (e - q).toNat else roundShift rm neg m (q - e).toNat

/-- Whether m * 2^e is a multiple of 2^q. -/
def exactAt (m : Nat) (e q : Int) : Bool := decide (q ≤ e) || m % 2 ^ (q - e).toNat = 0

/-- The exponent of the leading bit of m * 2^e, for m > 0. -/
def leadExp (m : Nat) (e : Int) : Int := e + ilog2 m

/-- Compare m * 2^e with n * 2^q: whether the first is less. -/
def lessAt (m : Nat) (e : Int) (n : Nat) (q : Int) : Bool :=
  let b := min e q
  decide (m * 2 ^ (e - b).toNat < n * 2 ^ (q - b).toNat)

/-- The largest finite magnitude as m * 2^e. -/
def Fmt.maxNum (f : Fmt) : Nat × Int :=
  match f.decodeMag false f.maxCode with
  | .fin _ m e => (m, e)
  | _ => (0, 0)

/-- A non-zero finite value rounded once into an IEEE format in a mode (R261): the code and the flags (R262), tininess
detected after rounding. -/
def roundIeee (f : Fmt) (rm : Rm) (neg : Bool) (m : Nat) (e : Int) : Nat × Flags :=
  let q0 := leadExp m e - (f.prec - 1)
  let n0 := roundAt rm neg m e q0
  let q := max q0 f.qmin
  let n := roundAt rm neg m e q
  let inexact := !exactAt m e q
  let mx := f.maxNum
  if lessAt mx.1 mx.2 n q then
    let inf := match rm with
      | .rn => true
      | .rz => false
      | .ru => !neg
      | .rd => neg
    (f.signed neg (if inf then f.maxCode + 1 else f.maxCode), flagOF ||| flagNX)
  else
    let tiny := lessAt n0 q0 1 f.emin
    let code := (q - f.qmin).toNat * 2 ^ (f.prec - 1) + n
    (f.signed neg code, (if inexact then flagNX else 0) ||| (if tiny && inexact then flagUF else 0))

/-- Next of the random generator (R267). -/
def rngNext (x : Word) : Word :=
  let x := x ^^^ (x <<< 13)
  let x := x ^^^ (x >>> 17)
  x ^^^ (x <<< 5)

/-- Seed of a cell's generator for a region (R267), for a column and row relative to the region. -/
def rngSeed (seed : Word) (x y : Nat) : Word :=
  let z := seed + 0x9E3779B9 * BitVec.ofNat 32 (128 * y + x + 1)
  let z := (z ^^^ (z >>> 16)) * 0x85EBCA6B
  let z := (z ^^^ (z >>> 13)) * 0xC2B2AE35
  let z := z ^^^ (z >>> 16)
  if z = 0 then 0x6D2B79F5 else z

/-- A result in a format: its code, the flags, and the generator after the draws made. -/
structure Rounded where
  code : Nat := 0
  flags : Flags := 0
  rng : Word := 0
  deriving DecidableEq, Repr

/-- m * 2^e rounded to p significant bits with an unbounded exponent, as a multiple of 2^q for q its least bit; a tie
goes to the code whose bit 0 is 0 (R265), which for p = 1 is the parity of the exponent field. -/
def roundSig (f : Fmt) (neg : Bool) (m : Nat) (e : Int) : Nat :=
  let lead := leadExp m e
  if f.prec = 1 then
    let k := ilog2 m
    if 3 * 2 ^ k < 2 * m || (2 * m = 3 * 2 ^ k && (lead + f.bias) % 2 = 1) then 2 else 1
  else roundAt .rn neg m e (lead - (f.prec - 1))

/-- A non-zero finite value rounded into a binary8 format (R265, R266). -/
def roundB8 (f : Fmt) (neg : Bool) (m : Nat) (e : Int) (g : Word) : Rounded :=
  let (sgn, ext) := match f with | .b8 _ s x => (s, x) | _ => (true, true)
  if !sgn && neg then ⟨0, flagIV, g⟩ else
  let q0 := leadExp m e - (f.prec - 1)
  let n0 := roundSig f neg m e
  let mx := f.maxNum
  if lessAt mx.1 mx.2 n0 q0 then
    let top := if ext then (if sgn then 0x7F else 0xFE) else f.maxCode
    ⟨f.signed neg top, flagOF ||| flagNX, g⟩
  else
    let least : Int := if f.prec = 1 then f.emin else f.qmin
    if lessAt m e 1 least then
      let g := rngNext g
      let q := if least - 32 ≤ e then m * 2 ^ (e - (least - 32)).toNat else m / 2 ^ (least - 32 - e).toNat
      ⟨if g.toNat < q then f.signed neg 1 else 0, flagUF ||| flagNX, g⟩
    else
      let q := max q0 f.qmin
      let n := if f.prec = 1 then n0 else roundAt .rn neg m e q
      let inexact := !exactAt m e q
      let code := if f.prec = 1 then (q - f.emin).toNat + n else (q - f.qmin).toNat * 2 ^ (f.prec - 1) + n
      let sub := lessAt n q 1 f.emin
      ⟨f.signed neg code, (if inexact then flagNX else 0) ||| (if inexact && sub then flagUF else 0), g⟩

/-- A number given in a float format, in a mode (R261, R263, R265); a NaN becomes the format's NaN, with IV where it
signals. -/
def Fmt.give (f : Fmt) (rm : Rm) (x : Num) (g : Word) : Rounded :=
  match f, x with
  | f, .nan s => ⟨f.nanCode, if s then flagIV else 0, g⟩
  | .b8 p sgn ext, .inf neg =>
    if !sgn && neg then ⟨0, flagIV, g⟩
    else if ext then ⟨(Fmt.b8 p sgn ext).signed neg (if sgn then 0x7F else 0xFE), 0, g⟩
    else ⟨(Fmt.b8 p sgn ext).signed neg (Fmt.b8 p sgn ext).maxCode, flagOF ||| flagNX, g⟩
  | f, .inf neg => ⟨f.signed neg (f.maxCode + 1), 0, g⟩
  | .b8 p sgn ext, .fin neg m e =>
    if m = 0 then ⟨0, 0, g⟩ else roundB8 (.b8 p sgn ext) neg m e g
  | f, .fin neg m e =>
    if m = 0 then ⟨f.signed neg 0, 0, g⟩ else let r := roundIeee f rm neg m e; ⟨r.1, r.2, g⟩

/-! ## Conversions to integers (R264) -/

/-- A number rounded to an integer within a range (R264). -/
def toIntIn (rm : Rm) (lo hi : Int) (x : Num) : Int × Flags :=
  match x with
  | .nan _ => (0, flagIV)
  | .inf neg => (if neg then lo else hi, flagIV)
  | .fin neg m e =>
    let n : Int := roundAt rm neg m e 0
    let v := if neg then -n else n
    if v < lo then (lo, flagIV) else if hi < v then (hi, flagIV)
    else (v, if exactAt m e 0 then 0 else flagNX)

/-- The range of an integer format. -/
def intRange (n : Nat) (sgn : Bool) : Int × Int := if sgn then (-2 ^ (n - 1), 2 ^ (n - 1) - 1) else (0, 2 ^ n - 1)

/-- An integer saturated to a range. -/
def saturate (lo hi v : Int) : Int := max lo (min hi v)

/-! ## Arithmetic on numbers (R331) -/

/-- A finite value as an integer multiple of 2^b, for b at most its exponent. -/
def alignInt (neg : Bool) (m : Nat) (e b : Int) : Int := let v : Int := m * 2 ^ (e - b).toNat; if neg then -v else v

/-- The number i * 2^b; a zero takes the sign `zneg`. -/
def ofInt (i b : Int) (zneg : Bool) : Num := if i = 0 then .fin zneg 0 0 else .fin (decide (i < 0)) i.natAbs b

/-- L + R of two numbers that are no NaN, with the flags; exact (R261, R331). -/
def addNum (rm : Rm) : Num → Num → Num × Flags
  | .inf a, .inf b => if a = b then (.inf a, 0) else (.nan false, flagIV)
  | .inf a, _ => (.inf a, 0)
  | _, .inf b => (.inf b, 0)
  | .fin n1 m1 e1, .fin n2 m2 e2 =>
    let b := min e1 e2
    let zneg := if n1 = n2 then n1 else rm = .rd
    (ofInt (alignInt n1 m1 e1 b + alignInt n2 m2 e2 b) b zneg, 0)
  | _, _ => (.nan false, 0)

/-- L * R of two numbers that are no NaN (R331). -/
def mulNum : Num → Num → Num × Flags
  | .inf a, y => if y.isZero then (.nan false, flagIV) else (.inf (a != y.neg), 0)
  | x, .inf b => if x.isZero then (.nan false, flagIV) else (.inf (x.neg != b), 0)
  | .fin n1 m1 e1, .fin n2 m2 e2 => (.fin (n1 != n2) (m1 * m2) (e1 + e2), 0)
  | _, _ => (.nan false, 0)

/-- A magnitude that lies strictly between two of its integer multiples enters with an odd last bit, so that one
rounding below that bit is the rounding of the exact value. -/
def stick (m : Nat) (exact : Bool) (neg : Bool) (e : Int) : Num := .fin neg (2 * m + bitOf !exact) (e - 1)

/-- L / R of two numbers that are no NaN (R331). -/
def divNum : Num → Num → Num × Flags
  | .inf _, .inf _ => (.nan false, flagIV)
  | .inf a, y => (.inf (a != y.neg), 0)
  | x, .inf b => (.fin (x.neg != b) 0 0, 0)
  | .fin n1 m1 e1, .fin n2 m2 e2 =>
    if m2 = 0 then (if m1 = 0 then (.nan false, flagIV) else (.inf (n1 != n2), flagDZ))
    else if m1 = 0 then (.fin (n1 != n2) 0 0, 0)
    else
      let k := 128 + ilog2 m2
      let num := m1 * 2 ^ k
      (stick (num / m2) (num % m2 = 0) (n1 != n2) (e1 - e2 - k), 0)
  | _, _ => (.nan false, 0)

/-- Floor of the square root, found bit by bit from bit `i`. -/
def isqrtFrom (n : Nat) : Nat → Nat → Nat
  | 0, r => r
  | i + 1, r => isqrtFrom n i (if (r + 2 ^ i) * (r + 2 ^ i) ≤ n then r + 2 ^ i else r)

/-- Floor of the square root. -/
def isqrt (n : Nat) : Nat := isqrtFrom n (ilog2 n / 2 + 1) 0

/-- The square root (R331). -/
def sqrtNum : Num → Num × Flags
  | .nan s => (.nan false, if s then flagIV else 0)
  | .inf neg => if neg then (.nan false, flagIV) else (.inf false, 0)
  | .fin neg m e =>
    if m = 0 then (.fin neg 0 0, 0)
    else if neg then (.nan false, flagIV)
    else
      let m := if e % 2 = 0 then m else 2 * m
      let e := if e % 2 = 0 then e else e - 1
      let n := m * 2 ^ 256
      let r := isqrt n
      (stick r (r * r = n) false (e / 2 - 128), 0)

/-- IV where an operand signals. -/
def sigFlag (l : List Num) : Flags := if l.any Num.isSig then flagIV else 0

/-- An operation on numbers given in a format: any NaN operand first (R331), then the operation, rounded once. -/
def Fmt.op2 (f : Fmt) (rm : Rm) (g : Word) (o : Num → Num → Num × Flags) (x y : Num) : Rounded :=
  if x.isNan || y.isNan then ⟨f.nanCode, sigFlag [x, y], g⟩
  else
    let r := o x y
    let v := f.give rm r.1 g
    { v with flags := v.flags ||| r.2 }

/-- L * R + P with one rounding (R331). -/
def Fmt.fma (f : Fmt) (rm : Rm) (g : Word) (x y z : Num) : Rounded :=
  let infZero := match x, y with
    | .inf _, y => y.isZero
    | x, .inf _ => x.isZero
    | _, _ => false
  if infZero then ⟨f.nanCode, flagIV, g⟩
  else if x.isNan || y.isNan || z.isNan then ⟨f.nanCode, sigFlag [x, y, z], g⟩
  else
    let p := mulNum x y
    let r := addNum rm p.1 z
    let v := f.give rm r.1 g
    { v with flags := v.flags ||| r.2 }

/-- A one-operand operation given in a format. -/
def Fmt.op1 (f : Fmt) (rm : Rm) (g : Word) (o : Num → Num × Flags) (x : Num) : Rounded :=
  if x.isNan then ⟨f.nanCode, sigFlag [x], g⟩
  else
    let r := o x
    let v := f.give rm r.1 g
    { v with flags := v.flags ||| r.2 }

/-! ## Comparisons (R332, R334) -/

/-- Whether x < y as real numbers or infinities; no NaN. -/
def Num.lt : Num → Num → Bool
  | .inf a, .inf b => a && !b
  | .inf a, .fin .. => a
  | .fin .., .inf b => !b
  | .fin n1 m1 e1, .fin n2 m2 e2 =>
    let b := min e1 e2
    decide (alignInt n1 m1 e1 b < alignInt n2 m2 e2 b)
  | _, _ => false

/-- Whether x = y as real numbers or infinities; no NaN. -/
def Num.eqv : Num → Num → Bool
  | .inf a, .inf b => a = b
  | .fin n1 m1 e1, .fin n2 m2 e2 =>
    let b := min e1 e2
    decide (alignInt n1 m1 e1 b = alignInt n2 m2 e2 b)
  | _, _ => false

/-- Whether x comes before y where -0 is less than +0 (R332). -/
def Num.before (x y : Num) : Bool := x.lt y || (x.eqv y && x.isZero && y.isZero && x.neg && !y.neg)

/-- FMIN, FMAX, FMINM and FMAXM (R332) of codes of a format: the result's code and IV. -/
def Fmt.pick (f : Fmt) (greater number : Bool) (a b : Nat) : Nat × Flags :=
  let x := f.decode a
  let y := f.decode b
  if x.isNan || y.isNan then
    let res := if number && !x.isNan then a else if number && !y.isNan then b else f.nanCode
    (res, sigFlag [x, y])
  else if greater then (if x.before y then b else a, 0)
  else (if y.before x then b else a, 0)

/-- The relation of FCMP and VCMP (R334, R347): the truth and IV. -/
def compareNum (cc : FloatCond) (x y : Num) : Bool × Flags :=
  let un := x.isNan || y.isNan
  let quiet := sigFlag [x, y]
  let loud : Flags := if un then flagIV else 0
  match cc with
  | .eq => (!un && x.eqv y, quiet)
  | .ne => (un || !x.eqv y, quiet)
  | .lt => (!un && x.lt y, loud)
  | .le => (!un && (x.lt y || x.eqv y), loud)
  | .gt => (!un && y.lt x, loud)
  | .ge => (!un && (y.lt x || x.eqv y), loud)
  | .un => (un, quiet)
  | .ord => (!un, quiet)

/-! ## Integral rounding and classes (R336, R339) -/

/-- FRND: a number rounded to an integral value, the sign kept (R336). -/
def Fmt.integral (f : Fmt) (rm : Rm) (c : Nat) : Nat × Flags :=
  match f.decode c with
  | .nan s => (f.nanCode, if s then flagIV else 0)
  | .inf _ => (c, 0)
  | .fin neg m e =>
    if m = 0 then (c, 0) else
    let n := roundAt rm neg m e 0
    ((f.give .rn (.fin neg n 0) 0).code, 0)

/-- FCLASS: the bit of the class (R339). -/
def Fmt.classBit (f : Fmt) (c : Nat) : Nat :=
  match f.decode c with
  | .nan s => if s then 8 else 9
  | .inf neg => if neg then 0 else 7
  | .fin neg m e =>
    if m = 0 then (if neg then 3 else 4)
    else if lessAt m e 1 f.emin then (if neg then 2 else 5)
    else (if neg then 1 else 6)

end Sys2Proof.Machine
end

