-- ==== Sys2Proof/Machine/Functions.lean ====
section
/-!
DEFINITION. The six functions of R335, correctly rounded: each is enclosed between two fixed-point numbers with ever
more bits until both round alike, and is then rounded once. The exact cases stand apart; every other value is
irrational, so the enclosure never has to end on a tie (log 9).
-/

namespace Sys2Proof.Machine

/-- An enclosure at `p` fraction bits: lo / 2^p ≤ value ≤ hi / 2^p. -/
abbrev Enclosure := Nat → Int × Int

/-- The error bound in units of the last place that covers the truncations of the series below. -/
def slack : Int := 65536

/-- A value that is not representable, from its enclosure at one precision: the magnitude down to 32 bits above the last
place with an odd bit below it, or none where the enclosure does not fix that magnitude. -/
def settleAt (c : Enclosure) (p : Nat) : Option Num :=
  let (lo, hi) := c p
  if 0 < lo && lo.toNat / 2 ^ 32 = hi.toNat / 2 ^ 32 then some (stick (lo.toNat / 2 ^ 32) false false (32 - p))
  else if hi < 0 && (-hi).toNat / 2 ^ 32 = (-lo).toNat / 2 ^ 32 then some (stick ((-hi).toNat / 2 ^ 32) false true (32 - p))
  else none

/-- The value of the first precision that fixes it. -/
def settle (c : Enclosure) : Num :=
  match settleAt c 192 with
  | some x => x
  | none =>
    match settleAt c 384 with
    | some x => x
    | none =>
      match settleAt c 768 with
      | some x => x
      | none => (settleAt c 1536).getD (.fin false 0 0)

/-- ln 2 at p bits, from the sum of 1 / (j * 2^j); short by less than p + 2 units. -/
def ln2At (p : Nat) : Nat := (List.range p).foldl (fun a i => a + 2 ^ p / ((i + 1) * 2 ^ (i + 1))) 0

/-- atan(1/q) at p bits, from its series; within p units. -/
def atanInv (p q : Nat) : Int :=
  ((List.range (p / 4 + 2)).foldl (fun (s : Int × Nat) (i : Nat) =>
    let t : Int := ((s.2 / (2 * i + 1) : Nat) : Int)
    (if i % 2 = 0 then s.1 + t else s.1 - t, s.2 / (q * q))) ((0 : Int), 2 ^ p / q)).1

/-- pi at p bits by Machin's formula. -/
def piAt (p : Nat) : Nat := (16 * atanInv p 5 - 4 * atanInv p 239).toNat

/-- The exponential of y / 2^p at p bits, for 0 ≤ y < 2^p, from its series; short by fewer units than `slack`. -/
def expAt (p y : Nat) : Nat :=
  ((List.range (p / 3 + 24)).foldl (fun (s : Nat × Nat) i => (s.1 + s.2, s.2 * y / 2 ^ p / (i + 1))) (0, 2 ^ p)).1

/-- n / 2^k at p bits, downwards. -/
def fixAt (p n k : Nat) : Nat := n * 2 ^ p / 2 ^ k

/-- 2^(n / 2^k) for 0 < n < 2^k. -/
def exp2Encl (n k : Nat) : Enclosure := fun p =>
  let v := expAt p (fixAt p n k * ln2At p / 2 ^ p)
  ((v : Int) - slack, (v : Int) + slack)

/-- sin(y / 2^p) at p bits, for 0 ≤ y ≤ 2^(p + 1). -/
def sinAt (p y : Nat) : Int :=
  let y2 := y * y / 2 ^ p
  ((List.range (p / 6 + 24)).foldl (fun (s : Int × Nat) (i : Nat) =>
    let t : Int := s.2
    (if i % 2 = 0 then s.1 + t else s.1 - t, s.2 * y2 / 2 ^ p / ((2 * i + 2) * (2 * i + 3)))) ((0 : Int), y)).1

/-- sin(pi * n / 2^k) for 0 < n < 2^k / 2. -/
def sinEncl (n k : Nat) : Enclosure := fun p =>
  let v := sinAt p (fixAt p n k * piAt p / 2 ^ p)
  (v - slack, v + slack)

/-- ln t for t = m / 2^k in [1, 2) at p bits, from 2 * atanh((t - 1) / (t + 1)). -/
def lnAt (p m k : Nat) : Nat :=
  let z := (m - 2 ^ k) * 2 ^ p / (m + 2 ^ k)
  let z2 := z * z / 2 ^ p
  2 * ((List.range (p / 3 + 8)).foldl (fun (s : Nat × Nat) i => (s.1 + s.2 / (2 * i + 1), s.2 * z2 / 2 ^ p)) (0, z)).1

/-- log2 of m * 2^e for m no power of two, where m has k + 1 bits. -/
def log2Encl (m : Nat) (e : Int) : Enclosure := fun p =>
  let k := ilog2 m
  let v : Int := (e + k) * 2 ^ p + (lnAt p m k * 2 ^ p / ln2At p : Nat)
  (v - slack, v + slack)

/-- FRCP (R335). -/
def rcpNum : Num → Num × Flags
  | .nan s => (.nan false, if s then flagIV else 0)
  | .inf neg => (.fin neg 0 0, 0)
  | .fin neg m e => if m = 0 then (.inf neg, flagDZ) else divNum (.fin false 1 0) (.fin neg m e)

/-- FRSQ (R335). -/
def rsqNum : Num → Num × Flags
  | .nan s => (.nan false, if s then flagIV else 0)
  | .inf neg => if neg then (.nan false, flagIV) else (.fin false 0 0, 0)
  | .fin neg m e =>
    if m = 0 then (.inf neg, flagDZ)
    else if neg then (.nan false, flagIV)
    else
      let m := if e % 2 = 0 then m else 2 * m
      let e := if e % 2 = 0 then e else e - 1
      let k := 128 + ilog2 m
      let r := isqrt (2 ^ (2 * k) / m)
      (stick r (r * r * m = 2 ^ (2 * k)) false (-(e / 2) - k), 0)

/-- FEXP2 (R335). A result beyond every format is given as 2^1000 or 2^-1000. -/
def exp2Num : Num → Num × Flags
  | .nan s => (.nan false, if s then flagIV else 0)
  | .inf neg => if neg then (.fin false 0 0, 0) else (.inf false, 0)
  | .fin neg m e =>
    if m = 0 then (.fin false 1 0, 0)
    else if 10 ≤ leadExp m e then (if neg then .fin false 1 (-2000) else .fin false 1 2000, 0)
    else if 0 ≤ e then
      let n : Int := m * 2 ^ e.toNat
      (.fin false 1 (if neg then -n else n), 0)
    else
      let k := (-e).toNat
      let v : Int := if neg then -(m : Int) else m
      let fl := v / (2 ^ k : Nat)
      let fr := (v % (2 ^ k : Nat)).toNat
      if fr = 0 then (.fin false 1 fl, 0) else ((settle (exp2Encl fr k)).scale fl, 0)

/-- FLOG2 (R335). -/
def log2Num : Num → Num × Flags
  | .nan s => (.nan false, if s then flagIV else 0)
  | .inf neg => if neg then (.nan false, flagIV) else (.inf false, 0)
  | .fin neg m e =>
    if m = 0 then (.inf true, flagDZ)
    else if neg then (.nan false, flagIV)
    else if m = 2 ^ ilog2 m then
      let n := leadExp m e
      (ofInt n 0 false, 0)
    else (settle (log2Encl m e), 0)

/-- sin(pi * n / 2^k) for any n: the sign, and the exact cases 0, 1 and -1; a zero takes `zneg`. -/
def sinTurn (n : Int) (k : Nat) (zneg : Bool) : Num :=
  let full := 2 ^ (k + 1)
  let t := (n % (full : Nat)).toNat
  let neg := decide (2 ^ k ≤ t)
  let t := t % 2 ^ k
  if t = 0 then .fin zneg 0 0
  else if 2 * t = 2 ^ k then .fin neg 1 0
  else
    let t := if 2 ^ k < 2 * t then 2 ^ k - t else t
    let x := settle (sinEncl t k)
    if neg then x.negate else x

/-- FSIN: sin(pi * x) (R335). -/
def sinNum : Num → Num × Flags
  | .nan s => (.nan false, if s then flagIV else 0)
  | .inf _ => (.nan false, flagIV)
  | .fin neg m e =>
    if m = 0 || 0 ≤ e then (.fin neg 0 0, 0)
    else (sinTurn (if neg then -(m : Int) else m) (-e).toNat neg, 0)

/-- FCOS: cos(pi * x) (R335). -/
def cosNum : Num → Num × Flags
  | .nan s => (.nan false, if s then flagIV else 0)
  | .inf _ => (.nan false, flagIV)
  | .fin _ m e =>
    if m = 0 then (.fin false 1 0, 0)
    else if 0 ≤ e then
      let odd := e = 0 && m % 2 = 1
      (.fin odd 1 0, 0)
    else
      let k := (-e).toNat
      (sinTurn ((m : Int) + (2 ^ k / 2 : Nat)) k false, 0)

end Sys2Proof.Machine
end

