-- ==== Sys2Proof/Machine/Float.lean ====
section
/-!
DEFINITION. The scalar float instructions of spec/15 (R329 to R340): operands in format FT from the low bits of 4-byte
ports, results as 4-byte values, flags ORed into H31 of the accord's frame.
-/

namespace Sys2Proof.Machine

/-- The format that FT names (R284). -/
def ftFmt : FloatFmt → Fmt
  | .s => fp32
  | .h => fp16
  | .b => bf16

/-- A port's operand in format FT: the low bits of its 4 bytes (R329). -/
def operandF (ft : FloatFmt) (v : Nat) : Num := (ftFmt ft).decode (v % 2 ^ (ftFmt ft).bits)

/-- A float form (R329): a code and flags from the codes on L, R and P, sent as 4 bytes to T0 and T1. -/
def State.floatForm (s : State) (pd : Pd) (t1 t0 : Target) (o : Nat → Nat → Nat → Nat × Flags) : Result :=
  s.fire pd fun f s =>
    let r := o (f.l 4) (f.r 4) (f.p 4)
    s.finish f (both t0 t1 (Val.of 4 r.1)) r.2 id

/-- A rounded result as code and flags. -/
def Rounded.pair (r : Rounded) : Nat × Flags := (r.code, r.flags)

/-- FADD (R331). -/
def execFadd (pd : Pd) (ft : FloatFmt) (rm : Rm) (t1 t0 : Target) (s : State) : Result :=
  s.floatForm pd t1 t0 fun l r _ => ((ftFmt ft).op2 rm 0 (addNum rm) (operandF ft l) (operandF ft r)).pair

/-- L - R of two numbers that are no NaN (R331). -/
def subNum (rm : Rm) (x y : Num) : Num × Flags := addNum rm x y.negate

/-- FSUB (R331). -/
def execFsub (pd : Pd) (ft : FloatFmt) (rm : Rm) (t1 t0 : Target) (s : State) : Result :=
  s.floatForm pd t1 t0 fun l r _ => ((ftFmt ft).op2 rm 0 (subNum rm) (operandF ft l) (operandF ft r)).pair

/-- FMUL (R331). -/
def execFmul (pd : Pd) (ft : FloatFmt) (rm : Rm) (t1 t0 : Target) (s : State) : Result :=
  s.floatForm pd t1 t0 fun l r _ => ((ftFmt ft).op2 rm 0 mulNum (operandF ft l) (operandF ft r)).pair

/-- FFMA: L * R + P with a single rounding (R331). -/
def execFfma (ft : FloatFmt) (rm : Rm) (t1 t0 : Target) (s : State) : Result :=
  s.floatForm .always t1 t0 fun l r p => ((ftFmt ft).fma rm 0 (operandF ft l) (operandF ft r) (operandF ft p)).pair

/-- FDIV (R331). -/
def execFdiv (pd : Pd) (ft : FloatFmt) (rm : Rm) (t1 t0 : Target) (s : State) : Result :=
  s.floatForm pd t1 t0 fun l r _ => ((ftFmt ft).op2 rm 0 divNum (operandF ft l) (operandF ft r)).pair

/-- FSQRT (R331). -/
def execFsqrt (pd : Pd) (ft : FloatFmt) (rm : Rm) (t1 t0 : Target) (s : State) : Result :=
  s.floatForm pd t1 t0 fun l _ _ => ((ftFmt ft).op1 rm 0 sqrtNum (operandF ft l)).pair

/-- FMIN (R332). -/
def execFmin (pd : Pd) (ft : FloatFmt) (t1 t0 : Target) (s : State) : Result :=
  s.floatForm pd t1 t0 fun l r _ => (ftFmt ft).pick false false (l % 2 ^ (ftFmt ft).bits) (r % 2 ^ (ftFmt ft).bits)

/-- FMAX (R332). -/
def execFmax (pd : Pd) (ft : FloatFmt) (t1 t0 : Target) (s : State) : Result :=
  s.floatForm pd t1 t0 fun l r _ => (ftFmt ft).pick true false (l % 2 ^ (ftFmt ft).bits) (r % 2 ^ (ftFmt ft).bits)

/-- FMINM (R332). -/
def execFminm (pd : Pd) (ft : FloatFmt) (t1 t0 : Target) (s : State) : Result :=
  s.floatForm pd t1 t0 fun l r _ => (ftFmt ft).pick false true (l % 2 ^ (ftFmt ft).bits) (r % 2 ^ (ftFmt ft).bits)

/-- FMAXM (R332). -/
def execFmaxm (pd : Pd) (ft : FloatFmt) (t1 t0 : Target) (s : State) : Result :=
  s.floatForm pd t1 t0 fun l r _ => (ftFmt ft).pick true true (l % 2 ^ (ftFmt ft).bits) (r % 2 ^ (ftFmt ft).bits)

/-- The sign bit of a format. -/
def Fmt.signBit (f : Fmt) : Nat := 2 ^ (f.bits - 1)

/-- FABS: the sign bit cleared (R333). -/
def execFabs (pd : Pd) (ft : FloatFmt) (t1 t0 : Target) (s : State) : Result :=
  s.floatForm pd t1 t0 fun l _ _ => (l % (ftFmt ft).signBit, 0)

/-- FNEG: the sign bit inverted (R333). -/
def execFneg (pd : Pd) (ft : FloatFmt) (t1 t0 : Target) (s : State) : Result :=
  s.floatForm pd t1 t0 fun l _ _ => ((l % 2 ^ (ftFmt ft).bits) ^^^ (ftFmt ft).signBit, 0)

/-- FCMP.cc (R334). -/
def execFcmp (pd : Pd) (ft : FloatFmt) (cc : FloatCond) (t1 t0 : Target) (s : State) : Result :=
  s.floatForm pd t1 t0 fun l r _ => let q := compareNum cc (operandF ft l) (operandF ft r); (bitOf q.1, q.2)

/-- FRCP, correctly rounded to nearest even (R335). -/
def execFrcp (pd : Pd) (ft : FloatFmt) (t1 t0 : Target) (s : State) : Result :=
  s.floatForm pd t1 t0 fun l _ _ => ((ftFmt ft).op1 .rn 0 rcpNum (operandF ft l)).pair

/-- FRSQ, correctly rounded to nearest even (R335). -/
def execFrsq (pd : Pd) (ft : FloatFmt) (t1 t0 : Target) (s : State) : Result :=
  s.floatForm pd t1 t0 fun l _ _ => ((ftFmt ft).op1 .rn 0 rsqNum (operandF ft l)).pair

/-- FEXP2, correctly rounded to nearest even (R335). -/
def execFexp2 (pd : Pd) (ft : FloatFmt) (t1 t0 : Target) (s : State) : Result :=
  s.floatForm pd t1 t0 fun l _ _ => ((ftFmt ft).op1 .rn 0 exp2Num (operandF ft l)).pair

/-- FLOG2, correctly rounded to nearest even (R335). -/
def execFlog2 (pd : Pd) (ft : FloatFmt) (t1 t0 : Target) (s : State) : Result :=
  s.floatForm pd t1 t0 fun l _ _ => ((ftFmt ft).op1 .rn 0 log2Num (operandF ft l)).pair

/-- FSIN, correctly rounded to nearest even (R335). -/
def execFsin (pd : Pd) (ft : FloatFmt) (t1 t0 : Target) (s : State) : Result :=
  s.floatForm pd t1 t0 fun l _ _ => ((ftFmt ft).op1 .rn 0 sinNum (operandF ft l)).pair

/-- FCOS, correctly rounded to nearest even (R335). -/
def execFcos (pd : Pd) (ft : FloatFmt) (t1 t0 : Target) (s : State) : Result :=
  s.floatForm pd t1 t0 fun l _ _ => ((ftFmt ft).op1 .rn 0 cosNum (operandF ft l)).pair

/-- FRND (R336). -/
def execFrnd (pd : Pd) (ft : FloatFmt) (rm : Rm) (t1 t0 : Target) (s : State) : Result :=
  s.floatForm pd t1 t0 fun l _ _ => (ftFmt ft).integral rm (l % 2 ^ (ftFmt ft).bits)

/-- CVT.S: FT to FP32 (R263, R337). -/
def execCvtS (pd : Pd) (ft : FloatFmt) (rm : Rm) (t1 t0 : Target) (s : State) : Result :=
  s.floatForm pd t1 t0 fun l _ _ => (fp32.give rm (operandF ft l) 0).pair

/-- CVT.H: FT to FP16 (R263, R337). -/
def execCvtH (pd : Pd) (ft : FloatFmt) (rm : Rm) (t1 t0 : Target) (s : State) : Result :=
  s.floatForm pd t1 t0 fun l _ _ => (fp16.give rm (operandF ft l) 0).pair

/-- CVT.B: FT to BF16 (R263, R337). -/
def execCvtB (pd : Pd) (ft : FloatFmt) (rm : Rm) (t1 t0 : Target) (s : State) : Result :=
  s.floatForm pd t1 t0 fun l _ _ => (bf16.give rm (operandF ft l) 0).pair

/-- CVTFI: FT to INT32 (R264, R337). -/
def execCvtfi (pd : Pd) (ft : FloatFmt) (rm : Rm) (t1 t0 : Target) (s : State) : Result :=
  s.floatForm pd t1 t0 fun l _ _ =>
    let q := toIntIn rm (-2147483648) 2147483647 (operandF ft l)
    (wrap 32 q.1, q.2)

/-- An integer given in a float format (R263); zero is +0. -/
def giveInt (ft : FloatFmt) (rm : Rm) (i : Int) : Nat × Flags := ((ftFmt ft).give rm (ofInt i 0 false) 0).pair

/-- CVTIF: INT32 to FT (R263, R337). -/
def execCvtif (pd : Pd) (ft : FloatFmt) (rm : Rm) (t1 t0 : Target) (s : State) : Result :=
  s.floatForm pd t1 t0 fun l _ _ => giveInt ft rm (signed 32 l)

/-- CVTIF.L: a 64-bit integer to FT (R263, R337). -/
def execCvtifL (pd : Pd) (ft : FloatFmt) (rm : Rm) (t1 t0 : Target) (s : State) : Result :=
  s.fire pd fun f s =>
    let q := giveInt ft rm (signed 64 (f.l 8))
    s.finish f (both t0 t1 (Val.of 4 q.1)) q.2 id

/-- The format of a firing's cell that VFMT names (R208, R274). -/
def State.vfmt (s : State) (f : Firing) : Fmt := Fmt.ofCode (s.cell f.cell).fmt.vfmt.toNat

/-- The random generator of a region in a cell (R267). -/
def State.rngOf (s : State) (f : Firing) : Word := look 0 (s.cell f.cell).rng f.region

/-- The generator of a region in a cell set. -/
def State.setRng (s : State) (f : Firing) (g : Word) : State :=
  s.updCell f.cell fun c => { c with rng := put 0 f.region g c.rng }

/-- CVT8: L in format FT converted into the cell's VFMT under R265 (R338). -/
def execCvt8 (pd : Pd) (ft : FloatFmt) (t1 t0 : Target) (s : State) : Result :=
  s.fire pd fun f s =>
    let q := (s.vfmt f).give .rn (operandF ft (f.l 4)) (s.rngOf f)
    s.finish f (both t0 t1 (Val.of 4 q.code)) q.flags fun s => s.setRng f q.rng

/-- CVF8: a code of the cell's VFMT converted into FT, to nearest even (R338). -/
def execCvf8 (pd : Pd) (ft : FloatFmt) (t1 t0 : Target) (s : State) : Result :=
  s.fire pd fun f s =>
    let q := (ftFmt ft).give .rn ((s.vfmt f).decode (f.l 4 % 256)) 0
    s.finish f (both t0 t1 (Val.of 4 q.code)) q.flags id

/-- FCLASS (R339). -/
def execFclass (pd : Pd) (ft : FloatFmt) (t1 t0 : Target) (s : State) : Result :=
  s.floatForm pd t1 t0 fun l _ _ => (2 ^ (ftFmt ft).classBit (l % 2 ^ (ftFmt ft).bits), 0)

end Sys2Proof.Machine
end

