-- ==== Sys2Proof/Machine/Vector.lean ====
section
/-!
DEFINITION. The vector instructions of spec/16 (R341 to R352): lanes of the cell's VFMT, flags of all lanes ORed into
H31, stochastic draws in lane order.
-/

namespace Sys2Proof.Machine

/-! ## Lanes (R341, R343) -/

/-- Lanes of a vector format. -/
def laneCount (f : Fmt) : Nat := if f.bits = 32 then 16 else if f.bits = 16 then 32 else 64

/-- VLEN: bytes of a vector token. -/
def vectorLen (f : Fmt) : Nat := laneCount f * f.bits / 8

/-- Lane `i` of a vector. -/
def laneOf (f : Fmt) (v i : Nat) : Nat := v / 2 ^ (f.bits * i) % 2 ^ f.bits

/-- Lane results computed in ascending order, the generator passed on, the flags ORed. -/
def runLanes (f : Fmt) (o : Nat → Word → Rounded) (g : Word) : Nat × Flags × Word :=
  (List.range (laneCount f)).foldl (fun (q : Nat × Flags × Word) i =>
    let r := o i q.2.2
    (q.1 + r.code % 2 ^ f.bits * 2 ^ (f.bits * i), q.2.1 ||| r.flags, r.rng)) (0, 0, g)

/-- A vector form: one result per lane from the lanes of L, R and P (R343). -/
def State.vectorForm (s : State) (pd : Pd) (t1 t0 : Target) (o : Fmt → Word → Nat → Nat → Nat → Rounded) : Result :=
  s.fire pd fun f s =>
    let fmt := s.vfmt f
    let n := vectorLen fmt
    let q := runLanes fmt (fun i g => o fmt g (laneOf fmt (f.l n) i) (laneOf fmt (f.r n) i) (laneOf fmt (f.p n) i)) (s.rngOf f)
    s.finish f (both t0 t1 (Val.of n q.1)) q.2.1 fun s => s.setRng f q.2.2

/-- A lane of an integer format as an integer. -/
def laneInt (f : Fmt) (c : Nat) : Int :=
  match f with
  | .int n sgn => if sgn then signed n c else ((c % 2 ^ n : Nat) : Int)
  | _ => c

/-- An integer saturated to an integer format, as its code (R343). -/
def saturateTo (f : Fmt) (v : Int) : Nat :=
  match f with
  | .int n sgn => let q := intRange n sgn; wrap n (saturate q.1 q.2 v)
  | _ => 0

/-- A lane of a two-operand operation: on numbers for a float format, exact and saturated for an integer format. -/
def lane2 (o : Num → Num → Num × Flags) (i : Int → Int → Int) (f : Fmt) (g : Word) (l r : Nat) : Rounded :=
  if f.isInt then ⟨saturateTo f (i (laneInt f l) (laneInt f r)), 0, g⟩
  else f.op2 .rn g o (f.decode l) (f.decode r)

/-- The lesser or greater lane (R332, R344). -/
def lanePick (greater : Bool) (f : Fmt) (l r : Nat) : Nat × Flags :=
  if f.isInt then
    (if (if greater then decide (laneInt f r ≤ laneInt f l) else decide (laneInt f l ≤ laneInt f r)) then l else r, 0)
  else f.pick greater false l r

/-! ## Arithmetic on lanes (R344 to R346) -/

/-- VADD (R344). -/
def execVadd (pd : Pd) (t1 t0 : Target) (s : State) : Result :=
  s.vectorForm pd t1 t0 fun f g l r _ => lane2 (addNum .rn) (fun a b => a + b) f g l r

/-- VSUB (R344). -/
def execVsub (pd : Pd) (t1 t0 : Target) (s : State) : Result :=
  s.vectorForm pd t1 t0 fun f g l r _ => lane2 (subNum .rn) (fun a b => a - b) f g l r

/-- VMUL (R344). -/
def execVmul (pd : Pd) (t1 t0 : Target) (s : State) : Result :=
  s.vectorForm pd t1 t0 fun f g l r _ => lane2 (mulNum) (fun a b => a * b) f g l r

/-- VFMA: L * R + P, rounded or saturated once (R344). -/
def execVfma (t1 t0 : Target) (s : State) : Result :=
  s.vectorForm .always t1 t0 fun f g l r p =>
    if f.isInt then ⟨saturateTo f (laneInt f l * laneInt f r + laneInt f p), 0, g⟩
    else f.fma .rn g (f.decode l) (f.decode r) (f.decode p)

/-- VMIN (R344). -/
def execVmin (pd : Pd) (t1 t0 : Target) (s : State) : Result :=
  s.vectorForm pd t1 t0 fun f g l r _ => let q := lanePick false f l r; ⟨q.1, q.2, g⟩

/-- VMAX (R344). -/
def execVmax (pd : Pd) (t1 t0 : Target) (s : State) : Result :=
  s.vectorForm pd t1 t0 fun f g l r _ => let q := lanePick true f l r; ⟨q.1, q.2, g⟩

/-- VCLAMP: the lesser of P and the greater of L and R (R344). -/
def execVclamp (t1 t0 : Target) (s : State) : Result :=
  s.vectorForm .always t1 t0 fun f g l r p =>
    let a := lanePick true f l r
    let b := lanePick false f a.1 p
    ⟨b.1, a.2 ||| b.2, g⟩

/-- VABS of one lane (R344). -/
def laneAbs (f : Fmt) (l : Nat) : Nat × Flags :=
  match f with
  | .ieee .. => (l % f.signBit, 0)
  | .b8 _ sgn _ => (if sgn && l ≠ 0x80 then l % 128 else l, 0)
  | .int _ sgn => (if sgn then saturateTo f (laneInt f l).natAbs else l, 0)

/-- VNEG of one lane (R344). -/
def laneNeg (f : Fmt) (l : Nat) : Nat × Flags :=
  match f with
  | .ieee .. => (l ^^^ f.signBit, 0)
  | .b8 _ sgn _ =>
    if sgn then (if l = 0 || l = 0x80 then l else l ^^^ 0x80, 0)
    else if l = 0 then (0, 0) else if l = 0xFF then (0xFF, 0) else (0, flagIV)
  | .int _ sgn => (if sgn then saturateTo f (-laneInt f l) else 0, 0)

/-- VABS (R344). -/
def execVabs (pd : Pd) (t1 t0 : Target) (s : State) : Result :=
  s.vectorForm pd t1 t0 fun f g l _ _ => let q := laneAbs f l; ⟨q.1, q.2, g⟩

/-- VNEG (R344). -/
def execVneg (pd : Pd) (t1 t0 : Target) (s : State) : Result :=
  s.vectorForm pd t1 t0 fun f g l _ _ => let q := laneNeg f l; ⟨q.1, q.2, g⟩

/-- VRCP (R345). -/
def execVrcp (pd : Pd) (t1 t0 : Target) (s : State) : Result :=
  s.vectorForm pd t1 t0 fun f g l _ _ => f.op1 .rn g rcpNum (f.decode l)

/-- VRSQ (R345). -/
def execVrsq (pd : Pd) (t1 t0 : Target) (s : State) : Result :=
  s.vectorForm pd t1 t0 fun f g l _ _ => f.op1 .rn g rsqNum (f.decode l)

/-- VEXP2 (R345). -/
def execVexp2 (pd : Pd) (t1 t0 : Target) (s : State) : Result :=
  s.vectorForm pd t1 t0 fun f g l _ _ => f.op1 .rn g exp2Num (f.decode l)

/-- VLOG2 (R345). -/
def execVlog2 (pd : Pd) (t1 t0 : Target) (s : State) : Result :=
  s.vectorForm pd t1 t0 fun f g l _ _ => f.op1 .rn g log2Num (f.decode l)

/-- VSCALE: every lane times 2^(R[7:0] - 127); 0xFF makes every lane NaN (R346). -/
def execVscale (pd : Pd) (t1 t0 : Target) (s : State) : Result :=
  s.fire pd fun f s =>
    let fmt := s.vfmt f
    let n := vectorLen fmt
    let k := f.r 4 % 256
    let q := runLanes fmt (fun i g =>
      if k = 0xFF then ⟨fmt.nanCode, 0, g⟩
      else fmt.op1 .rn g (fun x => (x.scale ((k : Int) - 127), 0)) (fmt.decode (laneOf fmt (f.l n) i))) (s.rngOf f)
    s.finish f (both t0 t1 (Val.of n q.1)) q.2.1 fun s => s.setRng f q.2.2

/-- The relation of a float comparison that a lane condition names (R347). -/
def laneCond : LaneCond → FloatCond
  | .eq => .eq
  | .ne => .ne
  | .lt => .lt
  | .le => .le
  | .gt => .gt
  | .ge => .ge
  | .un => .un

/-- One lane of VCMP (R347). -/
def laneCompare (cc : LaneCond) (f : Fmt) (l r : Nat) : Bool × Flags :=
  if f.isInt then
    let a := laneInt f l
    let b := laneInt f r
    (match cc with
      | .eq => decide (a = b)
      | .ne => decide (a ≠ b)
      | .lt => decide (a < b)
      | .le => decide (a ≤ b)
      | .gt => decide (b < a)
      | .ge => decide (b ≤ a)
      | .un => false, 0)
  else compareNum (laneCond cc) (f.decode l) (f.decode r)

/-- VCMP.cc: an 8-byte lane mask (R347). -/
def execVcmp (pd : Pd) (cc : LaneCond) (t1 t0 : Target) (s : State) : Result :=
  s.fire pd fun f s =>
    let fmt := s.vfmt f
    let n := vectorLen fmt
    let q := (List.range (laneCount fmt)).foldl (fun (q : Nat × Flags) i =>
      let r := laneCompare cc fmt (laneOf fmt (f.l n) i) (laneOf fmt (f.r n) i)
      (q.1 + bitOf r.1 * 2 ^ i, q.2 ||| r.2)) (0, 0)
    s.finish f (both t0 t1 (Val.of 8 q.1)) q.2 id

/-- VSEL: lane i of L where P[i] = 1, else of R (R347). -/
def execVsel (t1 t0 : Target) (s : State) : Result :=
  s.fire .always fun f s =>
    let fmt := s.vfmt f
    let n := vectorLen fmt
    let q := runLanes fmt (fun i g => ⟨laneOf fmt (if bit (f.p 8) i then f.l n else f.r n) i, 0, g⟩) 0
    s.finish f (both t0 t1 (Val.of n q.1)) 0 id

/-! ## Broadcast and reduction (R348, R349) -/

/-- VBCAST (R348). -/
def execVbcast (pd : Pd) (t1 t0 : Target) (s : State) : Result :=
  s.fire pd fun f s =>
    let fmt := s.vfmt f
    let q := runLanes fmt (fun _ g => ⟨f.l 4 % 2 ^ fmt.bits, 0, g⟩) 0
    s.finish f (both t0 t1 (Val.of (vectorLen fmt) q.1)) 0 id

/-- The lanes of L. -/
def lanesOf (f : Fmt) (v : Nat) : List Nat := (List.range (laneCount f)).map (laneOf f v)

/-- The exact sum of numbers that are no NaN; an exact zero is -0 only where every number is -0 (R349). -/
def sumNums (l : List Num) : Num × Flags :=
  let inf := fun n => l.any (fun x => x = .inf n)
  if inf true && inf false then (.nan false, flagIV)
  else if inf true then (.inf true, 0)
  else if inf false then (.inf false, 0)
  else
    let zneg := l.all (fun x => x.isZero && x.neg)
    let q := l.foldl (fun a x => (addNum .rn a x).1) (.fin true 0 0)
    (if q.isZero then .fin zneg 0 0 else q, 0)

/-- A reduction: its 4-byte value, the flags and the generator. -/
def State.reduceForm (s : State) (pd : Pd) (t1 t0 : Target) (o : Fmt → Word → List Nat → Rounded) : Result :=
  s.fire pd fun f s =>
    let fmt := s.vfmt f
    let q := o fmt (s.rngOf f) (lanesOf fmt (f.l (vectorLen fmt)))
    s.finish f (both t0 t1 (Val.of 4 q.code)) q.flags fun s => s.setRng f q.rng

/-- VRED.SUM: the exact sum of all lanes, rounded once or saturated to INT32 (R349). -/
def execVredSum (pd : Pd) (t1 t0 : Target) (s : State) : Result :=
  s.reduceForm pd t1 t0 fun f g l =>
    if f.isInt then ⟨saturateTo (.int 32 true) (l.foldl (fun a c => a + laneInt f c) 0), 0, g⟩
    else
      let xs := l.map f.decode
      if xs.any Num.isNan then ⟨f.nanCode, sigFlag xs, g⟩
      else
        let q := sumNums xs
        let r := f.give .rn q.1 g
        { r with flags := r.flags ||| q.2 }

/-- VRED.MIN and VRED.MAX: R332 folded over the lanes, or the least or greatest lane extended to 32 bits (R349). -/
def reducePick (greater : Bool) (f : Fmt) (g : Word) : List Nat → Rounded
  | [] => ⟨0, 0, g⟩
  | c :: t =>
    let q := t.foldl (fun (q : Nat × Flags) c => let r := lanePick greater f q.1 c; (r.1, q.2 ||| r.2)) (c, 0)
    ⟨if f.isInt then wrap 32 (laneInt f q.1) else q.1, q.2, g⟩

/-- VRED.MIN (R349). -/
def execVredMin (pd : Pd) (t1 t0 : Target) (s : State) : Result := s.reduceForm pd t1 t0 (reducePick false)

/-- VRED.MAX (R349). -/
def execVredMax (pd : Pd) (t1 t0 : Target) (s : State) : Result := s.reduceForm pd t1 t0 (reducePick true)

/-! ## Conversions and quantisation (R350 to R352) -/

/-- Floor(Log2(MAXF)) of a format (R350). -/
def maxLog2 (f : Fmt) : Int :=
  match f with
  | .int n sgn => ((if sgn then n - 1 else n) : Nat) - 1
  | f => let q := f.maxNum; leadExp q.1 q.2

/-- BlockScale (R350). -/
def blockScale (f : Fmt) (l : List Num) : Nat :=
  if l.any Num.isNan then 0xFF
  else
    let leads := l.filterMap (fun x => match x with | .fin _ m e => if m = 0 then none else some (leadExp m e) | _ => none)
    match leads with
    | [] => 127
    | e :: t => (max 0 (min 254 (t.foldl max e - maxLog2 f + 127))).toNat

/-- Bytes of scale bytes behind a vector, padded to a multiple of 4 for the whole value (R351). -/
def scaledLen (f : Fmt) (bs : Bool) : Nat := if bs then 4 * ceilDiv (vectorLen f + ceilDiv (laneCount f) 32) 4 else vectorLen f

/-- VCVT: lanes of VFMT, each under its block's scale, to FP32 lanes (R351). -/
def execVcvt (pd : Pd) (t1 t0 : Target) (s : State) : Result :=
  s.fire pd fun f s =>
    let c := s.cell f.cell
    let fmt := s.vfmt f
    let n := laneCount fmt
    let v := f.valL.low (scaledLen fmt c.fmt.bs)
    if fmt = fp32 && !c.fmt.bs then s.finish f (both t0 t1 (Val.of 64 v)) 0 id else
    let q := (List.range n).foldl (fun (q : Nat × Flags) i =>
      let k := if c.fmt.bs then v / 2 ^ (8 * (vectorLen fmt + i / 32)) % 256 else 127
      let x := fmt.decode (laneOf fmt v i)
      let r := if k = 0xFF then (⟨fp32.nanCode, sigFlag [x], 0⟩ : Rounded) else fp32.give .rn (x.scale ((k : Int) - 127)) 0
      (q.1 + r.code * 2 ^ (32 * i), q.2 ||| r.flags)) (0, 0)
    s.finish f (both t0 t1 (Val.of (4 * n) q.1)) q.2 id

/-- One lane of VQUANT under its block's scale (R352). -/
def quantLane (f : Fmt) (k : Nat) (x : Num) (g : Word) : Rounded :=
  if k = 0xFF then (if f.isInt then ⟨0, flagIV, g⟩ else ⟨f.nanCode, sigFlag [x], g⟩)
  else
    let y := x.scale (127 - (k : Int))
    match f with
    | .int n sgn => let r := intRange n sgn; let q := toIntIn .rn r.1 r.2 y; ⟨wrap n q.1, q.2, g⟩
    | f => f.give .rn y g

/-- VQUANT: FP32 lanes to VFMT lanes, with a scale byte for each 32 lanes where the cell uses block scales (R352). -/
def execVquant (pd : Pd) (t1 t0 : Target) (s : State) : Result :=
  s.fire pd fun f s =>
    let c := s.cell f.cell
    let fmt := s.vfmt f
    let n := laneCount fmt
    let v := f.l (4 * n)
    let xs := (List.range n).map (fun i => fp32.decode (v / 2 ^ (32 * i) % 2 ^ 32))
    let ks := (List.range (ceilDiv n 32)).map (fun j => if c.fmt.bs then blockScale fmt ((xs.drop (32 * j)).take 32) else 127)
    let q := runLanes fmt (fun i g => quantLane fmt (ks.getD (i / 32) 127) (xs.getD i (.fin false 0 0)) g) (s.rngOf f)
    let scales := if c.fmt.bs then (ks.foldl (fun (a : Nat × Nat) k => (a.1 + k * 2 ^ (8 * a.2), a.2 + 1)) (0, 0)).1 else 0
    let val := q.1 + scales * 2 ^ (8 * vectorLen fmt)
    s.finish f (both t0 t1 (Val.of (scaledLen fmt c.fmt.bs) val)) q.2.1 fun s => s.setRng f q.2.2

end Sys2Proof.Machine
end

