-- ==== Sys2Proof/Machine/Tiles.lean ====
section
/-!
DEFINITION. Tiles, the tile engine and bank modes (R200 to R206, R353 to R360): elements of a tile, TDEF, TSET, TSTATE,
PERMIT, VTRANS, the pooling instructions and BMODE.
-/

namespace Sys2Proof.Machine

/-! ## Elements of a tile (R204) -/

/-- The code of element (r, c) of a tile. -/
def Cell.elem (c : Cell) (t : Tile) (r col : Nat) : Nat :=
  let w := fmtBits t.fmt.toNat
  let a := t.rowAddr r + w * col / 8
  if w = 4 then (c.bankByte t.bank.toNat a).toNat / 2 ^ (4 * (col % 2)) % 16 else c.bankRead t.bank.toNat a (w / 8)

/-- An element of a tile written. -/
def Cell.setElem (c : Cell) (t : Tile) (r col v : Nat) : Cell :=
  let w := fmtBits t.fmt.toNat
  let a := t.rowAddr r + w * col / 8
  if w = 4 then
    let b := (c.bankByte t.bank.toNat a).toNat
    let b := if col % 2 = 0 then b / 16 * 16 + v % 16 else v % 16 * 16 + b % 16
    c.bankWrite t.bank.toNat a [BitVec.ofNat 8 b]
  else c.bankWrite t.bank.toNat a (toBytes (w / 8) v)

/-- The scale byte of an element's run, 127 where the tile has none (R204, R260). -/
def Cell.elemScale (c : Cell) (t : Tile) (r col : Nat) : Nat :=
  if t.bs then (c.bankByte t.bank.toNat (t.rowAddr r + ceilDiv (t.ncols * fmtBits t.fmt.toNat) 8 + col / 32)).toNat else 127

/-- The value of an element with its block scale, and none where the scale is 0xFF (R260). -/
def Cell.elemNum (c : Cell) (t : Tile) (r col : Nat) : Num :=
  let k := c.elemScale t r col
  if k = 0xFF then .nan false else ((Fmt.ofCode t.fmt.toNat).decode (c.elem t r col)).scale ((k : Int) - 127)

/-- The bank of a tile is owned by a region (R201). -/
def Cell.ownsTile (c : Cell) (t : Tile) (region : Nat) : Bool :=
  (c.bank t.bank.toNat).claimed && (c.bank t.bank.toNat).region = region

/-- Every (binding, buffer) of which a tile of a cell of a region is a destination (R214, R226): the read bindings that name it. -/
def State.destsOf (s : State) (region x y j : Nat) : List (Nat × Nat) :=
  let r := s.region region
  (r.image.bindings.filter (fun b => b.mode ≠ .element && !b.shape.write)).filterMap (fun b =>
    (b.dests.find? (fun d => r.x0 + d.x = x && r.y0 + d.y = y && d.tile ≤ j && j < d.tile + b.nbuf)).map
      (fun d => (b.p, j - d.tile)))

/-- A space token of a destination tile on its way to the join unit (R226). -/
def State.sendSpace (s : State) (f : Firing) (port buffer : Nat) (reply : Option (Firing × List Target)) : State :=
  let (id, s) := s.newId
  let t : Space := { id := id, region := f.region, port := port, buffer := buffer, tag := f.acc.tag, reply := reply }
  { s with spaces := s.spaces ++ [t] }

/-- The space tokens of a tile that leaves READY for EMPTY (R226): one to the join unit of each binding that names it, the last
with the reply of a PERMIT. -/
def State.sendSpaces (s : State) (f : Firing) (reply : Option (Firing × List Target)) : List (Nat × Nat) → State
  | [] => s
  | [q] => s.sendSpace f q.1 q.2 reply
  | q :: t => (s.sendSpace f q.1 q.2 none).sendSpaces f reply t

/-! ## TDEF, TSET, TSTATE, PERMIT (R353 to R356) -/

/-- TDEF: entry t written from L once it is EMPTY (R353). -/
def execTdef (pd : Pd) (tile : BitVec 5) (t0 : Target) (s : State) : Result :=
  s.fire pd fun f s =>
    let c := s.cell f.cell
    let j := tile.toNat
    if (c.tile j).st ≠ .empty then .next (s.putBack f) else
    let v := f.l 16
    let t := { Tile.ofWord v with tdef := true }
    if bits v 127 126 ≠ 0 || bits v 71 32 ≠ 0 || bits v 31 0 ≠ 0 || fmtBits (bits v 123 118) = 0 || !c.tileValid t then
      s.takeShape f 0xC0 0
    else if !c.ownsTile t f.region then s.takeShape f 0xC2 0
    else s.finish f [(t0, Val.of 4 0)] 0 fun s => s.updCell f.cell fun c => c.updTile j fun _ => t

/-- Where TSET takes a tile (R354): the state it gets, or none where the accord waits. A tile that TSET made DRAINING, with
no drain under way, is `opened`: TSET EMPTY ends it. -/
def tsetTo (opened : Bool) (goal from_ : TileState) : Option TileState :=
  match goal, from_ with
  | .empty, .empty => some .empty
  | .empty, .ready => some .empty
  | .filling, .empty => some .filling
  | .ready, .empty => some .ready
  | .ready, .ready => some .ready
  | .draining, .ready => some .draining
  | .empty, .draining => if opened then some .empty else none
  | _, _ => none

/-- TSET (R354). -/
def execTset (pd : Pd) (state : TileState) (tile : BitVec 5) (t0 : Target) (s : State) : Result :=
  s.fire pd fun f s =>
    let c := s.cell f.cell
    let j := tile.toNat
    let t := c.tile j
    let m := (c.bank t.bank.toNat).mode
    if !c.ownsTile t f.region then s.takeShape f 0xC2 0
    else if m = .cache || m = .fifo || (m = .compute && (state = .filling || state = .draining)) then s.takeShape f 0x40 0
    else if c.engineHolds j || ((state = .filling || state = .draining) && c.tileBusy j) then .next (s.putBack f)
    else match tsetTo t.opened state t.st with
      | none => .next (s.putBack f)
      | some n =>
        s.finish f [(t0, Val.of 4 0)] 0 fun s =>
          let s := s.updCell f.cell fun c => c.updTile j fun t =>
            if n = .filling then { t with st := n, opened := true, otag := f.acc.tag, rowsIn := 0 }
            else { t with st := n, opened := decide (n = .draining) }
          if t.st = .ready && n = .empty then s.sendSpaces f none (s.destsOf f.region f.x f.y j) else s

/-- The code of a tile state (R204). -/
def tileCode : TileState → Nat
  | .empty => 0
  | .filling => 1
  | .ready => 2
  | .draining => 3

/-- TSTATE: STATE and ROWSIN, at once (R355). -/
def execTstate (pd : Pd) (tile : BitVec 5) (t0 : Target) (s : State) : Result :=
  s.fire pd fun f s =>
    let t := (s.cell f.cell).tile tile.toNat
    s.finish f [(t0, Val.of 4 (tileCode t.st + t.rowsIn.toNat * 2 ^ 16))] 0 id

/-- PERMIT: a READY tile released; on a destination tile its result waits for the join unit (R356). -/
def execPermit (pd : Pd) (tile : BitVec 5) (t0 : Target) (s : State) : Result :=
  s.fire pd fun f s =>
    let c := s.cell f.cell
    let j := tile.toNat
    if !c.ownsTile (c.tile j) f.region then s.takeShape f 0xC2 0
    else if !c.tileFree j then .next (s.putBack f)
    else
      let release := fun s : State => s.updCell f.cell fun c => c.updTile j fun t => { t with st := .empty }
      match s.destsOf f.region f.x f.y j with
      | [] => s.finish f [(t0, Val.of 4 0)] 0 release
      | l => s.startLate f [t0] 4 false fun _ s => (release s).sendSpaces f (some (f, [t0])) l

/-! ## The tile engine (R357 to R359) -/

/-- An operation started in the tile engine: its completion token lands when it is done (R357). -/
def State.startEngine (s : State) (f : Firing) (op : EngineOp) : Result :=
  s.startLate f op.targets 4 false fun _ s => s.updCell f.cell fun c => { c with engine := some op }

/-- Whether VTRANS may transpose ta into td (R358). -/
def transShape (td ta : Tile) (same : Bool) : Bool :=
  td.nrows = ta.ncols && td.ncols = ta.nrows && td.fmt = ta.fmt && !td.bs && !ta.bs && (!same || ta.nrows = ta.ncols)

/-- VTRANS (R357, R358). -/
def execVtrans (pd : Pd) (td ta : BitVec 5) (ct : Completion) (s : State) : Result :=
  s.fire pd fun f s =>
    let c := s.cell f.cell
    if c.engine.isSome || !c.tileReady td.toNat || !c.tileReady ta.toNat then .next (s.putBack f)
    else if !transShape (c.tile td.toNat) (c.tile ta.toNat) (td = ta) then s.takeShape f 0xC1 0
    else s.startEngine f { kind := .trans, td := td.toNat, ta := ta.toNat, targets := ctTargets ct, firing := f }

/-- The transpose done: every element of td from ta as it stood before (R358). -/
def Cell.transpose (c : Cell) (td ta : Nat) : Cell :=
  let t := c.tile td
  let a := c.tile ta
  (List.range t.nrows).foldl (fun d r => (List.range t.ncols).foldl (fun d col => d.setElem t r col (c.elem a col r)) d) c

/-- The shapes of a pooling instruction (R359). -/
def poolShape (td ta tb : Tile) : Bool :=
  fmtBits ta.fmt.toNat ≠ 0 && ta.fmt ≠ 8 && tb.fmt = 4 && tb.nrows = ta.nrows && tb.ncols = ceilDiv ta.ncols 8 &&
  td.fmt = 0 && !td.bs && td.nrows = ta.nrows && td.ncols = 2 * ta.ncols

/-- A pooling instruction (R359). -/
def State.poolForm (s : State) (pd : Pd) (td ta tb : BitVec 5) (ct : Completion) (kind : EngineKind) : Result :=
  s.fire pd fun f s =>
    let c := s.cell f.cell
    let v := f.l 8
    if c.engine.isSome || !c.tileReady td.toNat || !c.tileReady ta.toNat || !c.tileReady tb.toNat then .next (s.putBack f)
    else if bits v 63 16 ≠ 0 || bits v 7 4 ≠ 0 || bits v 15 8 = 0 || 49 < bits v 15 8 then s.takeTrap f .trap 0x3FF4 v
    else if td = ta || td = tb || !poolShape (c.tile td.toNat) (c.tile ta.toNat) (c.tile tb.toNat) then s.takeShape f 0xC1 0
    else s.startEngine f { kind := kind, td := td.toNat, ta := ta.toNat, tb := tb.toNat, l := v, targets := ctTargets ct, firing := f }

/-- VPOOLMAX (R359). -/
def execVpoolmax (pd : Pd) (td ta tb : BitVec 5) (ct : Completion) (s : State) : Result := s.poolForm pd td ta tb ct .poolMax

/-- VPOOLAVG (R359). -/
def execVpoolavg (pd : Pd) (td ta tb : BitVec 5) (ct : Completion) (s : State) : Result := s.poolForm pd td ta tb ct .poolAvg

/-- One element of a pooling step (R359): value and count as FP32 codes, and the flags. -/
def poolElem (isMax : Bool) (l : Nat) (mask : Bool) (v : Num) (val cnt : Nat) : Nat × Nat × Flags :=
  let conv := fp32.give .rn v 0
  let val := if bit l 0 then (if isMax then 0xFF800000 else 0) else val
  let cnt := if bit l 0 then 0 else cnt
  let take := bit l 2 || mask
  let q : Rounded :=
    if !take then ⟨val, 0, 0⟩
    else if isMax then let p := fp32.pick true false val conv.code; ⟨p.1, p.2, 0⟩
    else fp32.op2 .rn 0 (addNum .rn) (fp32.decode val) (fp32.decode conv.code)
  let cnt := if take then (fp32.op2 .rn 0 (addNum .rn) (fp32.decode cnt) (.fin false 1 0)).code else cnt
  let fl := conv.flags ||| q.flags
  if !bit l 1 then (q.code, cnt, fl)
  else if (fp32.decode cnt).isZero then (0, cnt, fl)
  else if isMax then (q.code, cnt, fl)
  else
    let d := if bit l 3 then (fp32.give .rn (.fin false (bits l 15 8) 0) 0).code else cnt
    let r := fp32.op2 .rn 0 divNum (fp32.decode q.code) (fp32.decode d)
    (r.code, d, fl ||| r.flags)

/-- A pooling step done on every element (R359). -/
def Cell.pool (c : Cell) (isMax : Bool) (td ta tb l : Nat) : Cell × Flags :=
  let t := c.tile td
  let a := c.tile ta
  let m := c.tile tb
  (List.range a.nrows).foldl (fun d r => (List.range a.ncols).foldl (fun (d : Cell × Flags) col =>
    let mask := bit (c.elem m r (col / 8)) (col % 8)
    let q := poolElem isMax l mask (c.elemNum a r col) (c.elem t r col) (c.elem t r (a.ncols + col))
    ((d.1.setElem t r col q.1).setElem t r (a.ncols + col) q.2.1, d.2 ||| q.2.2)) d) (c, 0)

/-! ## Bank modes (R200 to R202, R360) -/

/-- Whether a bank can change its mapping (R202 steps 1 and 2): no tile of it FILLING or DRAINING, none held by the tile
engine, and no matrix sequence reading it. -/
def Cell.bankQuiet (c : Cell) (b : Nat) : Bool :=
  !c.tiles.any (fun (q : Nat × Tile) => c.tileInBank q.2 b && (q.2.st = .filling || q.2.st = .draining || c.engineHolds q.1)) &&
  !c.seqs.any (fun (q : MatSeq) => c.tileInBank (c.tile q.ta) b || c.tileInBank (c.tile q.tb) b)

/-- The bytes of a bank cleared. -/
def Cell.clearBank (c : Cell) (b : Nat) : Cell := { c with bytes := c.bytes.filter (fun q => q.1 / 65536 ≠ b) }

/-- A bank put into a mode, with the effect of the change on its contents (R201). -/
def Cell.setMode (c : Cell) (b : Nat) (m : BankMode) (intlv : Bool) : Cell :=
  let old := c.bank b
  let c := if old.mode = .cache && m ≠ .cache then { c.clearBank b with cache := c.cache.filter (fun (l : CacheLine) => l.bank ≠ b) } else c
  let c := if old.mode = .scratchpad && m ≠ .scratchpad then
      { c with tiles := c.tiles.map (fun q => if c.tileInBank q.2 b && q.2.st = .ready then (q.1, { q.2 with st := .empty }) else q) }
    else c
  c.updBank b (fun k => if old.mode = m then { k with intlv := intlv }
    else { k with mode := m, intlv := intlv, fifoHead := 0, fifoCount := 0 })

/-- The other bank of a pair. -/
def pairOf (b : Nat) : Nat := if b % 2 = 0 then b + 1 else b - 1

/-- The banks whose mapping a BMODE changes (R202, R360). -/
def Cell.bmodeBanks (c : Cell) (b : Nat) (intlv : Bool) : List Nat :=
  if intlv || (c.bank b).intlv then [b, pairOf b] else [b]

/-- The effect of a BMODE on its banks (R201, R360): the tiles of the old mapping leave READY before the interleave ends. -/
def Cell.applyMode (c : Cell) (b : Nat) (m : BankMode) (intlv : Bool) : Cell :=
  if intlv then (c.setMode b m true).setMode (pairOf b) m true
  else
    let paired := (c.bank b).intlv
    let c := c.setMode b m false
    if paired then c.updBank (pairOf b) (fun k => { k with intlv := false }) else c

/-- A bank passed to another region of its context: the giving region's tiles on it become EMPTY (R360). -/
def Cell.giveBank (c : Cell) (b goal : Nat) : Cell :=
  let c := { c with tiles := c.tiles.map (fun (q : Nat × Tile) => if c.tileInBank q.2 b then (q.1, { q.2 with st := .empty }) else q) }
  c.updBank b (fun k => { k with region := goal })

/-- What a BMODE of a cell does to its banks and tiles in step 3 (R201, R202, R360): the giving comes first, under the old
mapping, since it and the change of mode make the same tiles EMPTY. -/
def Cell.remap (c : Cell) (b : Nat) (m : BankMode) (intlv : Bool) (goal : Option Nat) : Cell :=
  let c := match goal with
    | some r => (if intlv then [b, pairOf b] else [b]).foldl (fun (c : Cell) k => c.giveBank k r) c
    | none => c
  c.applyMode b m intlv

/-- The tiles of a cell that were READY and are EMPTY. -/
def Cell.emptied (c d : Cell) : List Nat := (List.range 32).filter (fun j => (c.tile j).st = .ready && (d.tile j).st = .empty)

/-- BMODE's step 3 in its cell, with the space tokens of the destination tiles that it makes EMPTY (R202, R226, R360). -/
def State.changeMap (s : State) (f : Firing) (b : Nat) (m : BankMode) (intlv : Bool) (goal : Option Nat) : State :=
  let c := s.cell f.cell
  let d := c.remap b m intlv goal
  let mine := fun (o : ModeOp) => o.stamp = f.acc.stamp && o.win = f.acc.win && o.slot = f.acc.slot
  let s := s.updCell f.cell (fun _ => { d with modeOps := d.modeOps.filter (fun o => !mine o) })
  (c.emptied d).foldl (fun s j => s.sendSpaces f none (s.destsOf f.region f.x f.y j)) s

/-- BMODE of a firing begun (R202 step 1): its accord waits, and with it every access that reaches its banks. -/
def State.beginMode (s : State) (f : Firing) (banks : List Nat) : State :=
  s.updCell f.cell (fun c => { c with
    waiting := f.acc :: c.waiting
    modeOps := c.modeOps.filter (fun m => c.waiting.any (fun a => a.stamp = m.stamp && a.win = m.win && a.slot = m.slot)) ++
      [{ stamp := f.acc.stamp, win := f.acc.win, slot := f.acc.slot, banks := banks }] })

/-- BMODE: the three steps of R202. It begins at once, behind the BMODEs of its banks that began before it, and step 3 follows in
the same firing where its banks are quiet (R360). -/
def execBmode (pd : Pd) (bank : BitVec 2) (mode : BankMode) (intlv : Bool) (t0 : Target) (s : State) : Result :=
  s.fire pd fun f s =>
    let c := s.cell f.cell
    let b := bank.toNat
    let v := f.l 4
    let owns := fun k => (c.bank k).claimed && (c.bank k).region = f.region
    let goal := s.regionAt f.die (bits v 13 7) (bits v 6 1)
    let toOk := match goal with
      | none => false
      | some r => r.ctx = tagCtx f.acc.tag && r.contains f.x f.y
    let fifoArc := c.windows.any (fun q => q.2.ins.any (fun a => a.2.fifo = some b))
    let banks := c.bmodeBanks b intlv
    let begun := c.modeOps.any (fun m => m.stamp = f.acc.stamp && m.win = f.acc.win && m.slot = f.acc.slot)
    if !owns b || (intlv && !owns (pairOf b)) || (intlv && mode ≠ .scratchpad) || bits v 31 14 ≠ 0 ||
        (bit v 0 && !toOk) || (fifoArc && mode ≠ .fifo) then s.takeTrap f .trap 0x3FF3 v
    else if banks.any c.bankBusy then .next (s.putBack f)
    else if !banks.all c.bankQuiet then .next (if begun then s.putBack f else s.beginMode f banks)
    else s.finish f [(t0, Val.of 4 v)] 0 fun s => s.changeMap f b mode intlv (if bit v 0 then goal.map Region.id else none)

end Sys2Proof.Machine
end

