-- ==== Sys2Proof/Machine/Access.lean ====
section
/-!
DEFINITION. Memory accesses (R203, R211 to R223, R237 to R255, R375 to R386): shapes and positions, the wave order of an
ordered stream, translation at a port core, copies of a line in the dies' caches, fences, and the effects of the element
instructions at memory.
-/

namespace Sys2Proof.Machine

/-! ## Shapes (R215, R216) -/

/-- The element width of a shape in bits. -/
def Shape.width (h : Shape) : Nat := fmtBits h.fmt.toNat

/-- Whether a shape has no index vector: an EXT of 0 (R216). -/
def Shape.isEmpty (h : Shape) : Bool := (h.dims.take h.ndim).any (fun d => d.ext = 0)

/-- The indices that a dimension runs over (R216). -/
def Dim.span (d : Dim) : Nat := d.padb.toNat + d.ext.toNat + d.pada.toNat

/-- NPOS: the index vectors of a shape (R216, R376). -/
def Shape.npos (h : Shape) : Nat :=
  if h.isEmpty then 0 else (h.dims.take h.ndim).foldl (fun n d => n * d.span) 1

/-- The index vector of position k over some dimensions, the first of them fastest (R216). -/
def indexOf : List Dim → Nat → List Int
  | [], _ => []
  | d :: t, k => (((k % d.span : Nat) : Int) - (d.padb.toNat : Int)) :: indexOf t (k / d.span)

/-- The index vector of position k. -/
def Shape.index (h : Shape) (k : Nat) : List Int := indexOf (h.dims.take h.ndim) k

/-- Whether an index vector is in-image (R216). -/
def Shape.inImage (h : Shape) (i : List Int) : Bool :=
  (i.zip (h.dims.take h.ndim)).all (fun q => decide (0 ≤ q.1) && decide (q.1 < q.2.ext.toNat))

/-- An index vector clamped into the image (R216, PADMODE replicate). -/
def Shape.clamp (h : Shape) (i : List Int) : List Int :=
  (i.zip (h.dims.take h.ndim)).map (fun q => max 0 (min q.1 ((q.2.ext.toNat : Int) - 1)))

/-- The bit offset of an index vector from BASE (R216). -/
def Shape.bitOff (h : Shape) (i : List Int) : Int :=
  (h.width : Int) * (i.zip (h.dims.take h.ndim)).foldl (fun s q => s + q.1 * q.2.stride.toInt) 0

/-- Addr of an index vector (R216). -/
def Shape.addr (h : Shape) (i : List Int) : Nat := ((h.base.toNat : Int) + h.bitOff i / 8).toNat

/-- Whether an index vector names the odd half of a byte (R216). -/
def Shape.oddHalf (h : Shape) (i : List Int) : Bool := h.width = 4 && h.bitOff i % 8 = 4

/-- The binding p of a region. -/
def Region.binding? (r : Region) (p : Nat) : Option Binding := r.image.bindings.find? (fun b => b.p = p)

/-- The shape that a binding's accesses go by: the round's, or the image's (R203, R219, R376). -/
def State.shapeOf (s : State) (r : Region) (b : Binding) : Shape :=
  let g := s.agn r b
  if g.region = r.id && g.port = b.p then g.shape else b.shape

/-! ## Ranks and positions of an ordered stream (R280, R377) -/

/-- seq and binding of an instruction of Format M, and whether it takes no rank: MNOP (R378). -/
def Instr.memField : Instr → Option (Nat × Nat × Bool)
  | .ld _ q _ _ p _ | .st _ q _ _ p _ | .ldt _ q _ _ p _ | .stt _ q _ _ p _ | .pft _ q _ _ p _
  | .scas64 _ q _ _ p _ | .scas128 _ q _ _ p _ | .sadd _ q _ _ p _ | .sswap _ q _ _ p _
  | .amoadd _ q _ _ p _ | .amomin _ q _ _ p _ | .amomax _ q _ _ p _ => some (q.toNat, p.toNat, false)
  | .ldh _ q _ _ p _ => some (q.toNat, p.toNat, false)
  | .mnop _ q _ _ p _ => some (q.toNat, p.toNat, true)
  | _ => none

/-- The seq values of the ranked instructions of a binding in a block (R377). -/
def rankSeqs (ws : List Word) (p : Nat) : List Nat :=
  (blockSlots ws).filterMap (fun w =>
    match w with
    | some (.instr i) =>
      match Instr.memField i with
      | some (q, b, false) => if b = p then some q else none
      | _ => none
    | _ => none)

/-- n_p of a firing's block (R377). -/
def State.rankCount (s : State) (f : Firing) (p : Nat) : Nat := (rankSeqs ((s.cell f.cell).window f.acc.win).words p).length

/-- The rank of the instruction with a seq (R377). -/
def State.rankOf (s : State) (f : Firing) (p seq : Nat) : Nat :=
  ((rankSeqs ((s.cell f.cell).window f.acc.win).words p).filter (· < seq)).length

/-- The number of the lap that a tag belongs to, as its cell counts (R377). -/
def FrameRec.lapCount (f : FrameRec) (x y : Nat) (t : Tag) : Nat :=
  let laps := match f.wrap with
    | some w => if w.cells.contains (x, y) then f.wraps else f.wraps + 1
    | none => f.wraps
  if tagGen t = (f.lapAt x y).2 then laps else laps - 1

/-- WSEQ of rank r (R377). -/
def State.wseq (s : State) (f : Firing) (p r : Nat) : Nat :=
  let lap := match (s.region f.region).frame? f.frm with
    | some q => q.lapCount f.x f.y f.acc.tag
    | none => 0
  ((4096 * lap + tagItr f.acc.tag) * s.rankCount f p + r) % 2 ^ 32

/-! ## Kinds of access -/

/-- Whether an access is a load for R243 and R244. -/
def AccessOp.isLoad : AccessOp → Bool
  | .ld | .ldh _ | .ldt _ => true
  | _ => false

/-- Whether an access is an atomic. -/
def AccessOp.isAtomic : AccessOp → Bool
  | .scas64 .. | .scas128 .. | .sadd _ | .sswap _ | .amoadd _ | .amomin _ | .amomax _ => true
  | _ => false

/-- Whether an access is a system atomic (R253). -/
def AccessOp.isSystem : AccessOp → Bool
  | .scas64 .. | .scas128 .. | .sadd _ | .sswap _ => true
  | _ => false

/-- Whether an access is a store. -/
def AccessOp.isStore : AccessOp → Bool
  | .st _ | .stt .. => true
  | _ => false

/-- Whether an access writes memory. -/
def AccessOp.writes (o : AccessOp) : Bool := o.isStore || o.isAtomic

/-- The access code of a fault record (R157, R381). -/
def AccessOp.code : AccessOp → Nat
  | .st _ | .stt .. => 1
  | .amoadd _ | .amomin _ | .amomax _ => 2
  | .pft => 3
  | .scas64 .. | .scas128 .. | .sadd _ | .sswap _ => 4
  | _ => 0

/-- The bytes that an access of an element of `w` bits moves. -/
def AccessOp.bytes (o : AccessOp) (w : Nat) : Nat :=
  match o with
  | .scas64 .. | .sadd _ | .sswap _ => 8
  | .scas128 .. => 16
  | _ => max 1 (w / 8)

/-- The length of an access's result (R375). -/
def AccessOp.resultLen : AccessOp → Nat
  | .scas64 .. | .sadd _ | .sswap _ | .amoadd _ | .amomin _ | .amomax _ => 8
  | .scas128 .. => 16
  | _ => 4

/-! ## What an operation does to its element (R252, R253, R379, R384 to R386) -/

/-- Floating-point flags in a returned token (R383). -/
def tokenFlags (fl : Flags) : Nat :=
  bitOf (fl &&& flagIV ≠ 0) * 2 ^ 32 + bitOf (fl &&& flagOF ≠ 0) * 2 ^ 33 + bitOf (fl &&& flagUF ≠ 0) * 2 ^ 34 +
  bitOf (fl &&& flagNX ≠ 0) * 2 ^ 35

/-- FP32 addition of an atomic: the sum and its flags (R384, R385). -/
def amoFadd (m v : Nat) : Nat × Flags := (fp32.op2 .rn 0 (addNum .rn) (fp32.decode m) (fp32.decode v)).pair

/-- The lesser or greater of two integers of `w` bits, as codes. -/
def amoPick (greater sgn : Bool) (w m v : Nat) : Nat :=
  let i := fun x => if sgn then signed w x else ((x % 2 ^ w : Nat) : Int)
  if (if greater then decide (i v ≤ i m) else decide (i m ≤ i v)) then m % 2 ^ w else v % 2 ^ w

/-- The word m as the token of an AMO carries it (R385). -/
def amoOld (fmt m : Nat) : Nat :=
  match Fmt.ofCode fmt with
  | .int w true => signExtend w 32 m
  | _ => m

/-- AMOADD, AMOMIN and AMOMAX on an element (R385): the new element and the token. -/
def amoApply (op : AccessOp) (fmt m : Nat) : Nat × Nat :=
  let w := fmtBits fmt
  let sgn := match Fmt.ofCode fmt with
    | .int _ sg => sg
    | _ => true
  let float := fmt = 0
  match op with
  | .amoadd v => if float then let q := amoFadd m v; (q.1, m + tokenFlags q.2) else ((m + v) % 2 ^ w, amoOld fmt m)
  | .amomin v => if float then let q := fp32.pick false false m (v % 2 ^ 32); (q.1, m + tokenFlags q.2)
                 else (amoPick false sgn w m v, amoOld fmt m)
  | .amomax v => if float then let q := fp32.pick true false m (v % 2 ^ 32); (q.1, m + tokenFlags q.2)
                 else (amoPick true sgn w m v, amoOld fmt m)
  | _ => (m, 0)

/-- What an access does to the element or location that holds `m` (R253, R379, R385, R386): the new contents, if it
writes, and the value of its token. -/
def AccessOp.apply (op : AccessOp) (fmt m : Nat) : Option Nat × Nat :=
  match op with
  | .st v => (some (v % 2 ^ fmtBits fmt), 0)
  | .scas64 cmp new => (if m = cmp then some new else none, m)
  | .scas128 cmp new => (if m = cmp then some new else none, m)
  | .sadd v => (some ((m + v) % 2 ^ 64), m)
  | .sswap v => (some v, m)
  | .amoadd _ | .amomin _ | .amomax _ => let q := amoApply op fmt m; (some q.1, q.2)
  | .pft => (none, 0)
  | _ => (none, m)

/-! ## Lines and their copies (R83, R212, R236 to R238, R241) -/

/-- The key of the line of an address: a device line's number, or a host line's above 2^60. -/
def TlbEntry.lineOf (e : TlbEntry) (a : Nat) : Nat := if e.host then 2 ^ 60 + a / 64 else a / 64

/-- The owner that tags the lines of a page (R83): none for a shared line, which hits for any context. -/
def State.tagOf (s : State) (e : TlbEntry) : Owner := if e.host then none else s.pageOwner e

/-- The home die of a line (R237, R238). -/
def State.homeDie (s : State) (e : TlbEntry) (a : Nat) : Nat := s.homeDieOf e.host a

/-- The holder key of a line's home slice. -/
def State.homeHolder (s : State) (host : Bool) (a : Nat) : Nat := 640 + 16 * s.homeDieOf host a + s.homeSliceOf host a

/-- Bytes of a line as its home gives them (R237). -/
def State.homeBytes (s : State) (e : TlbEntry) (a n : Nat) : List Byte :=
  if e.host then s.hostRead a n else s.devRead (s.pageOwner e) a n

/-- The 64 bytes of the line of an address as its home gives them. -/
def State.homeLine (s : State) (e : TlbEntry) (a : Nat) : List Byte := s.homeBytes e (a / 64 * 64) 64

/-- Whether a cached line serves an access to a page (R83). -/
def CLine.serves (c : CLine) (line : Nat) (o : Owner) : Bool := c.line = line && c.owner = o

/-- A die's copy of a line, older than the line's home while an invalidation is on its way to it (R237). -/
def State.dieCopy (s : State) (e : TlbEntry) (die a : Nat) : Option CLine :=
  s.caches.find? (fun c => c.serves (e.lineOf a) (s.tagOf e) && holderDie c.holder = die)

/-- Whether a die holds a copy of a line. -/
def State.hasCopy (s : State) (e : TlbEntry) (die a : Nat) : Bool := (s.dieCopy e die a).isSome

/-- Bytes within a line as a die reads them: from its own copy, else from the line's home (R237, R241). -/
def State.seenBytes (s : State) (e : TlbEntry) (die a n : Nat) : List Byte :=
  match s.dieCopy e die a with
  | some c => (c.data.drop (a % 64)).take n
  | none => s.homeBytes e a n

/-- Whether two lines stand for the same places of a holder: a set of a data cache (R212), or the whole of a slice (log 48). -/
def CLine.rival (c d : CLine) : Bool :=
  c.holder = d.holder && (decide (640 ≤ c.holder) || c.line % 1024 = d.line % 1024)

/-- The lines that a line's places hold: 8 ways of a set, or the 4 MiB of a slice (R7, R211). -/
def CLine.ways (c : CLine) : Nat := if c.holder < 640 then 8 else 65536

/-- A line put into its holder as the most recently used, and the line that it replaces, the least recently used of its
places (R212). -/
def State.cacheLine (s : State) (c : CLine) : State × Option CLine :=
  let rest := s.caches.filter (fun d => !(d.holder = c.holder && d.serves c.line c.owner))
  let rivals := rest.filter c.rival
  if rivals.length < c.ways then ({ s with caches := c :: rest }, none)
  else ({ s with caches := c :: rest.filter (fun d => some d ≠ rivals.getLast?) }, rivals.getLast?)

/-- The endpoint of a holder of lines (R25, R155). -/
def holderEp (h : Nat) : Nat := if h < 640 then h % 80 else 0x50 + (h - 640) % 16

/-- DATA_LOST of a dirty line (R166): its owner's record. A shared line has no owner to tell. -/
def State.dataLost (s : State) (c : CLine) : State :=
  match c.owner with
  | none => s
  | some o => s.putFault { cls := .dataLost, ctx := o.1, loc := whereN (holderDie c.holder) (holderEp c.holder),
                           cycle := (s.die (holderDie c.holder)).netCycles,
                           bodyA := (if c.holder < 640 then 0 else 1) + 64 * c.line * 2 ^ 32 }

/-- A line put into its home slice; the dirty line that it replaces there goes to memory (R236). -/
def State.toSlice (s : State) (c : CLine) : State :=
  let q := s.cacheLine { c with holder := s.homeHolder false (64 * c.line) }
  match q.2 with
  | none => q.1
  | some v => if v.dirty then q.1.writeBack v else q.1

/-- A line put into a port core's data cache; the dirty line that it replaces goes to its home slice (R212), or is lost with
its home die (R237). -/
def State.toPort (s : State) (c : CLine) : State :=
  let q := s.cacheLine c
  match q.2 with
  | none => q.1
  | some v => if !v.dirty then q.1 else if s.reached (64 * v.line) then q.1.toSlice v else q.1.dataLost v

/-- A line that a port core reads: its own, made the most recently used, or a copy of it (R212). -/
def State.readCopy (s : State) (e : TlbEntry) (core a : Nat) : State :=
  let line := e.lineOf a
  match s.caches.find? (fun c => c.holder = core && c.serves line (s.tagOf e)) with
  | some c => (s.cacheLine c).1
  | none =>
    let old := match s.dieCopy e (core / 80) a with
      | some c => c.stale
      | none => false
    s.toPort { line := line, holder := core, owner := s.tagOf e, stale := old, data := s.seenBytes e (core / 80) (a / 64 * 64) 64 }

/-- The dies, other than `die`, whose port cores hold a copy of a line. -/
def State.otherDies (s : State) (line : Nat) (die : Nat) : List Nat :=
  distinct ((s.caches.filter (fun c => c.line = line && decide (c.holder < 640) && decide (holderDie c.holder ≠ die))).map
    (fun c => holderDie c.holder))

/-- The copies of a line ended for an access of a die (R237): those of the die itself and of the home slice at once, the others
older copies until their acknowledgements, which the home slice collects. What another owner's dirty copy holds goes to
memory (log 48). -/
def State.invalidateOthers (s : State) (e : TlbEntry) (die a access : Nat) : State :=
  let line := e.lineOf a
  let others := s.otherDies line die
  let foreign := s.caches.filter (fun c => c.line = line && c.dirty && decide (c.owner ≠ s.tagOf e))
  let s := foreign.foldl State.writeBack s
  { s with
    acks := s.acks ++ others.map (fun d => { line := line, die := d, access := access })
    caches := s.caches.filterMap (fun c =>
      if c.line ≠ line then some c
      else if 640 ≤ c.holder || holderDie c.holder = die then none
      else some { c with dirty := false, stale := true }) }

/-- A port core's line owned for a store (R212, R237): fetched before it merges, and dirty if it is a device line. -/
def State.takeLine (s : State) (e : TlbEntry) (core a access : Nat) : State :=
  let data := s.homeLine e a
  (s.invalidateOthers e (core / 80) a access).toPort
    { line := e.lineOf a, holder := core, owner := s.tagOf e, dirty := !e.host, data := data }

/-- Bytes within a line's data replaced. -/
def CLine.patch (c : CLine) (a : Nat) (bs : List Byte) : CLine :=
  { c with data := c.data.take (a % 64) ++ bs ++ c.data.drop (a % 64 + bs.length) }

/-- Bytes stored in a line under its page's owner: in the caches that hold it up to date, else through its home (R237); a host
line goes on to host memory (R238). -/
def State.storeBytes (s : State) (e : TlbEntry) (a : Nat) (bs : List Byte) : State :=
  let line := e.lineOf a
  let o := s.tagOf e
  let held := s.caches.any (fun c => c.serves line o && !c.stale)
  let s := if e.host then { s with hostMem := writeBytes a bs s.hostMem } else if held then s else s.devPut o a bs
  { s with caches := s.caches.map (fun c => if c.serves line o && !c.stale then c.patch a bs else c) }

/-- Whether an address of a host page is reached without coherence (R81, R238). -/
def State.nonCoherent (s : State) (e : TlbEntry) : Bool := e.host && !(e.coh && s.flash.cxl)

/-- Whether the home of an address can be reached (R237, R238). -/
def State.homeUp (s : State) (e : TlbEntry) (a : Nat) : Bool := s.nonCoherent e || s.dieUp (s.homeDie e a)

/-- A line taken by its home slice for a system atomic (R253): every copy on every die ends, and what a dirty one holds goes to
memory. -/
def State.takeHome (s : State) (e : TlbEntry) (die a access : Nat) : State :=
  let s := match s.freshCopy (s.tagOf e) (e.lineOf a) with
    | none => s
    | some c => if c.dirty then s.writeBack c else s
  s.invalidateOthers e die a access

/-- Bytes within one line stored by a port core for a transfer (R212, R224, R237): a store of a whole line fetches nothing,
and no other copy remains. -/
def State.portStore (s : State) (e : TlbEntry) (core a : Nat) (bs : List Byte) : State :=
  if e.host then s.hostWrite a bs
  else if !(s.populated a && s.reached a) then s
  else
    let c : CLine := { line := e.lineOf a, holder := core, owner := s.tagOf e, dirty := true,
                       data := if bs.length = 64 then bs else s.homeLine e a }
    let s := s.invalidateOthers e (core / 80) a 0
    let s := { s with caches := s.caches.filter (fun d => d.line ≠ c.line), acks := s.acks.filter (fun k => k.access ≠ 0) }
    s.toPort (c.patch a bs)

/-! ## Translation at a port core (R79) -/

/-- Whether a cached translation serves an access of a context: a write that finds D = 0 misses (R79). -/
def TlbEntry.serves (e : TlbEntry) (ctx va : Nat) (write : Bool) : Bool :=
  e.ctx = ctx && decide (e.va ≤ va) && decide (va < e.va + e.size) && (!write || e.d)

/-- How a translation stands. -/
inductive Lookup where
  | hit (e : TlbEntry)
  | denied (level : Nat)
  | miss
  deriving DecidableEq, Repr

/-- The TLB of a port core and its die's translation cache asked for a VA (R79). -/
def State.lookup (s : State) (core ctx va : Nat) (write : Bool) : Lookup :=
  let all := (s.portCore core).tlb ++ (s.die (core / 80)).tcache
  match all.find? (fun e => e.serves ctx va write) with
  | none => .miss
  | some e => if write && !e.w then .denied (sizeLevel e.size) else .hit e

/-- A translation put into a port core's TLB and its die's translation cache (R79). -/
def State.fillTlb (s : State) (core : Nat) (e : TlbEntry) : State :=
  let keep := fun (l : List TlbEntry) => l.filter (fun q => !(q.ctx = e.ctx && q.va = e.va && q.size = e.size))
  let s := s.updPort core (fun c => { c with tlb := (e :: keep c.tlb).take 1024 })
  s.updDie (core / 80) (fun d => { d with tcache := (e :: keep d.tcache).take 32768 })

/-- A walk request taken by the hub (R79): it joins the walk of its page, or takes a walker or an entry of the queue, 64 and 1,024 of
them, or waits at its translation cache. -/
def Hub.takeWalk (h : Hub) (w : Walk) : Hub :=
  if h.walks.any (fun q => q.ctx = w.ctx && q.vpn = w.vpn) then h
  else if h.walks.length < 1088 then { h with walks := h.walks ++ [w] }
  else { h with walkWait := h.walkWait ++ [w] }

/-- The walk requests that waited at the translation caches taken, as far as the hub has room (R79). -/
def Hub.takeWaiting (h : Hub) : Hub := h.walkWait.foldl Hub.takeWalk { h with walkWait := [] }

/-- A walk asked of the hub (R79). -/
def State.askWalk (s : State) (core ctx va : Nat) (write : Bool) (note : Note) : State :=
  { s with hub := s.hub.takeWalk { ctx := ctx, vpn := va / 65536, write := write, die := core / 80, core := core, note := note } }

/-- A translation made at once for a transfer: a cached one, or a walk whose result is cached (R78, R79). -/
def State.translateNow (s : State) (core ctx va : Nat) (write : Bool) : Except (FaultClass × Nat) (TlbEntry × State) :=
  match s.lookup core ctx va write with
  | .hit e => .ok (e, s)
  | .denied l => .error (.pageWp, l)
  | .miss =>
    match s.walk ctx va write with
    | .error q => .error q
    | .ok w =>
      if !s.hostGrants w.entry then .error (.hostPage, sizeLevel w.entry.size)
      else .ok (w.entry, (s.setAccessed w.path write).fillTlb core w.entry)

/-! ## Tokens from a port core -/

/-- A token sent from a binding's port core to a slot target of a window (R127, R218, R225): over the mesh, which it enters once the
cell has an input-queue entry for it. -/
def State.sendInto (s : State) (r : Region) (b : Binding) (x y rwin : Nat) (t : Target) (tag : Tag) (v : Val) (note : Note) : State :=
  match t with
  | .slot port adv slot =>
    let (id, s) := s.newId
    let tok : Tok := { id := id, region := r.id, sx := 80 + b.core, x := x, y := y, dest := .slot rwin slot.toNat port,
                       tag := if adv then nextTag tag else tag, val := v, kind := .response, note := note }
    { s with toks := s.toks ++ [tok] }
  | _ => s

/-- The end token of a binding's round (R218). -/
def State.sendEnd (s : State) (r : Region) (b : Binding) (tag : Tag) (empty : Bool) (tiles : Nat) : State :=
  s.sendInto r b (r.x0 + b.ix) (r.y0 + b.iy) b.iwin b.endt tag (Val.of 8 (bitOf empty + tiles % 2 ^ 32 * 2 ^ 32)) (s.shapeOf r b).note

/-! ## The wave table (R221) -/

/-- The binding of an access. -/
def State.bindingOf (s : State) (a : Access) : Binding := ((s.region a.firing.region).binding? a.port).getD {}

/-- Whether a wave-table entry is that of an access. -/
def Access.isWave (a : Access) (w : Wave) : Bool := w.region = a.firing.region && w.frm = a.firing.frm && w.port = a.port

/-- The wave-table entry of an access. -/
def State.wave (s : State) (a : Access) : Wave :=
  ((s.portCore a.core).waves.find? (fun w => a.isWave w)).getD { region := a.firing.region, frm := a.firing.frm, port := a.port }

/-- The wave-table entry of an access changed. -/
def State.updWave (s : State) (a : Access) (f : Wave → Wave) : State :=
  s.updPort a.core (fun c => { c with waves := changeFirst (fun w => a.isWave w) f c.waves })

/-- Whether another access is of the same ordered stream. -/
def Access.sameStream (a b : Access) : Bool :=
  a.firing.region = b.firing.region && a.firing.frm = b.firing.frm && a.port = b.port && a.wseq.isSome && b.wseq.isSome

/-- An access changed. -/
def State.updAccess (s : State) (id : Nat) (f : Access → Access) : State :=
  { s with accesses := changeFirst (fun a => a.id = id) f s.accesses }

/-- An access removed. -/
def State.dropAccess (s : State) (id : Nat) : State := { s with accesses := dropFirst (fun a => a.id = id) s.accesses }

/-- Whether a phase is that of an access that its port core has accepted. -/
def Phase.atPort : Phase → Bool
  | .held | .walk | .home | .host | .moving | .stopped => true
  | _ => false

/-- Whether an access at its port core holds a wave position (R378): its own, or one that an MNOP has still to pass. -/
def Access.holds (a : Access) (w : Nat) : Bool :=
  match a.wseq with
  | none => false
  | some q =>
    a.phase.atPort && (match a.op with
      | .mnop last => decide ((w + 2 ^ 32 - q) % 2 ^ 32 ≤ last - a.pos)
      | _ => q = w)

/-- The firing that a withdrawn access leaves: an MNOP's names, in L [5:0], the first rank that it has not yet passed (R378). -/
def Access.rest (a : Access) : Firing :=
  match a.op with
  | .mnop _ => a.firing.withL (Val.of 8 (a.firing.l 8 / 64 * 64 + a.pos % 64))
  | _ => a.firing

/-- Whether an access is at or behind the sequence point of its stopped stream (R164). -/
def State.pastStop (s : State) (a : Access) : Bool :=
  match (s.wave a).stop, a.wseq with
  | some p, some w => decide ((w + 2 ^ 32 - p) % 2 ^ 32 < 2 ^ 31)
  | _, _ => false

/-- Whether an access on its way is at its turn, and waits for the RESUME of its stopped stream (R164, R378). -/
def State.stopsHere (s : State) (a : Access) : Bool :=
  a.phase = .travel && s.pastStop a && a.wseq = some (s.wave a).nextw.toNat && (s.wave a).stop ≠ a.wseq

/-- NEXTW advanced past an access's position, with the window notice to what the port core refused (R221). -/
def State.advance (s : State) (a : Access) : State :=
  match a.wseq with
  | none => s
  | some _ =>
    let s := s.updWave a (fun w => { w with nextw := w.nextw + 1 })
    { s with accesses := s.accesses.map (fun b =>
        if a.sameStream b && b.phase = .retry false then { b with phase := .retry true } else b) }

/-! ## Responses and faults (R157, R164, R376, R379) -/

/-- A position of a round in element mode accessed: once counted, however often it is accessed (R218). -/
def Round.mark (q : Round) (pos : Nat) : Round :=
  if pos < q.delivered || q.gone.contains pos then q else
    let gone := pos :: q.gone
    let low := (List.range gone.length).foldl (fun n _ => if gone.contains n then n + 1 else n) q.delivered
    { q with delivered := low, gone := gone.filter (low ≤ ·) }

/-- Whether an access reaches a position of its binding's round: one of the round's frame that names a position. -/
def Round.counts (q : Round) (a : Access) : Bool :=
  a.firing.frm = tagFrm q.tag && decide (a.pos < q.total) && (match a.op with
    | .skip | .mnop _ => false
    | _ => true)

/-- An element position of a round accessed: the end token after the last (R218). -/
def State.countRound (s : State) (a : Access) : State :=
  let r := s.region a.firing.region
  let b := s.bindingOf a
  let g := s.agn r b
  match g.round with
  | none => s
  | some q =>
    if b.mode ≠ .element || g.region ≠ r.id || !q.counts a then s
    else
      let q := q.mark a.pos
      if q.total ≤ q.delivered then (s.updAgn r b (fun g => { g with round := none })).sendEnd r b q.tag false q.tiles
      else s.updAgn r b (fun g => { g with round := some q })

/-- An access that has performed at its die: its position passed, and its response on the way to the cell (R379). -/
def State.respond (s : State) (a : Access) (v : Nat) (line : Option CacheLine) : State :=
  let s := ((s.dropAccess a.id).advance a).countRound a
  let (id, s) := s.newId
  let h := match a.op with
    | .ldh h => some h
    | _ => none
  { s with responses := s.responses ++
    [{ id := id, firing := a.firing, targets := [a.target], vals := [Val.of a.op.resultLen v], pool := a.pool, hold := h, line := line }] }

/-- An access stopped at its sequence point (R164). -/
def State.stopAt (s : State) (a : Access) (va : Nat) : State :=
  (s.updAccess a.id (fun b => { b with phase := .stopped, va := va })).updWave a (fun w => { w with stop := a.wseq })

/-- A port-core fault of an access (R157, R164, R381): level 0xFF where no walk was made. -/
def State.memFault (s : State) (a : Access) (cls : FaultClass) (va level : Nat) : State :=
  let b := s.bindingOf a
  let bodyA := a.core / 80 * 4096 + a.core % 80 + (b.agn * 32 + a.port) * 2 ^ 16 + a.op.code * 2 ^ 24 + va % 2 ^ 64 * 2 ^ 32 +
    (a.wseq.getD 0) * 2 ^ 96 + level * 2 ^ 128
  (s.stopAt a va).reportPort a.firing false cls bodyA

/-- The CFG_SHAPE fault of an access (R376, R380): kind 0xD, dimension 0, the binding's record. -/
def State.shapeFault (s : State) (a : Access) : State :=
  let r := s.region a.firing.region
  (s.stopAt a a.va).reportPort a.firing false .cfgShape (0x300D0 + r.imageVa * 2 ^ 32 + (s.bindingOf a).offset * 2 ^ 96)

/-- An access that never performs: its frame traps with code 0x3FF7 at the access's sequence point (R164, R221, R378). -/
def State.duplicate (s : State) (a : Access) : State :=
  let s := (s.dropAccess a.id).dropLate a.firing [a.target] a.op.resultLen a.pool
  let s := s.updWave a (fun w => if w.stop.isSome then w else { w with stop := a.wseq })
  s.reportPort a.rest true .trap (0x3FF7 + a.firing.l 8 % 2 ^ 64 * 2 ^ 32)

/-! ## An access performs (R221, R237, R241, R376, R379) -/

/-- The element in the bytes of an access. -/
def Access.elementOf (a : Access) (bs : List Byte) : Nat :=
  let v := ofBytes bs
  if fmtBits a.fmt = 4 && !a.op.isSystem then (if a.half then v / 16 % 16 else v % 16) else v

/-- The bytes of an access with a new element in them. -/
def Access.bytesWith (a : Access) (bs : List Byte) (v : Nat) : List Byte :=
  if fmtBits a.fmt = 4 && !a.op.isSystem then
    let o := ofBytes bs
    toBytes 1 (if a.half then o % 16 + v % 16 * 16 else o / 16 * 16 + v % 16)
  else toBytes bs.length v

/-- The bytes that an access moves. -/
def Access.size (a : Access) : Nat := a.op.bytes (fmtBits a.fmt)

/-- The elements that a round has read ahead, where a store of its stream has performed on them (R222). -/
def State.patchAhead (s : State) (a : Access) (v : Nat) : State :=
  let r := s.region a.firing.region
  let b := s.bindingOf a
  match (s.agn r b).round with
  | none => s
  | some q =>
    if q.readAhead.isEmpty || a.firing.frm ≠ tagFrm q.tag then s else
    let h := s.shapeOf r b
    s.updAgn r b (fun g => { g with round := some { q with readAhead := q.readAhead.map (fun (e : Nat × Nat) =>
      if h.addr (h.index e.1) = a.va && h.oddHalf (h.index e.1) = a.half then (e.1, v % 2 ^ h.width) else e) } })

/-- The effect of an access on its element, with the bytes as the access reads them: the state, and the value of its
token. -/
def State.effect (s : State) (a : Access) (bs : List Byte) : State × Nat :=
  let q := a.op.apply a.fmt (a.elementOf bs)
  match q.1 with
  | none => (s, q.2)
  | some v => ((s.storeBytes a.entry (a.entry.target a.va) (a.bytesWith bs v)).patchAhead a v, q.2)

/-- Banks of a cell in cache mode. -/
def Cell.cacheBanks (c : Cell) : Nat := (c.banks.filter (fun q => q.2.mode = .cache && q.2.claimed)).length

/-- Whether an access is one that the cell cache serves (R203). -/
def State.isCached (s : State) (a : Access) : Bool :=
  a.wseq.isNone && (s.bindingOf a).mode = .element && 0 < (s.cell a.firing.cell).cacheBanks && (match a.op with
    | .ld | .ldh _ => true
    | _ => false)

/-- The line that a cached load returns with its element (R203). -/
def State.lineFor (s : State) (a : Access) (die : Nat) : Option CacheLine :=
  if s.isCached a && !a.noFill then
    let base := a.va / 64 * 64
    some { va := base, ctx := if a.entry.plain then none else some (tagCtx a.firing.acc.tag),
           data := s.seenBytes a.entry die (a.entry.target base) 64 }
  else none

/-- A load performed at a die (R241): its port core keeps a copy of the line (R212). -/
def State.performLoad (s : State) (a : Access) (die : Nat) : State :=
  let bs := s.seenBytes a.entry die (a.entry.target a.va) a.size
  let q := (s.readCopy a.entry a.core (a.entry.target a.va)).effect a bs
  q.1.respond a q.2 (s.lineFor a die)

/-- An access whose translation is known goes to its line (R237, R238, R253, R254); `ue` where the data that the die
holds proves uncorrectable (R166). -/
def State.toLine (s : State) (a : Access) (ue : Bool) : State :=
  let die := a.core / 80
  let addr := a.entry.target a.va
  if s.nonCoherent a.entry then
    match a.op with
    | .st _ =>
      let q := s.effect a (s.hostRead addr a.size)
      (q.1.updRegion a.firing.region (fun r => { r with posted := true })).respond a 0 none
    | .pft => s.respond a 0 none
    | op =>
      if op.isSystem && !s.hub.atomicOps then s.memFault a .sysAtomicUnsup a.va 0xFF
      else s.updAccess a.id (fun _ => { a with phase := .host })
  else if !s.dieUp (s.homeDie a.entry addr) || ue then s.memFault a .memUe a.va 0xFF
  else if !a.op.writes && s.hasCopy a.entry die addr then s.performLoad a die
  else s.updAccess a.id (fun _ => { a with phase := .home })

/-- An access with its address translated (R79, R254). -/
def State.translated (s : State) (a : Access) (ue : Bool) : State :=
  let r := s.region a.firing.region
  if a.op.isSystem && a.va % a.size ≠ 0 then s.memFault a .agnAlign a.va 0xFF
  else
    match s.lookup a.core r.ctx a.va a.op.writes with
    | .denied l => s.memFault a .pageWp a.va l
    | .hit e => s.toLine { a with entry := e } ue
    | .miss => (s.updAccess a.id (fun _ => { a with phase := .walk })).askWalk a.core r.ctx a.va a.op.writes (s.shapeOf r (s.bindingOf a)).note

/-- An element access at its turn (R216, R220, R222, R376, R379). -/
def State.performElement (s : State) (a : Access) (ue : Bool) : State :=
  let r := s.region a.firing.region
  let b := s.bindingOf a
  let h := s.shapeOf r b
  if h.npos ≤ a.pos then s.shapeFault a
  else
    let i := h.index a.pos
    let inside := h.inImage i
    let j := if inside then i else h.clamp i
    let a := { a with va := h.addr j, fmt := h.fmt.toNat, half := h.oddHalf j }
    let ahead : Option (Nat × Nat) := match (s.agn r b).round with
      | some q => if q.counts a then q.readAhead.find? (fun e => e.1 = a.pos) else none
      | none => none
    let ue := ue || (match (s.agn r b).round with
      | some q => q.counts a && q.bad.contains a.pos
      | none => false)
    if !inside && a.op.isAtomic then s.shapeFault a
    else if !inside && (a.op.isStore || a.op = .pft || h.pad ≠ .replicate) then s.respond a 0 none
    else
      match ahead, a.op.isLoad with
      | some e, true =>
        (s.updAgn r b (fun g => { g with round := g.round.map (fun q =>
          { q with readAhead := q.readAhead.filter (fun (p : Nat × Nat) => p.1 ≠ e.1) }) })).respond a e.2 none
      | _, _ => s.translated a ue

/-- An MNOP's next position passed; after the last, its response (R378). -/
def State.passRank (s : State) (a : Access) (last : Nat) : State :=
  if last ≤ a.pos then s.respond a 0 none
  else
    let s := s.advance a
    s.updAccess a.id (fun _ => { a with pos := a.pos + 1, wseq := a.wseq.map (fun w => (w + 1) % 2 ^ 32), phase := .held })

end Sys2Proof.Machine
end

