-- ==== Sys2Proof/Machine/Transfers.lean ====
section
/-!
DEFINITION. Tile transfers and rounds (R205, R217 to R220, R224 to R232, R380): the rows of a tile in memory, convolution
taps and the line buffer, fills and drains, multicasts and permits, the checks of a shape, and the starts of rounds.
-/

namespace Sys2Proof.Machine

/-! ## The checks of a shape (R217) -/

/-- |STRIDE| of a dimension. -/
def Dim.absStride (d : Dim) : Nat := d.stride.toInt.natAbs

/-- Span(d) of R217 over the dimensions below d. -/
def spanOf (l : List Dim) : Nat := 1 + sumOf (l.map (fun d => (d.ext.toNat - 1) * d.absStride))

/-- The first dimension for which a check fails. -/
def firstDim (h : Shape) (p : Nat → Dim → Bool) : Option Nat :=
  (List.range h.ndim).find? (fun d => p d (h.dims.getD d {}))

/-- The least and greatest bit offset of an in-image element (R217, check 0x7). -/
def Shape.reach (h : Shape) : Int × Int :=
  (h.dims.take h.ndim).foldl (fun q d =>
    let m : Int := ((d.ext.toNat : Int) - 1) * d.stride.toInt * h.width
    if 0 ≤ m then (q.1, q.2 + m) else (q.1 + m, q.2)) (0, 0)

/-- The output extent of R229 in a dimension of a convolution. -/
def outExtent (d : Dim) (k dil s : Nat) : Int :=
  ((d.ext.toNat : Int) + d.padb.toNat + d.pada.toNat - dil * ((k : Int) - 1) - 1) / s + 1

/-- Input columns of a strip (R228). -/
def Binding.stripCols (b : Binding) : Nat := (b.ows - 1) * b.sw + b.dilw * (b.kw - 1) + 1

/-- Whether the convolution fields of a binding suit a shape (R214, R217 check 0x8, R228). -/
def Binding.convOk (b : Binding) (h : Shape) : Bool :=
  let within := fun (v lo hi : Nat) => decide (lo ≤ v) && decide (v ≤ hi)
  within b.kh 1 7 && within b.kw 1 7 && within b.dilh 1 8 && within b.dilw 1 8 && within b.sh 1 8 && within b.sw 1 8 &&
  within b.cb 1 64 && within b.ows 1 64 && decide (3 ≤ h.ndim) && decide (ceilDiv (b.stripCols * b.cb * h.width) 8 ≤ 4096)

/-- Whether the destination tiles of a binding suit a shape (R217 check 0x5): `tile` gives each tile's entry. -/
def Binding.destsOk (b : Binding) (h : Shape) (tile : BindDest → Nat → Tile) : Bool :=
  let first := tile (b.dests.headD {}) 0
  b.dests.all (fun d => (List.range b.nbuf).all (fun k =>
    let t := tile d k
    t.defined && decide (d.tile + b.nbuf ≤ 32) &&
    (match b.mode with
     | .conv => t.nrows = b.ows && t.ncols = b.cb
     | _ => t.ncols = (h.dims.headD {}).span && t.nrows = first.nrows)))

/-- The checks of R217 in their order: kind and dimension of the first that fails. -/
def shapeCheck (b : Binding) (h : Shape) (tile : BindDest → Nat → Tile) : Option (Nat × Nat) :=
  let below := fun d => h.dims.take d
  let q := h.reach
  let lo := (h.base.toNat : Int) + q.1 / 8
  let hi := (h.base.toNat : Int) + q.2 / 8
  if h.base.toNat % 64 ≠ 0 then some (0xA, 0)
  else if h.ndim = 0 || 9 < h.ndim then some (0x1, 0)
  else match firstDim h (fun _ d => h.pad = .none && (d.padb ≠ 0 || d.pada ≠ 0)) with
  | some d => some (0x3, d)
  | none => match firstDim h (fun i d => h.width = 4 && (if i = 0 then d.stride.toInt ≠ 1 else d.stride.toInt % 2 ≠ 0)) with
  | some d => some (0x6, d)
  | none => match (if h.isEmpty || (!h.write && h.ovl) then none
      else firstDim h (fun i d => 1 < d.ext.toNat && (if i = 0 then d.absStride < 1 else d.absStride < spanOf (below i)))) with
  | some d => some (0x2, d)
  | none =>
    if !h.isEmpty && (lo < 0 || 2 ^ 57 ≤ hi) then some (0x7, 0)
    else if b.mode ≠ .element && !b.destsOk h tile then some (0x5, 0)
    else if b.mode = .conv && !b.convOk h then some (0x8, 0)
    else none

/-- The tile-table entry of buffer k of a destination of a region's binding (R214, R224). -/
def State.destTile (s : State) (r : Region) (d : BindDest) (k : Nat) : Tile :=
  (s.cell (cellKey r.die (r.x0 + d.x) (r.y0 + d.y))).tile (d.tile + k)

/-! ## Elements in memory -/

/-- An access of a transfer that faults: class, level and VA. -/
abbrev Stopped := FaultClass × Nat × Nat

/-- `n` bytes within a line read by a port core for a transfer, with a copy kept in its data cache (R212), or the fault:
MEM_UE where the line's home die is lost (R237). -/
def State.portRead (s : State) (core ctx va n : Nat) : Except Stopped (Nat × State) :=
  match s.translateNow core ctx va false with
  | .error q => .error (q.1, q.2, va)
  | .ok (e, s) =>
    let a := e.target va
    if !s.homeUp e a then .error (.memUe, 0xFF, va)
    else .ok (ofBytes (s.seenBytes e (core / 80) a n), if s.nonCoherent e then s else s.readCopy e core a)

/-- Bytes within a line written by a port core for a transfer, or the fault; a write to a non-coherent host page is posted
(R255). -/
def State.portWrite (s : State) (core ctx region va : Nat) (bs : List Byte → List Byte) (n : Nat) : Except Stopped State :=
  match s.translateNow core ctx va true with
  | .error q => .error (q.1, q.2, va)
  | .ok (e, s) =>
    let a := e.target va
    if !s.homeUp e a then .error (.memUe, 0xFF, va)
    else
      let s := s.portStore e core a (bs (s.homeBytes e a n))
      .ok (if s.nonCoherent e then s.updRegion region (fun r => { r with posted := true }) else s)

/-- An element's code read for a transfer, or the fault. -/
def State.readElement (s : State) (core ctx : Nat) (h : Shape) (i : List Int) : Except Stopped (Nat × State) :=
  match s.portRead core ctx (h.addr i) (max 1 (h.width / 8)) with
  | .error q => .error q
  | .ok (v, s) => .ok (if h.width = 4 then (if h.oddHalf i then v / 16 else v % 16) else v, s)

/-- An element's code written for a transfer, or the fault. -/
def State.writeElement (s : State) (core ctx region : Nat) (h : Shape) (i : List Int) (v : Nat) : Except Stopped State :=
  let n := max 1 (h.width / 8)
  s.portWrite core ctx region (h.addr i) (fun old =>
    let o := ofBytes old
    if h.width = 4 then toBytes 1 (if h.oddHalf i then o % 16 + v % 16 * 16 else o / 16 * 16 + v % 16) else toBytes n v) n

/-- The code of an index vector as a transfer reads it: padding by PADMODE (R216). -/
def State.readIndex (s : State) (core ctx : Nat) (h : Shape) (i : List Int) : Except Stopped (Nat × State) :=
  if h.inImage i then s.readElement core ctx h i
  else if h.pad = .replicate then s.readElement core ctx h (h.clamp i)
  else .ok (0, s)

/-- The codes of a list of index vectors; none stands for a zero that is never fetched. -/
def State.readIndices (s : State) (core ctx : Nat) (h : Shape) : List (Option (List Int)) → Except Stopped (List Nat × State)
  | [] => .ok ([], s)
  | none :: t =>
    match s.readIndices core ctx h t with
    | .error q => .error q
    | .ok (l, s) => .ok (0 :: l, s)
  | some i :: t =>
    match s.readIndex core ctx h i with
    | .error q => .error q
    | .ok (v, s) =>
      match s.readIndices core ctx h t with
      | .error q => .error q
      | .ok (l, s) => .ok (v :: l, s)

/-- The VA of scale byte u of the row that an index vector begins: behind the row's elements, one for each 32 (R215,
R260). -/
def Shape.scaleAddr (h : Shape) (i : List Int) (u : Nat) : Nat :=
  h.addr (0 :: i.drop 1) + ceilDiv ((h.dims.headD {}).ext.toNat * h.width) 8 + u

/-- The row whose scale bytes a row of a transfer takes (R216, R260): its own, the clamped row that PADMODE replicate copies,
or none. -/
def Shape.scaleRow (h : Shape) (i : List Int) : Option (List Int) :=
  let j := 0 :: i.drop 1
  if h.inImage j then some j else if h.pad = .replicate then some (h.clamp j) else none

/-- The scale bytes of a row, 127 for a padding row of zeros (R260). -/
def State.readScales (s : State) (core ctx : Nat) (h : Shape) (i : List Int) : List Nat → Except Stopped (List Nat × State)
  | [] => .ok ([], s)
  | u :: t =>
    match h.scaleRow i with
    | none =>
      match s.readScales core ctx h i t with
      | .error q => .error q
      | .ok (l, s) => .ok (127 :: l, s)
    | some j =>
      match s.portRead core ctx (h.scaleAddr j u) 1 with
      | .error q => .error q
      | .ok (v, s) =>
        match s.readScales core ctx h i t with
        | .error q => .error q
        | .ok (l, s) => .ok (v :: l, s)

/-! ## Rows of a tile (R224) -/

/-- Rows of a round in tile mode. -/
def Shape.rowCount (h : Shape) : Nat := if h.isEmpty then 0 else h.npos / (h.dims.headD {}).span

/-- ROWS′ of a binding's tiles. -/
def State.tileRows (s : State) (r : Region) (b : Binding) : Nat := (s.destTile r (b.dests.headD {}) 0).nrows

/-- Tiles of a round in tile mode (R224). -/
def State.tileCount (s : State) (r : Region) (b : Binding) (h : Shape) : Nat := ceilDiv h.rowCount (s.tileRows r b)

/-- The index vectors of row q of a round in tile mode. -/
def Shape.rowIndices (h : Shape) (q : Nat) : List (List Int) :=
  let n := (h.dims.headD {}).span
  (List.range n).map (fun c => h.index (q * n + c))

/-! ## Convolution (R228 to R231) -/

/-- The sizes of a convolution round: output rows and columns, strips and channel blocks. -/
def Binding.convSize (b : Binding) (h : Shape) : Int × Int × Nat × Nat :=
  let ow := outExtent (h.dims.getD 1 {}) b.kw b.dilw b.sw
  (outExtent (h.dims.getD 2 {}) b.kh b.dilh b.sh, ow, ceilDiv ow.toNat b.ows, ceilDiv (h.dims.headD {}).ext.toNat b.cb)

/-- The tap groups of a filter dimension (R231): first tap and number. -/
def tapGroups (k dil : Nat) : List (Nat × Nat) :=
  let g := if dil * (k - 1) + 1 ≤ 7 then k else min 7 (6 / dil + 1)
  (List.range (ceilDiv k (max 1 g))).map (fun i => (i * g, min g (k - i * g)))

/-- The passes of a filter: row group and column group, rows first (R231). -/
def Binding.passes (b : Binding) : List ((Nat × Nat) × (Nat × Nat)) :=
  (tapGroups b.kh b.dilh).flatMap (fun j => (tapGroups b.kw b.dilw).map (fun i => (j, i)))

/-- Tiles of a pass. -/
def Binding.passTiles (b : Binding) (h : Shape) (pass : Nat) : Nat :=
  let q := b.convSize h
  let p := b.passes.getD pass ((0, 0), (0, 0))
  q.1.toNat * q.2.2.1 * q.2.2.2 * p.1.2 * p.2.2

/-- A tap tile: output row, strip, channel block, and tap. -/
structure TapTile where
  row : Nat := 0
  strip : Nat := 0
  block : Nat := 0
  j : Nat := 0
  i : Nat := 0
  deriving DecidableEq, Repr

/-- Tap tile n of a pass, in the order of R228. -/
def Binding.tapTile (b : Binding) (h : Shape) (pass n : Nat) : TapTile :=
  let q := b.convSize h
  let p := b.passes.getD pass ((0, 0), (0, 0))
  let i := n % p.2.2
  let n := n / p.2.2
  let j := n % p.1.2
  let n := n / p.1.2
  let block := n % q.2.2.2
  let n := n / q.2.2.2
  { row := n / q.2.2.1, strip := n % q.2.2.1, block := block, j := p.1.1 + j, i := p.2.1 + i }

/-- The input row of a tap tile (R228), as an index of dimension 2. -/
def Binding.inputRow (b : Binding) (h : Shape) (t : TapTile) : Int :=
  ((t.row * b.sh : Nat) : Int) - ((h.dims.getD 2 {}).padb.toNat : Int) + ((t.j * b.dilh : Nat) : Int)

/-- The line-buffer row that a tap tile needs, none for a padding row that reads as zeros (R216, R230). -/
def Binding.neededRow (b : Binding) (h : Shape) (t : TapTile) : Option Nat :=
  let r := b.inputRow h t
  let n : Int := (h.dims.getD 2 {}).ext.toNat
  if 0 ≤ r && r < n then some r.toNat
  else if h.pad = .replicate then some (max 0 (min r (n - 1))).toNat
  else none

/-- The index vectors of an input row of a strip and channel block: column by column, channel fastest; none beyond the
last channel (R228). -/
def Binding.lineIndices (b : Binding) (h : Shape) (row strip block : Nat) : List (Option (List Int)) :=
  let c0 : Int := ((strip * b.ows * b.sw : Nat) : Int) - ((h.dims.getD 1 {}).padb.toNat : Int)
  (List.range b.stripCols).flatMap (fun (x : Nat) => (List.range b.cb).map (fun (c : Nat) =>
    let ch := block * b.cb + c
    if ch < (h.dims.headD {}).ext.toNat then
      some ([(ch : Int), c0 + (x : Int), (row : Int)] ++ (List.range (h.ndim - 3)).map (fun _ => 0))
    else none))

/-- Whether a column of a tap tile's row is in-image (R228, R232). -/
def Binding.tapInside (b : Binding) (h : Shape) (t : TapTile) (r c : Nat) : Bool :=
  let q := b.convSize h
  let x := (((t.strip * b.ows + r) * b.sw : Nat) : Int) - ((h.dims.getD 1 {}).padb.toNat : Int) + ((t.i * b.dilw : Nat) : Int)
  decide (((t.strip * b.ows + r : Nat) : Int) < q.2.1) && decide (t.block * b.cb + c < (h.dims.headD {}).ext.toNat) &&
  h.inImage ([0, x, b.inputRow h t] ++ (List.range (h.ndim - 3)).map (fun _ => 0))

/-- Whether a row of the line buffer is the one that a tap tile needs. -/
def Binding.isLine (b : Binding) (t : TapTile) (row : Nat) (l : LineRow) : Bool :=
  l.agn = b.agn && l.row = row && l.strip = t.strip && l.block = t.block

/-- The row of the line buffer that a tap tile needs. -/
def PortCore.lineFor (c : PortCore) (b : Binding) (h : Shape) (t : TapTile) : Option LineRow :=
  (b.neededRow h t).bind (fun row => c.lines.find? (b.isLine t row))

/-- The codes of row r of a tap tile, out of the line buffer (R228). -/
def PortCore.tapRow (c : PortCore) (b : Binding) (h : Shape) (t : TapTile) (r : Nat) : List Nat :=
  let q := b.convSize h
  let line := ((c.lineFor b h t).getD {}).codes
  (List.range b.cb).map (fun ch =>
    if ((t.strip * b.ows + r : Nat) : Int) < q.2.1 then line.getD ((r * b.sw + t.i * b.dilw) * b.cb + ch) 0 else 0)

/-- The scale bytes of row r of a tap tile (R228, R260): those of its input column, 127 where it has none. -/
def PortCore.tapScales (c : PortCore) (b : Binding) (h : Shape) (t : TapTile) (r : Nat) : List Nat :=
  let q := b.convSize h
  let line := ((c.lineFor b h t).getD {}).scales
  let col := line.getD (r * b.sw + t.i * b.dilw) []
  (List.range (ceilDiv b.cb 32)).map (fun u => if ((t.strip * b.ows + r : Nat) : Int) < q.2.1 then col.getD u 127 else 127)

/-- The least input row that the tiles of an output row, and of every later one, need in a pass (R230, R231). -/
def Binding.leastRow (b : Binding) (h : Shape) (pass row : Nat) : Int :=
  let first : TapTile := { row := row, j := (b.passes.getD pass ((0, 0), (0, 0))).1.1 }
  let r := b.inputRow h first
  if h.pad = .replicate then max 0 (min r (((h.dims.getD 2 {}).ext.toNat : Int) - 1)) else r

/-- The least output row that a round in convolution mode has still to deliver: that of its oldest tile under way (R230). -/
def State.oldestRow (s : State) (r : Region) (b : Binding) (h : Shape) (q : Round) : Nat :=
  let under := (s.xfers.filter (fun x => x.region = r.id && x.port = b.p && x.access.isNone)).map (fun x => x.tile)
  (b.tapTile h q.pass (under.foldl min q.next)).row

/-- The rows of the line buffer that no tile of a round under way and no later output row needs, dropped (R230). -/
def State.dropLines (s : State) (r : Region) (b : Binding) (h : Shape) (q : Round) : State :=
  let least := b.leastRow h q.pass (s.oldestRow r b h q)
  s.updPort (80 * r.die + b.core) (fun c => { c with lines := c.lines.filter (fun (l : LineRow) => l.agn ≠ b.agn || decide (least ≤ (l.row : Int))) })

/-- The rows that the line buffer holds of a pass at most (R230): a filter's span and the rows fetched ahead, never more than
16. An input row counts once for all its strips and channel blocks (log 49). -/
def Binding.lineBound (b : Binding) (pass : Nat) : Nat :=
  let span := b.dilh * ((b.passes.getD pass ((0, 0), (0, 0))).1.2 - 1) + 1
  min 16 (span + min b.sh span)

/-- The input rows that a port core's line buffer holds (R230, R235). -/
def PortCore.lineRows (c : PortCore) : List Nat := distinct (c.lines.map (fun (l : LineRow) => l.row))

/-- Whether the line buffer can take the row of a tap tile now (R230). -/
def State.lineFits (s : State) (r : Region) (b : Binding) (h : Shape) (q : Round) (t : TapTile) : Bool :=
  match b.neededRow h t with
  | none => true
  | some row =>
    let rows := ((s.dropLines r b h q).portCore (80 * r.die + b.core)).lineRows
    rows.contains row || decide (rows.length < b.lineBound q.pass)

/-- The scale bytes of every column of an input row of a strip and channel block (R260). -/
def State.readLineScales (s : State) (core ctx : Nat) (b : Binding) (h : Shape) (block : Nat) :
    List (List Int) → Except Stopped (List (List Nat) × State)
  | [] => .ok ([], s)
  | i :: t =>
    match s.readScales core ctx h i ((List.range (ceilDiv b.cb 32)).map (block * b.cb / 32 + ·)) with
    | .error q => .error q
    | .ok (l, s) =>
      match s.readLineScales core ctx b h block t with
      | .error q => .error q
      | .ok (m, s) => .ok (l :: m, s)

/-- The line buffer made ready for a tap tile (R230): rows that are needed no more dropped, and the tile's row fetched where it
is not held, with its scale bytes under BS (R260). -/
def State.fetchLine (s : State) (r : Region) (b : Binding) (h : Shape) (q : Round) (t : TapTile) : Except Stopped State :=
  let core := 80 * r.die + b.core
  let s := s.dropLines r b h q
  match b.neededRow h t with
  | none => .ok s
  | some row =>
    if (s.portCore core).lines.any (b.isLine t row) then .ok s
    else
      match s.readIndices core r.ctx h (b.lineIndices h row t.strip t.block) with
      | .error q => .error q
      | .ok (l, s) =>
        let cols := (List.range b.stripCols).map (fun x => (b.lineIndices h row t.strip t.block).getD (x * b.cb) none)
        match (if h.bs then s.readLineScales core r.ctx b h t.block (cols.map (·.getD [])) else .ok ([], s)) with
        | .error q => .error q
        | .ok (u, s) => .ok (s.updPort core (fun c => { c with lines :=
            c.lines ++ [{ agn := b.agn, row := row, strip := t.strip, block := t.block, codes := l, scales := u }] }))

/-! ## A row lands (R205, R225) -/

/-- A row of codes written into a tile, with its scale bytes. -/
def Cell.setRow (c : Cell) (j r : Nat) (codes scales : List Nat) : Cell :=
  let t := c.tile j
  let c := (codes.zip (List.range t.ncols)).foldl (fun c q => c.setElem t r q.2 q.1) c
  if t.bs then
    c.bankWrite t.bank.toNat (t.rowAddr r + ceilDiv (t.ncols * fmtBits t.fmt.toNat) 8) (scales.map (BitVec.ofNat 8))
  else c

/-- The codes and scale bytes of row `x.row` of a fill. -/
def State.fillRow (s : State) (r : Region) (b : Binding) (x : Xfer) : Except Stopped (List Nat × List Nat × State) :=
  let core := 80 * r.die + b.core
  let h := s.shapeOf r b
  match b.mode with
  | .conv =>
    let t := b.tapTile h x.pass x.tile
    .ok ((s.portCore core).tapRow b h t x.row, if h.bs then (s.portCore core).tapScales b h t x.row else [], s)
  | _ =>
    let idx := h.rowIndices (x.tile * s.tileRows r b + x.row)
    match s.readIndices core r.ctx h (idx.map some) with
    | .error q => .error q
    | .ok (l, s) =>
      if h.bs then
        match s.readScales core r.ctx h (idx.headD []) (List.range (ceilDiv (h.dims.headD {}).span 32)) with
        | .error q => .error q
        | .ok (u, s) => .ok (l, u, s)
      else .ok (l, [], s)

/-- The pooling mask of row r of a tap tile, as bytes (R232, R359). -/
def Binding.maskRow (b : Binding) (h : Shape) (t : TapTile) (r : Nat) : List Nat :=
  (List.range (ceilDiv b.cb 8)).map (fun k =>
    sumOf ((List.range 8).map (fun i => bitOf (decide (8 * k + i < b.cb) && b.tapInside h t r (8 * k + i)) * 2 ^ i)))

/-- Whether a tile is one that takes a binding's masks (log 22): UINT8, OWS rows of ceil(CB / 8) bytes. -/
def Binding.isMask (b : Binding) (t : Tile) : Bool :=
  b.mode = .conv && t.defined && t.fmt = 4 && !t.bs && t.nrows = b.ows && t.ncols = ceilDiv b.cb 8

/-- The tag of tile j of a round: its tag advanced j times (R225). -/
def advanceTag : Nat → Tag → Tag
  | 0, t => t
  | n + 1, t => advanceTag n (nextTag t)

/-- A transfer changed. -/
def State.updXfer (s : State) (id : Nat) (f : Xfer → Xfer) : State :=
  { s with xfers := changeFirst (fun x => x.id = id) f s.xfers }

/-- A transfer removed. -/
def State.dropXfer (s : State) (id : Nat) : State := { s with xfers := dropFirst (fun x => x.id = id) s.xfers }

/-- A tile of a round delivered: the end token after the last tile, and the next pass of R231. -/
def State.countTile (s : State) (r : Region) (b : Binding) : State :=
  let g := s.agn r b
  match g.round with
  | none => s
  | some q =>
    if q.delivered + 1 < q.tiles then s.updAgn r b (fun g => { g with round := some { q with delivered := q.delivered + 1 } })
    else
      let s := s.sendEnd r b q.tag false q.tiles
      let s := s.updPort (80 * r.die + b.core) (fun c => { c with lines := c.lines.filter (fun (l : LineRow) => l.agn ≠ b.agn) })
      if b.mode = .conv && q.pass + 1 < b.passes.length then
        let q := { q with pass := q.pass + 1, next := 0, delivered := 0, tiles := b.passTiles g.shape (q.pass + 1) }
        s.updAgn r b (fun g => { g with round := some q })
      else s.updAgn r b (fun g => { g with round := none })

/-- The fault of a transfer's element: of its LDT or STT, or of the round's frame (R217, R227, R381). -/
def State.xferFault (s : State) (r : Region) (b : Binding) (x : Xfer) (q : Stopped) : State :=
  let s := s.updXfer x.id (fun x => { x with faulted := true })
  match x.access.bind (fun id => s.accesses.find? (fun a => a.id = id)) with
  | some a => s.memFault a q.1 q.2.2 q.2.1
  | none =>
    let f : Firing := { die := r.die, x := r.x0 + b.ix, y := r.y0 + b.iy, region := r.id, rwin := b.iwin, acc := { tag := x.tag } }
    let core := 80 * r.die + b.core
    s.reportPort f false q.1 (core / 80 * 4096 + core % 80 + (b.agn * 32 + b.p) * 2 ^ 16 + bitOf (x.kind = .drain) * 2 ^ 24 +
      q.2.2 % 2 ^ 64 * 2 ^ 32 + q.2.1 * 2 ^ 128)

/-- The cells and tiles that a fill goes to. -/
def Xfer.targets (x : Xfer) (r : Region) (b : Binding) : List (Nat × Nat) :=
  b.dests.map (fun d => (cellKey r.die (r.x0 + d.x) (r.y0 + d.y), d.tile + x.buffer))

/-- The cell and tile that a drain takes (R224, R380): the first destination in the issuing cell. -/
def State.drainSource (s : State) (r : Region) (b : Binding) (x : Xfer) : Nat × Nat :=
  let at_ := match x.access.bind (fun id => s.accesses.find? (fun a => a.id = id)) with
    | some a => (a.firing.x - r.x0, a.firing.y - r.y0, 0)
    | none => (b.ix, b.iy, x.buffer)
  let d := (b.dests.find? (fun d => d.x = at_.1 && d.y = at_.2.1)).getD (b.dests.headD {})
  (cellKey r.die (r.x0 + d.x) (r.y0 + d.y), d.tile + at_.2.2)

/-- Whether a tile can start a fill now (R202, R205, R354). -/
def Cell.canFill (c : Cell) (j : Nat) : Bool :=
  (((c.tile j).st = .empty && !c.tileBusy j) || ((c.tile j).st = .filling && (c.tile j).opened)) && !c.engineHolds j

/-- Whether a tile can start a drain now (R202, R205, R354). -/
def Cell.canDrain (c : Cell) (j : Nat) : Bool :=
  (((c.tile j).st = .ready && !c.tileBusy j) || ((c.tile j).st = .draining && (c.tile j).opened)) && !c.engineHolds j

/-- The region and binding of a transfer. -/
def State.xferOf (s : State) (x : Xfer) : Region × Binding :=
  let r := s.region x.region
  (r, (r.binding? x.port).getD {})

/-- Where a transfer stands in the firing order: that of the instruction behind it, or of its round's tile. -/
def Xfer.order (x : Xfer) : Nat := x.access.getD x.id

/-- The tiles that a transfer takes, by cell. -/
def State.xferTiles (s : State) (x : Xfer) : List (Nat × Nat) :=
  let q := s.xferOf x
  match x.kind with
  | .fill => x.targets q.1 q.2
  | .drain => [s.drainSource q.1 q.2 x]

/-- The port core whose block-transfer engine carries a transfer. -/
def State.xferCore (s : State) (x : Xfer) : Nat := let q := s.xferOf x; 80 * q.1.die + q.2.core

/-- Whether an earlier transfer waits for a tile of this one (R205: waiting fills start in firing order). -/
def State.xferBehind (s : State) (x : Xfer) : Bool :=
  s.xfers.any (fun y => y.order < x.order && !y.begun && y.kind = x.kind && (s.xferTiles y).any (s.xferTiles x).contains)

/-- The CFG_SHAPE trap of a transfer that a tile's bank refuses (R205, R298, R360): field code 0x40 or 0xC2. -/
def State.refuseXfer (s : State) (r : Region) (b : Binding) (x : Xfer) (field : Nat) : State :=
  let s := s.updXfer x.id (fun x => { x with faulted := true })
  match x.access.bind (fun id => s.accesses.find? (fun a => a.id = id)) with
  | some a => (s.stopAt a 0).reportPort a.firing false .cfgShape (field + r.imageVa * 2 ^ 32 + b.offset * 2 ^ 96)
  | none =>
    let f : Firing := { die := r.die, x := r.x0 + b.ix, y := r.y0 + b.iy, region := r.id, rwin := b.iwin, acc := { tag := x.tag } }
    s.reportPort f false .cfgShape (field + r.imageVa * 2 ^ 32 + b.offset * 2 ^ 96)

/-- Whether a tile is a halo tile (R234): several read bindings of its region name it, each for the rows of one producer. -/
def State.isHalo (s : State) (r : Region) (p : Nat × Nat) : Bool :=
  decide (2 ≤ ((r.image.bindings.filter (fun b => b.mode ≠ .element && !(s.shapeOf r b).write &&
    (List.range b.nbuf).any (fun k => (({ buffer := k } : Xfer).targets r b).contains p))).length))

/-- Whether a fill can take its place in a tile now (R205, R234): an EMPTY one, one that TSET FILLING opened, or a halo tile that
another producer's rows fill. -/
def State.takesTile (s : State) (r : Region) (p : Nat × Nat) : Bool :=
  (s.cell p.1).canFill p.2 || (((s.cell p.1).tile p.2).st = .filling && s.isHalo r p && !(s.cell p.1).engineHolds p.2)

/-- A transfer begun where its tiles allow it (R205): the tiles FILLING or DRAINING. -/
def State.beginXfer (s : State) (x : Xfer) : State :=
  let q := s.xferOf x
  let r := q.1
  let b := q.2
  if x.begun || x.faulted || s.xferBehind x then s else
  match x.kind with
  | .fill =>
    let ts := x.targets r b
    let bank := fun (p : Nat × Nat) => (s.cell p.1).bank ((s.cell p.1).tile p.2).bank.toNat
    if !ts.all (s.takesTile r) then s
    else if !ts.all (fun p => (s.cell p.1).ownsTile ((s.cell p.1).tile p.2) r.id) then s.refuseXfer r b x 0xC2
    else if !ts.all (fun p => (bank p).mode = .scratchpad) then s.refuseXfer r b x 0x40
    else
      let s := ts.foldl (fun s p => s.updCell p.1 (fun c => c.updTile p.2 (fun t =>
        if t.st = .empty then { t with st := .filling, otag := x.tag, rowsIn := 0 } else t))) s
      s.updXfer x.id (fun x => { x with begun := true, owed := ts })
  | .drain =>
    let p := s.drainSource r b x
    if !(s.cell p.1).canDrain p.2 then s
    else (s.updCell p.1 (fun c => c.updTile p.2 (fun t => { t with st := .draining, opened := false, otag := x.tag }))).updXfer x.id
      (fun x => { x with begun := true })

/-- Whether row `x.row` of a fill is one of padding alone (R216). -/
def State.padRow (s : State) (r : Region) (b : Binding) (x : Xfer) : Bool :=
  let h := s.shapeOf r b
  b.mode = .tile && (match (h.rowIndices (x.tile * s.tileRows r b + x.row)).head? with
    | none => true
    | some i => !h.inImage (0 :: i.drop 1))

/-- A row put into a destination tile of a fill, with its pooling mask (R205, R232): ROWSIN rises, and the tile is READY at its
row count, which is its own rows where several transfers fill it (R234) and else the transfer's. A halo tile takes no
padding row, which another producer's row may fill (log 49). -/
def State.landIn (s : State) (r : Region) (b : Binding) (x : Xfer) (codes scales : List Nat) (p : Nat × Nat) : State :=
  let last := decide (x.rows ≤ x.row + 1)
  let halo := s.isHalo r p
  if halo && s.padRow r b x then s else
  let h := s.shapeOf r b
  s.updCell p.1 (fun c =>
    let c := c.setRow p.2 x.row codes scales
    let m := c.tile (p.2 + b.nbuf)
    let c := if b.isMask m && (m.st = .empty || m.st = .ready) then
        (c.setRow (p.2 + b.nbuf) x.row (b.maskRow h (b.tapTile h x.pass x.tile) x.row) []).updTile (p.2 + b.nbuf)
          (fun t => if last then { t with st := .ready } else t)
      else c
    c.updTile p.2 (fun t =>
      let t := { t with rowsIn := t.rowsIn + 1 }
      if (if t.opened || halo then decide (t.nrows ≤ t.rowsIn.toNat) else last) then { t with st := .ready, opened := false, otag := 0 } else t))

/-- The completion tokens of a fill for destinations whose tile is READY now (R225). -/
def State.tokensFor (s : State) (x : Xfer) (ready : List (Nat × Nat)) : State :=
  let q := s.xferOf x
  let r := q.1
  let b := q.2
  let tag := if x.access.isSome then x.tag else advanceTag x.tile x.tag
  (b.dests.filter (fun d => ready.contains (cellKey r.die (r.x0 + d.x) (r.y0 + d.y), d.tile + x.buffer))).foldl (fun s d =>
    s.sendInto r b (r.x0 + d.x) (r.y0 + d.y) d.rwin d.target tag (Val.of 4 x.tile) (s.shapeOf r b).note) s

/-- A fill over (R205, R218, R380): the response of the LDT behind it, or its round's tile counted. -/
def State.endFill (s : State) (x : Xfer) : State :=
  let q := s.xferOf x
  let s := s.dropXfer x.id
  match x.access.bind (fun id => s.accesses.find? (fun a => a.id = id)) with
  | some a => s.respond a x.tile none
  | none => if x.access.isSome then s else s.countTile q.1 q.2

/-- The fills whose rows have all landed, as tiles leave FILLING: each sends its completion tokens, and ends with its last
destination (R225, R234). -/
def State.settleFills (s : State) (cands : List Xfer) : State :=
  cands.foldl (fun s x =>
    let done := x.owed.filter (fun p => ((s.cell p.1).tile p.2).st ≠ .filling)
    if x.kind = .drain || !x.begun || x.row < x.rows || (done.isEmpty && !x.owed.isEmpty) then s
    else
      let s := s.tokensFor x done
      if done.length = x.owed.length then s.endFill x
      else s.updXfer x.id (fun x => { x with owed := x.owed.filter (fun p => !done.contains p) })) s

/-- Whether a transfer under way has still to move bytes. A fill whose rows have all landed only waits for its halo tile (R234). -/
def Xfer.moves (x : Xfer) : Bool := x.begun && !x.faulted && (x.kind = .drain || decide (x.row < x.rows))

/-- Whether a transfer under way has a step to make: bytes to move, or a tile that has left FILLING to tell of. -/
def State.xferGoes (s : State) (x : Xfer) : Bool :=
  x.moves || (x.begun && !x.faulted && x.kind = .fill && x.owed.any (fun p => ((s.cell p.1).tile p.2).st ≠ .filling))

/-- The next row of a fill landed at every destination that has still to become READY (R205, R225); `ue` where its data proves
uncorrectable (R166). -/
def State.landRow (s : State) (x : Xfer) (ue : Bool) : State :=
  let q := s.xferOf x
  let r := q.1
  let b := q.2
  if x.rows ≤ x.row then s.settleFills [x]
  else if ue then
    s.xferFault r b x (.memUe, 0xFF, (s.shapeOf r b).addr (((s.shapeOf r b).rowIndices (x.tile * s.tileRows r b + x.row)).headD []))
  else
    match s.fillRow r b x with
    | .error e => s.xferFault r b x e
    | .ok (codes, scales, s) =>
      let s := (x.targets r b).foldl (fun s p => s.landIn r b x codes scales p) s
      let s := s.updXfer x.id (fun x => { x with row := x.row + 1 })
      s.settleFills s.xfers

/-- The codes of a tile's rows written to memory, row by row (R224, R380). -/
def State.writeRows (s : State) (core ctx region : Nat) (h : Shape) (c : Cell) (t : Tile) (tile rows perTile : Nat) :
    List Nat → Except Stopped State
  | [] => .ok s
  | k :: l =>
    let n := (h.dims.headD {}).span
    let r := k / n
    let col := k % n
    if rows ≤ r then s.writeRows core ctx region h c t tile rows perTile l
    else
      let i := h.index ((tile * perTile + r) * n + col)
      if !h.inImage i then s.writeRows core ctx region h c t tile rows perTile l
      else
        match s.writeElement core ctx region h i (c.elem t r col) with
        | .error q => .error q
        | .ok s =>
          if h.bs && col % 32 = 0 then
            match s.portWrite core ctx region (h.scaleAddr i (col / 32)) (fun _ => toBytes 1 (c.elemScale t r col)) 1 with
            | .error q => .error q
            | .ok s => s.writeRows core ctx region h c t tile rows perTile l
          else s.writeRows core ctx region h c t tile rows perTile l

/-- The end of a drain (R205, R224, R226, R380): its bytes performed, its tile EMPTY or READY again. -/
def State.endDrain (s : State) (x : Xfer) : State :=
  let q := s.xferOf x
  let r := q.1
  let b := q.2
  let h := s.shapeOf r b
  let p := s.drainSource r b x
  let c := s.cell p.1
  match s.writeRows (80 * r.die + b.core) r.ctx r.id h c (c.tile p.2) x.tile x.rows (s.tileRows r b)
      (List.range (x.rows * (h.dims.headD {}).span)) with
  | .error e => s.xferFault r b x e
  | .ok s =>
    let s := s.updCell p.1 (fun c => c.updTile p.2 (fun t => { t with st := if x.retain then .ready else .empty, otag := 0 }))
    let s := s.dropXfer x.id
    match x.access.bind (fun id => s.accesses.find? (fun a => a.id = id)) with
    | some a => s.respond a x.tile none
    | none =>
      if x.access.isSome then s else
      let tag := advanceTag x.tile x.tag
      let s := s.sendInto r b (r.x0 + b.ix) (r.y0 + b.iy) b.iwin b.endt tag (Val.of 4 x.tile) h.note
      (s.updAgn r b (fun g => { g with busyBufs := g.busyBufs.filter (· ≠ x.buffer) })).countTile r b

/-- LDT or STT at its turn (R380): its transfer joins those of the port core, or goes on after a RESUME. -/
def State.moveTile (s : State) (a : Access) (j : Nat) (drain retain : Bool) : State :=
  let r := s.region a.firing.region
  let b := s.bindingOf a
  let h := s.shapeOf r b
  match s.xfers.find? (fun x => x.access = some a.id) with
  | some x =>
    let s := (s.updAccess a.id (fun b => { b with phase := .moving })).updXfer x.id (fun x => { x with faulted := false })
    s.beginXfer { x with faulted := false }
  | none =>
    if s.tileCount r b h ≤ j then s.shapeFault a
    else
      let per := s.tileRows r b
      let (id, s) := s.newId
      let x : Xfer := { id := id, region := r.id, port := b.p, kind := if drain then .drain else .fill, tile := j,
                        buffer := if drain then 0 else j % b.nbuf, rows := min per (h.rowCount - j * per), tag := a.firing.acc.tag,
                        retain := retain, access := some a.id }
      ({ s with xfers := s.xfers ++ [x] }.updAccess a.id (fun b => { b with phase := .moving })).beginXfer x

/-! ## Rounds (R218, R219, R229) -/

/-- The trap of the start token's frame at a round start (R217, R219): the start's accord is the trap accord. -/
def State.roundTrap (s : State) (r : Region) (b : Binding) (a : Accord) (kind dim : Nat) : State :=
  let f : Firing := { die := r.die, x := r.x0 + b.ix, y := r.y0 + b.iy, region := r.id, rwin := b.iwin, acc := a }
  let core := 80 * r.die + b.core
  if kind = 0xA then
    s.reportPort f true .agnAlign (core / 80 * 4096 + core % 80 + (b.agn * 32 + b.p) * 2 ^ 16 + bitOf b.shape.write * 2 ^ 24 +
      (s.shapeOf r b).base.toNat * 2 ^ 32 + 0xFF * 2 ^ 128)
  else s.reportPort f true .cfgShape (0x30000 + kind * 16 + dim + r.imageVa * 2 ^ 32 + b.offset * 2 ^ 96)

/-- A shape with a PARAM overwrite applied (R219): none for a bad SEL or bad bits. -/
def Shape.overwrite (h : Shape) (v : Nat) : Option Shape :=
  let sel := bits v 63 60
  if bits v 59 57 ≠ 0 then none
  else if sel = 0 then some { h with base := BitVec.ofNat 57 v }
  else if 9 < sel || h.ndim < sel || bits v 56 24 ≠ 0 then none
  else some { h with dims := h.dims.modify (sel - 1) (fun d => { d with ext := BitVec.ofNat 24 v }) }

/-- The start of a round of an AGN (R218, R219): the pending overwrite applied, but for a start that RESUME issues again,
and the checks made, then the round, or at once the end token of a round without positions or output rows (R229). -/
def State.startRound (s : State) (r : Region) (b : Binding) : State :=
  let g := s.agn r b
  match g.starts with
  | [] => s
  | a :: t =>
    let pending := if a.reissue then none else g.pending
    let s := s.updAgn r b (fun g => { g with starts := t, pending := if a.reissue then g.pending else none })
    let s := s.updPort (80 * r.die + b.core) (fun c => { c with lines := c.lines.filter (fun (l : LineRow) => l.agn ≠ b.agn) })
    let h := match pending with
      | none => some g.shape
      | some v => g.shape.overwrite v.toNat
    match h with
    | none => s.roundTrap r b a 0xB 0
    | some h =>
      match shapeCheck b h (s.destTile r) with
      | some (kind, dim) => s.roundTrap r b a kind dim
      | none =>
        let s := s.updAgn r b (fun g => { g with shape := h })
        let tiles := match b.mode with
          | .element => 0
          | .tile => s.tileCount r b h
          | .conv => b.passTiles h 0
        let q := b.convSize h
        let empty := h.npos = 0 || (b.mode = .conv && (q.1 ≤ 0 || q.2.1 ≤ 0))
        if empty then s.sendEnd r b a.tag true 0
        else s.updAgn r b (fun g => { g with round := some { tag := a.tag, total := h.npos, tiles := tiles } })

/-- Whether a round of an AGN can start (R218, R228). -/
def State.roundReady (s : State) (r : Region) (b : Binding) : Bool :=
  let g := s.agn r b
  g.region = r.id && g.port = b.p && !g.starts.isEmpty && g.round.isNone &&
  (b.mode ≠ .conv || !((s.portCore (80 * r.die + b.core)).agns.any (fun q =>
    q.2.round.isSome && q.1 ≠ b.agn && (((s.region q.2.region).binding? q.2.port).getD {}).mode = .conv)))

/-- Whether an AGN can start the next tile of its round (R224, R226), and the line buffer take its row (R230). -/
def State.tileReadyToStart (s : State) (r : Region) (b : Binding) : Bool :=
  let g := s.agn r b
  match g.round with
  | none => false
  | some q => b.mode ≠ .element && g.region = r.id && !q.faulted && decide (q.next < q.tiles) && !g.busyBufs.contains (q.next % b.nbuf) &&
      !r.trapSet.contains (tagFrm q.tag) && (b.mode ≠ .conv || s.lineFits r b g.shape q (b.tapTile g.shape q.pass q.next))

/-- The next tile of a round started: its row fetched into the line buffer for a tap tile, its transfer begun (R224,
R230); `ue` where the row's data proves uncorrectable (R166). -/
def State.startTile (s : State) (r : Region) (b : Binding) (ue : Bool) : State :=
  let g := s.agn r b
  let h := g.shape
  match g.round with
  | none => s
  | some q =>
    let per := s.tileRows r b
    let (id, s) := s.newId
    let x : Xfer := { id := id, region := r.id, port := b.p, kind := if h.write then .drain else .fill, tile := q.next,
                      buffer := q.next % b.nbuf, tag := q.tag, pass := q.pass,
                      rows := if b.mode = .conv then b.ows else min per (h.rowCount - q.next * per) }
    let go := fun s : State =>
      ({ s with xfers := s.xfers ++ [x] }.updAgn r b (fun g => { g with
        round := some { q with next := q.next + 1 }, busyBufs := g.busyBufs ++ [x.buffer] })).beginXfer x
    if b.mode = .conv then
      let t := b.tapTile h q.pass q.next
      let stop := fun (s : State) e => (s.updAgn r b (fun g => { g with round := some { q with faulted := true } })).xferFault r b x e
      if ue then stop s (.memUe, 0xFF, h.addr (((b.lineIndices h (b.inputRow h t).toNat t.strip t.block).headD none).getD [])) else
      match s.fetchLine r b h q t with
      | .error e => stop s e
      | .ok s => go s
    else go s

/-- Whether an AGN reads its round's next position ahead (R220): at most STG units of 4 KiB ahead of the oldest position not yet
delivered, and not while the round's frame stands at a sequence point (R164). -/
def State.aheadReady (s : State) (r : Region) (b : Binding) : Bool :=
  let g := s.agn r b
  match g.round with
  | none => false
  | some q => b.mode = .element && b.shape.cls = .streaming && !g.shape.write && g.region = r.id && decide (q.next < q.total) &&
      decide ((q.next - q.delivered) * g.shape.width < 8 * 4096 * b.stg) && !r.trapSet.contains (tagFrm q.tag) &&
      !(s.portCore (80 * r.die + b.core)).waves.any (fun w => w.region = r.id && w.frm = tagFrm q.tag && w.port = b.p && w.stop.isSome)

/-- One element read ahead (R220); one that faults is left for its access, which raises the fault (R381), as is one whose data
proves uncorrectable (`ue`, R166). -/
def State.readAheadOne (s : State) (r : Region) (b : Binding) (ue : Bool) : State :=
  let g := s.agn r b
  match g.round with
  | none => s
  | some q =>
    let step := fun (s : State) (l : List (Nat × Nat)) =>
      s.updAgn r b (fun g => { g with round := some { q with next := q.next + 1, readAhead := q.readAhead ++ l } })
    let i := g.shape.index q.next
    if !g.shape.inImage i || q.gone.contains q.next then step s []
    else if ue then s.updAgn r b (fun g => { g with round := some { q with next := q.next + 1, bad := q.next :: q.bad } })
    else
      match s.readElement (80 * r.die + b.core) r.ctx g.shape i with
      | .error _ => step s []
      | .ok (v, s) => step s [(q.next, v)]

end Sys2Proof.Machine
end

