-- ==== Sys2Proof/Machine/MemoryUnit.lean ====
section
/-!
DEFINITION. The memory unit of a cell (R203, R221, R244, R375 to R386): loads, stores, tile moves, wave positions, fences
and atomics as they fire.
-/

namespace Sys2Proof.Machine

/-! ## The cell cache (R203) -/

/-- Whether a line of the cell cache is that of a VA and serves a context. -/
def CacheLine.serves (l : CacheLine) (ctx va : Nat) : Bool := l.va = va / 64 * 64 && (l.ctx.isNone || l.ctx = some ctx)

/-- The line of a cell that serves a VA, put first in the order of use. -/
def Cell.cacheUse (c : Cell) (ctx va : Nat) : Option (CacheLine × Cell) :=
  (c.cache.find? (fun l => l.serves ctx va)).map (fun l => (l, { c with cache := l :: dropFirst (fun q => q = l) c.cache }))

/-- Bytes stored into a line that is present (R203). -/
def Cell.cacheStore (c : Cell) (ctx va : Nat) (change : List Byte → List Byte) : Cell :=
  { c with cache := changeFirst (fun l => l.serves ctx va) (fun l => { l with data := change l.data }) c.cache }

/-- A returned line allocated (R203): into a bank in cache mode whose four ways of the set are not all taken, the lowest first,
else over the least recently used line of the set. -/
def Cell.cacheFill (c : Cell) (l : CacheLine) : Cell :=
  let set := l.va / 64 % 256
  let rest := c.cache.filter (fun q => !(q.va = l.va && q.ctx = l.ctx))
  let same := rest.filter (fun q => q.va / 64 % 256 = set)
  let free := (List.range 4).find? (fun k => (c.bank k).mode = .cache && decide ((same.filter (fun q => q.bank = k)).length < 4))
  if c.cacheBanks = 0 then c else
  match free, same.getLast? with
  | some k, _ => { c with cache := { l with bank := k } :: rest }
  | none, some q => { c with cache := { l with bank := q.bank } :: dropFirst (fun p => p.va = q.va && p.ctx = q.ctx) rest }
  | none, none => c

/-- The element that an access of an element-mode binding reaches, where the memory unit computes one (R203, R216). -/
def State.reaches (s : State) (a : Access) : Option Access :=
  let r := s.region a.firing.region
  let b := s.bindingOf a
  let h := s.shapeOf r b
  let i := h.index a.pos
  let j := if h.inImage i then i else h.clamp i
  if b.mode ≠ .element || h.npos ≤ a.pos || (!h.inImage i && (a.op.writes || h.pad ≠ .replicate)) then none
  else some { a with va := h.addr j, fmt := h.fmt.toNat, half := h.oddHalf j }

/-! ## Issue (R203, R221, R244, R382) -/

/-- Whether a fence holds an access that fires after it (R244). -/
def FenceKind.holds (k : FenceKind) (op : AccessOp) : Bool :=
  match op with
  | .skip | .mnop _ => false
  | op =>
    match k with
    | .rel => op.writes
    | _ => true

/-- The outstanding fence of a frame in its cell that holds an access, if any. -/
def State.heldBy (s : State) (a : Access) : Option Nat :=
  ((s.cell a.firing.cell).fences.find? (fun q =>
    q.firing.region = a.firing.region && q.firing.frm = a.firing.frm && q.kind.holds a.op && a.id > q.id)).map (fun q => q.id)

/-- The stores of a cell that its memory unit has issued and that have not performed yet. -/
def State.ownStores (s : State) (cell : Nat) : List Access :=
  s.accesses.filter (fun b => b.firing.cell = cell && b.op.isStore && (match b.phase with
    | .fenced _ => false
    | _ => true))

/-- Whether an access reaches bytes of the line of a VA. -/
def State.onLine (s : State) (b : Access) (va : Nat) : Bool :=
  match s.reaches b with
  | none => false
  | some e => e.va / 64 = va / 64

/-- A store of a cell issued: a line of it that is still on its way to the cell is not allocated there, since it may lack the
store (R242, log 50). -/
def State.storeIssued (s : State) (cell ctx va : Nat) : State :=
  let mine := fun (b : Access) => b.firing.cell = cell && tagCtx b.firing.acc.tag = ctx && b.op.isLoad && s.onLine b va
  let there := fun (p : Response) => p.firing.cell = cell && p.line.map CacheLine.va = some (va / 64 * 64)
  { s with
    accesses := s.accesses.map (fun b => if mine b then { b with noFill := true } else b)
    responses := s.responses.map (fun p => if there p then { p with line := none } else p) }

/-- The stores of its own cell, still under way, whose value a load of a frame returns from the cell cache (R241, R246). -/
def State.readOwn (s : State) (f : Firing) (e : Access) : State :=
  let own := (s.ownStores f.cell).filter (fun b => match s.reaches b with
    | none => false
    | some b => decide (b.va < e.va + e.size) && decide (e.va < b.va + b.size))
  s.updCell f.cell (fun c =>
    let live := c.ownReads.filter (fun q => s.accesses.any (fun b => b.id = q.2.2))
    { c with ownReads := live ++ own.map (fun b => (f.region, f.frm, b.id)) })

/-- An access leaves the memory unit: a hit in the cell cache answers it, a store updates a line that is present, and all
but a hit go to the port core (R203). -/
def State.issue (s : State) (a : Access) : State :=
  let send := fun s : State => s.updAccess a.id (fun b => { b with phase := .travel })
  match s.heldBy a with
  | some q => s.updAccess a.id (fun b => { b with phase := .fenced q })
  | none =>
    let ctx := tagCtx a.firing.acc.tag
    match s.reaches a with
    | none => send s
    | some e =>
      match a.op with
      | .st _ =>
        send ((s.storeIssued a.firing.cell ctx e.va).updCell a.firing.cell (fun c => c.cacheStore ctx e.va (fun d =>
          let bs := (d.drop (e.va % 64)).take e.size
          let v := (e.op.apply e.fmt 0).1.getD 0
          d.take (e.va % 64) ++ e.bytesWith bs v ++ d.drop (e.va % 64 + e.size))))
      | _ =>
        if !s.isCached a then send s
        else
          match (s.cell a.firing.cell).cacheUse ctx e.va with
          | none => send (s.updAccess a.id (fun b => { b with noFill := (s.ownStores a.firing.cell).any (fun b => s.onLine b e.va) }))
          | some (l, c) =>
            ((s.updCell a.firing.cell (fun _ => c)).readOwn a.firing e).respond a (e.elementOf ((l.data.drop (e.va % 64)).take e.size)) none

/-- A new access of a firing, issued (R377): its position in the wave of its binding where the binding is wave-ordered. -/
def State.sendAccess (s : State) (f : Firing) (b : Binding) (rank : Nat) (t : Target) (op : AccessOp) (pos : Nat) (pool : Pool) :
    State :=
  let (id, s) := s.newId
  let a : Access := { id := id, firing := f, port := b.p, core := 80 * f.die + b.core, op := op, pos := pos,
                      wseq := if b.shape.cls = .random then none else some (s.wseq f b.p rank), target := t, pool := pool }
  { s with accesses := s.accesses ++ [a] }.issue a

/-- Accesses of a cell that its port cores have refused (R221). -/
def State.retries (s : State) (k : Nat) : Nat :=
  (s.accesses.filter (fun a => a.firing.cell = k && (match a.phase with
    | .retry _ => true
    | _ => false))).length

/-- Whether a firing's element access waits for a BMODE of a bank in cache mode (R202, R203). -/
def State.cacheWaits (s : State) (f : Firing) (b : Binding) : Bool :=
  b.mode = .element && (List.range 4).any (fun k => ((s.cell f.cell).bank k).mode = .cache && (s.cell f.cell).bankBusy k)

/-- An instruction of Format M (R375 to R380): consumed without firing, it fills its wave position; otherwise it issues one
access once its result has room and the retry buffer is not full. -/
def State.accessForm (s : State) (pd : Pd) (seq port : BitVec 5) (t : Target) (op : Firing → AccessOp) (pos : Firing → Nat) :
    Result :=
  let f := s.sch.cur
  match (s.region f.region).binding? port.toNat with
  | none => .next s
  | some b =>
    let rank := s.rankOf f b.p seq.toNat
    if !f.passes pd then
      if b.shape.cls = .random then .next s else .next (s.sendAccess f b rank .discard .skip 0 .none)
    else if 32 ≤ s.retries f.cell || s.cacheWaits f b then .next (s.putBack f)
    else s.startLate f [t] (op f).resultLen true fun pool s => s.sendAccess f b rank t (op f) (pos f) pool

/-- Position k in L. -/
def positionL (f : Firing) : Nat := f.l 8

/-! ## Loads and stores (R379, R380) -/

/-- LD (R379). -/
def execLd (pd : Pd) (seq : BitVec 5) (_prevD _nextD : BitVec 2) (port : BitVec 5) (t0 : Target) (s : State) : Result :=
  s.accessForm pd seq port t0 (fun _ => .ld) positionL

/-- ST: the low element bits of R (R379). -/
def execSt (pd : Pd) (seq : BitVec 5) (_prevD _nextD : BitVec 2) (port : BitVec 5) (t0 : Target) (s : State) : Result :=
  s.accessForm pd seq port t0 (fun f => .st (f.r 4)) positionL

/-- LDH: the register becomes PENDING as the access issues (R379, R199). -/
def execLdh (pd : Pd) (seq : BitVec 5) (_prevD _nextD : BitVec 2) (port h : BitVec 5) (s : State) : Result :=
  let f := s.sch.cur
  match (s.region f.region).binding? port.toNat with
  | none => .next s
  | some b =>
    let rank := s.rankOf f b.p seq.toNat
    if !f.passes pd then
      if b.shape.cls = .random then .next s else .next (s.sendAccess f b rank .discard .skip 0 .none)
    else if 32 ≤ s.retries f.cell || s.cacheWaits f b || !(s.cell f.cell).holdReady f.region f.frm h.toNat then .next (s.putBack f)
    else
      match s.takeEntry f.cell f.region with
      | none => .next (s.putBack f)
      | some (pool, s) =>
        let s := s.updCell f.cell (fun c =>
          match c.takeSlot f.region f.frm with
          | none => c
          | some (i, c) => c.setHold i h.toNat { st := .pending })
        .next (s.sendAccess f b rank .discard (.ldh h) (f.l 8) pool)

/-- PFT (R379). -/
def execPft (pd : Pd) (seq : BitVec 5) (_prevD _nextD : BitVec 2) (port : BitVec 5) (t0 : Target) (s : State) : Result :=
  s.accessForm pd seq port t0 (fun _ => .pft) positionL

/-- LDT: tile j in L [31:0]; a set bit above them names no tile (R380). -/
def execLdt (pd : Pd) (seq : BitVec 5) (_prevD _nextD : BitVec 2) (port : BitVec 5) (t0 : Target) (s : State) : Result :=
  s.accessForm pd seq port t0 (fun f => .ldt (f.l 8)) positionL

/-- STT: tile j in L [31:0] and RETAIN in L [32]; a set bit above them names no tile (R380). -/
def execStt (pd : Pd) (seq : BitVec 5) (_prevD _nextD : BitVec 2) (port : BitVec 5) (t0 : Target) (s : State) : Result :=
  s.accessForm pd seq port t0 (fun f => .stt (f.l 8 - bitOf (bit (f.l 8) 32) * 2 ^ 32) (bit (f.l 8) 32)) positionL

/-- MNOP: ranks L [5:0] to L [13:8] of its binding filled (R378). -/
def execMnop (pd : Pd) (_seq : BitVec 5) (_prevD _nextD : BitVec 2) (port : BitVec 5) (t0 : Target) (s : State) : Result :=
  s.fire pd fun f s =>
    match (s.region f.region).binding? port.toNat with
    | none => .next s
    | some b =>
      let v := f.l 8
      let a := bits v 5 0
      let e := bits v 13 8
      if bits v 7 6 ≠ 0 || bits v 63 14 ≠ 0 || e < a || s.rankCount f b.p ≤ e then s.takeTrap f .trap 0x3FF7 v
      else if 32 ≤ s.retries f.cell then .next (s.putBack f)
      else s.startLate f [t0] 4 true fun pool s => s.sendAccess f b a t0 (.mnop e) a pool

/-! ## Atomics through a binding (R385, R386) -/

/-- SCAS64: cmp in R [63:0], new in R [127:64] (R386). -/
def execScas64 (pd : Pd) (seq : BitVec 5) (_prevD _nextD : BitVec 2) (port : BitVec 5) (t0 : Target) (s : State) : Result :=
  s.accessForm pd seq port t0 (fun f => .scas64 (f.r 8) (f.r 16 / 2 ^ 64)) positionL

/-- SCAS128: cmp in R [127:0], new in R [255:128] (R386). -/
def execScas128 (pd : Pd) (seq : BitVec 5) (_prevD _nextD : BitVec 2) (port : BitVec 5) (t0 : Target) (s : State) : Result :=
  s.accessForm pd seq port t0 (fun f => .scas128 (f.r 16) (f.r 32 / 2 ^ 128)) positionL

/-- SADD (R386). -/
def execSadd (pd : Pd) (seq : BitVec 5) (_prevD _nextD : BitVec 2) (port : BitVec 5) (t0 : Target) (s : State) : Result :=
  s.accessForm pd seq port t0 (fun f => .sadd (f.r 8)) positionL

/-- SSWAP (R386). -/
def execSswap (pd : Pd) (seq : BitVec 5) (_prevD _nextD : BitVec 2) (port : BitVec 5) (t0 : Target) (s : State) : Result :=
  s.accessForm pd seq port t0 (fun f => .sswap (f.r 8)) positionL

/-- AMOADD (R385). -/
def execAmoadd (pd : Pd) (seq : BitVec 5) (_prevD _nextD : BitVec 2) (port : BitVec 5) (t0 : Target) (s : State) : Result :=
  s.accessForm pd seq port t0 (fun f => .amoadd (f.r 4)) positionL

/-- AMOMIN (R385). -/
def execAmomin (pd : Pd) (seq : BitVec 5) (_prevD _nextD : BitVec 2) (port : BitVec 5) (t0 : Target) (s : State) : Result :=
  s.accessForm pd seq port t0 (fun f => .amomin (f.r 4)) positionL

/-- AMOMAX (R385). -/
def execAmomax (pd : Pd) (seq : BitVec 5) (_prevD _nextD : BitVec 2) (port : BitVec 5) (t0 : Target) (s : State) : Result :=
  s.accessForm pd seq port t0 (fun f => .amomax (f.r 4)) positionL

/-! ## AMOT (R384) -/

/-- What AMOT stores and what its token carries (R252, R384): the word m of the tile and the operand v. -/
def amotApply (op : AmotOp) (m v : Nat) : Nat × Nat :=
  match op with
  | .add => ((m + v) % 2 ^ 32, m)
  | .add64 => ((m + v) % 2 ^ 64, m)
  | .and => (m &&& v, m)
  | .or => (m ||| v, m)
  | .xor => (m ^^^ v, m)
  | .min => (amoPick false true 32 m v, m)
  | .max => (amoPick true true 32 m v, m)
  | .minu => (amoPick false false 32 m v, m)
  | .maxu => (amoPick true false 32 m v, m)
  | .fmin => let q := fp32.pick false false m v; (q.1, m + tokenFlags q.2)
  | .fmax => let q := fp32.pick true false m v; (q.1, m + tokenFlags q.2)
  | .swap => (v, m)
  | .fadd => let q := amoFadd m v; (q.1, m + tokenFlags q.2)

/-- Whether an operation suits a tile's format (R384). -/
def amotFmt (op : AmotOp) (fmt : BitVec 6) : Bool :=
  match op with
  | .fmin | .fmax | .fadd => fmt = 0
  | .swap => fmt = 0 || fmt = 8
  | _ => fmt = 8

/-- Bytes of AMOT's word and of its token (R384). -/
def amotLen : AmotOp → Nat × Nat
  | .add64 => (8, 8)
  | .fmin | .fmax | .fadd => (4, 8)
  | _ => (4, 4)

/-- AMOT: one element of a tile of the cell read, combined and written in one firing (R384). -/
def execAmot (pd : Pd) (td : BitVec 5) (op : AmotOp) (ct : Completion) (s : State) : Result :=
  s.fire pd fun f s =>
    let c := s.cell f.cell
    let t := c.tile td.toNat
    let v := f.l 8
    let col := bits v 11 0
    let r := bits v 21 12
    let n := amotLen op
    if !c.tileReady td.toNat then .next (s.putBack f)
    else if bits v 63 22 ≠ 0 || t.nrows ≤ r || t.ncols ≤ col || !amotFmt op t.fmt || t.bs ||
        (op = .add64 && (col % 2 ≠ 0 || t.ncols ≤ col + 1)) || (c.bank t.bank.toNat).mode ≠ .scratchpad then
      s.takeTrap f .trap 0x3FF6 v
    else
      let a := t.rowAddr r + 4 * col
      let q := amotApply op (c.bankRead t.bank.toNat a n.1) (f.r n.1)
      s.finish f ((ctTargets ct).map fun t => (t, Val.of n.2 q.2)) 0 fun s =>
        s.updCell f.cell fun c => c.bankWrite t.bank.toNat a (toBytes n.1 q.1)

/-! ## Fences (R244, R382) -/

/-- Whether an access of Before(F) is one that a fence waits for (R244). -/
def FenceKind.waits (k : FenceKind) (op : AccessOp) : Bool :=
  match k with
  | .acq => op.isLoad || op.isAtomic
  | _ => op.isLoad || op.isAtomic || op.isStore

/-- The queue operations of programs that have not been performed. -/
def State.pendingQueue (s : State) : List QOp :=
  s.hub.qreqs ++ s.hub.ctxs.flatMap (fun q => q.2.queues.flatMap (fun h => (h.2.pushes ++ h.2.pops).filter (fun o => o.kind ≠ .enginePush)))

/-- Those of a frame of a cell that a fence waits for (R245): pops and peeks count as loads, pushes as stores. -/
def State.queueBefore (s : State) (f : Firing) (kind : FenceKind) : List Nat :=
  (s.pendingQueue.filter (fun o => (kind ≠ .acq || o.kind ≠ .push) && o.firing.cell = f.cell && o.firing.region = f.region &&
    o.firing.frm = f.frm)).map QOp.id

/-- Whether a queue operation is still pending. -/
def State.queuePending (s : State) (id : Nat) : Bool := s.pendingQueue.any (fun o => o.id = id)

/-- The contributions of a frame of a cell whose results have not been sent (R245, R389): each counts as a store and a load. -/
def State.treeBefore (s : State) (f : Firing) : List Nat :=
  (s.die f.die).tree.flatMap (fun o => (o.contribs.filter (fun c => !c.targets.isEmpty && c.firing.cell = f.cell &&
    c.firing.region = f.region && c.firing.frm = f.frm)).map Contribution.id)

/-- Whether the result of a contribution is still to come. -/
def State.treePending (s : State) (die id : Nat) : Bool :=
  (s.die die).tree.any (fun o => !o.bad && o.contribs.any (fun c => c.id = id && !c.targets.isEmpty))

/-- Whether an access of Before(F) still holds a fence (R241, R244): a store is performed at CELL once it is issued. -/
def Fence.awaits (q : Fence) (a : Access) : Bool :=
  !(q.scope = .cell && a.op.isStore && (match a.phase with
    | .fenced _ => false
    | _ => true))

/-- Whether something of Before(F) has still to perform on its die. -/
def State.fenceOwes (s : State) (q : Fence) : Bool :=
  q.before.any (fun i => s.accesses.any (fun a => a.id = i && q.awaits a) || s.queuePending i || s.treePending q.firing.die i)

/-- A fence of a frame in its cell put up (R244, R382). -/
def State.putFence (s : State) (f : Firing) (kind : FenceKind) (scope : Scope) (targets : List Target) (andThen : FenceThen)
    (pool : Pool) : State :=
  let (id, s) := s.newId
  let before := (s.accesses.filter (fun a => a.firing.cell = f.cell && a.firing.region = f.region && a.firing.frm = f.frm &&
    kind.waits a.op)).map (fun a => a.id)
  let own := ((s.cell f.cell).ownReads.filter (fun p => p.1 = f.region && p.2.1 = f.frm && scope ≠ .cell)).map (fun p => p.2.2)
  let before := before ++ own ++ s.queueBefore f kind ++ s.treeBefore f
  let q : Fence := { id := id, firing := f, kind := kind, scope := scope, targets := targets, before := before,
                     andThen := andThen, pool := pool }
  s.updCell f.cell (fun c => { c with fences := c.fences ++ [q] })

/-- A FENCE: L to T0 and T1 when it completes (R382). -/
def State.fenceForm (s : State) (pd : Pd) (kind : FenceKind) (scope : Scope) (t1 t0 : Target) : Result :=
  s.fire pd fun f s =>
    s.startLate f [t0, t1] f.valL.len false fun _ s => s.putFence f kind scope [t0, t1] .send .none

/-- FENCE.ACQ (R244). -/
def execFenceAcq (pd : Pd) (scope : Scope) (t1 t0 : Target) (s : State) : Result := s.fenceForm pd .acq scope t1 t0

/-- FENCE.REL (R244). -/
def execFenceRel (pd : Pd) (scope : Scope) (t1 t0 : Target) (s : State) : Result := s.fenceForm pd .rel scope t1 t0

/-- FENCE.FULL (R244). -/
def execFenceFull (pd : Pd) (scope : Scope) (t1 t0 : Target) (s : State) : Result := s.fenceForm pd .full scope t1 t0

end Sys2Proof.Machine
end

