-- ==== Sys2Proof/Machine/PortEvents.lean ====
section
/-!
DEFINITION. The steps of the port cores, home slices and host port (R217 to R230, R237, R238, R241, R253 to R255, R379):
accesses that arrive, wait and perform, responses, acknowledgements, rounds and tile transfers.
-/

namespace Sys2Proof.Machine

/-- The access that a step names, in a phase. -/
def State.accessIn (s : State) (p : Phase → Bool) : Option Access :=
  s.accesses.find? (fun a => a.id = s.sch.args.id && p a.phase)

/-- An access at its turn: performed, or begun (R221, R378, R379, R380). A passed position may be the last request of a returned
frame (R315 step 4). -/
def State.performAccess (s : State) (a : Access) (ue : Bool) : State :=
  match a.op with
  | .skip => ((s.dropAccess a.id).advance a).settleFrame a.firing.region a.firing.frm
  | .mnop last => s.passRank a last
  | .ldt j => s.moveTile a j false false
  | .stt j retain => s.moveTile a j true retain
  | _ => s.performElement a ue

/-! ## Arrival and wave order (R221) -/

/-- The positions that an access brings to its port core. -/
def Access.positions (a : Access) : List Nat :=
  match a.wseq, a.op with
  | none, _ => []
  | some w, .mnop last => (List.range (last + 1 - a.pos)).map (fun i => (w + i) % 2 ^ 32)
  | some w, _ => [w]

/-- Whether a position is held already or lies below NEXTW (R221, R378). -/
def State.taken (s : State) (a : Access) (w : Nat) : Bool :=
  decide (2 ^ 31 ≤ (w + 2 ^ 32 - (s.wave a).nextw.toNat) % 2 ^ 32) ||
  s.accesses.any (fun b => b.id ≠ a.id && a.sameStream b && b.holds w)

/-- Whether an access can be held: its stream has a wave window, or its AGN has one of four free (R221). -/
def State.windowFree (s : State) (a : Access) : Bool :=
  let held := s.accesses.filter (fun b => b.phase = .held && b.firing.region = a.firing.region && b.port = a.port)
  held.any (fun b => a.sameStream b) || decide ((distinct (held.map (fun b => b.firing.frm))).length < 4)

/-- What a port core does with an access that reaches it (R221). -/
inductive Arrival where
  | perform | hold | refuse | duplicate
  deriving DecidableEq, Repr

/-- What becomes of an access that reaches its port core (R221). -/
def State.arrival (s : State) (a : Access) : Arrival :=
  match a.wseq with
  | none => .perform
  | some w =>
    let n := (s.wave a).nextw.toNat
    if a.positions.any (s.taken a) then .duplicate
    else if w = n then .perform
    else if (w + 2 ^ 32 - n) % 2 ^ 32 < 32 && s.windowFree a then .hold
    else .refuse

/-- Whether an access's refusal waits on its way until its cell's retry buffer of 32 entries has room (R221, log 51). -/
def State.refusalWaits (s : State) (a : Access) : Bool := s.arrival a = .refuse && decide (32 ≤ s.retries a.firing.cell)

/-- An access that reaches its port core (R221): performed, held, refused into its cell's retry buffer, or a duplicate. -/
def State.arrive (s : State) (a : Access) (ue : Bool) : State :=
  match s.arrival a with
  | .perform => s.performAccess a ue
  | .duplicate => s.duplicate a
  | .hold => s.updAccess a.id (fun b => { b with phase := .held })
  | .refuse => if s.refusalWaits a then s else s.updAccess a.id (fun b => { b with phase := .retry false })

/-- MEMORY_ACCESS_ARRIVAL (R221): the access `id` reaches its port core; `flag` where the line that the die holds proves
uncorrectable (R166). -/
def execMemoryAccessArrival (s : State) : Result :=
  match s.accessIn (· = .travel) with
  | none => .next s
  | some a => .next (s.arrive a s.sch.args.flag)

/-- HELD_ACCESS_PERFORM (R221): the held access `id` at NEXTW performs. -/
def execHeldAccessPerform (s : State) : Result :=
  match s.accessIn (· = .held) with
  | none => .next s
  | some a => .next (if a.wseq = some (s.wave a).nextw.toNat then s.performAccess a s.sch.args.flag else s)

/-- RETRY_REISSUE (R221): the cell issues a refused access again on its window notice. -/
def execRetryReissue (s : State) : Result :=
  match s.accessIn (· = .retry true) with
  | none => .next s
  | some a => .next (s.updAccess a.id (fun b => { b with phase := .travel }))

/-! ## Responses (R166, R199, R203, R379) -/

/-- A dirty line whose data proves uncorrectable as it is evicted (R166): DATA_LOST to its owner, and the line left as memory
has it. -/
def State.loseDirty (s : State) (line : Nat) : State :=
  match s.caches.find? (fun c => c.line = line && c.dirty) with
  | none => s
  | some c => ({ s with caches := s.caches.filter (fun d => d ≠ c) } : State).dataLost c

/-- A response landed in its cell: the register of an LDH, or tokens for its targets (R199, R379), with the cell cache's
line (R203), after which an older copy of that line that is still on its way is not allocated (R242). -/
def State.landResponse (s : State) (p : Response) : State :=
  let s := { s with responses := dropFirst (fun (q : Response) => q.id = p.id) s.responses }
  let s := match p.line with
    | some l =>
      let s := s.updCell p.firing.cell (fun c => c.cacheFill l)
      let older := fun (q : Response) => decide (q.id < p.id) && q.firing.cell = p.firing.cell && q.line.map CacheLine.va = some l.va
      { s with responses := s.responses.map (fun q => if older q then { q with line := none } else q) }
    | none => s
  let s := match p.hold with
    | none => s.land p.firing p.firing.acc.tag p.pool (p.targets.zip p.vals)
    | some h =>
      let s := s.updCell p.firing.cell (fun c => c.giveEntry p.firing.region p.pool)
      if (s.region p.firing.region).admission p.firing.x p.firing.y p.firing.acc.tag = Admission.drop then s
      else s.updCell p.firing.cell (fun c =>
        c.landHold p.firing.region p.firing.frm h (BitVec.ofNat 64 ((p.vals.headD {}).bits)))
  s.settleFrame p.firing.region p.firing.frm

/-- MEMORY_RESPONSE (R379): the response `id` lands; with `flag` the dirty line at DPA `offset` is evicted from its cache, and
its data proves uncorrectable (R166). -/
def execMemoryResponse (s : State) : Result :=
  let a := s.sch.args
  let s := if a.flag then s.loseDirty (a.offset / 64) else s
  match s.responses.find? (fun p => p.id = a.id) with
  | none => .next s
  | some p => .next (s.landResponse p)

/-! ## Home slices and copies (R237, R241, R253) -/

/-- An access granted at its line's home slice (R237, R241, R250, R253): a load takes a copy, a write the line's ownership,
and a system atomic waits until every other copy is gone. -/
def State.atHome (s : State) (a : Access) (ue : Bool) : State :=
  let die := a.core / 80
  let e := a.entry
  let addr := e.target a.va
  if !s.dieUp (s.homeDie e addr) || ue then s.memFault a .memUe a.va 0xFF
  else if !a.op.writes then s.performLoad a die
  else if s.acks.any (fun k => k.access = a.id) then s
  else if a.op.isSystem then
    let s := s.takeHome e die addr a.id
    if s.acks.any (fun k => k.access = a.id) then s
    else
      let q := s.effect a (s.homeBytes e addr a.size)
      q.1.respond a q.2 none
  else
    let s := s.takeLine e a.core addr a.id
    let q := s.effect a (s.homeBytes e addr a.size)
    q.1.respond a q.2 none

/-- HOME_SLICE_REQUEST (R237): the home slice serves the access `id`; `flag` where the line proves uncorrectable. -/
def execHomeSliceRequest (s : State) : Result :=
  match s.accessIn (· = .home) with
  | none => .next s
  | some a => .next (s.atHome a s.sch.args.flag)

/-- INVALIDATION_ACK (R237, R241): die `die` has invalidated its copy of the line that access `id` took; its answer reaches
the home slice. -/
def execInvalidationAck (s : State) : Result :=
  let a := s.sch.args
  match s.acks.find? (fun k => k.access = a.id && k.die = a.die) with
  | none => .next s
  | some k => .next { s with
      acks := dropFirst (fun q => q = k) s.acks
      caches := s.caches.filter (fun c => !(c.line = k.line && c.stale && holderDie c.holder = k.die)) }

/-! ## The host port (R238, R253 to R255) -/

/-- ATOMICOP_COMPLETION (R253, R254): the completer answers the system atomic `id`; `flag` for Unsupported Request or
Completer Abort. -/
def execAtomicopCompletion (s : State) : Result :=
  match s.accessIn (· = .host) with
  | none => .next s
  | some a =>
    if !a.op.isSystem then .next s
    else if s.sch.args.flag then .next (s.memFault a .sysAtomicUnsup a.va 0xFF)
    else
      let q := s.effect a (s.hostRead (a.entry.target a.va) a.size)
      .next (q.1.respond a q.2 none)

/-- HOST_READ_COMPLETION (R238, R255): the read of access `id` completes on the host port, `flag` where its data proves
uncorrectable (R166), or the zero-length read of fence
`id` in cell (`x`, `y`) of die `die`, behind every posted write of its region. -/
def execHostReadCompletion (s : State) : Result :=
  let g := s.sch.args
  match s.accessIn (· = .host) with
  | some a =>
    if a.op.isSystem then .next s
    else if g.flag then .next (s.memFault a .memUe a.va 0xFF)
    else
      let q := s.effect a (s.hostRead (a.entry.target a.va) a.size)
      let s := if a.op.writes then q.1.updRegion a.firing.region (fun r => { r with posted := true }) else q.1
      .next (s.respond a q.2 (s.lineFor a (a.core / 80)))
  | none =>
    let k := cellKey g.die g.x g.y
    match (s.cell k).fences.find? (fun q => q.id = g.id && q.hostRead) with
    | none => .next s
    | some q =>
      let s := s.updCell k (fun c => { c with fences := changeFirst (fun p => p.id = q.id) (fun p => { p with hostRead := false, readDone := true }) c.fences })
      .next (s.updRegion q.firing.region (fun r => { r with posted := false }))

/-- HOST_SNOOP (R238): the hub gives up the coherent host line at host address `offset`. -/
def execHostSnoop (s : State) : Result :=
  let line := 2 ^ 60 + s.sch.args.offset / 64
  .next { s with caches := s.caches.filter (fun c => c.line ≠ line) }

/-! ## Rounds, read-ahead and transfers (R218 to R228) -/

/-- The region and binding that a step names, while the region's rounds go on: not once it has stopped or ended (R172, R173, R322). -/
def State.bindingArg (s : State) : Option (Region × Binding) :=
  (s.region? s.sch.args.region).bind (fun r =>
    if r.ended || r.stop = .freeze || r.st = .frozen || r.st = .loading then none
    else (r.binding? s.sch.args.port).map (fun b => (r, b)))

/-- ROUND_START (R218, R219): the next start token of binding `port` of region `region` starts its round. -/
def execRoundStart (s : State) : Result :=
  match s.bindingArg with
  | none => .next s
  | some (r, b) => .next (if s.roundReady r b then s.startRound r b else s)

/-- PARAM_OVERWRITE (R219): the next PARAM token of binding `port` becomes its pending overwrite. -/
def execParamOverwrite (s : State) : Result :=
  match s.bindingArg with
  | none => .next s
  | some (r, b) =>
    let g := s.agn r b
    match g.params with
    | [] => .next s
    | a :: t =>
      .next (if g.pending.isSome then s
        else s.updAgn r b (fun g => { g with params := t, pending := some (BitVec.ofNat 64 ((a.l.getD {}).low 8)) }))

/-- READ_AHEAD (R220): the AGN of binding `port` reads the next element of its round ahead of demand; `flag` where its data proves
uncorrectable (R166, R381). -/
def execReadAhead (s : State) : Result :=
  match s.bindingArg with
  | none => .next s
  | some (r, b) => .next (if s.aheadReady r b then s.readAheadOne r b s.sch.args.flag else s)

/-- TILE_FILL_START (R205, R224): the waiting transfer `id` begins once its tiles allow it; with no such transfer, the next
tile of the round of binding `port` starts, and `flag` says that the row it fetches proves uncorrectable (R166). -/
def execTileFillStart (s : State) : Result :=
  match s.xfers.find? (fun x => x.id = s.sch.args.id && !x.begun) with
  | some x => .next (s.beginXfer x)
  | none =>
    match s.bindingArg with
    | none => .next s
    | some (r, b) => .next (if s.tileReadyToStart r b then s.startTile r b s.sch.args.flag else s)

/-- TILE_ROW_LAND (R205): the next row of fill `id` lands at its destinations; `flag` where its data proves uncorrectable (R166). -/
def execTileRowLand (s : State) : Result :=
  match s.xfers.find? (fun x => x.id = s.sch.args.id && x.begun && !x.faulted && x.kind = .fill) with
  | none => .next s
  | some x => .next ((s.updPort (s.xferCore x) (fun c => { c with turn := (s.xferOf x).2.agn })).landRow x s.sch.args.flag)

/-- TILE_DRAIN_COMPLETE (R205): the drain `id` completes. -/
def execTileDrainComplete (s : State) : Result :=
  match s.xfers.find? (fun x => x.id = s.sch.args.id && x.begun && !x.faulted && x.kind = .drain) with
  | none => .next s
  | some x => .next ((s.updPort (s.xferCore x) (fun c => { c with turn := (s.xferOf x).2.agn })).endDrain x)

/-- SPACE_TOKEN (R226, R356): the space token `id` is counted by the join unit; a full count permits the buffer's next tile. -/
def execSpaceToken (s : State) : Result :=
  match s.spaces.find? (fun t => t.id = s.sch.args.id) with
  | none => .next s
  | some t =>
    let s := { s with spaces := dropFirst (fun q => q.id = t.id) s.spaces }
    let r := s.region t.region
    let s := match r.binding? t.port with
      | none => s
      | some b => s.updAgn r b (fun g =>
          let n := look 0 g.joins t.buffer + 1
          if b.dests.length ≤ n then
            { g with joins := put 0 t.buffer 0 g.joins, busyBufs := g.busyBufs.filter (· ≠ t.buffer) }
          else { g with joins := put 0 t.buffer n g.joins })
    match t.reply with
    | none => .next s
    | some q => .next (s.land q.1 q.1.acc.tag .none (q.2.map fun d => (d, Val.of 4 0)))

end Sys2Proof.Machine
end

