-- ==== Sys2Proof/Machine/Hub.lean ====
section
/-!
DEFINITION. The hub's notices and tables: module events (R89), context descriptors (R77, R92, R153), chain entries and
tails (R91, R93, R94), halts (R99), and fault records that a chain raises (R107, R155, R157).
-/

namespace Sys2Proof.Machine

/-! ## Module events (R89) -/

/-- One record of the event ring written, and vector 0 sent. -/
def State.writeEvent (s : State) (code unit detail : Nat) : State :=
  let h := s.hub
  let a := h.evtBase.toNat * 4096 + 16 * (h.evtTail.toNat % 256)
  let bs := toBytes 2 code ++ toBytes 2 unit ++ toBytes 4 detail ++ toBytes 8 h.cycles.toNat
  let s := s.hostWrite a bs
  ({ s with hub := { s.hub with evtTail := s.hub.evtTail + 1 } }).sendVector 0

/-- Whether the event ring holds 256 records (R89). -/
def State.eventsFull (s : State) : Bool := s.hub.evtTail - s.hub.evtHead = 256

/-- A module event (R89): written, or counted in HUB_EVT_LOST. The first event written after a loss follows a record
0x0006 of that loss (log 17). -/
def State.event (s : State) (code unit detail : Nat) : State :=
  let s := if s.hub.evtOver && !s.eventsFull then
      let s := s.writeEvent 0x0006 8 s.hub.evtLost.toNat
      { s with hub := { s.hub with evtOver := false } }
    else s
  if s.eventsFull then { s with hub := { s.hub with evtLost := satInc s.hub.evtLost, evtOver := true } }
  else s.writeEvent code unit detail

/-! ## Context descriptors (R77) -/

/-- Whether a context has a valid descriptor. -/
def State.descValid (s : State) (ctx : Nat) : Bool :=
  match (s.ctx ctx).desc with
  | none => false
  | some d => !d.bad

/-! ## Chains (R91, R93, R107) -/

/-- A chain of a context. -/
def State.chain (s : State) (ctx c : Nat) : Chain := look {} (s.ctx ctx).chains c

/-- A chain changed. -/
def State.updChain (s : State) (ctx c : Nat) (f : Chain → Chain) : State :=
  s.updCtx ctx (fun q => { q with chains := upd {} c f q.chains })

/-- The kind of a chain's engine: that of its entry, else 0. -/
def Chain.kind (c : Chain) : Nat := (c.entry.map ChainEntry.kind).getD 0

/-- Whether a chain runs on the launch engine or a bulk copy engine (R109). -/
def Chain.systemScope (c : Chain) : Bool := c.kind ≤ 1

/-- WHERE in form E (R107). -/
def State.whereE (s : State) (ctx c : Nat) : Word :=
  let e := ((s.chain ctx c).entry).getD {}
  BitVec.ofNat 32 (e.kind * 2 ^ 28 + e.index * 2 ^ 16 + c)

/-- A record that a chain raises (R156, R157), with CYCLE of the hub clock. -/
def State.chainFault (s : State) (ctx c : Nat) (cls : FaultClass) (bodyA bodyB : Nat) : State :=
  s.putFault { cls := cls, ctx := ctx, loc := s.whereE ctx c, bodyA := bodyA, bodyB := bodyB, cycle := s.hub.cycles }

/-- Body A of a translation fault of an engine (R157): access code, VA and walk level. -/
def engineBody (access va level : Nat) : Nat := access * 2 ^ 24 + va % 2 ^ 64 * 2 ^ 32 + level % 256 * 2 ^ 128

/-- Whether a chain table entry's words break R91's layout. -/
def entryBad (c w0 w1 w2 w3 : Nat) : Bool :=
  let kind := bits w0 63 60
  let index := bits w0 59 48
  !bit w0 0 || bits w0 45 1 ≠ 0 || bits w0 47 46 = 3 || bits w1 63 57 ≠ 0 || bits w1 5 0 ≠ 0 || w2 ≠ 0 || w3 ≠ 0 ||
  decide (3 < kind) || (kind = 0) != (c = 0) ||
  !decide (index < (if kind = 0 then 1 else if kind = 1 then 16 else if kind = 2 then 18 else 640))

/-- The chain table entry of a chain read and checked (R91). -/
def State.readEntry (s : State) (ctx c : Nat) : State :=
  match (s.ctx ctx).desc with
  | none => s
  | some d =>
    let w := fun i => ofBytes (s.devRead none (d.chtab + 32 * c + 8 * i) 8)
    let e : ChainEntry := { kind := bits (w 0) 63 60, index := bits (w 0) 59 48, note := Note.ofCode (bits (w 0) 47 46),
                            start := bits (w 1) 56 0 }
    let off := e.kind = 3 && (!s.dieUp (e.index / 80) || (s.portCore e.index).off)
    s.updChain ctx c (fun q =>
      { q with entry := some e, invalid := entryBad c (w 0) (w 1) (w 2) (w 3) || off, nextVa := e.start })

/-- A tail offered to a chain (R91, R93, R94). The entry is read when TAIL first rises above 0; a chain that is INVALID
leaves TAIL unchanged and raises CMD_FORMAT. A context whose descriptor is invalid has a launch chain only, whose launches are
refused (R77). -/
def State.offerTail (s : State) (ctx c : Nat) (v : Dword) : State :=
  let s := s.holdDesc ctx
  match (s.ctx ctx).desc with
  | none => s
  | some d =>
    if d.bad && c ≠ 0 then s else
    let first := (s.chain ctx c).entry.isNone || ((s.chain ctx c).tail = 0 && !(s.chain ctx c).invalid)
    let s := if first && decide (0 < v.toNat) then s.readEntry ctx c else s
    if (s.chain ctx c).invalid then s.chainFault ctx c .cmdFormat 0 0
    else s.updChain ctx c (fun q => if q.tail.toNat < v.toNat then { q with tail := v } else q)

/-- STATUS of a record written to its word 0 (R95, R99); a write that does not translate is lost (log 19). -/
def State.writeStatus (s : State) (ctx va status : Nat) : State := (s.vaWrite ctx va (toBytes 2 status)).1

/-- A record of a chain, by ordinal. -/
def Chain.rcd? (c : Chain) (ordinal : Nat) : Option CmdRec := c.recs.find? (fun r => r.ordinal = ordinal)

/-- A record of a chain changed. -/
def State.updRcd (s : State) (ctx c ordinal : Nat) (f : CmdRec → CmdRec) : State :=
  s.updChain ctx c (fun q => { q with recs := changeFirst (fun r => r.ordinal = ordinal) f q.recs })

/-- A chain halted at a record (R99): its STATUS written where the record could be read, and the fault record placed. -/
def State.halt (s : State) (ctx c ordinal : Nat) (va : Option Nat) (status : Nat) (cls : FaultClass) (bodyA : Nat) : State :=
  let s := match va with
    | some va => s.writeStatus ctx va status
    | none => s
  let s := s.updRcd ctx c ordinal (fun r => { r with status := status })
  let s := s.updChain ctx c (fun q => { q with halted := some (match q.halted with
    | some h => min h ordinal
    | none => ordinal) })
  s.chainFault ctx c cls bodyA ordinal

/-- Body A of CMD_FORMAT and CMD_ENGINE (R157). -/
def statusBody (status : Nat) : Nat := status

/-- Whether a record is in progress (R97, R100): started, not complete and not halted. -/
def CmdRec.running (r : CmdRec) : Bool := r.started && !r.complete && decide (r.status < 0x8000)

/-- Records in progress (R97, R100). -/
def Chain.inflight (c : Chain) : Nat := (c.recs.filter CmdRec.running).length

/-- Whether TL of a context's chain has reached a value. -/
def State.tlReached (s : State) (ctx c v : Nat) : Bool := decide (v ≤ (s.chain ctx c).tl.toNat)

/-- Whether a record's start conditions ORD and WEN hold (R97). -/
def State.mayStart (s : State) (ctx c : Nat) (r : CmdRec) : Bool :=
  (!bit r.bits 55 || s.tlReached ctx c (r.ordinal - 1)) &&
  (!bit r.bits 47 || s.tlReached ctx (bits r.bits 46 41) (bits r.bits 127 64))

/-- The next record of a chain to start. -/
def Chain.nextRec (c : Chain) : Option CmdRec := c.recs.find? (fun r => !r.started && !r.complete)

/-- STATE of HUB_CHAIN_STAT (R100): 0 IDLE, 1 RUNNING, 2 WAITING, 3 HALTED. -/
def State.chainState (s : State) (ctx c : Nat) : Nat :=
  let q := s.chain ctx c
  if q.halted.isSome then 3
  else match q.nextRec with
    | some r => if s.mayStart ctx c r then 1 else 2
    | none => if q.walked.toNat < q.tail.toNat || q.recs.any CmdRec.running || q.tl ≠ q.walked then 1 else 0

/-! ## Events of the tails -/

/-- The value of an offset of BAR2 (R73, R94): TAIL of chains 0 to 7 of each context; reserved offsets read as 0. -/
def State.tailAt (s : State) (offset : Nat) : Nat :=
  if offset < 65536 then (s.chain (offset / 64) (offset % 64 / 8)).tail.toNat else 0

/-- TAIL_WRITE (R73, R94): the host writes `value` to the BAR2 tail of chain `chain` (0 to 7) of context `ctx`. -/
def execTailWrite (s : State) : Result :=
  let a := s.sch.args
  .next (if a.chain < 8 && a.ctx < 1024 then s.offerTail a.ctx a.chain a.value else s)

end Sys2Proof.Machine
end

