-- ==== Sys2Proof/Machine/Chains.lean ====
section
/-!
DEFINITION. Hardware queues (R103 to R108, R387, R388) and the timeline counters (R97 to R99): queue operations as they
arrive, perform, wait and expire, and TL as it rises with its PUSH, REL, counter write and vectors.
-/

namespace Sys2Proof.Machine

/-! ## Queues -/

/-- A hardware queue of a context. -/
def State.hwq (s : State) (ctx q : Nat) : HwQueue := look {} (s.ctx ctx).queues q

/-- A hardware queue changed. -/
def State.updHwq (s : State) (ctx q : Nat) (f : HwQueue → HwQueue) : State :=
  s.updCtx ctx (fun c => { c with queues := upd {} q f c.queues })

/-- The queue table entry of a queue read and checked (R104); HEAD and TAIL start at 0 (R103). -/
def State.readQueueEntry (s : State) (ctx q : Nat) : State :=
  match (s.ctx ctx).desc with
  | none => s
  | some d =>
    let w := fun i => ofBytes (s.devRead none (d.qtab + 32 * q + 8 * i) 8)
    let n := bits (w 0) 62 58
    let ok := bit (w 0) 63 && decide (1 ≤ n) && decide (n ≤ 16) && !bit (w 0) 57 && bits (w 0) 11 0 = 0 &&
      w 1 = 0 && w 2 = 0 && w 3 = 0 && !d.bad
    s.updHwq ctx q (fun h => { h with
      read := true, entry := if ok then some (n, bits (w 0) 56 0) else none, head := 0, tail := 0 })

/-- The code of a queue operation in a record (R107). -/
def QKind.code : QKind → Nat
  | .push => 0
  | .pop => 1
  | .peek => 2
  | .enginePush => 3

/-- Bytes of a queue operation's result (R387). -/
def QKind.resultLen : QKind → Nat
  | .push | .enginePush => 8
  | _ => 32

/-- A fault of a queue operation (R104, R105, R107): the frame of an instruction stops with the accord as its trap accord;
an engine's push leaves the record alone. -/
def State.queueFault (s : State) (o : QOp) (cls : FaultClass) (bodyA : Nat) : State :=
  if o.kind = .enginePush then
    s.putFault { cls := cls, ctx := o.ctx, loc := s.whereE o.ctx o.chain, bodyA := bodyA, cycle := s.hub.cycles,
                 bodyB := o.ordinal }
  else
    let s := s.dropLate o.firing o.targets o.kind.resultLen o.pool
    let rcd : FaultRec := { cls := cls, ctx := o.ctx, tag := o.firing.acc.tag, loc := o.firing.where_, bodyA := bodyA,
                            cycle := s.hub.cycles }
    s.updDie o.firing.die (fun d => { d with
      reports := d.reports ++ [{ region := o.firing.region, frm := o.firing.frm, accord := some o.firing, rcd := rcd }] })

/-- Body A of a queue record (R107). -/
def QOp.body (o : QOp) (lim head tail : Nat) : Nat :=
  o.queue + o.kind.code * 2 ^ 8 + lim * 2 ^ 16 + head * 2 ^ 32 + tail * 2 ^ 96

/-- A translation fault of an engine's task record or ring (R99): the chain halts at the record. -/
def State.pushHalt (s : State) (ctx c ordinal access va : Nat) (e : FaultClass × Nat) : State :=
  s.halt ctx c ordinal (((s.chain ctx c).rcd? ordinal).map CmdRec.va) 0x8003 e.1 (engineBody access va e.2)

/-- The record of an engine's push is done with its push. -/
def State.pushDone (s : State) (o : QOp) : State :=
  if o.kind = .enginePush then s.updRcd o.ctx o.chain o.ordinal (fun r => { r with pushed := true }) else s

/-- A queue operation performed (R105, R387): the record stored or read, the counts moved, the result sent. -/
def State.queuePerform (s : State) (o : QOp) (n base : Nat) : State :=
  let q := s.hwq o.ctx o.queue
  let write := o.kind = .push || o.kind = .enginePush
  let i := if write then q.tail.toNat else q.head.toNat
  let va := base + 32 * (i % 2 ^ n)
  let broken := fun (s : State) (access : Nat) (e : FaultClass × Nat) =>
    if o.kind = .enginePush then s.pushHalt o.ctx o.chain o.ordinal access va e
    else s.queueFault o e.1 (engineBody access va e.2)
  if write then
    match s.vaWrite o.ctx va (toBytes 32 o.rcd) with
    | (s, some e) => broken s 1 (e.1, e.2.1)
    | (s, none) =>
      let s := (s.updHwq o.ctx o.queue (fun h => { h with tail := h.tail + 1 })).pushDone o
      if o.kind = .enginePush then s
      else s.land o.firing o.firing.acc.tag o.pool (o.targets.map (fun t => (t, Val.of 8 i)))
  else
    match s.vaNum o.ctx va 32 with
    | .error e => broken s 0 e
    | .ok (v, s) =>
      let s := if o.kind = .pop then s.updHwq o.ctx o.queue (fun h => { h with head := h.head + 1 }) else s
      s.land o.firing o.firing.acc.tag o.pool (o.targets.map (fun t => (t, Val.of 32 v)))

/-- The waiting operations of a queue that can be performed, oldest first (R105); `fuel` bounds them. -/
def State.serveQueue (s : State) (ctx qn : Nat) : Nat → State
  | 0 => s
  | fuel + 1 =>
    let q := s.hwq ctx qn
    match q.entry with
    | none => s
    | some (n, base) =>
      match q.pushes, q.pops with
      | o :: t, _ =>
        if (q.tail - q.head).toNat < 2 ^ n then
          ((s.updHwq ctx qn (fun h => { h with pushes := t })).queuePerform o n base).serveQueue ctx qn fuel
        else
          match q.pops with
          | p :: t => ((s.updHwq ctx qn (fun h => { h with pops := t })).queuePerform p n base).serveQueue ctx qn fuel
          | [] => s
      | [], p :: t =>
        if q.head ≠ q.tail then
          ((s.updHwq ctx qn (fun h => { h with pops := t })).queuePerform p n base).serveQueue ctx qn fuel
        else s
      | [], [] => s

/-- An operation that arrives at its queue (R104, R105): Q_INVALID, or behind the waiting ones and served. -/
def State.queueArrive (s : State) (o : QOp) : State :=
  let s := s.holdDesc o.ctx
  let s := if (s.hwq o.ctx o.queue).read then s else s.readQueueEntry o.ctx o.queue
  let o := { o with arrived := s.hub.cycles.toNat }
  let q := s.hwq o.ctx o.queue
  if q.entry.isNone then (s.queueFault o .qInvalid (o.body 0 0 0)).pushDone o
  else
    let s := s.updHwq o.ctx o.queue (fun h =>
      if o.kind = .push || o.kind = .enginePush then { h with pushes := h.pushes ++ [o] } else { h with pops := h.pops ++ [o] })
    s.serveQueue o.ctx o.queue (q.pushes.length + q.pops.length + 1)

/-! ## The timeline (R97, R98) -/

/-- The last ordinal up to which every record of a chain has completed. -/
def Chain.reached (c : Chain) : Nat :=
  c.recs.foldl (fun b r => if r.ordinal = b + 1 && r.complete && c.halted ≠ some r.ordinal then r.ordinal else b) c.tl.toNat

/-- Whether a record asks for a PUSH or REL that has not been done (R98 step 1). -/
def CmdRec.owes (r : CmdRec) : Bool := (bit r.bits 53 || bit r.bits 52) && !r.pushed

/-- Whether an engine's push of a record waits in a queue. -/
def State.pushWaits (s : State) (ctx c ordinal : Nat) : Bool :=
  (s.ctx ctx).queues.any (fun q => q.2.pushes.any (fun o => o.kind = .enginePush && o.chain = c && o.ordinal = ordinal))

/-- PUSH or REL of a record (R98 step 1). A task record on a host page gives HOSTPAGE on a block-transfer or collective chain, and is not
pushed (R99). -/
def State.afterRecord (s : State) (ctx c : Nat) (r : CmdRec) : State :=
  let w := bits r.bits 511 448
  if bit r.bits 53 && decide (2 ≤ (s.chain ctx c).kind) && s.touchesHost ctx (bits w 56 0) 32 false then
    (s.writeStatus ctx r.va 0x8008).updRcd ctx c r.ordinal (fun r => { r with pushed := true, status := 0x8008 })
  else if bit r.bits 53 then
    match s.vaNum ctx (bits w 56 0) 32 with
    | .error e => s.pushHalt ctx c r.ordinal 0 (bits w 56 0) e
    | .ok (v, s) =>
      s.queueArrive { kind := .enginePush, ctx := ctx, queue := bits w 61 57, rcd := v, lim := 20, chain := c, ordinal := r.ordinal }
  else
    let s := if s.rel.ctx.toNat = ctx then { s with rel := { s.rel with reports := s.rel.reports ++ [w] } } else s
    s.updRcd ctx c r.ordinal (fun r => { r with pushed := true })

/-- TL set, the counter written and the vectors sent (R98 steps 2 and 3). -/
def State.raiseTl (s : State) (ctx c b : Nat) : State :=
  let q := s.chain ctx c
  let irqs := (q.recs.filter (fun r => decide (r.ordinal ≤ b) && bit r.bits 54)).length
  let s := s.updChain ctx c (fun q => { q with tl := BitVec.ofNat 64 b, recs := q.recs.filter (fun r => decide (b < r.ordinal)) })
  match (s.ctx ctx).desc with
  | none => s
  | some d =>
    let s := (s.vaWrite ctx (d.tlbase + 8 * c) (toBytes 8 b)).1
    (List.range irqs).foldl (fun s _ => s.sendVector d.vec) s

/-- One move of a chain's timeline: the next PUSH or REL, or the rise of TL when none is owed. -/
def State.advanceTl (s : State) (ctx c : Nat) : State :=
  let q := s.chain ctx c
  let b := q.reached
  if b ≤ q.tl.toNat then s
  else
    match q.recs.find? (fun r => decide (r.ordinal ≤ b) && r.owes) with
    | some r => if s.pushWaits ctx c r.ordinal then s else s.afterRecord ctx c r
    | none => s.raiseTl ctx c b

/-- Every chain of a context moved as far as it goes; `fuel` bounds the moves. -/
def State.settleN (s : State) (ctx : Nat) : Nat → State
  | 0 => s
  | fuel + 1 => (((s.ctx ctx).chains.map Prod.fst).foldl (fun s c => s.advanceTl ctx c) s).settleN ctx fuel

/-- The timelines of a context moved as far as they go. -/
def State.settleChains (s : State) (ctx : Nat) : State :=
  s.settleN ctx (2 * sumOf ((s.ctx ctx).chains.map (fun q => q.2.recs.length)) + 1)

/-- A record completed with a STATUS (R97 to R99): RELOWN takes the place of OK for a REL that its context may not make. -/
def State.completeRec (s : State) (ctx c ordinal status : Nat) : State :=
  match (s.chain ctx c).rcd? ordinal with
  | none => s
  | some r =>
    let status := if status = 1 && bit r.bits 52 && s.rel.ctx.toNat ≠ ctx then 0x8006 else status
    let s := s.writeStatus ctx r.va status
    (s.updRcd ctx c ordinal (fun r => { r with started := true, complete := true, status := status })).settleChains ctx

/-! ## The instructions (R387) -/

/-- A queue operation of a firing sent to the hub, behind the earlier ones of its cell. -/
def State.queueForm (s : State) (pd : Pd) (kind : QKind) (k lim : Nat) (t0 : Target) (rcd : Firing → Nat) : Result :=
  s.fire pd fun f s => s.startLate f [t0] kind.resultLen true fun pool s =>
    let (id, s) := s.newId
    { s with hub := { s.hub with qreqs := s.hub.qreqs ++ [{
        id := id, kind := kind, ctx := tagCtx f.acc.tag, queue := k, rcd := rcd f, lim := lim, firing := f, targets := [t0],
        pool := pool }] } }

/-- QPUSH: the 32-byte record L pushed to queue qK; T0 takes its index (R387). -/
def execQpush (pd : Pd) (k lim : BitVec 5) (t0 : Target) (s : State) : Result :=
  s.queueForm pd .push k.toNat lim.toNat t0 fun f => f.l 32

/-- QPOP: the oldest record of queue qK (R387). -/
def execQpop (pd : Pd) (k lim : BitVec 5) (t0 : Target) (s : State) : Result :=
  s.queueForm pd .pop k.toNat lim.toNat t0 fun _ => 0

/-- QPEEK: the oldest record of queue qK, left in place (R387). -/
def execQpeek (pd : Pd) (k lim : BitVec 5) (t0 : Target) (s : State) : Result :=
  s.queueForm pd .peek k.toNat lim.toNat t0 fun _ => 0

/-! ## Events of the queues -/

/-- Whether an outstanding fence of its frame holds a queue operation fired after it in its cell (R244, R245): a push as a store, a pop
or peek as a load. -/
def State.queueHeld (s : State) (o : QOp) : Bool :=
  (s.cell o.firing.cell).fences.any (fun q => q.firing.region = o.firing.region && q.firing.frm = o.firing.frm && q.id < o.id &&
    (o.kind = .push || q.kind ≠ .rel))

/-- QUEUE_REQUEST (R104, R105, R245): the operation `id` reaches the hub, no fence holding it and no earlier one of its cell being still
on its way. -/
def execQueueRequest (s : State) : Result :=
  match s.hub.qreqs.find? (fun o => o.id = s.sch.args.id) with
  | none => .next s
  | some o =>
    match s.hub.qreqs.find? (fun p => p.firing.cell = o.firing.cell && !s.queueHeld p) with
    | none => .next s
    | some p =>
      if p.id ≠ o.id then .next s else
      let s := { s with hub := { s.hub with qreqs := dropFirst (fun p => p.id = o.id) s.hub.qreqs } }
      .next ((s.queueArrive o).settleChains o.ctx)

/-- The waiting operations of a queue without those that `p` holds of. -/
def HwQueue.without (q : HwQueue) (p : QOp → Bool) : HwQueue :=
  { q with pushes := q.pushes.filter (fun o => !p o), pops := q.pops.filter (fun o => !p o) }

/-- QWAIT_EXPIRY (R105, R107): the waiting operation `id` of queue `queue` of context `ctx` has waited out its bound. -/
def execQwaitExpiry (s : State) : Result :=
  let a := s.sch.args
  let q := s.hwq a.ctx a.queue
  match (q.pushes ++ q.pops).find? (fun o => o.id = a.id && o.kind ≠ .enginePush && decide (o.arrived + 2 ^ o.lim ≤ s.hub.cycles.toNat)) with
  | none => .next s
  | some o =>
    let s := s.updHwq a.ctx a.queue (fun h => h.without (fun p => p.id = o.id && p.kind ≠ .enginePush))
    .next (s.queueFault o .qwait (o.body o.lim q.head.toNat q.tail.toNat))

/-- ENGINE_PUSH_EXPIRY (R105): the push of record `ordinal` of chain `chain` to queue `queue` has waited 2^20 hub cycles:
its STATUS becomes QFULL, and TL advances. -/
def execEnginePushExpiry (s : State) : Result :=
  let a := s.sch.args
  let q := s.hwq a.ctx a.queue
  match q.pushes.find? (fun o => o.kind = .enginePush && o.chain = a.chain && o.ordinal = a.ordinal &&
      decide (o.arrived + 2 ^ 20 ≤ s.hub.cycles.toNat)) with
  | none => .next s
  | some o =>
    let s := s.updHwq a.ctx a.queue (fun h => h.without (fun p => p.kind = .enginePush && p.chain = a.chain && p.ordinal = a.ordinal))
    let s := s.queueFault o .qwait (o.body 20 q.head.toNat q.tail.toNat)
    let s := match (s.chain a.ctx a.chain).rcd? a.ordinal with
      | some r => s.writeStatus a.ctx r.va 0x8007
      | none => s
    .next ((s.pushDone o).settleChains a.ctx)

/-- QUEUE_SELECT (R108): HEAD and TAIL of queue `queue` of context `ctx` latched. -/
def execQueueSelect (s : State) : Result :=
  let a := s.sch.args
  let q := s.hwq (a.ctx % 1024) (a.queue % 32)
  .next { s with hub := { s.hub with
    qHead := q.head, qTail := q.tail, qCtl := { s.hub.qCtl with ctx := BitVec.ofNat 10 a.ctx, queue := BitVec.ofNat 5 a.queue } } }

/-- QUEUE_RESET (R108): with both wait lists empty, HEAD and TAIL of queue `queue` become 0 and its entry is read again;
otherwise REFUSED. -/
def execQueueReset (s : State) : Result :=
  let a := s.sch.args
  let ctx := a.ctx % 1024
  let qn := a.queue % 32
  let q := s.hwq ctx qn
  let busy := !q.pushes.isEmpty || !q.pops.isEmpty
  let s := { s with hub := { s.hub with
    qCtl := { refused := busy, ctx := BitVec.ofNat 10 a.ctx, queue := BitVec.ofNat 5 a.queue } } }
  .next (if busy then s else s.updHwq ctx qn (fun h => { h with read := false, entry := none, head := 0, tail := 0 }))

/-- The queue operations of a firing that are not performed withdrawn (R388): the accords, and the state without them. -/
def State.withdrawQueue (s : State) (p : Firing → Bool) : List Firing × State :=
  let mine := fun (o : QOp) => o.kind ≠ .enginePush && p o.firing
  let waiting := s.hub.ctxs.flatMap (fun c => c.2.queues.flatMap (fun q => (q.2.pushes ++ q.2.pops).filter mine))
  let ops := waiting ++ s.hub.qreqs.filter mine
  let s := { s with hub := { s.hub with qreqs := s.hub.qreqs.filter (fun o => !mine o) } }
  let s := ops.foldl (fun s o => (s.updHwq o.ctx o.queue (fun h => h.without (fun p => p.id = o.id && mine p))).dropLate
    o.firing o.targets o.kind.resultLen o.pool) s
  (ops.map QOp.firing, s)

end Sys2Proof.Machine
end

