-- ==== Sys2Proof/Machine/Tree.lean ====
section
/-!
DEFINITION. The dies' reduction trees (R58 to R60, R117, R118, R389) and the collectives across modules (R61, R62, R394).
-/

namespace Sys2Proof.Machine

/-! ## Combining (R58, R59) -/

/-- Combine on one element, OP in the numbering of R96 (R58). -/
def combine1 (op a b : Nat) : Nat :=
  let si := fun (v : Nat) => signed 32 v
  match op with
  | 1 => (fp32.op2 .rn 0 (addNum .rn) (fp32.decode a) (fp32.decode b)).code
  | 2 => (fp32.pick false false a b).1
  | 3 => (fp32.pick true false a b).1
  | 4 => (a + b) % 2 ^ 32
  | 5 => if si a ≤ si b then a else b
  | 6 => if si b ≤ si a then a else b
  | 7 => a &&& b
  | 8 => a ||| b
  | 9 => a ^^^ b
  | _ => a

/-- Element `i` of a value. -/
def elem32 (v i : Nat) : Nat := v / 2 ^ (32 * i) % 2 ^ 32

/-- A value from its elements. -/
def ofElems (l : List Nat) : Nat := l.foldr (fun x v => x % 2 ^ 32 + 2 ^ 32 * v) 0

/-- Combine element by element over `e` elements (R59). -/
def combineVal (op e a b : Nat) : Nat := ofElems ((List.range e).map (fun i => combine1 op (elem32 a i) (elem32 b i)))

/-- Reduce (R59): the list split after its first ceil(n / 2) elements; `fuel` bounds the depth. -/
def reduceVals (op e : Nat) : Nat → List Nat → Nat
  | _, [] => 0
  | _, [v] => v
  | 0, v :: _ => v
  | fuel + 1, l =>
    let h := (l.length + 1) / 2
    combineVal op e (reduceVals op e fuel (l.take h)) (reduceVals op e fuel (l.drop h))

/-! ## Operations of a tree (R60, R118) -/

/-- e of a contribution (R58, R389). -/
def Contribution.elems (c : Contribution) : Nat := if c.op = 0 then 0 else c.val.len / 4

/-- An operation of a die's tree changed. -/
def State.updTree (s : State) (die id : Nat) (f : TreeOpn → TreeOpn) : State :=
  s.updDie die (fun d => { d with tree := changeFirst (fun o => o.id = id) f d.tree })

/-- TREE_SHAPE of one contribution (R60, R157, R167): its frame traps, and its result never lands. -/
def State.treeShape (s : State) (die : Nat) (o : TreeOpn) (c : Contribution) : State :=
  let first := o.contribs.headD c
  let s := if c.targets.isEmpty then s else s.dropLate c.firing c.targets (if c.coll.isSome then 4 else c.val.len) c.pool
  let rcd : FaultRec := { cls := .treeShape, ctx := o.ctx, tag := c.firing.acc.tag, loc := whereD die,
                          bodyA := o.group + first.op * 2 ^ 8 + first.elems * 2 ^ 16, cycle := (s.die die).netCycles,
                          bodyB := (s.region c.firing.region).handle }
  s.updDie die (fun d => { d with reports := d.reports ++ [{
    region := c.firing.region, frm := c.firing.frm, accord := if c.targets.isEmpty && c.coll.isSome then none else some c.firing,
    rcd := rcd }] })

/-- The chunk index of a COLLREC sent once its chunk has entered the tree (R394). -/
def State.sendEntered (s : State) (c : Contribution) : State :=
  match c.coll with
  | none => s
  | some q => s.land c.firing c.firing.acc.tag c.pool (c.targets.map (fun t => (t, Val.of 4 q.2.2)))

/-- A contribution without the chunk index that it has sent. -/
def Contribution.entered (c : Contribution) : Contribution := if c.coll.isSome then { c with targets := [], pool := .none } else c

/-- A contribution of a cell to its group (R60): to the first operation of the group that counts the cell among its members and has
none of it, or a new one, whose members are fixed now (R118). Contributions of two chains' COLLRECs, or of a COLLREC and a TREE, that meet
differ as if in OP: DESIGN CHOICE (log 52), R60 names OP and e alone. -/
def State.contribute (s : State) (die group : Nat) (note : Note) (c : Contribution) : State :=
  let (num, s) := s.newId
  let c := { c with id := num }
  let lacks := fun (o : TreeOpn) => o.group = group && o.members.contains (c.x, c.y) && !o.contribs.any (fun q => q.x = c.x && q.y = c.y)
  let g := look {} (s.die die).groups group
  let (id, s) := match (s.die die).tree.find? lacks with
    | some o => (o.id, s)
    | none =>
      let (id, s) := s.newId
      let members := sortBy (fun (a b : Nat × Nat) => decide (a.2 < b.2) || (a.2 = b.2 && decide (a.1 ≤ b.1))) g.members
      let o : TreeOpn := { id := id, group := group, ctx := g.ctx, note := note, members := members }
      (id, s.updDie die (fun d => { d with tree := d.tree ++ [o] }))
  match (s.die die).tree.find? (fun o => o.id = id) with
  | none => s
  | some o =>
    let same := o.contribs.all (fun q => q.op = c.op && q.elems = c.elems && (q.coll.map Prod.fst) = (c.coll.map Prod.fst))
    if o.bad then (s.updTree die id (fun o => { o with contribs := o.contribs ++ [c.entered] })).treeShape die o c
    else if !same then
      let all := o.contribs ++ [c]
      let s := s.updTree die id (fun o => { o with bad := true, active := false, contribs := all.map Contribution.entered })
      all.foldl (fun s q => s.treeShape die { o with contribs := all } q) s
    else if o.active then (s.updTree die id (fun o => { o with contribs := o.contribs ++ [c.entered] })).sendEntered c
    else s.updTree die id (fun o => { o with contribs := o.contribs ++ [c] })

/-- Whether a cell is a member of a group that a context owns (R117, R389). -/
def State.inGroup (s : State) (f : Firing) (group : Nat) : Bool :=
  let g := look {} (s.die f.die).groups group
  g.ctx = tagCtx f.acc.tag && g.members.contains (f.x, f.y)

/-- BARR and TREE (R389). -/
def State.treeForm (s : State) (pd : Pd) (op group len : Nat) (t0 : Target) (val : Firing → Val) : Result :=
  s.fire pd fun f s =>
    if !s.inGroup f group then s.takeTrap f .trap 0x3FF8 group
    else
      s.startLate f [t0] len true fun pool s =>
        s.contribute f.die group (s.noteOf f) { x := f.x, y := f.y, op := op, val := val f, targets := [t0], firing := f, pool := pool }

/-- BARR: L to T0 when every member of the group has contributed (R389). -/
def execBarr (pd : Pd) (group : BitVec 8) (t0 : Target) (s : State) : Result :=
  s.treeForm pd 0 group.toNat s.sch.cur.valL.len t0 fun f => f.valL

/-- L cut to 64 bytes (R189, R389). -/
def treeVal (f : Firing) : Val := let n := 4 * (min f.valL.len 64 / 4); Val.of n (f.valL.low n)

/-- TREE: the combined elements to T0 (R389). -/
def execTree (pd : Pd) (op : TreeOp) (group : BitVec 8) (t0 : Target) (s : State) : Result :=
  s.treeForm pd op.code group.toNat (treeVal s.sch.cur).len t0 treeVal

/-! ## Collectives (R61, R62, R394) -/

/-- The collective of a chain with an ordinal. -/
def State.coll? (s : State) (ctx chain ordinal : Nat) : Option Coll :=
  s.colls.find? (fun c => c.ctx = ctx && c.chain = chain && c.ordinal = ordinal)

/-- A collective changed. -/
def State.updColl (s : State) (ctx chain ordinal : Nat) (f : Coll → Coll) : State :=
  { s with colls := changeFirst (fun c => c.ctx = ctx && c.chain = chain && c.ordinal = ordinal) f s.colls }

/-- Chunks of a collective (R394): BARRIER has one. -/
def Coll.chunkCount (c : Coll) : Nat := max 1 (ceilDiv c.elems 16)

/-- The first element of shard s (R61); that of shard s + 1 is its end. -/
def Coll.shardAt (c : Coll) (i : Nat) : Nat := min c.elems (i * ceilDiv c.elems c.members.length)

/-- The dies that contribute. -/
def Coll.dies (c : Coll) : List Nat := (List.range 8).filter (fun d => bit c.dieMask d)

/-- Whether chunk k holds elements of shard i; the one chunk of BARRIER goes to every shard. -/
def Coll.inShard (c : Coll) (i k : Nat) : Bool :=
  let lo := c.shardAt i
  let hi := c.shardAt (i + 1)
  if c.elems = 0 then k = 0 else decide (16 * k < hi) && decide (lo < 16 * k + 16) && decide (lo < hi)

/-- The port of a module (group, number) that leads to another, 16 group + number (R54, R57). -/
def leadPort (g m n : Nat) : Nat :=
  if n / 16 = g then (n % 16 + 31 - m) % 16
  else
    let k := (n / 16 + 31 - g) % 16
    if m = k then 15 else (k + 31 - m) % 16

/-- The lowest-numbered link port of a module that a collective does not use (R61 step 2). -/
def freePort (g m : Nat) (members : List Nat) : Nat :=
  ((List.range 18).find? (fun p => !(members.filter (· ≠ 16 * g + m)).any (fun n => leadPort g m n = p))).getD 17

/-- The link collective engine that combines shard i (R61 step 2). -/
def State.engineFor (s : State) (c : Coll) (i : Nat) : Nat :=
  if i = c.rank then freePort s.ownGroup s.ownModule c.members else leadPort s.ownGroup s.ownModule (c.members.getD i 0)

/-- The endpoint of a link collective engine (R25). -/
def engineEp (p : Nat) : Nat := 8192 + 0x010 + p

/-- The engines to which the trees send chunk k (R61 step 1). -/
def State.enginesFor (s : State) (c : Coll) (k : Nat) : List Nat :=
  distinct (((List.range c.members.length).filter (fun i => c.inShard i k)).map (s.engineFor c))

/-- The chunk of a die at an engine. -/
def Coll.chunk? (c : Coll) (engine die k : Nat) : Option Val :=
  (c.chunks.find? (fun q => q.1 = engine && q.2.1 = die && q.2.2.1 = k)).map (fun q => q.2.2.2)

/-- Whether every chunk that a shard needs has come to its engine from every die. -/
def Coll.shardReady (c : Coll) (engine i : Nat) : Bool :=
  c.dies.all (fun d => ((List.range c.chunkCount).filter (c.inShard i)).all (fun k => (c.chunk? engine d k).isSome))

/-- Combine over a list in its order (R61). -/
def combineAll (op : Nat) : List Nat → Nat
  | [] => 0
  | v :: t => t.foldl (combine1 op) v

/-- The module's partial of a shard: the dies' chunks combined in die order (R61 step 2). -/
def Coll.partialOf (c : Coll) (engine i : Nat) : List Word :=
  (List.range (c.shardAt (i + 1) - c.shardAt i)).map (fun j =>
    let n := c.shardAt i + j
    BitVec.ofNat 32 (combineAll c.op (c.dies.map (fun d => elem32 ((c.chunk? engine d (n / 16)).getD {}).bits (n % 16)))))

/-- The owner's result: the partials combined in rank order (R61 step 3). -/
def Coll.result (c : Coll) : List Word :=
  (List.range (c.shardAt (c.rank + 1) - c.shardAt c.rank)).map (fun j =>
    BitVec.ofNat 32 (combineAll c.op ((List.range c.members.length).map (fun r => ((((c.partials.find? (fun q => q.1 = r)).map Prod.snd).getD []).getD j 0).toNat))))

/-- The owner's shard written once every partial has come (R61 step 3). -/
def State.finishColl (s : State) (c : Coll) (got : List Nat) : State :=
  if c.status.isSome || !(List.range c.members.length).all got.contains then s
  else
    let bs := c.result.flatMap (fun w => toBytes 4 w.toNat)
    if s.touchesHost c.ctx c.dst bs.length true then s.updColl c.ctx c.chain c.ordinal (fun c => { c with status := some 0x8008 })
    else
      match s.vaWrite c.ctx c.dst bs with
      | (s, some e) =>
        (s.halt c.ctx c.chain c.ordinal (((s.chain c.ctx c.chain).rcd? c.ordinal).map CmdRec.va) 0x8003 e.1
          (engineBody 1 e.2.2 e.2.1)).updColl c.ctx c.chain c.ordinal (fun c => { c with status := some 0x8003 })
      | (s, none) => s.updColl c.ctx c.chain c.ordinal (fun c => { c with status := some 1 })

/-- Elements of the own shard. -/
def Coll.own (c : Coll) : Nat := c.shardAt (c.rank + 1) - c.shardAt c.rank

/-- What has been combined of a rank's partial of the own shard; none before its first part. -/
def Coll.taken (c : Coll) (rank : Nat) : Option (List Word) := (c.partials.find? (fun q => q.1 = rank)).map Prod.snd

/-- What waits in the owner's engine of a rank's partial. -/
def Coll.waits (c : Coll) (rank : Nat) : Option (List Word) := (c.incoming.find? (fun q => q.1 = rank)).map Prod.snd

/-- The ranks whose partial of the own shard has been combined whole. -/
def Coll.have (c : Coll) : List Nat := (c.partials.filter (fun q => q.2.length = c.own)).map Prod.fst

/-- A partial of the own shard, or the next part of it, put into the owner's engine. -/
def Coll.putPartial (c : Coll) (rank : Nat) (ws : List Word) : Coll :=
  match c.waits rank with
  | none => { c with incoming := c.incoming ++ [(rank, ws)] }
  | some _ => { c with incoming := c.incoming.map (fun q => if q.1 = rank then (rank, q.2 ++ ws) else q) }

/-- How many elements of a rank may be combined now (R61 step 3, R62): as many as the rank before it has given. -/
def Coll.allowed (c : Coll) (rank : Nat) : Option Nat :=
  if rank = 0 then some c.own else (c.taken (rank - 1)).map List.length

/-- Whether the owner's engine can combine what waits of a rank. -/
def Coll.combines (c : Coll) (rank : Nat) : Bool :=
  match c.waits rank, c.allowed rank, c.taken rank with
  | some _, some _, none => true
  | some ws, some n, some t => !ws.isEmpty && decide (t.length < n)
  | _, _, _ => false

/-- What waits of a rank combined as far as it may be. -/
def Coll.combine (c : Coll) (rank : Nat) : Coll :=
  match c.waits rank, c.allowed rank with
  | some ws, some n =>
    let t := (c.taken rank).getD []
    let m := n - t.length
    { c with
      partials := c.partials.filter (fun q => q.1 ≠ rank) ++ [(rank, t ++ ws.take m)]
      incoming := c.incoming.map (fun q => if q.1 = rank then (rank, ws.drop m) else q) }
  | _, _ => c

/-- Token values put on the stream of a collective from an endpoint to an address, which is opened with the first of them. -/
def State.feedColl (s : State) (c : Coll) (k goal : Nat) (items : List (Nat × Nat × Val)) (final : Bool) : State :=
  s.feedStream k { dst := goal, cls := ((s.chain c.ctx c.chain).entry.getD {}).note, ord := true, ctx := c.ctx,
                   owner := .coll c.ctx c.chain c.ordinal } items final

/-- The packets of a partial (log 54): its elements in order, 64 to a packet, under the collective's CID as their tag. -/
def Coll.packets (c : Coll) (ws : List Word) : List (Nat × Nat × Val) :=
  (List.range (max 1 (ceilDiv ws.length 64))).map (fun i =>
    let part := (ws.drop (64 * i)).take 64
    (c.cid, 0, Val.of (4 * part.length) (ofBytes (part.flatMap (fun w => toBytes 4 w.toNat)))))

/-- The shards of a collective that are ready: the own one into the owner's engine, the others on streams to their owners' engines
(R61 step 2). -/
def State.moveColl (s : State) (ctx chain ordinal : Nat) : State :=
  match s.coll? ctx chain ordinal with
  | none => s
  | some c => (List.range c.members.length).foldl (fun (s : State) i =>
      match s.coll? ctx chain ordinal with
      | none => s
      | some c =>
        let e := s.engineFor c i
        if !c.shardReady e i then s
        else if i = c.rank then
          (if (c.waits i).isSome then s else s.updColl ctx chain ordinal (fun c => c.putPartial i (c.partialOf e i)))
        else if c.sent.any (fun q => q.1 = i) then s
        else
          let n := c.members.getD i 0
          let goal := netAddr (n % 16) 8 (0x010 + freePort (n / 16) (n % 16) c.members) + n / 16 * 2 ^ 18
          let ws := c.partialOf e i
          (s.updColl ctx chain ordinal (fun c => { c with sent := c.sent ++ [(i, ws)] })).feedColl c (engineEp e) goal (c.packets ws) true) s

/-- COLLREC: one chunk of the running COLL record of a chain contributed; T0 takes its index (R394). -/
def execCollrec (pd : Pd) (chain : BitVec 6) (t0 : Target) (s : State) : Result :=
  s.fire pd fun f s =>
    let ctx := tagCtx f.acc.tag
    let n := chain.toNat
    let q := s.chain ctx n
    let key := 64 * ctx + n
    let at_ := look 0 (s.cell f.cell).collCount key
    let o := at_ / 2 ^ 32
    let k := at_ % 2 ^ 32
    let cur := match s.coll? ctx n o with
      | some c => if k ≠ 0 then some (c, k) else none
      | none => none
    let next := (sortBy (fun (a b : Coll) => decide (a.ordinal ≤ b.ordinal))
      (s.colls.filter (fun c => c.ctx = ctx && c.chain = n && decide (o < c.ordinal)))).head?
    if q.entry.isSome && (q.kind ≠ 2 || q.invalid) then s.takeTrap f .trap 0x3FF9 n else
    match cur <|> next.map (fun c => (c, 0)) with
    | none => .next (s.putBack f)
    | some (c, k) =>
      if !bit c.dieMask f.die || !s.inGroup f c.group then s.takeTrap f .trap 0x3FF9 n else
      let e := min 16 (c.elems - 16 * k)
      s.startLate f [t0] 4 true fun pool s =>
        let s := s.updCell f.cell (fun cell => { cell with
          collCount := put 0 key (c.ordinal * 2 ^ 32 + if k + 1 = c.chunkCount then 0 else k + 1) cell.collCount })
        s.contribute f.die c.group (s.noteOf f) {
          x := f.x, y := f.y, op := c.op, val := Val.of (4 * e) (f.l 64 % 2 ^ (32 * e)), targets := [t0], firing := f, pool := pool,
          coll := some (n, c.ordinal, k) }

/-! ## Events of the tree -/

/-- TREE_OP_START (R60): the next waiting operation of die `die`, in note order and then arrival, takes one of the 16
places. -/
def execTreeOpStart (s : State) : Result :=
  let die := s.sch.args.die
  let d := s.die die
  let waiting := d.tree.filter (fun o => !o.active && !o.bad)
  match (sortBy (fun (a b : TreeOpn) => decide (a.note.code ≤ b.note.code)) waiting).head? with
  | none => .next s
  | some o =>
    if 16 ≤ (d.tree.filter (fun o => o.active)).length then .next s else
    let s := s.updTree die o.id (fun o => { o with active := true, contribs := o.contribs.map Contribution.entered })
    .next (o.contribs.foldl (fun s c => if c.targets.isEmpty then s else s.sendEntered c) s)

/-- Whether every member of an operation has contributed (R60, R118). -/
def TreeOpn.full (o : TreeOpn) : Bool := o.members.all (fun m => o.contribs.any (fun c => c.x = m.1 && c.y = m.2))

/-- Whether a fence holds the result of an operation (R244, R245, R389): one of a contribution's frame in its cell that was put up
before it, while the frame's region goes on. -/
def State.treeHeld (s : State) (o : TreeOpn) : Bool :=
  o.contribs.any (fun c => (s.region c.firing.region).stop = .none && (s.cell c.firing.cell).fences.any (fun q =>
    q.firing.region = c.firing.region && q.firing.frm = c.firing.frm && decide (q.id < c.id)))

/-- The result of an operation: Reduce over the contributions in member order (R59). -/
def TreeOpn.value (o : TreeOpn) : Nat :=
  let l := sortBy (fun (a b : Contribution) => decide (a.y < b.y) || (a.y = b.y && decide (a.x ≤ b.x))) o.contribs
  reduceVals (o.contribs.headD {}).op (o.contribs.headD {}).elems l.length (l.map (fun c => c.val.bits))

/-- A chunk sent by the root of a die's tree straight to the engines of its shards (R61 step 1), as a token of the stream from the die
scheduler's endpoint under the chunk's number as its tag (log 54). -/
def State.sendChunks (s : State) (die ctx chain ordinal k : Nat) (v : Val) : State :=
  match s.coll? ctx chain ordinal with
  | none => s
  | some c => (s.enginesFor c k).foldl (fun s e =>
      let fed := (((s.coll? ctx chain ordinal).map Coll.fed).getD []) ++ [(e, die, k)]
      let all := (List.range c.chunkCount).filter (fun k => (s.enginesFor c k).contains e)
      let final := decide (all.length ≤ (fed.filter (fun q => q.1 = e && q.2.1 = die)).length)
      (s.updColl ctx chain ordinal (fun c => { c with fed := fed })).feedColl c (1024 * die + 0x070) (s.epAddr (engineEp e)) [(k, 0, v)] final) s

/-- The result of an operation delivered to every member that contributed, or its chunk to the collective engines (R58, R60,
R61, R389). -/
def State.treeDeliver (s : State) (die : Nat) (o : TreeOpn) : State :=
  let v := o.value
  let c := o.contribs.headD {}
  match c.coll with
  | some q => s.sendChunks die o.ctx q.1 q.2.1 q.2.2 (Val.of (4 * c.elems) v)
  | none =>
    o.contribs.foldl (fun s c =>
      let val := if c.op = 0 then c.val else Val.of (4 * c.elems) v
      s.land c.firing c.firing.acc.tag c.pool (c.targets.map (fun t => (t, val)))) s

/-- TREE_RESULT (R58 to R60): the result of operation `id` of die `die` reaches its members; one that failed delivers none. -/
def execTreeResult (s : State) : Result :=
  let a := s.sch.args
  match (s.die a.die).tree.find? (fun o => o.id = a.id) with
  | none => .next s
  | some o =>
    if !o.full || !(o.active || o.bad) then .next s else
    let s := s.updDie a.die (fun d => { d with tree := dropFirst (fun q => q.id = o.id) d.tree })
    .next (if o.bad then s else s.treeDeliver a.die o)

/-- COLL_PARTIAL_RECEIVE (R61, R62): the owner's engine of record `ordinal` of chain `chain` of context `ctx` takes what has come of
rank `value`'s partial of the own shard, as far as the earlier ranks are combined; `flag` where the member's record differs in E, OP
or MEMBERS (R99). -/
def execCollPartialReceive (s : State) : Result :=
  let a := s.sch.args
  match s.coll? a.ctx a.chain a.ordinal with
  | none => .next s
  | some c =>
    let rank := a.value.toNat
    if c.members.length ≤ rank || c.have.contains rank || c.status.isSome then .next s
    else if a.flag then .next (s.updColl a.ctx a.chain a.ordinal (fun c => { c with status := some 0x8009 }))
    else if !c.combines rank then .next s
    else
      let c := c.combine rank
      .next ((s.updColl a.ctx a.chain a.ordinal (fun _ => c)).finishColl c c.have)

end Sys2Proof.Machine
end

