-- ==== Sys2Proof/Machine/Engines.lean ====
section
/-!
DEFINITION. The engine and system instructions of spec/19 (R391 to R402), the cell registers that they read (R208 to R210),
and the completion of fences (R244, R382).
-/

namespace Sys2Proof.Machine

/-! ## Registers (R16, R182, R208 to R210) -/

/-- CELL_FMT as a word (R208). -/
def CellFmt.word (c : CellFmt) : Nat :=
  bitOf c.set * 2 ^ 31 + bitOf c.bs * 2 ^ 30 + c.vfmt.toNat * 2 ^ 24 + c.afmt.toNat * 2 ^ 18 + c.bfmt.toNat * 2 ^ 12 +
  c.wa.toNat * 2 ^ 7 + c.wb.toNat

/-- The code of a bank mode (R200). -/
def modeCode : BankMode → Nat
  | .scratchpad => 0
  | .cache => 1
  | .fifo => 2
  | .compute => 3

/-- A bank's 16 bits of CELL_BANK (R209). -/
def Cell.bankBits (c : Cell) (k : Nat) : Nat :=
  let b := c.bank k
  modeCode b.mode * 2 ^ 14 + bitOf b.intlv * 2 ^ 13 + bitOf (c.bankBusy k) * 2 ^ 12 + bitOf b.claimed * 2 ^ 11 + b.owner.toNat

/-- CELL_BANK (R209). -/
def Cell.bankWord (c : Cell) : Nat := sumOf ((List.range 4).map (fun k => c.bankBits k * 2 ^ (16 * k)))

/-- Input-queue entries in use (R126, R127, R210). -/
def Cell.queueUsed (c : Cell) : Nat :=
  (c.queue.filter (fun t => t.pool = .arc)).length + sumOf (c.qextraUsed.map Prod.snd) + sumOf (c.sharedUsed.map Prod.snd)

/-- CELL_STAT (R210). -/
def Cell.statWord (c : Cell) : Nat :=
  sumOf (c.windows.map (fun q => 2 ^ (56 + q.1))) +
  (c.matching.length + c.waiting.length + sumOf (c.heldEntries.map Prod.snd)) * 2 ^ 44 + c.queueUsed * 2 ^ 35 +
  (c.frames.filter (fun q => q.region ≠ 0)).length * 2 ^ 30 +
  (sumOf ((c.matching ++ c.waiting).map Accord.lines) + sumOf (c.heldLines.map Prod.snd)) * 2 ^ 20

/-- CELL_ECC_CNT (R182). -/
def EccCnt.word (e : EccCnt) : Nat := e.corr.toNat * 65536 + e.uncorr.toNat

/-- SCH_PWR_STATUS (R16). -/
def PwrStatus.word (p : PwrStatus) : Nat :=
  p.step.toNat * 2 ^ 29 + bitOf p.throttle * 2 ^ 28 + bitOf p.tripped * 2 ^ 27 + p.temp.toNat * 2 ^ 16 + p.budget.toNat

/-! ## Chains and timelines (R391 to R393) -/

/-- TAILADV: after a FENCE.REL.DEVICE, L offered as TAIL of chain c; T0 takes the resulting TAIL (R391). -/
def execTailadv (pd : Pd) (chain : BitVec 6) (t0 : Target) (s : State) : Result :=
  s.fire pd fun f s => s.startLate f [t0] 8 true fun pool s =>
    s.putFence f .rel .device [t0] (.tail chain.toNat (BitVec.ofNat 64 (f.l 8))) pool

/-- TLREAD: TL of chain c (R392). -/
def execTlread (pd : Pd) (chain : BitVec 6) (t0 : Target) (s : State) : Result :=
  s.fire pd fun f s => s.startLate f [t0] 8 true fun pool s =>
    s.land f f.acc.tag pool [(t0, Val.of 8 (s.chain (tagCtx f.acc.tag) chain.toNat).tl.toNat)]

/-- TLWAIT: waits until TL of chain c reaches L; its end is a FENCE.ACQ at the scope of the chain's engine (R393, R109). -/
def execTlwait (pd : Pd) (chain : BitVec 6) (t0 : Target) (s : State) : Result :=
  s.fire pd fun f s =>
    let ctx := tagCtx f.acc.tag
    if s.tlReached ctx chain.toNat (f.l 8) then
      s.startLate f [t0] 8 true fun pool s =>
        s.putFence (f.withL (Val.of 8 (f.l 8))) .acq (if (s.chain ctx chain.toNat).systemScope then .system else .device) [t0] .send pool
    else .next (s.putBack f)

/-! ## Traps and breakpoints (R395 to R397) -/

/-- L, 8 bytes wide, to T0: at once or as the trap accord issued again after RESUME (R189, R390, R395). -/
def State.passL (s : State) (f : Firing) (t0 : Target) : Result := s.finish f [(t0, Val.of 8 (f.l 8))] 0 id

/-- TRAP: the frame traps with code imm14 each time it fires (R396). -/
def execTrap (pd : Pd) (imm : BitVec 14) (t0 : Target) (s : State) : Result :=
  s.fire pd fun f s => if f.acc.reissue then s.passL f t0 else s.takeTrap f .trap imm.toNat (f.l 8)

/-- TRAPF: the frame traps where a flag of the mask is set in H31 (R396). -/
def execTrapf (pd : Pd) (mask : BitVec 5) (t0 : Target) (s : State) : Result :=
  s.fire pd fun f s =>
    let q := (s.cell f.cell).holdOf f.region f.frm 31
    let fl := if q.st = .full then q.val.toNat % 32 &&& mask.toNat else 0
    if f.acc.reissue then s.passL f t0
    else if q.st = .pending then .next (s.putBack f)
    else if fl ≠ 0 then s.takeTrap f .trap (0x10000 + fl) (f.l 8)
    else s.passL f t0

/-- BKPT: the frame traps while its breakpoint set is enabled for its context; otherwise a MOV (R397). -/
def execBkpt (pd : Pd) (code : BitVec 10) (set : BitVec 4) (t0 : Target) (s : State) : Result :=
  s.fire pd fun f s =>
    let b := (s.die f.die).bkpt
    if !f.acc.reissue && bit b.mask.toNat set.toNat && b.ctx.toNat = tagCtx f.acc.tag then
      s.takeTrap f .bkpt code.toNat (f.l 8)
    else s.passL f t0

/-! ## System queries and configuration (R399 to R402) -/

/-- SYSQ.HANDLE: the region handle (R399). -/
def execSysqHandle (pd : Pd) (t1 t0 : Target) (s : State) : Result :=
  s.fire pd fun f s => s.finish f (both t0 t1 (Val.of 8 (s.region f.region).handle)) 0 id

/-- SYSQ.DIE: the die (R399). -/
def execSysqDie (pd : Pd) (t1 t0 : Target) (s : State) : Result :=
  s.fire pd fun f s => s.finish f (both t0 t1 (Val.of 4 f.die)) 0 id

/-- SYSQ.REPLICA: the replica index of the firing window's actor in this cell, 0 where it has none (R399, R119). -/
def execSysqReplica (pd : Pd) (t1 t0 : Target) (s : State) : Result :=
  s.fire pd fun f s => s.finish f (both t0 t1 (Val.of 4 ((s.cell f.cell).window f.acc.win).replica)) 0 id

/-- SYSQ.CTX: the context (R399). -/
def execSysqCtx (pd : Pd) (t1 t0 : Target) (s : State) : Result :=
  s.fire pd fun f s => s.finish f (both t0 t1 (Val.of 4 (s.region f.region).ctx)) 0 id

/-- The value of a configuration index (R400). -/
def State.cfgRead (s : State) (f : Firing) (index : Nat) : Nat :=
  let c := s.cell f.cell
  let r := s.region f.region
  if index = 0x000 then c.fmt.word
  else if index = 0x001 then c.bankWord
  else if index = 0x002 then c.statWord
  else if index = 0x003 then c.ecc.word
  else if index = 0x010 then (s.die f.die).pwr.word
  else if index = 0x020 then r.hang
  else if index = 0x021 then r.margin
  else if 0x030 ≤ index && index ≤ 0x037 then ((c.findWin f.region (index - 0x030)).map (fun q => q.2.share.toNat)).getD 0
  else if index = 0x040 then (s.die f.die).bkpt.mask.toNat
  else 0

/-- RDCFG: the configuration register of an index (R400). -/
def execRdcfg (pd : Pd) (index : BitVec 12) (t0 : Target) (s : State) : Result :=
  s.fire pd fun f s => s.finish f [(t0, Val.of 8 (s.cfgRead f index.toNat))] 0 id

/-- HANG of a write: at least 4,096 (R168). -/
def clampHang (v : Nat) : Nat := max 4096 (v % 2 ^ 32)

/-- The write of a configuration index (R400). -/
def State.cfgWrite (s : State) (f : Firing) (index v : Nat) : State :=
  if index = 0x020 then s.updRegion f.region (fun r => { r with hang := clampHang v })
  else if index = 0x021 then s.updRegion f.region (fun r => { r with margin := v % 256 })
  else if 0x030 ≤ index && index ≤ 0x037 then
    match (s.cell f.cell).findWin f.region (index - 0x030) with
    | none => s
    | some (w, _) => s.updCell f.cell (fun c => c.updWindow w (fun q => { q with share := BitVec.ofNat 4 v }))
  else if index = 0x040 then s.updDie f.die (fun d => { d with bkpt := { d.bkpt with mask := BitVec.ofNat 16 v } })
  else s

/-- WRCFG: the configuration register of an index written; PRIV in a region that is not privileged, or where SCH_BKPT.CTX
is another context (R400, R401). -/
def execWrcfg (pd : Pd) (index : BitVec 12) (t0 : Target) (s : State) : Result :=
  s.fire pd fun f s =>
    let i := index.toNat
    if !(s.region f.region).priv || (i = 0x040 && (s.die f.die).bkpt.ctx.toNat ≠ tagCtx f.acc.tag) then
      s.takeTrap f .priv i (f.l 8)
    else s.finish f [(t0, Val.of 8 (f.l 8))] 0 fun s => s.cfgWrite f i (f.l 8)

/-- YIELD: L to both targets, and 2^16 added to the pass value of the window (R402, R128). -/
def execYield (pd : Pd) (t1 t0 : Target) (s : State) : Result :=
  s.fire pd fun f s => s.finish f (both t0 t1 f.valL) 0 fun s =>
    s.updCell f.cell fun c => c.updWindow f.acc.win fun w =>
      { w with pass := put 0 Unit4.scalar.num (w.passOf .scalar + 0x10000) w.pass }

/-- CYC: the cycle count of the die's fabric clock (R402). -/
def execCyc (pd : Pd) (t1 t0 : Target) (s : State) : Result :=
  s.fire pd fun f s => s.finish f (both t0 t1 (Val.of 8 (s.die f.die).fabCycles.toNat)) 0 id

/-! ## Completion of fences (R244, R382) -/

/-- Whether a scope is at least DEVICE (R240). -/
def wideScope : Scope → Bool
  | .device | .system => true
  | _ => false

/-- The accesses that a fence holds issued (R382). -/
def State.releaseFence (s : State) (id : Nat) : State :=
  (s.accesses.filter (fun a => a.phase = .fenced id)).foldl (fun s a => s.issue a) s

/-- A fence completed: the cell cache emptied for ACQ and FULL wider than CELL, the result sent or the tail offered, and the
accesses that it held issued (R244, R382, R391). -/
def State.endFence (s : State) (q : Fence) : State :=
  let f := q.firing
  let s := s.updCell f.cell (fun c =>
    { c with fences := dropFirst (fun p => p.id = q.id) c.fences
             cache := if q.kind ≠ .rel && q.scope ≠ .cell then [] else c.cache })
  let s := if q.kind ≠ .rel && q.scope ≠ .cell then
      { s with responses := s.responses.map (fun p => if p.firing.cell = f.cell then { p with line := none } else p) }
    else s
  let s := match q.andThen with
    | .send => s.land f f.acc.tag q.pool (q.targets.map (fun t => (t, f.valL)))
    | .tail chain v =>
      let ctx := tagCtx f.acc.tag
      let s := s.offerTail ctx chain v
      s.land f f.acc.tag q.pool (q.targets.map (fun t => (t, Val.of 8 (s.chain ctx chain).tail.toNat)))
  s.releaseFence q.id

/-- One look at a fence: settled where stores of its die have still to be seen elsewhere, its zero-length read issued behind the
posted writes to non-coherent host memory (R255), completed where nothing is left to wait for (R241, R244). -/
def State.tryFence (s : State) (q : Fence) : State :=
  let owed := distinct (s.acks.map Ack.access)
  if s.fenceOwes q || q.hostRead then s
  else if wideScope q.scope && !q.settled && !owed.isEmpty then
    s.updCell q.firing.cell (fun c => { c with
      fences := changeFirst (fun p => p.id = q.id) (fun p => { p with settled := true, before := owed }) c.fences })
  else if q.settled && q.before.any owed.contains then s
  else if q.kind ≠ .acq && q.scope = .system && !q.readDone && (s.region q.firing.region).posted then
    s.updCell q.firing.cell (fun c => { c with fences := changeFirst (fun p => p.id = q.id) (fun p => { p with hostRead := true }) c.fences })
  else s.endFence q

/-- FENCE_COMPLETE (R244, R382): fence `id` of cell (`x`, `y`) of die `die` completes, behind the earlier fences of its frame
in that cell. -/
def execFenceComplete (s : State) : Result :=
  let g := s.sch.args
  let c := s.cell (cellKey g.die g.x g.y)
  match c.fences.find? (fun q => q.id = g.id) with
  | none => .next s
  | some q =>
    match c.fences.find? (fun p => p.firing.region = q.firing.region && p.firing.frm = q.firing.frm) with
    | none => .next s
    | some p => .next (if p.id = q.id then s.tryFence q else s)

end Sys2Proof.Machine
end

