-- ==== Sys2Proof/Machine/Graphics.lean ====
section
/-!
DEFINITION. The rendering instructions of spec/19 other than MIGR: triangle setup and coverage (R403 to R406), rays (R407 to
R409), sequence stamps and blend (R411 to R414).
-/

namespace Sys2Proof.Machine

/-- 32 bits of a value, from byte `i`. -/
def word32 (v i : Nat) : Nat := v / 2 ^ (8 * i) % 2 ^ 32

/-- The FP32 number in a value, from byte `i`. -/
def num32 (v i : Nat) : Num := fp32.decode (word32 v i)

/-- A result sent to both targets. -/
def State.sendBoth (s : State) (f : Firing) (t1 t0 : Target) (len v : Nat) : Result := s.finish f (both t0 t1 (Val.of len v)) 0 id

/-! ## Triangle setup and coverage -/

/-- A screen coordinate as an integer of 1/256 pixel (R404); none for NaN, infinity or a magnitude of 2^23 or more. -/
def snap (x : Num) : Option Int :=
  match x with
  | .fin neg m e =>
    let n : Int := roundAt .rn neg m (e + 8) 0
    if 2 ^ 23 ≤ n then none else some (if neg then -n else n)
  | _ => none

/-- A setup record (R403). -/
structure Setup where
  edges : List (Int × Int × Int) := []
  area : Int := 0
  xmin : Int := 1
  xmax : Int := 0
  ymin : Int := 1
  ymax : Int := 0
  deriving DecidableEq, Repr

/-- The 64 bytes of a setup record (R403). -/
def Setup.value (u : Setup) : Nat :=
  let edge := fun i => u.edges.getD i (0, 0, 0)
  sumOf ((List.range 3).map (fun i => (wrap 32 (edge i).1 + wrap 32 (edge i).2.1 * 2 ^ 32 + wrap 64 (edge i).2.2 * 2 ^ 64) * 2 ^ (128 * i))) +
  wrap 64 u.area * 2 ^ 384 +
  (wrap 16 u.xmin + wrap 16 u.xmax * 2 ^ 16 + wrap 16 u.ymin * 2 ^ 32 + wrap 16 u.ymax * 2 ^ 48) * 2 ^ 448

/-- A setup record read (R403). -/
def Setup.read (v : Nat) : Setup :=
  { edges := (List.range 3).map (fun i =>
      (signed 32 (v / 2 ^ (128 * i)), signed 32 (v / 2 ^ (128 * i + 32)), signed 64 (v / 2 ^ (128 * i + 64))))
    area := signed 64 (v / 2 ^ 384) }

/-- The setup of a triangle (R404). -/
def setupOf (culln cullp : Bool) (xs ys : List (Option Int)) : Setup :=
  match xs, ys with
  | [some x0, some x1, some x2], [some y0, some y1, some y2] =>
    let edge := fun (xa ya xb yb : Int) => (ya - yb, xb - xa, xa * yb - xb * ya)
    let es := [edge x1 y1 x2 y2, edge x2 y2 x0 y0, edge x0 y0 x1 y1]
    let e0 := edge x1 y1 x2 y2
    let area := e0.1 * x0 + e0.2.1 * y0 + e0.2.2
    if area = 0 || (decide (area < 0) && culln) || (decide (0 < area) && cullp) then {}
    else
      let k : Int := if area < 0 then -1 else 1
      { edges := es.map (fun e => (k * e.1, k * e.2.1, k * e.2.2)), area := k * area
        xmin := (min x0 (min x1 x2)) / 256, xmax := (max x0 (max x1 x2) - 1) / 256
        ymin := (min y0 (min y1 y2)) / 256, ymax := (max y0 (max y1 y2) - 1) / 256 }
  | _, _ => {}

/-- RSETUP (R404). -/
def execRsetup (pd : Pd) (t1 t0 : Target) (s : State) : Result :=
  s.fire pd fun f s =>
    let v := f.l 24
    let c := f.r 4
    if 4 ≤ c then s.takeTrap f .trap 0x3FFB c
    else
      let xs := [0, 8, 16].map (fun i => snap (num32 v i))
      let ys := [4, 12, 20].map (fun i => snap (num32 v i))
      s.sendBoth f t1 t0 64 (setupOf (bit c 0) (bit c 1) xs ys).value

/-- E_i at a sample (R405). -/
def edgeAt (e : Int × Int × Int) (sx sy : Int) : Int := e.1 * sx + e.2.1 * sy + e.2.2

/-- Whether a sample lies inside an edge, by the top-left rule (R405). -/
def insideEdge (e : Int × Int × Int) (sx sy : Int) : Bool :=
  let v := edgeAt e sx sy
  decide (0 < v) || (v = 0 && (decide (0 < e.1) || (e.1 = 0 && decide (0 < e.2.1))))

/-- The sample of pixel (px, py) of a quad or pixel position (R405). -/
def sampleAt (v : Nat) (px py : Nat) : Int × Int := (256 * (signed 16 v + px) + 128, 256 * (signed 16 (v / 2 ^ 16) + py) + 128)

/-- The coverage of a quad (R405). -/
def coverage (u : Setup) (v : Nat) : Nat :=
  sumOf ((List.range 16).map (fun i =>
    let p := sampleAt v (i % 4) (i / 4)
    bitOf (decide (u.area ≠ 0) && u.edges.all (fun e => insideEdge e p.1 p.2)) * 2 ^ i))

/-- RSTEP (R405). -/
def execRstep (pd : Pd) (t1 t0 : Target) (s : State) : Result :=
  s.fire pd fun f s => s.sendBoth f t1 t0 4 (coverage (Setup.read (f.l 64)) (f.r 4))

/-- The exact quotient of two integers rounded once to FP32 (R406, R409). -/
def quotient32 (a b : Int) : Nat :=
  if a = 0 then 0 else (fp32.give .rn (divNum (ofInt a 0 false) (ofInt b 0 false)).1 0).code

/-- RBARY (R406). -/
def execRbary (pd : Pd) (t1 t0 : Target) (s : State) : Result :=
  s.fire pd fun f s =>
    let u := Setup.read (f.l 64)
    let p := sampleAt (f.r 4) 0 0
    let lam := fun i => if u.area = 0 then 0x7FC00000 else quotient32 (edgeAt (u.edges.getD i (0, 0, 0)) p.1 p.2) u.area
    s.sendBoth f t1 t0 8 (lam 1 + lam 2 * 2 ^ 32)

/-! ## Rays -/

/-- The exact sum of products, rounded once to FP32, and its flags (R407). -/
def dot32 (l : List (Num × Num)) : Nat × Flags :=
  let ins := l.flatMap (fun q => [q.1, q.2])
  if ins.any Num.isNan then (fp32.nanCode, sigFlag ins)
  else
    let ps := l.map (fun q => mulNum q.1 q.2)
    if ps.any (fun p => p.1.isNan) then (fp32.nanCode, flagIV)
    else
      let q := sumNums (ps.map Prod.fst)
      let r := fp32.give .rn q.1 0
      (r.code, r.flags ||| q.2)

/-- RAYXF (R407). -/
def execRayxf (pd : Pd) (t1 t0 : Target) (s : State) : Result :=
  s.fire pd fun f s =>
    let v := f.l 64
    let m := fun i j => num32 (f.r 48) (16 * i + 4 * j)
    let org := (List.range 3).map (fun i => dot32 [(m i 0, num32 v 0), (m i 1, num32 v 4), (m i 2, num32 v 8), (m i 3, fp32.decode 0x3F800000)])
    let dir := (List.range 3).map (fun i => dot32 [(m i 0, num32 v 12), (m i 1, num32 v 16), (m i 2, num32 v 20)])
    let all := org ++ dir
    let out := ofElems (all.map Prod.fst) + v / 2 ^ 192 * 2 ^ 192
    s.finish f (both t0 t1 (Val.of 64 out)) (all.foldl (fun a q => a ||| q.2) 0) id

/-- A slab's bound (MIN or MAX - ORG) / DIR, exact and rounded once (R408). -/
def slabBound (b org dir : Nat) : Nat :=
  let d := (addNum .rn (fp32.decode b) (fp32.decode org).negate).1
  let q := if d.isNan then d else (divNum d (fp32.decode dir)).1
  if q.isNan then (Config.infQuotient (BitVec.ofNat 32 b) (BitVec.ofNat 32 org) (BitVec.ofNat 32 dir)).toNat
  else (fp32.give .rn q 0).code

/-- The greater of two FP32 codes. -/
def max32 (a b : Nat) : Nat := (fp32.pick true false a b).1
/-- The lesser of two FP32 codes. -/
def min32 (a b : Nat) : Nat := (fp32.pick false false a b).1

/-- x ≤ y of two FP32 codes; false with a NaN. -/
def le32 (x y : Nat) : Bool := (fp32.decode x).lt (fp32.decode y) || (fp32.decode x).eqv (fp32.decode y)

/-- t_enter, t_exit and a miss so far, after one axis (R408). -/
def slab (v box a : Nat) (q : Nat × Nat × Bool) : Nat × Nat × Bool :=
  let org := word32 v (4 * a)
  let dir := word32 v (12 + 4 * a)
  let lo := word32 box (4 * a)
  let hi := word32 box (12 + 4 * a)
  if (fp32.decode hi).lt (fp32.decode lo) then (q.1, q.2.1, true)
  else if (fp32.decode dir).isZero then (q.1, q.2.1, q.2.2 || !(le32 lo org && le32 org hi))
  else
    let n := slabBound lo org dir
    let x := slabBound hi org dir
    let (n, x) := if (fp32.decode dir).neg then (x, n) else (n, x)
    (max32 q.1 n, min32 q.2.1 x, q.2.2)

/-- RAYBOX (R408). -/
def execRaybox (pd : Pd) (t1 t0 : Target) (s : State) : Result :=
  s.fire pd fun f s =>
    let v := f.l 64
    let box := f.r 24
    let bad := (List.range 8).any (fun i => (num32 v (4 * i)).isNan) || (List.range 6).any (fun i => (num32 box (4 * i)).isNan)
    let q := slab v box 2 (slab v box 1 (slab v box 0 (word32 v 24, word32 v 28, bad)))
    s.sendBoth f t1 t0 8 (if !q.2.2 && le32 q.1 q.2.1 then q.1 + 2 ^ 32 else 0x7F800000)

/-- A finite FP32 number as a multiple of 2^-149. -/
def fixed32 (x : Num) : Int :=
  match x with
  | .fin neg m e => alignInt neg m e (-149)
  | _ => 0

/-- Whether a number is finite. -/
def Num.isFin : Num → Bool
  | .fin .. => true
  | _ => false

/-- The determinant of three columns. -/
def det3 (a b c : List Int) : Int :=
  let g := fun (l : List Int) i => l.getD i 0
  g a 0 * (g b 1 * g c 2 - g b 2 * g c 1) - g a 1 * (g b 0 * g c 2 - g b 2 * g c 0) + g a 2 * (g b 0 * g c 1 - g b 1 * g c 0)

/-- The record after one triangle (R409). An infinite TMAX bounds nothing (log 21). -/
def rayTri (v tri : Nat) : Nat :=
  let ins := (List.range 7).map (fun i => num32 v (4 * i)) ++ (List.range 9).map (fun i => num32 tri (4 * i))
  let tmax := num32 v 28
  if !ins.all Num.isFin || tmax.isNan then v
  else
    let x := fun i => fixed32 (ins.getD i (.fin false 0 0))
    let vec := fun i => [x i, x (i + 1), x (i + 2)]
    let minus := fun (a b : List Int) => a.zipWith (fun p q => p - q) b
    let d := (vec 3).map (fun p => -p)
    let e1 := minus (vec 10) (vec 7)
    let e2 := minus (vec 13) (vec 7)
    let o := minus (vec 0) (vec 7)
    let det0 := det3 d e1 e2
    let k : Int := if det0 < 0 then -1 else 1
    let det := k * det0
    let t := k * det3 o e1 e2
    let u := k * det3 d o e2
    let w := k * det3 d e1 o
    let tr := quotient32 t det
    let q := word32 tri 36
    let nearer := (fp32.decode tr).lt tmax || ((fp32.decode tr).eqv tmax && decide (q < word32 v 32))
    if det = 0 || decide (u < 0) || decide (w < 0) || decide (det < u + w) || decide (t * 2 ^ 149 < x 6 * det) || !nearer then v
    else v % 2 ^ 224 + (tr + q * 2 ^ 32 + quotient32 u det * 2 ^ 64 + quotient32 w det * 2 ^ 96) * 2 ^ 224 + v / 2 ^ 352 * 2 ^ 352

/-- RAYTRI (R409). -/
def execRaytri (pd : Pd) (t1 t0 : Target) (s : State) : Result :=
  s.fire pd fun f s => s.sendBoth f t1 t0 64 (rayTri (f.l 64) (f.r 40))

/-! ## Sequence stamps and blend (R411 to R414) -/

/-- Whether a locator is well formed (R411). -/
def locatorOk (v : Nat) : Bool := bits v 7 5 = 0 && bits v 31 16 = 0 && decide (bits v 15 8 ≤ 8)

/-- The tile and byte address of SEQGET's counter of local tile i (R411, R412); none beyond the tile. -/
def Cell.seqAt (c : Cell) (loc i : Nat) : Option (Nat × Nat) :=
  let t := c.tile (bits loc 4 0)
  if !locatorOk loc || t.fmt.toNat ≠ 8 || t.nrows * t.ncols ≤ i then none
  else some (bits loc 4 0, t.rowAddr (i / t.ncols) + 4 * (i % t.ncols))

/-- The tile and byte address of the buffer of local tile i (R147, R411); none beyond its tile. -/
def Cell.bufferAt (c : Cell) (loc i : Nat) : Option (Nat × Nat) :=
  let b := i / 2 ^ bits loc 15 8
  let j := bits loc 4 0 + b / 31
  let t := c.tile j
  if !locatorOk loc || 32 ≤ j || t.nrows ≤ b % 31 || t.rowBytes < 2112 then none else some (j, t.rowAddr (b % 31))

/-- SEQGET: the counter of tile L [18:0] sent, and the next one stored (R412). -/
def execSeqget (pd : Pd) (t1 t0 : Target) (s : State) : Result :=
  s.fire pd fun f s =>
    let c := s.cell f.cell
    let loc := f.r 4
    match c.seqAt loc (bits (f.l 4) 18 0) with
    | none => s.takeTrap f .trap 0x3FFB loc
    | some (j, a) =>
      if !c.tileReady j then .next (s.putBack f) else
      let bank := (c.tile j).bank.toNat
      let w := c.bankRead bank a 4
      s.finish f (both t0 t1 (Val.of 4 (w % 2 ^ 24))) 0 fun s =>
        s.updCell f.cell fun c => c.bankWrite bank a (toBytes 3 ((w + 1) % 2 ^ 24))

/-- The counter of a quad of a tile buffer (R147). -/
def Cell.quadCounter (c : Cell) (bank base q : Nat) : Nat := c.bankRead bank (base + 2048 + 4 * q) 4 % 2 ^ 24

/-- SEQWAIT: ready only while the quad's counter equals SEQ; sends L (R413). -/
def execSeqwait (pd : Pd) (t1 t0 : Target) (s : State) : Result :=
  s.fire pd fun f s =>
    let c := s.cell f.cell
    let v := f.l 8
    let loc := f.r 4
    match c.bufferAt loc (bits v 18 0) with
    | none => s.takeTrap f .trap 0x3FFB loc
    | some (j, a) =>
      if !c.tileReady j || c.quadCounter (c.tile j).bank.toNat a (bits v 39 36) ≠ bits v 63 40 then .next (s.putBack f)
      else s.finish f (both t0 t1 (Val.of 8 v)) 0 id

/-- One channel of a blended pixel (R414): src + dst * (1 - alpha), rounded once to FP16. -/
def blendChannel (src dst alpha : Nat) : Nat × Flags :=
  let a := fp16.decode alpha
  let y := if a.isNan then a else (addNum .rn (fp16.decode 0x3C00) a.negate).1
  (fp16.fma .rn 0 (fp16.decode dst) y (fp16.decode src)).pair

/-- One pixel of a quad blended into the buffer, and its flags. -/
def Cell.blendPixel (c : Cell) (bank base q src i : Nat) : Cell × Flags :=
  let a := base + 8 * (16 * (4 * (q / 4) + i / 4) + 4 * (q % 4) + i % 4)
  let d := c.bankRead bank a 8
  let p := src / 2 ^ (64 * i)
  let ch := fun (v k : Nat) => v / 2 ^ (16 * k) % 2 ^ 16
  let r := (List.range 4).map (fun k => blendChannel (ch p k) (ch d k) (ch p 3))
  (c.bankWrite bank a (r.flatMap (fun x => toBytes 2 x.1)), r.foldl (fun fl x => fl ||| x.2) 0)

/-- BLEND (R414). -/
def execBlend (pd : Pd) (t1 t0 : Target) (s : State) : Result :=
  s.fire pd fun f s =>
    let c := s.cell f.cell
    let v := f.l 8
    let src := f.r 136
    let loc := word32 src 128
    let q := bits v 39 36
    match c.bufferAt loc (bits v 18 0) with
    | none => s.takeTrap f .trap 0x3FFB loc
    | some (j, a) =>
      let bank := (c.tile j).bank.toNat
      if !c.tileReady j then .next (s.putBack f)
      else if c.quadCounter bank a q ≠ bits v 63 40 then s.takeTrap f .trap 0x3FFC v
      else
        let r := ((List.range 16).filter (fun i => bit v (20 + i))).foldl (fun (x : Cell × Flags) i =>
          let y := x.1.blendPixel bank a q src i
          (y.1, x.2 ||| y.2)) (c, 0)
        let n := (bits v 63 40 + 1) % 2 ^ 24
        let c := r.1.bankWrite bank (a + 2048 + 4 * q) (toBytes 3 n)
        let credit := (List.range 16).all (fun k => decide ((c.quadCounter bank a k + 2 ^ 24 - n) % 2 ^ 24 < 2 ^ 23))
        s.finish f (both t0 t1 (Val.of 8 (bits v 18 0 + bitOf credit * 2 ^ 32 + bitOf (credit && bit v 19) * 2 ^ 33))) r.2 fun s =>
          s.updCell f.cell fun _ => c

end Sys2Proof.Machine
end

