-- ==== Sys2Proof/Machine/Integer.lean ====
section
/-!
DEFINITION. The integer instructions of spec/15: their forms (R323), arithmetic, division, bit fields, counts, selects
and extensions (R325 to R328).
-/

namespace Sys2Proof.Machine

/-- The width of an integer form in bits (R323). -/
def widthOf (wide : Bool) : Nat := if wide then 64 else 32

/-- A Format G integer form (R323): `o` of the width and the firing's L, R and P at that width, sent to T0 and T1. -/
def State.intForm (s : State) (pd : Pd) (wide : Bool) (t1 t0 : Target) (o : Nat → Nat → Nat → Nat → Nat) : Result :=
  s.fire pd fun f s =>
    let n := widthOf wide
    let b := n / 8
    s.finish f (both t0 t1 (Val.of b (o n (f.l b) (f.r b) (f.p b)))) 0 id

/-- A Format I integer form: `o` of L at 32 bits and the sign-extended immediate, sent to T0 (R323, R328). -/
def State.immForm (s : State) (pd : Pd) (imm : BitVec 14) (t0 : Target) (o : Nat → Nat → Nat) : Result :=
  s.fire pd fun f s => s.finish f [(t0, Val.of 4 (o (f.l 4) (imm.signExtend 32).toNat))] 0 id

/-! ## Results (R325 to R328), on unsigned n-bit numbers -/

/-- ADD. -/
def addInt (n l r : Nat) : Nat := (l + r) % 2 ^ n
/-- SUB. -/
def subInt (n l r : Nat) : Nat := (l + (2 ^ n - r % 2 ^ n)) % 2 ^ n
/-- MUL. -/
def mulInt (n l r : Nat) : Nat := l * r % 2 ^ n
/-- MULH: the high half of the signed product. -/
def mulhInt (n l r : Nat) : Nat := wrap n (signed n l * signed n r / (2 ^ n : Nat))
/-- MULHU: the high half of the unsigned product. -/
def mulhuInt (n l r : Nat) : Nat := l * r / 2 ^ n
/-- ANDN. -/
def andnInt (n l r : Nat) : Nat := l &&& (2 ^ n - 1 - r % 2 ^ n)
/-- SHL. -/
def shlInt (n l r : Nat) : Nat := l * 2 ^ (r % n) % 2 ^ n
/-- SHR. -/
def shrInt (n l r : Nat) : Nat := l / 2 ^ (r % n)
/-- SRA. -/
def sraInt (n l r : Nat) : Nat := wrap n (signed n l / (2 ^ (r % n) : Nat))
/-- ROL. -/
def rolInt (n l r : Nat) : Nat := (l * 2 ^ (r % n) % 2 ^ n) ||| (l / 2 ^ (n - r % n))
/-- ROR. -/
def rorInt (n l r : Nat) : Nat := (l / 2 ^ (r % n)) ||| (l * 2 ^ (n - r % n) % 2 ^ n)
/-- NEG. -/
def negInt (n l : Nat) : Nat := subInt n 0 l
/-- ABS. -/
def absInt (n l : Nat) : Nat := if signed n l < 0 then negInt n l else l
/-- The lesser or greater of two numbers as signed integers. -/
def pickSigned (n : Nat) (greater : Bool) (l r : Nat) : Nat :=
  if (if greater then decide (signed n r ≤ signed n l) else decide (signed n l ≤ signed n r)) then l else r

/-- The conditions of CMP (R325). -/
def intHolds (n : Nat) (cc : IntCond) (l r : Nat) : Bool :=
  match cc with
  | .eq => l = r
  | .ne => l ≠ r
  | .lt => decide (signed n l < signed n r)
  | .le => decide (signed n l ≤ signed n r)
  | .gt => decide (signed n r < signed n l)
  | .ge => decide (signed n r ≤ signed n l)
  | .ltu => decide (l < r)
  | .leu => decide (l ≤ r)
  | .gtu => decide (r < l)
  | .geu => decide (r ≤ l)

/-- DIV (R326). -/
def divInt (n l r : Nat) : Nat :=
  if r = 0 then 2 ^ n - 1
  else if signed n l = -(2 ^ (n - 1) : Nat) ∧ signed n r = -1 then l
  else wrap n ((signed n l).tdiv (signed n r))
/-- REM (R326). -/
def remInt (n l r : Nat) : Nat :=
  if r = 0 then l
  else if signed n l = -(2 ^ (n - 1) : Nat) ∧ signed n r = -1 then 0
  else wrap n ((signed n l).tmod (signed n r))
/-- DIVU (R326). -/
def divuInt (n l r : Nat) : Nat := if r = 0 then 2 ^ n - 1 else l / r
/-- REMU (R326). -/
def remuInt (l r : Nat) : Nat := if r = 0 then l else l % r

/-- POS of a field descriptor (R327). -/
def fieldPos (d : Nat) : Nat := bits d 5 0
/-- LEN of a field descriptor clipped to the width (R327). -/
def fieldLen (n d : Nat) : Nat := if n ≤ fieldPos d then 0 else min (bits d 14 8) (n - fieldPos d)
/-- BFXU (R327). -/
def bfxuInt (n l d : Nat) : Nat := l / 2 ^ fieldPos d % 2 ^ fieldLen n d
/-- BFXS (R327). -/
def bfxsInt (n l d : Nat) : Nat :=
  let u := bfxuInt n l d
  let len := fieldLen n d
  if 0 < len && bit u (len - 1) then wrap n ((u : Int) - (2 ^ len : Nat)) else u
/-- BFI (R327). -/
def bfiInt (n l r d : Nat) : Nat :=
  let mask := (2 ^ fieldLen n d - 1) * 2 ^ fieldPos d
  (l &&& (2 ^ n - 1 - mask)) ||| (r * 2 ^ fieldPos d &&& mask)

/-- POPC. -/
def popcInt (n l : Nat) : Nat := ((List.range n).filter (bit l)).length
/-- CLZ. -/
def clzInt (n l : Nat) : Nat := if l = 0 then n else n - 1 - ilog2 l
/-- CTZ. -/
def ctzInt (n l : Nat) : Nat := ((List.range n).find? (bit l)).getD n

/-! ## Meanings -/

/-- ADD (R325). -/
def execAdd (pd : Pd) (wide : Bool) (t1 t0 : Target) (s : State) : Result :=
  s.intForm pd wide t1 t0 fun n l r _ => addInt n l r

/-- SUB (R325). -/
def execSub (pd : Pd) (wide : Bool) (t1 t0 : Target) (s : State) : Result :=
  s.intForm pd wide t1 t0 fun n l r _ => subInt n l r

/-- MUL (R325). -/
def execMul (pd : Pd) (wide : Bool) (t1 t0 : Target) (s : State) : Result :=
  s.intForm pd wide t1 t0 fun n l r _ => mulInt n l r

/-- MULH (R325). -/
def execMulh (pd : Pd) (wide : Bool) (t1 t0 : Target) (s : State) : Result :=
  s.intForm pd wide t1 t0 fun n l r _ => mulhInt n l r

/-- MULHU (R325). -/
def execMulhu (pd : Pd) (wide : Bool) (t1 t0 : Target) (s : State) : Result :=
  s.intForm pd wide t1 t0 fun n l r _ => mulhuInt n l r

/-- DIV (R326). -/
def execDiv (pd : Pd) (wide : Bool) (t1 t0 : Target) (s : State) : Result :=
  s.intForm pd wide t1 t0 fun n l r _ => divInt n l r

/-- DIVU (R326). -/
def execDivu (pd : Pd) (wide : Bool) (t1 t0 : Target) (s : State) : Result :=
  s.intForm pd wide t1 t0 fun n l r _ => divuInt n l r

/-- REM (R326). -/
def execRem (pd : Pd) (wide : Bool) (t1 t0 : Target) (s : State) : Result :=
  s.intForm pd wide t1 t0 fun n l r _ => remInt n l r

/-- REMU (R326). -/
def execRemu (pd : Pd) (wide : Bool) (t1 t0 : Target) (s : State) : Result :=
  s.intForm pd wide t1 t0 fun _ l r _ => remuInt l r

/-- AND (R325). -/
def execAnd (pd : Pd) (wide : Bool) (t1 t0 : Target) (s : State) : Result :=
  s.intForm pd wide t1 t0 fun _ l r _ => l &&& r

/-- OR (R325). -/
def execOr (pd : Pd) (wide : Bool) (t1 t0 : Target) (s : State) : Result :=
  s.intForm pd wide t1 t0 fun _ l r _ => l ||| r

/-- XOR (R325). -/
def execXor (pd : Pd) (wide : Bool) (t1 t0 : Target) (s : State) : Result :=
  s.intForm pd wide t1 t0 fun _ l r _ => l ^^^ r

/-- ANDN (R325). -/
def execAndn (pd : Pd) (wide : Bool) (t1 t0 : Target) (s : State) : Result :=
  s.intForm pd wide t1 t0 fun n l r _ => andnInt n l r

/-- SHL (R325). -/
def execShl (pd : Pd) (wide : Bool) (t1 t0 : Target) (s : State) : Result :=
  s.intForm pd wide t1 t0 fun n l r _ => shlInt n l r

/-- SHR (R325). -/
def execShr (pd : Pd) (wide : Bool) (t1 t0 : Target) (s : State) : Result :=
  s.intForm pd wide t1 t0 fun n l r _ => shrInt n l r

/-- SRA (R325). -/
def execSra (pd : Pd) (wide : Bool) (t1 t0 : Target) (s : State) : Result :=
  s.intForm pd wide t1 t0 fun n l r _ => sraInt n l r

/-- ROL (R325). -/
def execRol (pd : Pd) (wide : Bool) (t1 t0 : Target) (s : State) : Result :=
  s.intForm pd wide t1 t0 fun n l r _ => rolInt n l r

/-- ROR (R325). -/
def execRor (pd : Pd) (wide : Bool) (t1 t0 : Target) (s : State) : Result :=
  s.intForm pd wide t1 t0 fun n l r _ => rorInt n l r

/-- MIN (R325). -/
def execMin (pd : Pd) (wide : Bool) (t1 t0 : Target) (s : State) : Result :=
  s.intForm pd wide t1 t0 fun n l r _ => pickSigned n false l r

/-- MAX (R325). -/
def execMax (pd : Pd) (wide : Bool) (t1 t0 : Target) (s : State) : Result :=
  s.intForm pd wide t1 t0 fun n l r _ => pickSigned n true l r

/-- MINU (R325). -/
def execMinu (pd : Pd) (wide : Bool) (t1 t0 : Target) (s : State) : Result :=
  s.intForm pd wide t1 t0 fun _ l r _ => min l r

/-- MAXU (R325). -/
def execMaxu (pd : Pd) (wide : Bool) (t1 t0 : Target) (s : State) : Result :=
  s.intForm pd wide t1 t0 fun _ l r _ => max l r

/-- NEG (R325). -/
def execNeg (pd : Pd) (wide : Bool) (t1 t0 : Target) (s : State) : Result :=
  s.intForm pd wide t1 t0 fun n l _ _ => negInt n l

/-- ABS (R325). -/
def execAbs (pd : Pd) (wide : Bool) (t1 t0 : Target) (s : State) : Result :=
  s.intForm pd wide t1 t0 fun n l _ _ => absInt n l

/-- BFXU (R327). -/
def execBfxu (pd : Pd) (wide : Bool) (t1 t0 : Target) (s : State) : Result :=
  s.intForm pd wide t1 t0 fun n l r _ => bfxuInt n l r

/-- BFXS (R327). -/
def execBfxs (pd : Pd) (wide : Bool) (t1 t0 : Target) (s : State) : Result :=
  s.intForm pd wide t1 t0 fun n l r _ => bfxsInt n l r

/-- POPC (R328). -/
def execPopc (pd : Pd) (wide : Bool) (t1 t0 : Target) (s : State) : Result :=
  s.intForm pd wide t1 t0 fun n l _ _ => popcInt n l

/-- CLZ (R328). -/
def execClz (pd : Pd) (wide : Bool) (t1 t0 : Target) (s : State) : Result :=
  s.intForm pd wide t1 t0 fun n l _ _ => clzInt n l

/-- CTZ (R328). -/
def execCtz (pd : Pd) (wide : Bool) (t1 t0 : Target) (s : State) : Result :=
  s.intForm pd wide t1 t0 fun n l _ _ => ctzInt n l

/-- SX8 (R328). -/
def execSx8 (pd : Pd) (wide : Bool) (t1 t0 : Target) (s : State) : Result :=
  s.intForm pd wide t1 t0 fun n l _ _ => signExtend 8 n l

/-- SX16 (R328). -/
def execSx16 (pd : Pd) (wide : Bool) (t1 t0 : Target) (s : State) : Result :=
  s.intForm pd wide t1 t0 fun n l _ _ => signExtend 16 n l

/-- ZX8 (R328). -/
def execZx8 (pd : Pd) (wide : Bool) (t1 t0 : Target) (s : State) : Result :=
  s.intForm pd wide t1 t0 fun _ l _ _ => l % 2 ^ 8

/-- ZX16 (R328). -/
def execZx16 (pd : Pd) (wide : Bool) (t1 t0 : Target) (s : State) : Result :=
  s.intForm pd wide t1 t0 fun _ l _ _ => l % 2 ^ 16

/-- CMP.cc: 1 where the condition holds, else 0, 4 bytes at either width (R325). -/
def execCmp (pd : Pd) (wide : Bool) (cc : IntCond) (t1 t0 : Target) (s : State) : Result :=
  s.fire pd fun f s =>
    let n := widthOf wide
    s.finish f (both t0 t1 (Val.of 4 (bitOf (intHolds n cc (f.l (n / 8)) (f.r (n / 8)))))) 0 id

/-- BFI: the field of L that P describes replaced by R (R327). -/
def execBfi (wide : Bool) (t1 t0 : Target) (s : State) : Result :=
  s.intForm .always wide t1 t0 bfiInt

/-- SEL: L where P[0] = 1, else R (R328). -/
def execSel (wide : Bool) (t1 t0 : Target) (s : State) : Result :=
  s.intForm .always wide t1 t0 fun _ l r p => if bit p 0 then l else r

/-- SX32: L[31:0] sign-extended to 64 bits (R324, R328). -/
def execSx32 (pd : Pd) (t1 t0 : Target) (s : State) : Result :=
  s.fire pd fun f s => s.finish f (both t0 t1 (Val.of 8 (signExtend 32 64 (f.l 4)))) 0 id

/-- ZX32: L[31:0] zero-extended to 64 bits (R324, R328). -/
def execZx32 (pd : Pd) (t1 t0 : Target) (s : State) : Result :=
  s.fire pd fun f s => s.finish f (both t0 t1 (Val.of 8 (f.l 4))) 0 id

/-- ADDI (R328). -/
def execAddi (pd : Pd) (imm : BitVec 14) (t0 : Target) (s : State) : Result := s.immForm pd imm t0 (addInt 32)

/-- ANDI (R328). -/
def execAndi (pd : Pd) (imm : BitVec 14) (t0 : Target) (s : State) : Result := s.immForm pd imm t0 fun l r => l &&& r

/-- ORI (R328). -/
def execOri (pd : Pd) (imm : BitVec 14) (t0 : Target) (s : State) : Result := s.immForm pd imm t0 fun l r => l ||| r

/-- XORI (R328). -/
def execXori (pd : Pd) (imm : BitVec 14) (t0 : Target) (s : State) : Result := s.immForm pd imm t0 fun l r => l ^^^ r

end Sys2Proof.Machine
end

