-- ==== Sys2Proof/Machine/Matrix.lean ====
section
/-!
DEFINITION. The matrix unit (R269 to R273, R361 to R374): blocks and alignment, B tiles in a compute bank, sequences of
row steps, the accumulator array and its readout, and the end of a tile-engine operation.
-/

namespace Sys2Proof.Machine

/-! ## Blocks of 32 values (R269 to R271) -/

/-- An integer with the sign of a number. -/
def withSign (neg : Bool) (n : Nat) : Int := if neg then -(n : Int) else n

/-- RoundEven(i * 2^k). -/
def roundEven (i k : Int) : Int := withSign (decide (i < 0)) (roundAt .rn (decide (i < 0)) i.natAbs k 0)

/-- A converted block: a NaN block, or its 32 significands and its exponent (R269). -/
structure Block where
  nan : Bool := false
  s : List Int := []
  x : Int := 0
  deriving DecidableEq, Repr

/-- Align of 32 numbers at W bits (R269). -/
def alignNums (v : List Num) (w : Nat) : Block :=
  if v.any (fun n => match n with | .fin .. => false | _ => true) then { nan := true }
  else
    let leads := v.filterMap (fun n => match n with | .fin _ m e => if m = 0 then none else some (leadExp m e) | _ => none)
    match leads with
    | [] => { s := v.map (fun _ => 0) }
    | l :: t =>
      let x := t.foldl max l - ((w : Int) - 2)
      let top : Int := 2 ^ (w - 1) - 1
      { s := v.map (fun n => match n with
          | .fin neg m e => saturate (-top) top (withSign neg (roundAt .rn neg m e x))
          | _ => 0)
        x := x }

/-- The block that enters the unit at W bits (R269): an integer format no wider than W without a block scale is taken
exactly. -/
def alignBlock (f : Fmt) (bs : Bool) (v : List Num) (w : Nat) : Block :=
  if f.isInt && decide (f.bits ≤ w) && !bs then
    { s := v.map (fun n => match n with | .fin neg m e => withSign neg (m * 2 ^ e.toNat) | _ => 0) }
  else alignNums v w

/-- K-block kb of row `r` of a tile, zeros beyond its columns (R364, R367). -/
def Cell.rowBlock (c : Cell) (t : Tile) (r kb w : Nat) : Block :=
  alignBlock (Fmt.ofCode t.fmt.toNat) t.bs
    ((List.range 32).map (fun k => if r < t.nrows && 32 * kb + k < t.ncols then c.elemNum t r (32 * kb + k) else .fin false 0 0)) w

/-- The exponent byte of a B block and its fields (R270). -/
def storeBlock (b : Block) : Nat × List Int :=
  if b.nan then (0xFF, (List.range 32).map (fun _ => 0))
  else if b.x < -127 then (0, b.s.map (fun i => roundEven i (b.x + 127)))
  else if 127 < b.x then (0xFF, b.s)
  else ((b.x + 127).toNat, b.s)

/-! ## Compute tiles (R363) -/

/-- W_A of a cell. -/
def CellFmt.wa' (f : CellFmt) : Nat := f.wa.toNat
/-- W_B of a cell. -/
def CellFmt.wb' (f : CellFmt) : Nat := f.wb.toNat

/-- BSZ: lines of a B-tile slot (R363). -/
def CellFmt.bsz (f : CellFmt) : Nat := ceilDiv (256 * f.wb' + 64) 64

/-- Whether a tile is a compute tile that satisfies R363. -/
def Cell.computeTile (c : Cell) (t : Tile) : Bool :=
  (c.bank t.bank.toNat).mode = .compute && t.fmt = c.fmt.bfmt && t.bs = c.fmt.bs && t.ncols = 32 &&
  t.stride.toNat = c.fmt.bsz && decide (t.base.toNat + c.fmt.bsz * t.nrows ≤ 1024)

/-- Whether a tile is a source of A rows or of a B block: in scratchpad, in a format, with the cell's BS and at most 64
columns (R364, R366). -/
def Cell.sourceTile (c : Cell) (t : Tile) (fmt : BitVec 6) : Bool :=
  (c.bank t.bank.toNat).mode = .scratchpad && t.fmt = fmt && t.bs = c.fmt.bs && decide (t.ncols ≤ 64)

/-- The first byte of slot b of a compute tile in its bank. -/
def Cell.slotAddr (c : Cell) (t : Tile) (b : Nat) : Nat := 64 * (t.base.toNat + c.fmt.bsz * b)

/-- Block (kb, n) of a slot as the unit reads it (R270, R363). -/
def Cell.slotBlock (c : Cell) (t : Tile) (b kb n : Nat) : Block :=
  let w := c.fmt.wb'
  let a := c.slotAddr t b
  let e := (c.bankByte t.bank.toNat (a + 256 * w + 32 * kb + n)).toNat
  if e = 0xFF then { nan := true }
  else
    { s := (List.range 32).map (fun k =>
        let row := c.bankRead t.bank.toNat (a + 4 * w * (32 * kb + k)) (4 * w)
        signed w (row / 2 ^ (w * n)))
      x := (e : Int) - 127 }

/-- A slot written from a B block tile (R364). -/
def Cell.bload (c : Cell) (td ta b : Nat) : Cell :=
  let t := c.tile td
  let src := c.tile ta
  let w := c.fmt.wb'
  let a := c.slotAddr t b
  let blocks := (List.range 2).map (fun kb => (List.range 32).map (fun n => storeBlock (c.rowBlock src n kb w)))
  let rows := blocks.flatMap (fun (l : List (Nat × List Int)) =>
    (List.range 32).map (fun k => sumOf (l.mapIdx (fun n q => wrap w (q.2.getD k 0) * 2 ^ (w * n)))))
  let exps := blocks.flatMap (fun (l : List (Nat × List Int)) => l.map Prod.fst)
  c.bankWrite t.bank.toNat a (rows.flatMap (toBytes (4 * w)) ++ exps.flatMap (toBytes 1))

/-- Every slot of a compute tile cleared (R365). -/
def Cell.binv (c : Cell) (td : Nat) : Cell :=
  let t := c.tile td
  c.bankWrite t.bank.toNat (c.slotAddr t 0) ((List.range (64 * c.fmt.bsz * t.nrows)).map (fun _ => 0))

/-! ## The accumulator (R271, R272, R362) -/

/-- Whether an entry is NaN (R272). -/
def AccEntry.isNan (a : AccEntry) : Bool := a.s = 0 && a.e.toInt = -512

/-- The NaN entry (R272). -/
def accNan : AccEntry := { s := 0, e := BitVec.ofInt 10 (-512) }

/-- An entry from a sum and an exponent. -/
def accOf (s e : Int) : AccEntry := { s := BitVec.ofInt 56 s, e := BitVec.ofInt 10 e }

/-- The partial of two blocks as an entry (R271, R367). -/
def partialOf (a b : Block) : AccEntry :=
  if a.nan || b.nan then accNan
  else
    let p := (a.s.zip b.s).foldl (fun t q => t + q.1 * q.2) 0
    let x := a.x + b.x
    let q := if x < -512 then (roundEven p (x + 512), -512) else if 511 < x then (p, 511) else (p, x)
    if q.1 = 0 then {} else accOf q.1 q.2

/-- Add of two entries (R272). -/
def accAdd (a b : AccEntry) : AccEntry :=
  if a.isNan || b.isNan then accNan
  else
    let e := max a.e.toInt b.e.toInt
    let s := roundEven a.s.toInt (a.e.toInt - e) + roundEven b.s.toInt (b.e.toInt - e)
    let q := if s < -(2 ^ 55) || 2 ^ 55 - 1 < s then (roundEven s (-1), min (e + 1) 511) else (s, e)
    if q.1 = 0 then {} else accOf q.1 q.2

/-- Entry (m, n) (R362). -/
def Cell.accAt (c : Cell) (m n : Nat) : AccEntry := look {} c.acc (32 * m + n)

/-- Entry (m, n) set. -/
def Cell.setAcc (c : Cell) (m n : Nat) (a : AccEntry) : Cell := { c with acc := put {} (32 * m + n) a c.acc }

/-- RowStep (R367). -/
def Cell.rowStep (c : Cell) (q : MatSeq) : Cell :=
  let ta := c.tile q.ta
  let tb := c.tile q.tb
  let kbs := ceilDiv ta.ncols 32
  let as := (List.range kbs).map (fun kb => c.rowBlock ta q.row kb c.fmt.wa')
  (List.range q.nt).foldl (fun d n =>
    (List.range kbs).foldl (fun d kb =>
      let p := partialOf (as.getD kb {}) (c.slotBlock tb q.bidx kb n)
      d.setAcc q.row n (if q.zero && kb = 0 then p else accAdd (d.accAt q.row n) p)) d) c

/-- The number that an entry is read as with readout byte r (R273). -/
def AccEntry.read (a : AccEntry) (r : Nat) : Num :=
  if r = 0xFF || a.isNan then .nan false
  else if a.s = 0 then .fin false 0 0
  else .fin (decide (a.s.toInt < 0)) a.s.toInt.natAbs (a.e.toInt + r - 127)

/-- The rectangle cleared (R371). -/
def Cell.clearAcc (c : Cell) (m0 mt nt : Nat) : Cell :=
  { c with acc := c.acc.filter (fun q => !(decide (m0 ≤ q.1 / 32) && decide (q.1 / 32 < m0 + mt) && decide (q.1 % 32 < nt))) }

/-! ## BLOAD and BINV (R364, R365, R373) -/

/-- Whether an accord that names a tile may be chosen (R206, R357, R373): the tile is READY and held by nothing, or its
bank is no longer the region's, which traps. -/
def Cell.tileGo (c : Cell) (region j : Nat) : Bool := !c.ownsTile (c.tile j) region || c.tileReady j

/-- BLOAD (R357, R364). -/
def execBload (pd : Pd) (td ta : BitVec 5) (ct : Completion) (s : State) : Result :=
  s.fire pd fun f s =>
    let c := s.cell f.cell
    let v := f.l 8
    let d := c.tile td.toNat
    let a := c.tile ta.toNat
    if c.engine.isSome || !c.tileGo f.region td.toNat || !c.tileGo f.region ta.toNat then .next (s.putBack f)
    else if v % 2 ^ 16 ≠ 0 || bits v 63 22 ≠ 0 || d.nrows ≤ bits v 21 16 then s.takeTrap f .trap 0x3FF5 v
    else if !c.computeTile d || !c.sourceTile a c.fmt.bfmt || 32 < a.nrows then s.takeShape f 0xC3 0
    else if !c.ownsTile d f.region || !c.ownsTile a f.region then s.takeShape f 0xC2 0
    else s.startEngine f { kind := .bload, td := td.toNat, ta := ta.toNat, l := bits v 21 16, targets := ctTargets ct, firing := f }

/-- BINV (R365). -/
def execBinv (pd : Pd) (tile : BitVec 5) (t0 : Target) (s : State) : Result :=
  s.fire pd fun f s =>
    let c := s.cell f.cell
    let t := c.tile tile.toNat
    if c.engine.isSome || !c.tileGo f.region tile.toNat then .next (s.putBack f)
    else if !c.computeTile t then s.takeShape f 0xC3 0
    else if !c.ownsTile t f.region then s.takeShape f 0xC2 0
    else s.startEngine f { kind := .binv, td := tile.toNat, targets := [t0], firing := f }

/-! ## The end of a tile-engine operation (R357) -/

/-- Flags of a result that lands late (R262): a frame that a kill or its return has ended keeps none. -/
def State.raiseLate (s : State) (f : Firing) (fl : BitVec 5) : State :=
  if (s.region f.region).admission f.x f.y f.acc.tag = .drop then s else s.raise f fl

/-- The operation of a cell's tile engine done: its tiles written, its flags and its completion token (R357 to R359,
R364, R365). -/
def execTileEngineDone (s : State) : Result :=
  let a := s.sch.args
  let k := cellKey a.die a.x a.y
  match (s.cell k).engine with
  | none => .next s
  | some e =>
    let c := { s.cell k with engine := none }
    let q : Cell × Flags :=
      match e.kind with
      | .trans => (c.transpose e.td e.ta, 0)
      | .poolMax => c.pool true e.td e.ta e.tb e.l
      | .poolAvg => c.pool false e.td e.ta e.tb e.l
      | .bload => (c.bload e.td e.ta e.l, 0)
      | .binv => (c.binv e.td, 0)
    let s := (s.updCell k fun _ => q.1).raiseLate e.firing q.2
    .next (s.land e.firing e.firing.acc.tag .none (e.targets.map fun t => (t, Val.of 4 0)))

/-! ## Sequences (R366 to R370) -/

/-- Whether the matrix unit may take a firing now: no sequence is in progress, or the firing's note is more urgent than
that of the one on top (R369). -/
def State.matrixFree (s : State) (f : Firing) : Bool :=
  match (s.cell f.cell).seqs with
  | [] => true
  | q :: _ => decide ((s.noteOf f).code < (s.noteOf q.firing).code)

/-- MMA or MMAZ (R366, R367): the sequence started. -/
def State.sequenceForm (s : State) (zero : Bool) (pd : Pd) (ta tb : BitVec 5) (ct : Completion) : Result :=
  s.fire pd fun f s =>
    let c := s.cell f.cell
    let v := f.l 8
    let a := c.tile ta.toNat
    let b := c.tile tb.toNat
    if !s.matrixFree f || !c.tileGo f.region ta.toNat || !c.tileGo f.region tb.toNat then .next (s.putBack f)
    else if bits v 7 6 ≠ 0 || bits v 15 13 ≠ 0 || bits v 63 22 ≠ 0 || a.nrows < bits v 5 0 + 1 || b.nrows ≤ bits v 21 16 then
      s.takeTrap f .trap 0x3FF5 v
    else if !c.sourceTile a c.fmt.afmt || !c.computeTile b then s.takeShape f 0xC3 0
    else if !c.ownsTile a f.region || !c.ownsTile b f.region then s.takeShape f 0xC2 0
    else
      let q : MatSeq := { zero := zero, ta := ta.toNat, tb := tb.toNat, mt := bits v 5 0 + 1, nt := bits v 12 8 + 1,
                          bidx := bits v 21 16, targets := ctTargets ct, firing := f }
      s.startLate f (ctTargets ct) 4 false fun _ s => s.updCell f.cell fun c => { c with seqs := q :: c.seqs }

/-- MMA (R367). -/
def execMma (pd : Pd) (ta tb : BitVec 5) (ct : Completion) (s : State) : Result := s.sequenceForm false pd ta tb ct

/-- MMAZ (R367). -/
def execMmaz (pd : Pd) (ta tb : BitVec 5) (ct : Completion) (s : State) : Result := s.sequenceForm true pd ta tb ct

/-- One row step of the sequence on top of a cell's matrix unit; after the last, its completion token (R367 to R370). -/
def execMatrixRowStep (s : State) : Result :=
  let a := s.sch.args
  let k := cellKey a.die a.x a.y
  match (s.cell k).seqs with
  | [] => .next s
  | q :: t =>
    let last := decide (q.mt ≤ q.row + 1)
    let s := s.updCell k fun c => { c.rowStep q with seqs := if last then t else { q with row := q.row + 1 } :: t }
    if last then .next (s.land q.firing q.firing.acc.tag .none (q.targets.map fun t => (t, Val.of 4 0))) else .next s

/-! ## Readout and status (R371, R372) -/

/-- A one-cycle matrix instruction over the rectangle or row in L (R369, R371, R373): `zr` where bit 16 is a field. -/
def State.arrayForm (s : State) (zr : Bool) (pd : Pd) (m : Firing → Nat → State → Result) : Result :=
  s.fire pd fun f s =>
    let v := f.l 8
    if !s.matrixFree f then .next (s.putBack f)
    else if bits v 7 6 ≠ 0 || bits v 15 13 ≠ 0 || bits v 63 17 ≠ 0 || (!zr && bit v 16) then s.takeTrap f .trap 0x3FF5 v
    else m f v s

/-- MZERO (R371). -/
def execMzero (pd : Pd) (t1 t0 : Target) (s : State) : Result :=
  s.arrayForm false pd fun f v s =>
    s.finish f (both t0 t1 (Val.of 8 v)) 0 fun s => s.updCell f.cell fun c => c.clearAcc 0 (bits v 5 0 + 1) (bits v 12 8 + 1)

/-- A row of readout (R371): the entries of row m in VFMT, in ascending order. -/
def State.readRow (s : State) (f : Firing) (m nt r : Nat) : Nat × Flags × Word :=
  let fmt := s.vfmt f
  (List.range nt).foldl (fun (q : Nat × Flags × Word) n =>
    let x := fmt.give .rn (((s.cell f.cell).accAt m n).read r) q.2.2
    (q.1 + x.code % 2 ^ fmt.bits * 2 ^ (fmt.bits * n), q.2.1 ||| x.flags, x.rng)) (0, 0, s.rngOf f)

/-- MRD and MRDA with readout byte r (R371, R273). -/
def State.readoutForm (s : State) (pd : Pd) (t1 t0 : Target) (r : Firing → Nat) : Result :=
  s.arrayForm true pd fun f v s =>
    let m := bits v 5 0
    let nt := bits v 12 8 + 1
    let q := s.readRow f m nt (r f)
    let len := 4 * ceilDiv (nt * (s.vfmt f).bits) 32
    s.finish f (both t0 t1 (Val.of len q.1)) q.2.1 fun s =>
      (s.setRng f q.2.2).updCell f.cell fun c => if bit v 16 then c.clearAcc m 1 nt else c

/-- MRD (R371). -/
def execMrd (pd : Pd) (t1 t0 : Target) (s : State) : Result := s.readoutForm pd t1 t0 fun _ => 127

/-- MRDA (R371). -/
def execMrda (pd : Pd) (t1 t0 : Target) (s : State) : Result := s.readoutForm pd t1 t0 fun f => f.r 4 % 256

/-- The status word of a rectangle (R372). -/
def Cell.accStatus (c : Cell) (mt nt : Nat) : Nat :=
  let es := (List.range mt).flatMap (fun m => (List.range nt).map (fun n => c.accAt m n))
  let live := es.filter (fun a => !a.isNan && a.s ≠ 0)
  let emax := live.foldl (fun x a => max x a.e.toInt) (-512)
  bitOf (es.any AccEntry.isNan) + bitOf (live.any (fun a => a.e.toInt = 511)) * 2 +
  bitOf (es.all (fun a => a = {})) * 4 + wrap 10 emax * 2 ^ 16

/-- MSTAT (R372). -/
def execMstat (pd : Pd) (t1 t0 : Target) (s : State) : Result :=
  s.arrayForm false pd fun f v s =>
    s.finish f (both t0 t1 (Val.of 8 ((s.cell f.cell).accStatus (bits v 5 0 + 1) (bits v 12 8 + 1)))) 0 id

end Sys2Proof.Machine
end

