-- ==== Sys2Proof/Machine/Network.lean ====
section
/-!
DEFINITION. The routed network (R21 to R34, R44, R46, R48, R54 to R57): packet headers, the path of a packet, trimming at a
switch output, the SILLAGE lane, and the link ports.
-/

namespace Sys2Proof.Machine

/-! ## Packet headers (R25 to R29) -/

/-- The module of an address. -/
def addrModule (a : Nat) : Nat := bits a 17 14
/-- The die of an address. -/
def addrDie (a : Nat) : Nat := bits a 13 10
/-- The endpoint of an address. -/
def addrEp (a : Nat) : Nat := bits a 9 0

/-- The header flit without HCRC (R27). -/
def Pkt.header (p : Pkt) : Nat :=
  p.dst + p.src * 2 ^ 18 + p.cls * 2 ^ 36 + p.kind * 2 ^ 38 + bitOf p.trim * 2 ^ 41 + bitOf p.retx * 2 ^ 42 + bitOf p.last * 2 ^ 43 +
  bitOf p.ord * 2 ^ 44 + p.len * 2 ^ 45 + p.ctx * 2 ^ 54 + p.stream * 2 ^ 64 + p.seq * 2 ^ 80 + p.tag * 2 ^ 104 + p.addr * 2 ^ 136 +
  p.tcnt * 2 ^ 193 + p.dgrp * 2 ^ 197 + p.sgrp * 2 ^ 201 + p.rsvd * 2 ^ 205

/-- HCRC of a header: over bytes 0 to 29 (R27). -/
def Pkt.crc (p : Pkt) : Nat := crc16 (toBytes 30 p.header)

/-- A packet with its HCRC. -/
def Pkt.seal (p : Pkt) : Pkt := { p with hcrc := p.crc }

/-- A packet from its bytes: the header flit and the payload (R27). -/
def Pkt.read (bs : List Byte) : Pkt :=
  let h := ofBytes (bs.take 32)
  { dst := bits h 17 0, src := bits h 35 18, cls := bits h 37 36, kind := bits h 40 38, trim := bit h 41, retx := bit h 42,
    last := bit h 43, ord := bit h 44, len := bits h 53 45, ctx := bits h 63 54, stream := bits h 79 64, seq := bits h 103 80,
    tag := bits h 135 104, addr := bits h 192 136, tcnt := bits h 196 193, dgrp := bits h 200 197, sgrp := bits h 204 201,
    rsvd := bits h 239 205, hcrc := bits h 255 240, payload := (bs.drop 32).take (bits h 53 45) }

/-- Size in flits (R26, R31). -/
def Pkt.flits (p : Pkt) : Nat := 1 + ceilDiv p.len 32

/-- Whether a packet rides a data queue: DATA, ATOMIC and TOKEN, unless trimmed (R30). -/
def Pkt.dataKind (p : Pkt) : Bool := p.kind = 0 || p.kind = 4 || p.kind = 5
/-- Whether a packet rides the SILLAGE lane (R30). -/
def Pkt.sillage (p : Pkt) : Bool := p.trim || !p.dataKind

/-- Whether a number names an endpoint of a die code (R25). -/
def endpointExists (die ep : Nat) : Bool :=
  if die < 8 then decide (ep < 0x66) || ep = 0x70 || ep = 0x71
  else die = 8 && (decide (ep < 0x22) || (decide (0x30 ≤ ep) && decide (ep < 0x46)))

/-- Whether a header with a good HCRC is malformed (R28, R29). -/
def Pkt.malformed (p : Pkt) : Bool :=
  p.rsvd ≠ 0 || p.cls = 3 || p.kind = 7 ||
  decide ((if p.kind = 0 || p.kind = 5 then 256 else if p.kind = 4 then 32 else 0) < p.len) ||
  !endpointExists (addrDie p.dst) (addrEp p.dst) || !endpointExists (addrDie p.src) (addrEp p.src) ||
  (p.kind ≠ 5 && p.tag ≠ 0) || (p.kind = 5 && bits p.addr 56 28 ≠ 0) ||
  ((p.kind = 1 || p.kind = 2) && p.addr ≠ 0) || (p.kind = 3 && bits p.addr 56 32 ≠ 0) || (p.kind = 6 && 3 < p.addr) ||
  (!p.dataKind && (p.trim || p.retx || (p.kind ≠ 2 && p.tcnt ≠ 0)))

/-! ## Topology (R22, R74) -/

/-- The spine to which an endpoint of a die is attached; none for port cores and the hub's endpoints (R22, R23). -/
def spineOf (die ep : Nat) : Option Nat :=
  if 8 ≤ die || ep < 0x50 then none
  else if ep < 0x60 then some ((ep - 0x50) / 4)
  else if ep = 0x60 || ep = 0x61 then some 0
  else if ep = 0x62 then some 1
  else if ep = 0x63 || ep = 0x64 then some 2
  else if ep = 0x65 then some 3
  else some 0

/-- The output of its spine that feeds a spine-attached endpoint (R74). -/
def spineOut (ep : Nat) : Nat :=
  if ep < 0x60 then 20 + (ep - 0x50) % 4
  else if ep = 0x61 || ep = 0x64 then 25
  else if ep = 0x70 then 26 else if ep = 0x71 then 27 else 24

/-- The output of the hub switch that feeds a hub endpoint (R74). -/
def hubOut (ep : Nat) : Nat := 34 + if ep < 0x22 then ep else ep - 0x30 + 34

/-- The hub endpoint behind an output of the hub switch. -/
def hubEp (out : Nat) : Nat := if out - 34 < 34 then out - 34 else out - 34 - 34 + 0x30

/-- The switch and input to which an endpoint is attached; `die` 8 for the hub. Inputs are numbered as the outputs that face the
same element. -/
def attach (die ep : Nat) : Nat × Nat :=
  if 8 ≤ die then (192, hubOut ep)
  else match spineOf die ep with
    | none => (24 * die + ep / 4, ep % 4)
    | some j => (24 * die + 20 + j, spineOut ep)

/-- The place of spine k among the other spines of spine j, in ascending order. -/
def otherSpine (j k : Nat) : Nat := if k < j then k else k - 1

/-- What an output of a switch feeds. -/
inductive Hop where
  | none
  | switch (sw inp : Nat)
  | endpoint (die ep : Nat)
  | link (p : Nat)
  deriving DecidableEq, Repr

/-- What an output feeds (R22, R74). -/
def hopOf (sw out : Nat) : Hop :=
  if sw = 192 then
    if out < 16 then .switch (24 * (if out < 8 then 3 else 7) + 20 + out % 8 / 2) (40 + out % 2)
    else if out < 34 then .link (out - 16)
    else if out < 90 then .endpoint 8 (hubEp out) else .none
  else
    let d := sw / 24
    let n := sw % 24
    if n < 20 then
      if out < 4 then .endpoint d (4 * n + out) else if out < 8 then .switch (24 * d + 20 + (out - 4)) n else .none
    else
      let j := n - 20
      if out < 20 then .switch (24 * d + out) (4 + j)
      else if out < 24 then .endpoint d (0x50 + 4 * j + (out - 20))
      else if out = 24 then .endpoint d (0x60 + (if j = 0 then 0 else if j = 1 then 2 else if j = 2 then 3 else 5))
      else if out = 25 then (if j = 0 then .endpoint d 0x61 else if j = 2 then .endpoint d 0x64 else .none)
      else if out < 28 then (if j = 0 then .endpoint d (0x70 + (out - 26)) else .none)
      else if out < 34 then
        let i := (out - 28) / 2
        let k := if i < j then i else i + 1
        .switch (24 * d + 20 + k) (28 + 2 * otherSpine k j + out % 2)
      else if out < 36 then (if d % 4 = 0 then .none else .switch (24 * (d - 1) + n) (out + 2))
      else if out < 38 then (if d % 4 = 3 then .none else .switch (24 * (d + 1) + n) (out - 2))
      else if out < 40 then .switch (24 * ((d + 4) % 8) + n) out
      else if out < 42 && d % 4 = 3 then .switch 192 ((if d = 3 then 0 else 8) + 2 * j + out % 2)
      else .none

/-! ## Paths (R23, R54, R56, R57) -/

/-- The spine index of a packet's path (R23 step 1). -/
def Pkt.spine (p : Pkt) : Nat :=
  match spineOf (addrDie p.dst) (addrEp p.dst) with
  | some j => j
  | none => (p.stream % 4 + addrEp p.src % 4) % 4

/-- The lane of a packet's path (R23 step 2). -/
def Pkt.lane (p : Pkt) : Nat := bitOf (bit p.stream 2 != bit (addrEp p.src) 2)

/-- Whether a link port is UP. -/
def State.linkUp (s : State) (p : Nat) : Bool := (look {} s.links p).st = .up

/-- The link port of this module that leads to a module of its group (R54). -/
def State.portTo (s : State) (n : Nat) : Nat := (n + 31 - s.ownModule) % 16

/-- The module of the own group to which a stream to an address (with its group above it) goes first: the goal's own, or the one
with the link to its group (R57). -/
def State.nextModule (s : State) (dst stream : Nat) : Nat :=
  let g := s.ownGroup
  let h := dst / 2 ^ 18
  if h = g then addrModule dst else if stream % 2 = 0 then (h + 31 - g) % 16 else (g + 31 - h) % 16

/-- The link port on which a stream to another module leaves (R54, R57), or the port to the module that relays it (R56). -/
def State.exitPort (s : State) (dst stream : Nat) (via : Option Nat) : Nat :=
  let n := via.getD (s.nextModule dst stream)
  if n = s.ownModule then (if stream % 2 = 0 then 15 else 16) else s.portTo n

/-- Whether the link between two other modules of the group is UP, as their hubs tell. -/
def State.farUp (s : State) (k n : Nat) : Bool := !s.farDown.any (fun q => (q.1 = k && q.2 = n) || (q.1 = n && q.2 = k))

/-- The module that relays a path from module `src` to module `n` of the group: the lowest-numbered other one whose links to both are
UP (R56). -/
def State.relayTo (s : State) (src n : Nat) : Option Nat :=
  let m := s.ownModule
  if n = m then none
  else (List.range 16).find? (fun k => k ≠ m && k ≠ n && k ≠ src && s.linkUp (s.portTo k) && s.farUp k n)

/-- Whether a path off the module is whole, as far as the own hub can tell. -/
def State.pathUp (s : State) (dst stream : Nat) (via : Option Nat) : Bool :=
  s.linkUp (s.exitPort dst stream via) && (match via with
    | none => true
    | some k => s.farUp k (s.nextModule dst stream))

/-- The relay on a stream's fixed path (R23, R56), held by the stream's entry at the endpoint of this module that sends the packet. -/
def State.viaOf (s : State) (p : Pkt) : Option Nat :=
  if addrModule p.src ≠ s.ownModule || p.sgrp ≠ s.ownGroup then none
  else
    let e := s.ep (addrKey p.src)
    let goal := p.dst + p.dgrp * 2 ^ 18
    if p.dataKind || (p.kind = 6 && p.addr ≤ 1) then (e.sends.find? (fun t => t.stream = p.stream && t.dst = goal)).bind SendStream.via
    else (e.recvs.find? (fun t => t.stream = p.stream && t.src = goal)).bind RecvStream.via

/-- The link port on which a packet leaves for another module (R54, R57): its path's, or a relay's where that link is not UP (R56). -/
def State.linkFor (s : State) (p : Pkt) : Option Nat :=
  let goal := p.dst + p.dgrp * 2 ^ 18
  let q := s.exitPort goal p.stream (s.viaOf p)
  if s.linkUp q then some q
  else
    let src := if p.sgrp = s.ownGroup then addrModule p.src else s.ownModule
    (s.relayTo src (s.nextModule goal p.stream)).map s.portTo

/-- The output of a switch on which a packet leaves; none where no path is left (R23). -/
def State.route (s : State) (sw : Nat) (p : Pkt) : Option Nat :=
  let here := p.dgrp = s.ownGroup && addrModule p.dst = s.ownModule
  let dd := addrDie p.dst
  let ep := addrEp p.dst
  let j := p.spine
  if sw = 192 then
    if !here then (s.linkFor p).map (· + 16)
    else if dd = 8 then some (hubOut ep)
    else some ((if dd < 4 then 0 else 8) + 2 * j + p.lane)
  else
    let d := sw / 24
    let n := sw % 24
    let away := !here || dd = 8
    if n < 20 then
      if !away && dd = d && ep < 0x50 && ep / 4 = n then some (ep % 4) else some (4 + j)
    else
      let k := n - 20
      if k ≠ j then some (28 + 2 * otherSpine k j + p.lane)
      else if away then (if d % 4 = 3 then some (40 + p.lane) else some (36 + p.lane))
      else if d / 4 ≠ dd / 4 then some (38 + p.lane)
      else if dd < d then some (34 + p.lane)
      else if d < dd then some (36 + p.lane)
      else if ep < 0x50 then some (ep / 4) else some (spineOut ep)

/-! ## Switches (R29 to R34) -/

/-- The key of a switch output or input. -/
def swKey (sw n : Nat) : Nat := 128 * sw + n

/-- A switch output. -/
def State.swOut (s : State) (sw out : Nat) : SwOut := look {} s.outs (swKey sw out)
/-- A switch output changed. -/
def State.updSwOut (s : State) (sw out : Nat) (f : SwOut → SwOut) : State := { s with outs := upd {} (swKey sw out) f s.outs }
/-- A switch input. -/
def State.swIn (s : State) (sw inp : Nat) : SwIn := look {} s.ins (swKey sw inp)
/-- A switch input changed. -/
def State.updSwIn (s : State) (sw inp : Nat) (f : SwIn → SwIn) : State := { s with ins := upd {} (swKey sw inp) f s.ins }

/-- A header discarded at a switch and the machine check of its die or the hub (R29, R48, R89). -/
def State.discardAtSwitch (s : State) (sw : Nat) (hcrc : Bool) : State :=
  let s := { s with swErr := upd ({} : ErrCnt) sw (fun (e : ErrCnt) => if hcrc then ({ e with hcrc := satInc e.hcrc } : ErrCnt) else ({ e with malformed := satInc e.malformed } : ErrCnt)) s.swErr }
  let e : ErrCnt := look ({} : ErrCnt) s.swErr sw
  s.event 0x0005 (if sw = 192 then 8 else sw / 24) (e.hcrc.toNat * 65536 + e.malformed.toNat)

/-- A packet on its way from an element into a switch input: a SILLAGE header takes one of the 8 receive slots, or waits behind them
(R33). -/
def State.intoSwitch (s : State) (sw inp : Nat) (p : Pkt) : State :=
  s.updSwIn sw inp (fun i =>
    if !p.sillage then { i with data := i.data ++ [p] }
    else if i.sil.length < 8 && i.wait.isEmpty then { i with sil := i.sil ++ [p] } else { i with wait := i.wait ++ [p] })

/-- A SILLAGE header taken from an input, whose slot the next one that waits takes (R33). -/
def SwIn.takeHeader (i : SwIn) (p : Pkt) : SwIn :=
  { i with sil := dropFirst (fun q => q = p) i.sil ++ i.wait.head?.toList, wait := i.wait.tail }

/-- A packet that leaves an endpoint. -/
def State.launchPkt (s : State) (die ep : Nat) (p : Pkt) : State :=
  let a := attach die ep
  s.intoSwitch a.1 a.2 p

/-- Flits in a data queue (R31). -/
def queueFlits (q : List (Pkt × Nat)) : Nat := sumOf (q.map Prod.snd)

/-- The data queue of a note. -/
def SwOut.queue (o : SwOut) : Note → List (Pkt × Nat)
  | .top => o.qTop
  | .heart => o.qHeart
  | .base => o.qBase

/-- The data queue of a note changed. -/
def SwOut.setQueue (o : SwOut) (n : Note) (q : List (Pkt × Nat)) : SwOut :=
  match n with
  | .top => { o with qTop := q }
  | .heart => { o with qHeart := q }
  | .base => { o with qBase := q }

/-- The threshold of a note (R44). -/
def SwOut.threshold (o : SwOut) : Note → Nat
  | .top => o.thrTop.toNat
  | .heart => o.thrHeart.toNat
  | .base => o.thrBase.toNat

/-- A trim counted (R43, R46). -/
def SwOut.countTrim (o : SwOut) : Note → SwOut
  | .top => { o with cntTop := o.cntTop + 1 }
  | .heart => { o with cntHeart := o.cntHeart + 1 }
  | .base => { o with cntBase := o.cntBase + 1 }

/-- A packet whose payload is cut (R32). -/
def Pkt.trimmed (p : Pkt) : Pkt := ({ p with trim := true, tcnt := min 15 (p.tcnt + 1), payload := [] } : Pkt).seal

/-- Headers of an input in an output's store. -/
def SwOut.store (o : SwOut) (inp : Nat) : List Pkt := look [] o.stores inp

/-- A packet that reaches an output (R31 to R33): admitted whole, or trimmed into the header store, or its header left at the
input, which pauses. -/
def State.reachOutput (s : State) (sw inp out : Nat) (p : Pkt) : State :=
  let o := s.swOut sw out
  let n := Note.ofCode p.cls
  if queueFlits (o.queue n) + p.flits ≤ o.threshold n then
    s.updSwOut sw out (fun o => o.setQueue n (o.queue n ++ [(p, p.flits)]))
  else
    let s := s.updSwOut sw out (fun o => o.countTrim n)
    if (o.store inp).length < 4 then
      s.updSwOut sw out (fun o => { o with stores := upd [] inp (· ++ [p.trimmed]) o.stores })
    else s.updSwIn sw inp (fun i => { i with paused := some (out, p.trimmed) })

/-- A packet checked at a switch (R29) and passed on, or lost where no path is left (R56). -/
def State.checkPkt (s : State) (sw : Nat) (p : Pkt) (go : State → Nat → State) : State :=
  if p.hcrc ≠ p.crc then s.discardAtSwitch sw true
  else if p.malformed then s.discardAtSwitch sw false
  else match s.route sw p with
    | none => s
    | some out => go s out

/-- What arrives on a link port from its peer: `n` of the peer's SILLAGE slots free again (R33, R53), and a packet, given by its
bytes, where there are any. -/
def State.fromPeer (s : State) (p n : Nat) (bs : List Nat) : State :=
  if !s.linkUp p then s
  else
    let s := { s with links := upd {} p (fun l => { l with slots := l.slots - n }) s.links }
    if bs.isEmpty then s else s.intoSwitch 192 (16 + p) (Pkt.read (bs.map (fun b => BitVec.ofNat 8 b)))

/-- SWITCH_PACKET_ARRIVAL (R29, R31 to R33): the head of input `inp` of switch `sw` reaches its output. With `flag`, the packet
whose bytes `list` holds comes in first from the peer of link port `link`, and `seq` of the peer's SILLAGE slots are free again. -/
def execSwitchPacketArrival (s : State) : Result :=
  let a := s.sch.args
  let s := if a.flag then s.fromPeer a.link a.seq a.list else s
  let i := s.swIn a.sw a.inp
  match i.paused, i.data with
  | none, p :: t => .next ((s.updSwIn a.sw a.inp (fun i => { i with data := t })).checkPkt a.sw p (fun s out => s.reachOutput a.sw a.inp out p))
  | _, _ => .next s

/-- Whether a SILLAGE header at an input may leave it towards an output: one for it, or one that is discarded or lost (R29, R56). -/
def State.headerFor (s : State) (sw : Nat) (p : Pkt) (out : Nat) : Bool :=
  p.hcrc ≠ p.crc || p.malformed || (match s.route sw p with
    | none => true
    | some o => o = out)

/-- The header that pauses an input, where it waits for an output's store. -/
def SwIn.pausedFor (i : SwIn) (out : Nat) : Option Pkt := (i.paused.filter (fun q => q.1 = out)).map Prod.snd

/-- HEADER_STORE_ENTRY (R33): the header that pauses input `inp` of switch `sw` for output `out`, else the input's first SILLAGE header
for that output, enters its store when a slot is free. -/
def execHeaderStoreEntry (s : State) : Result :=
  let a := s.sch.args
  let i := s.swIn a.sw a.inp
  if 4 ≤ ((s.swOut a.sw a.out).store a.inp).length then .next s else
  let enter := fun (s : State) (p : Pkt) => s.updSwOut a.sw a.out (fun o => { o with stores := upd [] a.inp (· ++ [p]) o.stores })
  match i.pausedFor a.out with
  | some p => .next (enter (s.updSwIn a.sw a.inp (fun i => { i with paused := none })) p)
  | none =>
    match i.sil.find? (fun p => s.headerFor a.sw p a.out) with
    | none => .next s
    | some p => .next ((s.updSwIn a.sw a.inp (fun i => i.takeHeader p)).checkPkt a.sw p (fun s _ => enter s p))

/-- A packet delivered to what an output feeds; a SILLAGE header takes one of the slots at a link's peer (R33, R53). -/
def State.passHop (s : State) (sw out : Nat) (p : Pkt) : State :=
  match hopOf sw out with
  | .none => s
  | .switch sw' inp => s.intoSwitch sw' inp p
  | .endpoint die ep => { s with eps := upd {} (1024 * die + ep) (fun e => { e with inbox := e.inbox ++ [p] }) s.eps }
  | .link l =>
    if s.linkUp l then
      { s with links := upd {} l (fun q => { q with sent := q.sent ++ [p], slots := q.slots + bitOf p.sillage }) s.links }
    else s

/-- Whether what an output feeds can take a SILLAGE header: one of the 8 receive slots of the next switch, or of a link's peer, is free
(R33, R53); an endpoint never refuses one. -/
def State.silCredit (s : State) (sw out : Nat) : Bool :=
  match hopOf sw out with
  | .switch sw' inp => decide ((s.swIn sw' inp).sil.length < 8)
  | .link l => decide ((look {} s.links l).slots < 8)
  | _ => true

/-- The next input, after the one served last, whose header store holds a header (R34). -/
def SwOut.nextStore (o : SwOut) : Option (Nat × Pkt) :=
  ((List.range 128).map (fun i => (o.rr + 1 + i) % 128)).findSome? (fun i => (o.store i).head?.map (fun p => (i, p)))

/-- The note of the data packet whose flit goes next: the one in service, else the highest note waiting (R34). -/
def SwOut.nextNote (o : SwOut) : Option Note :=
  match o.service with
  | some n => some n
  | none => [Note.top, Note.heart, Note.base].find? (fun n => !(o.queue n).isEmpty)

/-- Whether an output waits for an input behind it that is paused: its next data packet is then not taken (R33). -/
def State.dataHeld (s : State) (sw out : Nat) : Bool :=
  match hopOf sw out with
  | .switch sw' inp => (s.swIn sw' inp).paused.isSome
  | _ => false

/-- One data flit of a note: the packet goes on, and leaves its queue, with its last (log 42). -/
def State.dataFlit (s : State) (sw out : Nat) (n : Note) : State :=
  match (s.swOut sw out).queue n with
  | [] => s.updSwOut sw out (fun o => { o with service := none })
  | (p, left) :: t =>
    if left = p.flits && s.dataHeld sw out then s
    else
      let s := if left ≤ 1 then s.passHop sw out p else s
      s.updSwOut sw out (fun o => { (o.setQueue n (if left ≤ 1 then t else (p, left - 1) :: t)) with
        service := if left ≤ 1 then none else some n, lastSil := false })

/-- The note of the data flit that an output can send now: none where its packet's head is held. -/
def State.dataNote (s : State) (sw out : Nat) : Option Note :=
  let o := s.swOut sw out
  match o.nextNote with
  | none => none
  | some n =>
    match o.queue n with
    | [] => some n
    | (p, left) :: _ => if left = p.flits && s.dataHeld sw out then none else some n

/-- The SILLAGE header that an output sends next: every other slot at most while data goes too (R34). -/
def State.silNext (s : State) (sw out : Nat) : Option (Nat × Pkt) :=
  let o := s.swOut sw out
  if (o.lastSil && (s.dataNote sw out).isSome) || !s.silCredit sw out then none else o.nextStore

/-- FLIT_DEPART (R34): output `out` of switch `sw` sends its next flit. -/
def execFlitDepart (s : State) : Result :=
  let a := s.sch.args
  match s.silNext a.sw a.out with
  | some (i, p) =>
    let s := s.passHop a.sw a.out p
    .next (s.updSwOut a.sw a.out (fun o => { o with stores := upd [] i List.tail o.stores, rr := i, lastSil := true }))
  | none =>
    match s.dataNote a.sw a.out with
    | some n => .next (s.dataFlit a.sw a.out n)
    | none => .next (s.updSwOut a.sw a.out (fun o => { o with lastSil := false }))

/-- FLIT_REPLAY (R24, R53): a flit of output `out` of switch `sw` is sent again; only a link port counts it. -/
def execFlitReplay (s : State) : Result :=
  let a := s.sch.args
  match hopOf a.sw a.out with
  | .link l => .next { s with links := upd {} l (fun q => { q with replays := satInc q.replays }) s.links }
  | _ => .next s

/-! ## Link ports (R54, R55) -/

/-- STATE of LNK_STATUS (R55). -/
def LinkState.code : LinkState → Nat
  | .down => 0
  | .training => 1
  | .up => 2
  | .miswire => 3

/-- LNK_STATUS of a link port (R55). -/
def State.lnkStatus (s : State) (p : Nat) : Nat :=
  let l := look {} s.links p
  l.st.code * 2 ^ 30 + bitOf (s.defect 6 255 p 0) * 2 ^ 29 + l.peer.toNat * 2 ^ 20 + l.replays.toNat

/-- The group and module that a port expects of its peer (R54, R57); none where it expects none. -/
def State.expectedPeer (s : State) (p : Nat) : Option (Nat × Nat) :=
  let g := s.ownGroup
  let m := s.ownModule
  if p < 15 then some (g, (m + p + 1) % 16)
  else if m = 15 then none
  else if p = 15 then some ((g + m + 1) % 16, 14 - m)
  else if p = 16 then some ((g + 31 - m) % 16, 14 - m)
  else none

/-- Whether a port can carry a module link: the part has it, the defect map does not disable it (R54), and it is not the Ethernet port
17 that the release engine has selected (R66). -/
def State.trains (s : State) (p : Nat) : Bool :=
  decide (p < 18) && decide (p < s.flash.linkPorts) && !s.defect 6 255 p 0 && (p ≠ 17 || s.rel.ptpSrc)

/-- The links between other modules of the group that are not UP, from pairs 16 module + module. -/
def farPairs (l : List Nat) : List (Nat × Nat) := l.map (fun q => (q / 16 % 16, q % 16))

/-- LINK_TRAINED (R54, R55): link port `link` ends its training with the peer's LNK_MOD in `value`: UP, or MISWIRE where the
peer is not the expected one; a change of STATE raises its event. `list` holds what the hubs tell of the other modules' links (R56,
log 54). DESIGN CHOICE (log 52): a port on which no rule expects a peer enters MISWIRE whatever its peer reports, and a port that has
gone DOWN, or is in MISWIRE, goes to UP or MISWIRE with no TRAINING before it; R54 and R55 name neither case. -/
def execLinkTrained (s : State) : Result :=
  let a := s.sch.args
  if !s.trains a.link || s.linkUp a.link then .next s else
  let v := a.value.toNat % 256
  let st := if s.expectedPeer a.link = some (v / 16, v % 16) then LinkState.up else LinkState.miswire
  let old := (look {} s.links a.link).st
  let s := { s with links := upd {} a.link (fun l => { l with st := st, peer := BitVec.ofNat 8 v }) s.links, farDown := farPairs a.list }
  .next (if st = old then s else s.event 0x0003 a.link (s.lnkStatus a.link))

end Sys2Proof.Machine
end

