-- ==== Sys2Proof/Machine/Streams.lean ====
section
/-!
DEFINITION. Streams at the endpoints (R35 to R48, R151, R167, R426): opening, grants, sending, acknowledgements, holes and
re-requests, delivery, closing and starving; and MIGR (R410).
-/

namespace Sys2Proof.Machine

/-! ## Endpoints -/

/-- Local cycles of an endpoint's clock (R4): the die's network clock, or the hub clock. -/
def State.epCycle (s : State) (k : Nat) : Nat := if k / 1024 = 8 then s.hub.cycles.toNat else (s.die (k / 1024)).netCycles.toNat

/-- The source of a packet, with its group above it. -/
def Pkt.from (p : Pkt) : Nat := p.src + p.sgrp * 2 ^ 18

/-- A packet of an endpoint to an address, sealed (R27). -/
def State.mkPkt (s : State) (k goal : Nat) (p : Pkt) : Pkt :=
  ({ p with dst := goal % 2 ^ 18, dgrp := goal / 2 ^ 18, src := s.epAddr k % 2 ^ 18, sgrp := s.ownGroup } : Pkt).seal

/-- A packet sent by an endpoint. -/
def State.sendPkt (s : State) (k goal : Nat) (p : Pkt) : State := s.launchPkt (k / 1024) (k % 1024) (s.mkPkt k goal p)

/-- The SEQ near a reference whose low 24 bits are given (R35). -/
def absSeq (base seq : Nat) : Nat :=
  let d := (seq + 2 ^ 24 - base % 2 ^ 24) % 2 ^ 24
  if d < 2 ^ 23 then base + d else base + d - 2 ^ 24

/-- The send-table entry of a stream. -/
def Endpoint.send? (e : Endpoint) (stream : Nat) : Option SendStream := e.sends.find? (fun t => t.stream = stream)

/-- A send-table entry changed. -/
def State.updSend (s : State) (k stream : Nat) (f : SendStream → SendStream) : State :=
  s.updEp k (fun e => { e with sends := changeFirst (fun t => t.stream = stream) f e.sends })

/-- The receive-table entry of a stream. -/
def Endpoint.recv? (e : Endpoint) (src stream : Nat) : Option RecvStream := e.recvs.find? (fun t => t.src = src && t.stream = stream)

/-- A receive-table entry changed. -/
def State.updRecv (s : State) (k src stream : Nat) (f : RecvStream → RecvStream) : State :=
  s.updEp k (fun e => { e with recvs := changeFirst (fun t => t.src = src && t.stream = stream) f e.recvs })

/-- The lowest free index of a table of 512 entries. -/
def freeIndex (used : List Nat) : Option Nat := (List.range 512).find? (fun i => !used.contains i)

/-! ## What a stream's end does to its operation (R40, R42) -/

/-- The work of a record done: it completes with a STATUS (RECORD_COMPLETE). -/
def State.recordDone (s : State) (ctx chain ordinal status : Nat) : State :=
  s.updRcd ctx chain ordinal (fun r => if r.work = 0 then { r with work := status } else r)

/-- The operation that owns a stream told of its end: closed, or ended by ABORT or a lost link. -/
def State.streamEnded (s : State) (t : SendStream) (ok : Bool) : State :=
  match t.owner with
  | .record ctx chain ordinal => s.recordDone ctx chain ordinal (if ok then 1 else 0x8004)
  | .coll ctx chain ordinal =>
    if ok then s else s.updColl ctx chain ordinal (fun c => if c.status.isNone then { c with status := some 0x8004 } else c)
  | .act id => s.updAct id (fun q => { q with opened := !q.queue.isEmpty && q.opened && ok })
  | _ => s

/-- A send-table entry freed. -/
def State.dropSend (s : State) (k stream : Nat) : State :=
  s.updEp k (fun e => { e with sends := e.sends.filter (fun t => t.stream ≠ stream) })

/-- A LINK_DOWN record (R56, R157): the hub names both endpoints, the stream and a SEQ. -/
def State.linkDown (s : State) (ctx k dst stream seq : Nat) : State :=
  s.putFault { cls := .linkDown, ctx := ctx, loc := whereN (k / 1024) (k % 1024), cycle := s.hub.cycles,
               bodyA := s.epAddr k % 2 ^ 18 + dst % 2 ^ 18 * 2 ^ 32 + stream * 2 ^ 64 + seq % 2 ^ 24 * 2 ^ 80 }

/-- LINK_DOWN of a stream with no path left (R56): its record, and its end as under ABORT. DESIGN CHOICE (log 52): WHERE names the
stream's own endpoint and SEQ the next new one; R56 and R156 give the form N alone. -/
def State.losePath (s : State) (k : Nat) (t : SendStream) : State :=
  ((s.linkDown t.ctx k t.dst t.stream t.next).dropSend k t.stream).streamEnded t false

/-- The path of a stream as it is now (R54, R56): whole without a relay, or with the relay found; none where there is no path. -/
def State.choosePath (s : State) (dst stream : Nat) : Option (Option Nat) :=
  if addrModule dst = s.ownModule && dst / 2 ^ 18 = s.ownGroup then some none
  else if s.pathUp dst stream none then some none
  else (s.relayTo s.ownModule (s.nextModule dst stream)).map some

/-- Whether a stream's fixed path still stands (R23). -/
def State.pathStands (s : State) (dst stream : Nat) (via : Option Nat) : Bool :=
  (addrModule dst = s.ownModule && dst / 2 ^ 18 = s.ownGroup) || s.pathUp dst stream via

/-- A send stream whose path has failed put on its new one, or ended where there is none (R56). -/
def State.rerouteSend (s : State) (k : Nat) (t : SendStream) : State :=
  if s.pathStands t.dst t.stream t.via then s
  else match s.choosePath t.dst t.stream with
    | some via => s.updSend k t.stream (fun t => { t with via := via })
    | none => s.losePath k t

/-- A receive stream whose path has failed put on its new one; freed where there is none (R56). -/
def State.rerouteRecv (s : State) (k : Nat) (r : RecvStream) : State :=
  if s.pathStands r.src r.stream r.via then s
  else match s.choosePath r.src r.stream with
    | some via => s.updRecv k r.src r.stream (fun r => { r with via := via })
    | none => s.updEp k (fun e => { e with recvs := e.recvs.filter (fun q => !(q.src = r.src && q.stream = r.stream)) })

/-! ## Opening (R35) -/

/-- OPEN of a stream sent. -/
def State.sendOpen (s : State) (k : Nat) (t : SendStream) : State :=
  s.sendPkt k t.dst { kind := 6, addr := 0, cls := t.cls.code, ord := t.ord, ctx := t.ctx, stream := t.stream }

/-- The number of a new stream of an endpoint: an activation stream's own, else the next that neither a stream of the endpoint nor one of
its activation streams has. -/
def State.newStream (s : State) (k : Nat) (w : SendStream) : Nat :=
  let e := s.ep k
  match w.feed with
  | .act _ => w.stream
  | _ =>
    let used := e.sends.map SendStream.stream ++ (s.acts.filter (fun q => q.src = s.epAddr k)).map ActStream.stream
    (e.nextStream + ((List.range 65536).find? (fun j => !used.contains ((e.nextStream + j) % 65536))).getD 0) % 65536

/-- STREAM_OPEN (R35): the next waiting operation of endpoint `ep`, in note order and then arrival, takes a send-table entry and
sends its OPEN; where it has no path it ends as R56 gives (DESIGN CHOICE, log 52). -/
def execStreamOpen (s : State) : Result :=
  let k := s.sch.args.ep
  let e := s.ep k
  match (sortBy (fun (a b : SendStream) => decide (a.cls.code ≤ b.cls.code)) e.wants).head?, freeIndex (e.sends.map (fun t => t.index)) with
  | some w, some i =>
    let n := s.newStream k w
    let path := s.choosePath w.dst n
    let t := { w with index := i, stream := n, st := .opening, rto := e.rto, via := path.getD none }
    let s := s.updEp k (fun e => { e with
      wants := dropFirst (fun q => q = w) e.wants, sends := e.sends ++ [t], nextStream := (n + 1) % 65536 })
    .next (if path.isNone then s.losePath k t else s.sendOpen k t)
  | _, _ => .next s

/-- A header discarded at an endpoint, and the machine check (R29, R48, R89). -/
def State.discardAtEp (s : State) (k : Nat) (hcrc : Bool) : State :=
  let s := s.updEp k (fun e => { e with err :=
    if hcrc then { e.err with hcrc := satInc e.err.hcrc } else { e.err with malformed := satInc e.err.malformed } })
  let e := (s.ep k).err
  s.event 0x0005 (k / 1024) (e.hcrc.toNat * 65536 + e.malformed.toNat)

/-- The first packet of an endpoint's inbox that `p` holds of, taken out: discarded where its HCRC fails or it is malformed (R29),
and otherwise given to `m`. -/
def State.takePkt (s : State) (k : Nat) (p : Pkt → Bool) (m : Pkt → State → State) : State :=
  match (s.ep k).inbox.find? p with
  | none => s
  | some q =>
    let s := s.updEp k (fun e => { e with inbox := dropFirst (fun r => r = q) e.inbox })
    if q.hcrc ≠ q.crc then s.discardAtEp k true else if q.malformed then s.discardAtEp k false else m q s

/-- A GRANT sent (R35): the limit C + WIN. -/
def State.sendGrant (s : State) (k src stream : Nat) : State :=
  match (s.ep k).recv? src stream with
  | none => s
  | some r =>
    let limit := r.cum + r.win
    let s := s.updRecv k src stream (fun r => { r with granted := r.cum, limit := max r.limit limit })
    s.sendPkt k src { kind := 1, cls := r.cls.code, ord := r.ord, ctx := r.ctx, stream := stream, seq := limit % 2 ^ 24 }

/-- OPEN_RECEIVE (R35): endpoint `ep` answers the first OPEN with a GRANT, or with REFUSE where its table is full. -/
def execOpenReceive (s : State) : Result :=
  let k := s.sch.args.ep
  .next (s.takePkt k (fun p => p.kind = 6 && p.addr = 0) fun p s =>
    let e := s.ep k
    match e.recv? p.from p.stream with
    | some _ => s.sendGrant k p.from p.stream
    | none =>
      match freeIndex (e.recvs.map (fun t => t.index)) with
      | none => s.sendPkt k p.from { kind := 6, addr := 3, cls := p.cls, ord := p.ord, ctx := p.ctx, stream := p.stream }
      | some i =>
        let r : RecvStream := { index := i, src := p.from, stream := p.stream, cls := Note.ofCode p.cls, ord := p.ord, ctx := p.ctx,
                                win := e.win.toNat, kmax := e.kmax, via := (s.choosePath p.from p.stream).getD none }
        (s.updEp k (fun e => { e with recvs := e.recvs ++ [r] })).sendGrant k p.from p.stream)

/-- REFUSE_RECEIVE (R35): the source's stream waits GAP local cycles before its next OPEN. -/
def execRefuseReceive (s : State) : Result :=
  let k := s.sch.args.ep
  .next (s.takePkt k (fun p => p.kind = 6 && p.addr = 3) fun p s =>
    s.updSend k p.stream (fun t => if t.st = .opening then { t with st := .refused, since := s.epCycle k } else t))

/-- OPEN_RETRY (R35): stream `stream` of endpoint `ep` sends its OPEN again once GAP local cycles have passed. -/
def execOpenRetry (s : State) : Result :=
  let a := s.sch.args
  match (s.ep a.ep).send? a.stream with
  | none => .next s
  | some t =>
    if t.st = .refused && decide (t.since + (s.ep a.ep).gap.toNat ≤ s.epCycle a.ep) then
      .next ((s.updSend a.ep a.stream (fun t => { t with st := .opening })).sendOpen a.ep t)
    else .next s

/-- A stream whose receiving endpoint a restore has moved (R56, R181): what it sends from now on goes there. -/
def State.moveGoal (s : State) (k : Nat) (t : SendStream) (dst : Nat) : State :=
  if t.dst = dst then s
  else
    let s := s.updSend k t.stream (fun t => { t with dst := dst, via := (s.choosePath dst t.stream).getD none })
    match t.owner with
    | .act id => s.updAct id (fun q => { q with goal := dst })
    | _ => s

/-- GRANT_RECEIVE (R35): a limit above the present one replaces it; the first GRANT opens the stream; one from a new endpoint moves
the stream there (R181). -/
def execGrantReceive (s : State) : Result :=
  let k := s.sch.args.ep
  .next (s.takePkt k (fun p => p.kind = 1) fun p s =>
    match (s.ep k).send? p.stream with
    | none => s
    | some t => (s.moveGoal k t p.from).updSend k p.stream (fun t =>
        let limit := absSeq t.limit p.seq
        { t with limit := max t.limit limit, st := if t.st = .opening then .open else t.st }))

/-! ## Sending (R35, R36, R38, R40) -/

/-- A data packet of a stream sent and kept until an ACK covers it. -/
def State.sendData (s : State) (k : Nat) (t : SendStream) (p : Pkt) (feed : Feed) : State :=
  let p := s.mkPkt k t.dst { p with cls := t.cls.code, ord := t.ord, ctx := t.ctx, stream := t.stream, seq := t.next % 2 ^ 24 }
  let s := s.updSend k t.stream (fun t => { t with
    next := t.next + 1, feed := feed, kept := t.kept ++ [(p, s.epCycle k)], sentLast := p.last, st := if p.last then .closing else t.st })
  let s := s.launchPkt (k / 1024) (k % 1024) p
  if p.last then s.sendPkt k t.dst { kind := 6, addr := 1, cls := t.cls.code, ord := t.ord, ctx := t.ctx, stream := t.stream } else s

/-- A stream that ends early: an empty last packet follows what was sent. -/
def State.cutFeed (s : State) (k : Nat) (t : SendStream) : State :=
  (s.updSend k t.stream (fun t => { t with owner := .outside })).sendData k { t with owner := .outside } { kind := 0, last := true } (.tokens [] true)

/-- Bytes that the next packet of a copy takes: at most 256, within one page of each address. -/
def chunkLen (left : Nat) (vas : List Nat) : Nat := vas.foldl (fun n va => min n (65536 - va % 65536)) (min left 256)

/-- The next packet of a copy or fill record (R96, R99, R249): its source read and its destination translated first. -/
def State.sendChunk (s : State) (k : Nat) (t : SendStream) (src : Option Nat) (dst left done : Nat) (pat : Nat) : State :=
  match t.owner with
  | .record ctx chain ordinal =>
    let vas := dst :: src.toList
    let n := chunkLen left vas
    let va := ((s.chain ctx chain).rcd? ordinal).map CmdRec.va
    let host := decide (2 ≤ (s.chain ctx chain).kind) && (s.touchesHost ctx dst n true || src.any (fun a => s.touchesHost ctx a n false))
    let stop := fun (s : State) (access a : Nat) (e : FaultClass × Nat) =>
      (s.halt ctx chain ordinal va 0x8003 e.1 (engineBody access a e.2)).cutFeed k t
    match s.walk ctx dst true with
    | .error e => stop s 1 dst e
    | .ok w =>
      let s := s.setAccessed w.path true
      let data : Except (FaultClass × Nat) (List Byte × State) := match src with
        | none => .ok ((List.range n).map (fun i => BitVec.ofNat 8 (pat / 2 ^ (8 * ((done + i) % 8)))), s)
        | some a => s.vaRead ctx a n
      match data with
      | .error e => stop s 0 (src.getD 0) e
      | .ok (bs, s) =>
        if host then (s.recordDone ctx chain ordinal 0x8008).cutFeed k t
        else
          let feed : Feed := match src with
            | none => .fill (dst + n) (left - n) pat (done + n)
            | some a => .copy (a + n) (dst + n) (left - n)
          s.sendData k t { kind := 0, len := n, addr := dst, last := left = n, payload := bs } feed
  | _ => s

/-- A token of an activation stream that its port core has sent: its slot of the producer's arc is free again (R151, R192). -/
def State.actSent (s : State) (q : ActStream) (len : Nat) : State :=
  match s.launched q.ctx q.launch with
  | none => s
  | some r =>
    match (s.cell (cellKey r.die (r.x0 + q.x) (r.y0 + q.y))).findWin r.id q.rwin with
    | none => s
    | some (_, w) =>
      s.notify r.id { px := r.x0 + q.x, py := r.y0 + q.y, pwin := q.rwin, parc := q.arc } ((look {} w.outs q.arc).need len)

/-- The block-transfer engine of a port core that has carried a transfer of its chain's records (R227): client 8 after its AGNs. -/
def State.chainTurn (s : State) (k : Nat) (t : SendStream) : State :=
  match t.owner with
  | .record .. => if k / 1024 < 8 && k % 1024 < 80 then s.updPort (80 * (k / 1024) + k % 1024) (fun c => { c with turn := 8 }) else s
  | _ => s

/-- PACKET_SEND (R35, R36, R40, R151): stream `stream` of endpoint `ep` sends its next packet, below its grant limit. -/
def execPacketSend (s : State) : Result :=
  let a := s.sch.args
  match (s.ep a.ep).send? a.stream with
  | none => .next s
  | some t =>
    if t.st ≠ .open || t.sentLast || t.limit ≤ t.next then .next s else
    let s := s.chainTurn a.ep t
    match t.feed with
    | .copy src dst left => .next (s.sendChunk a.ep t (some src) dst left 0 0)
    | .fill dst left pat done => .next (s.sendChunk a.ep t none dst left done pat)
    | .act id =>
      match (s.acts.find? (fun q => q.id = id)).map (fun q => (q, q.queue)) with
      | some (q, (tag, v) :: rest) =>
        let s := (s.updAct id (fun q => { q with queue := rest })).actSent q v.len
        .next (s.sendData a.ep t { kind := 5, len := v.len, tag := tag.toNat, payload := toBytes v.len v.bits } t.feed)
      | _ => .next s
    | .tokens [] true => .next (s.sendData a.ep t { kind := 0, last := true } t.feed)
    | .tokens [] false => .next s
    | .tokens (q :: rest) final =>
      .next (s.sendData a.ep t { kind := 5, len := q.2.2.len, tag := q.1, addr := q.2.1, payload := toBytes q.2.2.len q.2.2.bits,
                                 last := final && rest.isEmpty } (.tokens rest final))

/-- RREQ_RECEIVE (R38): a re-request of a packet still held is queued; of one covered by an ACK it is a duplicate. -/
def execRreqReceive (s : State) : Result :=
  let k := s.sch.args.ep
  .next (s.takePkt k (fun p => p.kind = 2) fun p s =>
    s.updSend k p.stream (fun t =>
      let t := { t with trims := satInc t.trims }
      if t.kept.any (fun q => q.1.seq = p.seq) then
        { t with resend := t.resend ++ [(p.seq, p.tcnt)]
                 kept := t.kept.map (fun q => if q.1.seq = p.seq then (q.1, s.epCycle k) else q) }
      else { t with dups := satInc t.dups }))

/-- A kept packet sent again, with RETX and a TCNT (R36, R38), to where the stream's receiver is now (R56). -/
def State.resendPkt (s : State) (k stream seq tcnt : Nat) : State :=
  match (s.ep k).send? stream with
  | none => s
  | some t =>
    match t.kept.find? (fun q => q.1.seq = seq) with
    | none => s
    | some q =>
      let p := s.mkPkt k t.dst { q.1 with retx := true, tcnt := tcnt }
      let s := s.updSend k stream (fun t => { t with
        retx := satInc t.retx, kept := t.kept.map (fun q => if q.1.seq = seq then (q.1, s.epCycle k) else q) })
      s.launchPkt (k / 1024) (k % 1024) p

/-- RETRANSMIT (R38): the oldest re-request of stream `stream` of endpoint `ep` is answered. -/
def execRetransmit (s : State) : Result :=
  let a := s.sch.args
  match ((s.ep a.ep).send? a.stream).bind (fun t => t.resend.head?) with
  | none => .next s
  | some q => .next ((s.updSend a.ep a.stream (fun t => { t with resend := t.resend.tail })).resendPkt a.ep a.stream q.1 q.2)

/-- RETRANSMISSION_TIMEOUT (R36): the timer of packet `seq` of stream `stream` of endpoint `ep` has reached 2^RTO cycles. -/
def execRetransmissionTimeout (s : State) : Result :=
  let a := s.sch.args
  match ((s.ep a.ep).send? a.stream).bind (fun t => (t.kept.find? (fun q => q.1.seq = a.seq)).map (fun q => q.2 + 2 ^ t.rto.toNat)) with
  | none => .next s
  | some due => .next (if due ≤ s.epCycle a.ep then s.resendPkt a.ep a.stream a.seq 0 else s)

/-- ACK_RECEIVE (R36): the packets below the cumulative point, and those of the bitmap, need not be kept. -/
def execAckReceive (s : State) : Result :=
  let k := s.sch.args.ep
  .next (s.takePkt k (fun p => p.kind = 3) fun p s =>
    s.updSend k p.stream (fun t =>
      let c := absSeq t.next p.seq
      let covered := fun (q : Pkt) =>
        let n := absSeq t.next q.seq
        decide (n < c) || (decide (c < n) && decide (n ≤ c + 32) && bit p.addr (n - c - 1))
      { t with kept := t.kept.filter (fun q => !covered q.1) }))

/-- CLOSED_RECEIVE (R40, R42): the stream is freed and its operation completes, or ends with an error where it was aborted. -/
def execClosedReceive (s : State) : Result :=
  let k := s.sch.args.ep
  .next (s.takePkt k (fun p => p.kind = 6 && p.addr = 2) fun p s =>
    match (s.ep k).send? p.stream with
    | none => s
    | some t => (s.dropSend k p.stream).streamEnded t (t.st = .closing && p.tcnt = 0 && !p.last))

/-! ## Receiving (R36 to R42) -/

/-- Whether a SEQ has been received whole (R41). -/
def RecvStream.has (r : RecvStream) (n : Nat) : Bool :=
  decide (n < r.cum) || r.seen.contains n || r.held.any (fun p => absSeq r.cum p.seq = n)

/-- The cumulative point: the lowest SEQ not received whole, within the window. DESIGN CHOICE (log 52): R36 and R47 use the point
and define it nowhere. -/
def RecvStream.point (r : RecvStream) : Nat :=
  ((List.range (r.win + r.limit - r.cum + 1)).map (fun i => r.cum + i)).find? (fun n => !r.has n) |>.getD r.cum

/-- Whether packets have been received that an ACK of a cumulative point does not cover: those past its bitmap (R28, R36). -/
def RecvStream.past (r : RecvStream) (c : Nat) : Bool :=
  r.seen.any (fun n => decide (c + 32 < n)) || r.held.any (fun p => decide (c + 32 < absSeq r.cum p.seq))

/-- An ACK sent (R36): the cumulative point and the bitmap above it. What it leaves unacknowledged waits 256 cycles more. -/
def State.sendAck (s : State) (k src stream : Nat) : State :=
  match (s.ep k).recv? src stream with
  | none => s
  | some r =>
    let c := r.point
    let map := sumOf ((List.range 32).map (fun i => bitOf (r.has (c + 1 + i)) * 2 ^ i))
    let now := s.epCycle k
    let s := s.updRecv k src stream (fun r => { r with acked := c, unacked := r.past c, since := now })
    s.sendPkt k src { kind := 3, cls := r.cls.code, ord := r.ord, ctx := r.ctx, stream := stream, seq := c % 2 ^ 24, addr := map }

/-- An ACK where the cumulative point has advanced by 8 or more since the last (R36). -/
def State.ackIfDue (s : State) (k src stream : Nat) : State :=
  match (s.ep k).recv? src stream with
  | none => s
  | some r => if r.acked + 8 ≤ r.point then s.sendAck k src stream else s

/-- The activation stream that a receive stream of an endpoint is (R151). -/
def State.actInto (s : State) (k src stream : Nat) : Option ActStream :=
  s.acts.find? (fun q => q.src = src && q.stream = stream && q.goal = s.epAddr k)

/-- Whether a TOKEN packet's ADDR breaks R28: only a MIGR stream, which enters at a port core (R426), uses it. -/
def State.badAddr (s : State) (k : Nat) (p : Pkt) : Bool :=
  p.kind = 5 && p.addr ≠ 0 && (decide (8192 ≤ k) || decide (0x50 ≤ k % 1024) || (s.actInto k p.from p.stream).isSome)

/-- A data packet at an endpoint checked (R28, R29, R35, R41): its stream's entry and its SEQ, or the discard. -/
def State.checkAtEp (s : State) (k : Nat) (p : Pkt) (go : RecvStream → Nat → State) : State :=
  match (s.ep k).recv? p.from p.stream with
  | none => s.discardAtEp k false
  | some r =>
    let n := absSeq r.cum p.seq
    if p.ord ≠ r.ord || r.limit ≤ n || s.badAddr k p then s.discardAtEp k false else go r n

/-- A hole filled or answered; a STARVED stream whose last starved hole goes is open again (R41, R42). -/
def RecvStream.fillHole (r : RecvStream) (n : Nat) : RecvStream :=
  let holes := r.holes.filter (fun h => h.seq ≠ n)
  { r with holes := holes, st := if r.st = .starved && !holes.any (fun h => h.starved) then .open else r.st }

/-- Whether a header is of no kind that R27 and R28 define: every element discards it as malformed (R29). -/
def Pkt.unknown (p : Pkt) : Bool := p.kind = 7 || (p.kind = 6 && decide (3 < p.addr))

/-- DATA_PACKET_RECEIVE (R29, R39 to R43): endpoint `ep` takes the first whole packet that has reached it, or the first header of no
kind, which it discards. -/
def execDataPacketReceive (s : State) : Result :=
  let k := s.sch.args.ep
  .next (s.takePkt k (fun p => (p.dataKind && !p.trim) || p.unknown) fun p s =>
    s.checkAtEp k p fun r n =>
      let count := fun (r : RecvStream) => if p.retx then { r with retx := satInc r.retx } else r
      if r.has n then s.updRecv k p.from p.stream (fun r => let r := count r; { r with dups := satInc r.dups })
      else
        let now := s.epCycle k
        (s.updRecv k p.from p.stream (fun r =>
          let r := (count r).fillHole n
          { r with held := r.held ++ [p], last := if p.last then some n else r.last
                   since := if r.unacked then r.since else now, unacked := true })).ackIfDue k p.from p.stream)

/-- The region of a context whose cell and window a map entry's upper bits name (R144, R410, R426). -/
def State.migrOwner (s : State) (ctx addr : Nat) : Option Region :=
  let e := 16 * addr
  s.regions.find? (fun r => r.die = bits e 31 28 && r.ctx = ctx && r.contains (bits e 27 21) (bits e 20 15) &&
    ((s.cell (cellKey r.die (bits e 27 21) (bits e 20 15))).findWin r.id (bits e 14 12)).isSome)

/-- The region whose frame waits on a token packet: the owner that a MIGR packet names, or the consumer of an activation stream
(R151, R167). -/
def State.starvedRegion (s : State) (k : Nat) (r : RecvStream) (p : Pkt) : Option Region :=
  if p.kind ≠ 5 then none
  else if p.addr ≠ 0 then s.migrOwner r.ctx p.addr
  else (s.actInto k r.src r.stream).bind (fun q => s.launched q.ctx q.claunch)

/-- LINK_STARVE (R42, R157, R167): the record, and the frame of a token stream trapped. -/
def State.linkStarve (s : State) (k : Nat) (r : RecvStream) (p : Pkt) : State :=
  let rcd : FaultRec := { cls := .linkStarve, ctx := r.ctx, tag := BitVec.ofNat 32 (if p.kind = 5 then p.tag else 0),
                          loc := whereN (k / 1024) (k % 1024), cycle := BitVec.ofNat 64 (s.epCycle k),
                          bodyA := p.src + p.tcnt * 2 ^ 24 + p.dst * 2 ^ 32 + p.stream * 2 ^ 64 + p.seq * 2 ^ 80 }
  match s.starvedRegion k r p with
  | none => s.putFault rcd
  | some g => s.updDie g.die (fun d => { d with
      reports := d.reports ++ [{ region := g.id, frm := tagFrm (BitVec.ofNat 32 p.tag), accord := none, rcd := rcd }] })

/-- TRIMMED_HEADER_RECEIVE (R37, R41, R42): endpoint `ep` takes the first trimmed header: a new or renewed hole, a duplicate, or
a starved stream. -/
def execTrimmedHeaderReceive (s : State) : Result :=
  let k := s.sch.args.ep
  .next (s.takePkt k (fun p => p.dataKind && p.trim) fun p s =>
    s.checkAtEp k p fun r n =>
      let now := s.epCycle k
      let count := fun (r : RecvStream) =>
        let r := if p.retx then { r with retx := satInc r.retx } else r
        { r with trims := satInc r.trims }
      if r.has n then s.updRecv k p.from p.stream (fun r => let r := count r; { r with dups := satInc r.dups })
      else if r.holes.any (fun h => h.seq = n && h.starved) then s.updRecv k p.from p.stream count
      else
        let starved := decide (r.kmax.toNat ≤ p.tcnt)
        let hole : Hole := { seq := n, tcnt := p.tcnt, tag := p.tag, addr := p.addr, kind := p.kind, born := now, starved := starved }
        let s := s.updRecv k p.from p.stream (fun r =>
          let r := count r
          { r with holes := r.holes.filter (fun h => h.seq ≠ n) ++ [hole], st := if starved then .starved else r.st })
        if starved then s.linkStarve k r p else s)

/-- The hole whose RREQ leaves next (R37): the oldest that waits for one. -/
def RecvStream.nextRreq (r : RecvStream) : Option Hole := r.holes.find? (fun h => !h.sent && !h.starved)

/-- The hole of a stream whose RREQ the pacer may take up: fewer than 8 of the stream's are out (R37). -/
def RecvStream.pendingRreq (r : RecvStream) : Option Hole :=
  if 8 ≤ (r.holes.filter (fun q => q.sent)).length then none else r.nextRreq

/-- The RREQ of a stream that the pacer of an endpoint may send now (R37): its trimmed header came a cycle ago, the gap since the last
RREQ to its source has passed, and no hole of that source is older. -/
def State.rreqReady (s : State) (k : Nat) (r : RecvStream) : Option Hole :=
  let e := s.ep k
  let now := s.epCycle k
  let last := look 0 e.paced r.src
  let oldest := fun (h : Hole) => e.recvs.all (fun q => q.src ≠ r.src || (q.pendingRreq.map (fun g => decide (h.born ≤ g.born))).getD true)
  r.pendingRreq.filter (fun h => decide (h.born + 1 ≤ now) &&
    (last = 0 || decide (last - 1 + e.gap.toNat * 2 ^ (h.tcnt - 1) ≤ now)) && oldest h)

/-- RREQ_SEND (R37): the pacer of endpoint `ep` sends the next RREQ of stream `stream` of source `src`. -/
def execRreqSend (s : State) : Result :=
  let a := s.sch.args
  match (s.ep a.ep).recv? a.src a.stream with
  | none => .next s
  | some r =>
    match s.rreqReady a.ep r with
    | none => .next s
    | some h =>
        let now := s.epCycle a.ep
        let s := s.updRecv a.ep a.src a.stream (fun r => { r with holes := changeFirst (fun q => q.seq = h.seq) (fun q => { q with sent := true }) r.holes })
        let s := s.updEp a.ep (fun e => { e with paced := put 0 a.src (now + 1) e.paced })
        .next (s.sendPkt a.ep a.src { kind := 2, cls := r.cls.code, ord := r.ord, ctx := r.ctx, stream := a.stream, seq := h.seq % 2 ^ 24, tcnt := h.tcnt })

/-! ## Delivery and closing (R39, R40) -/

/-- The packet of a stream that can be delivered next (R39, R40). -/
def RecvStream.deliverable (r : RecvStream) : Option Pkt :=
  if r.ord then r.held.find? (fun p => absSeq r.cum p.seq = r.cum) else r.held.head?

/-- A token packet delivered by its map entry (R410, R426): an input-queue entry taken at the owner and the token sent there;
no owner discards it with a TRAP record; none while no entry is free or the region does not take it. -/
def State.deliverToken (s : State) (k : Nat) (p : Pkt) : Option State :=
  let e := 16 * p.addr
  match s.migrOwner p.ctx p.addr with
  | none =>
    some (s.putFault { cls := .trap, ctx := p.ctx, tag := BitVec.ofNat 32 p.tag, loc := whereN (k / 1024) (k % 1024), bodyA := 0x3FFA,
                       cycle := (s.die (k / 1024)).netCycles })
  | some r =>
    if r.st ≠ .running || r.stop ≠ .none then none else
    let x := bits e 27 21
    let y := bits e 20 15
    match portOf (bits e 5 4), s.takeEntry (cellKey r.die x y) r.id with
    | some port, some (pool, s) =>
      let (id, s) := s.newId
      let t : Tok := { id := id, region := r.id, sx := x, sy := y, x := x, y := y, dest := .slot (bits e 14 12) (bits e 11 6) port,
                       tag := BitVec.ofNat 32 p.tag, val := { len := p.len, bits := ofBytes p.payload }, note := Note.ofCode p.cls, pool := pool }
      some { s with toks := s.toks ++ [t] }
    | _, _ => none

/-- A token of an activation stream delivered into the consumer's arc against its credit (R151, R192); none while the arc has no
slot or the region does not take it. -/
def State.deliverAct (s : State) (q : ActStream) (p : Pkt) : Option State :=
  match s.launched q.ctx q.claunch with
  | none => none
  | some r =>
    let k := cellKey r.die (r.x0 + q.cx) (r.y0 + q.cy)
    match (s.cell k).findWin r.id q.cwin with
    | none => none
    | some (w, _) =>
      let v : Val := { len := p.len, bits := ofBytes p.payload }
      let need := (s.inArc k w q.carc).need (meshLen v)
      if r.st ≠ .running || r.stop ≠ .none || decide (q.cred < need) then none
      else
        let tag : Tag := BitVec.ofNat 32 p.tag
        let goal := r.steer (r.x0 + q.cx) (r.y0 + q.cy) q.cwin tag v
        let (id, s) := (s.updAct q.id (fun q => { q with cred := q.cred - need })).newId
        let t : Tok := { id := id, region := r.id, sx := 80 + addrEp q.goal, x := goal.1, y := goal.2, dest := .arc q.cwin q.carc,
                         tag := tag, val := v, kind := .arc, note := Note.ofCode p.cls, pool := .arc, parc := q.id }
        some { s with toks := s.toks ++ [t] }

/-- A chunk that a die's tree sends to a link collective engine (R61 step 1): the stream's owner at the die scheduler's endpoint names
the collective, the TAG the chunk (log 54). -/
def State.deliverChunk (s : State) (k : Nat) (p : Pkt) : Option State :=
  match (((s.ep (addrKey p.src)).send? p.stream).map SendStream.owner) with
  | some (.coll ctx chain ordinal) =>
    some ((s.updColl ctx chain ordinal (fun c => { c with
      chunks := c.chunks ++ [(k - engineEp 0, addrDie p.src, p.tag, { len := p.len, bits := ofBytes p.payload })] })).moveColl ctx chain ordinal)
  | _ => some s

/-- The 32-bit words of a payload. -/
def payloadWords (p : Pkt) : List Word :=
  (List.range (p.payload.length / 4)).map (fun i => BitVec.ofNat 32 (ofBytes ((p.payload.drop (4 * i)).take 4)))

/-- A partial of another member at its owner's engine (R61, R62): the collective is the one of its CTX and CID (log 54). It waits in
the stream's window until the own record has started, and while the engine holds 16 KiB of the member's that earlier ranks keep back. -/
def State.deliverPartial (s : State) (k : Nat) (p : Pkt) : Option State :=
  match s.colls.find? (fun c => c.ctx = p.ctx && c.cid = p.tag && engineEp (s.engineFor c c.rank) = k) with
  | none => none
  | some c =>
    match c.members.findIdx? (fun m => m = 16 * p.sgrp + addrModule p.src) with
    | none => some s
    | some rank =>
      let ws := payloadWords p
      if c.status.isSome then some s
      else if decide (4096 < ((c.waits rank).getD []).length + ws.length) then none
      else some (s.updColl c.ctx c.chain c.ordinal (fun c => c.putPartial rank ws))

/-- A token of the release engine at a die scheduler (R134): TAG 0 a deadline token, else the phase; its value the frame (log 54). -/
def State.deliverRel (s : State) (d : Nat) (p : Pkt) : State :=
  let f := ofBytes p.payload
  let t : RelToken := if p.tag = 0 then .deadline f else .phase f p.tag
  { s with rel := { s.rel with tokens := upd [] d (fun l => l ++ [t]) s.rel.tokens } }

/-- A whole ATOMIC packet performed at its address (R28); what it leaves there is free (log 55). -/
def State.deliverAtomic (s : State) (p : Pkt) : State :=
  match s.vaRead p.ctx p.addr p.len with
  | .error _ => s
  | .ok (bs, s) => (s.vaWrite p.ctx p.addr (toBytes p.len (Config.packetAtomic (ofBytes p.payload) (ofBytes bs)))).1

/-- A TOKEN packet with ADDR 0 delivered by what its endpoint is: a link collective engine, a die scheduler, or the port core of an
activation stream; none where it must wait. A token that no arc takes stays in the window (log 23). -/
def State.deliverPlain (s : State) (k : Nat) (p : Pkt) : Option State :=
  if engineEp 0 ≤ k && k < engineEp 18 then
    (if addrModule p.src = s.ownModule && p.sgrp = s.ownGroup then s.deliverChunk k p else s.deliverPartial k p)
  else if k < 8192 && k % 1024 = 0x070 then some (s.deliverRel (k / 1024) p)
  else (s.actInto k p.from p.stream).bind (fun q => s.deliverAct q p)

/-- The effect of a packet's delivery: a token, or bytes written at its address in the context's space (log 13); none where it
must wait. -/
def State.deliver (s : State) (k : Nat) (p : Pkt) : Option State :=
  if p.kind = 5 then (if p.addr = 0 then s.deliverPlain k p else s.deliverToken k p)
  else if p.kind = 0 then some (s.vaWrite p.ctx p.addr p.payload).1
  else if p.kind = 4 then some (s.deliverAtomic p)
  else some s

/-- The lowest SEQ not delivered, past those seen above it. -/
def advanceCum (seen : List Nat) : Nat → Nat → Nat
  | 0, c => c
  | n + 1, c => if seen.contains c then advanceCum seen n (c + 1) else c

/-- A delivered SEQ counted. -/
def RecvStream.count (r : RecvStream) (n : Nat) : RecvStream :=
  let seen := r.seen ++ [n]
  let c := advanceCum seen seen.length r.cum
  { r with cum := c, seen := seen.filter (fun m => decide (c ≤ m)) }

/-- CLOSED sent and the entry freed where CLOSE has come and every SEQ is delivered (R40). -/
def State.closeIfDone (s : State) (k src stream : Nat) : State :=
  match (s.ep k).recv? src stream with
  | none => s
  | some r =>
    if r.closeAsked && (match r.last with
        | some n => decide (n < r.cum)
        | none => false) then
      let s := s.updEp k (fun e => { e with recvs := e.recvs.filter (fun t => !(t.src = src && t.stream = stream)) })
      s.sendPkt k src { kind := 6, addr := 2, cls := r.cls.code, ord := r.ord, ctx := r.ctx, stream := stream }
    else s

/-- PACKET_DELIVER (R35, R36, R39, R40, R426): endpoint `ep` delivers the next packet of stream `stream` of source `src`. -/
def execPacketDeliver (s : State) : Result :=
  let a := s.sch.args
  match (s.ep a.ep).recv? a.src a.stream with
  | none => .next s
  | some r =>
    match r.deliverable with
    | none => .next s
    | some p =>
      let fed := if p.kind = 5 && p.addr ≠ 0 then ((s.migrOwner p.ctx p.addr).map (fun g => g.id)).toList else []
      match s.deliver a.ep p with
      | none => .next s
      | some s =>
        let n := absSeq r.cum p.seq
        let s := s.updRecv a.ep a.src a.stream (fun r =>
          ({ r with held := dropFirst (fun q => q = p) r.held, fed := distinct (r.fed ++ fed) } : RecvStream).count n)
        if 65536 ≤ a.stream then .next s else
        let c := (((s.ep a.ep).recv? a.src a.stream).map RecvStream.cum).getD 0
        let s := if r.granted + 4 ≤ c then s.sendGrant a.ep a.src a.stream else s
        let s := if p.last then s.sendAck a.ep a.src a.stream else s
        .next (s.closeIfDone a.ep a.src a.stream)

/-- ACK_TIMER (R36): 256 local cycles have passed with packets of stream `stream` of source `src` not acknowledged. -/
def execAckTimer (s : State) : Result :=
  let a := s.sch.args
  match (s.ep a.ep).recv? a.src a.stream with
  | none => .next s
  | some r => .next (if r.unacked && decide (r.since + 256 ≤ s.epCycle a.ep) then s.sendAck a.ep a.src a.stream else s)

/-- CLOSE_RECEIVE (R40, R41): that of a stream not open here, or with another ORD, is malformed. -/
def execCloseReceive (s : State) : Result :=
  let k := s.sch.args.ep
  .next (s.takePkt k (fun p => p.kind = 6 && p.addr = 1) fun p s =>
    match (s.ep k).recv? p.from p.stream with
    | none => s.discardAtEp k false
    | some r =>
      if p.ord ≠ r.ord then s.discardAtEp k false
      else (s.updRecv k p.from p.stream (fun r => { r with closeAsked := true })).closeIfDone k p.from p.stream)

/-! ## The stream registers (R42, R47) -/

/-- STATE of a receive entry (R47). -/
def RecvStream.stateCode (r : RecvStream) : Nat :=
  match r.st with
  | .starved => 3
  | _ => if r.closeAsked then 2 else 1

/-- STAT0 to STAT3 of a receive entry (R47). -/
def RecvStream.stats (r : RecvStream) : List Nat :=
  [r.stateCode * 2 ^ 30 + bitOf r.ord * 2 ^ 29 + r.cls.code * 2 ^ 27 + r.holes.length * 2 ^ 18 + r.stream,
   r.trims.toNat * 2 ^ 16 + r.retx.toNat, r.point % 2 ^ 24, r.dups.toNat]

/-- STAT0 to STAT3 of a send entry (R47). -/
def SendStream.stats (t : SendStream) : List Nat :=
  [(if t.st = .closing then 2 else 1) * 2 ^ 30 + bitOf t.ord * 2 ^ 29 + t.cls.code * 2 ^ 27 + t.stream,
   t.trims.toNat * 2 ^ 16 + t.retx.toNat, t.next % 2 ^ 24, t.dups.toNat]

/-- A write to NET_STREAM_SEL: a snapshot of the selected entry latched into STAT0 to STAT3 (R47). -/
def State.selectStream (s : State) (k v : Nat) : State :=
  let e := s.ep k
  let i := bits v 8 0
  let stats := if bit v 31 then ((e.sends.find? (fun t => t.index = i)).map SendStream.stats).getD []
    else ((e.recvs.find? (fun t => t.index = i)).map RecvStream.stats).getD []
  let w := fun j => BitVec.ofNat 32 (stats.getD j 0)
  s.updEp k (fun e => { e with
    sel := BitVec.ofNat 32 (bitOf (bit v 31) * 2 ^ 31 + i), stat0 := w 0, stat1 := w 1, stat2 := w 2, stat3 := w 3 })

/-- STREAM_SELECT (R47): NET_STREAM_SEL of endpoint `ep` written with `value`. -/
def execStreamSelect (s : State) : Result := .next (s.selectStream s.sch.args.ep s.sch.args.value.toNat)

/-- The STARVED receive entry that NET_STREAM_SEL selects (R47). -/
def State.selectedStarved (s : State) (k : Nat) : Option RecvStream :=
  let e := s.ep k
  if bit e.sel.toNat 31 then none else e.recvs.find? (fun t => t.index = bits e.sel.toNat 8 0 && t.st = .starved)

/-- STREAM_RESUME (R42): an RREQ with TCNT 0 is paced for each starved hole of the selected entry of endpoint `ep`, and the stream
is open again. -/
def execStreamResume (s : State) : Result :=
  let k := s.sch.args.ep
  match s.selectedStarved k with
  | none => .next s
  | some r => .next (s.updRecv k r.src r.stream (fun r => { r with
      st := .open, holes := r.holes.map (fun h => if h.starved then { h with starved := false, sent := false, tcnt := 0 } else h) }))

/-- A receive stream freed under ABORT: CLOSED tells the source, marked as an abort by LAST (R42). -/
def State.abortRecv (s : State) (k : Nat) (r : RecvStream) : State :=
  let s := s.updEp k (fun e => { e with recvs := e.recvs.filter (fun t => !(t.src = r.src && t.stream = r.stream)) })
  s.sendPkt k r.src { kind := 6, addr := 2, cls := r.cls.code, ord := r.ord, ctx := r.ctx, stream := r.stream, last := true }

/-- STREAM_ABORT (R42): the selected STARVED entry of endpoint `ep` is freed, and its source is told. -/
def execStreamAbort (s : State) : Result :=
  let k := s.sch.args.ep
  match s.selectedStarved k with
  | none => .next s
  | some r => .next (s.abortRecv k r)

/-! ## Links that go down (R55, R56, R62) -/

/-- The member of a collective with no path left (R62). -/
def State.lostMember (s : State) (c : Coll) : Option Nat :=
  c.members.find? (fun m => m ≠ 16 * s.ownGroup + s.ownModule && (s.choosePath (netAddr (m % 16) 8 0 + m / 16 * 2 ^ 18) 0).isNone)

/-- A collective that names a member with no path left ended (R62): LINK_DOWN names the stream to the member. -/
def State.loseColl (s : State) (c : Coll) : State :=
  match s.lostMember c with
  | none => s
  | some m =>
    if c.status.isSome then s else
    let k := engineEp (leadPort s.ownGroup s.ownModule m)
    let goal := netAddr (m % 16) 8 (0x010 + freePort (m / 16) (m % 16) c.members) + m / 16 * 2 ^ 18
    let t := ((s.ep k).sends.find? (fun t => t.dst = goal && t.owner = .coll c.ctx c.chain c.ordinal)).getD {}
    (s.updColl c.ctx c.chain c.ordinal (fun c => { c with status := some 0x8004 })).linkDown c.ctx k goal t.stream t.next

/-- The packets and headers queued at a link's output, none of whose flits has left, put back into the hub switch (R56): they go on
by their new paths. -/
def State.requeue (s : State) (link : Nat) : State :=
  let o := s.swOut 192 (16 + link)
  let whole := ((o.qTop ++ o.qHeart ++ o.qBase).filter (fun q => q.2 = q.1.flits)).map Prod.fst
  let s := s.updSwOut 192 (16 + link) (fun o => { o with qTop := [], qHeart := [], qBase := [], service := none, stores := [] })
  (whole ++ o.stores.flatMap Prod.snd).foldl (fun s p => s.intoSwitch 192 (16 + link) p) s

/-- LINK_DOWN (R55, R56): link port `link` leaves UP: the flits on it are lost, the paths that crossed it are found anew, and streams
and collectives with no path left end. `list` holds what the hubs tell of the other modules' links (log 54); with `flag` only that has
changed. A port that ends its training without a peer, or leaves MISWIRE, only changes its STATE. -/
def execLinkDown (s : State) : Result :=
  let a := s.sch.args
  let far := fun s : State => { s with farDown := farPairs a.list }
  let paths := fun s : State =>
    let s := s.eps.foldl (fun s q => q.2.sends.foldl (fun s t => s.rerouteSend q.1 t) s) s
    let s := s.eps.foldl (fun s q => q.2.recvs.foldl (fun s r => s.rerouteRecv q.1 r) s) s
    s.colls.foldl State.loseColl s
  if a.flag then .next (paths (far s))
  else if 18 ≤ a.link || (look {} s.links a.link).st = .down then .next s else
  let s := far { s with links := upd {} a.link (fun l => { l with st := .down, slots := 0 }) s.links }
  .next (paths ((s.event 0x0003 a.link (s.lnkStatus a.link)).requeue a.link))

/-! ## MIGR (R410, R426) -/

/-- The key of the local stream of a binding to its own die. -/
def migrLocal (p : Nat) : Nat := 65536 + p

/-- A record put on the stream of a binding to the owner's die (R426). -/
def State.migrStream (s : State) (f : Firing) (b : Binding) (entry : Nat) (v : Val) : State :=
  let die := bits entry 31 28
  let k := 1024 * f.die + b.core
  let item := (f.acc.tag.toNat, entry / 16, v)
  if die = f.die then
    let src := s.epAddr k
    let stream := migrLocal (f.region * 32 + b.p)
    let p := fun (n : Nat) => s.mkPkt k src { kind := 5, cls := b.shape.note.code, ord := true, ctx := tagCtx f.acc.tag, stream := stream,
                                              seq := n % 2 ^ 24, tag := item.1, addr := item.2.1, len := v.len, payload := toBytes v.len v.bits }
    match (s.ep k).recv? src stream with
    | some r => s.updRecv k src stream (fun q => { q with held := q.held ++ [p r.limit], limit := r.limit + 1 })
    | none =>
      let r : RecvStream := { index := 512, src := src, stream := stream, cls := b.shape.note, ord := true, ctx := tagCtx f.acc.tag,
                              limit := 1, held := [p 0] }
      s.updEp k (fun e => { e with recvs := e.recvs ++ [r] })
  else
    s.feedStream k { dst := s.epAddr (1024 * die + b.core), cls := b.shape.note, ord := true, ctx := tagCtx f.acc.tag,
                     owner := .migr f.region b.p die } [item] false

/-- MIGR: the ray record L to the owner of partition p (R410). -/
def execMigr (pd : Pd) (s : State) : Result :=
  s.fire pd fun f s =>
    let d := f.r 4
    let c := s.cell f.cell
    let t := c.tile (bits d 16 12)
    let p := bits d 11 0
    if !c.tileReady (bits d 16 12) then .next (s.putBack f)
    else if bits d 31 22 ≠ 0 || fmtBits t.fmt.toNat ≠ 32 || t.nrows * t.ncols ≤ p then s.takeTrap f .trap 0x3FFA d
    else
      let e := c.bankRead t.bank.toNat (t.rowAddr (p / t.ncols) + 4 * (p % t.ncols)) 4
      let r := s.region f.region
      let x := bits e 27 21
      let y := bits e 20 15
      let rwin := bits e 14 12
      let v := Val.of 64 (f.l 64)
      match portOf (bits e 5 4) with
      | none => s.takeTrap f .trap 0x3FFA d
      | some port =>
        if bits e 3 0 ≠ 0 || 8 ≤ bits e 31 28 then s.takeTrap f .trap 0x3FFA d
        else if bits e 31 28 = f.die && r.contains x y then
          if r.image.wpc ≤ rwin || !s.slotTakes f.region (cellKey f.die x y) rwin (bits e 11 6) port then
            s.takeTrap f .trap 0x3FFA d
          else
            match s.takeEntry (cellKey f.die x y) f.region with
            | none => .next (s.putBack f)
            | some (pool, s) => .next (s.sendSlot f x y rwin (bits e 11 6) port f.acc.tag pool v)
        else
          match r.binding? (bits d 21 17) with
          | none => s.takeTrap f .trap 0x3FFA d
          | some b => if b.mode ≠ .element then s.takeTrap f .trap 0x3FFA d else .next (s.migrStream f b e v)

end Sys2Proof.Machine
end

