-- ==== Sys2Proof/Machine/Image.lean ====
section
/-!
DEFINITION. The region configuration image (R275, R290 to R295) and its load checks in the order of R297, with the field
codes of R298. A failed check answers with its class, code, offset and place (log 24).
-/

namespace Sys2Proof.Machine

/-! ## Checks -/

/-- A failed load check (R297, R298): class, section, check code, byte offset, and cell, window and slot. -/
structure BadImage where
  cls : FaultClass := .cfgFormat
  sec : Nat := 0
  chk : Nat := 0
  off : Nat := 0
  x : Nat := 0
  y : Nat := 0
  win : Nat := 0
  slot : Nat := 0
  deriving DecidableEq, Repr

/-- What a load check answers. -/
abbrev Check (α : Type) := Except BadImage α

/-- The field code of a failed check (R298). -/
def BadImage.code (b : BadImage) : Nat := b.sec * 2 ^ 16 + b.chk

/-- A condition that must hold, and the failure where it does not. -/
def demand (c : Bool) (b : BadImage) : Check Unit := if c then .ok () else .error b

/-- The class of a check code from 0x01 to 0x31 (R298). -/
def checkClass (chk : Nat) : FaultClass :=
  if chk < 0x10 then .cfgFormat else if chk < 0x20 then .cfgIllop else if chk < 0x30 then .cfgRsvd else .cfgNoprime

/-- A failure of a check code in a section at an offset. -/
def bad (sec chk off : Nat) : BadImage := { cls := checkClass chk, sec := sec, chk := chk, off := off }

/-- The same failure at a cell, window and slot. -/
def BadImage.at_ (b : BadImage) (x y win slot : Nat) : BadImage := { b with x := x, y := y, win := win, slot := slot }

/-- The number in `n` bytes at offset `o`. -/
def rd (d : List Byte) (o n : Nat) : Nat := ofBytes ((d.drop o).take n)

/-- Whether `n` bytes at offset `o` are zero. -/
def zeros (d : List Byte) (o n : Nat) : Bool := ((d.drop o).take n).all (· = 0)

/-- The offsets of the records of a section of one size. -/
def recordsOf (off len size : Nat) : List Nat := (List.range (len / size)).map (fun i => off + size * i)

/-- Whether a format code is assigned (R256). -/
def fmtAssigned (code : Nat) : Bool := fmtBits code ≠ 0

/-! ## The header (R290) -/

/-- What the image is loaded for: the request's context, width and height, and for a LOAD the region's windows and BANKS. -/
structure LoadFor where
  ctx : Nat := 0
  width : Nat := 0
  height : Nat := 0
  claims : Option (Nat × Nat) := none
  deriving DecidableEq, Repr

/-- The sections of an image: offset and length. -/
def sectionAt (d : List Byte) (i : Nat) : Nat × Nat := (rd d (0x60 + 16 * i) 8, rd d (0x68 + 16 * i) 8)

/-- Whether two sections share no byte. -/
def apart (a b : Nat × Nat) : Bool := a.2 = 0 || b.2 = 0 || decide (a.1 + a.2 ≤ b.1) || decide (b.1 + b.2 ≤ a.1)

/-- Whether the sections lie inside an image of `n` bytes, on 8-byte boundaries, apart from each other (R290). -/
def sectionsOk (d : List Byte) (n : Nat) : Bool :=
  let l := (List.range 7).map (sectionAt d)
  l.all (fun q => q.2 = 0 || (decide (0x100 ≤ q.1) && q.1 % 8 = 0 && decide (q.1 + q.2 ≤ n))) &&
  (List.range 7).all (fun i => (List.range i).all (fun j => apart (l.getD i (0, 0)) (l.getD j (0, 0))))

/-- Check 0x01 and the header's CRC (0x02), made on the 256 header bytes. -/
def checkMagic (d : List Byte) : Check Unit := do
  demand (rd d 0 4 = 0x49434C53) (bad 0 0x01 0)
  demand (rd d 4 2 = 1) (bad 0 0x01 4)
  demand (crc32c (d.take 0xFC) = rd d 0xFC 4) (bad 0 0x02 0xFC)

/-- CELL_FMT of a header, where it gives one (R290). -/
def headerFmt (d : List Byte) : Option Nat := if bit (rd d 0x18 4) 31 then some (rd d 0x18 4 % 2 ^ 31) else none

/-- The reserved fields and codes of the header (0x24). -/
def headerReserved (d : List Byte) : List (Bool × Nat) :=
  let f := rd d 0x18 4
  [(rd d 6 2 < 2, 6), (rd d 0x10 2 < 1024, 0x10), (rd d 0x15 1 < 16, 0x15), (rd d 0x17 1 = 0, 0x17),
   (if bit f 31 then bits f 6 5 = 0 && fmtAssigned (bits f 29 24) && fmtAssigned (bits f 23 18) && fmtAssigned (bits f 17 12)
    else f = 0, 0x18),
   (zeros d 0x29 7, 0x29), (zeros d 0xD0 40, 0xD0)]

/-- The ranges of the header (0x25). -/
def headerRanges (d : List Byte) : List (Bool × Nat) :=
  let f := rd d 0x18 4
  let within := fun (v lo hi : Nat) => decide (lo ≤ v) && decide (v ≤ hi)
  [(within (rd d 0x12 1) 1 80, 0x12), (within (rd d 0x13 1) 1 40, 0x13), (within (rd d 0x14 1) 1 8, 0x14),
   (rd d 0x16 1 ≤ 64, 0x16), (!bit f 31 || (within (bits f 11 7) 2 24 && within (bits f 4 0) 2 16), 0x18),
   (rd d 0x24 4 ≤ 2 ^ 24, 0x24), (rd d 0x40 8 % 64 = 0, 0x40), (rd d 0x48 8 % 64 = 0 && 64 ≤ rd d 0x48 8, 0x48),
   (rd d 0x50 8 % 64 = 0, 0x50)]

/-- The header of an image whose magic has been checked (R290, R297 step 1), with the sections still empty. -/
def parseHeader (d : List Byte) (q : LoadFor) : Check Image := do
  let n := rd d 8 8
  demand (crc32c (d.drop 0x100) = rd d 0xF8 4) (bad 0 0x02 0xF8)
  demand (decide (0x100 ≤ n)) (bad 0 0x03 8)
  demand (sectionsOk d n) (bad 0 0x03 0x60)
  demand (rd d 0x10 2 % 1024 = q.ctx) (bad 0 0x04 0x10)
  demand (rd d 0x12 1 = q.width) (bad 0 0x04 0x12)
  demand (rd d 0x13 1 = q.height) (bad 0 0x04 0x13)
  match q.claims with
  | none => pure ()
  | some (wpc, banks) => do
    demand (decide (rd d 0x14 1 ≤ wpc)) (bad 0 0x04 0x14)
    demand ((List.range 4).all (fun k => !bit (rd d 0x15 1) k || bit banks k)) (bad 0 0x04 0x15)
  (headerReserved d).forM (fun c => demand c.1 (bad 0 0x24 c.2))
  (headerRanges d).forM (fun c => demand c.1 (bad 0 0x25 c.2))
  let mins := (List.range 8).map (fun k => rd d (0x30 + 2 * k) 2)
  demand (decide (sumOf mins ≤ 8192)) { cls := .cfgQuota, off := 0x30 }
  return {
    sys := bit (rd d 6 2) 0, length := n, ctx := rd d 0x10 2 % 1024, width := rd d 0x12 1, height := rd d 0x13 1,
    wpc := rd d 0x14 1, banks := rd d 0x15 1, qextra := rd d 0x16 1, fmtWord := BitVec.ofNat 32 (rd d 0x18 4),
    seed := BitVec.ofNat 32 (rd d 0x1C 4), hang := BitVec.ofNat 32 (rd d 0x20 4), ptotal := rd d 0x24 4, margin := rd d 0x28 1,
    quota := mins, parkVa := rd d 0x40 8, parkSize := rd d 0x48 8, spillVa := rd d 0x50 8, spillSize := rd d 0x58 8,
    signature := BitVec.ofNat 32 (rd d 0xF8 4) }

/-! ## What the word checks need of later sections -/

/-- A cell, window and number in the cell form of R292. -/
structure CellForm where
  x : Nat := 0
  y : Nat := 0
  win : Nat := 0
  n : Nat := 0
  deriving DecidableEq, Repr

/-- The cell form of a word. -/
def cellForm (v : Nat) : CellForm := { x := bits v 31 25, y := bits v 24 19, win := bits v 18 16, n := bits v 13 8 }

/-- The output arcs that ARCS names. -/
def outArcsOf (d : List Byte) : List CellForm :=
  let q := sectionAt d 1
  (recordsOf q.1 q.2 16).map (fun o => cellForm (rd d o 4))

/-- What a Format M instruction needs of its binding (R280, R285, R375). -/
structure BindInfo where
  p : Nat := 0
  cls : Nat := 0
  write : Bool := false
  mode : Nat := 0
  fmt : Nat := 0
  x : Nat := 0
  y : Nat := 0
  win : Nat := 0
  deriving DecidableEq, Repr

/-- The bindings that BINDINGS names. -/
def bindInfos (d : List Byte) : List BindInfo :=
  let q := sectionAt d 2
  (recordsOf q.1 q.2 224).map (fun o =>
    { p := rd d (o + 128) 1, cls := bits (rd d (o + 10) 1) 4 3, write := bit (rd d (o + 10) 1) 5, mode := rd d (o + 131) 1,
      fmt := bits (rd d (o + 8) 1) 5 0, x := rd d (o + 144) 1, y := rd d (o + 145) 1, win := rd d (o + 146) 1 })

/-! ## Blocks (R275 to R281, R297 step 2) -/

/-- What each slot of a block holds as the loader reads it: none for the constant after a LIT32 (R279). -/
def readSlots : List Word → List (Option (Except WordCheck SlotWord))
  | [] => []
  | w :: t =>
    match decodeSlot w, t with
    | .ok (.instr (.lit32 pd a b)), _ :: t' => some (.ok (.instr (.lit32 pd a b))) :: none :: readSlots t'
    | r, t => some r :: readSlots t

/-- Whether a slot target names an instruction that uses the port (R276). A slot whose own word fails is left to its own
check. -/
def slotTakesPort (slots : List (Option (Except WordCheck SlotWord))) (slot : Nat) (p : Port) : Bool :=
  match slots.getD slot none with
  | some (.ok (.instr i)) => i.uses p
  | some (.error _) => true
  | _ => false

/-- Whether a target is accepted in a window (R276). -/
def targetOk (slots : List (Option (Except WordCheck SlotWord))) (outs : List CellForm) (x y win : Nat) : Target → Bool
  | .slot p _ s => slotTakesPort slots s.toNat p
  | .arc n => outs.contains { x := x, y := y, win := win, n := n.toNat }
  | _ => true

/-- The targets that a word names (R278). -/
def wordTargets (w : Nat) : List Target :=
  let one := fun (n : Nat) => match readTarget n with
    | .ok t => [t]
    | .error _ => []
  match split w with
  | some (.g _ _ _ t1 t0) => one t0 ++ one t1
  | some (.i _ _ _ t0) | some (.m _ _ _ _ _ _ t0) | some (.q _ _ _ _ _ t0) => one t0
  | some (.t _ _ _ _ _ ct) => match readCt ct with
    | .ok (.slot p s) => [.slot p false s]
    | _ => []
  | none => []

/-- The tiles that must be defined (R342, R361, R375). -/
def wordTiles (w : Nat) : List Nat :=
  let td := bits w 22 18
  let ta := bits w 17 13
  let tb := bits w 12 8
  match bits w 31 25 with
  | 0x5C => [td]
  | 0x73 | 0x78 => [td, ta]
  | 0x74 | 0x75 => [td, ta, tb]
  | 0x79 | 0x7A => [ta, tb]
  | 0x77 => if bits w 22 21 = 2 then [bits w 13 9] else []
  | _ => []

/-- Whether an opcode is of Format M (R278, R285). -/
def formatM (op : Nat) : Bool :=
  (decide (0x50 ≤ op) && decide (op ≤ 0x56)) || (decide (0x58 ≤ op) && decide (op ≤ 0x5B)) || (decide (0x5D ≤ op) && decide (op ≤ 0x5F))

/-- Whether a Format M opcode does not suit its binding (R285, R375). -/
def bindingRefuses (op : Nat) (b : BindInfo) : Bool :=
  if op = 0x50 || op = 0x54 || op = 0x55 then b.mode ≠ 0 || b.write
  else if op = 0x51 then b.mode ≠ 0 || !b.write
  else if op = 0x52 || op = 0x53 then b.mode ≠ 1
  else if op = 0x56 then b.cls = 1
  else if 0x58 ≤ op && op ≤ 0x5B then b.mode ≠ 0 || b.cls = 0
  else b.mode ≠ 0 || b.cls ≠ 2 || !([0, 3, 4, 7, 8] : List Nat).contains b.fmt

/-- Whether an instruction is not accepted for its block class, cell format or binding (check 0x13; R275, R284, R285,
R341, R361, R375). -/
def notAccepted (sys system : Bool) (fmt : Option Nat) (b : Option BindInfo) (w : Nat) : Bool :=
  let op := bits w 31 25
  let x := bits w 22 18
  let vfmt := fmt.map (fun v => bits v 29 24)
  let intFmt := vfmt.any (fun v => decide (3 ≤ v) && decide (v ≤ 8))
  let formatted := (decide (0x70 ≤ op) && decide (op ≤ 0x72)) || (decide (0x78 ≤ op) && decide (op ≤ 0x7B)) ||
    (op = 0x77 && bits w 22 21 = 2)
  (op = 0x6B && !(sys && system)) || ((op = 0x45 || op = 0x46) && !vfmt.any (fun v => decide (0x10 ≤ v))) ||
  (formatted && fmt.isNone) ||
  (intFmt && ((op = 0x71 && decide (2 ≤ x) && decide (x ≤ 5)) || (op = 0x70 && x = 5) || (op = 0x7B && (x = 1 || x = 2)))) ||
  b.any (bindingRefuses op)

/-- What a block's checks need around it. -/
structure BlockCtx where
  sys : Bool := false
  system : Bool := false
  fmt : Option Nat := none
  outs : List CellForm := []
  binds : List BindInfo := []
  tiles : List Nat := []
  x : Nat := 0
  y : Nat := 0
  win : Nat := 0
  nmem : Nat := 0
  deriving DecidableEq, Repr

/-- The binding that a word of Format M names. -/
def BlockCtx.bindOf (k : BlockCtx) (w : Nat) : Option BindInfo :=
  if formatM (bits w 31 25) then k.binds.find? (fun b => b.p = bits w 13 9) else none

/-- The wave-ordered words of a block, by slot (R280). -/
def BlockCtx.waves (k : BlockCtx) (slots : List (Option (Except WordCheck SlotWord))) (ws : List Word) : List (Nat × Nat) :=
  (List.range ws.length).filterMap (fun s =>
    let w := (ws.getD s 0).toNat
    match slots.getD s none, k.bindOf w with
    | some (.ok (.instr _)), some b => if b.cls = 0 || b.cls = 2 then some (s, w) else none
    | _, _ => none)

/-- Whether the wave fields of a word are as R280 asks. -/
def waveOk (nmem : Nat) (waves : List (Nat × Nat)) (s w : Nat) : Bool :=
  let seq := fun (v : Nat) => bits v 22 18
  let prev := fun (v : Nat) => bits v 17 16
  let next := fun (v : Nat) => bits v 15 14
  let port := fun (v : Nat) => bits v 13 9
  decide (seq w < nmem) && waves.all (fun q => q.1 = s || seq q.2 ≠ seq w) &&
  (prev w = 0 || waves.any (fun q => seq q.2 + prev w = seq w && port q.2 = port w && (next q.2 = prev w || next q.2 = 0))) &&
  (next w = 0 || waves.any (fun q => seq q.2 = seq w + next w && port q.2 = port w && (prev q.2 = next w || prev q.2 = 0)))

/-- Whether an instruction is a BMODE of compute mode on K2 or K3 (R200, R287). -/
def computeOutside (i : Instr) : Bool :=
  match i with
  | .bmode _ bank mode _ _ => decide (2 ≤ bank.toNat) && mode = .compute
  | _ => false

/-- Whether a PRIME's T0 is one that R309 accepts. -/
def primeTarget : Target → Bool
  | .discard => false
  | .slot _ adv _ => !adv
  | _ => true

/-- The checks of one slot's word, in the order of the field codes (R297). -/
def checkSlot (k : BlockCtx) (slots : List (Option (Except WordCheck SlotWord))) (ws : List Word) (base s : Nat) : Check Unit := do
  let w := (ws.getD s 0).toNat
  let off := base + 4 * s
  let fail := fun (chk : Nat) => (bad 1 chk off).at_ k.x k.y k.win s
  match slots.getD s none with
  | none => pure ()
  | some r => do
    let b := k.bindOf w
    let waves := k.waves slots ws
    demand (!(bits w 31 25 = 0x03 && s + 1 = ws.length)) (fail 0x06)
    match r with
    | .error c => demand (decide (0x13 ≤ c.code)) (fail c.code)
    | .ok _ => pure ()
    demand (!notAccepted k.sys k.system k.fmt b w) { fail 0x13 with cls := .cfgIllop }
    match r with
    | .error c => demand false (fail c.code)
    | .ok (.instr i) => demand (!computeOutside i) (fail 0x20)
    | .ok (.prime _ t) => demand (primeTarget t) (fail 0x21)
    demand ((wordTargets w).all (targetOk slots k.outs k.x k.y k.win)) (fail 0x21)
    demand (!formatM (bits w 31 25) || b.any (fun q => q.x = k.x && q.y = k.y && q.win = k.win)) (fail 0x22)
    demand ((wordTiles w).all k.tiles.contains) (fail 0x22)
    if formatM (bits w 31 25) then
      demand (if b.any (fun q => q.cls = 0 || q.cls = 2) then waveOk k.nmem waves s w else bits w 22 14 = 0) (fail 0x23)

/-- A window of a CELLS record at an offset: its block, and the offset after it (R275, R291). -/
def parseBlock (d : List Byte) (k : BlockCtx) (off stop : Nat) : Check (BlockRec × Nat) := do
  let fail := fun (chk o : Nat) => (bad 1 chk o).at_ k.x k.y k.win 0
  demand (decide (off + 8 ≤ stop)) (fail 0x05 off)
  let pre := rd d off 4
  let hd := rd d (off + 4) 4
  let n := bits hd 31 26 + 1
  let body := (d.drop (off + 8)).take (4 * n)
  demand (decide (pre < 16)) (fail 0x24 off)
  demand (decide (off + 8 + 4 * n ≤ stop) && crc16 body = hd % 2 ^ 16) (fail 0x05 (off + 4))
  demand (decide (bits hd 20 18 < 2) && bits hd 17 16 ≠ 3) (fail 0x20 (off + 4))
  let ws := (List.range n).map (fun i => BitVec.ofNat 32 (rd body (4 * i) 4))
  let k := { k with system := bits hd 20 18 = 1, nmem := bits hd 25 21 }
  let slots := readSlots ws
  (List.range n).forM (checkSlot k slots ws (off + 8))
  demand ((k.waves slots ws).length = k.nmem) (fail 0x23 (off + 4))
  return ({ rwin := k.win, share := BitVec.ofNat 4 pre, header := BitVec.ofNat 32 hd, words := ws }, off + 8 + 8 * ceilDiv n 2)

/-! ## CELLS (R291) -/

/-- The tiles of a CELLS record, in ascending order. -/
def parseTiles (d : List Byte) (img : Image) (x y tmask il stop : Nat) : List Nat → Nat → Assoc Tile → Check (Assoc Tile × Nat)
  | [], off, l => return (l, off)
  | t :: rest, off, l => do
    if !bit tmask t then parseTiles d img x y tmask il stop rest off l
    else
      let fail := fun (chk : Nat) => (bad 1 chk off).at_ x y 0 0
      let v := rd d off 16
      demand (decide (off + 16 ≤ stop)) (fail 0x03)
      demand ((bits v 127 126 = 0 || bits v 127 126 = 2) && bits v 71 0 = 0 && fmtAssigned (bits v 123 118)) (fail 0x24)
      demand (bit img.banks (bits v 125 124)) (fail 0x22)
      let e := Tile.ofWord v
      let c : Cell := { banks := (List.range 4).foldl (fun m k => put {} k { intlv := bit il (k / 2) } m) [] }
      demand (e.pitch ≠ 0 && c.tileValid e) { fail 0xC0 with cls := .cfgShape }
      parseTiles d img x y tmask il stop rest (off + 16)
        (put {} t (if bits v 127 126 = 2 then { e with st := .ready } else e) l)

/-- The windows of a CELLS record, in ascending order. -/
def parseBlocks (d : List Byte) (k : BlockCtx) (wmask stop : Nat) : List Nat → Nat → List BlockRec → Check (List BlockRec × Nat)
  | [], off, l => return (l, off)
  | w :: rest, off, l => do
    if !bit wmask w then parseBlocks d k wmask stop rest off l
    else
      let q ← parseBlock d { k with win := w } off stop
      parseBlocks d k wmask stop rest q.2 (l ++ [q.1])

/-- The constant records of a CELLS record. -/
def parseConsts (d : List Byte) (img : Image) (x y modes stop : Nat) :
    Nat → Nat → List (Nat × Nat × List Dword) → Check (List (Nat × Nat × List Dword) × Nat)
  | 0, off, l => return (l, off)
  | n + 1, off, l => do
    let fail := fun (chk : Nat) => (bad 1 chk off).at_ x y 0 0
    demand (decide (off + 8 ≤ stop)) (fail 0x03)
    let bank := rd d off 1
    let first := rd d (off + 2) 2
    let count := rd d (off + 4) 2
    demand (rd d (off + 1) 1 = 0 && rd d (off + 6) 2 = 0) (fail 0x24)
    demand (decide (bank < 4) && bit img.banks bank && bits modes (2 * bank + 1) (2 * bank) ≠ 1 && decide (first + count ≤ 8192))
      (fail 0x25)
    demand (decide (off + 8 + 8 * count ≤ stop)) (fail 0x03)
    parseConsts d img x y modes stop n (off + 8 + 8 * count)
      (l ++ [(bank, first, (List.range count).map (fun i => BitVec.ofNat 64 (rd d (off + 8 + 8 * i) 8)))])

/-- One record of CELLS: the record and the offset after it. -/
def parseCell (d : List Byte) (img : Image) (k : BlockCtx) (last : Option (Nat × Nat)) (off stop : Nat) : Check (CellRec × Nat) := do
  demand (decide (off + 16 ≤ stop)) (bad 1 0x03 off)
  let x := rd d off 1
  let y := rd d (off + 1) 1
  let wmask := rd d (off + 2) 1
  let modes := rd d (off + 3) 1
  let il := rd d (off + 4) 1
  let len := rd d (off + 8) 4
  let mode := fun (b : Nat) => bits modes (2 * b + 1) (2 * b)
  let fail := fun (chk : Nat) => (bad 1 chk off).at_ x y 0 0
  demand (decide (16 ≤ len) && decide (off + len ≤ stop)) (bad 1 0x03 (off + 8))
  demand ((match last with
      | none => true
      | some q => decide (q.2 < y) || (q.2 = y && decide (q.1 < x))) && decide (il < 4) && rd d (off + 5) 1 = 0 &&
    (List.range 4).all (fun b => mode b = 0 || (bit img.banks b && !(decide (2 ≤ b) && mode b = 3)))) (fail 0x24)
  demand (decide (x < img.width) && decide (y < img.height) && decide (wmask < 2 ^ img.wpc) &&
    [0, 1].all (fun p => !bit il p || [2 * p, 2 * p + 1].all (fun b => bit img.banks b && mode b = 0))) (fail 0x25)
  let tmask := rd d (off + 12) 4
  let ts ← parseTiles d img x y tmask il (off + len) (List.range 32) (off + 16) []
  let bs ← parseBlocks d { k with x := x, y := y, tiles := (List.range 32).filter (bit tmask) } wmask (off + len) (List.range 8) ts.2 []
  let cs ← parseConsts d img x y modes (off + len) (rd d (off + 6) 2) bs.2 []
  demand (decide (cs.2 ≤ off + len)) (bad 1 0x03 (off + 8))
  return ({ x := x, y := y, modes := (List.range 4).map (fun b => readBankMode (mode b)), intlv01 := bit il 0, intlv23 := bit il 1,
            tiles := ts.1, blocks := bs.1, consts := cs.1 }, off + len)

/-- The records of CELLS; `fuel` bounds them. -/
def parseCells (d : List Byte) (img : Image) (k : BlockCtx) (stop : Nat) : Nat → Nat → List CellRec → Check (List CellRec)
  | 0, _, l => return l
  | fuel + 1, off, l => do
    if stop ≤ off then return l
    else
      let q ← parseCell d img k (l.getLast?.map (fun c => (c.x, c.y))) off stop
      parseCells d img k stop fuel q.2 (l ++ [q.1])

/-- The block of a window that an image places in a cell. -/
def Image.block? (img : Image) (x y win : Nat) : Option BlockRec :=
  (img.cells.find? (fun c => c.x = x && c.y = y)).bind (fun c => c.blocks.find? (fun b => b.rwin = win))

/-- Whether a slot of a window that an image places takes a port. -/
def Image.takes (img : Image) (x y win slot : Nat) (p : Port) : Bool :=
  match img.block? x y win with
  | none => false
  | some b => slotTakesPort (readSlots b.words) slot p

/-! ## ARCS (R292) -/

/-- One record of ARCS, after the records before it. -/
def parseArc (d : List Byte) (img : Image) (l : List ArcRec) (o : Nat) : Check (List ArcRec) := do
  let pv := rd d o 4
  let cv := rd d (o + 4) 4
  let p := cellForm pv
  let c := cellForm cv
  let depth := rd d (o + 8) 1
  let level := rd d (o + 9) 1
  let fed := rd d (o + 10) 1
  let fl := rd d (o + 11) 1
  let fifo := bit fl 1
  let bank := bits fl 3 2
  demand (bits pv 15 14 = 0 && bits pv 7 0 = 0 && bits cv 15 14 = 0 && bits cv 7 0 = 0 && decide (fl < 16) && zeros d (o + 12) 4 &&
    l.all (fun a => !(a.px = p.x && a.py = p.y && a.pwin = p.win && a.parc = p.n) &&
      !(a.cx = c.x && a.cy = c.y && a.cwin = c.win && a.carc = c.n)) &&
    !(bit fl 0 && (l.any (fun a => a.progress) || img.ptotal = 0))) (bad 2 0x24 o)
  demand (decide (level < 8) && (depth = 0) == fifo && decide (depth ≤ 64) && (img.block? p.x p.y p.win).isSome &&
    (img.block? c.x c.y c.win).isSome) (bad 2 0x25 o)
  let port := portOf (fed / 64)
  demand (port.any (fun q => img.takes c.x c.y c.win (fed % 64) q)) (bad 2 0x21 (o + 10))
  let modes := ((img.cells.find? (fun q => q.x = c.x && q.y = c.y)).getD {}).modes
  demand (!fifo || (bit img.banks bank && modes.getD bank .scratchpad = .fifo &&
    !l.any (fun a => a.fifo && a.cx = c.x && a.cy = c.y && a.bank = bank))) (bad 2 0x25 (o + 11))
  return l ++ [{ px := p.x, py := p.y, pwin := p.win, parc := p.n, cx := c.x, cy := c.y, cwin := c.win, carc := c.n,
                 depth := if fifo then 1024 else depth, level := level, port := port.getD .l, slot := fed % 64,
                 progress := bit fl 0, fifo := fifo, bank := bank }]

/-- The ARCS section. -/
def parseArcs (d : List Byte) (img : Image) : Check (List ArcRec) := do
  let q := sectionAt d 1
  demand (q.2 % 16 = 0) (bad 2 0x03 q.1)
  let l ← (recordsOf q.1 q.2 16).foldlM (parseArc d img) []
  demand (img.ptotal = 0 || l.any (fun a => a.progress)) (bad 2 0x24 q.1)
  return l

/-! ## BINDINGS (R213 to R217, R293) -/

/-- A shape record (R215). -/
def parseShape (r : List Byte) : Shape :=
  { base := BitVec.ofNat 57 (rd r 0 8), bs := bit (rd r 8 1) 6, fmt := BitVec.ofNat 6 (rd r 8 1), ndim := rd r 9 1 % 16,
    write := bit (rd r 10 1) 5,
    cls := if bits (rd r 10 1) 4 3 = 0 then .streaming else if bits (rd r 10 1) 4 3 = 1 then .random else .ordered,
    ovl := bit (rd r 10 1) 2,
    pad := if bits (rd r 10 1) 1 0 = 0 then .zero else if bits (rd r 10 1) 1 0 = 1 then .replicate else .none,
    note := Note.ofCode (bits (rd r 11 1) 1 0),
    dims := (List.range 9).map (fun i =>
      { ext := BitVec.ofNat 24 (rd r (16 + 12 * i) 3), padb := BitVec.ofNat 8 (rd r (19 + 12 * i) 1),
        pada := BitVec.ofNat 8 (rd r (20 + 12 * i) 1), stride := BitVec.ofNat 48 (rd r (22 + 12 * i) 6) }) }

/-- The offset of the first reserved field or code of a shape record (R215). -/
def shapeReserved (r : List Byte) : Option Nat :=
  let nd := rd r 9 1 % 16
  let l : List (Bool × Nat) :=
    [(decide (rd r 7 1 < 2), 7), (decide (rd r 8 1 < 128) && fmtAssigned (rd r 8 1 % 64), 8), (decide (rd r 9 1 < 16), 9),
     (decide (rd r 10 1 < 64) && bits (rd r 10 1) 4 3 ≠ 3 && bits (rd r 10 1) 1 0 ≠ 3, 10), (decide (rd r 11 1 < 3), 11),
     (zeros r 12 4, 12)] ++
    (List.range 9).map (fun i => (if i < nd then decide (rd r (21 + 12 * i) 1 = 0) else zeros r (16 + 12 * i) 12, 16 + 12 * i)) ++
    [(zeros r 124 4, 124)]
  (l.find? (fun q => !q.1)).map Prod.snd

/-- A destination word of a binding (R293). -/
def parseDest (v : Nat) : BindDest :=
  { x := bits v 31 25, y := bits v 24 19, tile := bits v 18 14, rwin := bits v 11 9,
    target := match readTarget (v % 512) with
      | .ok t => t
      | .error _ => .discard }

/-- Whether a 9-bit field names a slot target of a window, or no target (R293). -/
def slotOrNone (img : Image) (x y win v : Nat) : Bool :=
  match readTarget v with
  | .ok .discard => true
  | .ok (.slot p _ s) => img.takes x y win s.toNat p
  | _ => false

/-- One record of BINDINGS, after the records before it. -/
def parseBinding (d : List Byte) (img : Image) (l : List Binding) (o : Nat) : Check (List Binding) := do
  let r := (d.drop o).take 224
  match shapeReserved r with
  | some i => demand false (bad 3 0x24 (o + i))
  | none => pure ()
  let h := parseShape r
  let u := fun (i : Nat) => rd r (128 + i) 1
  let t := fun (i : Nat) => rd r (148 + 2 * i) 2
  let w := fun (i : Nat) => rd r (160 + 4 * i) 4
  let mode := u 3
  let nd := u 6
  demand (u 19 = 0 && zeros r 154 6 && [0, 1, 2].all (fun i => decide (t i < 512)) &&
    (List.range 16).all (fun i => if i < nd then bits (w i) 13 12 = 0 else w i = 0) &&
    (mode ≠ 0 || (zeros r 133 11 && (u 4 = 0 || h.cls = .streaming))) && !l.any (fun b => b.p = u 0)) (bad 3 0x24 (o + 128))
  demand (decide (u 0 < 32) && decide (u 1 < 8) && decide (u 2 < 80) && decide (mode < 3) && decide (u 4 ≤ 16) && decide (u 7 < 2) &&
    (mode = 0 || (decide (1 ≤ u 5) && decide (u 5 ≤ 4) && decide (1 ≤ nd) && decide (nd ≤ 16))) &&
    (h.cls ≠ .streaming || decide (1 ≤ u 4))) (bad 3 0x25 (o + 128))
  let dests := (List.range nd).map (fun i => parseDest (w i))
  let tgt := fun (i : Nat) => (match readTarget (t i) with
    | .ok x => x
    | .error _ => Target.discard : Target)
  let b : Binding := { p := u 0, offset := o, agn := u 1, core := u 2,
                       mode := if mode = 0 then .element else if mode = 1 then .tile else .conv,
                       stg := u 4, nbuf := max 1 (u 5), div := u 7 = 1, kh := u 8, kw := u 9, dilh := u 10, dilw := u 11,
                       sh := u 12, sw := u 13, cb := u 14, ows := u 15, ix := u 16, iy := u 17, iwin := u 18,
                       start := tgt 0, param := tgt 1, endt := tgt 2, dests := dests, shape := h }
  demand (l.all (fun q => !(q.core = b.core && q.agn = b.agn))) { bad 3 0x90 (o + 129) with cls := .cfgShape }
  demand (dests.all (fun q => decide (q.tile + b.nbuf ≤ 32))) (bad 3 0x25 (o + 133))
  demand ((img.block? b.ix b.iy b.iwin).isSome && dests.all (fun q => (img.block? q.x q.y q.rwin).isSome)) (bad 3 0x22 (o + 144))
  let tile := fun (q : BindDest) (k : Nat) =>
    look ({} : Tile) ((img.cells.find? (fun c => c.x = q.x && c.y = q.y)).getD {}).tiles (q.tile + k)
  match shapeCheck b h tile with
  | some (kind, dim) => demand false { bad 3 (kind * 16 + dim) o with cls := if kind = 0xA then .cfgAlign else .cfgShape }
  | none => pure ()
  demand ([0, 1, 2].all (fun i => slotOrNone img b.ix b.iy b.iwin (t i)) &&
    (List.range nd).all (fun i => let q := parseDest (w i); slotOrNone img q.x q.y q.rwin (w i % 512))) (bad 3 0x21 (o + 148))
  demand (!(mode = 0 && h.bs)) { bad 3 0xE0 o with cls := .cfgShape }
  demand (decide (b.stg + sumOf ((l.filter (fun q => q.core = b.core)).map (fun q => q.stg)) ≤ 16))
    { bad 3 0x90 (o + 132) with cls := .cfgShape }
  return l ++ [b]

/-- The BINDINGS section. -/
def parseBindings (d : List Byte) (img : Image) : Check (List Binding) := do
  let q := sectionAt d 2
  demand (q.2 % 224 = 0) (bad 3 0x03 q.1)
  (recordsOf q.1 q.2 224).foldlM (parseBinding d img) []

/-! ## ACTORS (R118, R119, R294) -/

/-- The cells that carry every window of an actor, in CELLS order (R294). -/
def Image.replicasOf (img : Image) (wins : Nat) : List (Nat × Nat) :=
  (img.cells.filter (fun c => (List.range 8).all (fun w => !bit wins w || c.blocks.any (fun b => b.rwin = w)))).map
    (fun c => (c.x, c.y))

/-- Whether a word names a group (R118): BARR or TREE. -/
def namesGroup (i : Instr) : Bool :=
  match i with
  | .barr .. | .tree .. => true
  | _ => false

/-- Whether an instruction claims the cell's accumulator array (R362). -/
def claimsArray (i : Instr) : Bool :=
  match i with
  | .mma .. | .mmaz .. | .mzero .. | .mrd .. | .mrda .. | .mstat .. => true
  | _ => false

/-- Whether a block holds an instruction of a kind. -/
def BlockRec.holds (b : BlockRec) (p : Instr → Bool) : Bool :=
  (blockSlots b.words).any (fun s => match s with
    | some (.instr i) => p i
    | _ => false)

/-- The limits of an elastic actor (R118, R119). -/
def ActorRec.fieldsOk (a : ActorRec) (img : Image) : Bool :=
  let cells := img.replicasOf a.wins
  let n := cells.length
  let group := img.cells.any (fun c => cells.contains (c.x, c.y) && c.blocks.any (fun b => bit a.wins b.rwin && b.holds namesGroup))
  decide (1 ≤ a.hi) && decide (a.hi < 4096) && decide (a.lo < a.hi) && decide (1 ≤ a.minr) && decide (a.minr ≤ 63) &&
  decide (a.minr ≤ a.maxr) && decide (a.maxr ≤ 63) && decide (a.blog ≤ 8) && decide (a.maxr ≤ 2 ^ a.blog) &&
  decide (1 ≤ a.dn) && decide (a.dn ≤ 15) && decide (a.hold ≤ 15) && decide (a.ksrc < 3) && decide (a.khi < 64) &&
  decide (a.klo ≤ a.khi) && (a.ksrc ≠ 2 || a.khi + 1 = a.klo + a.blog) && decide (a.sbank < 4) &&
  decide (a.sbase + 2 ^ a.blog * a.ssize ≤ 1024) && decide (a.sbase < 1024) &&
  (a.ssize = 0 || (bit img.banks a.sbank && img.cells.all (fun c =>
    !cells.contains (c.x, c.y) || c.modes.getD a.sbank .scratchpad = .scratchpad))) &&
  decide (a.minr ≤ n) && decide (n ≤ a.maxr) && (!group || (a.minr = n && a.maxr = n))

/-- One record of ACTORS, after the records before it. -/
def parseActor (d : List Byte) (img : Image) (l : List ActorRec) (o : Nat) : Check (List ActorRec) := do
  let r := (d.drop o).take 24
  let u := fun (i : Nat) => rd r i 1
  demand (u 17 = 0 && zeros r 21 3) (bad 4 0x24 o)
  let a : ActorRec := { actor := rd r 0 2, wins := u 2, elastic := bit (u 3) 0, hi := rd r 4 2, lo := rd r 6 2, minr := u 8, maxr := u 9,
                        dn := u 10, hold := u 11, ksrc := u 12, khi := u 13, klo := u 14, blog := u 15, sbank := u 16,
                        sbase := rd r 18 2, ssize := u 20 }
  demand (decide (u 3 < 2) && decide (a.wins < 2 ^ img.wpc) && l.all (fun q => q.wins &&& a.wins = 0) &&
    (!a.elastic || a.fieldsOk img)) { cls := .cfgPlace, sec := 4, off := o }
  return l ++ [a]

/-- The ACTORS section. -/
def parseActors (d : List Byte) (img : Image) : Check (List ActorRec) := do
  let q := sectionAt d 3
  demand (q.2 % 24 = 0) (bad 4 0x03 q.1)
  (recordsOf q.1 q.2 24).foldlM (parseActor d img) []

/-! ## GROUPS, FRAMES and PRIMES (R295, R309) -/

/-- The records of GROUPS; `fuel` bounds them. -/
def parseGroups (d : List Byte) (img : Image) (stop : Nat) :
    Nat → Nat → List (Nat × List (Nat × Nat)) → Check (List (Nat × List (Nat × Nat)))
  | 0, _, l => return l
  | fuel + 1, o, l => do
    if stop ≤ o then return l
    else
      let n := rd d (o + 2) 2
      let size := 8 + 8 * ceilDiv n 4
      demand (decide (o + size ≤ stop)) (bad 5 0x03 o)
      let m := (List.range n).map (fun i => rd d (o + 8 + 2 * i) 2)
      demand (rd d (o + 1) 1 = 0 && zeros d (o + 4) 4 && m.all (fun v => decide (v < 8192)) && !l.any (fun q => q.1 = rd d o 1))
        (bad 5 0x24 o)
      demand (decide (1 ≤ n) && m.all (fun v => decide (bits v 12 6 < img.width) && decide (bits v 5 0 < img.height))) (bad 5 0x25 o)
      parseGroups d img stop fuel (o + size) (l ++ [(rd d o 1, distinct (m.map (fun v => (bits v 12 6, bits v 5 0))))])

/-- One record of FRAMES, after the records before it. -/
def parseFrame (d : List Byte) (l : List (Nat × Nat)) (o : Nat) : Check (List (Nat × Nat)) := do
  demand (rd d (o + 2) 2 = 0 && !l.any (fun q => q.1 = rd d o 1)) (bad 6 0x24 o)
  demand (decide (rd d (o + 1) 1 < 8)) (bad 6 0x25 (o + 1))
  return l ++ [(rd d o 1, rd d (o + 1) 1)]

/-- The FRAMES section. -/
def parseFrames (d : List Byte) : Check (List (Nat × Nat)) := do
  let q := sectionAt d 5
  demand (q.2 % 4 = 0) (bad 6 0x03 q.1)
  (recordsOf q.1 q.2 4).foldlM (parseFrame d) []

/-- The PRIME in a slot of an image, if the slot holds one. -/
def Image.prime? (img : Image) (x y win slot : Nat) : Option (BitVec 14 × Target) :=
  match img.block? x y win with
  | none => none
  | some b => match (readSlots b.words).getD slot none with
    | some (.ok (.prime imm t)) => some (imm, t)
    | _ => none

/-- The arc into which a PRIME record sends, by cell, window and number. -/
def Image.primeArc (img : Image) (p : PrimeRec) : Option CellForm :=
  match img.prime? p.x p.y p.rwin p.slot with
  | some (_, .arc n) => some { x := p.x, y := p.y, win := p.rwin, n := n.toNat }
  | _ => none

/-- One record of PRIMES, after the records before it. -/
def parsePrime (d : List Byte) (img : Image) (l : List PrimeRec) (o : Nat) : Check (List PrimeRec) := do
  let v := rd d o 4
  let tag := rd d (o + 4) 4
  let c := cellForm v
  let p : PrimeRec := { x := c.x, y := c.y, rwin := c.win, slot := c.n, tag := BitVec.ofNat 32 tag }
  let fail := fun (chk : Nat) => (bad 7 chk o).at_ c.x c.y c.win c.n
  demand (bits v 15 14 = 0 && bits v 7 0 = 0 && bits tag 31 22 = 0 && bits tag 13 12 = 0) (fail 0x24)
  demand ((img.prime? c.x c.y c.win c.n).isSome && img.frames.any (fun q => q.1 = bits tag 21 14)) (fail 0x22)
  demand (!l.any (fun q => q.x = p.x && q.y = p.y && q.rwin = p.rwin && q.slot = p.slot)) (fail 0x31)
  let into := img.primeArc p
  let depth := (img.arcs.find? (fun a => some { x := a.px, y := a.py, win := a.pwin, n := a.parc } = into)).map (fun a => a.depth)
  demand (into.isNone || decide ((l.filter (fun q => img.primeArc q = into)).length < depth.getD 0)) (fail 0x25)
  return l ++ [p]

/-- The live iterations that FRAMES and PRIMES declare, by frame (R295). -/
def Image.liveOf (img : Image) (frm : Nat) : List Nat :=
  distinct (0 :: (img.primes.filter (fun p => tagFrm p.tag = frm)).map (fun p => tagItr p.tag))

/-- Live tags that an image declares at a level. -/
def Image.liveAt (img : Image) (k : Nat) : Nat := sumOf ((img.frames.filter (fun q => q.2 = k)).map (fun q => (img.liveOf q.1).length))

/-- The PRIMEs of an image's blocks that no record names, the first of them (R295). -/
def Image.unnamedPrime (img : Image) : Option (Nat × Nat × Nat × Nat) :=
  (img.cells.flatMap (fun c => c.blocks.flatMap (fun b => (List.range b.words.length).map (fun s => (c.x, c.y, b.rwin, s))))).find?
    (fun q => (img.prime? q.1 q.2.1 q.2.2.1 q.2.2.2).isSome &&
      !img.primes.any (fun p => p.x = q.1 && p.y = q.2.1 && p.rwin = q.2.2.1 && p.slot = q.2.2.2))

/-- The PRIMES section. -/
def parsePrimes (d : List Byte) (img : Image) : Check (List PrimeRec) := do
  let q := sectionAt d 6
  demand (q.2 % 8 = 0) (bad 7 0x03 q.1)
  let l ← (recordsOf q.1 q.2 8).foldlM (parsePrime d img) []
  let img := { img with primes := l }
  match img.unnamedPrime with
  | some p => demand false ((bad 7 0x31 q.1).at_ p.1 p.2.1 p.2.2.1 p.2.2.2)
  | none => pure ()
  demand (decide (sumOf ((List.range 8).map (fun k => img.liveAt k - img.quota.getD k 0)) + sumOf img.quota ≤ 8192))
    { cls := .cfgQuota, sec := 7, off := q.1 }
  return l

/-! ## The arc graph (R296) -/

/-- The windows reached from a window over arcs, in at most `n` rounds. -/
def reachFrom (arcs : List ArcRec) : Nat → List (Nat × Nat × Nat) → List (Nat × Nat × Nat)
  | 0, l => l
  | n + 1, l => reachFrom arcs n (distinct (l ++ (arcs.filter (fun a => l.contains (a.px, a.py, a.pwin))).map
      (fun a => (a.cx, a.cy, a.cwin))))

/-- The producer window of an arc. -/
def ArcRec.src (a : ArcRec) : Nat × Nat × Nat := (a.px, a.py, a.pwin)
/-- The consumer window of an arc. -/
def ArcRec.dst (a : ArcRec) : Nat × Nat × Nat := (a.cx, a.cy, a.cwin)

/-- The first arc of a component that contains a cycle and holds no PRIME into one of its arcs (R296). -/
def Image.unprimed (img : Image) : Option ArcRec :=
  let reach := fun (w : Nat × Nat × Nat) => reachFrom img.arcs img.arcs.length [w]
  let primed := img.arcs.filter (fun a => img.primes.any (fun p =>
    img.primeArc p = some { x := a.px, y := a.py, win := a.pwin, n := a.parc }))
  img.arcs.find? (fun a =>
    let r := reach a.dst
    r.contains a.src && !primed.any (fun b => r.contains b.src && (reach b.dst).contains a.dst))

/-! ## The whole image (R297) -/

/-- An image whose magic has been checked, parsed and checked in the order of R297. -/
def parseImage (d : List Byte) (q : LoadFor) : Check Image := do
  let img ← parseHeader d q
  let k : BlockCtx := { sys := img.sys, fmt := headerFmt d, outs := outArcsOf d, binds := bindInfos d }
  let c := sectionAt d 0
  let cells ← parseCells d img k (c.1 + c.2) (c.2 / 16 + 1) c.1 []
  let img := { img with cells := cells }
  let arcs ← parseArcs d img
  let img := { img with arcs := arcs }
  let binds ← parseBindings d img
  let img := { img with bindings := binds }
  let actors ← parseActors d img
  let img := { img with actors := actors }
  let g := sectionAt d 4
  let groups ← parseGroups d img (g.1 + g.2) (g.2 / 8 + 1) g.1 []
  let img := { img with groups := groups }
  demand (img.cells.all (fun c => decide ((groups.filter (fun g => g.2.contains (c.x, c.y))).length ≤ 4))) { cls := .cfgGroup, sec := 5 }
  let frames ← parseFrames d
  let img := { img with frames := frames }
  let primes ← parsePrimes d img
  let img := { img with primes := primes }
  match img.unprimed with
  | some a => demand false ((bad 7 0x30 0).at_ a.cx a.cy a.cwin 0)
  | none => pure ()
  return img

/-- Bytes at a VA up to the first that cannot be read, its fault, and the state with the A bits set. -/
def State.readSpan (s : State) (ctx : Nat) : List (Nat × Nat × Nat) → List Byte × Option (FaultClass × Nat) × State
  | [] => ([], none, s)
  | q :: t =>
    match s.vaReadLine ctx q.1 q.2.2 with
    | .error e => ([], some e, s)
    | .ok (bs, s) => let r := s.readSpan ctx t; (bs ++ r.1, r.2.1, r.2.2)

/-- An image read at a VA and checked (R290, R297): its bytes and parse, or the failed check; a read that does not
translate fails with check 0x07 (R298). -/
def State.loadImage (s : State) (va : Nat) (q : LoadFor) : Check (List Byte × Image) × State :=
  let h := s.readSpan q.ctx (lineParts va 256)
  let s := h.2.2
  if h.2.1.isSome then (.error (bad 0 0x07 h.1.length), s) else
  match checkMagic h.1 with
  | .error b => (.error b, s)
  | .ok () =>
    let n := rd h.1 8 8
    if n < 256 then (.error (bad 0 0x03 8), s) else
    let t := s.readSpan q.ctx (lineParts (va + 256) (n - 256))
    let s := t.2.2
    if t.2.1.isSome then (.error (bad 0 0x07 (256 + t.1.length)), s)
    else
      match parseImage (h.1 ++ t.1) q with
      | .error b => (.error b, s)
      | .ok img => (.ok (h.1 ++ t.1, img), s)

end Sys2Proof.Machine
end

