-- ==== Sys2Proof/Machine/Loader.lean ====
section
/-!
DEFINITION. Regions placed, loaded and returned (R101, R110 to R118, R126, R201, R213, R214, R295, R309, R362): what a
rectangle must offer, the claims of a region, its PRIME tokens, the module scheduler's walk over the waiting launches,
and what a returning region gives back.
-/

namespace Sys2Proof.Machine

/-! ## What a rectangle must offer (R111, R362) -/

/-- What a restore asks of one cell (R111, R178): its banks, frame slots and input-queue entries. -/
structure CellNeed where
  x : Nat := 0
  y : Nat := 0
  banks : Nat := 0
  slots : Nat := 0
  entries : Nat := 0
  deriving DecidableEq, Repr

/-- What is to be placed: the image, the frames that take wave-table entries, and for a restore what each cell asks. -/
structure Fit where
  image : Image := {}
  frames : Nat := 0
  needs : Option (List CellNeed) := none
  deriving DecidableEq, Repr

/-- What a cell of the rectangle asks: the image's BANKS where nothing is restored. -/
def Fit.need (f : Fit) (x y : Nat) : CellNeed :=
  match f.needs with
  | none => { x := x, y := y, banks := f.image.banks }
  | some l => (l.find? (fun n => n.x = x && n.y = y)).getD { x := x, y := y }

/-- QRES of an image in a cell (R126). -/
def Image.qresAt (img : Image) (x y : Nat) : Nat :=
  sumOf ((img.arcs.filter (fun a => !a.fifo && a.cx = x && a.cy = y)).map (fun a => a.depth)) + img.qextra

/-- Whether an image places a block on a cell. -/
def Image.blocksAt (img : Image) (x y : Nat) : Bool := img.cells.any (fun c => c.x = x && c.y = y && !c.blocks.isEmpty)

/-- Whether an image claims the accumulator array of a cell (R362). -/
def Image.arrayAt (img : Image) (x y : Nat) : Bool :=
  img.cells.any (fun c => c.x = x && c.y = y && c.blocks.any (fun b => b.holds claimsArray))

/-- The physical windows of a cell that no region holds. -/
def Cell.freeWindows (c : Cell) : List Nat := (List.range 8).filter (fun w => (c.window w).region = 0)

/-- The groups of a die that a cell belongs to. -/
def Die.groupsOf (d : Die) (x y : Nat) : List Nat := (d.groups.filter (fun g => g.2.members.contains (x, y))).map Prod.fst

/-- The groups that an image gives a cell. -/
def Image.groupsAt (img : Image) (x y : Nat) : List Nat := (img.groups.filter (fun g => g.2.contains (x, y))).map Prod.fst

/-- Frame slots of a cell in use. -/
def Cell.slotsUsed (c : Cell) : Nat := (c.frames.filter (fun q => q.region ≠ 0)).length

/-- Whether a cell can take its part of a placement at (x0, y0). -/
def State.cellFits (s : State) (die : Nat) (f : Fit) (x0 y0 rx ry : Nat) : Bool :=
  let x := x0 + rx
  let y := y0 + ry
  let c := s.cell (cellKey die x y)
  let n := f.need rx ry
  let q := f.image.qresAt rx ry
  let others := sumOf (c.regions.map (fun r => c.qres (s.region r).image.qextra r))
  let rest := Config.queueEntries - others - q
  let groups := distinct ((s.die die).groupsOf x y ++ f.image.groupsAt rx ry)
  !s.defect 2 die x y && (!f.image.blocksAt rx ry || !s.defect 1 die x y) &&
  decide (f.image.wpc ≤ c.freeWindows.length) &&
  (List.range 4).all (fun k => !bit n.banks k || !(c.bank k).claimed) &&
  decide (others + q ≤ 192) && decide (groups.length ≤ 4) &&
  (!c.fmt.set || !bit f.image.fmtWord.toNat 31 || c.fmt.word % 2 ^ 31 = f.image.fmtWord.toNat % 2 ^ 31) &&
  (!f.image.arrayAt rx ry || c.accOwner.isNone) &&
  decide (c.slotsUsed + n.slots ≤ 16) && decide (n.entries ≤ f.image.qextra + min (rest / 2) (rest - sumOf (c.sharedUsed.map Prod.snd)))

/-- Staging units claimed on a port core (R213). -/
def State.stagingUsed (s : State) (die core : Nat) : Nat :=
  sumOf ((s.regions.filter (fun r => r.die = die)).map (fun r =>
    sumOf ((r.image.bindings.filter (fun b => b.core = core)).map (fun b => b.stg))))

/-- Whether an AGN is bound by a region other than `own` (R214). -/
def State.agnHeld (s : State) (die core agn own : Nat) : Bool :=
  s.regions.any (fun r => r.die = die && r.id ≠ own && r.image.bindings.any (fun b => b.core = core && b.agn = agn))

/-- Wave-table entries that a new region takes on a port core, for `frames` frames (R221). -/
def Image.wavesOn (img : Image) (core frames : Nat) : Nat :=
  frames * (img.bindings.filter (fun b => b.core = core && b.shape.cls ≠ .random)).length

/-- Whether the port cores of a die can take an image's bindings (R111). -/
def State.coresFit (s : State) (die : Nat) (f : Fit) : Bool :=
  f.image.bindings.all (fun b =>
    !(s.portCore (80 * die + b.core)).off && !s.agnHeld die b.core b.agn 0 &&
    decide (s.stagingUsed die b.core + sumOf ((f.image.bindings.filter (fun q => q.core = b.core)).map (fun q => q.stg)) ≤ 16) &&
    decide ((s.portCore (80 * die + b.core)).waves.length + f.image.wavesOn b.core f.frames ≤ 2048))

/-- Whether a rectangle fits (R111). -/
def State.rectFits (s : State) (die : Nat) (f : Fit) (x0 y0 : Nat) : Bool :=
  (List.range f.image.height).all (fun ry => (List.range f.image.width).all (fun rx => s.cellFits die f x0 y0 rx ry))

/-- The first rectangle of a die that fits, in order of y0, then x0 (R112). -/
def State.fitsOn (s : State) (die : Nat) (f : Fit) : Option (Nat × Nat) :=
  if !s.dieUp die || 64 ≤ (s.regions.filter (fun r => r.die = die)).length || !s.coresFit die f then none
  else (List.range (Config.rows + 1 - f.image.height)).findSome? (fun y0 =>
    (List.range (Config.columns + 1 - f.image.width)).findSome? (fun x0 => if s.rectFits die f x0 y0 then some (x0, y0) else none))

/-- The first die of a mask, after the die last used, that has a rectangle, with its corner (R112). -/
def State.findPlace (s : State) (f : Fit) (mask : Nat) : Option (Nat × Nat × Nat) :=
  ((List.range 8).map (fun i => (s.hub.lastDie + 1 + i) % 8)).findSome? (fun d =>
    if bit mask d then (s.fitsOn d f).map (fun q => (d, q.1, q.2)) else none)

/-! ## Claims (R110, R187, R201, R204, R208, R267, R291) -/

/-- A block's note under its launch chain's (R116). -/
def Note.under (n chain : Note) : Note := if n.code < chain.code then chain else n

/-- The windows of an image in a cell, by region-relative number, without their physical place. -/
def Region.windowAt (r : Region) (rx ry rwin : Nat) : Window :=
  let b := (r.image.block? rx ry rwin).getD {}
  let actor := r.image.actors.find? (fun a => bit a.wins rwin && (r.image.replicasOf a.wins).contains (rx, ry))
  { region := r.id, rwin := rwin, header := b.header, words := b.words,
    note := (Note.ofCode (bits b.header.toNat 17 16)).under r.note, share := b.share, eff := b.share.toNat,
    outs := (r.image.arcs.filter (fun a => a.px = rx && a.py = ry && a.pwin = rwin)).foldl (fun m a => put {} a.parc
      { cx := r.x0 + a.cx, cy := r.y0 + a.cy, cwin := a.cwin, carc := a.carc, depth := a.depth, level := a.level, fifo := a.fifo,
        cred := a.depth } m) [],
    ins := (r.image.arcs.filter (fun a => a.cx = rx && a.cy = ry && a.cwin = rwin)).foldl (fun m a => put {} a.carc
      { port := a.port, slot := a.slot, px := r.x0 + a.px, py := r.y0 + a.py, pwin := a.pwin, parc := a.parc, depth := a.depth,
        level := a.level, fifo := if a.fifo then some a.bank else none, progress := a.progress } m) [],
    actor := actor.map (fun a => a.actor),
    replica := (actor.map (fun a => (findIdx (· = (rx, ry)) (r.image.replicasOf a.wins)).getD 0)).getD 0 }

/-- A bank claimed, cleared to zero under its new owner's mask, with a mode and interleave (R84, R201, R291). -/
def Cell.claimBank (c : Cell) (k : Nat) (mode : BankMode) (intlv : Bool) (r : Region) (seed : Dword) : Cell :=
  { c.clearBank k with
    banks := put {} k { mode := mode, intlv := intlv, claimed := true, owner := BitVec.ofNat 10 r.ctx, region := r.id, seed := seed } c.banks }

/-- The record of a cell of an image, or one without blocks or tiles. -/
def Image.cellAt (img : Image) (x y : Nat) : CellRec := (img.cells.find? (fun c => c.x = x && c.y = y)).getD {}

/-- The interleave of a bank in a record. -/
def CellRec.intlv (c : CellRec) (k : Nat) : Bool := if k < 2 then c.intlv01 else c.intlv23

/-- The constants of a record written to their banks (R291). -/
def Cell.writeConsts (c : Cell) (l : List (Nat × Nat × List Dword)) : Cell :=
  l.foldl (fun c q => { c with bytes := (q.2.2.foldl (fun (a : Nat × Assoc Byte) v =>
    (a.1 + 8, ((toBytes 8 v.toNat).foldl (fun (b : Nat × Assoc Byte) x => (b.1 + 1, put 0 b.1 x b.2)) (a.1, a.2)).2))
    (65536 * q.1 + 8 * q.2.1, c.bytes)).2 }) c

/-- CELL_FMT of a header's word (R208, R290). -/
def CellFmt.ofWord (v : Nat) : CellFmt :=
  { set := true, bs := bit v 30, vfmt := BitVec.ofNat 6 (bits v 29 24), afmt := BitVec.ofNat 6 (bits v 23 18),
    bfmt := BitVec.ofNat 6 (bits v 17 12), wa := BitVec.ofNat 5 (bits v 11 7), wb := BitVec.ofNat 5 (bits v 4 0) }

/-- The windows of a region put into a cell: into the physical windows it holds there, else the lowest free ones (R110). -/
def Cell.putWindows (c : Cell) (r : Region) (rx ry : Nat) : Cell :=
  (List.range r.image.wpc).foldl (fun c w =>
    let phys := match c.findWin r.id w with
      | some q => some q.1
      | none => c.freeWindows.head?
    match phys with
    | some p => { c with windows := put {} p (r.windowAt rx ry w) c.windows }
    | none => c) c

/-- The tiles, formats, array and generator of a cell as an image gives them; `fresh` where the region newly claims the cell. -/
def Cell.configure (c : Cell) (r : Region) (rx ry : Nat) (fresh : Bool) : Cell :=
  let q := r.image.cellAt rx ry
  let c := if fresh then c else { c with tiles := c.tiles.filter (fun (t : Nat × Tile) => (c.bank t.2.bank.toNat).region ≠ r.id) }
  let c := { c with tiles := q.tiles.foldl (fun (m : Assoc Tile) (t : Nat × Tile) => put {} t.1 t.2 m) c.tiles }
  let c := if bit r.image.fmtWord.toNat 31 then { c with fmt := CellFmt.ofWord r.image.fmtWord.toNat } else c
  let c := if r.image.arrayAt rx ry && c.accOwner ≠ some r.id then { c with accOwner := some r.id, acc := [] } else c
  { c with rng := put 0 r.id (rngSeed r.image.seed rx ry) c.rng }

/-- A cell claimed by a region being placed (R110); not `usable` where a defect keeps its banks out of use (R17). -/
def Cell.claim (c : Cell) (r : Region) (seed : Dword) (usable : Bool) (rx ry : Nat) : Cell :=
  let q := r.image.cellAt rx ry
  let c := (List.range 4).foldl (fun c k =>
    if bit r.image.banks k && usable then c.claimBank k (q.modes.getD k .scratchpad) (q.intlv k) r seed else c) c
  ((c.putWindows r rx ry).configure r rx ry true).writeConsts q.consts

/-- BSEED of a context (R77, R84). -/
def State.bankSeed (s : State) (ctx : Nat) : Dword := ((s.ctx ctx).desc.map (fun d => d.bseed)).getD 0

/-- Every cell of a region changed, by its place in the region. -/
def State.eachCell (s : State) (r : Region) (f : Nat → Nat → Cell → Cell) : State :=
  (List.range r.h).foldl (fun s ry => (List.range r.w).foldl (fun s rx =>
    s.updCell (cellKey r.die (r.x0 + rx) (r.y0 + ry)) (f rx ry)) s) s

/-- The AGNs of a region's bindings (R214), their NOTE under the launch chain's. -/
def State.bindAgns (s : State) (r : Region) : State :=
  r.image.bindings.foldl (fun s b => s.updAgn r b (fun _ =>
    { region := r.id, port := b.p, shape := { b.shape with note := b.shape.note.under r.note } })) s

/-- The groups of an image entered in its die's table (R117). -/
def State.joinGroups (s : State) (r : Region) : State :=
  let add := fun (m : Assoc Group) (g : Nat × List (Nat × Nat)) => upd ({} : Group) g.1 (fun (e : Group) =>
    ({ ctx := r.ctx, members := distinct (e.members ++ g.2.map (fun q => (r.x0 + q.1, r.y0 + q.2))) } : Group)) m
  s.updDie r.die (fun d => { d with groups := r.image.groups.foldl add d.groups })

/-- Whether a group of an image is owned by another context on a die (R117). -/
def State.groupTaken (s : State) (die ctx : Nat) (img : Image) : Bool :=
  img.groups.any (fun g => let e := look ({} : Group) (s.die die).groups g.1; !e.members.isEmpty && e.ctx ≠ ctx)

/-- The actors of an image as the loader places them (R119, R123). -/
def Region.actorsOf (r : Region) : List Actor :=
  r.image.actors.map (fun a =>
    let cells := (r.image.replicasOf a.wins).map (fun q => (r.x0 + q.1, r.y0 + q.2))
    { cfg := a, placed := cells, replicas := cells, buckets := (List.range (2 ^ a.blog)).map (fun b => b % cells.length) })

/-- The region's cells that have no blocks placed and no defect entry (R120). -/
def State.poolOf (s : State) (r : Region) : List (Nat × Nat) :=
  r.cells.filter (fun q => !r.image.blocksAt (q.1 - r.x0) (q.2 - r.y0) && !s.defect 1 r.die q.1 q.2 && !s.defect 2 r.die q.1 q.2)

/-- The loader's frames (R295). -/
def Image.loaderFrames (img : Image) : List FrameRec :=
  img.frames.map (fun q =>
    let live := img.liveOf q.1
    { frm := q.1, level := q.2, next := BitVec.ofNat 12 (maxOf live + 1), live := live.map (fun i => (i, 0)) })

/-- The token of a PRIME sent (R309). -/
def State.sendPrime (s : State) (id : Nat) (p : PrimeRec) : State :=
  let r := s.region id
  let x := r.x0 + p.x
  let y := r.y0 + p.y
  match r.image.prime? p.x p.y p.rwin p.slot, (s.cell (cellKey r.die x y)).findWin id p.rwin with
  | some (imm, t), some (w, _) =>
    let tag := mkTag r.ctx (tagFrm p.tag) 0 (tagItr p.tag)
    s.send1 { die := r.die, x := x, y := y, region := id, rwin := p.rwin, acc := { win := w, slot := p.slot, tag := tag } } tag false t
      (Val.of 8 (imm.signExtend 64).toNat)
  | _, _ => s

/-- What a load gives a region besides its cells (R295): frames with their wave entries, actors and the growth pool. -/
def State.openRegion (s : State) (id : Nat) : State :=
  let s := s.updRegion id (fun r => { r with frames := r.image.loaderFrames, actors := r.actorsOf, quota := r.image.quota })
  let r := s.region id
  let s := s.updRegion id (fun q => { q with pool := s.poolOf r })
  r.frames.foldl (fun s f => s.openWaves r f.frm) s

/-- The PRIME tokens of a region sent (R309). -/
def State.sendPrimes (s : State) (id : Nat) : State := (s.region id).image.primes.foldl (fun s p => s.sendPrime id p) s

/-- A region placed by a launch started (R295, R309). -/
def State.startRegion (s : State) (id : Nat) : State := (s.openRegion id).sendPrimes id

/-- A region claimed at a corner of a die: its record, cells, AGNs and groups (R110). -/
def State.claimRegion (s : State) (r : Region) : Nat × State :=
  let (id, s) := s.newId
  let r := { r with id := id, w := r.image.width, h := r.image.height, margin := r.image.margin,
                    hang := if r.image.hang = 0 then 2 ^ 20 else r.image.hang.toNat }
  let s := { s with regions := s.regions ++ [r], hub := { s.hub with lastDie := r.die } }
  let s := s.eachCell r (fun rx ry c => c.claim r (s.bankSeed r.ctx) (!s.defect 1 r.die (r.x0 + rx) (r.y0 + ry)) rx ry)
  (id, (s.bindAgns r).joinGroups r)

/-! ## A region returns (R113, R117, R118, R213, R362) -/

/-- A cell without a region: its windows, tokens, frame slots, banks, tiles, array and room. -/
def Cell.without (c : Cell) (id : Nat) (keepFmt : Bool) : Cell :=
  let mine := fun (a : Accord) => (c.window a.win).region = id
  let owned := fun (k : Nat) => (c.bank k).region = id
  let c := { c with
    matching := c.matching.filter (fun a => !mine a)
    waiting := c.waiting.filter (fun a => !mine a)
    queue := c.queue.filter (fun t => t.region ≠ id)
    frames := c.frames.map (fun (f : FrameSlot) => if f.region = id then {} else f)
    holdWaits := c.holdWaits.filter (fun w => match w with
      | .write r _ _ _ => r ≠ id
      | .flags r _ _ => r ≠ id)
    tiles := c.tiles.filter (fun t => !owned t.2.bank.toNat)
    engine := match c.engine with
      | some e => if e.firing.region = id then none else some e
      | none => none
    seqs := c.seqs.filter (fun q => q.firing.region ≠ id)
    fences := c.fences.filter (fun f => f.firing.region ≠ id)
    rng := put 0 id 0 c.rng
    qextraUsed := put 0 id 0 c.qextraUsed
    sharedUsed := put 0 id 0 c.sharedUsed
    heldEntries := put 0 id 0 c.heldEntries
    heldLines := put 0 id 0 c.heldLines
    dequeued := put 0 id 0 c.dequeued
    fmt := if keepFmt then c.fmt else {}
    acc := if c.accOwner = some id then [] else c.acc
    accOwner := if c.accOwner = some id then none else c.accOwner }
  let c := ((List.range 4).filter owned).foldl (fun c k => { c.clearBank k with banks := put {} k {} c.banks }) c
  { c with
    windows := c.windows.filter (fun w => w.2.region ≠ id)
    cache := c.cache.filter (fun (l : CacheLine) => (c.bank l.bank).mode = .cache) }

/-- The cells of a region leave its groups (R117), and with them the contributions of the region that still wait. The member sets of
the operations under way stay as they are (R118). -/
def State.leaveGroups (s : State) (r : Region) : State :=
  s.updDie r.die (fun d => { d with
    groups := d.groups.foldl (fun m g =>
      let left := g.2.members.filter (fun q => !(r.contains q.1 q.2 && (r.image.groupsAt (q.1 - r.x0) (q.2 - r.y0)).contains g.1))
      put ({} : Group) g.1 (if left.isEmpty then {} else { g.2 with members := left }) m) []
    tree := d.tree.map (fun o => { o with
      contribs := o.contribs.filter (fun q => q.firing.region ≠ r.id || (q.coll.isSome && q.targets.isEmpty)) }) })

/-- The cells of a region that is released after a freeze leave the operations that wait for them (R118): each completes with the
contributions of the members that remain. -/
def State.leaveTree (s : State) (r : Region) : State :=
  s.updDie r.die (fun d => { d with
    tree := (d.tree.map (fun o => { o with
      members := o.members.filter (fun q => !(r.contains q.1 q.2 && (r.image.groupsAt (q.1 - r.x0) (q.2 - r.y0)).contains o.group)) })).filter
        (fun o => !(o.members.isEmpty && o.contribs.isEmpty)) })

/-- A region gone from the machine: its cells, AGNs, waves, groups, tokens and requests (R113). -/
def State.removeRegion (s : State) (id : Nat) : State :=
  match s.region? id with
  | none => s
  | some r =>
    let s := s.leaveGroups r
    let s := r.cells.foldl (fun s q =>
      let k := cellKey r.die q.1 q.2
      let keep := (s.cell k).regions.any (fun o => o ≠ id && bit (s.region o).image.fmtWord.toNat 31)
      s.updCell k (fun c => c.without id keep)) s
    let s := { s with ports := s.ports.map (fun (p : Nat × PortCore) => (p.1, if p.1 / 80 = r.die then { p.2 with
      agns := p.2.agns.filter (fun (a : Nat × Agn) => a.2.region ≠ id)
      waves := p.2.waves.filter (fun (w : Wave) => w.region ≠ id) } else p.2)) }
    let s := s.updDie r.die (fun d => { d with
      reports := d.reports.filter (fun t => t.region ≠ id)
      gates := d.gates.filter (fun g => g.firing.region ≠ id)
      loading := if d.loading = some id then none else d.loading })
    { s with
      regions := s.regions.filter (fun q => q.id ≠ id)
      toks := s.toks.filter (fun t => t.region ≠ id)
      notices := s.notices.filter (fun n => n.region ≠ id)
      accesses := s.accesses.filter (fun a => a.firing.region ≠ id)
      responses := s.responses.filter (fun p => p.firing.region ≠ id)
      xfers := s.xfers.filter (fun x => x.region ≠ id)
      spaces := s.spaces.filter (fun p => p.region ≠ id) }

/-! ## Faults of a load (R157, R298) -/

/-- WHERE of a refused load: form C for CFG_ILLOP to CFG_ALIGN, form D above (R156). -/
def loadWhere (die x0 y0 : Nat) (b : BadImage) : Word :=
  if b.cls.code ≤ 0x15 then whereC die (x0 + b.x) (y0 + b.y) b.win b.slot else whereD die

/-- The record of a load refused (R157): field code, image VA and offset. -/
def State.loadFault (s : State) (ctx va : Nat) (loc : Word) (handle : Nat) (cycle : Dword) (b : BadImage) : State :=
  s.putFault { cls := b.cls, ctx := ctx, loc := loc, cycle := cycle, bodyB := handle,
               bodyA := b.code + va % 2 ^ 64 * 2 ^ 32 + b.off * 2 ^ 96 }

/-! ## Launches placed (R101 steps 3 to 7, R112) -/

/-- What a waiting launch places. -/
def Waiting.fit (w : Waiting) : Fit := { image := w.image, frames := w.image.frames.length }

/-- A waiting launch or restore removed. -/
def State.unwait (s : State) (w : Waiting) : State :=
  { s with hub := { s.hub with waiting := s.hub.waiting.filter (fun q => !(q.ctx = w.ctx && q.ordinal = w.ordinal)) } }

/-- A launch placed at a corner (R101 steps 4 to 7): its group entries must be its context's (R117). Where the handle's address does
not translate, the chain halts (R99) with the region loaded. -/
def State.placeLaunch (s : State) (w : Waiting) (die x0 y0 : Nat) : State :=
  let s := s.unwait w
  if s.groupTaken die w.ctx w.image then
    (s.loadFault w.ctx w.cfgVa (whereD die) 0 s.hub.cycles { cls := .cfgGroup, sec := 5 }).completeRec w.ctx 0 w.ordinal 0x8005
  else
    let r : Region := { die := die, x0 := x0, y0 := y0, w := w.image.width, h := w.image.height, ctx := w.ctx, imageVa := w.cfgVa,
                        image := w.image, imageBytes := w.imageBytes, chain := 0, ordinal := w.ordinal, note := w.note, hndl := w.hndl,
                        disp := w.disp, frame := w.frame, ql := w.ql, inject := w.tokens }
    let q := s.claimRegion r
    let s := q.2.startRegion q.1
    match if w.hndl = 0 then (s, none) else s.vaWrite w.ctx w.hndl (toBytes 8 r.handle) with
    | (s, none) => s
    | (s, some e) =>
      s.halt w.ctx 0 w.ordinal (((s.chain w.ctx 0).rcd? w.ordinal).map CmdRec.va) 0x8003 e.1 (engineBody 1 e.2.2 e.2.1)

/-- The order of the waiting launches (R112): by note, then by the cycle in which each record started. -/
def waitsBefore (a b : Waiting) : Bool :=
  decide (a.note.code < b.note.code) || (a.note.code = b.note.code && decide (a.stamp ≤ b.stamp))

/-- The dies on which a launch may be placed, given the aged launches before it that still wait (R112). -/
def openDies (w : Waiting) (aged : List Waiting) : Nat :=
  sumOf (((List.range 8).filter (fun d => bit w.dieMask d &&
    !aged.any (fun a => bit a.dieMask d && decide (a.note.code ≤ w.note.code)))).map (fun d => 2 ^ d))

/-! ## An actor's cells -/

/-- The cells that hold windows of a region: the region's (R110). -/
def State.regionCells (s : State) (id : Nat) : List Nat :=
  let r := s.region id
  r.cells.map (fun q => cellKey r.die q.1 q.2)

end Sys2Proof.Machine
end

