-- ==== Sys2Proof/Machine/Flacon.lean ====
section
/-!
DEFINITION. The flacon image (R176 to R179, R181): its sections as a region's state gives them, its length and checksums,
and what the hub reads from an image before it waits for a region. The readings of log 25 hold here.
-/

namespace Sys2Proof.Machine

/-- Zero bytes. -/
def blank (n : Nat) : List Byte := List.replicate n 0

/-- Bytes padded with zeros to a multiple of 64 (R176). -/
def pad64 (l : List Byte) : List Byte := l ++ blank ((64 - l.length % 64) % 64)

/-! ## CONFIG, TAGS and TRAPS (R177) -/

/-- A frame entry of TAGS: a wrap whose multicast has started counts as completed (R177). -/
def FrameRec.entry (f : FrameRec) (trapped : Bool) : List Byte :=
  let wraps := if f.wrap.isSome then f.wraps + 1 else f.wraps
  toBytes 1 (1 + 2 * bitOf trapped) ++ toBytes 1 f.level ++ toBytes 1 (wraps % 4) ++ toBytes 1 (min 255 f.markers.length) ++
  toBytes 2 f.next.toNat ++ toBytes 2 0 ++ toBytes 4 (f.parent.getD 0).toNat ++ toBytes 4 wraps ++
  toBytes 512 (sumOf (f.live.map (fun q => 2 ^ q.1)))

/-- TAGS. -/
def Region.tagSection (r : Region) : List Byte :=
  (List.range 8).flatMap (fun k => toBytes 2 (r.used k)) ++ blank 16 ++
  (List.range 256).flatMap (fun n => match r.frame? n with
    | none => blank 528
    | some f => f.entry (r.trapSet.contains n))

/-- TRAPS. -/
def Region.trapSection (r : Region) : List Byte := toBytes 32 (sumOf (r.trapSet.map (fun n => 2 ^ n)))

/-! ## CELLS (R178, R179) -/

/-- A token to be saved: its target, kind, tag, value and note. -/
structure Saved where
  dest : Dest := .slot 0 0 .l
  kind : Nat := 0
  tag : Tag := 0
  val : Val := {}
  note : Note := .base
  deriving DecidableEq, Repr

/-- The entries of saved tokens of a cell, each with its order among those of its target. -/
def savedEntries (r : Region) (x y : Nat) (l : List Saved) : List Byte :=
  ((l.foldl (fun (acc : List Dest × List (List Byte)) t =>
    let n := (acc.1.filter (fun d => d = t.dest)).length
    (t.dest :: acc.1, savedToken r x y t.dest t.kind t.tag t.val t.note n :: acc.2)) ([], [])).2).reverse.flatten

/-- The operands of accords of a region, with a kind. -/
def Cell.savedAccords (c : Cell) (id kind : Nat) (l : List Accord) : List Saved :=
  (l.filter (fun a => (c.window a.win).region = id)).flatMap (fun a =>
    let w := c.window a.win
    a.operands.map (fun q => { dest := .slot w.rwin a.slot q.1, kind := kind, tag := a.tag, val := q.2, note := w.note }))

/-- The nine next-element indices of a binding's round (log 25). -/
def State.roundIndices (s : State) (r : Region) (b : Binding) : List Nat :=
  let g := s.agn r b
  match g.round with
  | none => List.replicate 9 0
  | some q =>
    let first := match b.mode with
      | .conv => [(q.delivered : Int), (q.pass : Int)]
      | .tile => g.shape.index (q.delivered * s.tileRows r b * (g.shape.dims.headD {}).span)
      | .element => g.shape.index q.delivered
    (List.range 9).map (fun i => wrap 32 (first.getD i 0))

/-- A slot target's destination in a window. -/
def slotDest (rwin : Nat) : Target → Option Dest
  | .slot p _ sl => some (.slot rwin sl.toNat p)
  | _ => none

/-- The START and PARAM tokens of an AGN in the order of their arrival, each with the target it came to. -/
def Agn.arrived (g : Agn) (b : Binding) : List (Target × Accord) :=
  sortBy (fun (x y : Target × Accord) => decide (x.2.stamp ≤ y.2.stamp))
    (g.starts.map (fun a => (b.start, a)) ++ g.params.map (fun a => (b.param, a)))

/-- The START and PARAM tokens of the bindings that issue in a cell (R218, R219), which wait as operands of their slots; first
the start token of a round in progress that its PORTS entry cannot tell from none (log 25). -/
def State.savedStarts (s : State) (r : Region) (x y : Nat) : List Saved :=
  (r.image.bindings.filter (fun b => r.x0 + b.ix = x && r.y0 + b.iy = y)).flatMap (fun b =>
    let g := s.agn r b
    if g.region ≠ r.id || g.port ≠ b.p then [] else
    let note := match (s.cell (cellKey r.die x y)).findWin r.id b.iwin with
      | some q => q.2.note
      | none => r.note
    let of := fun (l : List (Target × Accord)) => l.filterMap (fun (q : Target × Accord) => (slotDest b.iwin q.1).map (fun d =>
      ({ dest := d, tag := q.2.tag, val := q.2.l.getD (Val.of 4 0), note := note } : Saved)))
    let again : List (Target × Accord) := match g.round with
      | some q => if q.tag = 0 && (s.roundIndices r b).all (· = 0) then [(b.start, { tag := q.tag, l := some (Val.of 4 0) })] else []
      | none => []
    of (again ++ g.arrived b))

/-- The kind of an input-queue token (R179). -/
def Tok.savedKind (t : Tok) : Nat :=
  match t.dest, t.kind with
  | .arc _ _, _ => 2
  | _, .response => 6
  | _, _ => 1

/-- The slot and port to which an entry's target word leads: its own, or those that its arc feeds. -/
def Image.tokenPort (img : Image) (w : Nat) : Option (Nat × Port) :=
  match portOf (bits w 15 14) with
  | some p => if img.takes (bits w 31 25) (bits w 24 19) (bits w 18 16) (bits w 13 8) p then some (bits w 13 8, p) else none
  | none =>
    (img.arcs.find? (fun a => a.cx = bits w 31 25 && a.cy = bits w 24 19 && a.cwin = bits w 18 16 && a.carc = bits w 13 8)).map
      (fun a => (a.slot, a.port))

/-- The bytes of an entry's value: 4 where its port takes no more, else 8. -/
def Image.tokenLen (img : Image) (w : Nat) : Nat :=
  match img.tokenPort w, img.block? (bits w 31 25) (bits w 24 19) (bits w 18 16) with
  | some (sl, p), some b =>
    match slotInstr b.words sl with
    | some i => if i.portWidth p ≤ 4 then 4 else 8
    | none => 8
  | _, _ => 8

/-- The initial tokens of a region that have not been injected, saved as operands of the slots they lead to (log 25). -/
def State.savedInject (s : State) (r : Region) (x y : Nat) : List Saved :=
  r.inject.filterMap (fun e =>
    let w := e.2.1
    let win := bits w 18 16
    let v := Val.of (r.image.tokenLen w) e.1
    let tag := mkTag r.ctx (bits e.2.2 21 14) (bits e.2.2 13 12) (bits e.2.2 11 0)
    match r.image.tokenPort w with
    | none => none
    | some (sl, p) =>
      if r.steer (r.x0 + bits w 31 25) (r.y0 + bits w 24 19) win tag v ≠ (x, y) then none
      else some { dest := .slot win sl p, tag := tag, val := v, note := (((s.cell (cellKey r.die x y)).findWin r.id win).map (fun q => q.2.note)).getD r.note })

/-- The saved tokens of a cell: matching store, waiting accords, then queue, arc and in-flight arc tokens (R178 part 6). -/
def State.savedOf (s : State) (r : Region) (x y : Nat) : List Saved :=
  let c := s.cell (cellKey r.die x y)
  let of := fun (k : Tok → Nat) (t : Tok) => ({ dest := t.dest, kind := k t, tag := t.tag, val := t.val, note := t.note } : Saved)
  let held := r.actors.flatMap (fun a => a.held.filter (fun t => t.x = x && t.y = y))
  c.savedAccords r.id 0 c.matching ++ s.savedStarts r x y ++ s.savedInject r x y ++ c.savedAccords r.id 5 c.waiting ++
  (c.queue.filter (fun t => t.region = r.id)).map (of Tok.savedKind) ++ held.map (of Tok.savedKind) ++
  (r.inflight.filter (fun t => t.x = x && t.y = y)).map (of fun _ => 3)

/-- The FIFO state of a bank: its head, and the entries in use (R178). -/
def Cell.fifoWord (c : Cell) (r : Region) (k : Nat) : Nat :=
  let b := c.bank k
  if b.region = r.id && b.mode = .fifo then b.fifoHead % 1024 + b.fifoCount * 2 ^ 10 else 0

/-- An accumulator entry as saved. -/
def AccEntry.bytes (a : AccEntry) : List Byte :=
  toBytes 8 (a.s.signExtend 64).toNat ++ toBytes 2 (a.e.signExtend 16).toNat ++ blank 6

/-- The cell record of a region's cell (R178). -/
def State.cellRecord (s : State) (r : Region) (q : Nat × Nat) : List Byte :=
  let c := s.cell (cellKey r.die q.1 q.2)
  let owned := (List.range 4).filter (fun k => (c.bank k).region = r.id && (c.bank k).claimed)
  let toks := s.savedOf r q.1 q.2
  let count := fun (p : Nat → Bool) => (toks.filter (fun t => p t.kind)).length
  let slot := fun (i : Nat) => let f := c.frames.getD i {}; if f.region = r.id then some f else none
  let full := fun (i h : Nat) => match slot i with
    | some f => (look {} f.regs h).st = .full
    | none => false
  let modes := sumOf (owned.map (fun k => (c.bank k).mode.code * 4 ^ k))
  let tail :=
    toBytes 1 (q.1 - r.x0) ++ toBytes 1 (q.2 - r.y0) ++ toBytes 1 r.image.wpc ++ toBytes 1 (sumOf (owned.map (2 ^ ·))) ++
    toBytes 4 (look 0 c.rng r.id).toNat ++ toBytes 2 (count (· = 0)) ++ toBytes 2 (count (· = 5)) ++
    toBytes 2 (count (fun k => k ≠ 0 && k ≠ 5)) ++ toBytes 1 modes ++
    toBytes 1 (bitOf (owned.any (fun k => k < 2 && (c.bank k).intlv)) + 2 * bitOf (owned.any (fun k => 2 ≤ k && (c.bank k).intlv))) ++ blank 12 ++
    (List.range 16).flatMap (fun i => toBytes 4 (sumOf ((List.range 32).map (fun h => bitOf (full i h) * 2 ^ h)))) ++
    (List.range 16).flatMap (fun i => toBytes 2 (match slot i with
      | some f => 32768 + f.frm
      | none => 0)) ++
    (List.range 4).flatMap (fun k => toBytes 4 (c.fifoWord r k)) ++
    (List.range 512).flatMap (fun n => toBytes 8 (if full (n / 32) (n % 32) then (c.hold (n / 32) (n % 32)).val.toNat else 0)) ++
    (List.range 32).flatMap (fun j =>
      let t := c.tile j
      toBytes 16 (if t.defined && (c.bank t.bank.toNat).region = r.id then t.word else 0)) ++
    (List.range 2048).flatMap (fun n => if c.accOwner = some r.id then (look {} c.acc n).bytes else blank 16) ++
    owned.flatMap (fun k => (List.range 65536).map (fun a => look 0 c.bytes (65536 * k + a))) ++
    savedEntries r q.1 q.2 toks
  toBytes 4 (tail.length + 4) ++ tail

/-! ## PARK and SPILL (R177) -/

/-- The held stores of trapped frames that have no completion target (log 25). -/
def State.heldStores (s : State) (r : Region) : List Access :=
  s.accesses.filter (fun a => a.firing.region = r.id && a.phase = .held && a.target = .discard && r.trapSet.contains a.firing.frm &&
    (match a.op with
      | .st _ => true
      | _ => false))

/-- A held store's header and data (R177). -/
def State.heldEntry (s : State) (r : Region) (a : Access) : List Byte :=
  let h := s.shapeOf r (s.bindingOf a)
  let n := max 1 (h.width / 8)
  let data := match a.op with
    | .st v => v
    | _ => 0
  toBytes 4 a.firing.acc.tag.toNat ++ toBytes 4 (a.wseq.getD 0) ++ toBytes 8 (h.addr (h.index a.pos)) ++ toBytes 1 n ++
  toBytes 1 a.port ++ blank 14 ++ toBytes n data ++ blank ((8 - n % 8) % 8)

/-- PARK. -/
def State.parkSection (s : State) (r : Region) : List Byte :=
  (parkEntries r [] (r.park ++ r.parkKept)).flatten ++ (s.heldStores r).flatMap (s.heldEntry r)

/-- SPILL: the extended arcs of a region. -/
def State.spillSection (s : State) (r : Region) : List Byte :=
  r.cells.flatMap (fun q =>
    let c := s.cell (cellKey r.die q.1 q.2)
    (sortBy (fun (a b : Nat × Window) => decide (a.2.rwin ≤ b.2.rwin)) (c.windows.filter (fun w => w.2.region = r.id))).flatMap (fun w =>
      (w.2.ins.filter (fun a => a.2.extended)).flatMap (fun a =>
        toBytes 4 ((q.1 - r.x0) * 2 ^ 25 + (q.2 - r.y0) * 2 ^ 19 + w.2.rwin * 2 ^ 16 + a.1 * 2 ^ 8) ++ toBytes 4 a.2.spill.length ++
        savedEntries r q.1 q.2 (a.2.spill.map (fun t => { dest := .arc w.2.rwin a.1, kind := 2, tag := t.tag, val := t.val, note := t.note })))))

/-! ## PLACE and PORTS (R177) -/

/-- PLACE: the elastic actors, their replicas numbered anew without those that have gone. -/
def Region.placeSection (r : Region) : List Byte :=
  (r.actors.filter (fun a => a.cfg.elastic)).flatMap (fun a =>
    let rank := fun (i : Nat) => toBytes 1 ((findIdx (· = i) a.present).getD 0)
    toBytes 2 a.cfg.actor ++ toBytes 1 a.cells.length ++ toBytes 1 a.cfg.blog ++ blank 4 ++
    a.cells.flatMap (fun q => toBytes 2 ((q.1 - r.x0) * 64 + (q.2 - r.y0))) ++ a.buckets.flatMap rank ++
    toBytes 4 a.moves.length ++
    a.moves.flatMap (fun m => toBytes 1 m.bucket ++ rank m.src ++ rank m.dst ++ toBytes 1 m.step))

/-- The code of an access class (R293). -/
def AccClass.code : AccClass → Nat
  | .streaming => 0
  | .random => 1
  | .ordered => 2

/-- The PORTS entry of a binding: the round is its tag (log 25). -/
def State.portEntry (s : State) (r : Region) (b : Binding) : List Byte :=
  let g := s.agn r b
  let mine := g.region = r.id && g.port = b.p
  toBytes 1 b.p ++ toBytes 1 b.shape.cls.code ++ blank 2 ++
  toBytes 4 (if mine then ((g.round.map Round.tag).getD 0).toNat else 0) ++
  (if mine then s.roundIndices r b else List.replicate 9 0).flatMap (toBytes 4) ++
  toBytes 8 (if mine then (g.pending.getD 0).toNat else 0) ++ toBytes 1 (bitOf (mine && g.pending.isSome)) ++ blank 11

/-- Whether a map entry's upper bits name a cell of a region (R144, R410). -/
def Region.owns (r : Region) (addr : Nat) : Bool :=
  addr ≠ 0 && bits (16 * addr) 31 28 = r.die && r.contains (bits (16 * addr) 27 21) (bits (16 * addr) 20 15)

/-- Whether a receive stream is an activation stream that ends in a region (R151). -/
def State.actsInto (s : State) (r : Region) (k : Nat) (t : RecvStream) : Bool :=
  match s.actInto k t.src t.stream with
  | none => false
  | some q => (s.launched q.ctx q.claunch).map (fun g => g.id) = some r.id

/-- Whether a receive stream holds a token packet bound for a region (R114, R151, R426). -/
def State.holdsFor (s : State) (r : Region) (k : Nat) (t : RecvStream) : Bool :=
  t.held.any (fun p => p.kind = 5 && (if p.addr = 0 then s.actsInto r k t else p.ctx = r.ctx && r.owns p.addr))

/-- The receive streams at the port cores of a region's die that have a property: endpoint and entry. -/
def State.recvsAt (s : State) (r : Region) (f : Nat → RecvStream → Bool) : List (Nat × RecvStream) :=
  s.eps.flatMap (fun e => if e.1 / 1024 ≠ r.die || 80 ≤ e.1 % 1024 then [] else (e.2.recvs.filter (f e.1)).map (fun t => (e.1, t)))

/-- The streams that enter a region (R177): its activation streams, and the MIGR streams that have delivered into it, or hold a packet
or a hole for it. -/
def State.streamsInto (s : State) (r : Region) : List (Nat × RecvStream) :=
  s.recvsAt r (fun k t => decide (t.stream < 65536) && (s.actsInto r k t || s.holdsFor r k t || t.fed.contains r.id ||
    t.holes.any (fun h => h.kind = 5 && t.ctx = r.ctx && r.owns h.addr)))

/-- A receive entry of PORTS. -/
def RecvStream.entry (t : RecvStream) : List Byte :=
  let hole := fun (n : Nat) => decide (n < t.limit) && !(t.seen.contains n || t.held.any (fun p => absSeq t.cum p.seq = n))
  toBytes 3 t.src ++ toBytes 2 t.stream ++ toBytes 3 t.cum ++ toBytes 3 t.limit ++ blank 1 ++
  toBytes 32 (sumOf ((List.range 256).map (fun i => bitOf (hole (t.cum + i)) * 2 ^ i))) ++ blank 20

/-- PORTS. -/
def State.portSection (s : State) (r : Region) : List Byte :=
  r.image.bindings.flatMap (s.portEntry r) ++
  r.image.bindings.flatMap (fun b => ((s.portCore (80 * r.die + b.core)).waves.filter (fun w => w.region = r.id && w.port = b.p)).flatMap (fun w =>
    toBytes 4 (mkTag r.ctx w.frm 0 0).toNat ++ toBytes 2 w.nextw.toNat ++ toBytes 1 b.p ++ toBytes 1 0)) ++
  (s.streamsInto r).flatMap (fun q => q.2.entry)

/-! ## The image (R176) -/

/-- The sections in their order, CONFIG as given. -/
def State.flaconSections (s : State) (r : Region) (config : List Byte) : List (List Byte) :=
  [config, r.tagSection, r.cells.flatMap (s.cellRecord r), s.parkSection r, s.spillSection r, r.placeSection, s.portSection r,
   r.trapSection]

/-- The section entries: offset and length, in order from 0x100. -/
def sectionEntries : Nat → List (List Byte) → List Byte
  | _, [] => []
  | o, x :: t => toBytes 8 o ++ toBytes 8 x.length ++ sectionEntries (o + (pad64 x).length) t

/-- The flacon image of a region with a cause. -/
def State.flacon (s : State) (r : Region) (config : List Byte) (cause : Nat) : List Byte :=
  let secs := s.flaconSections r config
  let body := secs.flatMap pad64
  let head := toBytes 4 0x4C464C53 ++ toBytes 2 1 ++ toBytes 1 cause ++ toBytes 1 r.note.code ++ toBytes 2 r.ctx ++ toBytes 1 r.w ++
    toBytes 1 r.h ++ toBytes 1 r.ql ++ toBytes 1 (bitOf r.disp) ++ toBytes 2 r.trapSet.length ++ toBytes 8 r.frame.toNat ++
    toBytes 8 r.ordinal ++ toBytes 8 r.hndl ++ blank 24 ++ sectionEntries 0x100 secs ++ blank 56 ++ toBytes 4 (crc32c body)
  head ++ toBytes 4 (crc32c head) ++ body

/-! ## An image read back (R179, R181) -/

/-- Offset and length of section i of an image. -/
def flaconSection (d : List Byte) (i : Nat) : Nat × Nat := (rd d (0x40 + 16 * i) 8, rd d (0x48 + 16 * i) 8)

/-- The bytes of section i. -/
def flaconPart (d : List Byte) (i : Nat) : List Byte := let q := flaconSection d i; (d.drop q.1).take q.2

/-- A saved token read back: cell and order besides what `Saved` holds, and whether a reserved or padding byte of it is set. -/
structure Kept where
  x : Nat := 0
  y : Nat := 0
  order : Nat := 0
  tok : Saved := {}
  dirty : Bool := false
  deriving DecidableEq, Repr

/-- The saved token at the start of some bytes, and its size. -/
def readSaved (d : List Byte) : Option (Kept × Nat) :=
  let w := rd d 4 4
  let n := rd d 8 2
  let rwin := bits w 18 16
  let port : Port := if bits w 15 14 = 1 then .l else if bits w 15 14 = 2 then .r else .p
  let dest : Dest := if bits w 15 14 = 0 then .arc rwin (bits w 13 8) else .slot rwin (bits w 13 8) port
  let tag : Tag := BitVec.ofNat 32 (rd d 0 4)
  if d.length < 16 + n || n = 0 || 256 < n then none
  else some ({ x := bits w 31 25, y := bits w 24 19, order := rd d 12 4,
               dirty := w % 16 ≠ 0 || 2 ≤ rd d 11 1 || !zeros d (16 + n) (8 * ceilDiv n 8 - n),
               tok := { dest := dest, kind := bits w 7 4, tag := if bit (rd d 11 1) 0 then nextTag tag else tag,
                        val := { len := n, bits := rd d 16 n }, note := Note.ofCode (rd d 10 1) } }, 16 + 8 * ceilDiv n 8)

/-- The saved tokens in some bytes, up to `n` of them. -/
def readSavedN : Nat → List Byte → List Kept
  | 0, _ => []
  | n + 1, d =>
    match readSaved d with
    | none => []
    | some (t, k) => t :: readSavedN n (d.drop k)

/-- The cell records of a CELLS section, up to `n` of them. -/
def cellRecords : Nat → List Byte → List (List Byte)
  | 0, _ => []
  | n + 1, d => if rd d 0 4 < 144 || d.length < rd d 0 4 then [] else d.take (rd d 0 4) :: cellRecords n (d.drop (rd d 0 4))

/-- The cell records of an image. -/
def flaconCells (d : List Byte) : List (List Byte) := cellRecords (rd d 0x0A 1 * rd d 0x0B 1) (flaconPart d 2)

/-- Where the saved tokens of a cell record begin. -/
def cellTokensAt (c : List Byte) : Nat :=
  144 + 4096 + 512 + 32768 + 65536 * ((List.range 4).filter (fun k => bit (rd c 7 1) k)).length

/-- The saved tokens of a cell record. -/
def cellTokens (c : List Byte) : List Kept := readSavedN (rd c 12 2 + rd c 14 2 + rd c 16 2) (c.drop (cellTokensAt c))

/-- What a cell record asks of its new cell (R111). -/
def cellNeed (c : List Byte) : CellNeed :=
  { x := rd c 4 1, y := rd c 5 1, banks := rd c 7 1 % 16,
    slots := ((List.range 16).filter (fun i => bit (rd c (96 + 2 * i) 2) 15)).length,
    entries := ((cellTokens c).filter (fun t => t.tok.kind = 1 || t.tok.kind = 6)).length }

/-- The frame entry n of an image, if it is allocated. -/
def flaconFrame (d : List Byte) (n : Nat) : Option (List Byte) :=
  let e := ((flaconPart d 1).drop (32 + 528 * n)).take 528
  if bit (rd e 0 1) 0 then some e else none

/-- The frames that an image shows allocated. -/
def flaconFrames (d : List Byte) : List Nat := (List.range 256).filter (fun n => (flaconFrame d n).isSome)

/-- What a waiting launch or restore asks of a rectangle (R111). -/
def Waiting.ask (w : Waiting) : Fit :=
  match w.flacon with
  | none => w.fit
  | some d => { image := w.image, frames := (flaconFrames d).length, needs := some ((flaconCells d).map cellNeed) }

/-- The extended arcs of a SPILL section with their tokens, up to `n` of them. -/
def spillGroups : Nat → List Byte → List (Nat × List Kept)
  | 0, _ => []
  | n + 1, d =>
    if d.length < 8 then []
    else
      let l := readSavedN (rd d 4 4) (d.drop 8)
      (rd d 0 4, l) :: spillGroups n (d.drop (8 + sumOf (l.map (fun t => 16 + 8 * ceilDiv t.tok.val.len 8))))

/-- The parked entries at the start of a PARK section, and the bytes behind them. -/
def parkedFrom : Nat → List Byte → List Kept × List Byte
  | 0, d => ([], d)
  | n + 1, d =>
    match readSaved d with
    | none => ([], d)
    | some (t, k) =>
      if !(t.tok.kind = 4 || t.tok.kind = 5) || rd d 4 1 % 16 ≠ 0 || rd d 8 2 % 4 ≠ 0 || 1 < rd d 11 1 || 2 < rd d 10 1 then ([], d)
      else
        let q := parkedFrom n (d.drop k)
        (t :: q.1, q.2)

/-- The held stores behind the parked entries of a PARK section, up to `n` of them. -/
def storeEntries : Nat → List Byte → List (List Byte)
  | 0, _ => []
  | n + 1, d =>
    if d.length < 32 || rd d 16 1 = 0 then []
    else let k := 32 + 8 * ceilDiv (rd d 16 1) 8; d.take k :: storeEntries n (d.drop k)

/-- The entries of a PLACE section, up to `n` of them. -/
def placeEntries : Nat → List Byte → List (List Byte)
  | 0, _ => []
  | n + 1, d =>
    let o := 8 + 2 * rd d 2 1 + 2 ^ min 8 (rd d 3 1)
    let k := o + 4 + 4 * rd d o 4
    if d.length < k then [] else d.take k :: placeEntries n (d.drop k)

/-- Bindings of an image that are wave-ordered. -/
def Image.waveBindings (img : Image) : Nat := (img.bindings.filter (fun b => b.shape.cls ≠ .random)).length

/-- Whether a reserved byte of a cell record or of a saved token of it is set (R178, R179). -/
def cellReserved (c : List Byte) : Bool :=
  !zeros c 20 12 || 16 ≤ rd c 7 1 || 4 ≤ rd c 19 1 ||
  (List.range 16).any (fun i => bits (rd c (96 + 2 * i) 2) 14 8 ≠ 0) ||
  (List.range 4).any (fun k => bits (rd c (128 + 4 * k) 4) 31 21 ≠ 0) ||
  (List.range 2048).any (fun n => !zeros c (144 + 4096 + 512 + 16 * n + 10) 6) || (cellTokens c).any Kept.dirty

/-- Whether a reserved byte of PARK, SPILL or PLACE is set (R177, R179). -/
def partsReserved (d : List Byte) : Bool :=
  let park := parkedFrom (flaconPart d 3).length (flaconPart d 3)
  park.1.any Kept.dirty ||
  (storeEntries (park.2.length / 32) park.2).any (fun e => !zeros e 18 14 || !zeros e (32 + rd e 16 1) (e.length - 32 - rd e 16 1)) ||
  (spillGroups 8 (flaconPart d 4)).any (fun g => g.2.any Kept.dirty) ||
  (placeEntries 32 (flaconPart d 5)).any (fun e => !zeros e 4 4 || (List.range (rd e 2 1)).any (fun i => bits (rd e (8 + 2 * i) 2) 15 13 ≠ 0))

/-- Whether a reserved byte of PORTS is set (R177). -/
def portsReserved (img : Image) (d : List Byte) : Bool :=
  let sec := flaconPart d 6
  let n := img.bindings.length
  let waves := (flaconFrames d).length * img.waveBindings
  let o := 64 * n + 8 * waves
  (List.range n).any (fun i => !zeros sec (64 * i + 2) 2 || 2 ≤ rd sec (64 * i + 52) 1 || !zeros sec (64 * i + 53) 11) ||
  (List.range waves).any (fun i => !zeros sec (64 * n + 8 * i + 7) 1) ||
  (List.range ((sec.length - o) / 64)).any (fun i => !zeros sec (o + 64 * i + 11) 1 || !zeros sec (o + 64 * i + 44) 20)

/-- Whether the padding behind a section is set (R176). -/
def padReserved (d : List Byte) : Bool :=
  (List.range 8).any (fun i => let q := flaconSection d i; !zeros d (q.1 + q.2) (64 * ceilDiv q.2 64 - q.2))

/-- Whether a reserved byte of an image is set (R176 to R179, R181 reason 5). -/
def flaconReserved (img : Image) (d : List Byte) : Bool :=
  !zeros d 0x28 24 || !zeros d 0xC0 56 || rd d 0x0D 1 > 1 || rd d 7 1 > 2 || !(rd d 6 1 = 1 || rd d 6 1 = 2) ||
  (List.range 8).any (fun i => (flaconSection d i).1 % 64 ≠ 0) ||
  !zeros (flaconPart d 1) 16 16 ||
  (List.range 256).any (fun n => !zeros (flaconPart d 1) (32 + 528 * n + 6) 2 || 4 ≤ rd (flaconPart d 1) (32 + 528 * n) 1) ||
  (flaconCells d).any cellReserved || partsReserved d || portsReserved img d || padReserved d

/-- Whether the LAUNCH record that an image names is in progress with a drained region (R181 reason 6). -/
def State.isDrained (s : State) (ctx ordinal : Nat) : Bool :=
  (match (s.chain ctx 0).rcd? ordinal with
    | none => false
    | some r => r.started && !r.complete && r.status = 0) &&
  !s.regions.any (fun r => r.ctx = ctx && r.ordinal = ordinal) && !s.hub.waiting.any (fun w => w.ctx = ctx && w.ordinal = ordinal)

/-- Bytes of an image by VA: the bytes, or none where a read does not translate. -/
def State.readAll (s : State) (ctx va n : Nat) : Option (List Byte) × State :=
  let q := s.readSpan ctx (lineParts va n)
  (if q.2.1.isSome then none else some q.1, q.2.2)

/-- A restore's image read and checked (R181): its bytes and configuration, or the reason. -/
def State.readFlacon (s : State) (va ctx : Nat) : Except Nat (List Byte × Image) × State :=
  let q := s.readAll ctx va 256
  match q.1 with
  | none => (.error 7, q.2)
  | some h =>
    if rd h 0 4 ≠ 0x4C464C53 || rd h 4 2 ≠ 1 then (.error 1, q.2)
    else if crc32c (h.take 0xFC) ≠ rd h 0xFC 4 then (.error 2, q.2)
    else
      let stop := maxOf (256 :: (List.range 8).map (fun i => let e := flaconSection h i; if e.2 = 0 then 0 else e.1 + 64 * ceilDiv e.2 64))
      let t := q.2.readAll ctx (va + 256) (stop - 256)
      match t.1 with
      | none => (.error 7, t.2)
      | some b =>
        let d := h ++ b
        if crc32c b ≠ rd h 0xF8 4 then (.error 2, t.2)
        else if rd d 8 2 ≠ ctx then (.error 3, t.2)
        else
          match parseImage (flaconPart d 0) { ctx := ctx, width := rd d 0x0A 1, height := rd d 0x0B 1 } with
          | .error _ => (.error 4, t.2)
          | .ok img =>
            if flaconReserved img d then (.error 5, t.2)
            else if !t.2.isDrained ctx (rd d 0x18 8) then (.error 6, t.2)
            else (.ok (d, img), t.2)

end Sys2Proof.Machine
end

