-- ==== Sys2Proof/Machine/Records.lean ====
section
/-!
DEFINITION. Command records (R93 to R102, R249): fetching, the checks of R95 and R96, the starts of the six types, launches
and their initial tokens, completion, and the operations on a chain.
-/

namespace Sys2Proof.Machine

/-! ## Fields and checks (R90, R95, R96) -/

/-- Bytes o to o + n - 1 of a record, as a number. -/
def CmdRec.field (r : CmdRec) (o n : Nat) : Nat := r.bits / 2 ^ (8 * o) % 2 ^ (8 * n)

/-- TYPE of a record. -/
def CmdRec.type (r : CmdRec) : Nat := Machine.bits r.bits 63 56

/-- Whether a chain's kind serves a type (R90). -/
def kindServes (kind type : Nat) : Bool :=
  type = 0x00 || type = 0x01 || ((type = 0x02 || type = 0x03) && (kind = 1 || kind = 3)) || (type = 0x10 && kind = 0) ||
  (type = 0x20 && kind = 2)

/-- Whether bytes 56 to 63 suit PUSH and REL (R95). -/
def CmdRec.tailOk (r : CmdRec) : Bool :=
  let w := r.field 56 8
  if bit r.bits 53 then !bit r.bits 52 && Machine.bits w 63 62 = 0 && Machine.bits w 4 0 = 0 else bit r.bits 52 || w = 0

/-- Whether the body keeps the limits of R96. -/
def CmdRec.bodyOk (r : CmdRec) : Bool :=
  let f := r.field
  let t := r.type
  if t = 0x00 then f 16 40 = 0
  else if t = 0x01 then Machine.bits (f 16 8) 5 0 = 0 && Machine.bits (f 16 8) 63 57 = 0 && f 24 32 = 0
  else if t = 0x02 then decide (f 32 8 ≤ 2 ^ 40) && f 40 16 = 0
  else if t = 0x03 then decide (f 24 8 ≤ 2 ^ 40) && f 40 16 = 0
  else if t = 0x10 then
    f 16 8 % 64 = 0 && (f 32 2 = 0 || f 24 8 % 16 = 0) && decide (1 ≤ f 34 1) && decide (f 34 1 ≤ 80) && decide (1 ≤ f 35 1) &&
    decide (f 35 1 ≤ 40) && f 36 1 ≠ 0 && Machine.bits (f 37 1) 6 3 = 0 && f 38 2 = 0 && (bit (f 37 1) 7 || f 40 8 = 0) && f 48 8 % 8 = 0
  else
    f 16 8 % 64 = 0 && decide (f 24 4 ≤ 2 ^ 24) && (f 24 4 ≠ 0 || f 28 1 = 0) && decide (f 28 1 ≤ 9) && f 30 1 ≠ 0 && f 31 1 = 0 &&
    f 44 12 = 0

/-- Whether a TYPE is assigned (R95). -/
def typeAssigned (t : Nat) : Bool := t ≤ 0x03 || t = 0x10 || t = 0x20

/-- STATUS and class of a record that halts its chain as it is fetched (R99). -/
def CmdRec.refused (r : CmdRec) (kind : Nat) : Option (Nat × FaultClass) :=
  if !typeAssigned r.type then some (0x8001, .cmdFormat)
  else if !kindServes kind r.type then some (0x8002, .cmdEngine)
  else if Machine.bits r.bits 51 48 ≠ 0 || Machine.bits r.bits 40 16 ≠ 0 || !r.tailOk || !r.bodyOk then some (0x8001, .cmdFormat)
  else none

/-! ## Fetching (R93, R99) -/

/-- Whether the engine walks a chain: a valid entry, a descriptor that the hub has read, and no halt (R99). -/
def State.walks (s : State) (ctx c : Nat) : Bool :=
  let q := s.chain ctx c
  q.entry.isSome && !q.invalid && q.halted.isNone && (s.ctx ctx).desc.isSome

/-- The event of a launch that an invalid descriptor refuses (R77, R89). -/
def State.refuseCtx (s : State) (ctx : Nat) : State :=
  match s.descReason ctx with
  | none => s
  | some why => s.event 0x0007 8 (ctx + 1024 * why)

/-- RECORD_FETCH (R93, R99): the engine of chain `chain` of context `ctx` fetches record WALKED + 1, and halts at one that it
cannot read or accept. A record of a block-transfer or collective chain on a
host page is not read, and completes with HOSTPAGE. A launch chain of an invalid context whose record cannot be read leaves the event of R77 alone. -/
def execRecordFetch (s : State) : Result :=
  let a := s.sch.args
  let q := s.chain a.ctx a.chain
  if !s.walks a.ctx a.chain || q.tail.toNat ≤ q.walked.toNat then .next s else
  let n := q.walked.toNat + 1
  let va := q.nextVa
  if 2 ≤ q.kind && s.touchesHost a.ctx va 64 false then
    .next (s.updChain a.ctx a.chain (fun q => { q with
      walked := q.walked + 1, nextVa := va + 64, recs := q.recs ++ [{ ordinal := n, va := va, started := true, work := 0x8008 }] }))
  else
  match s.vaNum a.ctx va 64 with
  | .error e =>
    let s := if a.chain = 0 && !s.descValid a.ctx then s.refuseCtx a.ctx else s
    .next (s.halt a.ctx a.chain n none 0x8003 e.1 (engineBody 0 va e.2))
  | .ok (v, s) =>
    let r : CmdRec := { ordinal := n, va := va, bits := v }
    let bad := r.refused q.kind
    let next := if r.type = 0x01 && bad.isNone then r.field 16 8 else va + 64
    let s := s.updChain a.ctx a.chain (fun q => { q with walked := q.walked + 1, nextVa := next, recs := q.recs ++ [r] })
    match bad with
    | none => .next s
    | some b => .next (s.halt a.ctx a.chain n (some va) b.1 b.2 (statusBody b.1))

/-! ## Starting (R97) -/

/-- Records of a chain that may be in progress at once (R97). -/
def Chain.depth (q : Chain) : Nat := if q.kind = 0 then 64 else 8

/-- Whether a record of a type is the next of a chain to start and may start (R97). -/
def State.readyRec (s : State) (ctx c type : Nat) : Option CmdRec :=
  let q := s.chain ctx c
  match q.nextRec with
  | none => none
  | some r => if r.type = type && s.walks ctx c && decide (q.inflight < q.depth) && s.mayStart ctx c r then some r else none

/-- The next record of the chain that the step names started, if it is of a type (R97). -/
def State.startRec (s : State) (type : Nat) (m : Nat → Nat → CmdRec → State → State) : Result :=
  let a := s.sch.args
  match s.readyRec a.ctx a.chain type with
  | none => .next s
  | some r =>
    .next (m a.ctx a.chain r (s.updRcd a.ctx a.chain r.ordinal (fun r => { r with started := true, stamp := s.hub.cycles.toNat })))

/-- NOP_RECORD: the NOP starts and completes (R97). -/
def execNopRecord (s : State) : Result := s.startRec 0x00 fun ctx c r s => s.completeRec ctx c r.ordinal 1

/-- JUMP_RECORD: the JUMP starts and completes; its target was taken at its fetch (R93, R97). -/
def execJumpRecord (s : State) : Result := s.startRec 0x01 fun ctx c r s => s.completeRec ctx c r.ordinal 1

/-- The endpoint of a chain's engine (R25, R90). -/
def Chain.endpoint (q : Chain) : Nat :=
  let i := (q.entry.map ChainEntry.index).getD 0
  if q.kind = 1 then 8192 + i else 1024 * (i / 80) + i % 80

/-- The endpoint where a page's line is written: its home slice, or the host port (R25, R237). -/
def State.lineEndpoint (s : State) (e : TlbEntry) (a : Nat) : Nat :=
  if e.host then 8192 + 0x41 else 1024 * s.homeDieOf false a + 0x50 + s.homeSliceOf false a

/-- A copy or fill put on a stream from its engine (R40, R97): to where its first byte goes (log 13). -/
def State.startMove (s : State) (ctx c : Nat) (r : CmdRec) (dst : Nat) (feed : Feed) : State :=
  match s.walk ctx dst true with
  | .error e => s.halt ctx c r.ordinal (some r.va) 0x8003 e.1 (engineBody 1 dst e.2)
  | .ok w =>
    let q := s.chain ctx c
    s.wantStream q.endpoint {
      dst := s.epAddr (s.lineEndpoint w.entry (w.entry.target dst)), cls := (q.entry.getD {}).note, ctx := ctx, feed := feed,
      owner := .record ctx c r.ordinal }

/-- COPY_RECORD: LEN bytes from SRC to DST; ranges that overlap write nothing (R96, R99). -/
def execCopyRecord (s : State) : Result :=
  s.startRec 0x02 fun ctx c r s =>
    let src := r.field 16 8
    let dst := r.field 24 8
    let n := r.field 32 8
    if n = 0 then s.recordDone ctx c r.ordinal 1
    else if src < dst + n && dst < src + n then s.recordDone ctx c r.ordinal 0x800A
    else s.startMove ctx c r dst (.copy src dst n)

/-- FILL_RECORD: LEN bytes at DST take PATTERN (R96). -/
def execFillRecord (s : State) : Result :=
  s.startRec 0x03 fun ctx c r s =>
    let dst := r.field 16 8
    let n := r.field 24 8
    if n = 0 then s.recordDone ctx c r.ordinal 1 else s.startMove ctx c r dst (.fill dst n (r.field 32 8) 0)

/-! ## COLL (R61, R96) -/

/-- COLL_RECORD: the MEMBERS bitmap read and the collective begun (R61, R96, R99). -/
def execCollRecord (s : State) : Result :=
  s.startRec 0x20 fun ctx c r s =>
    let mva := r.field 32 8
    if s.touchesHost ctx mva 32 false then s.recordDone ctx c r.ordinal 0x8008 else
    match s.vaNum ctx mva 32 with
    | .error e => s.halt ctx c r.ordinal (some r.va) 0x8003 e.1 (engineBody 0 mva e.2)
    | .ok (v, s) =>
      let me := 16 * s.ownGroup + s.ownModule
      if !bit v me then s.halt ctx c r.ordinal (some r.va) 0x8001 .cmdFormat (statusBody 0x8001)
      else
        let members := (List.range 256).filter (bit v)
        let coll : Coll := {
          ctx := ctx, chain := c, ordinal := r.ordinal, op := r.field 28 1, elems := if r.field 28 1 = 0 then 0 else r.field 24 4,
          group := r.field 29 1, dieMask := r.field 30 1, dst := r.field 16 8, cid := r.field 40 4,
          engine := ((s.chain ctx c).entry.map ChainEntry.index).getD 0, members := members,
          rank := (findIdx (· = me) members).getD 0 }
        ({ s with colls := s.colls ++ [coll] }).moveColl ctx c r.ordinal

/-! ## Initial tokens (R102) -/

/-- The entries of a token list from a VA; none for the first that cannot be read, which ends the list. -/
def State.readTokens (s : State) (ctx va : Nat) : Nat → List (Option Nat) × State
  | 0 => ([], s)
  | n + 1 =>
    match s.vaNum ctx va 16 with
    | .error _ => ([none], s)
    | .ok (v, s) =>
      let q := s.readTokens ctx (va + 16) n
      (some v :: q.1, q.2)

/-- Whether an entry is refused whatever the image holds: a reserved field, or X or Y out of range. -/
def tokenBroken (width height e : Nat) : Bool :=
  bits e 71 64 ≠ 0 || bits e 127 118 ≠ 0 || decide (width ≤ bits e 95 89) || decide (height ≤ bits e 88 83)

/-- Whether an entry is refused (R102). -/
def Image.tokenRefused (img : Image) (e : Nat) : Bool :=
  tokenBroken img.width img.height e || (img.tokenPort (bits e 95 64)).isNone ||
  (img.tokenLen (bits e 95 64) = 4 && bits e 63 32 ≠ 0)

/-- An entry as a launch holds it: value, target word and tag word. -/
def tokenParts (e : Nat) : Nat × Nat × Nat := (bits e 63 0, bits e 95 64, bits e 127 96)

/-! ## LAUNCH (R77, R101, R112) -/

/-- The waiting launches and restores walked in order, each launch that fits placed (R112); a restore that fits ends the walk
(RESTORE_PLACEMENT). `aged` are the aged ones passed over. -/
def State.placeFrom (s : State) : List Waiting → List Waiting → State
  | [], _ => s
  | w :: t, aged =>
    match s.findPlace w.ask (openDies w aged) with
    | none =>
      let lim := s.hub.ageLim.toNat
      s.placeFrom t (if 0 < lim && lim ≤ w.intervals then aged ++ [w] else aged)
    | some q => if w.flacon.isSome then s else (s.placeLaunch w q.1 q.2.1 q.2.2).placeFrom t aged

/-- The walk of the module scheduler (R112). -/
def State.placeWaiting (s : State) : State := s.placeFrom (sortBy waitsBefore s.hub.waiting) []

/-- A launch refused: CMD_TOKEN of an entry (R101 step 1). -/
def State.tokenFault (s : State) (ctx : Nat) (r : CmdRec) (i : Nat) : State :=
  (s.chainFault ctx 0 .cmdToken i r.ordinal).completeRec ctx 0 r.ordinal 0x8005

/-- LAUNCH_RECORD: the context's descriptor read, the record, token list and image checked, and the launch put before the module
scheduler (R77, R101, R112). -/
def execLaunchRecord (s : State) : Result :=
  s.startRec 0x10 fun ctx c r s =>
    let s := s.rereadDesc ctx
    if !s.descValid ctx then (s.refuseCtx ctx).completeRec ctx c r.ordinal 0x8005
    else
      let width := r.field 34 1
      let height := r.field 35 1
      let cfg := r.field 16 8
      let toks := s.readTokens ctx (r.field 24 8) (r.field 32 2)
      let img := toks.2.loadImage cfg { ctx := ctx, width := width, height := height }
      let s := img.2
      let first := fun (p : Nat → Bool) => findIdx (fun (e : Option Nat) => match e with
        | none => true
        | some v => p v) toks.1
      match img.1 with
      | .error b =>
        match first (tokenBroken width height) with
        | some i => s.tokenFault ctx r i
        | none => (s.loadFault ctx cfg (loadWhere 0 0 0 b) 0 s.hub.cycles b).completeRec ctx c r.ordinal 0x8005
      | .ok (bs, im) =>
        match first im.tokenRefused with
        | some i => s.tokenFault ctx r i
        | none =>
          let w : Waiting := {
            ctx := ctx, ordinal := r.ordinal, note := ((s.chain ctx c).entry.getD {}).note, stamp := s.hub.cycles.toNat,
            dieMask := r.field 36 1, image := im, imageBytes := bs,
            tokens := toks.1.filterMap (fun e => e.map tokenParts), disp := bit (r.field 37 1) 7, ql := bits (r.field 37 1) 2 0,
            frame := BitVec.ofNat 64 (r.field 40 8), cfgVa := cfg, hndl := r.field 48 8 }
          ({ s with hub := { s.hub with waiting := s.hub.waiting ++ [w] } }).placeWaiting

/-- The note of the block in a window of a cell of a region (R116). -/
def State.blockNote (s : State) (r : Region) (x y win : Nat) : Note :=
  match (s.cell (cellKey r.die x y)).findWin r.id win with
  | some q => q.2.note
  | none => r.note

/-- TOKEN_INJECT (R101 step 7, R102): the next list token of region `region` enters its target, once an entry or a credit is
free. -/
def execTokenInject (s : State) : Result :=
  match s.region? s.sch.args.region with
  | none => .next s
  | some r =>
    match r.inject with
    | [] => .next s
    | e :: t =>
      if r.st ≠ .running || r.stop ≠ .none then .next s else
      let w := e.2.1
      let rx := bits w 31 25
      let ry := bits w 24 19
      let win := bits w 18 16
      let v := Val.of (r.image.tokenLen w) e.1
      let tag := mkTag r.ctx (bits e.2.2 21 14) (bits e.2.2 13 12) (bits e.2.2 11 0)
      let s' := s.updRegion r.id (fun r => { r with inject := t })
      match portOf (bits w 15 14) with
      | some p =>
        let goal := r.steer (r.x0 + rx) (r.y0 + ry) win tag v
        let k := cellKey r.die goal.1 goal.2
        match s'.takeEntry k r.id with
        | none => .next s
        | some (pool, s) =>
          let note := s.blockNote r goal.1 goal.2 win
          let (id, s) := s.newId
          .next { s with toks := s.toks ++ [{
            id := id, region := r.id, sx := goal.1, sy := goal.2, x := goal.1, y := goal.2, dest := .slot win (bits w 13 8) p, tag := tag, val := v,
            kind := .injected, note := note, pool := pool }] }
      | none =>
        match r.image.arcs.find? (fun a => a.cx = rx && a.cy = ry && a.cwin = win && a.carc = bits w 13 8) with
        | none => .next s'
        | some a =>
          let k := cellKey r.die (r.x0 + a.px) (r.y0 + a.py)
          match (s.cell k).findWin r.id a.pwin with
          | none => .next s'
          | some (pw, q) =>
            if s.arcReady r.id (look {} q.outs a.parc) [v.len] then
              .next (s'.emitArc r.die (r.x0 + a.px) (r.y0 + a.py) r.id pw a.parc tag v .injected
                (s.blockNote r (r.x0 + rx) (r.y0 + ry) win) false)
            else .next s

/-! ## Completion (R97) -/

/-- A region that has completed given back, with the STATUS of its LAUNCH record (R97, R113). -/
def State.endLaunch (s : State) (r : Region) (status : Nat) : State :=
  ((s.removeRegion r.id).completeRec r.ctx r.chain r.ordinal status).placeWaiting

/-- A complete region whose record has ended before it given back (R99, R113). -/
def State.freeComplete (s : State) (ctx c ordinal : Nat) : State :=
  match s.regions.find? (fun q => q.ctx = ctx && q.chain = c && q.ordinal = ordinal && q.complete) with
  | none => s
  | some g => if s.acks.isEmpty then (s.removeRegion g.id).placeWaiting else s

/-- RECORD_COMPLETE (R97, R113): record `ordinal` of chain `chain` of context `ctx` completes: its work is done, its collective has
ended, or its region is complete with every store visible. -/
def execRecordComplete (s : State) : Result :=
  let a := s.sch.args
  match (s.chain a.ctx a.chain).rcd? a.ordinal with
  | none => .next (s.freeComplete a.ctx a.chain a.ordinal)
  | some r =>
    if !r.running then .next (s.freeComplete a.ctx a.chain a.ordinal)
    else if r.work ≠ 0 then .next (s.completeRec a.ctx a.chain a.ordinal r.work)
    else
      match s.coll? a.ctx a.chain a.ordinal with
      | some c =>
        match c.status with
        | none => .next s
        | some st =>
          let s := { s with colls := s.colls.filter (fun q => !(q.ctx = a.ctx && q.chain = a.chain && q.ordinal = a.ordinal)) }
          .next (if st = 0x8003 then s else s.completeRec a.ctx a.chain a.ordinal st)
      | none =>
        match s.regions.find? (fun q => q.ctx = a.ctx && q.chain = a.chain && q.ordinal = a.ordinal && q.complete) with
        | none => .next s
        | some g => .next (if s.acks.isEmpty then s.endLaunch g 1 else s)

/-! ## Operations on a chain (R100) -/

/-- HUB_CHAIN_CTL's CTX, CHAIN and REFUSED. -/
def State.chainOp (s : State) (ctx c : Nat) (refused : Bool) : State :=
  { s with hub := { s.hub with chainCtl := { refused := refused, ctx := BitVec.ofNat 10 ctx, chain := BitVec.ofNat 6 c } } }

/-- The halt of a chain that is left once record `n` is no longer halted: at the next record whose STATUS halts. -/
def Chain.restHalt (q : Chain) (n : Nat) : Option Nat :=
  (q.recs.find? (fun r => r.ordinal ≠ n && decide (0x8000 ≤ r.status) && !r.complete)).map CmdRec.ordinal

/-- RETRY of a chain's halted record (R100): from its beginning. A record that R99 refuses halts again. -/
def State.retryChain (s : State) (ctx c : Nat) : State :=
  let q := s.chain ctx c
  match q.halted with
  | none => s.chainOp ctx c true
  | some n =>
    let s := s.chainOp ctx c false
    let s := { s with colls := s.colls.filter (fun k => !(k.ctx = ctx && k.chain = c && k.ordinal = n)) }
    let s := s.updChain ctx c (fun q => { q with halted := q.restHalt n })
    match q.rcd? n with
    | none => s
    | some r =>
      match r.refused q.kind with
      | some b => s.halt ctx c n (some r.va) b.1 b.2 (statusBody b.1)
      | none => s.updRcd ctx c n (fun r => { r with status := 0, started := false, complete := false, work := 0, pushed := false })

/-- SKIP of a chain's halted record (R100): it completes with its error STATUS. A record never fetched is passed over. -/
def State.skipChain (s : State) (ctx c : Nat) : State :=
  let q := s.chain ctx c
  match q.halted with
  | none => s.chainOp ctx c true
  | some n =>
    let s := s.chainOp ctx c false
    let s := { s with colls := s.colls.filter (fun k => !(k.ctx = ctx && k.chain = c && k.ordinal = n)) }
    let s := s.updChain ctx c (fun q => { q with halted := q.restHalt n })
    match q.rcd? n with
    | none =>
      (s.updChain ctx c (fun q => { q with
        walked := q.walked + 1, nextVa := q.nextVa + 64
        recs := q.recs ++ [{ ordinal := n, va := q.nextVa, started := true, complete := true, status := 0x8003 }] })).settleChains ctx
    | some r => (s.updRcd ctx c n (fun r => { r with started := true, pushed := r.pushed || r.complete, complete := true })).settleChains ctx

/-- RESET of a chain (R100): only with no record in progress, and no PUSH of one waiting. -/
def State.resetChain (s : State) (ctx c : Nat) : State :=
  let q := s.chain ctx c
  if 0 < q.inflight || q.recs.any (fun r => s.pushWaits ctx c r.ordinal) then s.chainOp ctx c true
  else
    let s := s.chainOp ctx c false
    let s := { s with colls := s.colls.filter (fun k => !(k.ctx = ctx && k.chain = c)) }
    let s := s.updChain ctx c (fun q => { q with walked := q.tail, tl := q.tail, recs := [], halted := none })
    let s := match (s.ctx ctx).desc with
      | none => s
      | some d => (s.vaWrite ctx (d.tlbase + 8 * c) (toBytes 8 q.tail.toNat)).1
    (s.readEntry ctx c).settleChains ctx

/-- CHAIN_RETRY (R100) on chain `chain` of context `ctx`. -/
def execChainRetry (s : State) : Result :=
  let a := s.sch.args
  .next (s.retryChain (a.ctx % 1024) (a.chain % 64))

/-- CHAIN_SKIP (R100) on chain `chain` of context `ctx`. -/
def execChainSkip (s : State) : Result :=
  let a := s.sch.args
  .next (s.skipChain (a.ctx % 1024) (a.chain % 64))

/-- CHAIN_RESET (R100) on chain `chain` of context `ctx`. -/
def execChainReset (s : State) : Result :=
  let a := s.sch.args
  .next (s.resetChain (a.ctx % 1024) (a.chain % 64))

end Sys2Proof.Machine
end

