-- ==== Sys2Proof/Machine/Regions.lean ====
section
/-!
DEFINITION. Regions under the die scheduler: what a region holds (R114, R168), a LOAD and the region registers (R114, R115, R168),
the placement controller (R119 to R125), and the shares of the firing arbiter (R129).
-/

namespace Sys2Proof.Machine

/-! ## What a region holds (R114, R168, R169) -/

/-- The firings of a region whose work is under way somewhere: at a port core, the hub, the die scheduler, a tree, or in an engine
of its cell. -/
def State.firingsOf (s : State) (id : Nat) : List Firing :=
  let r := s.region id
  let d := s.die r.die
  let mine := fun (f : Firing) => f.region = id
  (s.accesses.map (fun a => a.firing) ++ s.responses.map (fun p => p.firing) ++ s.hub.qreqs.map (fun o => o.firing) ++
    s.hub.ctxs.flatMap (fun c => c.2.queues.flatMap (fun q => (q.2.pushes ++ q.2.pops).map (fun o => o.firing))) ++
    d.gates.map (fun g => g.firing) ++ d.tree.flatMap (fun o => (o.contribs.filter (fun c => !c.targets.isEmpty)).map (fun c => c.firing)) ++
    r.asks.map (fun a => a.firing) ++
    (s.regionCells id).flatMap (fun k =>
      let c := s.cell k
      c.fences.map (fun f => f.firing) ++ c.engine.toList.map (fun e => e.firing) ++ c.seqs.map (fun q => q.firing))).filter mine

/-- Tokens waiting on an input arc of a cell: in its slots or ring, and spilled. -/
def Cell.waitingOn (c : Cell) (i : InArc) : Nat :=
  (match i.fifo with
    | some b => (c.fifoTokens b).length
    | none => i.occupied) + i.spill.length

/-- Whether a cell holds a token of a region. -/
def Cell.holdsOf (c : Cell) (id : Nat) : Bool :=
  (c.matching ++ c.waiting).any (fun a => (c.window a.win).region = id) || c.queue.any (fun t => t.region = id) ||
  c.windows.any (fun w => w.2.region = id && w.2.ins.any (fun i => decide (0 < c.waitingOn i.2)))

/-- Whether the AGNs of a region hold start or PARAM tokens. -/
def State.agnsHold (s : State) (r : Region) : Bool :=
  r.image.bindings.any (fun b =>
    let g := s.agn r b
    g.region = r.id && g.port = b.p && !(g.starts.isEmpty && g.params.isEmpty))

/-- Whether a frame's work at its port core rests on the frame's trap (R160, R164). -/
def State.restsOnTrap (s : State) (a : Access) : Bool :=
  (s.region a.firing.region).trapSet.contains a.firing.frm && (match a.phase with
    | .stopped | .held | .retry _ => true
    | _ => false)

/-- Whether a region holds a token, a wait or a request outside its park area (R114, R168, R169). -/
def State.holdsLoose (s : State) (r : Region) : Bool :=
  let rest := (s.accesses.filter (fun a => a.firing.region = r.id && s.restsOnTrap a)).map (fun a => a.firing)
  decide (rest.length < (s.firingsOf r.id).length) || s.toks.any (fun t => t.region = r.id) ||
  s.xfers.any (fun x => x.region = r.id && !x.faulted) || s.spaces.any (fun p => p.region = r.id) || !r.inject.isEmpty ||
  !r.inflight.isEmpty || r.actors.any (fun a => !a.held.isEmpty) || s.agnsHold r || !(s.recvsAt r (s.holdsFor r)).isEmpty ||
  (s.regionCells r.id).any (fun k => (s.cell k).holdsOf r.id)

/-- Whether a region's park area holds its tokens, or a trapped frame rests (R160). -/
def Region.holdsParked (r : Region) : Bool := !r.park.isEmpty || !r.parkKept.isEmpty || !r.trapSet.isEmpty

/-- Whether a region holds tokens (R114). -/
def State.holdsTokens (s : State) (r : Region) : Bool := s.holdsLoose r || r.holdsParked

/-! ## LOAD (R114, R115) -/

/-- CODE of SCH_REG_CTL, its BUSY 0. -/
def State.loadResult (s : State) (die code : Nat) : State :=
  s.updDie die (fun d => { d with reg := { d.reg with busy := false, code := BitVec.ofNat 2 code } })

/-- What the die cannot give a parsed image in place of the region's own (R114, R117, R118, R213, R362; log 24). An image that places
blocks on a cell of a defect entry is refused with CFG_PLACE (R17; the class is DESIGN CHOICE, log 52). -/
def State.loadRefused (s : State) (r : Region) (img : Image) : Option BadImage :=
  let shape := fun (b : Binding) => ({ cls := .cfgShape, sec := 3, chk := 0x90, off := b.offset } : BadImage)
  let core := fun (b : Binding) => 80 * r.die + b.core
  let other := fun (b : Binding) => sumOf ((s.regions.filter (fun q => q.die = r.die && q.id ≠ r.id)).map (fun q =>
    sumOf ((q.image.bindings.filter (fun p => p.core = b.core)).map (fun p => p.stg))))
  let own := fun (b : Binding) => sumOf ((img.bindings.filter (fun p => p.core = b.core)).map (fun p => p.stg))
  match img.bindings.find? (fun b => (s.portCore (core b)).off || s.agnHeld r.die b.core b.agn r.id || decide (16 < other b + own b) ||
      decide (2048 < ((s.portCore (core b)).waves.filter (fun w => w.region ≠ r.id)).length + img.wavesOn b.core img.frames.length)) with
  | some b => some (shape b)
  | none =>
    if r.cells.any (fun q => img.blocksAt (q.1 - r.x0) (q.2 - r.y0) && s.defect 1 r.die q.1 q.2) then some { cls := .cfgPlace, sec := 1 } else
    let s' := s.leaveGroups r
    if s'.groupTaken r.die r.ctx img || r.cells.any (fun q =>
        decide (4 < (distinct ((s'.die r.die).groupsOf q.1 q.2 ++ img.groupsAt (q.1 - r.x0) (q.2 - r.y0))).length)) then
      some { cls := .cfgGroup, sec := 5 }
    else
      (r.cells.find? (fun q => img.arrayAt (q.1 - r.x0) (q.2 - r.y0) && (match (s.cell (cellKey r.die q.1 q.2)).accOwner with
        | some o => o ≠ r.id
        | none => false))).map (fun q => (bad 1 0x04 0).at_ (q.1 - r.x0) (q.2 - r.y0) 0 0)

/-- A LOAD begun (R114): the region LOADING under its new image, its cells still as they were. -/
def State.beginLoad (s : State) (r : Region) (va : Nat) (bs : List Byte) (img : Image) : State :=
  let s := s.leaveGroups r
  let s := r.frames.foldl (fun s f => s.closeWaves r f.frm) s
  let s := { s with ports := s.ports.map (fun (p : Nat × PortCore) =>
    (p.1, if p.1 / 80 = r.die then { p.2 with agns := p.2.agns.filter (fun (a : Nat × Agn) => a.2.region ≠ r.id) } else p.2)) }
  let s := s.updRegion r.id (fun r => { r with
    st := .loading, image := img, imageBytes := bs, imageVa := va, priv := true, margin := img.margin, count := 0, lowered := none,
    hang := if img.hang = 0 then 2 ^ 20 else img.hang.toNat, asks := [], lastUe := none, lastSpill := none, silentFor := 0 })
  let s := ((s.bindAgns (s.region r.id)).joinGroups (s.region r.id)).openRegion r.id
  s.updDie r.die (fun d => { d with loading := some r.id })

/-- REGION_LOAD (R114, R115, R297): the LOAD that SCH_REG_CTL of die `die` asks. -/
def execRegionLoad (s : State) : Result :=
  let die := s.sch.args.die
  let reg := (s.die die).reg
  let va := reg.img.toNat / 64 * 64
  match s.regionAt die reg.x0.toNat reg.y0.toNat with
  | none => .next (s.loadResult die 2)
  | some r =>
    let refuse := fun (s : State) (b : BadImage) (code : Nat) =>
      (s.loadFault r.ctx va (loadWhere die r.x0 r.y0 b) r.handle (s.die die).netCycles b).loadResult die code
    if r.st ≠ .running || r.stop ≠ .none || r.ended || s.holdsTokens r then .next (refuse s { cls := .cfgBusy } 1)
    else
      let q := s.loadImage va { ctx := r.ctx, width := r.w, height := r.h, claims := some (r.image.wpc, r.image.banks) }
      match q.1 with
      | .error b => .next (refuse q.2 b 3)
      | .ok (bs, img) =>
        match q.2.loadRefused r img with
        | some b => .next (refuse q.2 b 3)
        | none => .next (q.2.beginLoad r va bs img)

/-- A cell of a region under its new image (R114, R201): modes, windows, tiles and constants; the frame slots are free. -/
def Cell.reload (c : Cell) (r : Region) (rx ry : Nat) : Cell :=
  let q := r.image.cellAt rx ry
  let c := { c with
    frames := c.frames.map (fun (f : FrameSlot) => if f.region = r.id then {} else f)
    holdWaits := c.holdWaits.filter (fun w => match w with
      | .write g _ _ _ => g ≠ r.id
      | .flags g _ _ => g ≠ r.id) }
  let c := (List.range 4).foldl (fun c k =>
    if (c.bank k).region = r.id && (c.bank k).claimed then c.setMode k (q.modes.getD k .scratchpad) (q.intlv k) else c) c
  let c := { c with windows := c.windows.map (fun (w : Nat × Window) =>
    (w.1, if w.2.region = r.id then { region := r.id, rwin := w.2.rwin } else w.2)) }
  let fmt := c.fmt
  let c := ((c.putWindows r rx ry).configure r rx ry false).writeConsts q.consts
  if fmt.set then { c with fmt := fmt } else c

/-- LOAD_COMPLETE (R114, R115): the load of die `die` ends: the cells hold the new image, the region runs, and its PRIME tokens
are sent. -/
def execLoadComplete (s : State) : Result :=
  let die := s.sch.args.die
  match (s.die die).loading.bind s.region? with
  | none => .next s
  | some r =>
    let s := s.eachCell r (fun rx ry c => c.reload r rx ry)
    let s := (s.updRegion r.id (fun r => { r with st := .running })).sendPrimes r.id
    .next ((s.updDie die (fun d => { d with loading := none })).loadResult die 0)

/-! ## The region registers (R115, R168) -/

/-- The code of a region's state in SCH_REG_STAT. -/
def RegionState.code : RegionState → Nat
  | .loading => 1
  | .running => 2
  | .draining => 3
  | .frozen => 4

/-- SCH_REG_STAT of a region (R115). -/
def Region.statWord (r : Region) : Nat :=
  r.st.code * 2 ^ 61 + r.ctx * 2 ^ 51 + r.ql * 2 ^ 48 + bitOf r.disp * 2 ^ 47 + r.tags * 2 ^ 33 + r.pool.length * 2 ^ 21

/-- REGION_SELECT (R115): the region that SCH_REG_CTL of die `die` names is latched into SCH_REG_STAT; CODE 10 where there is
none. -/
def execRegionSelect (s : State) : Result :=
  let die := s.sch.args.die
  let reg := (s.die die).reg
  let q := s.regionAt die reg.x0.toNat reg.y0.toNat
  let v := match q with
    | some r => r.statWord
    | none => 0
  .next (s.updDie die (fun d => { d with reg := { d.reg with stat := BitVec.ofNat 64 v, code := if q.isSome then 0 else 2 } }))

/-- HANG_SET (R168): HANG of SCH_HANG of die `die` becomes that of the region at (X0, Y0). -/
def execHangSet (s : State) : Result :=
  let die := s.sch.args.die
  let h := (s.die die).hangReg
  match s.regionAt die h.x0.toNat h.y0.toNat with
  | none => .next s
  | some r => .next (s.updRegion r.id (fun r => { r with hang := clampHang h.hang.toNat }))

/-! ## The placement controller (R119 to R124) -/

/-- D of an actor (R120): the tokens waiting on the input arcs of its replicas, per replica, rounded up. -/
def State.depthOf (s : State) (r : Region) (a : Actor) : Nat :=
  let n := sumOf (a.cells.map (fun q =>
    let c := s.cell (cellKey r.die q.1 q.2)
    sumOf ((c.windows.filter (fun w => w.2.region = r.id && bit a.cfg.wins w.2.rwin)).map (fun w =>
      sumOf (w.2.ins.map (fun i => c.waitingOn i.2))))))
  ceilDiv n (max 1 a.cells.length)

/-- The note of an actor: that of its first window. -/
def State.actorNote (s : State) (r : Region) (a : Actor) : Note :=
  let q := a.replicas.headD (r.x0, r.y0)
  match (List.range 8).find? (fun w => bit a.cfg.wins w) with
  | none => .base
  | some w => (((s.cell (cellKey r.die q.1 q.2)).findWin r.id w).map (fun p => p.2.note)).getD .base

/-- Whether an actor may change now (R120, R122): it has made no change within the last HOLD intervals. -/
def Actor.free (a : Actor) : Bool := decide (a.cfg.hold < a.since)

/-- The owner of each bucket once the moves under way have ended. -/
def Actor.planned (a : Actor) : List Nat := a.moves.foldl (fun l m => l.set m.bucket m.dst) a.buckets

/-- The index that the next clone takes (R119): the lowest that no replica holds any more, else a new one. -/
def Actor.nextIndex (a : Actor) : Nat := (sortBy (fun a b => decide (a ≤ b)) a.freed).headD a.replicas.length

/-- The distance of two cells (R121). -/
def gap (a b : Nat × Nat) : Nat := (a.1 - b.1) + (b.1 - a.1) + (a.2 - b.2) + (b.2 - a.2)

/-- The pool cell for a clone (R121, R362): nearest to replica 0, ties to the lower y, then x; one whose array is free where the
actor needs an array. -/
def State.cloneCell (s : State) (r : Region) (a : Actor) : Option (Nat × Nat) :=
  let q := a.replicas.headD (r.x0, r.y0)
  let array := r.image.cells.any (fun c => c.x = q.1 - r.x0 && c.y = q.2 - r.y0 && c.blocks.any (fun b => bit a.cfg.wins b.rwin && b.holds claimsArray))
  let ok := r.pool.filter (fun p => !array || (s.cell (cellKey r.die p.1 p.2)).accOwner.isNone)
  (sortBy (fun a b => decide (gap a q < gap b q) || (gap a q = gap b q && (decide (a.2 < b.2) || (a.2 = b.2 && decide (a.1 ≤ b.1))))) ok).head?

/-- A window as a clone takes it from replica 0 (R121): its configuration, with no token and full credit (log 27). -/
def Window.cloned (w : Window) (replica : Nat) : Window :=
  { w with
    replica := replica, pass := [], occSum := 0, occSince := 0
    outs := w.outs.map (fun (o : Nat × OutArc) => (o.1, { o.2 with cred := o.2.depth, spilling := [] }))
    ins := w.ins.map (fun (i : Nat × InArc) => (i.1, { i.2 with occupied := 0, spill := [], spilled := 0, pending := 0, ring := [], extended := false })) }

/-- Whether a window's words match the CRC of its block's header (R275, R297). -/
def Window.crcOk (w : Window) : Bool :=
  w.words.isEmpty || crc16 (w.words.flatMap (fun x => toBytes 4 x.toNat)) = w.header.toNat % 2 ^ 16

/-- A pool cell configured as a clone of a replica 0 (R121). -/
def Cell.clone (c z : Cell) (r : Region) (a : Actor) (rx ry replica : Nat) : Cell :=
  let q := r.image.cellAt rx ry
  let owned := (List.range 4).filter (fun k => (c.bank k).region = r.id && (c.bank k).claimed)
  let c := owned.foldl (fun c k => { c.clearBank k with banks := put {} k { c.bank k with
    mode := q.modes.getD k .scratchpad, intlv := q.intlv k, fifoHead := 0, fifoCount := 0 } c.banks }) c
  let c := (List.range 8).foldl (fun c w =>
    if !bit a.cfg.wins w then c else
    match c.findWin r.id w, z.findWin r.id w with
    | some (p, _), some (_, win) => { c with windows := put {} p (win.cloned replica) c.windows }
    | _, _ => c) c
  let c := { c with tiles := q.tiles.foldl (fun (m : Assoc Tile) (t : Nat × Tile) => put {} t.1 t.2 m) c.tiles }
  let c := if r.image.arrayAt rx ry && c.accOwner.isNone then { c with accOwner := some r.id, acc := [] } else c
  c.writeConsts q.consts

/-- The buckets that growth to a new replica moves (R123): each replica gives up its highest-numbered ones. -/
def Actor.growMoves (a : Actor) : List Move :=
  let own := a.staying
  own.flatMap (fun i =>
    let mine := (List.range a.planned.length).filter (fun b => a.planned.getD b 0 = i)
    (mine.drop (mine.length - mine.length / (own.length + 1))).map (fun b => { bucket := b, src := i, dst := a.nextIndex, step := 1 }))

/-- The moves of a shrink (R122): each bucket of the leaving replica, in ascending order, to the replica with the fewest. -/
def Actor.shrinkMoves (a : Actor) (gone : Nat) : List Move :=
  let stay := a.staying.filter (· ≠ gone)
  let mine := (List.range a.planned.length).filter (fun b => a.planned.getD b 0 = gone)
  (mine.foldl (fun (q : List Nat × List Move) b =>
    let count := fun (i : Nat) => (q.1.filter (· = i)).length
    let goal := stay.foldl (fun m i => if count i < count m then i else m) (stay.headD 0)
    (q.1.set b goal, q.2 ++ [{ bucket := b, src := gone, dst := goal, step := 1 }])) (a.planned, [])).2

/-- An accord's bucket: that of its tag and its first operand. -/
def ActorRec.bucketOf (a : ActorRec) (q : Accord) : Nat := a.bucket q.tag ((q.l <|> q.r <|> q.p).getD {})

/-- The stamp of the arrival of an accord's operand. -/
def Accord.cameAt (q : Accord) (p : Port) : Nat := ((q.came.find? (fun c => c.2 = p)).map Prod.fst).getD 0

/-- A move's steering and forwarding begun (R124 steps 1 and 2): the map names the new replica, and the operands without a complete
accord queue in the old one, in the order of their arrival and ahead of its queue, to be forwarded. -/
def State.beginMove (s : State) (id actor : Nat) (m : Move) : State :=
  let s := s.updRegion id (fun r => r.updActor actor (fun a => { a with
    buckets := a.buckets.set m.bucket m.dst
    moves := changeFirst (fun q => q.bucket = m.bucket && q.step = 1) (fun q => { q with step := 2 }) a.moves }))
  let r := s.region id
  match r.actors.find? (fun a => a.cfg.actor = actor) with
  | none => s
  | some a =>
    match a.replicas[m.src]? with
    | none => s
    | some p =>
      let k := cellKey r.die p.1 p.2
      let c := s.cell k
      let mine := fun (q : Accord) =>
        let w := c.window q.win
        w.region = id && bit a.cfg.wins w.rwin && a.cfg.bucketOf q = m.bucket
      let ops := sortBy (fun (a b : Accord × Port × Val) => decide (a.1.cameAt a.2.1 ≤ b.1.cameAt b.2.1))
        ((c.matching.filter mine).flatMap (fun q => q.operands.map (fun o => (q, o))))
      let s := { s with sch := { s.sch with nextId := s.sch.nextId + ops.length } }
      let toks := (ops.zip (List.range ops.length)).map (fun e =>
        let w := c.window e.1.1.win
        ({ id := s.sch.nextId - ops.length + e.2, region := id, sx := p.1, sy := p.2, x := p.1, y := p.2,
           dest := .slot w.rwin e.1.1.slot e.1.2.1, tag := e.1.1.tag, val := e.1.2.2, kind := .forwarded, note := w.note } : Tok))
      s.updCell k (fun c => { c with matching := c.matching.filter (fun q => !mine q), queue := toks ++ c.queue })

/-- The moves of an actor that can begin: each whose bucket no earlier move is still moving. -/
def Actor.begins (a : Actor) : List Move :=
  (a.moves.zip (List.range a.moves.length)).filterMap (fun q =>
    if q.1.step = 1 && !(a.moves.take q.2).any (fun m => m.bucket = q.1.bucket) then some q.1 else none)

/-- Those moves begun. -/
def State.beginMoves (s : State) (id actor : Nat) : State :=
  match (s.region id).actors.find? (fun a => a.cfg.actor = actor) with
  | none => s
  | some a => a.begins.foldl (fun s m => s.beginMove id actor m) s

/-- Growth of an actor by one replica (R121, R123); a clone whose windows fail their CRC does not come about (log 27). -/
def State.growActor (s : State) (id actor : Nat) : State :=
  let r := s.region id
  match r.actors.find? (fun a => a.cfg.actor = actor) with
  | none => s
  | some a =>
    match s.cloneCell r a with
    | none => s
    | some p =>
      let q := a.replicas.headD (r.x0, r.y0)
      let z := s.cell (cellKey r.die q.1 q.2)
      if z.windows.any (fun w => w.2.region = id && bit a.cfg.wins w.2.rwin && !w.2.crcOk) then s else
      let n := a.nextIndex
      let s := s.updCell (cellKey r.die p.1 p.2) (fun c => c.clone z r a (q.1 - r.x0) (q.2 - r.y0) n)
      let ms := a.growMoves
      let s := s.updRegion id (fun r => { r.updActor actor (fun a => { a with
          replicas := if n < a.replicas.length then a.replicas.set n p else a.replicas ++ [p]
          freed := a.freed.filter (· ≠ n), moves := a.moves ++ ms, since := 0 }) with
        pool := r.pool.filter (· ≠ p) })
      s.beginMoves id actor

/-- An actor's last replica begins to leave (R122). -/
def State.shrinkActor (s : State) (id actor : Nat) : State :=
  match (s.region id).actors.find? (fun a => a.cfg.actor = actor) with
  | none => s
  | some a =>
    match a.staying.getLast? with
    | none => s
    | some gone =>
      (s.updRegion id (fun r => r.updActor actor (fun a => { a with
        leaving := a.leaving ++ [gone], moves := a.moves ++ a.shrinkMoves gone, since := 0, low := 0 }))).beginMoves id actor

/-- The sample of a region's elastic actors, with its growth and shrinking (R120, R122). -/
def State.sampleRegion (s : State) (id : Nat) : State :=
  let r := s.region id
  let still := r.st ≠ .running || r.stop ≠ .none
  let ds := (r.actors.filter (fun a => a.cfg.elastic)).map (fun a => (a, s.depthOf r a))
  let s := ds.foldl (fun s q => s.updRegion id (fun r => r.updActor q.1.cfg.actor (fun a => { a with
    high := decide (q.1.cfg.hi < q.2), low := if q.2 < q.1.cfg.lo then min 16 (q.1.low + 1) else 0, since := min 16 (q.1.since + 1) }))) s
  if still then s else
  let aged := fun (a : Actor) => ({ a with since := min 16 (a.since + 1) } : Actor)
  let grow := ds.filter (fun q => decide (q.1.cfg.hi < q.2) && q.1.high && (aged q.1).free && decide (q.1.staying.length < q.1.cfg.maxr))
  let rank := fun (q : Actor × Nat) => (s.actorNote r q.1).code
  let order := sortBy (fun a b => decide (rank a < rank b) || (rank a = rank b &&
    (decide (b.2 - b.1.cfg.hi < a.2 - a.1.cfg.hi) || (b.2 - b.1.cfg.hi = a.2 - a.1.cfg.hi && decide (a.1.cfg.actor ≤ b.1.cfg.actor))))) grow
  let s := order.foldl (fun s q => s.growActor id q.1.cfg.actor) s
  let shrink := ds.filter (fun q => decide (q.2 < q.1.cfg.lo) && decide (q.1.cfg.dn ≤ q.1.low + 1) && (aged q.1).free &&
    decide (q.1.cfg.minr < q.1.staying.length))
  shrink.foldl (fun s q => s.shrinkActor id q.1.cfg.actor) s

/-- PLACEMENT_SAMPLE (R120, R122): every 4,096 network cycles of die `die`, its controller samples each elastic actor. -/
def execPlacementSample (s : State) : Result :=
  let die := s.sch.args.die
  .next ((s.regions.filter (fun r => r.die = die)).foldl (fun s r => s.sampleRegion r.id) s)

/-- The actor that a step names. -/
def State.actorArg (s : State) : Option (Region × Actor) :=
  (s.region? s.sch.args.region).bind (fun r => (r.actors.find? (fun a => a.cfg.actor = s.sch.args.actor)).map (fun a => (r, a)))

/-- Whether a cell holds tokens or firings of an actor's windows that `p` holds of, by tag and value; tokens on their way to the
cell among them (R122, R124 step 3). -/
def State.actorHolds (s : State) (r : Region) (a : Actor) (at_ : Nat × Nat) (p : Tag → Val → Bool) : Bool :=
  let k := cellKey r.die at_.1 at_.2
  let c := s.cell k
  let win := fun (w : Nat) => bit a.cfg.wins w
  let accord := fun (q : Accord) => let w := c.window q.win; w.region = r.id && win w.rwin && p q.tag ((q.l <|> q.r <|> q.p).getD {})
  (c.matching ++ c.waiting).any accord || c.queue.any (fun t => t.region = r.id && win t.dest.win && p t.tag t.val) ||
  s.toks.any (fun t => t.region = r.id && t.x = at_.1 && t.y = at_.2 && win t.dest.win && p t.tag t.val) ||
  (s.firingsOf r.id).any (fun f => f.x = at_.1 && f.y = at_.2 && win f.rwin && p f.acc.tag ((f.acc.l <|> f.acc.r <|> f.acc.p).getD {})) ||
  c.windows.any (fun w => w.2.region = r.id && win w.2.rwin && w.2.ins.any (fun i =>
    i.2.spill.any (fun t => p t.tag t.val) || (match i.2.fifo with
      | some b => (c.fifoTokens b).any (fun t => p t.1 t.2)
      | none => false)))

/-- The moves whose state may be copied next (R122, R124): of a leaving replica's, the first. -/
def Actor.copyable (a : Actor) : List Move :=
  (a.moves.zip (List.range a.moves.length)).filterMap (fun q =>
    if (q.1.step = 2 || q.1.step = 3) && !(a.leaving.contains q.1.src && (a.moves.take q.2).any (fun m => m.src = q.1.src)) then some q.1
    else none)

/-- Whether a move's old owner holds nothing of its bucket (R124 step 3). -/
def State.moveReady (s : State) (r : Region) (a : Actor) (m : Move) : Bool :=
  match a.replicas[m.src]? with
  | none => true
  | some q => !s.actorHolds r a q (fun t v => a.cfg.bucket t v = m.bucket)

/-- BUCKET_STATE_COPY (R124 step 3): the bucket of the first move of actor `actor` of region `region` that A no longer holds has its
state copied, and is released. -/
def execBucketStateCopy (s : State) : Result :=
  match s.actorArg with
  | none => .next s
  | some (r, a) =>
    match a.copyable.find? (s.moveReady r a) with
    | none => .next s
    | some m =>
      let s := s.updRegion r.id (fun r => r.updActor a.cfg.actor (fun a => { a with
        moves := changeFirst (fun q => q = m) (fun q => { q with step := 4 }) a.moves }))
      match a.replicas[m.src]?, a.replicas[m.dst]? with
      | some x, some y =>
        let src := s.cell (cellKey r.die x.1 x.2)
        let o := (a.cfg.sbase + m.bucket * a.cfg.ssize) * 64
        let bs := (List.range (a.cfg.ssize * 64)).map (fun i => src.bankByte a.cfg.sbank (o + i))
        .next (s.updCell (cellKey r.die y.1 y.2) (fun c => c.bankWrite a.cfg.sbank o bs))
      | _, _ => .next s

/-- BUCKET_RELEASE (R124 step 4): the first move of actor `actor` whose state is in place ends: the new owner's held tokens enter,
those forwarded first. -/
def execBucketRelease (s : State) : Result :=
  match s.actorArg with
  | none => .next s
  | some (r, a) =>
    match a.moves.find? (fun m => m.step = 4) with
    | none => .next s
    | some m =>
      let mine := fun (t : Tok) => a.cfg.bucket t.tag t.val = m.bucket
      let out := a.held.filter mine
      let toks := out.filter (fun t => t.kind = .forwarded) ++ out.filter (fun t => t.kind ≠ .forwarded)
      let s := s.updRegion r.id (fun r => r.updActor a.cfg.actor (fun a => { a with
        moves := dropFirst (fun q => q = m) a.moves, held := a.held.filter (fun t => !mine t) }))
      let s := s.beginMoves r.id a.cfg.actor
      match a.replicas[m.dst]? with
      | none => .next s
      | some q => .next (s.updCell (cellKey r.die q.1 q.2) (fun c => { c with queue := toks ++ c.queue }))

/-- The replica of an actor that can be freed now (R122): it leaves, its moves are done, and it holds no token of the actor. -/
def State.freeable (s : State) (r : Region) (a : Actor) : Option (Nat × Nat × Nat) :=
  (a.leaving.filterMap (fun n => (a.replicas[n]?).map (fun q => (n, q)))).find? (fun q =>
    !a.moves.any (fun m => m.src = q.1) && !s.actorHolds r a q.2 (fun _ _ => true))

/-- REPLICA_FREE (R122): the leaving replica of actor `actor` of region `region`, its moves done and no token of the actor left in
it, frees its windows; its cell joins the pool where it holds no other block of the region. -/
def execReplicaFree (s : State) : Result :=
  match s.actorArg with
  | none => .next s
  | some (r, a) =>
    match s.freeable r a with
    | none => .next s
    | some (n, q) =>
      let k := cellKey r.die q.1 q.2
      let s := s.updCell k (fun c => { c with windows := c.windows.map (fun (w : Nat × Window) =>
        (w.1, if w.2.region = r.id && bit a.cfg.wins w.2.rwin then { region := r.id, rwin := w.2.rwin } else w.2)) })
      let bare := !((s.cell k).windows.any (fun w => w.2.region = r.id && !w.2.words.isEmpty))
      .next (s.updRegion r.id (fun r => { r.updActor a.cfg.actor (fun a => { a with
          leaving := a.leaving.filter (· ≠ n), freed := a.freed ++ [n] }) with
        pool := if bare then r.pool ++ [q] else r.pool }))

/-! ## Shares (R129) -/

/-- The effective share of a window after an interval (R129). -/
def Window.reweighted (w : Window) : Window :=
  let slots := sumOf (w.ins.map (fun i => i.2.depth))
  let q := if slots = 0 then 0 else min 4 (4 * w.occSum / (1024 * slots))
  { w with eff := w.share.toNat + w.share.toNat * q / 4, occSum := 0, occSince := 0 }

/-- SHARE_REWEIGHT (R129): every 1,024 fabric cycles, the shares of the windows of cell (`x`, `y`) of die `die`. -/
def execShareReweight (s : State) : Result :=
  let a := s.sch.args
  .next (s.updCell (cellKey a.die a.x a.y) (fun c => { c with windows := c.windows.map (fun (w : Nat × Window) => (w.1, w.2.reweighted)) }))

end Sys2Proof.Machine
end

