-- ==== Sys2Proof/Machine/Traps.lean ====
section
/-!
DEFINITION. Frame traps (R158 to R167): the stop of a frame and its withdrawal, RESUME, KILL, the park area as it drains; the
quiescence detector with its spill extension and occupancy map (R168 to R171), and the end of a region (R322).
-/

namespace Sys2Proof.Machine

/-! ## What a trap withdraws (R158, R388, R393) -/

/-- The park area's bytes after items have left it: the entries that remain, and the bytes in use (log 25). -/
def State.rewritePark (s : State) (id : Nat) : State :=
  let r := s.region id
  let s := (s.vaWrite r.ctx (r.image.parkVa + 64) (parkEntries r [] r.park).flatten).1
  (s.vaWrite r.ctx r.image.parkVa (toBytes 8 r.parkUsed)).1

/-- FRM of a parked item. -/
def Parked.frm : Parked → Nat
  | .token t => tagFrm t.tag
  | .accord f => f.frm

/-- The target of a parked item: cell, window, and slot and port or arc. -/
def Parked.dest : Parked → Nat × Nat × Dest
  | .token t => (t.x, t.y, t.dest)
  | .accord f => (f.x, f.y, .slot f.rwin f.acc.slot .l)

/-- Firings as accords that a trap takes: their operands to the park area. -/
def State.parkAccords (s : State) (id : Nat) (l : List Firing) : State := l.foldl (fun s f => s.park id (.accord f)) s

/-- The tag requests of a region that `p` holds of withdrawn: their firings, and the state without them. -/
def State.withdrawAsks (s : State) (id : Nat) (p : Firing → Bool) : List Firing × State :=
  let gone := (s.region id).asks.filter (fun a => p a.firing)
  let s := gone.foldl (fun s a => match a.kind with
    | .iter => s.dropLate a.firing a.targets a.firing.valL.len .none
    | .frame => (s.unreserve a.firing (a.targets.take 1) a.firing.valL.len).unreserve a.firing (a.targets.drop 1) 4) s
  (gone.map (fun a => a.firing), s.updRegion id (fun r => { r with asks := r.asks.filter (fun a => !p a.firing) }))

/-- The gates of a die that `p` holds of withdrawn before they are handled (R320): their firings, and the state without them. -/
def State.withdrawGates (s : State) (die : Nat) (p : Firing → Bool) : List Firing × State :=
  let gone := (s.die die).gates.filter (fun g => p g.firing)
  let s := gone.foldl (fun s g =>
    let s := s.unreserve g.firing g.targets 4
    s.updCell g.firing.cell (fun c => g.pools.foldl (fun c q => c.giveEntry g.firing.region q) c)) s
  (gone.map (fun g => g.firing), s.updDie die (fun d => { d with gates := d.gates.filter (fun g => !p g.firing) }))

/-- The MNOPs that `p` holds of withdrawn from their port cores before their last position has passed (R378): their accords, from the
first rank not yet passed, and the state without them. -/
def State.withdrawMnops (s : State) (p : Firing → Bool) : List Firing × State :=
  let gone := s.accesses.filter (fun a => p a.firing && (match a.op with
    | .mnop _ => true
    | _ => false))
  (gone.map Access.rest, gone.foldl (fun s a => (s.dropAccess a.id).dropLate a.firing [a.target] a.op.resultLen a.pool) s)

/-- The accords of a region that wait in its cells and that `p` holds of, taken from there. -/
def State.takeWaiting (s : State) (id : Nat) (p : Accord → Bool) : List Firing × State :=
  let r := s.region id
  r.cells.foldl (fun (q : List Firing × State) at_ =>
    let k := cellKey r.die at_.1 at_.2
    let c := q.2.cell k
    let mine := fun (a : Accord) => (c.window a.win).region = id && p a
    (q.1 ++ (c.waiting.filter mine).map (fun a =>
        ({ die := r.die, x := at_.1, y := at_.2, region := id, rwin := (c.window a.win).rwin, acc := a } : Firing)),
     q.2.updCell k (fun c => { c with waiting := c.waiting.filter (fun a => !mine a) }))) ([], s)

/-- The START and PARAM tokens of a frame at its AGNs taken from there (R158). -/
def State.takeStarts (s : State) (id : Nat) (p : Tag → Bool) : List Tok × State :=
  let r := s.region id
  r.image.bindings.foldl (fun (q : List Tok × State) b =>
    let g := q.2.agn r b
    if g.region ≠ id || g.port ≠ b.p then q else
    let toks := ((g.arrived b).filter (fun q => p q.2.tag)).filterMap (fun (q : Target × Accord) => (slotDest b.iwin q.1).map (fun d =>
      ({ region := id, sx := r.x0 + b.ix, sy := r.y0 + b.iy, x := r.x0 + b.ix, y := r.y0 + b.iy, dest := d, tag := q.2.tag,
         val := q.2.l.getD {}, note := r.note } : Tok)))
    (q.1 ++ toks,
     q.2.updAgn r b (fun g => { g with starts := g.starts.filter (fun a => !p a.tag), params := g.params.filter (fun a => !p a.tag) })))
    ([], s)

/-- The tokens of a frame in the matching store and input queue of a cell taken from there; queue tokens give back what they
hold. -/
def State.takeTokens (s : State) (id : Nat) (at_ : Nat × Nat) (frm : Nat) : List Tok × State :=
  let r := s.region id
  let k := cellKey r.die at_.1 at_.2
  let c := s.cell k
  let mine := fun (a : Accord) => (c.window a.win).region = id && tagFrm a.tag = frm
  let stored := (c.matching.filter mine).flatMap (fun a => a.operands.map (fun o =>
    ({ region := id, sx := at_.1, sy := at_.2, x := at_.1, y := at_.2, dest := .slot (c.window a.win).rwin a.slot o.1, tag := a.tag,
       val := o.2, note := (c.window a.win).note } : Tok)))
  let queued := c.queue.filter (fun t => t.region = id && tagFrm t.tag = frm)
  let s := s.updCell k (fun c => { c with
    matching := c.matching.filter (fun a => !mine a), queue := c.queue.filter (fun t => !(t.region = id && tagFrm t.tag = frm)) })
  (stored ++ queued, queued.foldl (fun s t => s.leaveQueue k t) s)

/-- The read-ahead of a frame's rounds discarded (R164). -/
def State.dropAhead (s : State) (r : Region) (p : Tag → Bool) : State :=
  r.image.bindings.foldl (fun s b =>
    if (s.agn r b).region ≠ r.id || (s.agn r b).port ≠ b.p then s
    else s.updAgn r b (fun g => { g with round := g.round.map (fun q => if p q.tag then { q with readAhead := [], next :=
      if b.mode = .element then q.delivered else q.next } else q) })) s

/-- SCH_TRAP_CTL's BUSY and REFUSED. -/
def State.trapResult (s : State) (die : Nat) (busy refused : Bool) : State :=
  s.updDie die (fun d => { d with trapCtl := { d.trapCtl with busy := busy, refused := refused } })

/-- BUSY of the SCH_TRAP_CTL that names a frame ended (R161): its RESUME or KILL is over. -/
def State.endTrapCtl (s : State) (r : Region) (frm : Nat) : State :=
  let q := (s.die r.die).trapCtl
  if q.frm.toNat = frm && q.x0.toNat = r.x0 && q.y0.toNat = r.y0 then s.trapResult r.die false q.refused else s

/-- A frame stopped (R158 steps 1 to 3): its trap accord parked, then its waits, its waiting accords and its tokens. What RESUME had
put back goes in front of what it had not, and that RESUME is over. -/
def State.stopFrame (s : State) (id frm : Nat) (accord : Option Firing) : State :=
  let r := s.region id
  let again := r.resuming.contains frm
  let s := s.updRegion id (fun r => { r with
    trapSet := if r.trapSet.contains frm then r.trapSet else sortBy (fun a b => decide (a ≤ b)) (r.trapSet ++ [frm])
    resuming := r.resuming.filter (· ≠ frm), park := if again then r.park.filter (fun p => p.frm ≠ frm) else r.park })
  let kept := if again then r.park.filter (fun p => p.frm = frm) else []
  let s := match accord with
    | some f => s.park id (.accord { f with acc := { f.acc with reissue := false } })
    | none => s
  let mine := fun (f : Firing) => f.region = id && f.frm = frm
  let q := s.withdrawQueue mine
  let t := q.2.withdrawAsks id mine
  let u := t.2.withdrawGates r.die mine
  let v := u.2.withdrawMnops mine
  let w := v.2.takeWaiting id (fun a => tagFrm a.tag = frm)
  let s := (w.2.parkAccords id (q.1 ++ t.1 ++ u.1 ++ v.1)).parkAccords id w.1
  let g := s.takeStarts id (fun t => tagFrm t = frm)
  let s := g.1.foldl (fun s t => s.park id (.token t)) g.2
  let s := r.cells.foldl (fun s at_ =>
    let t := s.takeTokens id at_ frm
    t.1.foldl (fun s t => s.park id (.token t)) t.2) s
  let s := if again then ((s.updRegion id (fun r => { r with park := r.park ++ kept })).rewritePark id).endTrapCtl r frm else s
  s.dropAhead (s.region id) (fun t => tagFrm t = frm)

/-- FRAME_TRAP (R158, R159): the next trap report of die `die`: its frame stops, and the record is sent. -/
def execFrameTrap (s : State) : Result :=
  let die := s.sch.args.die
  match (s.die die).reports with
  | [] => .next s
  | t :: rest =>
    let s := s.updDie die (fun d => { d with reports := rest })
    let s := match (s.region t.region).frame? t.frm with
      | none => s
      | some f => if f.killed || f.returned || (s.region t.region).st = RegionState.frozen then s else s.stopFrame t.region t.frm t.accord
    .next (s.putFault t.rcd)

/-! ## RESUME (R162, R164, R167) -/

/-- The region and trapped frame that SCH_TRAP_CTL of a die names, where it may be resumed or killed (R161). -/
def State.trapNamed (s : State) (die : Nat) : Option (Region × Nat) :=
  let q := (s.die die).trapCtl
  match s.regionAt die q.x0.toNat q.y0.toNat with
  | none => none
  | some r => if r.trapSet.contains q.frm.toNat && r.st = .running && r.stop = .none then some (r, q.frm.toNat) else none

/-- TRAP_RESUME (R161, R162): the RESUME that SCH_TRAP_CTL of die `die` asks begins. -/
def execTrapResume (s : State) : Result :=
  let die := s.sch.args.die
  match s.trapNamed die with
  | none => .next (s.trapResult die false true)
  | some (r, frm) =>
    if ((r.frame? frm).map FrameRec.killed).getD true then .next (s.trapResult die false true)
    else .next ((s.trapResult die true false).updRegion r.id (fun r => { r with resuming := r.resuming.filter (· ≠ frm) ++ [frm] }))

/-- Whether a starved stream still holds back a frame's RESUME (R167). -/
def State.starves (s : State) (r : Region) (frm : Nat) : Bool :=
  s.eps.any (fun e => e.1 / 1024 = r.die && e.2.recvs.any (fun t => t.st = .starved && t.ctx = r.ctx && t.holes.any (fun h =>
    h.starved && h.kind = 5 && tagFrm (BitVec.ofNat 32 h.tag) = frm &&
      (if h.addr = 0 then s.actsInto r e.1 t else ((s.migrOwner t.ctx h.addr).map (fun (q : Region) => q.id)) = some r.id))))

/-- The accesses and transfers of a frame that its faults stopped performed again (R164). -/
def State.resumePorts (s : State) (r : Region) (frm : Nat) : State :=
  let stopped := s.accesses.filter (fun a => a.firing.region = r.id && a.firing.frm = frm && a.phase = .stopped)
  let s := { s with ports := s.ports.map (fun (p : Nat × PortCore) => (p.1, { p.2 with
      waves := p.2.waves.map (fun (w : Wave) => if w.region = r.id && w.frm = frm then { w with stop := none } else w)
      agns := p.2.agns.map (fun (g : Nat × Agn) => (g.1, if g.2.region = r.id then { g.2 with round := g.2.round.map (fun (q : Round) =>
        if tagFrm q.tag = frm then { q with faulted := false } else q) } else g.2)) })) }
  let s := { s with xfers := s.xfers.map (fun (x : Xfer) =>
    if x.region = r.id && tagFrm x.tag = frm && x.access.isNone then { x with faulted := false } else x) }
  stopped.foldl (fun s a => s.performAccess a false) s

/-- A trap accord issued again (R162): a start token to its AGN, any other to its cell. -/
def State.reissue (s : State) (r : Region) (f : Firing) : State :=
  let k := f.cell
  match (s.cell k).findWin r.id f.rwin with
  | none => s
  | some (w, _) =>
    let a : Accord := { f.acc with win := w, reissue := true }
    match s.portTarget k w a.slot .l with
    | some (b, start) => s.updAgn r b (fun g =>
        if start then { g with starts := a :: g.starts } else { g with params := a :: g.params })
    | none => s.completed k a

/-- Whether a frame has a report at its die scheduler still to be taken. -/
def State.reported (s : State) (r : Region) (frm : Nat) : Bool :=
  (s.die r.die).reports.any (fun t => t.region = r.id && t.frm = frm)

/-- A frame's RESUME ended (R162 step 4). -/
def State.leaveTrap (s : State) (r : Region) (frm : Nat) : State :=
  let s := s.updRegion r.id (fun r => { r with trapSet := r.trapSet.filter (· ≠ frm), resuming := r.resuming.filter (· ≠ frm) })
  (s.endTrapCtl r frm).serveAsks r.id

/-- PARK_REINJECT (R162): one move of the RESUME of frame `frm` of region `region`: its trap accords issued again and its faulted
accesses performed again, then its parked tokens put back in order, each with an entry of its cell; at the end it leaves the trap
set. -/
def execParkReinject (s : State) : Result :=
  let g := s.sch.args
  match s.region? g.region with
  | none => .next s
  | some r =>
    let frm := g.frm
    if !r.resuming.contains frm || r.st ≠ .running || r.stop ≠ .none || s.reported r frm || s.starves r frm then .next s else
    let accords := r.park.filterMap (fun p => match p with
      | .accord f => if f.frm = frm then some f else none
      | .token _ => none)
    let s := (s.resumePorts r frm).stir r.id
    if !accords.isEmpty then
      let s := (s.updRegion r.id (fun r => { r with park := r.park.filter (fun p => match p with
        | .accord f => f.frm ≠ frm
        | .token _ => true) })).rewritePark r.id
      .next (accords.foldl (fun s f => s.reissue r f) s)
    else
      match r.park.findSome? (fun p => match p with
        | .token t => if tagFrm t.tag = frm then some t else none
        | .accord _ => none) with
      | none => .next (s.leaveTrap r frm)
      | some t =>
        let k := cellKey r.die t.x t.y
        match s.takeEntry k r.id with
        | none => .next s
        | some (pool, s) =>
          let (id, s) := s.newId
          let s := (s.updRegion r.id (fun r => { r with park := dropFirst (fun p => p = .token t) r.park })).rewritePark r.id
          .next (s.updCell k (fun c => { c with queue := c.queue ++ [{ t with id := id, kind := .unparked, pool := pool, held := false }] }))

/-! ## KILL (R163) -/

/-- A transfer that will not go on: its tile EMPTY again for a fill, READY for a drain (log 25). -/
def State.abandonXfer (s : State) (x : Xfer) : State :=
  let q := s.xferOf x
  let s' : State := match x.kind with
    | .fill => if x.begun then (x.targets q.1 q.2).foldl (fun (s : State) p => s.updCell p.1 (fun c => c.updTile p.2 (fun t =>
        { t with st := .empty, opened := false, otag := 0, rowsIn := 0 }))) s else s
    | .drain =>
      let p := s.drainSource q.1 q.2 x
      if x.begun then s.updCell p.1 (fun c => c.updTile p.2 (fun t => { t with st := .ready, otag := 0 })) else s
  s'.dropXfer x.id

/-- Whether an access has performed or been begun by its port core (R168). -/
def Phase.begun : Phase → Bool
  | .walk | .home | .host | .moving => true
  | _ => false

/-- The accesses of a frame that have not been begun discarded, held stores among them (R163). -/
def State.discardAccesses (s : State) (p : Access → Bool) : State :=
  (s.accesses.filter (fun a => p a && !a.phase.begun)).foldl (fun s a =>
    (s.dropAccess a.id).dropLate a.firing [a.target] a.op.resultLen a.pool) s

/-- TRAP_KILL (R161, R163): the KILL that SCH_TRAP_CTL of die `die` asks: the frame's parked tokens, trap accords and held stores go. -/
def execTrapKill (s : State) : Result :=
  let die := s.sch.args.die
  match s.trapNamed die with
  | none => .next (s.trapResult die false true)
  | some (r, frm) =>
    let s := s.trapResult die true false
    let s := s.updRegion r.id (fun r => { r.updFrame frm (fun f => { f with killed := true }) with
      park := r.park.filter (fun p => p.frm ≠ frm), resuming := r.resuming.filter (· ≠ frm) })
    let s := s.rewritePark r.id
    let s := s.discardAccesses (fun a => a.firing.region = r.id && a.firing.frm = frm)
    let s := (s.xfers.filter (fun x => x.region = r.id && tagFrm x.tag = frm && (x.faulted || !x.begun))).foldl (fun s x => s.abandonXfer x) s
    let s := r.image.bindings.foldl (fun s b =>
      if (s.agn r b).region ≠ r.id || (s.agn r b).port ≠ b.p then s
      else s.updAgn r b (fun g => { g with round := g.round.filter (fun q => tagFrm q.tag ≠ frm) })) s
    .next (r.cells.foldl (fun s at_ => s.updCell (cellKey r.die at_.1 at_.2) (fun c => { c with
      fences := c.fences.filter (fun f => !(f.firing.region = r.id && f.firing.frm = frm)) })) s)

/-- KILL_TAGS_FREE (R163): a killed frame with no request outstanding at a port core is freed as by FRET. -/
def execKillTagsFree (s : State) : Result :=
  let g := s.sch.args
  match s.region? g.region with
  | none => .next s
  | some r =>
    match r.frame? g.frm with
    | none => .next s
    | some f =>
      if !f.killed || s.frameBusy r.id g.frm || s.reported r g.frm then .next s
      else .next ((s.returnFrame r.id g.frm).leaveTrap r g.frm)

/-! ## The quiescence detector (R168 to R171) -/

/-- Whether a request or transfer of a region is outstanding (R168). -/
def State.outstanding (s : State) (id : Nat) : Bool :=
  s.accesses.any (fun a => a.firing.region = id && (a.phase.begun || (a.phase = .travel && !s.stopsHere a) || a.phase = .retry true)) ||
  s.responses.any (fun p => p.firing.region = id) || s.xfers.any (fun x => x.region = id && x.moves) ||
  s.spaces.any (fun p => p.region = id)

/-- Whether a TLWAIT of a region counts as an outstanding request (R393). -/
def State.tlOutstanding (s : State) (r : Region) : Bool :=
  (s.regionCells r.id).any (fun k =>
    let c := s.cell k
    c.waiting.any (fun a =>
      let w := c.window a.win
      w.region = r.id && (match slotInstr w.words a.slot with
        | some (.tlwait _ chain _) =>
          let st := s.chainState r.ctx chain.toNat
          (st = 1 || st = 2) && decide ((a.l.getD {}).low 8 ≤ (s.chain r.ctx chain.toNat).tail.toNat)
        | _ => false)))

/-- The output arcs that an accord of a window sends to, with the bytes it may send (R169, R190). -/
def State.accordArcs (s : State) (r : Region) (x y : Nat) (w : Nat × Window) (a : Accord) : List Nat :=
  let fixed := (wordTargets ((w.2.words.getD a.slot 0).toNat)).filterMap (fun t => match t with
    | .arc n => some n.toNat
    | _ => none)
  match slotInstr w.2.words a.slot with
  | some (.send _) =>
    let f : Firing := { die := r.die, x := x, y := y, region := r.id, rwin := w.2.rwin, acc := a }
    let d := f.r 4
    if bits d 5 4 = 0 then (s.arcTo f (r.x0 + bits d 27 21) (r.y0 + bits d 20 15) (bits d 14 12) (bits d 11 6)).toList else []
  | _ => fixed

/-- Whether the producer of an input arc holds a complete accord that waits for it (R169). -/
def State.producerWaits (s : State) (r : Region) (i : InArc) : Bool :=
  let c := s.cell (cellKey r.die i.px i.py)
  match c.findWin r.id i.pwin with
  | none => false
  | some w =>
    c.waiting.any (fun a => a.win = w.1 && (s.accordArcs r i.px i.py w a).contains i.parc &&
      (let o := look {} w.2.outs i.parc
       decide (o.cred < (if o.fifo then max 1 (o.need ((a.l.getD {}).len)) else 1))))

/-- The input arcs of a region in consumer order: cell, window number, arc and the arc's state (R170, R171). -/
def State.arcsInOrder (s : State) (r : Region) : List ((Nat × Nat) × Nat × Nat × InArc) :=
  r.cells.flatMap (fun q =>
    let ws := (s.cell (cellKey r.die q.1 q.2)).windows.filter (fun w => w.2.region = r.id)
    (sortBy (fun (a b : Nat × Window) => decide (a.2.rwin ≤ b.2.rwin)) ws).flatMap (fun w =>
      w.2.ins.map (fun i => (q, w.2.rwin, i.1, i.2))))

/-- Slots or ring entries of an input arc in use. -/
def State.slotsUsed (s : State) (r : Region) (at_ : Nat × Nat) (i : InArc) : Nat :=
  match i.fifo with
  | some b => ((s.cell (cellKey r.die at_.1 at_.2)).bank b).fifoCount
  | none => i.occupied

/-- The arc that a spill extension takes (R169, R170): the full arc of least depth, in consumer order among equals. -/
def State.spillArc (s : State) (r : Region) : Option ((Nat × Nat) × Nat × Nat × InArc) :=
  let full := (s.arcsInOrder r).filter (fun q =>
    let i := q.2.2.2
    !i.extended && s.producerWaits r i && (i.fifo.isSome || decide (i.depth ≤ s.slotsUsed r q.1 i)))
  (sortBy (fun a b => decide (a.2.2.2.depth ≤ b.2.2.2.depth)) full).head?

/-- The spill queue that the next extension takes: the first of the spill area, of at most eight, that no arc of the region has
(R169, R170, R290). -/
def State.freeArea (s : State) (r : Region) : Option Nat :=
  let used := ((s.arcsInOrder r).filter (fun q => q.2.2.2.extended)).map (fun q => q.2.2.2.area)
  (List.range (min 8 (r.image.spillSize / 278528))).find? (fun a => !used.contains a)

/-- Whether an extension may be made now (R169, R170). -/
def State.maySpill (s : State) (r : Region) : Bool :=
  (s.freeArea r).isSome && (match r.lastSpill with
    | none => true
    | some t => decide (t + 16 * r.hang ≤ (s.die r.die).netCycles.toNat))

/-- The occupancy map (R171). -/
def State.occupancyMap (s : State) (r : Region) : List Byte :=
  let arcs := (s.arcsInOrder r).filter (fun q => decide (0 < s.slotsUsed r q.1 q.2.2.2) || !q.2.2.2.spill.isEmpty || s.producerWaits r q.2.2.2)
  let at_ := fun (x y w a : Nat) => toBytes 4 ((x - r.x0) * 2 ^ 25 + (y - r.y0) * 2 ^ 19 + w * 2 ^ 16 + a * 2 ^ 8)
  toBytes 4 0x4D4F4C53 ++ toBytes 4 arcs.length ++ toBytes 4 r.cells.length ++ toBytes 4 0 ++ toBytes 8 r.handle ++
  toBytes 8 (s.die r.die).netCycles.toNat ++
  arcs.flatMap (fun q =>
    let i := q.2.2.2
    at_ q.1.1 q.1.2 q.2.1 q.2.2.1 ++ at_ i.px i.py i.pwin i.parc ++ toBytes 2 i.depth ++ toBytes 2 (s.slotsUsed r q.1 i) ++
    toBytes 2 i.spill.length ++ toBytes 1 (bitOf (s.producerWaits r i) + 2 * bitOf i.extended) ++ toBytes 1 0) ++
  r.cells.flatMap (fun q =>
    let c := s.cell (cellKey r.die q.1 q.2)
    toBytes 1 (q.1 - r.x0) ++ toBytes 1 (q.2 - r.y0) ++ toBytes 2 (c.entriesOf r.id) ++
    toBytes 2 ((c.queue.filter (fun t => t.region = r.id)).length) ++
    toBytes 2 ((r.asks.filter (fun a => a.firing.x = q.1 && a.firing.y = q.2)).length))

/-- The occupancy map written to FAREA (R171): its VA, its length, whether it was cut short, and whether a write faulted. -/
def State.writeMap (s : State) (r : Region) : (Nat × Nat × Bool × Bool) × State :=
  match (s.ctx r.ctx).desc with
  | none => ((0, 0, false, true), s)
  | some d =>
    let m := s.occupancyMap r
    let n := min m.length (2 ^ d.fasz)
    match s.vaWrite r.ctx d.farea (m.take n) with
    | (s, some _) => ((d.farea, 0, decide (n < m.length), true), s)
    | (s, none) => ((d.farea, n, decide (n < m.length), false), s)

/-- The freeze of a silent region (R157, R169): the map, and TAGX for the oldest waiting request, else DEADLOCK. -/
def State.freezeSilent (s : State) (r : Region) : State :=
  let q := s.writeMap r
  let s := q.2
  let fl := bitOf q.1.2.2.1 + 2 * bitOf q.1.2.2.2
  let cycle := (s.die r.die).netCycles
  match r.asks.foldl (fun (m : Option TagAsk) a => match m with
      | none => some a
      | some b => if a.stamp < b.stamp then some a else some b) none with
  | some a =>
    (s.putFault { cls := .tagx, ctx := r.ctx, tag := a.firing.acc.tag, loc := whereD r.die, cycle := cycle, bodyB := r.handle,
                  bodyA := r.askLevel a + fl * 2 ^ 8 + a.firing.frm * 2 ^ 16 +
                    sumOf ((List.range 8).map (fun k => r.used k * 2 ^ (32 + 16 * k))) }).startFreeze r.id .tagx
  | none =>
    (s.putFault { cls := .deadlock, ctx := r.ctx, loc := whereD r.die, cycle := cycle, bodyB := r.handle,
                  bodyA := q.1.1 * 2 ^ 32 + q.1.2.1 * 2 ^ 96 + fl * 2 ^ 128 }).startFreeze r.id .deadlock

/-- Whether the detector runs on a region and finds it silent (R168). -/
def State.isSilent (s : State) (r : Region) : Bool :=
  r.st = .running && r.stop = .none && !r.ended && !r.complete && decide (r.hang ≤ r.silentFor) && !s.outstanding r.id &&
  !s.tlOutstanding r && !(s.die r.die).reports.any (fun t => t.region = r.id)

/-- REGION_SILENT (R169): the detector acts on the silent region `region`. -/
def execRegionSilent (s : State) : Result :=
  match s.region? s.sch.args.region with
  | none => .next s
  | some r =>
    if !s.isSilent r then .next s
    else if !s.holdsLoose r then
      .next (if r.holdsParked then s else s.updRegion r.id (fun r => { r with complete := true }))
    else
      match s.spillArc r, s.maySpill r with
      | some q, true =>
        let k := cellKey r.die q.1.1 q.1.2
        match (s.cell k).findWin r.id q.2.1 with
        | none => .next s
        | some (w, _) =>
          let now := (s.die r.die).netCycles.toNat
          .next ((s.updIn k w q.2.2.1 (fun i => { i with extended := true, area := (s.freeArea r).getD 0, spilled := 0 })).updRegion r.id (fun r =>
            { r with silentFor := 0, lastSpill := some now }))
      | _, _ => .next (s.freezeSilent r)

/-! ## END (R322) -/

/-- Whether an access held in a wave window can perform without a further access of its region (R322): not while its stream is
stopped (R164). -/
def State.canPerform (s : State) (a : Access) : Bool :=
  a.phase = .held && a.wseq = some (s.wave a).nextw.toNat && !s.pastStop a

/-- Whether a stream that a region sends records on is still open (R322, R410). -/
def State.sendsOpen (s : State) (id : Nat) : Bool :=
  s.eps.any (fun e => (e.2.sends ++ e.2.wants).any (fun t => match t.owner with
    | .migr g _ _ => g = id
    | _ => false))

/-- END_COMPLETE (R322 steps 3 to 5): the region `region`, ended, has no request outstanding: its waits are withdrawn, its tokens
discarded, and it counts as complete. -/
def execEndComplete (s : State) : Result :=
  match s.region? s.sch.args.region with
  | none => .next s
  | some r =>
    if !r.ended || r.complete || s.outstanding r.id || s.sendsOpen r.id || s.accesses.any (fun a => a.firing.region = r.id && s.canPerform a) then
      .next s
    else
      let s := (s.withdrawQueue (fun f => f.region = r.id)).2
      let s := { s with
        toks := s.toks.filter (fun t => t.region ≠ r.id), notices := s.notices.filter (fun n => n.region ≠ r.id)
        accesses := s.accesses.filter (fun a => a.firing.region ≠ r.id), xfers := s.xfers.filter (fun x => x.region ≠ r.id) }
      let s := s.updRegion r.id (fun r => { r with complete := true, asks := [], inject := [], inflight := [] })
      .next ((s.regionCells r.id).foldl (fun s k => s.updCell k (fun c => { c with
        matching := c.matching.filter (fun a => (c.window a.win).region ≠ r.id)
        waiting := c.waiting.filter (fun a => (c.window a.win).region ≠ r.id)
        queue := c.queue.filter (fun t => t.region ≠ r.id)
        fences := c.fences.filter (fun f => f.firing.region ≠ r.id) })) s)

end Sys2Proof.Machine
end

