-- ==== Sys2Proof/Machine/Preempt.lean ====
section
/-!
DEFINITION. Drydown, freeze, SAVE and RELEASE of a region (R172 to R176, R388), and errors of the configuration stores (R182).
-/

namespace Sys2Proof.Machine

/-! ## The stop of a region (R172, R173) -/

/-- CODE of SCH_PRE_CTL, its BUSY 0. -/
def State.preResult (s : State) (die code : Nat) : State :=
  s.updDie die (fun d => { d with pre := { d.pre with busy := false, code := BitVec.ofNat 3 code } })

/-- The region at the corner of SCH_PRE_CTL. -/
def State.preRegion (s : State) (die : Nat) : Option Region :=
  let p := (s.die die).pre
  s.regionAt die p.x0.toNat p.y0.toNat

/-- Whether the bucket moves of a region have ended (R125). -/
def Region.unmoving (r : Region) : Bool := r.actors.all (fun a => a.moves.isEmpty && a.leaving.isEmpty)

/-- DRYDOWN (R172 step 1, R174): the DRYDOWN that SCH_PRE_CTL of die `die` asks: the region DRAINING, its markers to follow. -/
def execDrydown (s : State) : Result :=
  let die := s.sch.args.die
  match s.preRegion die with
  | none => .next (s.preResult die 1)
  | some r =>
    if r.st ≠ .running || r.stop ≠ .none || r.ended || r.complete then .next (s.preResult die 2)
    else .next ((s.updRegion r.id (fun r => { r with st := .draining, stop := .drydown [], cause := .drydown })).updDie die (fun d =>
      { d with pre := { d.pre with busy := true } }))

/-- MARKER_ARRIVAL (R125, R172 step 3): cell (`x`, `y`) of the draining region `region` takes its first marker: it fires nothing more. -/
def execMarkerArrival (s : State) : Result :=
  let a := s.sch.args
  match s.region? a.region with
  | none => .next s
  | some r =>
    match r.stop with
    | .drydown cells =>
      if cells.contains (a.x, a.y) || !r.contains a.x a.y || !r.unmoving then .next s
      else .next ((s.updRegion r.id (fun r => { r with stop := .drydown (cells ++ [(a.x, a.y)]) })).dropAhead r (fun _ => true))
    | _ => .next s

/-- FREEZE (R173, R174, R175): the FREEZE that SCH_PRE_CTL of die `die` asks: firing stops; a drydown in progress gives way. -/
def execFreeze (s : State) : Result :=
  let die := s.sch.args.die
  match s.preRegion die with
  | none => .next (s.preResult die 1)
  | some r =>
    let ok := (r.st = .running || r.st = .draining) && !r.ended && !r.complete && (match r.stop with
      | .freeze => false
      | _ => true)
    if !ok then .next (s.preResult die 2)
    else .next ((s.startFreeze r.id .request).updDie die (fun d => { d with pre := { d.pre with busy := true } }))

/-! ## What a stop saves (R173, R388) -/

/-- Whether an access only waits: it will be withdrawn (R173). -/
def State.onlyWaits (s : State) (a : Access) : Bool :=
  match a.phase with
  | .held => !s.canPerform a
  | .travel => s.stopsHere a
  | .retry false | .stopped | .fenced _ => true
  | .moving => s.xfers.any (fun x => x.access = some a.id && !x.moves)
  | _ => false

/-- Whether everything that a stop waits for has ended (R172 step 5, R173). -/
def State.canSettle (s : State) (r : Region) : Bool :=
  let mine := fun (f : Firing) => f.region = r.id
  !s.toks.any (fun t => t.region = r.id) && !s.notices.any (fun n => n.region = r.id) && !s.responses.any (fun p => mine p.firing) &&
  !s.spaces.any (fun p => p.region = r.id) && !s.xfers.any (fun x => x.region = r.id && x.moves) &&
  s.accesses.all (fun a => !mine a.firing || s.onlyWaits a) && !(s.die r.die).gates.any (fun g => mine g.firing) &&
  !(s.die r.die).tree.any (fun o => o.active && o.contribs.any (fun c => mine c.firing)) &&
  !(s.die r.die).reports.any (fun t => t.region = r.id) &&
  (s.regionCells r.id).all (fun k =>
    let c := s.cell k
    !(c.engine.any (fun e => mine e.firing)) && !(c.seqs.any (fun q => mine q.firing))) &&
  r.frames.all (fun f => match f.wrap with
    | none => true
    | some w => w.cells.isEmpty && w.acks.isEmpty)

/-- Firings withdrawn from a region: those of trapped frames as trap accords, the others as waiting accords (R388). -/
def State.saveAccords (s : State) (id : Nat) (l : List Firing) : State :=
  l.foldl (fun s f =>
    if (s.region id).trapSet.contains f.frm then s.park id (.accord f)
    else s.updCell f.cell (fun c => { c with waiting := c.waiting ++ [f.acc] })) s

/-- A register that waits for an LDH withdrawn is EMPTY again (R199). -/
def Cell.unpend (c : Cell) (a : Access) : Cell :=
  match a.op with
  | .ldh h =>
    match c.frameSlot a.firing.region a.firing.frm with
    | some i => (c.setHold i h.toNat {}).settle
    | none => c
  | _ => c

/-- The accesses of a region that wait withdrawn, but for the held stores of trapped frames that PARK keeps (R177); an MNOP from the
first rank that it has not passed (R378). -/
def State.withdrawAccesses (s : State) (r : Region) : State :=
  let keep := (s.heldStores r).map (fun a => a.id)
  let gone := s.accesses.filter (fun a => a.firing.region = r.id && !keep.contains a.id)
  gone.foldl (fun s a =>
    let s := ((s.dropAccess a.id).dropLate a.firing [a.target] a.op.resultLen a.pool).updCell a.firing.cell (fun c => c.unpend a)
    s.saveAccords r.id [a.rest]) s

/-- The transfers of a region that have not ended abandoned: a round goes on from its first tile among them (log 25). -/
def State.abandonXfers (s : State) (r : Region) : State :=
  (s.xfers.filter (fun x => x.region = r.id)).foldl (fun s x =>
    let s := s.abandonXfer x
    if x.access.isSome then s else
    match r.binding? x.port with
    | none => s
    | some b => s.updAgn r b (fun g => { g with
        busyBufs := g.busyBufs.filter (· ≠ x.buffer), round := g.round.map (fun q => { q with next := min q.next x.tile, faulted := false }) })) s

/-- The tree contributions of a region that have not entered withdrawn: their firings, and the state without them (R388). -/
def State.withdrawContribs (s : State) (r : Region) : List Firing × State :=
  let mine := fun (c : Contribution) => c.firing.region = r.id && !c.targets.isEmpty
  let waits := (s.die r.die).tree.filter (fun o => !o.active && !o.bad)
  let gone := waits.flatMap (fun o => o.contribs.filter mine)
  let s := gone.foldl (fun s c => s.dropLate c.firing c.targets (if c.coll.isSome then 4 else c.val.len) c.pool) s
  let cut := fun (o : TreeOpn) => if !o.active && !o.bad then ({ o with contribs := o.contribs.filter (fun c => !mine c) } : TreeOpn) else o
  (gone.map (fun c => c.firing),
   s.updDie r.die (fun d => { d with tree := (d.tree.map cut).filter (fun o => !o.contribs.isEmpty) }))

/-- The fences of a region withdrawn: their firings, and the state without them. -/
def State.withdrawFences (s : State) (r : Region) : List Firing × State :=
  (s.regionCells r.id).foldl (fun (q : List Firing × State) k =>
    let gone := (q.2.cell k).fences.filter (fun f => f.firing.region = r.id)
    let s := q.2.updCell k (fun c => { c with fences := c.fences.filter (fun f => f.firing.region ≠ r.id) })
    (q.1 ++ gone.map (fun f => f.firing),
     gone.foldl (fun s f => s.dropLate f.firing f.targets (match f.andThen with
       | .send => f.firing.valL.len
       | .tail _ _ => 8) f.pool) s)) ([], s)

/-- A stopped region with everything settled FROZEN: its waits saved as accords, its transfers and read-ahead given up. -/
def State.freezeNow (s : State) (r : Region) : State :=
  let mine := fun (f : Firing) => f.region = r.id
  let s := (s.abandonXfers r).withdrawAccesses r
  let q := s.withdrawQueue mine
  let t := q.2.withdrawAsks r.id mine
  let u := t.2.withdrawFences r
  let v := u.2.withdrawContribs r
  let s := v.2.saveAccords r.id (q.1 ++ t.1 ++ u.1 ++ v.1)
  (s.dropAhead r (fun _ => true)).updRegion r.id (fun r => { r with st := .frozen, stop := .none, resuming := [] })

/-- BUSY of the registers of a die that named a region now stopped (R161, R174). -/
def State.endBusy (s : State) (r : Region) : State :=
  s.updDie r.die (fun d =>
    let d := if d.pre.busy && d.pre.x0.toNat = r.x0 && d.pre.y0.toNat = r.y0 then { d with pre := { d.pre with busy := false, code := 0 } } else d
    if d.trapCtl.busy && d.trapCtl.x0.toNat = r.x0 && d.trapCtl.y0.toNat = r.y0 then { d with trapCtl := { d.trapCtl with busy := false } } else d)

/-- FREEZE_COMPLETE (R173): the freezing region `region`, with nothing more to end, is FROZEN. -/
def execFreezeComplete (s : State) : Result :=
  match s.region? s.sch.args.region with
  | none => .next s
  | some r => .next (if r.stop = .freeze && s.canSettle r then (s.freezeNow r).endBusy r else s)

/-! ## SAVE and RELEASE (R173, R174, R176) -/

/-- The flacon image of a frozen region written where SCH_PRE_IMG and SCH_PRE_LIM of its die say, and the cells returned (R113,
R174). Its CONFIG section is copied from the image in memory (R175); where that cannot be read, the operation ends as where the
write faults: DESIGN CHOICE (log 25). -/
def State.saveRegion (s : State) (r : Region) : State :=
  let p := (s.die r.die).pre
  match s.vaRead r.ctx r.imageVa r.imageBytes.length with
  | .error _ => s.preResult r.die 3
  | .ok (config, s) =>
  let img := s.flacon r config (if r.cause = .drydown then 1 else 2)
  let s := s.updDie r.die (fun d => { d with pre := { d.pre with size := BitVec.ofNat 40 img.length } })
  if p.lim.toNat < img.length then s.preResult r.die 4
  else
    match s.vaWrite r.ctx (p.img.toNat / 64 * 64) img with
    | (s, some _) => s.preResult r.die 3
    | (s, none) => ((s.removeRegion r.id).preResult r.die 0).placeWaiting

/-- CUT_COMPLETE (R172 steps 5 and 6): the marker has reached every cell of the draining region `region`, and nothing is outstanding: it
is FROZEN, and its image is written. -/
def execCutComplete (s : State) : Result :=
  match s.region? s.sch.args.region with
  | none => .next s
  | some r =>
    match r.stop with
    | .drydown cells =>
      if !r.cells.all cells.contains || !s.canSettle r then .next s
      else
        let s := s.freezeNow r
        .next ((s.endBusy r).saveRegion (s.region r.id))
    | _ => .next s

/-- SAVE (R173, R174): the SAVE that SCH_PRE_CTL of die `die` asks, of a FROZEN region. -/
def execSave (s : State) : Result :=
  let die := s.sch.args.die
  match s.preRegion die with
  | none => .next (s.preResult die 1)
  | some r => .next (if r.st = .frozen then s.saveRegion r else s.preResult die 2)

/-- REGION_RELEASE (R173, R174): the RELEASE that SCH_PRE_CTL of die `die` asks: the FROZEN region is discarded, and its LAUNCH record
completes with REFUSED. -/
def execRegionRelease (s : State) : Result :=
  let die := s.sch.args.die
  match s.preRegion die with
  | none => .next (s.preResult die 1)
  | some r => .next (if r.st = .frozen then ((s.leaveTree r).endLaunch r 0x8005).preResult die 0 else s.preResult die 2)

/-! ## Configuration errors (R182) -/

/-- CONFIG_SINGLE_BIT_ERROR (R182): a single-bit error of a configuration store of cell (`x`, `y`) of die `die` is corrected and
counted. -/
def execConfigSingleBitError (s : State) : Result :=
  let a := s.sch.args
  .next (s.updCell (cellKey a.die a.x a.y) (fun c => { c with ecc := { c.ecc with corr := satInc c.ecc.corr } }))

/-- The windows of a region's cell written again from an image; a clone's from replica 0's (R121, R182). -/
def Cell.reloadWindows (c : Cell) (r : Region) (img : Image) (x y : Nat) : Cell :=
  { c with windows := c.windows.map (fun (w : Nat × Window) =>
      if w.2.region ≠ r.id || w.2.words.isEmpty then w else
      let from_ := match (r.actorAt x y w.2.rwin).map (fun a => a.replicas.headD (x, y)) with
        | some q => if (img.block? (x - r.x0) (y - r.y0) w.2.rwin).isSome then (x, y) else q
        | none => (x, y)
      match img.block? (from_.1 - r.x0) (from_.2 - r.y0) w.2.rwin with
      | some b => (w.1, { w.2 with header := b.header, words := b.words })
      | none => w) }

/-- CONFIG_UE (R182): an uncorrectable error in the configuration-store word at `offset` of cell (`x`, `y`) of region `region`: the
configuration is loaded again and its signature checked; a second error within 2^20 network cycles, or a failed check, freezes the
region with CFG_UE. -/
def execConfigUe (s : State) : Result :=
  let a := s.sch.args
  match s.region? a.region with
  | none => .next s
  | some r =>
    if !r.contains a.x a.y then .next s else
    let now := (s.die r.die).netCycles.toNat
    let s := s.updCell (cellKey r.die a.x a.y) (fun c => { c with ecc := { c.ecc with uncorr := satInc c.ecc.uncorr } })
    let again := match r.lastUe with
      | none => false
      | some t => decide (now < t + 2 ^ 20)
    let s := s.updRegion r.id (fun r => { r with lastUe := some now })
    let fail := fun (s : State) =>
      let s := s.putFault { cls := .cfgUe, ctx := r.ctx, loc := whereC r.die a.x a.y 0 0, cycle := BitVec.ofNat 64 now, bodyB := r.handle,
                            bodyA := r.imageVa % 2 ^ 64 * 2 ^ 32 + a.offset % 2 ^ 64 * 2 ^ 96 }
      if r.st = .frozen then s else s.startFreeze r.id .configUe
    if again then .next (fail s)
    else
      let q := s.loadImage r.imageVa { ctx := r.ctx, width := r.w, height := r.h }
      match q.1 with
      | .error _ => .next (fail q.2)
      | .ok (_, img) =>
        if img.signature ≠ r.image.signature then .next (fail q.2)
        else .next (r.cells.foldl (fun s at_ => s.updCell (cellKey r.die at_.1 at_.2) (fun c => c.reloadWindows r img at_.1 at_.2)) q.2)

end Sys2Proof.Machine
end

