-- ==== Sys2Proof/Machine/Restore.lean ====
section
/-!
DEFINITION. A restore (R177 to R181): the flacon image checked and placed, and the region made from it: cells, frames, park area,
spill queues, placement, rounds, waves and streams. The readings of log 25 hold here.
-/

namespace Sys2Proof.Machine

/-! ## Frames (R177) -/

/-- The live iterations of a bitmap with their generations: those at or above NEXT belong to the lap before. -/
def liveFrom (bitmap next wraps : Nat) : List (Nat × Nat) :=
  ((List.range 4096).filter (bit bitmap)).map (fun i => (i, if next = 0 || i < next then wraps % 4 else (wraps + 3) % 4))

/-- A frame from its entry. Laps that are over and hold no live iteration have passed their markers where none was outstanding; else
their markers are sent again. -/
def FrameRec.ofEntry (n : Nat) (e : List Byte) : FrameRec :=
  let next := rd e 4 2 % 4096
  let wraps := rd e 12 4
  let parent := rd e 8 4
  let f : FrameRec := {
    frm := n, level := rd e 1 1 % 8, lap := BitVec.ofNat 2 wraps, wraps := wraps, next := BitVec.ofNat 12 next,
    live := liveFrom (rd e 16 512) next wraps, parent := if parent = 0 then none else some (BitVec.ofNat 32 parent) }
  let laps := [wraps - 1, wraps].filter (fun g => (decide (g < wraps) || next = 0) && f.lapEmpty g)
  if rd e 3 1 = 0 then { f with marked := distinct laps } else f

/-- The frames of an image. -/
def framesFrom (d : List Byte) : List FrameRec :=
  (List.range 256).filterMap (fun n => (flaconFrame d n).map (FrameRec.ofEntry n))

/-- The trap set of an image. -/
def trapsFrom (d : List Byte) : List Nat := (List.range 256).filter (bit (rd (flaconPart d 7) 0 32))

/-! ## Cells (R178) -/

/-- The nonzero bytes of a part of a record, as entries of a bank from key `lo`. -/
def bankEntries (l : List Byte) (lo : Nat) : Assoc Byte := (l.zip (List.range l.length)).filterMap (fun q => if q.1 = 0 then none else some (lo + q.2, q.1))

/-- A bank's contents replaced. -/
def Cell.fillBank (c : Cell) (k : Nat) (l : List Byte) : Cell :=
  { c with bytes := c.bytes.filter (fun q => decide (q.1 < 65536 * k)) ++ bankEntries (l.take 65536) (65536 * k) ++
             c.bytes.filter (fun q => decide (65536 * (k + 1) ≤ q.1)) }

/-- A tile-table entry from its 128 bits, state included (R204). No transfer is under way at the cut (R173), so that a FILLING or
DRAINING tile is one that TSET left so. -/
def Tile.restored (v : Nat) : Tile :=
  let st := if bits v 127 126 = 1 then TileState.filling else if bits v 127 126 = 2 then .ready else if bits v 127 126 = 3 then .draining else .empty
  { Tile.ofWord v with st := st, opened := st = .filling || st = .draining, rowsIn := BitVec.ofNat 11 (bits v 42 32), otag := BitVec.ofNat 32 v }

/-- A cell of a region made from its record: banks, windows, tiles, array, registers and generator. -/
def Cell.restore (c : Cell) (r : Region) (seed : Dword) (rx ry : Nat) (e : List Byte) : Cell :=
  let owned := (List.range 4).filter (fun k => bit (rd e 7 1) k)
  let mode := fun (k : Nat) => match bits (rd e 18 1) (2 * k + 1) (2 * k) with
    | 0 => BankMode.scratchpad
    | 1 => .cache
    | 2 => .fifo
    | _ => .compute
  let c := owned.foldl (fun c k => c.claimBank k (mode k) (bit (rd e 19 1) (k / 2)) r seed) c
  let c := (c.putWindows r rx ry).configure r rx ry true
  let c := (owned.zip (List.range 4)).foldl (fun c q => c.fillBank q.1 ((e.drop (144 + 4096 + 512 + 32768 + 65536 * q.2)).take 65536)) c
  let c := owned.foldl (fun c k =>
    let v := rd e (128 + 4 * k) 4
    c.updBank k (fun b => { b with fifoHead := bits v 9 0, fifoCount := bits v 20 10 })) c
  let given := (r.image.cellAt rx ry).tiles.map Prod.fst
  let c := (List.range 32).foldl (fun c j =>
    let v := rd e (144 + 4096 + 16 * j) 16
    if v = 0 && !given.contains j then c
    else c.updTile j (fun _ => { Tile.restored v with tdef := !given.contains j })) c
  let c := if r.image.arrayAt rx ry then
      { c with acc := (List.range 2048).foldl (fun (m : Assoc AccEntry) n =>
          let o := 144 + 4096 + 512 + 16 * n
          put {} n { s := BitVec.ofNat 56 (rd e o 8), e := BitVec.ofNat 10 (rd e (o + 8) 2) } m) [] }
    else c
  let c := (List.range 16).foldl (fun c i =>
    let o := rd e (96 + 2 * i) 2
    if !bit o 15 then c else
    match c.takeSlot r.id (o % 256) with
    | none => c
    | some (k, c) => (List.range 32).foldl (fun c h =>
        if bit (rd e (32 + 4 * i) 4) h then c.setHold k h { st := .full, val := BitVec.ofNat 64 (rd e (144 + 8 * (32 * i + h)) 8) } else c) c) c
  { c with rng := put 0 r.id (BitVec.ofNat 32 (rd e 8 4)) c.rng }

/-! ## Saved tokens (R179) -/

/-- An arc token restored to its slot: its entry in the cell, and its producer's credit taken (R192, R193); the port core of an
activation stream has paid its own already (R151). -/
def State.restoreArc (s : State) (r : Region) (x y rwin a : Nat) (t : Saved) (spill : Bool) : State :=
  let k := cellKey r.die x y
  match (s.cell k).findWin r.id rwin with
  | none => s
  | some (w, _) =>
    let i := s.fedBy r.id k w a (s.inArc k w a)
    let (id, s) := s.newId
    let tok : Tok := { id := id, region := r.id, sx := i.px, sy := i.py, x := x, y := y, dest := .arc rwin a, tag := t.tag, val := t.val,
                       kind := .arc, note := t.note, pool := .arc, pwin := i.pwin, parc := i.parc }
    let pay := fun (s : State) (n : Nat) => if 80 ≤ i.px then s else
      match (s.cell (cellKey r.die i.px i.py)).findWin r.id i.pwin with
      | none => s
      | some (pw, _) => s.updOut (cellKey r.die i.px i.py) pw i.parc (fun o => { o with cred := o.cred - n })
    if spill then (s.updIn k w a (fun i => { i with extended := true })).appendSpill k w a tok
    else
      match i.fifo with
      | some b => pay ((s.updCell k (fun c => c.ringPut b w a tok)).updIn k w a (fun i => { i with ring := i.ring ++ [id] })) (ringNeed (meshLen t.val))
      | none =>
        pay ((s.updIn k w a (fun i => { i with occupied := i.occupied + 1 })).updCell k (fun c => { c with queue := c.queue ++ [tok] })) 1

/-- A saved token of a cell entered (R179, R181). -/
def State.restoreTok (s : State) (r : Region) (x y : Nat) (t : Saved) : State :=
  let k := cellKey r.die x y
  match t.dest with
  | .arc rwin a => s.restoreArc r x y rwin a t false
  | .slot rwin sl p =>
    match (s.cell k).findWin r.id rwin with
    | none => s
    | some (w, _) =>
      if t.kind = 1 || t.kind = 6 then
        match s.takeEntry k r.id with
        | none => s
        | some (pool, s) =>
          let (id, s) := s.newId
          let tok : Tok := { id := id, region := r.id, sx := x, sy := y, x := x, y := y, dest := t.dest, tag := t.tag, val := t.val,
                             kind := if t.kind = 6 then .response else .operand, note := t.note, pool := pool }
          s.updCell k (fun c => { c with queue := c.queue ++ [tok] })
      else s.matchToken k w sl p t.tag t.val

/-- The tokens of a cell record entered: waiting accords first, then the matching store, then the rest in their order. -/
def State.restoreToks (s : State) (r : Region) (e : List Byte) : State :=
  let l := cellTokens e
  let of := fun (p : Nat → Bool) => l.filter (fun t => p t.tok.kind)
  (of (· = 5) ++ of (· = 0) ++ of (fun k => k ≠ 5 && k ≠ 0)).foldl (fun s t =>
    s.restoreTok r (r.x0 + t.x) (r.y0 + t.y) t.tok) s

/-- The ring entries that the image shows in use, taken from their producers' credit (R193). -/
def State.restoreRings (s : State) (r : Region) : State :=
  (s.arcsInOrder r).foldl (fun s q =>
    let i := q.2.2.2
    match i.fifo with
    | none => s
    | some b =>
      let c := s.cell (cellKey r.die q.1.1 q.1.2)
      let n := (c.bank b).fifoCount
      let s := s.updIn (cellKey r.die q.1.1 q.1.2) q.2.1 q.2.2.1 (fun i => { i with ring := List.replicate (c.fifoTokens b).length 0 })
      match (s.cell (cellKey r.die i.px i.py)).findWin r.id i.pwin with
      | none => s
      | some (pw, _) => s.updOut (cellKey r.die i.px i.py) pw i.parc (fun o => { o with cred := o.cred - n })) s

/-! ## SPILL and PARK (R177) -/

/-- The spill queues of an image restored. -/
def State.restoreSpill (s : State) (r : Region) (d : List Byte) : State :=
  let groups := spillGroups 8 (flaconPart d 4)
  (groups.zip (List.range groups.length)).foldl (fun s q =>
    let g := q.1
    let x := r.x0 + bits g.1 31 25
    let y := r.y0 + bits g.1 24 19
    let a := bits g.1 13 8
    let k := cellKey r.die x y
    let s := match (s.cell k).findWin r.id (bits g.1 18 16) with
      | some (w, _) => s.updIn k w a (fun i => { i with extended := true, area := q.2 })
      | none => s
    g.2.foldl (fun s t => s.restoreArc r x y (bits g.1 18 16) a t.tok true) s) s

/-- Parked entries as items: consecutive operands of one slot and tag, no port twice, are one trap accord. -/
def parkedItems (r : Region) (l : List Kept) : List Parked :=
  l.foldl (fun items t =>
    let x := r.x0 + t.x
    let y := r.y0 + t.y
    let tok : Tok := { region := r.id, sx := x, sy := y, x := x, y := y, dest := t.tok.dest, tag := t.tok.tag, val := t.tok.val, note := t.tok.note }
    match t.tok.kind, t.tok.dest with
    | 5, .slot w sl p =>
      let new := Parked.accord { die := r.die, x := x, y := y, region := r.id, rwin := w, acc := ({ slot := sl, tag := t.tok.tag } : Accord).fill p t.tok.val }
      match items.getLast? with
      | some (.accord f) =>
        if f.x = x && f.y = y && f.rwin = w && f.acc.slot = sl && f.acc.tag = t.tok.tag && (f.acc.port p).isNone then
          items.dropLast ++ [.accord { f with acc := f.acc.fill p t.tok.val }]
        else items ++ [new]
      | _ => items ++ [new]
    | _, _ => items ++ [.token tok]) []

/-- The position of a shape whose element lies at an offset, one dimension after the other from the last (R216). -/
def positionAt : List Dim → Int → Nat
  | dims, off =>
    (dims.reverse.foldl (fun (q : Int × Nat × List Dim) d =>
      let low := q.2.2.drop 1
      let lo := low.foldl (fun (a : Int) e => a + min 0 (((e.ext.toNat : Int) - 1) * e.stride.toInt)) 0
      let st := d.stride.toInt
      let hi := low.foldl (fun (a : Int) e => a + max 0 (((e.ext.toNat : Int) - 1) * e.stride.toInt)) 0
      let i : Int := if st = 0 then 0 else if 0 < st then (q.1 - lo) / st else (hi - q.1) / (-st)
      let i := max 0 (min i ((d.ext.toNat : Int) - 1))
      (q.1 - i * st, q.2.1 * d.span + (i.toNat + d.padb.toNat), low)) (off, 0, dims.reverse)).2.1

/-- The held stores behind the parked entries, up to `n` of them, as accesses held at their port cores. -/
def State.restoreStores (s : State) (r : Region) : Nat → List Byte → State
  | 0, _ => s
  | n + 1, d =>
    if d.length < 32 || rd d 16 1 = 0 then s
    else
      let size := rd d 16 1
      let s := match r.binding? (rd d 17 1) with
        | none => s
        | some b =>
          let h := s.shapeOf r b
          let off : Int := (((rd d 8 8 : Nat) : Int) - (h.base.toNat : Int)) * 8 / (max 1 h.width : Nat)
          let (id, s) := s.newId
          let f : Firing :=
            { die := r.die, x := r.x0 + b.ix, y := r.y0 + b.iy, region := r.id, rwin := b.iwin,
              acc := { tag := BitVec.ofNat 32 (rd d 0 4) } }
          let a : Access :=
            { id := id, port := b.p, core := 80 * r.die + b.core, op := .st (rd d 32 size),
              pos := positionAt (h.dims.take h.ndim) off, wseq := some (rd d 4 4), phase := .held, firing := f }
          { s with accesses := s.accesses ++ [a] }
      s.restoreStores r n (d.drop (32 + 8 * ceilDiv size 8))

/-- The park area of an image restored. -/
def State.restorePark (s : State) (r : Region) (d : List Byte) : State :=
  let sec := flaconPart d 3
  let q := parkedFrom sec.length sec
  ((s.updRegion r.id (fun r => { r with park := parkedItems r q.1 })).rewritePark r.id).restoreStores r (q.2.length / 32) q.2

/-! ## PLACE (R177) -/

/-- The actors of an image with the replicas, buckets and moves that a PLACE section gives the elastic ones. -/
def placeActors (r : Region) : List Actor → List Byte → List Actor
  | [], _ => []
  | a :: t, d =>
    if !a.cfg.elastic then a :: placeActors r t d
    else
      let n := rd d 2 1
      let m := 2 ^ a.cfg.blog
      let at_ := fun (i : Nat) => let v := rd d (8 + 2 * i) 2; (r.x0 + v / 64, r.y0 + v % 64)
      let o := 8 + 2 * n + m
      let moves := rd d o 4
      let ms := (List.range (min moves m)).map (fun i =>
        ({ bucket := rd d (o + 4 + 4 * i) 1, src := rd d (o + 5 + 4 * i) 1, dst := rd d (o + 6 + 4 * i) 1, step := rd d (o + 7 + 4 * i) 1 } : Move))
      let owners := ms.foldl (fun (l : List Nat) q => l.set q.bucket q.dst) ((List.range m).map (fun i => rd d (8 + 2 * n + i) 1))
      { a with
        replicas := (List.range n).map at_, buckets := (List.range m).map (fun i => rd d (8 + 2 * n + i) 1), moves := ms
        leaving := (List.range n).filter (fun i => ms.any (fun q => q.src = i) && !owners.contains i) } ::
        placeActors r t (d.drop (o + 4 + 4 * moves))

/-- The windows of an actor's replicas: clones take replica 0's, and a cell of the image that is no replica has none (R121, R122). -/
def State.restoreReplicas (s : State) (r : Region) (a : Actor) : State :=
  if !a.cfg.elastic then s else
  let q := a.replicas.headD (r.x0, r.y0)
  let z := s.cell (cellKey r.die q.1 q.2)
  let z := if a.placed.contains q then z else
    match a.placed with
    | p :: _ => s.cell (cellKey r.die p.1 p.2)
    | [] => z
  let ws := (List.range 8).filter (fun w => bit a.cfg.wins w)
  let s := (a.replicas.zip (List.range a.replicas.length)).foldl (fun s p =>
    s.updCell (cellKey r.die p.1.1 p.1.2) (fun c => ws.foldl (fun c w =>
      match c.findWin r.id w, z.findWin r.id w with
      | some (k, win), some (_, src) =>
        { c with windows := put {} k (if a.placed.contains p.1 then { win with replica := p.2 } else src.cloned p.2) c.windows }
      | _, _ => c) c)) s
  (a.placed.filter (fun p => !a.replicas.contains p)).foldl (fun s p =>
    s.updCell (cellKey r.die p.1 p.2) (fun c => ws.foldl (fun c w =>
      match c.findWin r.id w with
      | some (k, _) => { c with windows := put {} k { region := r.id, rwin := w } c.windows }
      | none => c) c)) s

/-- The placement of an image restored. -/
def State.restorePlaces (s : State) (r : Region) (d : List Byte) : State :=
  let l := placeActors r r.actors (flaconPart d 5)
  let used := l.flatMap (fun a => if a.cfg.elastic then a.replicas else [])
  let s := s.updRegion r.id (fun r => { r with actors := l, pool := r.pool.filter (fun p => !used.contains p) })
  l.foldl (fun s a => s.restoreReplicas r a) s

/-! ## PORTS (R177, R181) -/

/-- n_p of a binding: that of the block whose instructions use it (R377). -/
def Image.ranksOf (img : Image) (p : Nat) : Nat :=
  maxOf (img.cells.flatMap (fun c => c.blocks.map (fun b => (rankSeqs b.words p).length)))

/-- NEXTW from its low 16 bits: the greatest value that the frame can have reached. -/
def fullWave (low limit : Nat) : Nat :=
  let v := limit / 65536 * 65536 + low
  if v ≤ limit then v else v - 65536

/-- The round of a binding's AGN and its pending overwrite restored. -/
def State.restoreAgn (s : State) (r : Region) (b : Binding) (e : List Byte) : State :=
  let tag : Tag := BitVec.ofNat 32 (rd e 4 4)
  let idx := (List.range 9).map (fun i => rd e (8 + 4 * i) 4)
  let pending := if bit (rd e 52 1) 0 then some (BitVec.ofNat 64 (rd e 44 8)) else none
  let s := s.updAgn r b (fun g => { g with pending := pending })
  if tag = 0 && idx.all (· = 0) then s else
  let h := (s.agn r b).shape
  let dims := h.dims.take h.ndim
  let pos := ((dims.zip idx).reverse.foldl (fun (k : Nat) q => k * q.1.span + (signed 32 q.2 + (q.1.padb.toNat : Int)).toNat) 0)
  let trapped := r.trapSet.contains (tagFrm tag)
  let q : Round := match b.mode with
    | .element => { tag := tag, next := pos, total := h.npos, delivered := pos, faulted := trapped }
    | .tile =>
      let t := pos / max 1 (s.tileRows r b * (h.dims.headD {}).span)
      { tag := tag, next := t, total := h.npos, tiles := s.tileCount r b h, delivered := t, faulted := trapped }
    | .conv =>
      let p := idx.getD 1 0
      { tag := tag, next := idx.getD 0 0, total := h.npos, tiles := b.passTiles h p, delivered := idx.getD 0 0, pass := p, faulted := trapped }
  let free (d : BindDest) (i : Nat) : Bool :=
    ((s.cell (cellKey r.die (r.x0 + d.x) (r.y0 + d.y))).tile (d.tile + i)).st = .empty
  let held := (List.range b.nbuf).filter (fun i => b.dests.any (fun d => !free d i))
  let joins := held.foldl (fun (m : Assoc Nat) i => put 0 i ((b.dests.filter (fun d => free d i)).length) m) []
  s.updAgn r b (fun g => { g with round := some q, busyBufs := if h.write then [] else held, joins := if h.write then [] else joins })

/-- A receive stream with the saved SEQ, grant limit and hole bitmap (R177, R181). -/
def RecvStream.saved (t : RecvStream) (cum limit holes : Nat) : RecvStream :=
  let got := (List.range (min 256 (limit - cum))).filterMap (fun i => if bit holes i then none else some (cum + i))
  let held := t.held.filter (fun p => decide (cum ≤ absSeq cum p.seq))
  let seen := got.filter (fun n => !held.any (fun p => absSeq cum p.seq = n))
  let c := advanceCum seen seen.length cum
  { t with cum := c, limit := limit, granted := cum, held := held, seen := seen.filter (fun n => decide (c ≤ n)), fed := [] }

/-- A receive stream reinstated on the region's new die (R181): its entry stands at the port core of the same number, where it was or,
if it is there no more, of its activation stream or of the region's first binding; its source is granted the saved limit from there. -/
def State.restoreStream (s : State) (r : Region) (src stream cum limit holes : Nat) : State :=
  let act := s.acts.find? (fun q => q.src = src && q.stream = stream)
  let live := s.eps.find? (fun e => e.1 / 1024 < 8 && decide (e.1 % 1024 < 80) && (e.2.recv? src stream).isSome)
  let core := match live, act with
    | some (k, _), _ => k % 1024
    | none, some q => bits q.goal 9 0
    | none, none => ((r.image.bindings.head?).map Binding.core).getD 0
  let goal := 1024 * r.die + core
  let limit := absSeq cum limit
  let old : RecvStream := (live.bind (fun e => e.2.recv? src stream)).getD
    { src := src, stream := stream, cls := r.note, ord := true, ctx := r.ctx, win := limit - cum }
  let s := match live with
    | none => s
    | some (k, _) => s.updEp k (fun e => { e with recvs := e.recvs.filter (fun q => !(q.src = src && q.stream = stream)) })
  let t := { old.saved cum limit holes with fed := if act.isSome then [] else [r.id], via := (s.choosePath src stream).getD none }
  let s := s.updEp goal (fun e => { e with recvs := e.recvs ++ [{ t with index := (freeIndex (e.recvs.map (fun q => q.index))).getD t.index }] })
  let s := match act with
    | none => s
    | some q => s.updAct q.id (fun q => { q with goal := s.epAddr goal })
  s.sendPkt goal src { kind := 1, cls := t.cls.code, ord := t.ord, ctx := t.ctx, stream := stream, seq := limit % 2 ^ 24 }

/-- The bindings, waves and streams of an image restored. -/
def State.restorePorts (s : State) (r : Region) (d : List Byte) : State :=
  let sec := flaconPart d 6
  let n := r.image.bindings.length
  let waves := r.frames.length * r.image.waveBindings
  let s := (r.image.bindings.zip (List.range n)).foldl (fun s q => s.restoreAgn r q.1 ((sec.drop (64 * q.2)).take 64)) s
  let s := r.frames.foldl (fun s f => s.openWaves r f.frm) s
  let s := (List.range waves).foldl (fun s i =>
    let o := 64 * n + 8 * i
    let frm := bits (rd sec o 4) 21 14
    let p := rd sec (o + 6) 1
    match r.binding? p, r.frame? frm with
    | some b, some f =>
      let v := fullWave (rd sec (o + 4) 2) ((4096 * f.wraps + (if f.next = 0 then 4096 else f.next.toNat)) * r.image.ranksOf p)
      s.updPort (80 * r.die + b.core) (fun c => { c with
        waves := changeFirst (fun w => w.region = r.id && w.frm = frm && w.port = p) (fun w => { w with nextw := BitVec.ofNat 32 v }) c.waves })
    | _, _ => s) s
  let o := 64 * n + 8 * waves
  (List.range ((sec.length - o) / 64)).foldl (fun s i => let q := o + 64 * i
    s.restoreStream r (rd sec q 3) (rd sec (q + 3) 2) (rd sec (q + 5) 3) (rd sec (q + 8) 3) (rd sec (q + 12) 32)) s

/-! ## The restore (R180, R181) -/

/-- HUB_RESTORE_CTL's BUSY 0, with REFUSED. -/
def State.restoreResult (s : State) (refused : Bool) : State :=
  { s with hub := { s.hub with restore := { s.hub.restore with busy := false, refused := refused } } }

/-- A restore refused: CFG_FLACON with its reason (R157, R181). -/
def State.refuseRestore (s : State) (ctx va reason : Nat) : State :=
  (s.putFault { cls := .cfgFlacon, ctx := ctx, loc := whereD 8, cycle := s.hub.cycles, bodyA := reason + va % 2 ^ 64 * 2 ^ 32 }).restoreResult true

/-- The region of a restore placed at a corner and made from its image (R181). -/
def State.placeRestore (s : State) (w : Waiting) (d : List Byte) (die x0 y0 : Nat) : State :=
  let s := s.unwait w
  if s.groupTaken die w.ctx w.image then s.refuseRestore w.ctx (s.hub.restore.img.toNat / 64 * 64) 4
  else
    let (id, s) := s.newId
    let r : Region := {
      id := id, die := die, x0 := x0, y0 := y0, w := w.image.width, h := w.image.height, ctx := w.ctx, imageVa := w.cfgVa, image := w.image,
      imageBytes := w.imageBytes, chain := 0, ordinal := w.ordinal, note := w.note, hndl := w.hndl, disp := w.disp,
      frame := w.frame, ql := w.ql, margin := w.image.margin, hang := if w.image.hang = 0 then 2 ^ 20 else w.image.hang.toNat,
      quota := w.image.quota, frames := framesFrom d, trapSet := trapsFrom d }
    let r := { r with actors := r.actorsOf, pool := s.poolOf r }
    let s := { s with regions := s.regions ++ [r], hub := { s.hub with lastDie := die } }
    let cells := flaconCells d
    let s := cells.foldl (fun s e =>
      s.updCell (cellKey die (x0 + rd e 4 1) (y0 + rd e 5 1)) (fun c => c.restore r (s.bankSeed r.ctx) (rd e 4 1) (rd e 5 1) e)) s
    let s := (((s.bindAgns r).joinGroups r).restorePlaces r d).restoreRings r
    let s := (s.restorePorts (s.region id) d).restoreSpill r d
    let s := cells.foldl (fun s e => s.restoreToks (s.region id) e) s
    let s := s.restorePark (s.region id) d
    let s := if w.hndl = 0 then s else (s.vaWrite w.ctx w.hndl (toBytes 8 r.handle)).1
    let s := r.frames.foldl (fun s f => s.sendMarkers id f.frm) s
    s.restoreResult false

/-- RESTORE (R180, R181): the restore that HUB_RESTORE_CTL asks: the image checked, and put before the module scheduler. -/
def execRestore (s : State) : Result :=
  let q := s.hub.restore
  let va := q.img.toNat / 64 * 64
  let ctx := q.ctx.toNat
  let t := s.readFlacon va ctx
  match t.1 with
  | .error reason => .next (t.2.refuseRestore ctx va reason)
  | .ok (d, img) =>
    let s := t.2
    let ordinal := rd d 0x18 8
    let w : Waiting := {
      ctx := ctx, ordinal := ordinal, note := Note.ofCode (rd d 7 1),
      stamp := (((s.chain ctx 0).rcd? ordinal).map (fun r => r.stamp)).getD s.hub.cycles.toNat,
      dieMask := q.dieMask.toNat, image := img, imageBytes := flaconPart d 0, disp := bit (rd d 0x0D 1) 0, ql := rd d 0x0C 1 % 8,
      frame := BitVec.ofNat 64 (rd d 0x10 8), cfgVa := va + (flaconSection d 0).1, hndl := rd d 0x20 8, flacon := some d }
    .next ({ s with hub := { s.hub with waiting := s.hub.waiting ++ [w], restore := { q with busy := true, refused := false } } }.placeWaiting)

/-- The first restore, in the walk's order, that has a place (R112). -/
def State.restorePlace (s : State) : List Waiting → List Waiting → Option (Waiting × List Byte × Nat × Nat × Nat)
  | [], _ => none
  | w :: t, aged =>
    match w.flacon, s.findPlace w.ask (openDies w aged) with
    | some d, some q => some (w, d, q)
    | _, _ =>
      let lim := s.hub.ageLim.toNat
      s.restorePlace t (if 0 < lim && lim ≤ w.intervals then aged ++ [w] else aged)

/-- RESTORE_PLACEMENT (R112, R181): the first waiting restore that fits is placed; the walk goes on. -/
def execRestorePlacement (s : State) : Result :=
  match s.restorePlace (sortBy waitsBefore s.hub.waiting) [] with
  | none => .next s
  | some (w, d, q) => .next ((s.placeRestore w d q.1 q.2.1 q.2.2).placeWaiting)

end Sys2Proof.Machine
end

