-- ==== Sys2Proof/Machine/Power.lean ====
section
/-!
DEFINITION. Resets and bring-up (R17 to R19, R86, R87), dies lost (R15, R155), the power governor (R10 to R13, R16), the
thermal limits (R15) and the emergency hold (R20).
-/

namespace Sys2Proof.Machine

/-! ## A die's state lost (R15, R19) -/

/-- The temperature below which a die reset is released: 90 °C in units of 0.125 °C (R16, R19). -/
def coolLimit : Nat := 720

/-- The band of a junction temperature (R15): 0 below 100 °C, 1 below 110 °C, 2 below 115 °C, 3 from there. -/
def bandOf (temp : Nat) : Nat := if temp < 800 then 0 else if temp < 880 then 1 else if temp < 920 then 2 else 3

/-- The caches of the dies that `p` names lost, with what they alone held: memory has what it had before (R15, R166). -/
def State.dropCaches (s : State) (p : Nat → Bool) : State :=
  { s with caches := s.caches.filter (fun c => !p (holderDie c.holder)), acks := s.acks.filter (fun a => !p a.die) }

/-- A die's caches lost: the owner of each dirty line that they held receives DATA_LOST (R237). -/
def State.loseCaches (s : State) (d : Nat) : State :=
  (s.caches.filter (fun c => c.dirty && holderDie c.holder = d)).foldl State.dataLost (s.dropCaches (fun k => k = d))

/-- A region lost with its die (R15): its record, and its LAUNCH record completed as that of a discarded region (log 28). -/
def State.loseRegion (s : State) (r : Region) : State :=
  let s := s.putFault { cls := .dieLost, ctx := r.ctx, loc := whereD r.die, bodyB := r.handle, cycle := s.hub.cycles }
  let s := (s.withdrawQueue (fun f => f.region = r.id)).2
  s.endLaunch r 0x8005

/-- A fabric die's registers and units after it has lost its state, with the sensors' reading kept. -/
def Die.lost (d : Die) (tripped : Bool) : Die :=
  { pwr := { tripped := d.pwr.tripped || tripped, temp := d.pwr.temp }, band := d.band }

/-- A die's state lost (R15, R19): every region on it, its cells, port cores, network and caches; the hub raises the event
0x0002 (R89). -/
def State.loseDie (s : State) (d : Nat) (tripped : Bool) : State :=
  let status := (s.die d).pwr.word
  let s := { s with hub := { s.hub with dieOk := s.hub.dieOk &&& ~~~(BitVec.ofNat 8 (2 ^ d)) } }
  let s := (s.regions.filter (fun r => r.die = d)).foldl (fun s r => s.loseRegion r) s
  let s := s.loseCaches d
  let s := { s with
    dies := upd {} d (fun q => q.lost tripped) s.dies
    cells := s.cells.filter (fun c => c.1 / 3200 ≠ d)
    ports := s.ports.filter (fun c => c.1 / 80 ≠ d)
    outs := s.outs.filter (fun q => q.1 / 3072 ≠ d)
    ins := s.ins.filter (fun q => q.1 / 3072 ≠ d)
    swErr := s.swErr.filter (fun q => q.1 / 24 ≠ d)
    eps := (s.eps.filter (fun (q : Nat × Endpoint) => q.1 / 1024 ≠ d)).map (fun (q : Nat × Endpoint) => (q.1, { q.2 with
      sends := q.2.sends.filter (fun (t : SendStream) => !(t.owner = StreamOwner.release && bits t.dst 13 10 = d)) }))
    hub := { s.hub with
      walks := s.hub.walks.filter (fun w => w.die ≠ d)
      walkWait := s.hub.walkWait.filter (fun w => w.die ≠ d)
      ats := s.hub.ats.filter (fun a => a.walk.die ≠ d) }
    rel := { s.rel with tokens := put [] d [] s.rel.tokens } }
  s.event 0x0002 d status

/-! ## Phases 5 and 6 of one die (R19) -/

/-- The port cores that the defect map disables on a die (R17). -/
def State.offPorts (s : State) (d : Nat) : State :=
  (s.flash.map.entries.filter (fun e => e.kind = 3 && e.die = d && decide (e.x < 80))).foldl
    (fun s e => s.updPort (80 * d + e.x) (fun c => { c with off := true })) s

/-- A failure code of bring-up (R19). ERR keeps the code of the last failure: DESIGN CHOICE (log 52), the spec does not say which of
several it holds. -/
def State.bootErr (s : State) (err : Nat) (stops : Bool) : State :=
  { s with hub := { s.hub with err := BitVec.ofNat 4 err, halted := s.hub.halted || stops } }

/-- Whether phase 5 raises a die (R18, R19). -/
def State.dieStarts (s : State) (d : Nat) : Bool := bit s.flash.enabled.toNat d && !bit s.flash.dieFail.toNat d

/-- A die's rail raised, its GDDR7 trained, and its banks and caches cleared (R19, phase 5). -/
def State.raiseDie (s : State) (d : Nat) : State :=
  if s.dieStarts d then
    { s with hub := { s.hub with dieOk := s.hub.dieOk ||| BitVec.ofNat 8 (2 ^ d) }
             cells := s.cells.filter (fun c => c.1 / 3200 ≠ d) }
  else if bit s.flash.enabled.toNat d then s.bootErr 5 false
  else s

/-- Phases 5 and 6 run for one die, which ends its reset (R19). The homes of lines stay as bring-up left them (R237). -/
def State.finishDieReset (s : State) (d : Nat) : State :=
  let s := { s with hub := { s.hub with dieBusy := s.hub.dieBusy &&& ~~~(BitVec.ofNat 8 (2 ^ d)), phase := 5 } }
  let s := s.raiseDie d
  if !s.dieUp d then s
  else
    let s := { s with hub := { s.hub with phase := 6 } }
    if !s.flash.network then s.bootErr 6 false
    else
      (s.offPorts d).updDie d (fun q => { q with pwr := { q.pwr with tripped := false } })

/-- DIE_RESET (R19, R74): die `die` loses its state; phases 5 and 6 run for it at once where its sensors read below 90 °C, and
otherwise the reset is held. -/
def execDieReset (s : State) : Result :=
  let d := s.sch.args.die
  if 8 ≤ d || !s.hub.ready then .next s else
  let s := if s.dieUp d then s.loseDie d false else s
  let s := { s with hub := { s.hub with dieBusy := s.hub.dieBusy ||| BitVec.ofNat 8 (2 ^ d) } }
  .next (if (s.die d).pwr.temp.toNat < coolLimit then s.finishDieReset d else s)

/-- DIE_RESET_RELEASE (R19): the sensors of die `die`, whose reset is held, read `temp` below 90 °C, and phases 5 and 6 run. -/
def execDieResetRelease (s : State) : Result :=
  let a := s.sch.args
  if 8 ≤ a.die || !bit s.hub.dieBusy.toNat a.die || coolLimit ≤ a.temp then .next s else
  .next ((s.updDie a.die (fun q => { q with pwr := { q.pwr with temp := BitVec.ofNat 11 a.temp }, band := bandOf a.temp })).finishDieReset a.die)

/-! ## Cold reset and module reset (R19) -/

/-- The module with every register at its reset value and phase 0 reached; the key slots, the PUF identity and the hold are
kept by a module reset (log 28). -/
def State.restart (s : State) (kind : ResetKind) : State :=
  let s := s.dropCaches (fun _ => true)
  let cold := kind = .cold
  { sch := s.sch, flash := s.flash, mem := s.mem, lineOwner := s.lineOwner, hostMem := s.hostMem
    hub := { kind := kind, puf := s.hub.puf && !cold, hold := s.hub.hold && !cold,
             sideband := s.hub.sideband, keys := if cold then [] else s.hub.keys, keyDraws := s.hub.keyDraws, atomicOps := s.hub.atomicOps,
             intervals := s.hub.intervals } }

/-- The whole module into cold reset (R15, R19): every region's owner receives DIE_LOST before its die goes. -/
def State.coldReset (s : State) : State :=
  (s.regions.foldl (fun s r =>
    s.putFault { cls := .dieLost, ctx := r.ctx, loc := whereD r.die, bodyB := r.handle, cycle := s.hub.cycles }) s).restart .cold

/-- COLD_RESET (R19, R75): with `flag` power-on, after which device memory is arbitrary; otherwise the trip of a hub sensor. -/
def execColdReset (s : State) : Result :=
  .next (if s.sch.args.flag then { (s.restart .cold) with mem := [], lineOwner := [] } else s.coldReset)

/-- MODULE_RESET (R19): a write of 1 to HUB_RESET.MODULE, or a PCIe conventional reset. -/
def execModuleReset (s : State) : Result := .next (s.restart .moduleReset)

/-- Whether a key is the vendor's (R17, R87): the SHAKE256 digest of the key equals the one in ROM. -/
def Flash.vendor (f : Flash) (key : List Byte) : Bool := shake256 key = f.rom

/-- Whether the image in a stage's place is accepted (R87). -/
def Flash.imageOk (f : Flash) (stage : Nat) : Bool :=
  match f.stages[stage - 1]? with
  | none => false
  | some i => f.vendor i.key && i.signed && shake256 (i.body.take i.length) = i.digest && i.magic = 0x57464C53 && i.stage = stage &&
      i.reserved = 0 && i.padding = 0

/-- Whether the firmware chain is accepted (R87): stage 1 by the boot ROM, then stages 2 and 3 by stage 1. -/
def Flash.firmwareOk (f : Flash) : Bool := f.imageOk 1 && f.imageOk 2 && f.imageOk 3

/-- Whether an entry of the defect map is well formed (R17). -/
def Defect.ok (e : Defect) : Bool := decide (1 ≤ e.kind) && decide (e.kind ≤ 6) && e.reserved = 0

/-- Whether the defect map is valid (R17). -/
def Flash.mapValid (f : Flash) : Bool :=
  f.map.magic = 0x4D444C53 && f.map.version = 1 && f.map.reserved = 0 && f.map.entries.all Defect.ok && f.vendor f.map.key && f.map.signed

/-- The next phase of a bring-up: a module reset leaves phase 1 out (R19). -/
def Hub.nextPhase (h : Hub) : Nat := if h.kind = .moduleReset && h.phase.toNat = 0 then 2 else h.phase.toNat + 1

/-- Whether bring-up has a phase to run (R19). -/
def Hub.bringing (h : Hub) : Bool := !h.ready && !h.halted && decide (h.phase.toNat < 7)

/-- The link ports' training begun, each with the event of its change of STATE (R54, R55, R89): a port that is disabled, or
port 17 as the release engine's Ethernet port (R66), stays DOWN. -/
def State.trainLinks (s : State) : State :=
  ((List.range 18).filter s.trains).foldl (fun s p =>
    let s := { s with links := put ({} : Link) p { st := .training } s.links }
    s.event 0x0003 p (s.lnkStatus p)) { s with links := [] }

/-- One phase of bring-up run (R19). -/
def State.runPhase (s : State) (n : Nat) : State :=
  if n = 2 then
    let s := if s.hub.kind = .cold then { s with hub := { s.hub with puf := s.flash.puf } } else s
    if s.hub.puf then s else s.bootErr 1 true
  else if n = 3 then (if s.flash.firmwareOk then s else s.bootErr 2 true)
  else if n = 4 then
    if !s.flash.mapValid then s.bootErr 3 true
    else if !s.flash.lpddr then s.bootErr 4 true
    else s
  else if n = 5 then (List.range 8).foldl (fun s d => s.raiseDie d) s
  else if n = 6 then
    if !s.flash.network then s.bootErr 6 true
    else
      let s := (List.range 8).foldl (fun s d => if s.dieUp d then s.offPorts d else s) s
      { s with hub := { s.hub with homes := s.hub.dieOk } }
  else if n = 7 then
    let s := s.trainLinks
    if !s.flash.hostLink then s.bootErr 7 true else { s with hub := { s.hub with ready := true } }
  else s

/-- BRINGUP_PHASE (R17, R18, R19, R87): the next phase starts, and succeeds or records its ERR code. -/
def execBringupPhase (s : State) : Result :=
  if !s.hub.bringing then .next s else
  let n := s.hub.nextPhase
  .next (({ s with hub := { s.hub with phase := BitVec.ofNat 4 n } }).runPhase n)

/-! ## Steps of the fabric clock (R10, R13) -/

/-- A die's fabric clock set to a step, with THROTTLE (R10): a change of step is a transition, of which a die makes one in an
interval. -/
def Die.setStep (d : Die) (step : Nat) (throttle : Bool) : Die :=
  if d.pwr.step.toNat = step then { d with pwr := { d.pwr with throttle := throttle } }
  else if d.moved then d
  else { d with pwr := { d.pwr with step := BitVec.ofNat 3 step, throttle := throttle }, transition := true, moved := true }

/-- STEP_TRANSITION_END (R10): the transition of die `die` ends, and its cells fire again. -/
def execStepTransitionEnd (s : State) : Result :=
  let d := s.sch.args.die
  .next (if d < 8 then s.updDie d (fun q => { q with transition := false }) else s)

/-- R13's act at the start of an interval, on the meter in millijoules over the interval before and its budget in watts:
65,536 cycles of 2.0 GHz make a watt 32,768 nJ. -/
def Die.enforce (d : Die) (meter : Nat) : Die :=
  let used := meter * 1000000
  let allowed := d.pwr.budget.toNat * 32768
  let step := d.pwr.step.toNat
  if allowed < used then (if step < 7 then d.setStep (step + 1) false else d.setStep 7 true)
  else if d.pwr.throttle then d.setStep 7 false
  else if used * 10 < allowed * 9 then (if 0 < step then d.setStep (step - 1) false else d)
  else d

/-! ## The governor (R12, R13, R15, R20) -/

/-- Whether a die is live (R12). -/
def State.live (s : State) (d : Nat) : Bool :=
  s.dieUp d && !(s.die d).pwr.tripped && !bit s.hub.dieBusy.toNat d

/-- Power divided in proportion to demand with a floor of 150 W (R12). DESIGN CHOICE (log 52), the spec gives no procedure: the dies
whose share falls below the floor take it, and the rest divide what is left again; where the total demand is 0 the shares are equal;
shares are rounded down to whole watts. -/
def divide : Nat → Nat → List (Nat × Nat) → List (Nat × Nat)
  | 0, avail, ds => ds.map (fun q => (q.1, avail / max 1 ds.length))
  | n + 1, avail, ds =>
    let total := sumOf (ds.map Prod.snd)
    let share := fun (q : Nat × Nat) => if total = 0 then avail / max 1 ds.length else avail * q.2 / total
    let low := ds.filter (fun q => share q < 150)
    if low.isEmpty then ds.map (fun q => (q.1, share q))
    else low.map (fun q => (q.1, 150)) ++ divide n (avail - 150 * low.length) (ds.filter (fun q => !decide (share q < 150)))

/-- The budgets of the live dies (R12): an equal share for each where 150 W each exceeds what there is, and for a die's first
interval. DESIGN CHOICE (log 52): the equal shares of dies in their first interval are taken off before the others divide, and every
share is rounded down to whole watts. -/
def budgets (avail : Nat) (ds : List (Nat × Option Nat)) : List (Nat × Nat) :=
  let n := max 1 ds.length
  if avail < 150 * ds.length then ds.map (fun q => (q.1, avail / n))
  else
    let fresh := (ds.filter (fun q => q.2.isNone)).map (fun q => (q.1, avail / n))
    fresh ++ divide 8 (avail - sumOf (fresh.map Prod.snd)) (ds.filterMap (fun q => q.2.map (fun v => (q.1, v))))

/-- GOVERNOR_INTERVAL (R12, R13, R15, R20): an interval ends. Each live die acts on its meter and its budget, under the hold of
its band or of HUB_HOLD; then the budgets of the next interval are set, halved for a die in the 100 °C band and rounded down to whole
watts (DESIGN CHOICE, log 52: the spec gives no rounding). Waiting launches age (R112). -/
def execGovernorInterval (s : State) : Result :=
  let n := s.hub.intervals
  let rails := Config.rails n
  let avail := s.hub.cap.toNat - rails
  let live := (List.range 8).filter s.live
  let shares := budgets avail (live.map (fun d => (d, (s.die d).demand.map (fun _ => Config.meter n d))))
  let s := { s with hub := { s.hub with
    intervals := n + 1, rails := rails, waiting := s.hub.waiting.map (fun w => { w with intervals := w.intervals + 1 }) } }
  let s := (List.range 8).foldl (fun (s : State) d =>
    let held := s.hub.hold || (s.die d).band = 2
    s.updDie d (fun q =>
      let q := { q with moved := false }
      if !live.contains d then { q with pwr := { q.pwr with budget := 0 }, demand := none }
      else
        let q := if held then q.setStep 7 true else q.enforce (Config.meter n d)
        let w := ((shares.find? (fun p => p.1 = d)).map Prod.snd).getD 0
        { q with demand := some (Config.meter n d), pwr := { q.pwr with budget := BitVec.ofNat 16 (if q.band = 1 then w / 2 else w) } })) s
  .next s.placeWaiting

/-! ## Thermal limits (R15) -/

/-- A die's thermal trip (R15): its clocks stop, its rail is removed, and its state is lost. -/
def State.tripDie (s : State) (d temp : Nat) : State :=
  let s := s.updDie d (fun q => { q with pwr := { q.pwr with temp := BitVec.ofNat 11 temp }, band := 3 })
  s.loseDie d true

/-- The thermal event of a die (R15), on MSI-X and on the sideband. -/
def State.thermalEvent (s : State) (d temp : Nat) : State :=
  ({ s with hub := { s.hub with sideband := s.hub.sideband ++ [(d, temp)] } }).event 0x0001 d temp

/-- THERMAL_BAND_ENTERED (R15, R16): the hottest sensor of die `die` reads `temp`, which TEMP then gives. Where a live die enters another
band: the hold of STEP 7 and THROTTLE with the thermal event, the halving of the next budgets, or the trip. -/
def execThermalBandEntered (s : State) : Result :=
  let a := s.sch.args
  let b := bandOf a.temp
  if 8 ≤ a.die then .next s
  else if s.live a.die && b = 3 then .next (s.tripDie a.die a.temp)
  else
    let entered := s.live a.die && decide (b ≠ (s.die a.die).band)
    let s := s.updDie a.die (fun q => { q with pwr := { q.pwr with temp := BitVec.ofNat 11 a.temp }, band := b })
    .next (if entered && b = 2 then (s.updDie a.die (fun q => q.setStep 7 true)).thermalEvent a.die a.temp else s)

/-- THERMAL_TRIP (R15): a sensor of die `die` reads `temp`, 115 °C or above; 8 names the hub, whose trip is a cold reset. -/
def execThermalTrip (s : State) : Result :=
  let a := s.sch.args
  if bandOf a.temp < 3 then .next s
  else if a.die = 8 then .next s.coldReset
  else .next (if a.die < 8 && s.dieUp a.die then s.tripDie a.die a.temp else s)

/-! ## The power cap and the emergency hold (R16, R20) -/

/-- CAP as a write leaves it (R16). -/
def clampCap (v : Nat) : BitVec 13 := BitVec.ofNat 13 (min 4200 (max 1500 (v % 8192)))

/-- HUB_PWR_CAP written (R16). -/
def State.writeCap (s : State) (v : Nat) : State := { s with hub := { s.hub with cap := clampCap v } }

/-- Whether the security processor has booted, from when on the sideband serves (R20): after phase 1 of the last cold reset. -/
def Hub.served (h : Hub) : Bool := h.kind = .moduleReset || h.phase ≠ 0

/-- HUB_PWR_CAP_WRITE (R16, R20): the host or the sideband writes `value`. -/
def execHubPwrCapWrite (s : State) : Result := .next (if s.hub.served then s.writeCap s.sch.args.value.toNat else s)

/-- What the sideband reads (R20): HUB_BOOT_STATUS, the SCH_PWR_STATUS of each die, the rail powers and the inlet temperature. -/
def State.sidebandReads (s : State) : Option (Nat × List Nat × Nat × Nat) :=
  if s.hub.served then some (s.hub.bootStatus, (List.range 8).map (fun d => (s.die d).pwr.word), s.hub.rails, Config.inlet s.hub.intervals)
  else none

/-- HUB_HOLD written by the sideband, which serves after phase 1 (R20, R89). -/
def State.setHold (s : State) (hold : Bool) : State :=
  if !s.hub.served || s.hub.hold = hold then s
  else ({ s with hub := { s.hub with hold := hold } }).event 0x0008 8 (bitOf hold)

/-- EMERGENCY_HOLD_SET (R20). -/
def execEmergencyHoldSet (s : State) : Result := .next (s.setHold true)

/-- EMERGENCY_HOLD_RELEASE (R20). -/
def execEmergencyHoldRelease (s : State) : Result := .next (s.setHold false)

end Sys2Proof.Machine
end

