-- ==== Sys2Proof/Machine/Protect.lean ====
section
/-!
DEFINITION. The aperture (R76), page walks and host translations (R78, R79, R81), invalidation (R80, R81), keys (R85) and
attestation (R18, R88).
-/

namespace Sys2Proof.Machine

/-! ## The aperture (R76) -/

/-- The DPA of an aperture offset (R76). DESIGN CHOICE (log 52): one past 2^48 wraps; R76 does not say what it reaches. -/
def Aper.target (a : Aper) (offset : Nat) : Nat := (a.base.toNat + offset) % 2 ^ 48

/-- The owner under whose key the aperture works (R76). -/
def State.aperOwner (s : State) : Owner := if s.hub.aper.plain then none else s.owner s.hub.aper.ctx.toNat

/-- The byte that an aperture read gives (R76): all ones where the address is unpopulated. -/
def State.aperByte (s : State) (dpa : Nat) : Byte := if s.populated dpa then s.devByte s.aperOwner dpa else 0xFF

/-- Whether an offset lies in BAR4, whose size the host has set (R73). -/
def State.inBar4 (s : State) (offset : Nat) : Bool := decide (offset < 2 ^ s.hub.bar4)

/-- APERTURE_READ (R73, R76): the host reads `size` bytes at offset `offset` of BAR4. -/
def execApertureRead (s : State) : Result :=
  let a := s.sch.args
  if !s.inBar4 a.offset then .next s else
  let dpa := s.hub.aper.target a.offset
  let bs := (List.range (min 8 a.size)).map (fun i => s.aperByte (dpa + i))
  .next { s with hub := { s.hub with hostRead := BitVec.ofNat 64 (ofBytes bs) } }

/-- APERTURE_WRITE (R73, R76): the host writes the low `size` bytes of `value` at offset `offset` of BAR4. -/
def execApertureWrite (s : State) : Result :=
  let a := s.sch.args
  .next (if !s.inBar4 a.offset then s else s.devWrite s.aperOwner (s.hub.aper.target a.offset) (toBytes (min 8 a.size) a.value.toNat))

/-! ## Page walks (R78, R79, R81) -/

/-- The accesses that wait for the walk of a page of a context. -/
def State.waitingWalk (s : State) (ctx vpn : Nat) : List Access :=
  s.accesses.filter (fun a => a.phase = .walk && (s.region a.firing.region).ctx = ctx && a.va / 65536 = vpn)

/-- Those accesses issued to their port cores again, each in its turn (R79). -/
def State.retryWalk (s : State) (ctx vpn : Nat) : State :=
  (s.waitingWalk ctx vpn).foldl (fun s a =>
    match s.accesses.find? (fun b => b.id = a.id) with
    | some b => s.translated b false
    | none => s) s

/-- A translation put into the caches of every port core whose accesses wait for it (R79). -/
def State.fillWaiting (s : State) (ctx vpn : Nat) (e : TlbEntry) : State :=
  (distinct ((s.waitingWalk ctx vpn).map (fun a => a.core))).foldl (fun s k => s.fillTlb k e) s

/-- A walk that faults (R78): its accesses fault, but for the reads of a page that only denies the write. -/
def State.failWalk (s : State) (w : Walk) (cls : FaultClass) (level : Nat) : State :=
  (s.waitingWalk w.ctx w.vpn).foldl (fun s a =>
    if cls = .pageWp && !a.op.writes then s.askWalk a.core w.ctx a.va false w.note
    else s.memFault a cls a.va level) s

/-- A walk's end (R78, R79, R81): a fault, a host page whose translation is asked of the host, or a translation cached. -/
def State.endWalk (s : State) (w : Walk) : State :=
  match s.walk w.ctx (w.vpn * 65536) w.write with
  | .error q => s.failWalk w q.1 q.2
  | .ok q =>
    let s := s.setAccessed q.path w.write
    let e := q.entry
    if e.host then { s with hub := { s.hub with ats := s.hub.ats ++ [{ walk := w, leaf := e }] } }
    else (s.fillWaiting w.ctx w.vpn e).retryWalk w.ctx w.vpn

/-- The next walk of the queue (R79): TOP first, and in order of arrival within a note. -/
def nextWalk (l : List Walk) : Option Walk :=
  match l.find? (fun w => w.note = .top) with
  | some w => some w
  | none =>
    match l.find? (fun w => w.note = .heart) with
    | some w => some w
    | none => l.head?

/-- PAGE_WALK (R78, R79): a walker takes the next queued walk and makes it. -/
def execPageWalk (s : State) : Result :=
  match nextWalk s.hub.walks with
  | none => .next s
  | some w =>
    let h := { s.hub with walks := s.hub.walks.filter (fun q => !(q.ctx = w.ctx && q.vpn = w.vpn)) }
    .next (({ s with hub := h.takeWaiting }).endWalk w)

/-! ## Host pages (R81) -/

/-- The host page request that the operands name: the oldest of context `ctx` in the state asked for. -/
def State.atsArg (s : State) (pri : Bool) : Option AtsReq :=
  s.hub.ats.find? (fun q => q.walk.ctx = s.sch.args.ctx && q.pri = pri)

/-- A host page request changed, or removed where `f` gives none. -/
def State.updAts (s : State) (r : AtsReq) (f : AtsReq → Option AtsReq) : State :=
  { s with hub := { s.hub with ats := s.hub.ats.filterMap (fun q => if q = r then f q else some q) } }

/-- ATS_TRANSLATION_COMPLETION (R81): the host answers the oldest translation request of context `ctx`; `flag` where it grants the
access. A denied access has a PRI Page Request sent, within the host's allocation; beyond it the request stands. -/
def execAtsTranslationCompletion (s : State) : Result :=
  match s.atsArg false with
  | none => .next s
  | some r =>
    if s.sch.args.flag then
      .next (((s.updAts r (fun _ => none)).fillWaiting r.walk.ctx r.walk.vpn r.leaf).retryWalk r.walk.ctx r.walk.vpn)
    else if s.hub.priLimit ≤ (s.hub.ats.filter (fun q => q.pri)).length then .next s
    else .next (s.updAts r (fun q => some { q with pri := true }))

/-- PRI_RESPONSE (R81): the host answers the oldest Page Request of context `ctx`: with `flag` Success, and the translation is
repeated; otherwise the waiting accesses fault with HOST_PAGE. -/
def execPriResponse (s : State) : Result :=
  match s.atsArg true with
  | none => .next s
  | some r =>
    if s.sch.args.flag then .next (s.updAts r (fun q => some { q with pri := false }))
    else
      let s := s.updAts r (fun _ => none)
      .next ((s.waitingWalk r.walk.ctx r.walk.vpn).foldl (fun s a => s.memFault a .hostPage a.va (sizeLevel r.leaf.size)) s)

/-! ## Invalidation (R80, R81) -/

/-- Every cached translation that `p` names removed, and the host requests that it names walked again (R80). -/
def State.dropEntries (s : State) (p : TlbEntry → Bool) : State :=
  let again := (s.hub.ats.filter (fun q => p q.leaf)).map AtsReq.walk
  { s with
    ports := s.ports.filterMap (fun (q : Nat × PortCore) =>
      let c := { q.2 with tlb := q.2.tlb.filter (fun e => !p e) }
      if c = {} then none else some (q.1, c))
    dies := s.dies.filterMap (fun (q : Nat × Die) =>
      let d := { q.2 with tcache := q.2.tcache.filter (fun e => !p e) }
      if d = {} then none else some (q.1, d))
    hub := again.foldl Hub.takeWalk { s.hub with ats := s.hub.ats.filter (fun q => !p q.leaf) } }

/-- Whether HUB_INV's OP matches a translation (R80). -/
def InvReg.matches (i : InvReg) (e : TlbEntry) : Bool :=
  i.op = 3 || (e.ctx = i.ctx.toNat && (i.op = 2 ||
    (i.op = 1 && decide (e.va ≤ i.vpn.toNat * 65536) && decide (i.vpn.toNat * 65536 < e.va + e.size))))

/-- The descriptors of the contexts that an invalidation names read again (R77). -/
def State.rereadDescs (s : State) (i : InvReg) : State :=
  (if i.op = 3 then s.hub.ctxs.map Prod.fst else [i.ctx.toNat]).foldl (fun s c => s.rereadDesc c) s

/-- An invalidation begun by HUB_INV, on the register's CTX and VPN (R80). -/
def State.beginInv (s : State) (op : BitVec 2) : State :=
  let i := { s.hub.inv with op := op, busy := true }
  ((({ s with hub := { s.hub with inv := i } }).rereadDescs i).dropEntries i.matches)

/-- HUB_INV_PAGE (R80). -/
def execHubInvPage (s : State) : Result := .next (s.beginInv 1)

/-- HUB_INV_CONTEXT (R80). -/
def execHubInvContext (s : State) : Result := .next (s.beginInv 2)

/-- HUB_INV_ALL (R80). -/
def execHubInvAll (s : State) : Result := .next (s.beginInv 3)

/-- Whether no access translated by a matching entry is still on its way (R80). -/
def State.invSettled (s : State) (p : TlbEntry → Bool) : Bool :=
  s.acks.isEmpty && !s.accesses.any (fun a => (a.phase = .home || a.phase = .host) && p a.entry)

/-- INVALIDATION_COMPLETE (R80): BUSY clears once the three conditions hold. -/
def execInvalidationComplete (s : State) : Result :=
  let i := s.hub.inv
  if i.busy && s.invSettled i.matches then
    .next ((({ s with hub := { s.hub with inv := { i with busy := false } } }).dropEntries i.matches))
  else .next s

/-- Whether a translation lies in a host range (R81). -/
def inRange (q : Nat × Nat) (e : TlbEntry) : Bool := e.host && decide (e.addr < q.1 + q.2) && decide (q.1 < e.addr + e.size)

/-- ATS_INVALIDATION_REQUEST (R81): the host names `size` bytes at host address `offset`. -/
def execAtsInvalidationRequest (s : State) : Result :=
  let a := s.sch.args
  let q := (a.offset, a.size)
  .next (({ s with hub := { s.hub with atsInv := s.hub.atsInv ++ [q] } }).dropEntries (inRange q))

/-- ATS_INVALIDATION_COMPLETE (R81): Invalidation Completion for the oldest request, once R80's conditions hold of its range. -/
def execAtsInvalidationComplete (s : State) : Result :=
  match s.hub.atsInv with
  | [] => .next s
  | q :: t => .next (if s.invSettled (inRange q) then
      ({ s with hub := { s.hub with atsInv := t } }).dropEntries (inRange q) else s)

/-! ## Keys (R85) -/

/-- Whether a context holds a region, a flacon image or an unfinished engine command (R85): one of a chain whose TL has not
reached TAIL. -/
def State.keyHeld (s : State) (ctx : Nat) : Bool :=
  s.regions.any (fun r => r.ctx = ctx) || s.hub.waiting.any (fun w => w.ctx = ctx) ||
  (s.ctx ctx).chains.any (fun c => decide (c.2.tl.toNat < c.2.tail.toNat))

/-- A key command (R85) on the slot of SEC_KEYCMD.CTX: refused, or carried out by `f`. -/
def State.keyCommand (s : State) (f : Nat → State → State) : State :=
  let ctx := s.hub.keyCmd.ctx.toNat
  let refused := s.keyHeld ctx
  let s := { s with hub := { s.hub with keyCmd := { s.hub.keyCmd with busy := true, refused := refused } } }
  if refused then s else f ctx s

/-- KEY_GENERATE (R85): a fresh pair in the slot, and a fresh BSEED in the descriptor, written in the clear. -/
def execKeyGenerate (s : State) : Result :=
  .next (s.keyCommand fun ctx s =>
    let n := s.hub.keyDraws + 1
    let s := { s with hub := { s.hub with keys := put 0 ctx n s.hub.keys, keyDraws := n } }
    s.devWrite none (s.hub.ctxBase.toNat * 65536 + 64 * ctx + 8) (toBytes 8 (Config.bankSeed n).toNat))

/-- KEY_DESTROY (R85): the slot is emptied. -/
def execKeyDestroy (s : State) : Result :=
  .next (s.keyCommand fun ctx s => { s with hub := { s.hub with keys := put 0 ctx 0 s.hub.keys } })

/-- KEY_COMMAND_DONE (R85). -/
def execKeyCommandDone (s : State) : Result :=
  .next { s with hub := { s.hub with keyCmd := { s.hub.keyCmd with busy := false } } }

/-! ## Attestation (R88) -/

/-- Bytes of a free function from an offset. -/
def bytesFrom (f : Nat → Byte) (offset n : Nat) : List Byte := (List.range n).map (fun i => f (offset + i))

/-- Bytes of a buffer filled up with zeros to 8 KiB (R88). -/
def toBuffer (bs : List Byte) : List Byte := bs ++ List.replicate (8192 - bs.length) 0

/-- The bytes of the defect map that its signature covers (R17). -/
def DefectMap.bytes (m : DefectMap) : List Byte :=
  toBytes 4 m.magic.toNat ++ toBytes 2 m.version.toNat ++ toBytes 2 m.entries.length ++ toBytes 16 m.serial ++ toBytes 8 m.reserved ++
  m.entries.flatMap (fun e => toBytes 1 e.kind ++ toBytes 1 e.die ++ toBytes 2 e.x ++ toBytes 2 e.y ++ toBytes 2 e.reserved)

/-- The SHAKE256 digest of the defect map (R17, R88). -/
def DefectMap.digest (m : DefectMap) : List Byte := shake256 m.bytes

/-- The first n bytes of a list, filled up with zeros. -/
def fit (n : Nat) (bs : List Byte) : List Byte := (bs ++ List.replicate n 0).take n

/-- The attestation report (R88), with the signature of draw n. -/
def State.report88 (s : State) (nonce : List Byte) (n : Nat) : List Byte :=
  toBytes 4 0x52414C53 ++ toBytes 4 1 ++ nonce ++ toBytes 16 s.flash.map.serial ++
  (List.range 3).flatMap (fun i => toBytes 4 (s.flash.stages.getD i {}).version.toNat) ++ toBytes 4 0 ++
  (List.range 3).flatMap (fun i => fit 64 (s.flash.stages.getD i {}).digest) ++ s.flash.map.digest ++ toBytes 4 s.hub.bootStatus ++ toBytes 4 0 ++
  bytesFrom (Config.attestByte 0) 0x150 1952 ++ bytesFrom (Config.attestByte (n + 1)) 0x8F0 3309

/-- The vendor certificate's buffer (R88). -/
def State.certificate (s : State) : List Byte :=
  let c := s.flash.certificate.take 8188
  toBytes 4 c.length ++ c

/-- Whether the buffer lies wholly in LPDDR6 (R88). -/
def State.bufferOk (s : State) (buf : Nat) : Bool :=
  decide (0x10000000000 ≤ buf) && s.populated buf && s.populated (buf + 8191)

/-- An attestation command begun (R88). -/
def State.beginAttest (s : State) (op : BitVec 2) : State :=
  { s with hub := { s.hub with attest := { s.hub.attest with op := op, busy := true } } }

/-- ATTEST_REPORT (R88). -/
def execAttestReport (s : State) : Result := .next (s.beginAttest 1)

/-- ATTEST_CERTIFICATE (R88). -/
def execAttestCertificate (s : State) : Result := .next (s.beginAttest 2)

/-- ATTEST_DONE (R88): the buffer written in the clear, or left unwritten where it does not lie in LPDDR6; BUSY clears. -/
def execAttestDone (s : State) : Result :=
  let q := s.hub.attest
  if !q.busy then .next s else
  let buf := q.buf.toNat
  let n := s.sch.fresh
  let s := { s with hub := { s.hub with attest := { q with busy := false } }, sch := { s.sch with fresh := n + 1 } }
  .next (if !s.bufferOk buf then s
    else s.devWrite none buf (toBuffer (if q.op = 1 then s.report88 (s.devRead none (buf + 8) 32) n else s.certificate)))

end Sys2Proof.Machine
end

