-- ==== Sys2Proof/Machine/Release.lean ====
section
/-!
DEFINITION. The release engine (R66 to R71): disciplined time, release instants, the display outputs, and the deadline and
phase tokens of the die schedulers (R134).
-/

namespace Sys2Proof.Machine

/-- Nanoseconds of a second. -/
def second : Nat := 1000000000

/-- The disciplined time in nanoseconds (R66). -/
def Release.now (r : Release) : Nat := r.sec * second + r.ns

/-- The disciplined time set. -/
def Release.setTime (r : Release) (t : Nat) : Release := { r with sec := t / second % 2 ^ 48, ns := t % second }

/-- The time of release instant n (R67). -/
def Release.instantAt (r : Release) (n : Nat) : Nat :=
  r.t0sec.toNat * second + r.t0ns.toNat + n * r.period.toNat / 2 ^ 32

/-- The time of phase k of frame f (R134). -/
def Release.phaseAt (r : Release) (f k : Nat) : Nat := r.instantAt (f - 1) + k * r.period.toNat / 2 ^ 36

/-- The code of LOCK (R71). -/
def LockState.code : LockState → Nat
  | .free => 0
  | .acquiring => 1
  | .locked => 2
  | .holdover => 3

/-- REL_STATUS (R71). -/
def Release.status (r : Release) : Nat := r.lock.code * 2 ^ 30 + r.ebound.toNat * 2 ^ 16

/-! ## Disciplined time (R66, R69) -/

/-- The largest EBOUND of a locked servo where the network's hops all timestamp in hardware with path asymmetry below 10 ns (R69). -/
def Release.boundLimit (r : Release) : Nat := if r.ptpSrc then 200 else 50

/-- A PTP message taken (R69): until the servo is locked the engine acquires; at its first lock an offset above 1 ms is stepped, and
every other offset is slewed. -/
def Release.discipline (r : Release) (time bound : Nat) (locked : Bool) (cycle : Dword) : Release :=
  let r := { r with heard := cycle }
  if !locked then { r with lock := if r.lock = .free then .acquiring else r.lock }
  else
    let off : Int := (time : Int) - (r.now : Int)
    let r' := { r with lock := .locked, everLocked := true, ebound := BitVec.ofNat 14 (min bound 0x3FFF), slew := off }
    if !r.everLocked && decide (1000000 < off.natAbs) then { (r'.setTime time) with slew := 0 } else r'

/-- PTP_MESSAGE (R66, R69): a timestamped message of domain `ctx` on the selected source, link port 17 where `link` is 17 and else the
PTP port: the servo's time from it is `value` nanoseconds and its bound `size` nanoseconds, which a network that R69 describes (`seq` not
0) keeps within its limit; `flag` where the servo is locked. A message of another domain or source is not taken. -/
def execPtpMessage (s : State) : Result :=
  let a := s.sch.args
  let r := s.rel
  .next (if a.ctx ≠ r.domain.toNat || (a.link = 17) = r.ptpSrc then s
    else { s with rel := r.discipline a.value.toNat (if a.seq = 0 then a.size else min a.size r.boundLimit) a.flag s.hub.cycles })

/-- HOLDOVER_ENTER (R69, R89): no PTP message for 3 s, which is 6 × 10^9 hub cycles at 2.0 GHz. -/
def execHoldoverEnter (s : State) : Result :=
  let r := s.rel
  let heard := r.lock = .locked || r.lock = .acquiring
  if heard && decide (6000000000 ≤ (s.hub.cycles - r.heard).toNat) then
    let s := { s with rel := { r with lock := .holdover, slew := 0 } }
    .next (s.event 0x0004 8 s.rel.status)
  else .next s

/-- One nanosecond of disciplined time (R69): slewing moves it by 1 ns in 10,000, at most 100 µs in a second, and in HOLDOVER EBOUND
grows by 1 µs in a second. -/
def Release.tick (r : Release) : Release :=
  let t := r.now + 1
  let due := r.slew ≠ 0 && decide (9999 ≤ r.slewed)
  let adjust : Int := if !due then 0 else if 0 < r.slew then 1 else -1
  let slewed := if r.slew = 0 || due then 0 else r.slewed + 1
  let r := { (r.setTime ((t : Int) + adjust).toNat) with slew := r.slew - adjust, slewed := slewed }
  if r.lock = .holdover && t % 1000000 = 0 then { r with ebound := if r.ebound.toNat < 0x3FFF then r.ebound + 1 else r.ebound } else r

/-! ## Instants (R67, R68, R71) -/

/-- The first instant after a time (R71). -/
def Release.firstAfter (r : Release) (t : Nat) : Nat :=
  let t0 := r.t0sec.toNat * second + r.t0ns.toNat
  if t < t0 then 0
  else
    let n := (t - t0) * 2 ^ 32 / max 1 r.period.toNat
    if r.instantAt n ≤ t then (if r.instantAt (n + 1) ≤ t then n + 2 else n + 1) else n

/-- EN from 0 to 1 (R71): REL_DONE, REL_MISS and REL_LASTMISS are cleared, and releasing starts at the first instant after now. -/
def Release.enable (r : Release) : Release :=
  if r.en then r
  else { r with en := true, running := true, done := 0, miss := 0, lastMiss := 0, instant := r.firstAfter r.now, phase := 16 }

/-- REL_ENABLE (R71): REL_CTL.EN goes from 0 to 1. -/
def execRelEnable (s : State) : Result := .next { s with rel := s.rel.enable }

/-- The packet of a token of the release engine: TAG 0 for a deadline token and else the phase, and the frame (log 54). -/
def RelToken.item : RelToken → Nat × Nat × Val
  | .deadline f => (0, 0, Val.of 8 f)
  | .phase f k => (k, 0, Val.of 8 f)

/-- A token sent to every die scheduler, as a TOP packet from endpoint 0x044 (R67, R134). -/
def State.sendRel (s : State) (t : RelToken) : State :=
  ((List.range 8).filter s.dieUp).foldl (fun s d =>
    s.feedStream (8192 + 0x044) { dst := s.epAddr (1024 * d + 0x070), cls := .top, ord := true, ctx := s.rel.ctx.toNat, owner := .release }
      [t.item] false) s

/-- An output flipped to a frame's surface (R68). -/
def RelOut.show (o : RelOut) (nsurf frame : Nat) : RelOut :=
  if o.en then { o with shown := some (frame, o.base.toNat + frame % max 1 nsurf * (o.stride.toNat * 65536)) } else o

/-- RELEASE_INSTANT (R67, R68): the disciplined time has reached the next instant k: every enabled output flips to frame
min(REL_DONE, k), a miss is counted, and the deadline token of frame k + 1 goes to each die scheduler. -/
def execReleaseInstant (s : State) : Result :=
  let r := s.rel
  let k := r.instant
  if !(r.running && decide (r.instantAt k ≤ r.now)) then .next s
  else
    let j := min r.done.toNat k
    let missed := decide (j < k)
    let r := { r with
      outs := (List.range 4).foldl (fun (m : Assoc RelOut) i => upd {} i (fun o => o.show r.nsurf.toNat j) m) r.outs
      miss := if missed then r.miss + 1 else r.miss
      lastMiss := if missed then BitVec.ofNat 64 k else r.lastMiss
      instant := k + 1
      phase := 1 }
    .next (({ s with rel := r }).sendRel (.deadline (k + 1)))

/-- PHASE_TOKEN (R134): the disciplined time has reached the next phase time of the next frame. -/
def execPhaseToken (s : State) : Result :=
  let r := s.rel
  if r.running && decide (r.phase ≤ 15) && decide (r.phaseAt r.instant r.phase ≤ r.now) then
    .next (({ s with rel := { r with phase := r.phase + 1 } }).sendRel (.phase r.instant r.phase))
  else .next s

/-- Whether the disciplined time has reached the next instant (R68). -/
def Release.reached (r : Release) : Bool := r.running && decide (r.instantAt r.instant ≤ r.now)

/-- FRAME_COMPLETION_REPORT (R68): the next completion reaches the release engine: REL_DONE rises to its frame. One that comes once the
disciplined time has reached an instant waits until the instant is done. -/
def execFrameCompletionReport (s : State) : Result :=
  match s.rel.reports with
  | [] => .next s
  | j :: t => if s.rel.reached then .next s else .next { s with rel := { s.rel with
      reports := t, done := if s.rel.done.toNat < j then BitVec.ofNat 64 j else s.rel.done } }

/-! ## The die schedulers (R134) -/

/-- The tokens of a die scheduler after the first. -/
def State.dropRel (s : State) (d : Nat) : State :=
  { s with rel := { s.rel with tokens := upd [] d (fun l => l.drop 1) s.rel.tokens } }

/-- DEADLINE_TOKEN_RECEIVE (R134): the first token of die `die` is the deadline token of frame f: its phase count starts, and the
phase of frame f − 1 becomes 16. -/
def execDeadlineTokenReceive (s : State) : Result :=
  let d := s.sch.args.die
  match look [] s.rel.tokens d with
  | .deadline f :: _ =>
    .next ((s.dropRel d).updDie d (fun q => { q with phases := put 0 (f - 1) 16 (put 0 f 0 q.phases) }))
  | _ => .next s

/-- PHASE_TOKEN_RECEIVE (R134): the first token of die `die` is a phase token. -/
def execPhaseTokenReceive (s : State) : Result :=
  let d := s.sch.args.die
  match look [] s.rel.tokens d with
  | .phase f k :: _ => .next ((s.dropRel d).updDie d (fun q => { q with phases := put 0 f k q.phases }))
  | _ => .next s

end Sys2Proof.Machine
end

