-- ==== Sys2Proof/Machine/Registers.lean ====
section
/-!
DEFINITION. The register map of BAR0 (R3, R73, R74): the register at an offset, its value, and what a read and a write do. A
write that starts an operation stores the register's fields and puts the operation's own step first (log 3).
-/

namespace Sys2Proof.Machine

/-- The registers of the map (R74, R207, R235). Dies, switches, endpoints, cells and port cores by their keys. -/
inductive Reg where
  | bootStatus | reset | pwrCap | hold | ctxBase | aper | inv | evtBase | evtHead | evtTail | evtLost | chainCtl | chainStat
  | qCtl | qHead | qTail | restoreImg | restoreCtl | ageLim | keyCmd | attest | relCtl | relT0Sec | relT0Ns | relPeriod
  | relStatus | relDone | relMiss | relLastMiss | relSurf (i : Nat) | relOut (i : Nat) | lnkMod | lnkStatus (p : Nat)
  | trimThr (sw out : Nat) | trimCnt (sw out note : Nat) | swErr (sw : Nat)
  | netPace (ep : Nat) | epCfg (ep : Nat) | epErr (ep : Nat) | streamSel (ep : Nat) | streamStat (ep i : Nat) | streamCtl (ep : Nat)
  | pwrStatus (d : Nat) | regImg (d : Nat) | regCtl (d : Nat) | regStat (d : Nat) | trapCtl (d : Nat) | hang (d : Nat)
  | preCtl (d : Nat) | preImg (d : Nat) | preLim (d : Nat) | preSize (d : Nat) | bkpt (d : Nat)
  | cellFmt (k : Nat) | cellBank (k : Nat) | cellStat (k : Nat) | cellEcc (k : Nat) | portStat (k : Nat) | msix (i : Nat)
  deriving DecidableEq, Repr

/-! ## The map (R74) -/

/-- The register of a slot of the hub block below offset 0x4000. -/
def hubReg (o : Nat) : Option Reg :=
  if o < 0x98 then
    [Reg.bootStatus, .reset, .pwrCap, .hold, .ctxBase, .aper, .inv, .evtBase, .evtHead, .evtTail, .evtLost, .chainCtl, .chainStat,
     .qCtl, .qHead, .qTail, .restoreImg, .restoreCtl, .ageLim][o / 8]?
  else if o = 0x1000 then some .keyCmd
  else if o = 0x1008 then some .attest
  else if 0x2000 ≤ o && o < 0x2040 then
    [Reg.relCtl, .relT0Sec, .relT0Ns, .relPeriod, .relStatus, .relDone, .relMiss, .relLastMiss][(o - 0x2000) / 8]?
  else if 0x2040 ≤ o && o < 0x2060 then some (.relSurf ((o - 0x2040) / 8))
  else if 0x2060 ≤ o && o < 0x2080 then some (.relOut ((o - 0x2060) / 8))
  else if o = 0x3000 then some .lnkMod
  else if 0x3100 ≤ o && o < 0x3100 + 8 * 18 then some (.lnkStatus ((o - 0x3100) / 8))
  else none

/-- The register of a slot of a switch's outputs. -/
def outReg (sw o : Nat) : Option Reg :=
  let n := o / 0x40
  let q := o % 0x40
  if hopOf sw n = .none then none
  else if q = 0 then some (.trimThr sw n)
  else if q = 8 || q = 16 || q = 24 then some (.trimCnt sw n (q / 8 - 1))
  else none

/-- The register of a slot of an endpoint block. -/
def epReg (ep q : Nat) : Option Reg :=
  if !endpointExists (ep / 1024) (ep % 1024) then none
  else if q < 0x48 then
    [Reg.netPace ep, .epCfg ep, .epErr ep, .streamSel ep, .streamStat ep 0, .streamStat ep 1, .streamStat ep 2, .streamStat ep 3,
     .streamCtl ep][q / 8]?
  else none

/-- The register of a slot of the block of die d. -/
def dieReg (d o : Nat) : Option Reg :=
  if o < 0x58 then
    [Reg.pwrStatus d, .regImg d, .regCtl d, .regStat d, .trapCtl d, .hang d, .preCtl d, .preImg d, .preLim d, .preSize d, .bkpt d][o / 8]?
  else if 0x10000 ≤ o && o < 0x10000 + 0x1000 * 24 then
    let sw := 24 * d + (o - 0x10000) / 0x1000
    let q := (o - 0x10000) % 0x1000
    if q = 0xF00 then some (.swErr sw) else if q < 0x40 * 42 then outReg sw q else none
  else if 0x40000 ≤ o && o < 0x40000 + 0x100 * 0x72 then epReg (1024 * d + (o - 0x40000) / 0x100) ((o - 0x40000) % 0x100)
  else if 0x800000 ≤ o && o < 0x800000 + 0x40 * 3200 then
    let k := 3200 * d + (o - 0x800000) / 0x40
    [Reg.cellFmt k, .cellBank k, .cellStat k, .cellEcc k][(o - 0x800000) % 0x40 / 8]?
  else if 0xC00000 ≤ o && o < 0xC00000 + 0x40 * 80 && o % 0x40 = 0 then some (.portStat (80 * d + (o - 0xC00000) / 0x40))
  else none

/-- The register of the 8-byte slot at offset `o` of BAR0 (R73, R74); none where it is reserved. -/
def regAt (o : Nat) : Option Reg :=
  if o < 0x1000000 then
    if o < 0x4000 then hubReg o
    else if 0x10000 ≤ o && o < 0x10000 + 0x40 * 96 then outReg 192 (o - 0x10000)
    else if o = 0x18000 then some (.swErr 192)
    else if 0x20000 ≤ o && o < 0x20000 + 0x100 * 0x46 then epReg (8192 + (o - 0x20000) / 0x100) ((o - 0x20000) % 0x100)
    else none
  else if o < 0x9000000 then dieReg (o / 0x1000000 - 1) (o % 0x1000000)
  else if o < 0x9001000 then some (.msix ((o - 0x9000000) / 8))
  else none

/-- Whether a register has 64 bits (R74). -/
def Reg.wide : Reg → Bool
  | .bootStatus | .pwrCap | .keyCmd | .relCtl | .relT0Ns | .relStatus | .relOut _ | .lnkMod | .lnkStatus _ | .trimThr _ _ | .swErr _
  | .netPace _ | .epCfg _ | .epErr _ | .streamSel _ | .streamStat _ _ | .streamCtl _ | .pwrStatus _ | .cellFmt _ | .cellEcc _ => false
  | _ => true

/-! ## Values -/

/-- NET_ERR_CNT (R48). -/
def ErrCnt.word (e : ErrCnt) : Nat := e.hcrc.toNat * 65536 + e.malformed.toNat

/-- The accesses held in the wave windows of a port core (R221). -/
def State.heldAt (s : State) (k : Nat) : List Access := s.accesses.filter (fun a => a.core = k && a.phase = .held)

/-- The wave windows in use at a port core (R221, R235): one for each ordered stream that holds an access. -/
def State.windowsAt (s : State) (k : Nat) : Nat :=
  (distinct ((s.heldAt k).map (fun a => (a.firing.region, a.firing.frm, a.port)))).length

/-- PORT_STAT (R235). -/
def State.portStat (s : State) (k : Nat) : Nat :=
  let c := s.portCore k
  let bound := c.agns.filter (fun (a : Nat × Agn) => a.2.region ≠ 0)
  let stg := sumOf (bound.map (fun (a : Nat × Agn) => (((s.region a.2.region).binding? a.2.port).map (fun b => b.stg)).getD 0))
  sumOf (bound.map (fun (a : Nat × Agn) => 2 ^ (56 + a.1))) +
  (s.heldAt k).length * 2 ^ 45 + s.windowsAt k * 2 ^ 39 + c.lineRows.length * 2 ^ 34 + stg * 2 ^ 29 +
  sumOf (bound.map (fun (a : Nat × Agn) => a.2.joins.length)) * 2 ^ 22 + bitOf c.off

/-- HUB_CHAIN_STAT of the chain last selected (R100). -/
def State.chainStat (s : State) : Nat :=
  let ctx := s.hub.chainCtl.ctx.toNat
  let c := s.hub.chainCtl.chain.toNat
  let q := s.chain ctx c
  let st := s.chainState ctx c
  let ordn := if st = 3 then q.halted.getD 0 else if st = 2 then (q.nextRec.map CmdRec.ordinal).getD 0 else 0
  st * 2 ^ 62 + bitOf q.invalid * 2 ^ 61 + q.inflight * 2 ^ 54 + ordn % 2 ^ 48

/-- The value that a read of a register returns (R3): WO fields read as 0. -/
def State.regVal (s : State) (r : Reg) : Nat :=
  let h := s.hub
  match r with
  | .bootStatus => h.bootStatus
  | .reset => h.dieBusy.toNat * 256
  | .pwrCap => h.cap.toNat
  | .hold => bitOf h.hold
  | .ctxBase => h.ctxBase.toNat * 65536
  | .aper => bitOf h.aper.plain * 2 ^ 63 + h.aper.ctx.toNat * 2 ^ 48 + h.aper.base.toNat
  | .inv => bitOf h.inv.busy * 2 ^ 61 + h.inv.ctx.toNat * 2 ^ 51 + h.inv.vpn.toNat
  | .evtBase => h.evtBase.toNat * 4096
  | .evtHead => h.evtHead.toNat
  | .evtTail => h.evtTail.toNat
  | .evtLost => h.evtLost.toNat
  | .chainCtl => bitOf h.chainCtl.busy * 2 ^ 61 + bitOf h.chainCtl.refused * 2 ^ 60 + h.chainCtl.ctx.toNat * 2 ^ 16 + h.chainCtl.chain.toNat
  | .chainStat => s.chainStat
  | .qCtl => bitOf h.qCtl.refused * 2 ^ 61 + h.qCtl.ctx.toNat * 64 + h.qCtl.queue.toNat
  | .qHead => h.qHead.toNat
  | .qTail => h.qTail.toNat
  | .restoreImg => h.restore.img.toNat / 64 * 64
  | .restoreCtl => bitOf h.restore.busy * 2 ^ 62 + bitOf h.restore.refused * 2 ^ 61 + h.restore.dieMask.toNat * 1024 + h.restore.ctx.toNat
  | .ageLim => h.ageLim.toNat
  | .keyCmd => bitOf h.keyCmd.busy * 2 ^ 29 + bitOf h.keyCmd.refused * 2 ^ 28 + h.keyCmd.ctx.toNat
  | .attest => bitOf h.attest.busy * 2 ^ 62 + h.attest.op.toNat * 2 ^ 60 + h.attest.buf.toNat / 4096 * 4096
  | .relCtl => bitOf s.rel.en * 2 ^ 31 + bitOf s.rel.ptpSrc * 2 ^ 30 + s.rel.nsurf.toNat * 2 ^ 26 + s.rel.ctx.toNat * 2 ^ 16 + s.rel.domain.toNat * 256
  | .relT0Sec => s.rel.t0sec.toNat
  | .relT0Ns => s.rel.t0ns.toNat
  | .relPeriod => s.rel.period.toNat
  | .relStatus => s.rel.status
  | .relDone => s.rel.done.toNat
  | .relMiss => s.rel.miss.toNat
  | .relLastMiss => s.rel.lastMiss.toNat
  | .relSurf i => (look {} s.rel.outs i).base.toNat / 65536 * 65536
  | .relOut i => let o := look {} s.rel.outs i; bitOf o.en * 2 ^ 31 + o.fmt.toNat * 2 ^ 28 + o.stride.toNat
  | .lnkMod => s.lnkMod.toNat
  | .lnkStatus p => s.lnkStatus p
  | .trimThr sw o => let q := look {} s.outs (128 * sw + o); q.thrBase.toNat * 65536 + q.thrHeart.toNat * 256 + q.thrTop.toNat
  | .trimCnt sw o c =>
    let q := look {} s.outs (128 * sw + o)
    (if c = 0 then q.cntTop else if c = 1 then q.cntHeart else q.cntBase).toNat
  | .swErr sw => (look {} s.swErr sw).word
  | .netPace ep => (s.ep ep).kmax.toNat * 2 ^ 28 + (s.ep ep).gap.toNat
  | .epCfg ep => (s.ep ep).rto.toNat * 2 ^ 27 + (s.ep ep).win.toNat
  | .epErr ep => (s.ep ep).err.word
  | .streamSel ep => (s.ep ep).sel.toNat
  | .streamStat ep i => ([(s.ep ep).stat0, (s.ep ep).stat1, (s.ep ep).stat2, (s.ep ep).stat3].getD i 0).toNat
  | .streamCtl _ => 0
  | .pwrStatus d => (s.die d).pwr.word
  | .regImg d => (s.die d).reg.img.toNat / 64 * 64
  | .regCtl d => let q := (s.die d).reg; bitOf q.busy * 2 ^ 61 + q.code.toNat * 2 ^ 59 + q.x0.toNat * 64 + q.y0.toNat
  | .regStat d => (s.die d).reg.stat.toNat
  | .trapCtl d =>
    let q := (s.die d).trapCtl
    bitOf q.busy * 2 ^ 61 + bitOf q.refused * 2 ^ 60 + q.frm.toNat * 2 ^ 13 + q.x0.toNat * 64 + q.y0.toNat
  | .hang d => let q := (s.die d).hangReg; q.hang.toNat * 65536 + q.x0.toNat * 64 + q.y0.toNat
  | .preCtl d => let q := (s.die d).pre; bitOf q.busy * 2 ^ 60 + q.code.toNat * 2 ^ 57 + q.x0.toNat * 64 + q.y0.toNat
  | .preImg d => (s.die d).pre.img.toNat / 64 * 64
  | .preLim d => (s.die d).pre.lim.toNat
  | .preSize d => (s.die d).pre.size.toNat
  | .bkpt d => (s.die d).bkpt.mask.toNat * 2 ^ 48 + (s.die d).bkpt.ctx.toNat * 65536
  | .cellFmt k => (s.cell k).fmt.word
  | .cellBank k => (s.cell k).bankWord
  | .cellStat k => (s.cell k).statWord
  | .cellEcc k => (s.cell k).ecc.word
  | .portStat k => s.portStat k
  | .msix i => (look 0 h.msix (2 * i)).toNat + (look 0 h.msix (2 * i + 1)).toNat * 2 ^ 32

/-! ## Reads -/

/-- What a read does to a register's RC fields (R3): it clears them. -/
def State.clearReg (s : State) (r : Reg) : State :=
  match r with
  | .evtLost => { s with hub := { s.hub with evtLost := 0 } }
  | .lnkStatus p => { s with links := upd {} p (fun (l : Link) => { l with replays := 0 }) s.links }
  | .swErr sw => { s with swErr := put {} sw {} s.swErr }
  | .epErr ep => s.updEp ep (fun e => { e with err := {} })
  | .cellEcc k => s.updCell k (fun c => { c with ecc := {} })
  | _ => s

/-- Whether an access of BAR0 is a naturally aligned one of 4 or 8 bytes (R74). -/
def alignedAccess (offset size : Nat) : Bool := (size = 4 || size = 8) && offset % size = 0

/-- The value that a host read of BAR0 returns (R3, R73, R74). -/
def State.readValue (s : State) (offset size : Nat) : Nat :=
  if !alignedAccess offset size then 2 ^ (8 * min 8 size) - 1
  else
    match regAt (offset / 8 * 8) with
    | none => 0
    | some r =>
      let v := s.regVal r % 2 ^ (if r.wide then 64 else 32)
      if size = 8 then v else if offset % 8 = 4 then v / 2 ^ 32 else v % 2 ^ 32

/-- The value that a host read of BAR2 returns (R73, R94); an access that is not an aligned one of 4 or 8 bytes reads as in BAR0 (log 52). -/
def State.readTail (s : State) (offset size : Nat) : Nat :=
  if !alignedAccess offset size then 2 ^ (8 * min 8 size) - 1
  else
    let v := s.tailAt offset
    if size = 8 then v else if offset % 8 = 4 then v / 2 ^ 32 else v % 2 ^ 32

/-- READ_CLEAR (R3, R73, R74, R94): the host reads `size` bytes at offset `offset` of BAR0: the value, and its RC fields cleared; with
`flag`, of BAR2. -/
def execReadClear (s : State) : Result :=
  let a := s.sch.args
  if a.flag then .next { s with hub := { s.hub with hostRead := BitVec.ofNat 64 (s.readTail a.offset a.size) } } else
  let s' := { s with hub := { s.hub with hostRead := BitVec.ofNat 64 (s.readValue a.offset a.size) } }
  .next (if !alignedAccess a.offset a.size then s'
    else
      match regAt (a.offset / 8 * 8) with
      | none => s'
      | some r => if a.offset % 8 = 4 then s' else s'.clearReg r)

/-! ## Writes -/

/-- A step put before every other: the operation that a write starts is the next step. -/
def State.post (s : State) (i : Instr) (a : Args) : State := { s with sch := { s.sch with agenda := (i, a) :: s.sch.agenda } }

/-- HUB_INV written (R80). -/
def State.writeInv (s : State) (v : Nat) : State :=
  let q := s.hub.inv
  if q.busy then s
  else
    let op := bits v 63 62
    let s := { s with hub := { s.hub with inv :=
      { op := BitVec.ofNat 2 op, busy := op ≠ 0, ctx := BitVec.ofNat 10 (bits v 60 51), vpn := BitVec.ofNat 41 v } } }
    if op = 1 then s.post .hubInvPage {} else if op = 2 then s.post .hubInvContext {} else if op = 3 then s.post .hubInvAll {} else s

/-- HUB_RESET written (R19, R74). -/
def State.writeReset (s : State) (v : Nat) : State :=
  let s := if bit v 63 then s.post .moduleReset {} else s
  ((List.range 8).reverse.filter (fun d => bit v d)).foldl (fun s d => s.post .dieReset { die := d }) s

/-- HUB_CHAIN_CTL written (R100). -/
def State.writeChainCtl (s : State) (v : Nat) : State :=
  if s.hub.chainCtl.busy then s
  else
    let op := bits v 63 62
    let a : Args := { ctx := bits v 25 16, chain := bits v 5 0 }
    let q := { s.hub.chainCtl with busy := decide (op ≠ 0), ctx := BitVec.ofNat 10 a.ctx, chain := BitVec.ofNat 6 a.chain }
    let s := { s with hub := { s.hub with chainCtl := q } }
    if op = 1 then s.post .chainRetry a else if op = 2 then s.post .chainSkip a else if op = 3 then s.post .chainReset a else s

/-- HUB_Q_CTL written (R108). -/
def State.writeQCtl (s : State) (v : Nat) : State :=
  let a : Args := { ctx := bits v 15 6, queue := bits v 4 0 }
  let s := { s with hub := { s.hub with qCtl := { s.hub.qCtl with ctx := BitVec.ofNat 10 a.ctx, queue := BitVec.ofNat 5 a.queue } } }
  if bits v 63 62 = 1 then s.post .queueSelect a else if bits v 63 62 = 2 then s.post .queueReset a else s

/-- HUB_RESTORE_CTL written (R180). -/
def State.writeRestore (s : State) (v : Nat) : State :=
  let q := s.hub.restore
  if q.busy then s
  else
    let s := { s with hub := { s.hub with restore :=
      { q with busy := bit v 63, dieMask := BitVec.ofNat 8 (v / 1024), ctx := BitVec.ofNat 10 v } } }
    if bit v 63 then s.post .restore {} else s

/-- SEC_KEYCMD written (R85). -/
def State.writeKeyCmd (s : State) (v : Nat) : State :=
  let q := s.hub.keyCmd
  if q.busy then s
  else
    let op := bits v 31 30
    let s := { s with hub := { s.hub with keyCmd := { q with busy := op = 1 || op = 2, ctx := BitVec.ofNat 10 v } } }
    if op = 1 then s.post .keyGenerate {} else if op = 2 then s.post .keyDestroy {} else s

/-- SEC_ATTEST written (R88). -/
def State.writeAttest (s : State) (v : Nat) : State :=
  if s.hub.attest.busy then s
  else
    let op := bits v 61 60
    let go := bit v 63 && (op = 1 || op = 2)
    let s := { s with hub := { s.hub with attest :=
      { busy := go, op := BitVec.ofNat 2 op, buf := BitVec.ofNat 48 (bits v 47 12 * 4096) } } }
    if !go then s else if op = 1 then s.post .attestReport {} else s.post .attestCertificate {}

/-- Link port 17 taken as the Ethernet port of the release engine (R66): it carries no module link. -/
def State.dropPort17 (s : State) : State :=
  if (look {} s.links 17).st = .down then s
  else
    let s := { s with links := upd {} 17 (fun (l : Link) => { l with st := .down, slots := 0 }) s.links }
    s.event 0x0003 17 (s.lnkStatus 17)

/-- REL_CTL written (R66, R71): while EN is 1 only EN is taken. -/
def State.writeRelCtl (s : State) (v : Nat) : State :=
  let r := s.rel
  if r.en then (if bit v 31 then s else { s with rel := { r with en := false, running := false } })
  else
    let r := { r with
      ptpSrc := bit v 30, nsurf := BitVec.ofNat 4 (max 1 (bits v 29 26)), ctx := BitVec.ofNat 10 (bits v 25 16),
      domain := BitVec.ofNat 8 (bits v 15 8) }
    let s := { s with rel := if bit v 31 then r.enable else r }
    if bit v 30 then s else s.dropPort17

/-- LNK_MOD written (R55): MODULE is not taken while a link port is UP or TRAINING. -/
def State.writeLnkMod (s : State) (v : Nat) : State :=
  let held := s.links.any (fun q => q.2.st = .up || q.2.st = .training)
  { s with lnkMod := BitVec.ofNat 8 (v / 16 % 16 * 16 + (if held then s.lnkMod.toNat % 16 else v % 16)) }

/-- A threshold as a write leaves it (R44). -/
def clampThr (v : Nat) : BitVec 7 := BitVec.ofNat 7 (min 119 (max 9 v))

/-- SCH_REG_CTL written (R115). -/
def State.writeRegCtl (s : State) (d v : Nat) : State :=
  let q := (s.die d).reg
  if q.busy then s
  else
    let op := bits v 63 62
    let s := s.updDie d (fun e => { e with reg := { q with busy := op = 1, x0 := BitVec.ofNat 7 (v / 64), y0 := BitVec.ofNat 6 v } })
    if op = 1 then s.post .regionLoad { die := d } else if op = 2 then s.post .regionSelect { die := d } else s

/-- SCH_TRAP_CTL written (R161). -/
def State.writeTrapCtl (s : State) (d v : Nat) : State :=
  let q := (s.die d).trapCtl
  if q.busy then s
  else
    let op := bits v 63 62
    let s := s.updDie d (fun e => { e with trapCtl :=
      { q with busy := op = 1 || op = 2, frm := BitVec.ofNat 8 (v / 2 ^ 13), x0 := BitVec.ofNat 7 (v / 64), y0 := BitVec.ofNat 6 v } })
    if op = 1 then s.post .trapResume { die := d } else if op = 2 then s.post .trapKill { die := d } else s

/-- SCH_HANG written (R168). -/
def State.writeHang (s : State) (d v : Nat) : State :=
  let s := s.updDie d (fun e => { e with hangReg :=
    { hang := BitVec.ofNat 32 (clampHang (bits v 47 16)), x0 := BitVec.ofNat 7 (v / 64), y0 := BitVec.ofNat 6 v } })
  if bit v 63 then s.post .hangSet { die := d } else s

/-- SCH_PRE_CTL written (R174). -/
def State.writePreCtl (s : State) (d v : Nat) : State :=
  let q := (s.die d).pre
  if q.busy then s
  else
    let op := bits v 63 61
    let s := s.updDie d (fun e => { e with pre :=
      { q with busy := 1 ≤ op && op ≤ 4, x0 := BitVec.ofNat 7 (v / 64), y0 := BitVec.ofNat 6 v } })
    let a : Args := { die := d }
    if op = 1 then s.post .drydown a else if op = 2 then s.post .freeze a else if op = 3 then s.post .save a
    else if op = 4 then s.post .regionRelease a else s

/-- What a write of a value to a register does (R3, R74): its RW fields with their clamps, its triggers as steps put first;
RO and RC registers ignore it. -/
def State.writeReg (s : State) (r : Reg) (v : Nat) : State :=
  match r with
  | .reset => s.writeReset v
  | .pwrCap => s.writeCap v
  | .ctxBase => { s with hub := { s.hub with ctxBase := BitVec.ofNat 32 (v / 65536) } }
  | .aper =>
    let q : Aper := { plain := bit v 63, ctx := BitVec.ofNat 10 (v / 2 ^ 48), base := BitVec.ofNat 48 (v / 2 ^ 28 * 2 ^ 28) }
    { s with hub := { s.hub with aper := q } }
  | .inv => s.writeInv v
  | .evtBase => { s with hub := { s.hub with evtBase := BitVec.ofNat 52 (v / 4096) } }
  | .evtHead =>
    if v ≤ s.hub.evtTail.toNat && s.hub.evtTail.toNat - 256 ≤ v then { s with hub := { s.hub with evtHead := BitVec.ofNat 64 v } } else s
  | .chainCtl => s.writeChainCtl v
  | .qCtl => s.writeQCtl v
  | .restoreImg => { s with hub := { s.hub with restore := { s.hub.restore with img := BitVec.ofNat 57 (v / 64 * 64) } } }
  | .restoreCtl => s.writeRestore v
  | .ageLim => { s with hub := { s.hub with ageLim := BitVec.ofNat 16 v } }
  | .keyCmd => s.writeKeyCmd v
  | .attest => s.writeAttest v
  | .relCtl => s.writeRelCtl v
  | .relT0Sec => { s with rel := { s.rel with t0sec := BitVec.ofNat 48 v } }
  | .relT0Ns => { s with rel := { s.rel with t0ns := BitVec.ofNat 30 (min 999999999 (v % 2 ^ 30)) } }
  | .relPeriod => { s with rel := { s.rel with period := BitVec.ofNat 64 (max 2000000 (v / 2 ^ 32 % 2 ^ 32) * 2 ^ 32 + v % 2 ^ 32) } }
  | .relSurf i =>
    let f := fun (o : RelOut) => { o with base := BitVec.ofNat 57 (v / 65536 * 65536) }
    { s with rel := { s.rel with outs := upd ({} : RelOut) i f s.rel.outs } }
  | .relOut i =>
    let fmt := if bits v 30 28 ≤ 2 then BitVec.ofNat 3 (bits v 30 28) else 0
    let f := fun (o : RelOut) => { o with en := bit v 31, fmt := fmt, stride := BitVec.ofNat 16 v }
    { s with rel := { s.rel with outs := upd ({} : RelOut) i f s.rel.outs } }
  | .lnkMod => s.writeLnkMod v
  | .trimThr sw o => s.updSwOut sw o (fun q => { q with
      thrTop := clampThr (bits v 6 0), thrHeart := clampThr (bits v 14 8), thrBase := clampThr (bits v 22 16) })
  | .netPace ep => s.updEp ep (fun e => { e with
      kmax := BitVec.ofNat 4 (max 1 (bits v 31 28)), gap := BitVec.ofNat 16 (max 16 (bits v 15 0)) })
  | .epCfg ep => s.updEp ep (fun e => { e with
      rto := BitVec.ofNat 5 (min 24 (max 10 (bits v 31 27))), win := BitVec.ofNat 9 (min 256 (max 1 (bits v 8 0))) })
  | .streamSel ep => s.selectStream ep v
  | .streamCtl ep =>
    if bits v 31 30 = 1 then s.post .streamResume { ep := ep } else if bits v 31 30 = 2 then s.post .streamAbort { ep := ep } else s
  | .regImg d => s.updDie d (fun e => { e with reg := { e.reg with img := BitVec.ofNat 57 (v / 64 * 64) } })
  | .regCtl d => s.writeRegCtl d v
  | .trapCtl d => s.writeTrapCtl d v
  | .hang d => s.writeHang d v
  | .preCtl d => s.writePreCtl d v
  | .preImg d => s.updDie d (fun e => { e with pre := { e.pre with img := BitVec.ofNat 57 (v / 64 * 64) } })
  | .preLim d => s.updDie d (fun e => { e with pre := { e.pre with lim := BitVec.ofNat 40 v } })
  | .bkpt d =>
    let q : SchBkpt := { mask := BitVec.ofNat 16 (v / 2 ^ 48), ctx := BitVec.ofNat 10 (v / 65536) }
    s.updDie d (fun e => { e with bkpt := q })
  | .msix i =>
    let m := put 0 (2 * i + 1) (BitVec.ofNat 32 (v / 2 ^ 32)) (put 0 (2 * i) (BitVec.ofNat 32 v) s.hub.msix)
    { s with hub := { s.hub with msix := m } }
  | .bootStatus | .hold | .evtTail | .evtLost | .chainStat | .qHead | .qTail | .relStatus | .relDone | .relMiss | .relLastMiss
  | .lnkStatus _ | .trimCnt _ _ _ | .swErr _ | .epErr _ | .streamStat _ _ | .pwrStatus _ | .regStat _ | .preSize _ | .cellFmt _
  | .cellBank _ | .cellStat _ | .cellEcc _ | .portStat _ => s

/-- The value that a host write of `size` bytes gives a register: the half it does not name stands as it reads (log 29). -/
def State.regWritten (s : State) (r : Reg) (offset size v : Nat) : Option Nat :=
  if size = 8 then some (if r.wide then v % 2 ^ 64 else v % 2 ^ 32)
  else if offset % 8 = 0 then some (if r.wide then s.regVal r / 2 ^ 32 * 2 ^ 32 + v % 2 ^ 32 else v % 2 ^ 32)
  else if r.wide then some (s.regVal r % 2 ^ 32 + v % 2 ^ 32 * 2 ^ 32)
  else none

/-- REGISTER_WRITE (R3, R73, R74): the host writes the low `size` bytes of `value` at offset `offset` of BAR0; with `flag` it
configures the function: at `offset` 0 the size of BAR4, 2^`value` bytes from 256 MiB to 2 TiB, and else the Outstanding Page Request
allocation, at most 4,096 (R81). -/
def execRegisterWrite (s : State) : Result :=
  let a := s.sch.args
  .next (if a.flag then
      { s with hub :=
        if a.offset = 0 then { s.hub with bar4 := min 41 (max 28 a.value.toNat) } else { s.hub with priLimit := min 4096 a.value.toNat } }
    else if !alignedAccess a.offset a.size then s
    else
      match regAt (a.offset / 8 * 8) with
      | none => s
      | some r =>
        match s.regWritten r a.offset a.size a.value.toNat with
        | none => s
        | some v => s.writeReg r v)

end Sys2Proof.Machine
end

