-- ==== Sys2Proof/Machine/Dispatch.lean ====
section
/-!
DEFINITION. The meaning of every step of the part: one arm per constructor of `Instr`.
-/

namespace Sys2Proof.Machine

/-- The meaning of a step: one direct call for each instruction. -/
def exec (i : Instr) (s : State) : Host.Outcome State Fault Refusal :=
  match i with
  | .coldReset => Sys2Proof.Machine.execColdReset s
  | .moduleReset => Sys2Proof.Machine.execModuleReset s
  | .dieReset => Sys2Proof.Machine.execDieReset s
  | .bringupPhase => Sys2Proof.Machine.execBringupPhase s
  | .governorInterval => Sys2Proof.Machine.execGovernorInterval s
  | .stepTransitionEnd => Sys2Proof.Machine.execStepTransitionEnd s
  | .thermalBandEntered => Sys2Proof.Machine.execThermalBandEntered s
  | .thermalTrip => Sys2Proof.Machine.execThermalTrip s
  | .hubPwrCapWrite => Sys2Proof.Machine.execHubPwrCapWrite s
  | .emergencyHoldSet => Sys2Proof.Machine.execEmergencyHoldSet s
  | .emergencyHoldRelease => Sys2Proof.Machine.execEmergencyHoldRelease s
  | .switchPacketArrival => Sys2Proof.Machine.execSwitchPacketArrival s
  | .headerStoreEntry => Sys2Proof.Machine.execHeaderStoreEntry s
  | .flitDepart => Sys2Proof.Machine.execFlitDepart s
  | .flitReplay => Sys2Proof.Machine.execFlitReplay s
  | .streamOpen => Sys2Proof.Machine.execStreamOpen s
  | .openReceive => Sys2Proof.Machine.execOpenReceive s
  | .refuseReceive => Sys2Proof.Machine.execRefuseReceive s
  | .openRetry => Sys2Proof.Machine.execOpenRetry s
  | .grantReceive => Sys2Proof.Machine.execGrantReceive s
  | .packetSend => Sys2Proof.Machine.execPacketSend s
  | .rreqReceive => Sys2Proof.Machine.execRreqReceive s
  | .retransmit => Sys2Proof.Machine.execRetransmit s
  | .retransmissionTimeout => Sys2Proof.Machine.execRetransmissionTimeout s
  | .ackReceive => Sys2Proof.Machine.execAckReceive s
  | .trimmedHeaderReceive => Sys2Proof.Machine.execTrimmedHeaderReceive s
  | .rreqSend => Sys2Proof.Machine.execRreqSend s
  | .dataPacketReceive => Sys2Proof.Machine.execDataPacketReceive s
  | .packetDeliver => Sys2Proof.Machine.execPacketDeliver s
  | .ackTimer => Sys2Proof.Machine.execAckTimer s
  | .closeReceive => Sys2Proof.Machine.execCloseReceive s
  | .closedReceive => Sys2Proof.Machine.execClosedReceive s
  | .streamSelect => Sys2Proof.Machine.execStreamSelect s
  | .streamResume => Sys2Proof.Machine.execStreamResume s
  | .streamAbort => Sys2Proof.Machine.execStreamAbort s
  | .linkDown => Sys2Proof.Machine.execLinkDown s
  | .linkTrained => Sys2Proof.Machine.execLinkTrained s
  | .readClear => Sys2Proof.Machine.execReadClear s
  | .registerWrite => Sys2Proof.Machine.execRegisterWrite s
  | .treeOpStart => Sys2Proof.Machine.execTreeOpStart s
  | .treeResult => Sys2Proof.Machine.execTreeResult s
  | .collPartialReceive => Sys2Proof.Machine.execCollPartialReceive s
  | .ptpMessage => Sys2Proof.Machine.execPtpMessage s
  | .releaseInstant => Sys2Proof.Machine.execReleaseInstant s
  | .phaseToken => Sys2Proof.Machine.execPhaseToken s
  | .deadlineTokenReceive => Sys2Proof.Machine.execDeadlineTokenReceive s
  | .phaseTokenReceive => Sys2Proof.Machine.execPhaseTokenReceive s
  | .frameCompletionReport => Sys2Proof.Machine.execFrameCompletionReport s
  | .holdoverEnter => Sys2Proof.Machine.execHoldoverEnter s
  | .relEnable => Sys2Proof.Machine.execRelEnable s
  | .apertureRead => Sys2Proof.Machine.execApertureRead s
  | .apertureWrite => Sys2Proof.Machine.execApertureWrite s
  | .tailWrite => Sys2Proof.Machine.execTailWrite s
  | .hubInvPage => Sys2Proof.Machine.execHubInvPage s
  | .hubInvContext => Sys2Proof.Machine.execHubInvContext s
  | .hubInvAll => Sys2Proof.Machine.execHubInvAll s
  | .invalidationComplete => Sys2Proof.Machine.execInvalidationComplete s
  | .pageWalk => Sys2Proof.Machine.execPageWalk s
  | .atsTranslationCompletion => Sys2Proof.Machine.execAtsTranslationCompletion s
  | .priResponse => Sys2Proof.Machine.execPriResponse s
  | .atsInvalidationRequest => Sys2Proof.Machine.execAtsInvalidationRequest s
  | .atsInvalidationComplete => Sys2Proof.Machine.execAtsInvalidationComplete s
  | .hostSnoop => Sys2Proof.Machine.execHostSnoop s
  | .keyGenerate => Sys2Proof.Machine.execKeyGenerate s
  | .keyDestroy => Sys2Proof.Machine.execKeyDestroy s
  | .keyCommandDone => Sys2Proof.Machine.execKeyCommandDone s
  | .attestReport => Sys2Proof.Machine.execAttestReport s
  | .attestCertificate => Sys2Proof.Machine.execAttestCertificate s
  | .attestDone => Sys2Proof.Machine.execAttestDone s
  | .recordFetch => Sys2Proof.Machine.execRecordFetch s
  | .nopRecord => Sys2Proof.Machine.execNopRecord s
  | .jumpRecord => Sys2Proof.Machine.execJumpRecord s
  | .copyRecord => Sys2Proof.Machine.execCopyRecord s
  | .fillRecord => Sys2Proof.Machine.execFillRecord s
  | .launchRecord => Sys2Proof.Machine.execLaunchRecord s
  | .collRecord => Sys2Proof.Machine.execCollRecord s
  | .recordComplete => Sys2Proof.Machine.execRecordComplete s
  | .chainRetry => Sys2Proof.Machine.execChainRetry s
  | .chainSkip => Sys2Proof.Machine.execChainSkip s
  | .chainReset => Sys2Proof.Machine.execChainReset s
  | .tokenInject => Sys2Proof.Machine.execTokenInject s
  | .queueRequest => Sys2Proof.Machine.execQueueRequest s
  | .qwaitExpiry => Sys2Proof.Machine.execQwaitExpiry s
  | .enginePushExpiry => Sys2Proof.Machine.execEnginePushExpiry s
  | .queueSelect => Sys2Proof.Machine.execQueueSelect s
  | .queueReset => Sys2Proof.Machine.execQueueReset s
  | .regionLoad => Sys2Proof.Machine.execRegionLoad s
  | .regionSelect => Sys2Proof.Machine.execRegionSelect s
  | .hangSet => Sys2Proof.Machine.execHangSet s
  | .placementSample => Sys2Proof.Machine.execPlacementSample s
  | .bucketStateCopy => Sys2Proof.Machine.execBucketStateCopy s
  | .bucketRelease => Sys2Proof.Machine.execBucketRelease s
  | .replicaFree => Sys2Proof.Machine.execReplicaFree s
  | .shareReweight => Sys2Proof.Machine.execShareReweight s
  | .tokenArrival => Sys2Proof.Machine.execTokenArrival s
  | .tokenMatch => Sys2Proof.Machine.execTokenMatch s
  | .creditNotice => Sys2Proof.Machine.execCreditNotice s
  | .qualityGate => Sys2Proof.Machine.execQualityGate s
  | .progressReport => Sys2Proof.Machine.execProgressReport s
  | .markerReport => Sys2Proof.Machine.execMarkerReport s
  | .lapUpdate => Sys2Proof.Machine.execLapUpdate s
  | .lapAck => Sys2Proof.Machine.execLapAck s
  | .frameTrap => Sys2Proof.Machine.execFrameTrap s
  | .trapResume => Sys2Proof.Machine.execTrapResume s
  | .parkReinject => Sys2Proof.Machine.execParkReinject s
  | .trapKill => Sys2Proof.Machine.execTrapKill s
  | .killTagsFree => Sys2Proof.Machine.execKillTagsFree s
  | .regionSilent => Sys2Proof.Machine.execRegionSilent s
  | .drydown => Sys2Proof.Machine.execDrydown s
  | .markerArrival => Sys2Proof.Machine.execMarkerArrival s
  | .cutComplete => Sys2Proof.Machine.execCutComplete s
  | .freeze => Sys2Proof.Machine.execFreeze s
  | .freezeComplete => Sys2Proof.Machine.execFreezeComplete s
  | .save => Sys2Proof.Machine.execSave s
  | .regionRelease => Sys2Proof.Machine.execRegionRelease s
  | .restore => Sys2Proof.Machine.execRestore s
  | .restorePlacement => Sys2Proof.Machine.execRestorePlacement s
  | .configUe => Sys2Proof.Machine.execConfigUe s
  | .tileRowLand => Sys2Proof.Machine.execTileRowLand s
  | .tileDrainComplete => Sys2Proof.Machine.execTileDrainComplete s
  | .roundStart => Sys2Proof.Machine.execRoundStart s
  | .paramOverwrite => Sys2Proof.Machine.execParamOverwrite s
  | .readAhead => Sys2Proof.Machine.execReadAhead s
  | .tileFillStart => Sys2Proof.Machine.execTileFillStart s
  | .spaceToken => Sys2Proof.Machine.execSpaceToken s
  | .memoryAccessArrival => Sys2Proof.Machine.execMemoryAccessArrival s
  | .heldAccessPerform => Sys2Proof.Machine.execHeldAccessPerform s
  | .retryReissue => Sys2Proof.Machine.execRetryReissue s
  | .memoryResponse => Sys2Proof.Machine.execMemoryResponse s
  | .homeSliceRequest => Sys2Proof.Machine.execHomeSliceRequest s
  | .invalidationAck => Sys2Proof.Machine.execInvalidationAck s
  | .atomicopCompletion => Sys2Proof.Machine.execAtomicopCompletion s
  | .hostReadCompletion => Sys2Proof.Machine.execHostReadCompletion s
  | .fenceComplete => Sys2Proof.Machine.execFenceComplete s
  | .endComplete => Sys2Proof.Machine.execEndComplete s
  | .tileEngineDone => Sys2Proof.Machine.execTileEngineDone s
  | .matrixRowStep => Sys2Proof.Machine.execMatrixRowStep s
  | .nop pd => Sys2Proof.Machine.execNop pd s
  | .mov pd t1 t0 => Sys2Proof.Machine.execMov pd t1 t0 s
  | .lit pd imm t0 => Sys2Proof.Machine.execLit pd imm t0 s
  | .lit32 pd t1 t0 => Sys2Proof.Machine.execLit32 pd t1 t0 s
  | .steer pd t1 t0 => Sys2Proof.Machine.execSteer pd t1 t0 s
  | .gate pd t1 t0 => Sys2Proof.Machine.execGate pd t1 t0 s
  | .gaten pd t1 t0 => Sys2Proof.Machine.execGaten pd t1 t0 s
  | .merge t1 t0 => Sys2Proof.Machine.execMerge t1 t0 s
  | .sync pd t1 t0 => Sys2Proof.Machine.execSync pd t1 t0 s
  | .iter pd t1 t0 => Sys2Proof.Machine.execIter pd t1 t0 s
  | .nextIter pd t1 t0 => Sys2Proof.Machine.execNextIter pd t1 t0 s
  | .retire pd t1 t0 => Sys2Proof.Machine.execRetire pd t1 t0 s
  | .frame pd level t1 t0 => Sys2Proof.Machine.execFrame pd level t1 t0 s
  | .fret pd t1 t0 => Sys2Proof.Machine.execFret pd t1 t0 s
  | .send pd => Sys2Proof.Machine.execSend pd s
  | .sendm pd => Sys2Proof.Machine.execSendm pd s
  | .cnt pd t1 t0 => Sys2Proof.Machine.execCnt pd t1 t0 s
  | .bound pd t1 t0 => Sys2Proof.Machine.execBound pd t1 t0 s
  | .tagrd pd t1 t0 => Sys2Proof.Machine.execTagrd pd t1 t0 s
  | .qlvl pd t1 t0 => Sys2Proof.Machine.execQlvl pd t1 t0 s
  | .rdh pd trapE h t0 => Sys2Proof.Machine.execRdh pd trapE h t0 s
  | .wrh pd h t0 => Sys2Proof.Machine.execWrh pd h t0 s
  | .clrh pd h t0 => Sys2Proof.Machine.execClrh pd h t0 s
  | .tsth pd h t0 => Sys2Proof.Machine.execTsth pd h t0 s
  | .endRegion pd => Sys2Proof.Machine.execEndRegion pd s
  | .add pd wide t1 t0 => Sys2Proof.Machine.execAdd pd wide t1 t0 s
  | .sub pd wide t1 t0 => Sys2Proof.Machine.execSub pd wide t1 t0 s
  | .mul pd wide t1 t0 => Sys2Proof.Machine.execMul pd wide t1 t0 s
  | .mulh pd wide t1 t0 => Sys2Proof.Machine.execMulh pd wide t1 t0 s
  | .mulhu pd wide t1 t0 => Sys2Proof.Machine.execMulhu pd wide t1 t0 s
  | .div pd wide t1 t0 => Sys2Proof.Machine.execDiv pd wide t1 t0 s
  | .divu pd wide t1 t0 => Sys2Proof.Machine.execDivu pd wide t1 t0 s
  | .rem pd wide t1 t0 => Sys2Proof.Machine.execRem pd wide t1 t0 s
  | .remu pd wide t1 t0 => Sys2Proof.Machine.execRemu pd wide t1 t0 s
  | .and pd wide t1 t0 => Sys2Proof.Machine.execAnd pd wide t1 t0 s
  | .or pd wide t1 t0 => Sys2Proof.Machine.execOr pd wide t1 t0 s
  | .xor pd wide t1 t0 => Sys2Proof.Machine.execXor pd wide t1 t0 s
  | .andn pd wide t1 t0 => Sys2Proof.Machine.execAndn pd wide t1 t0 s
  | .shl pd wide t1 t0 => Sys2Proof.Machine.execShl pd wide t1 t0 s
  | .shr pd wide t1 t0 => Sys2Proof.Machine.execShr pd wide t1 t0 s
  | .sra pd wide t1 t0 => Sys2Proof.Machine.execSra pd wide t1 t0 s
  | .rol pd wide t1 t0 => Sys2Proof.Machine.execRol pd wide t1 t0 s
  | .ror pd wide t1 t0 => Sys2Proof.Machine.execRor pd wide t1 t0 s
  | .cmp pd wide cc t1 t0 => Sys2Proof.Machine.execCmp pd wide cc t1 t0 s
  | .min pd wide t1 t0 => Sys2Proof.Machine.execMin pd wide t1 t0 s
  | .max pd wide t1 t0 => Sys2Proof.Machine.execMax pd wide t1 t0 s
  | .minu pd wide t1 t0 => Sys2Proof.Machine.execMinu pd wide t1 t0 s
  | .maxu pd wide t1 t0 => Sys2Proof.Machine.execMaxu pd wide t1 t0 s
  | .bfxu pd wide t1 t0 => Sys2Proof.Machine.execBfxu pd wide t1 t0 s
  | .bfxs pd wide t1 t0 => Sys2Proof.Machine.execBfxs pd wide t1 t0 s
  | .bfi wide t1 t0 => Sys2Proof.Machine.execBfi wide t1 t0 s
  | .popc pd wide t1 t0 => Sys2Proof.Machine.execPopc pd wide t1 t0 s
  | .clz pd wide t1 t0 => Sys2Proof.Machine.execClz pd wide t1 t0 s
  | .ctz pd wide t1 t0 => Sys2Proof.Machine.execCtz pd wide t1 t0 s
  | .sel wide t1 t0 => Sys2Proof.Machine.execSel wide t1 t0 s
  | .neg pd wide t1 t0 => Sys2Proof.Machine.execNeg pd wide t1 t0 s
  | .abs pd wide t1 t0 => Sys2Proof.Machine.execAbs pd wide t1 t0 s
  | .sx8 pd wide t1 t0 => Sys2Proof.Machine.execSx8 pd wide t1 t0 s
  | .sx16 pd wide t1 t0 => Sys2Proof.Machine.execSx16 pd wide t1 t0 s
  | .sx32 pd t1 t0 => Sys2Proof.Machine.execSx32 pd t1 t0 s
  | .zx8 pd wide t1 t0 => Sys2Proof.Machine.execZx8 pd wide t1 t0 s
  | .zx16 pd wide t1 t0 => Sys2Proof.Machine.execZx16 pd wide t1 t0 s
  | .zx32 pd t1 t0 => Sys2Proof.Machine.execZx32 pd t1 t0 s
  | .addi pd imm t0 => Sys2Proof.Machine.execAddi pd imm t0 s
  | .andi pd imm t0 => Sys2Proof.Machine.execAndi pd imm t0 s
  | .ori pd imm t0 => Sys2Proof.Machine.execOri pd imm t0 s
  | .xori pd imm t0 => Sys2Proof.Machine.execXori pd imm t0 s
  | .fadd pd ft rm t1 t0 => Sys2Proof.Machine.execFadd pd ft rm t1 t0 s
  | .fsub pd ft rm t1 t0 => Sys2Proof.Machine.execFsub pd ft rm t1 t0 s
  | .fmul pd ft rm t1 t0 => Sys2Proof.Machine.execFmul pd ft rm t1 t0 s
  | .ffma ft rm t1 t0 => Sys2Proof.Machine.execFfma ft rm t1 t0 s
  | .fdiv pd ft rm t1 t0 => Sys2Proof.Machine.execFdiv pd ft rm t1 t0 s
  | .fsqrt pd ft rm t1 t0 => Sys2Proof.Machine.execFsqrt pd ft rm t1 t0 s
  | .fmin pd ft t1 t0 => Sys2Proof.Machine.execFmin pd ft t1 t0 s
  | .fmax pd ft t1 t0 => Sys2Proof.Machine.execFmax pd ft t1 t0 s
  | .fminm pd ft t1 t0 => Sys2Proof.Machine.execFminm pd ft t1 t0 s
  | .fmaxm pd ft t1 t0 => Sys2Proof.Machine.execFmaxm pd ft t1 t0 s
  | .fabs pd ft t1 t0 => Sys2Proof.Machine.execFabs pd ft t1 t0 s
  | .fneg pd ft t1 t0 => Sys2Proof.Machine.execFneg pd ft t1 t0 s
  | .fcmp pd ft cc t1 t0 => Sys2Proof.Machine.execFcmp pd ft cc t1 t0 s
  | .frcp pd ft t1 t0 => Sys2Proof.Machine.execFrcp pd ft t1 t0 s
  | .frsq pd ft t1 t0 => Sys2Proof.Machine.execFrsq pd ft t1 t0 s
  | .fexp2 pd ft t1 t0 => Sys2Proof.Machine.execFexp2 pd ft t1 t0 s
  | .flog2 pd ft t1 t0 => Sys2Proof.Machine.execFlog2 pd ft t1 t0 s
  | .fsin pd ft t1 t0 => Sys2Proof.Machine.execFsin pd ft t1 t0 s
  | .fcos pd ft t1 t0 => Sys2Proof.Machine.execFcos pd ft t1 t0 s
  | .frnd pd ft rm t1 t0 => Sys2Proof.Machine.execFrnd pd ft rm t1 t0 s
  | .cvtS pd ft rm t1 t0 => Sys2Proof.Machine.execCvtS pd ft rm t1 t0 s
  | .cvtH pd ft rm t1 t0 => Sys2Proof.Machine.execCvtH pd ft rm t1 t0 s
  | .cvtB pd ft rm t1 t0 => Sys2Proof.Machine.execCvtB pd ft rm t1 t0 s
  | .cvtfi pd ft rm t1 t0 => Sys2Proof.Machine.execCvtfi pd ft rm t1 t0 s
  | .cvtif pd ft rm t1 t0 => Sys2Proof.Machine.execCvtif pd ft rm t1 t0 s
  | .cvtifL pd ft rm t1 t0 => Sys2Proof.Machine.execCvtifL pd ft rm t1 t0 s
  | .cvt8 pd ft t1 t0 => Sys2Proof.Machine.execCvt8 pd ft t1 t0 s
  | .cvf8 pd ft t1 t0 => Sys2Proof.Machine.execCvf8 pd ft t1 t0 s
  | .fclass pd ft t1 t0 => Sys2Proof.Machine.execFclass pd ft t1 t0 s
  | .ld pd seq prevD nextD port t0 => Sys2Proof.Machine.execLd pd seq prevD nextD port t0 s
  | .st pd seq prevD nextD port t0 => Sys2Proof.Machine.execSt pd seq prevD nextD port t0 s
  | .ldt pd seq prevD nextD port t0 => Sys2Proof.Machine.execLdt pd seq prevD nextD port t0 s
  | .stt pd seq prevD nextD port t0 => Sys2Proof.Machine.execStt pd seq prevD nextD port t0 s
  | .ldh pd seq prevD nextD port h => Sys2Proof.Machine.execLdh pd seq prevD nextD port h s
  | .pft pd seq prevD nextD port t0 => Sys2Proof.Machine.execPft pd seq prevD nextD port t0 s
  | .mnop pd seq prevD nextD port t0 => Sys2Proof.Machine.execMnop pd seq prevD nextD port t0 s
  | .fenceAcq pd scope t1 t0 => Sys2Proof.Machine.execFenceAcq pd scope t1 t0 s
  | .fenceRel pd scope t1 t0 => Sys2Proof.Machine.execFenceRel pd scope t1 t0 s
  | .fenceFull pd scope t1 t0 => Sys2Proof.Machine.execFenceFull pd scope t1 t0 s
  | .scas64 pd seq prevD nextD port t0 => Sys2Proof.Machine.execScas64 pd seq prevD nextD port t0 s
  | .scas128 pd seq prevD nextD port t0 => Sys2Proof.Machine.execScas128 pd seq prevD nextD port t0 s
  | .sadd pd seq prevD nextD port t0 => Sys2Proof.Machine.execSadd pd seq prevD nextD port t0 s
  | .sswap pd seq prevD nextD port t0 => Sys2Proof.Machine.execSswap pd seq prevD nextD port t0 s
  | .amot pd td op ct => Sys2Proof.Machine.execAmot pd td op ct s
  | .amoadd pd seq prevD nextD port t0 => Sys2Proof.Machine.execAmoadd pd seq prevD nextD port t0 s
  | .amomin pd seq prevD nextD port t0 => Sys2Proof.Machine.execAmomin pd seq prevD nextD port t0 s
  | .amomax pd seq prevD nextD port t0 => Sys2Proof.Machine.execAmomax pd seq prevD nextD port t0 s
  | .qpush pd queue lim t0 => Sys2Proof.Machine.execQpush pd queue lim t0 s
  | .qpop pd queue lim t0 => Sys2Proof.Machine.execQpop pd queue lim t0 s
  | .qpeek pd queue lim t0 => Sys2Proof.Machine.execQpeek pd queue lim t0 s
  | .barr pd group t0 => Sys2Proof.Machine.execBarr pd group t0 s
  | .tree pd op group t0 => Sys2Proof.Machine.execTree pd op group t0 s
  | .tailadv pd chain t0 => Sys2Proof.Machine.execTailadv pd chain t0 s
  | .tlread pd chain t0 => Sys2Proof.Machine.execTlread pd chain t0 s
  | .tlwait pd chain t0 => Sys2Proof.Machine.execTlwait pd chain t0 s
  | .collrec pd chain t0 => Sys2Proof.Machine.execCollrec pd chain t0 s
  | .trap pd imm t0 => Sys2Proof.Machine.execTrap pd imm t0 s
  | .trapf pd mask t0 => Sys2Proof.Machine.execTrapf pd mask t0 s
  | .sysqHandle pd t1 t0 => Sys2Proof.Machine.execSysqHandle pd t1 t0 s
  | .sysqDie pd t1 t0 => Sys2Proof.Machine.execSysqDie pd t1 t0 s
  | .sysqReplica pd t1 t0 => Sys2Proof.Machine.execSysqReplica pd t1 t0 s
  | .sysqCtx pd t1 t0 => Sys2Proof.Machine.execSysqCtx pd t1 t0 s
  | .rdcfg pd index t0 => Sys2Proof.Machine.execRdcfg pd index t0 s
  | .wrcfg pd index t0 => Sys2Proof.Machine.execWrcfg pd index t0 s
  | .yield pd t1 t0 => Sys2Proof.Machine.execYield pd t1 t0 s
  | .bkpt pd code set t0 => Sys2Proof.Machine.execBkpt pd code set t0 s
  | .cyc pd t1 t0 => Sys2Proof.Machine.execCyc pd t1 t0 s
  | .vadd pd t1 t0 => Sys2Proof.Machine.execVadd pd t1 t0 s
  | .vsub pd t1 t0 => Sys2Proof.Machine.execVsub pd t1 t0 s
  | .vmul pd t1 t0 => Sys2Proof.Machine.execVmul pd t1 t0 s
  | .vmin pd t1 t0 => Sys2Proof.Machine.execVmin pd t1 t0 s
  | .vmax pd t1 t0 => Sys2Proof.Machine.execVmax pd t1 t0 s
  | .vscale pd t1 t0 => Sys2Proof.Machine.execVscale pd t1 t0 s
  | .vcmp pd cc t1 t0 => Sys2Proof.Machine.execVcmp pd cc t1 t0 s
  | .vabs pd t1 t0 => Sys2Proof.Machine.execVabs pd t1 t0 s
  | .vneg pd t1 t0 => Sys2Proof.Machine.execVneg pd t1 t0 s
  | .vrcp pd t1 t0 => Sys2Proof.Machine.execVrcp pd t1 t0 s
  | .vrsq pd t1 t0 => Sys2Proof.Machine.execVrsq pd t1 t0 s
  | .vexp2 pd t1 t0 => Sys2Proof.Machine.execVexp2 pd t1 t0 s
  | .vlog2 pd t1 t0 => Sys2Proof.Machine.execVlog2 pd t1 t0 s
  | .vbcast pd t1 t0 => Sys2Proof.Machine.execVbcast pd t1 t0 s
  | .vredSum pd t1 t0 => Sys2Proof.Machine.execVredSum pd t1 t0 s
  | .vredMin pd t1 t0 => Sys2Proof.Machine.execVredMin pd t1 t0 s
  | .vredMax pd t1 t0 => Sys2Proof.Machine.execVredMax pd t1 t0 s
  | .vcvt pd t1 t0 => Sys2Proof.Machine.execVcvt pd t1 t0 s
  | .vquant pd t1 t0 => Sys2Proof.Machine.execVquant pd t1 t0 s
  | .vfma t1 t0 => Sys2Proof.Machine.execVfma t1 t0 s
  | .vsel t1 t0 => Sys2Proof.Machine.execVsel t1 t0 s
  | .vclamp t1 t0 => Sys2Proof.Machine.execVclamp t1 t0 s
  | .vtrans pd td ta ct => Sys2Proof.Machine.execVtrans pd td ta ct s
  | .vpoolmax pd td ta tb ct => Sys2Proof.Machine.execVpoolmax pd td ta tb ct s
  | .vpoolavg pd td ta tb ct => Sys2Proof.Machine.execVpoolavg pd td ta tb ct s
  | .tdef pd tile t0 => Sys2Proof.Machine.execTdef pd tile t0 s
  | .tset pd state tile t0 => Sys2Proof.Machine.execTset pd state tile t0 s
  | .tstate pd tile t0 => Sys2Proof.Machine.execTstate pd tile t0 s
  | .bmode pd bank mode intlv t0 => Sys2Proof.Machine.execBmode pd bank mode intlv t0 s
  | .permit pd tile t0 => Sys2Proof.Machine.execPermit pd tile t0 s
  | .binv pd tile t0 => Sys2Proof.Machine.execBinv pd tile t0 s
  | .bload pd td ta ct => Sys2Proof.Machine.execBload pd td ta ct s
  | .mma pd ta tb ct => Sys2Proof.Machine.execMma pd ta tb ct s
  | .mmaz pd ta tb ct => Sys2Proof.Machine.execMmaz pd ta tb ct s
  | .mzero pd t1 t0 => Sys2Proof.Machine.execMzero pd t1 t0 s
  | .mrd pd t1 t0 => Sys2Proof.Machine.execMrd pd t1 t0 s
  | .mrda pd t1 t0 => Sys2Proof.Machine.execMrda pd t1 t0 s
  | .mstat pd t1 t0 => Sys2Proof.Machine.execMstat pd t1 t0 s
  | .rsetup pd t1 t0 => Sys2Proof.Machine.execRsetup pd t1 t0 s
  | .rstep pd t1 t0 => Sys2Proof.Machine.execRstep pd t1 t0 s
  | .rbary pd t1 t0 => Sys2Proof.Machine.execRbary pd t1 t0 s
  | .rayxf pd t1 t0 => Sys2Proof.Machine.execRayxf pd t1 t0 s
  | .raybox pd t1 t0 => Sys2Proof.Machine.execRaybox pd t1 t0 s
  | .raytri pd t1 t0 => Sys2Proof.Machine.execRaytri pd t1 t0 s
  | .migr pd => Sys2Proof.Machine.execMigr pd s
  | .seqget pd t1 t0 => Sys2Proof.Machine.execSeqget pd t1 t0 s
  | .seqwait pd t1 t0 => Sys2Proof.Machine.execSeqwait pd t1 t0 s
  | .blend pd t1 t0 => Sys2Proof.Machine.execBlend pd t1 t0 s
  | .loadComplete => Sys2Proof.Machine.execLoadComplete s
  | .dieResetRelease => Sys2Proof.Machine.execDieResetRelease s
  | .configSingleBitError => Sys2Proof.Machine.execConfigSingleBitError s

end Sys2Proof.Machine
end

