-- ==== Sys2Proof/Machine/Order.lean ====
section
/-!
DEFINITION. The model's own order of the steps (log 3, log 4): which step of the machine is due, which firing the arbiters
choose (R128, R190), and the cycle in which the clocks go on.
-/

namespace Sys2Proof.Machine

/-- A step that is due, with its operands. -/
abbrev Due := Option (Instr × Args)

/-- The first of a list for which `f` gives a step. -/
def dueIn {α : Type} (l : List α) (f : α → Due) : Due := l.findSome? f

/-- A step that is due where a condition holds. -/
def dueIf (c : Bool) (i : Instr) (a : Args) : Due := if c then some (i, a) else none

/-! ## The hub (spec/01, 03, 04) -/

/-- Bring-up, page walks, translations, invalidations, keys and attestation. -/
def State.dueHub (s : State) : Due :=
  let h := s.hub
  (dueIf h.bringing .bringupPhase {}) <|>
  (dueIf (!h.walks.isEmpty) .pageWalk {}) <|>
  (dueIn h.ats (fun q => some (if q.pri then .priResponse else .atsTranslationCompletion, { ctx := q.walk.ctx, flag := true }))) <|>
  (dueIf (h.inv.busy && s.invSettled h.inv.matches) .invalidationComplete {}) <|>
  (dueIf (match h.atsInv with
    | [] => false
    | q :: _ => s.invSettled (inRange q)) .atsInvalidationComplete {}) <|>
  (dueIf h.keyCmd.busy .keyCommandDone {}) <|>
  (dueIf h.attest.busy .attestDone {}) <|>
  (dueIn h.qreqs (fun o => dueIf (!s.queueHeld o) .queueRequest { id := o.id }))

/-- The release engine and the tokens on their way from it. -/
def State.dueRelease (s : State) : Due :=
  let r := s.rel
  (dueIf r.reached .releaseInstant {}) <|>
  (dueIf (!r.reports.isEmpty) .frameCompletionReport {}) <|>
  (dueIf (r.running && decide (r.phase ≤ 15) && decide (r.phaseAt r.instant r.phase ≤ r.now)) .phaseToken {}) <|>
  (dueIf ((r.lock = .locked || r.lock = .acquiring) && decide (6000000000 ≤ (s.hub.cycles - r.heard).toNat)) .holdoverEnter {}) <|>
  (dueIn r.tokens (fun q => match q.2 with
    | .deadline _ :: _ => some (.deadlineTokenReceive, { die := q.1 })
    | .phase _ _ :: _ => some (.phaseTokenReceive, { die := q.1 })
    | [] => none))

/-! ## Chains and queues (spec/05) -/

/-- The step that starts a record of a type (R95). -/
def recordStep (type : Nat) : Instr :=
  if type = 0x00 then .nopRecord else if type = 0x01 then .jumpRecord else if type = 0x02 then .copyRecord
  else if type = 0x03 then .fillRecord else if type = 0x10 then .launchRecord else .collRecord

/-- Whether a record in progress can complete. -/
def State.completes (s : State) (ctx c : Nat) (r : CmdRec) : Bool :=
  r.running && (r.work ≠ 0 || (match s.coll? ctx c r.ordinal with
    | some q => q.status.isSome
    | none => s.acks.isEmpty && s.regions.any (fun q => q.ctx = ctx && q.chain = c && q.ordinal = r.ordinal && q.complete)))

/-- What is due on a chain. -/
def State.dueChain (s : State) (ctx c : Nat) (q : Chain) : Due :=
  (dueIn q.recs (fun r => dueIf (s.completes ctx c r) .recordComplete { ctx := ctx, chain := c, ordinal := r.ordinal })) <|>
  (match q.nextRec with
    | none => none
    | some r => dueIf (s.readyRec ctx c r.type).isSome (recordStep r.type) { ctx := ctx, chain := c }) <|>
  (dueIf (s.walks ctx c && q.nextRec.isNone && decide (q.walked.toNat < q.tail.toNat)) .recordFetch { ctx := ctx, chain := c })

/-- The partials that the owner's engines can combine (R61, R62). -/
def State.dueColls (s : State) : Due :=
  dueIn s.colls (fun c => dueIn (List.range c.members.length) (fun rank =>
    dueIf (c.status.isNone && c.combines rank && !c.have.contains rank) .collPartialReceive
      { ctx := c.ctx, chain := c.chain, ordinal := c.ordinal, value := BitVec.ofNat 64 rank }))

/-- A complete region whose record has ended before it (R99, R113). -/
def State.dueComplete (s : State) : Due :=
  dueIn s.regions (fun r => dueIf (r.complete && s.acks.isEmpty &&
      !(((s.chain r.ctx r.chain).rcd? r.ordinal).map CmdRec.running).getD false)
    .recordComplete { ctx := r.ctx, chain := r.chain, ordinal := r.ordinal })

/-- The queue operations whose wait has run out (R105, R107). -/
def State.dueQueue (s : State) (ctx n : Nat) (q : HwQueue) : Due :=
  dueIn (q.pushes ++ q.pops) (fun o =>
    if o.kind = .enginePush then
      dueIf (decide (o.arrived + 2 ^ 20 ≤ s.hub.cycles.toNat)) .enginePushExpiry { ctx := ctx, queue := n, chain := o.chain, ordinal := o.ordinal }
    else dueIf (decide (o.arrived + 2 ^ o.lim ≤ s.hub.cycles.toNat)) .qwaitExpiry { ctx := ctx, queue := n, id := o.id })

/-- Chains, queues and restores. -/
def State.dueCommands (s : State) : Due :=
  (dueIn s.hub.ctxs (fun q => dueIn q.2.chains (fun c => s.dueChain q.1 c.1 c.2))) <|>
  (dueIn s.hub.ctxs (fun q => dueIn q.2.queues (fun h => s.dueQueue q.1 h.1 h.2))) <|>
  s.dueColls <|> s.dueComplete <|>
  (dueIf (s.restorePlace (sortBy waitsBefore s.hub.waiting) []).isSome .restorePlacement {})

/-! ## Tokens and frames (spec/08, 09) -/

/-- Whether the first queue token of a region in a cell can move. -/
def State.matchMoves (s : State) (r : Region) (k : Nat) (t : Tok) : Bool :=
  match r.steerAt t.x t.y t.dest.win t.tag t.val with
  | .away x y => (s.takeEntry (cellKey r.die x y) t.region).isSome
  | .hold _ => true
  | .here =>
    match (s.cell k).findWin r.id t.dest.win, if t.kind = .unparked then .accept else r.admission t.x t.y t.tag with
    | some (w, _), .accept => let q := s.portOfDest k w t.dest; s.roomFor k w r.id q.1 q.2 t.tag t.val t.held
    | _, _ => true

/-- Whether the token at the head of a ring can move. -/
def State.ringMoves (s : State) (r : Region) (k x y w : Nat) (i : InArc) (b : Nat) : Bool :=
  !(s.cell k).bankBusy b && (match (s.cell k).ringFront b with
    | none => false
    | some t =>
      match r.steerAt x y ((s.cell k).window w).rwin t.tag t.val, r.admission x y t.tag with
      | .away gx gy, _ => (s.takeEntry (cellKey r.die gx gy) r.id).isSome
      | .here, .accept => s.roomFor k w r.id i.slot i.port t.tag t.val false
      | _, _ => true)

/-- TOKEN_MATCH in a cell of a region. -/
def State.dueMatch (s : State) (r : Region) (x y : Nat) : Due :=
  let k := cellKey r.die x y
  let c := s.cell k
  if r.stop = .freeze || r.st = .frozen || r.cut x y then none
  else
    (match c.queue.find? (fun t => t.region = r.id) with
      | none => none
      | some t => dueIf (s.matchMoves r k t) .tokenMatch { region := r.id, x := x, y := y }) <|>
    (dueIn (c.windows.filter (fun w => w.2.region = r.id)) (fun w => dueIn w.2.ins (fun i =>
      match i.2.fifo with
      | none => none
      | some b => dueIf (s.ringMoves r k x y w.1 i.2 b) .tokenMatch { region := r.id, x := x, y := y, port := w.2.rwin, arc := i.1, flag := true })))

/-- Whether the first of a region's initial tokens can be injected (R102). -/
def State.injects (s : State) (r : Region) : Bool :=
  match r.inject with
  | [] => false
  | e :: _ =>
    let w := e.2.1
    let v := Val.of (r.image.tokenLen w) e.1
    let tag := mkTag r.ctx (bits e.2.2 21 14) (bits e.2.2 13 12) (bits e.2.2 11 0)
    r.st = .running && r.stop = .none && (match portOf (bits w 15 14) with
      | some _ =>
        let goal := r.steer (r.x0 + bits w 31 25) (r.y0 + bits w 24 19) (bits w 18 16) tag v
        (s.takeEntry (cellKey r.die goal.1 goal.2) r.id).isSome
      | none =>
        match r.image.arcs.find? (fun a => a.cx = bits w 31 25 && a.cy = bits w 24 19 && a.cwin = bits w 18 16 && a.carc = bits w 13 8) with
        | none => true
        | some a =>
          match (s.cell (cellKey r.die (r.x0 + a.px) (r.y0 + a.py))).findWin r.id a.pwin with
          | none => true
          | some (_, q) => s.arcReady r.id (look {} q.outs a.parc) [v.len])

/-- Whether a frame's RESUME can make its next move (R162). -/
def State.reinjects (s : State) (r : Region) (frm : Nat) : Bool :=
  r.st = .running && r.stop = .none && !s.reported r frm && !s.starves r frm &&
  (r.park.any (fun p => match p with
    | .accord f => f.frm = frm
    | .token _ => false) ||
  (match r.park.findSome? (fun p => match p with
      | .token t => if tagFrm t.tag = frm then some t else none
      | .accord _ => none) with
    | none => true
    | some t => (s.takeEntry (cellKey r.die t.x t.y) r.id).isSome))

/-- What is due for a frame of a region. -/
def State.dueFrame (s : State) (r : Region) (f : FrameRec) : Due :=
  (dueIn f.markers (fun m => dueIn m.2.2 (fun arc =>
    dueIf (!s.aheadOf r.id arc m.2.1) .markerReport { region := r.id, frm := f.frm, arc := arc }))) <|>
  (match f.wrap with
    | none => none
    | some w =>
      match w.cells, w.acks with
      | c :: _, _ => some (.lapUpdate, { region := r.id, frm := f.frm, x := c.1, y := c.2 })
      | [], _ :: _ => some (.lapAck, { region := r.id, frm := f.frm })
      | [], [] => none) <|>
  (dueIf (f.killed && !s.frameBusy r.id f.frm && !s.reported r f.frm) .killTagsFree { region := r.id, frm := f.frm })

/-- What is due for an elastic actor of a region (R122, R124). -/
def State.dueActor (s : State) (r : Region) (a : Actor) : Due :=
  let g : Args := { region := r.id, actor := a.cfg.actor }
  (dueIf (a.moves.any (fun m => m.step = 4)) .bucketRelease g) <|>
  (dueIf (a.copyable.any (s.moveReady r a)) .bucketStateCopy g) <|>
  (dueIf (s.freeable r a).isSome .replicaFree g)

/-- Whether an access of a region can still perform. -/
def State.performs (s : State) (id : Nat) : Bool := s.accesses.any (fun a => a.firing.region = id && s.canPerform a)

/-- What is due for the stop or the end of a region (R172, R173, R322). -/
def State.dueStop (s : State) (r : Region) : Due :=
  match r.stop with
  | .drydown cells =>
    match r.cells.find? (fun c => !cells.contains c) with
    | some c => dueIf r.unmoving .markerArrival { region := r.id, x := c.1, y := c.2 }
    | none => dueIf (s.canSettle r) .cutComplete { region := r.id }
  | .freeze => dueIf (r.st ≠ .frozen && s.canSettle r) .freezeComplete { region := r.id }
  | .none =>
    dueIf (r.ended && !r.complete && !s.outstanding r.id && !s.sendsOpen r.id && !s.performs r.id) .endComplete { region := r.id }

/-- What is due in a cell of a region. -/
def State.dueCell (s : State) (r : Region) (x y : Nat) : Due :=
  let k := cellKey r.die x y
  (s.dueMatch r x y) <|>
  (dueIf ((s.cell k).reports r.id (s.die r.die).fabCycles.toNat) .progressReport { region := r.id, x := x, y := y })

/-- What is due in a region. -/
def State.dueRegion (s : State) (r : Region) : Due :=
  (dueIn r.cells (fun c => s.dueCell r c.1 c.2)) <|>
  (dueIf (s.injects r) .tokenInject { region := r.id }) <|>
  (dueIn r.frames (s.dueFrame r)) <|>
  (dueIn r.resuming (fun f => dueIf (s.reinjects r f) .parkReinject { region := r.id, frm := f })) <|>
  (dueIn r.actors (s.dueActor r)) <|>
  (s.dueStop r)

/-! ## Accesses, fences, rounds and transfers (spec/10, 11, 16, 17) -/

/-- What is due for an access. -/
def State.dueAccess (s : State) (a : Access) : Due :=
  let g : Args := { id := a.id }
  match a.phase with
  | .travel => dueIf (!s.refusalWaits a && !s.stopsHere a) .memoryAccessArrival g
  | .held => dueIf (s.canPerform a) .heldAccessPerform g
  | .retry true => some (.retryReissue, g)
  | .home => dueIf (!(a.op.writes && s.acks.any (fun k => k.access = a.id))) .homeSliceRequest g
  | .host => some (if a.op.isSystem then .atomicopCompletion else .hostReadCompletion, g)
  | _ => none

/-- Whether a fence moves on now: settled, or completed (R241, R244). -/
def State.fenceMoves (s : State) (q : Fence) : Bool :=
  let owed := distinct (s.acks.map Ack.access)
  !s.fenceOwes q && !q.hostRead &&
  ((wideScope q.scope && !q.settled && !owed.isEmpty) || !(q.settled && q.before.any owed.contains))

/-- What is due for a fence of a cell. -/
def State.dueFence (s : State) (k : Nat) (c : Cell) (q : Fence) : Due :=
  let g : Args := { id := q.id, die := k / 3200, x := k % 80, y := k % 3200 / 80 }
  if q.hostRead then some (.hostReadCompletion, g)
  else dueIf ((c.fences.find? (fun p => p.firing.region = q.firing.region && p.firing.frm = q.firing.frm)).map Fence.id = some q.id &&
    s.fenceMoves q) .fenceComplete g

/-- Whether a transfer that waits can begin (R205). -/
def State.xferBegins (s : State) (x : Xfer) : Bool :=
  let q := s.xferOf x
  !x.begun && !x.faulted && !s.xferBehind x && (match x.kind with
    | .fill => (x.targets q.1 q.2).all (s.takesTile q.1)
    | .drain => let p := s.drainSource q.1 q.2 x; (s.cell p.1).canDrain p.2)

/-- What is due for a transfer that has not begun. -/
def State.dueXfer (s : State) (x : Xfer) : Due := dueIf (s.xferBegins x) .tileFillStart { id := x.id }

/-- Whether a stream of an endpoint can send its next packet (R35). -/
def State.sends (s : State) (t : SendStream) : Bool :=
  t.st = .open && !t.sentLast && decide (t.next < t.limit) && (match t.feed with
    | .tokens [] false => false
    | .act id => s.acts.any (fun q => q.id = id && !q.queue.isEmpty)
    | _ => true)

/-- Whether a stream carries a record of the chain of a port core's block-transfer engine (R90, R227). -/
def ofEngine (k : Nat) (t : SendStream) : Bool :=
  k / 1024 < 8 && k % 1024 < 80 && (match t.owner with
    | .record .. => true
    | _ => false)

/-- What the block-transfer engine of a port core has to do: its client (an AGN, or 8 for its chain), the note, and the step (R227). -/
def State.engineWork (s : State) (core : Nat) : List (Nat × Note × (Instr × Args)) :=
  let k := 1024 * (core / 80) + core % 80
  (s.xfers.filter (fun x => s.xferCore x = core && s.xferGoes x)).map (fun x =>
    let q := s.xferOf x
    (q.2.agn, (s.shapeOf q.1 q.2).note, (if x.kind = .fill then Instr.tileRowLand else .tileDrainComplete, { id := x.id }))) ++
  ((s.ep k).sends.filter (fun t => ofEngine k t && s.sends t)).map (fun t => (8, t.cls, (.packetSend, { ep := k, stream := t.stream })))

/-- The next transfer of a block-transfer engine (R227): by note, and then round-robin from the client served last. -/
def State.dueEngine (s : State) (core : Nat) : Due :=
  let turn := (s.portCore core).turn
  let place := fun (w : Nat × Note × (Instr × Args)) => (w.1 + 17 - turn) % 9
  ((sortBy (fun (a b : Nat × Note × (Instr × Args)) =>
    decide (a.2.1.code < b.2.1.code) || (a.2.1 = b.2.1 && decide (place a ≤ place b))) (s.engineWork core)).head?).map (fun w => w.2.2)

/-- The port cores whose block-transfer engines have work. -/
def State.engineCores (s : State) : List Nat :=
  distinct (s.xfers.map s.xferCore ++ (s.eps.filter (fun e => e.2.sends.any (ofEngine e.1))).map (fun e => 80 * (e.1 / 1024) + e.1 % 1024))

/-- What is due for a binding of a region. -/
def State.dueBinding (s : State) (r : Region) (b : Binding) : Due :=
  let g : Args := { region := r.id, port := b.p }
  let q := s.agn r b
  if r.ended || r.stop = .freeze || r.st = .frozen || r.st = .loading then none
  else
    (dueIf (!q.params.isEmpty && q.pending.isNone) .paramOverwrite g) <|>
    (dueIf (s.roundReady r b) .roundStart g) <|>
    (dueIf (s.tileReadyToStart r b) .tileFillStart g)

/-- Accesses, acknowledgements, responses, fences, tile engines, transfers, space tokens and rounds. -/
def State.dueMemory (s : State) : Due :=
  (dueIn s.accesses s.dueAccess) <|>
  (dueIn s.acks (fun k => some (.invalidationAck, { id := k.access, die := k.die }))) <|>
  (dueIn s.responses (fun p => some (.memoryResponse, { id := p.id }))) <|>
  (dueIn s.cells (fun q => dueIn q.2.fences (s.dueFence q.1 q.2))) <|>
  (dueIn s.cells (fun q => dueIf q.2.engine.isSome .tileEngineDone { die := q.1 / 3200, x := q.1 % 80, y := q.1 % 3200 / 80 })) <|>
  (dueIn s.xfers s.dueXfer) <|> (dueIn s.engineCores s.dueEngine) <|>
  (dueIn s.spaces (fun t => some (.spaceToken, { id := t.id }))) <|>
  (dueIn s.regions (fun r => dueIn r.image.bindings (s.dueBinding r)))

/-! ## Dies (spec/01, 03, 06, 08) -/

/-- What is due at a die. -/
def State.dueDie (s : State) (d : Nat) (q : Die) : Due :=
  let g : Args := { die := d }
  (dueIf q.transition .stepTransitionEnd g) <|>
  (dueIf (!q.reports.isEmpty) .frameTrap g) <|>
  (dueIf ((q.loading.bind s.region?).isSome) .loadComplete g) <|>
  (dueIf (!q.gates.isEmpty) .qualityGate g) <|>
  (dueIf (q.tree.any (fun o => !o.active && !o.bad) && decide ((q.tree.filter (fun o => o.active)).length < 16)) .treeOpStart g) <|>
  (dueIn q.tree (fun o => dueIf (o.full && (o.bad || (o.active && !s.treeHeld o))) .treeResult { die := d, id := o.id }))

/-! ## The routed network (spec/02) -/

/-- The step that an endpoint makes of a packet that has reached it. -/
def packetStep (p : Pkt) : Instr :=
  if p.dataKind then (if p.trim then .trimmedHeaderReceive else .dataPacketReceive)
  else if p.kind = 1 then .grantReceive
  else if p.kind = 2 then .rreqReceive
  else if p.kind = 3 then .ackReceive
  else if p.unknown then .dataPacketReceive
  else if p.addr = 0 then .openReceive
  else if p.addr = 1 then .closeReceive
  else if p.addr = 2 then .closedReceive
  else .refuseReceive

/-- What is due for a send-table entry of an endpoint. -/
def State.dueSend (s : State) (k : Nat) (e : Endpoint) (t : SendStream) : Due :=
  let g : Args := { ep := k, stream := t.stream }
  (dueIf (t.st = .refused && decide (t.since + e.gap.toNat ≤ s.epCycle k)) .openRetry g) <|>
  (dueIf (!t.resend.isEmpty) .retransmit g) <|>
  (dueIf (s.sends t && !ofEngine k t) .packetSend g) <|>
  (dueIn t.kept (fun q => dueIf (decide (q.2 + 2 ^ t.rto.toNat ≤ s.epCycle k)) .retransmissionTimeout { ep := k, stream := t.stream, seq := q.1.seq }))

/-- What is due for a receive-table entry of an endpoint. -/
def State.dueRecv (s : State) (k : Nat) (t : RecvStream) : Due :=
  let g : Args := { ep := k, src := t.src, stream := t.stream }
  (dueIf ((t.deliverable.bind (s.deliver k)).isSome) .packetDeliver g) <|>
  (dueIf (s.rreqReady k t).isSome .rreqSend g) <|>
  (dueIf (t.unacked && decide (t.since + 256 ≤ s.epCycle k)) .ackTimer g)

/-- What is due at an endpoint. -/
def State.dueEndpoint (s : State) (k : Nat) (e : Endpoint) : Due :=
  (dueIn e.inbox (fun p => some (packetStep p, { ep := k }))) <|>
  (dueIn e.recvs (s.dueRecv k)) <|>
  (dueIn e.sends (s.dueSend k e)) <|>
  (dueIf (!e.wants.isEmpty && (freeIndex (e.sends.map (fun t => t.index))).isSome) .streamOpen { ep := k })

/-- What is due at a switch input: its head taken, or a header entered into the store of an output (R33). -/
def State.dueInput (s : State) (sw inp : Nat) (i : SwIn) : Due :=
  let room := fun (out : Nat) => decide (((s.swOut sw out).store inp).length < 4)
  let enter := fun (out : Nat) => dueIf (room out) .headerStoreEntry { sw := sw, inp := inp, out := out }
  (i.paused.bind (fun q => enter q.1)) <|>
  (dueIf (i.paused.isNone && !i.data.isEmpty) .switchPacketArrival { sw := sw, inp := inp }) <|>
  (if i.sil.isEmpty then none
    else dueIn (List.range 128) (fun out => if i.sil.any (fun p => s.headerFor sw p out) then enter out else none))

/-- The switches and endpoints. -/
def State.dueNetwork (s : State) : Due :=
  (dueIn s.ins (fun q => s.dueInput (q.1 / 128) (q.1 % 128) q.2)) <|>
  (dueIn s.outs (fun q => dueIf ((s.silNext (q.1 / 128) (q.1 % 128)).isSome || (s.dataNote (q.1 / 128) (q.1 % 128)).isSome)
    .flitDepart { sw := q.1 / 128, out := q.1 % 128 })) <|>
  (dueIn s.eps (fun q => s.dueEndpoint q.1 q.2))

/-! ## The step that is due -/

/-- The next token to reach its cell: of the tokens that can, one of the most urgent note, and the oldest of it (R130, R185). -/
def State.dueToken (s : State) : Due :=
  let of := fun (n : Note) => s.toks.find? (fun t => t.note = n && s.arrives t)
  (of .top <|> of .heart <|> of .base).map (fun t => (.tokenArrival, { id := t.id }))

/-- The step that is due, the first in the model's order (log 3). -/
def State.due (s : State) : Due :=
  s.dueHub <|> (dueIn s.dies (fun q => s.dueDie q.1 q.2)) <|> s.dueRelease <|>
  s.dueToken <|>
  (dueIn s.notices (fun n => some (.creditNotice, { id := n.id }))) <|>
  s.dueMemory <|> (dueIn s.regions s.dueRegion) <|> s.dueNetwork <|> s.dueCommands

/-! ## The arbiters (R128, R190) -/

/-- Whether a region's cells fire (R10, R115, R172, R173, R322). -/
def State.firesAt (s : State) (r : Region) (x y : Nat) : Bool :=
  s.dieUp r.die && !(s.die r.die).transition && !(s.die r.die).pwr.tripped && r.st ≠ .frozen && r.st ≠ .loading &&
  r.stop ≠ .freeze && !r.cut x y && !r.ended && !r.complete

/-- The firing of an accord in a cell. -/
def Cell.firingOf (c : Cell) (k : Nat) (a : Accord) : Firing :=
  let w := c.window a.win
  { die := k / 3200, x := k % 80, y := k % 3200 / 80, region := w.region, rwin := w.rwin, acc := a }

/-- Whether an accord comes before another for a unit (R128): by note, a share before none, least pass, lowest window, and
in a window by its completion and slot. -/
def Cell.firesFirst (c : Cell) (u : Unit4) (a b : Accord) : Bool :=
  let v := c.window a.win
  let w := c.window b.win
  if v.note ≠ w.note then decide (v.note.code < w.note.code)
  else if (v.eff = 0) ≠ (w.eff = 0) then w.eff = 0
  else if a.win ≠ b.win then
    if v.passOf u ≠ w.passOf u then passBefore (v.passOf u) (w.passOf u) else decide (a.win < b.win)
  else if a.stamp ≠ b.stamp then decide (a.stamp < b.stamp) else decide (a.slot ≤ b.slot)

/-- The accords of a cell that need a unit, in the arbiter's order; none of the memory unit's while its retry buffer is full
(R221). -/
def State.candidates (s : State) (k : Nat) (c : Cell) (u : Unit4) : List Accord :=
  sortBy (c.firesFirst u) (c.waiting.filter (fun a => c.unitOf a = some u && (match s.region? (c.window a.win).region with
    | none => false
    | some r =>
      s.firesAt r (k % 80) (k % 3200 / 80) &&
      !((c.window a.win).note = .base && (s.die r.die).pwr.throttle && (s.die r.die).fabCycles.toNat % 2 = 1) &&
      (u ≠ .matrix || s.matrixFree (c.firingOf k a)) && (u ≠ .memory || decide (s.retries k < 32)))))

/-- What a window with a share adds to its pass when it fires (R128). -/
def stride (eff : Nat) : Nat := if eff = 0 then 2 ^ 16 else 2 ^ 16 / eff

/-- A unit of a cell used in this cycle. -/
def Sched.spend (q : Sched) (cell unit : Nat) : Sched :=
  { q with turn := 16 * cell + ((if q.turn / 16 = cell then q.turn % 16 else 0) ||| 2 ^ unit) }

/-- Whether a unit of a cell has still to be asked in this cycle: cells come in order. -/
def Sched.free (q : Sched) (cell unit : Nat) : Bool := decide (q.turn / 16 < cell) || (q.turn / 16 = cell && !bit q.turn unit)

/-- A firing chosen: its accord leaves the waiting accords, its window's pass grows (R128), and its region is not silent (R168). -/
def State.choose (s : State) (u : Unit4) (f : Firing) : State :=
  let s := s.updCell f.cell (fun c =>
    { c with waiting := dropFirst (fun a => a.stamp = f.acc.stamp && a.win = f.acc.win && a.slot = f.acc.slot) c.waiting }.updWindow f.acc.win
      (fun w => { w with pass := put 0 u.num (w.passOf u + BitVec.ofNat 32 (stride w.eff)) w.pass }))
  let s := s.stir f.region
  { s with sch := { s.sch.spend f.cell u.num with chosen := some f } }

/-- Whether a chosen firing is ready (R190): its meaning does not put it back. -/
def State.accordReady (s : State) (f : Firing) : Bool :=
  let w := ((s.cell f.cell).window f.acc.win).words.getD f.acc.slot 0
  match decode w with
  | .error _ => true
  | .ok i =>
    match exec i { s with sch := { s.sch with cur := f, chosen := none, blocked := false } } with
    | .next t => !t.sch.blocked
    | _ => true

/-- The choice of a unit of a cell: the first ready accord, else the next row of the matrix unit's sequence (R128, R369). -/
inductive Choice where
  | fire (u : Unit4) (f : Firing)
  | row (k : Nat)
  deriving DecidableEq, Repr

/-- The choice of the arbiter of a unit in a cell. -/
def State.arbitrate (s : State) (k : Nat) (c : Cell) (u : Unit4) : Option Choice :=
  match (s.candidates k c u).findSome? (fun a =>
    let f := c.firingOf k a
    if (s.choose u f).accordReady f then some (Choice.fire u f) else none) with
  | some q => some q
  | none => if u = .matrix && !c.seqs.isEmpty && s.dieUp (k / 3200) then some (.row k) else none

/-- Whether a choice of a cell comes before another (R127): what requests shared entries is served by note and then by the lower
physical window. -/
def Cell.goesFirst (c : Cell) : Choice → Choice → Bool
  | .fire _ a, .fire _ b =>
    let n := fun (f : Firing) => (c.window f.acc.win).note.code
    decide (n a < n b) || (n a = n b && decide (a.acc.win ≤ b.acc.win))
  | .row _, .fire .. => false
  | _, .row _ => true

/-- The next choice of this cycle: of the first cell whose units have one still to make. -/
def State.nextChoice (s : State) : Option Choice :=
  s.cells.findSome? (fun q => (sortBy q.2.goesFirst ([Unit4.scalar, .vector, .matrix, .memory].filterMap (fun u =>
    if s.sch.free q.1 u.num then s.arbitrate q.1 q.2 u else none))).head?)

/-! ## The clocks (R9, R129, R168; log 4) -/

/-- Tokens that wait on the input arcs of a window (R129). -/
def Cell.occupancy (c : Cell) (w : Window) : Nat := sumOf (w.ins.map (fun (i : Nat × InArc) => c.waitingOn i.2))

/-- A cell after a fabric cycle: the occupancy of its arcs summed. -/
def Cell.tick (c : Cell) : Cell :=
  { c with windows := c.windows.map (fun w => (w.1, { w.2 with occSum := w.2.occSum + c.occupancy w.2, occSince := w.2.occSince + 1 })) }

/-- The steps that a cycle ends with (R12, R120, R129, R169). -/
def State.periodic (s : State) : List (Instr × Args) :=
  (if s.hub.cycles.toNat % 65536 = 0 then [(Instr.governorInterval, ({} : Args))] else []) ++
  (s.dies.filter (fun q => s.dieUp q.1 && q.2.netCycles.toNat % 4096 = 0)).map (fun q => (.placementSample, { die := q.1 })) ++
  (s.cells.filter (fun q => q.2.windows.any (fun w => 1024 ≤ w.2.occSince))).map (fun q =>
    (.shareReweight, { die := q.1 / 3200, x := q.1 % 80, y := q.1 % 3200 / 80 })) ++
  (s.regions.filter (fun r => s.isSilent r && (s.holdsLoose r || !r.holdsParked))).map (fun r => (.regionSilent, { region := r.id }))

/-- One cycle of every clock of what is up: the counters rise, silent regions grow older, and the periodic steps are put first. -/
def State.tick (s : State) : State :=
  let dies := (List.range 8).foldl (fun (m : Assoc Die) d => if s.dieUp d then
      upd {} d (fun q => { q with fabCycles := q.fabCycles + 1, netCycles := q.netCycles + 1 }) m else m) s.dies
  let s := { s with
    hub := { s.hub with cycles := s.hub.cycles + 1 }
    dies := dies
    rel := if s.hub.cycles.toNat % 2 = 1 then s.rel.tick else s.rel
    regions := s.regions.map (fun (r : Region) => { r with silentFor := if s.outstanding r.id then 0 else r.silentFor + 1 })
    cells := s.cells.map (fun (q : Nat × Cell) => (q.1, q.2.tick))
    sch := { s.sch with turn := 0 } }
  { s with sch := { s.sch with agenda := s.periodic } }

end Sys2Proof.Machine
end

