-- ==== Sys2Proof/Machine/Step.lean ====
section
/-!
DEFINITION. One step of the machine: the arbiter's choice carried out, else the step put first, else the next step of
the model's own order (log 3); and a firing of a given word placed so that the next step carries it out (log 8).
-/

namespace Sys2Proof.Machine

/-- The word of a chosen accord's slot. -/
def State.fetch (s : State) (f : Firing) : Word := ((s.cell f.cell).window f.acc.win).words.getD f.acc.slot 0

/-- The state in which a chosen firing is carried out. -/
def State.begin (s : State) (f : Firing) : State :=
  { s with sch := { s.sch with cur := f, chosen := none, blocked := false } }

/-- The state in which a step put first is carried out. -/
def State.take (s : State) (a : Args) (t : List (Instr × Args)) : State :=
  { s with sch := { s.sch with agenda := t, args := a } }

/-- A chosen accord carried out: its word decoded and executed. -/
def State.fireChosen (s : State) (f : Firing) : Result :=
  match decode (s.fetch f) with
  | .ok i => exec i (s.begin f)
  | .error c => .fault (.undecodable c.code)

/-- The model's own order: the step that is due, else a choice of the arbiters, else the next cycle (log 3). -/
def State.goOn (s : State) : Result :=
  match s.due with
  | some (i, a) => exec i (s.take a [])
  | none =>
    match s.nextChoice with
    | some (.fire u f) => .next (s.choose u f)
    | some (.row k) =>
      exec .matrixRowStep ({ s with sch := s.sch.spend k Unit4.matrix.num }.take { die := k / 3200, x := k % 80, y := k % 3200 / 80 } [])
    | none => .next s.tick

/-- One step. -/
def step (s : State) : Host.Outcome State Fault Refusal :=
  match s.sch.chosen with
  | some f => s.fireChosen f
  | none =>
    match s.sch.agenda with
    | (i, a) :: t => exec i (s.take a t)
    | [] => s.goOn

/-- The bindings of the region that `withFetchWord` places: p0 to p31, each in element mode on its own port core. -/
def fetchBindings : List Binding :=
  (List.range 32).map (fun p =>
    { p := p, agn := 0, core := p, shape := { cls := .random, ndim := 1, dims := [{ ext := 16, stride := 32 }] } })

/-- The window that `withFetchWord` places: the word in slot 0, before a constant, with every output arc open. -/
def fetchWindow (w : Nat) : Window :=
  { region := 1, rwin := 0, words := [BitVec.ofNat 32 w, 0]
    outs := (List.range 64).map (fun n => (n, { depth := 64, cred := 64 })) }

/-- The accord that `withFetchWord` completes: 8-byte zeros, and on P the bit that the word's pd field asks for. -/
def fetchAccord (w : Nat) : Accord :=
  { win := 0, slot := 0, l := some (Val.of 8 0), r := some (Val.of 8 0), p := some (Val.of 8 (bitOf (bit w 23))) }

/-- The instruction with these bits placed in a running region of one cell, its accord complete and chosen, so that the
next step fetches and runs it (log 8). -/
def State.withFetchWord (s : State) (_nbits w : Nat) : State :=
  let image : Image := { wpc := 1, banks := 15, qextra := 8, bindings := fetchBindings }
  let region : Region :=
    { id := 1, die := 0, x0 := 0, y0 := 0, image := image, frames := [{ frm := 0, level := 0, next := 1, live := [(0, 0)] }] }
  let cell : Cell :=
    { windows := [(0, fetchWindow w)]
      banks := (List.range 4).map (fun k => (k, { claimed := true, region := 1 }))
      tiles := (List.range 32).map (fun j => (j, { defined := true, st := .ready, stride := 1 }))
      rng := [(1, rngSeed 0 0 0)] }
  { s with
    regions := [region]
    cells := put {} 0 cell s.cells
    sch := { s.sch with nextId := 2, chosen := some { region := 1, acc := fetchAccord w } } }

end Sys2Proof.Machine
end

