-- ==== Sys2Proof/Safety.lean ====
section
/-!
DEFINITION. What a run of the part may not do, in the terms in which statements are made: it does not stop (no rule of
the spec stops the part: every fault of spec/08 is a next state), and it keeps the byte memories in canonical form.
-/

namespace Sys2Proof.Machine

/-- The byte memories of a state, the device's and the host's, are in canonical form. -/
def State.memForm (s : State) : Bool := memoryWf s.mem && memoryWf s.hostMem

/-- A step answers a next state. -/
def Result.goesOn : Result → Bool
  | .next _ => true
  | .fault _ => false
  | .refused _ => false

/-- A run of `n` steps does not stop, and every state of it keeps its memories' form. -/
def State.safeFor : Nat → State → Prop
  | 0, s => s.memForm = true
  | n + 1, s => s.memForm = true ∧ ∃ t, step s = .next t ∧ t.safeFor n

/-- Whether the step puts a firing back, as one that was not ready (R190), and so does nothing. -/
def Result.waits : Result → Bool
  | .next t => t.sch.blocked
  | .fault _ => false
  | .refused _ => false

end Sys2Proof.Machine
end

