-- ==== Sys2Proof/Certificates/Slice0/Obligations.lean ====
section
/-!
DEFINITION. The statements of this model, one for a rule or a group of rules of spec/ (OBLIGATIONS.json lists them). A
statement about an instruction of an accord quantifies over every state whose firing (`sch.cur`) passes its predicate
(R190) and whose targets are ready (R190, R192, R199); a statement about a step without a word names what the step
moves in `sch.args` (log 3). The names under `Claims` abbreviate what several statements say.
-/

namespace Sys2Proof.Claims

open Sys2Proof.Machine

/-! ## What a firing sends -/

/-- Instruction `i` sends `l` (R191): in every state whose firing passes the predicate of `i` (R190) and whose targets are
ready for `l`, executing `i` answers the state in which the flags `fl` are ORed into H31 of the frame (R262) and the tokens
of `l` have left, in order, under the accord's tag. -/
def Sends (i : Instr) (fl : State → Flags) (l : State → List (Target × Val)) : Prop :=
  ∀ s : State, s.sch.cur.passes i.pd = true → s.canSend s.sch.cur (l s) = true →
    exec i s = .next ((s.raise s.sch.cur (fl s)).sendAll s.sch.cur s.sch.cur.acc.tag false (l s))

/-- As `Sends`, with an effect of the firing on the state before its tokens leave. -/
def SendsAfter (i : Instr) (eff : State → State) (fl : State → Flags) (l : State → List (Target × Val)) : Prop :=
  ∀ s : State, s.sch.cur.passes i.pd = true → s.canSend s.sch.cur (l s) = true →
    exec i s = .next (((eff s).raise s.sch.cur (fl s)).sendAll s.sch.cur s.sch.cur.acc.tag false (l s))

/-- No flag. -/
def noFlags (_ : State) : Flags := 0

/-- The low n bits of a value, zero-extended where it is shorter (R189). -/
def low (n : Nat) (v : Val) : BitVec n := BitVec.ofNat n v.bits

/-- A value of n bits, in n / 8 bytes. -/
def val {n : Nat} (v : BitVec n) : Val := ⟨n / 8, v.toNat⟩

/-- Port L of the firing that a state carries out, at n bits. -/
def portL (n : Nat) (s : State) : BitVec n := low n s.sch.cur.valL
/-- Port R. -/
def portR (n : Nat) (s : State) : BitVec n := low n s.sch.cur.valR
/-- Port P. -/
def portP (n : Nat) (s : State) : BitVec n := low n s.sch.cur.valP

/-- 32 bits, or 64 with W = 1 (R323). -/
def width (wide : Bool) : Nat := if wide then 64 else 32

/-- An integer form whose result is `o` of L and R at its width, sent to T0 and then T1 (R323). -/
def Computes (i : Instr) (wide : Bool) (t1 t0 : Target) (o : (n : Nat) → BitVec n → BitVec n → BitVec n) : Prop :=
  Sends i noFlags fun s =>
    let v := val (o (width wide) (portL (width wide) s) (portR (width wide) s))
    [(t0, v), (t1, v)]

/-- A value sent to both targets. -/
def toBoth (t0 t1 : Target) (v : Val) : List (Target × Val) := [(t0, v), (t1, v)]

/-- The conditions of CMP (R325) on two numbers of one width. -/
def condition {n : Nat} (cc : IntCond) (l r : BitVec n) : Bool :=
  match cc with
  | .eq => decide (l = r)
  | .ne => decide (l ≠ r)
  | .lt => l.slt r
  | .le => l.sle r
  | .gt => r.slt l
  | .ge => r.sle l
  | .ltu => l.ult r
  | .leu => l.ule r
  | .gtu => r.ult l
  | .geu => r.ule l

/-- POS of a field descriptor (R327). -/
def fieldPosition {n : Nat} (d : BitVec n) : Nat := (d.extractLsb' 0 6).toNat

/-- LEN of a field descriptor at width n, clipped to it (R327). -/
def fieldLength {n : Nat} (d : BitVec n) : Nat := min (d.extractLsb' 8 7).toNat (n - fieldPosition d)

/-- The number whose bit k is `p k`. -/
def ofBits {n : Nat} (p : Nat → Bool) : BitVec n := BitVec.ofBoolListLE ((List.range n).map p) |>.setWidth n

/-- The targets of an instruction that sends its whole result at once, with the length in bytes of each token: the scalar
instructions whose targets and lengths their word and accord fix. -/
def resultsOf (s : State) : Instr → Option (List (Target × Nat))
  | .nop _ => some []
  | .mov _ t1 t0 => some [(t0, s.sch.cur.valL.len), (t1, s.sch.cur.valL.len)]
  | .lit _ _ t0 => some [(t0, 8)]
  | .lit32 _ t1 t0 | .cmp _ _ _ t1 t0 | .fadd _ _ _ t1 t0 | .fsub _ _ _ t1 t0 | .fmul _ _ _ t1 t0 | .fdiv _ _ _ t1 t0
  | .fsqrt _ _ _ t1 t0 | .ffma _ _ t1 t0 | .fmin _ _ t1 t0 | .fmax _ _ t1 t0 | .fminm _ _ t1 t0 | .fmaxm _ _ t1 t0
  | .fabs _ _ t1 t0 | .fneg _ _ t1 t0 | .fcmp _ _ _ t1 t0 | .frcp _ _ t1 t0 | .frsq _ _ t1 t0 | .fexp2 _ _ t1 t0
  | .flog2 _ _ t1 t0 | .fsin _ _ t1 t0 | .fcos _ _ t1 t0 | .frnd _ _ _ t1 t0 | .cvtS _ _ _ t1 t0 | .cvtH _ _ _ t1 t0
  | .cvtB _ _ _ t1 t0 | .cvtfi _ _ _ t1 t0 | .cvtif _ _ _ t1 t0 | .cvtifL _ _ _ t1 t0 | .fclass _ _ t1 t0
  | .sysqDie _ t1 t0 | .sysqReplica _ t1 t0 | .sysqCtx _ t1 t0 => some [(t0, 4), (t1, 4)]
  | .sx32 _ t1 t0 | .zx32 _ t1 t0 | .tagrd _ t1 t0 | .sysqHandle _ t1 t0 | .cyc _ t1 t0 => some [(t0, 8), (t1, 8)]
  | .addi _ _ t0 | .andi _ _ t0 | .ori _ _ t0 | .xori _ _ t0 => some [(t0, 4)]
  | .add _ w t1 t0 | .sub _ w t1 t0 | .mul _ w t1 t0 | .mulh _ w t1 t0 | .mulhu _ w t1 t0 | .div _ w t1 t0 | .divu _ w t1 t0
  | .rem _ w t1 t0 | .remu _ w t1 t0 | .and _ w t1 t0 | .or _ w t1 t0 | .xor _ w t1 t0 | .andn _ w t1 t0 | .shl _ w t1 t0
  | .shr _ w t1 t0 | .sra _ w t1 t0 | .rol _ w t1 t0 | .ror _ w t1 t0 | .min _ w t1 t0 | .max _ w t1 t0 | .minu _ w t1 t0
  | .maxu _ w t1 t0 | .bfxu _ w t1 t0 | .bfxs _ w t1 t0 | .bfi w t1 t0 | .popc _ w t1 t0 | .clz _ w t1 t0 | .ctz _ w t1 t0
  | .sel w t1 t0 | .neg _ w t1 t0 | .abs _ w t1 t0 | .sx8 _ w t1 t0 | .sx16 _ w t1 t0 | .zx8 _ w t1 t0 | .zx16 _ w t1 t0 =>
    some [(t0, width w / 8), (t1, width w / 8)]
  | _ => none

/-- The port and seq fields of an access through a binding (R375): LD, ST, LDT, STT, LDH, PFT and the atomics of R385 and R386. -/
def accessOf : Instr → Option (BitVec 5 × BitVec 5)
  | .ld _ seq _ _ port _ | .st _ seq _ _ port _ | .ldt _ seq _ _ port _ | .stt _ seq _ _ port _ | .ldh _ seq _ _ port _
  | .pft _ seq _ _ port _ | .scas64 _ seq _ _ port _ | .scas128 _ seq _ _ port _ | .sadd _ seq _ _ port _
  | .sswap _ seq _ _ port _ | .amoadd _ seq _ _ port _ | .amomin _ seq _ _ port _ | .amomax _ seq _ _ port _ => some (port, seq)
  | _ => none

/-- A float form (R329): the code and the flags that `r` gives, the code sent as 4 bytes to T0 and then T1. -/
def SendsFloat (i : Instr) (t1 t0 : Target) (r : State → Nat × Flags) : Prop :=
  Sends i (fun s => (r s).2) fun s => toBoth t0 t1 (Val.of 4 (r s).1)

/-- The code on port L in format FT: the low bits of its 4 bytes (R329). -/
def codeL (ft : FloatFmt) (s : State) : Nat := (portL (ftFmt ft).bits s).toNat
/-- The code on port R in format FT. -/
def codeR (ft : FloatFmt) (s : State) : Nat := (portR (ftFmt ft).bits s).toNat
/-- The number on port L in format FT. -/
def numL (ft : FloatFmt) (s : State) : Machine.Num := (ftFmt ft).decode (codeL ft s)
/-- The number on port R in format FT. -/
def numR (ft : FloatFmt) (s : State) : Machine.Num := (ftFmt ft).decode (codeR ft s)
/-- The number on port P in format FT. -/
def numP (ft : FloatFmt) (s : State) : Machine.Num := (ftFmt ft).decode (portP (ftFmt ft).bits s).toNat

/-- An instruction of Format M (R375, R377): with its binding b, fewer than 32 accesses in the retry buffer of its cell (R221), no
cache bank of it about to change its mode (R202), room for a result of `len` bytes and an input-queue entry (R127), it takes them
and sends one access `op` at position L, of the rank of its seq field; with 32 in the retry buffer, or such a bank, its accord
waits. -/
def Accesses (i : Instr) (port seq : BitVec 5) (t0 : Target) (len : Nat) (op : State → AccessOp) : Prop :=
  ∀ (s : State) (b : Binding), s.sch.cur.passes i.pd = true → (s.region s.sch.cur.region).binding? port.toNat = some b →
    (∀ (pool : Pool) (q : State), s.retries s.sch.cur.cell < 32 → s.cacheWaits s.sch.cur b = false → s.canSend s.sch.cur [(t0, Val.of len 0)] = true →
      s.takeEntry s.sch.cur.cell s.sch.cur.region = some (pool, q) →
      exec i s = .next ((q.reserve s.sch.cur [t0] len).sendAccess s.sch.cur b (s.rankOf s.sch.cur b.p seq.toNat) t0 (op s)
        (portL 64 s).toNat pool)) ∧
    (32 ≤ s.retries s.sch.cur.cell ∨ s.cacheWaits s.sch.cur b = true → exec i s = .next (s.putBack s.sch.cur))

/-- The state in which a queue operation is on its way to the hub, last in its order (R105, R387). -/
def asksQueue (s : State) (f : Firing) (kind : QKind) (queue lim rcd : Nat) (t0 : Target) (pool : Pool) : State :=
  let o : QOp := { id := s.sch.nextId, kind := kind, ctx := tagCtx f.acc.tag, queue := queue, rcd := rcd, lim := lim, firing := f,
                   targets := [t0], pool := pool }
  { s with sch := { s.sch with nextId := s.sch.nextId + 1 }, hub := { s.hub with qreqs := s.hub.qreqs ++ [o] } }

/-- The generator before lane i, when lane k at generator g leaves the generator `(o k g).rng` (R343). -/
def laneGen (o : Nat → Word → Rounded) (g : Word) : Nat → Word
  | 0 => g
  | i + 1 => (o i (laneGen o g i)).rng

/-- Lane i of L in the cell's VFMT (R341). -/
def laneL (s : State) (i : Nat) : Nat := laneOf (s.vfmt s.sch.cur) (portL (8 * vectorLen (s.vfmt s.sch.cur)) s).toNat i
/-- Lane i of R. -/
def laneR (s : State) (i : Nat) : Nat := laneOf (s.vfmt s.sch.cur) (portR (8 * vectorLen (s.vfmt s.sch.cur)) s).toNat i
/-- Lane i of P. -/
def laneP (s : State) (i : Nat) : Nat := laneOf (s.vfmt s.sch.cur) (portP (8 * vectorLen (s.vfmt s.sch.cur)) s).toNat i

/-- A vector form (R343): lane i is `o` of VFMT, the generator so far and lane i of L, R and P; the generator is left as the
lanes left it and the vector goes to T0 and then T1. -/
def SendsLanes (i : Instr) (t1 t0 : Target) (o : State → Fmt → Word → Nat → Nat → Nat → Rounded) : Prop :=
  let run := fun s : State => runLanes (s.vfmt s.sch.cur) (fun k g => o s (s.vfmt s.sch.cur) g (laneL s k) (laneR s k) (laneP s k))
    (s.rngOf s.sch.cur)
  SendsAfter i (fun s => s.setRng s.sch.cur (run s).2.2) (fun s => (run s).2.1)
    fun s => toBoth t0 t1 (Val.of (vectorLen (s.vfmt s.sch.cur)) (run s).1)

/-- One lane of a sum, difference or product (R343, R344): exact and saturated for an integer format, given in the format to
nearest otherwise. -/
def arithmeticLane (f : Fmt) (g : Word) (o : Machine.Num → Machine.Num → Machine.Num × Flags) (i : Int → Int → Int) (l r : Nat) : Rounded :=
  if f.isInt then ⟨saturateTo f (i (laneInt f l) (laneInt f r)), 0, g⟩ else f.op2 .rn g o (f.decode l) (f.decode r)

/-- The relation of VCMP on lane i, with its flags (R347). -/
def compareLanes (cc : LaneCond) (s : State) (i : Nat) : Bool × Flags :=
  let f := s.vfmt s.sch.cur
  let a := laneInt f (laneL s i)
  let b := laneInt f (laneR s i)
  if f.isInt then
    (match cc with
      | .eq => decide (a = b)
      | .ne => decide (a ≠ b)
      | .lt => decide (a < b)
      | .le => decide (a ≤ b)
      | .gt => decide (b < a)
      | .ge => decide (b ≤ a)
      | .un => false, 0)
  else compareNum (laneCond cc) (f.decode (laneL s i)) (f.decode (laneR s i))

/-- The vector whose lane i is the low bits of `p i`. -/
def lanesFrom (f : Fmt) (p : Nat → Nat) : Nat :=
  (List.range (laneCount f)).foldl (fun a i => a + p i % 2 ^ f.bits * 2 ^ (f.bits * i)) 0

/-- The result of VRED.SUM (R349): the integer sum saturated to INT32, or the sum given once in VFMT. -/
def sumOf (s : State) : Rounded :=
  let f := s.vfmt s.sch.cur
  let g := s.rngOf s.sch.cur
  let l := (List.range (laneCount f)).map (laneL s)
  if f.isInt then ⟨(BitVec.ofInt 32 (max (-2147483648) (min 2147483647 (l.map (laneInt f)).sum))).toNat, 0, g⟩
  else
    let xs := l.map f.decode
    if xs.any Machine.Num.isNan then ⟨f.nanCode, sigFlag xs, g⟩
    else { f.give .rn (sumNums xs).1 g with flags := (f.give .rn (sumNums xs).1 g).flags ||| (sumNums xs).2 }

/-- The result of VRED.MIN or VRED.MAX (R349) over the lanes of L. -/
def pickOf (greater : Bool) (s : State) : Rounded :=
  reducePick greater (s.vfmt s.sch.cur) (s.rngOf s.sch.cur) ((List.range (laneCount (s.vfmt s.sch.cur))).map (laneL s))

/-- Whether the firing's cell uses block scales (R341). -/
def scaled (s : State) : Bool := (s.cell s.sch.cur.cell).fmt.bs

/-- Bytes of a scaled vector: VLEN, and with block scales one byte for each 32 lanes, padded to 4 bytes (R351). -/
def scaledBytes (s : State) : Nat :=
  let f := s.vfmt s.sch.cur
  if scaled s then (vectorLen f + (laneCount f + 31) / 32 + 3) / 4 * 4 else vectorLen f

/-- The operand of VCVT: L at the bytes of a scaled vector. -/
def scaledL (s : State) : Nat := (portL (8 * scaledBytes s) s).toNat

/-- Lane i of VCVT (R351): the number of its code times 2^(k - 127) for its block's scale byte k (127 without block scales), given in
FP32; NaN where k is 0xFF. -/
def convertLane (s : State) (i : Nat) : Rounded :=
  let f := s.vfmt s.sch.cur
  let k := if scaled s then scaledL s / 2 ^ (8 * (vectorLen f + i / 32)) % 256 else 127
  let x := f.decode (laneOf f (scaledL s) i)
  if k = 0xFF then ⟨fp32.nanCode, if x.isSig then flagIV else 0, 0⟩ else fp32.give .rn (x.scale ((k : Int) - 127)) 0

/-- Whether VCVT has nothing to convert. -/
def convertsNothing (s : State) : Bool := decide (s.vfmt s.sch.cur = fp32) && !scaled s

/-- The flags of VCVT. -/
def convertFlags (s : State) : Flags :=
  if convertsNothing s then 0 else (List.range (laneCount (s.vfmt s.sch.cur))).foldl (fun a i => a ||| (convertLane s i).flags) 0

/-- The value of VCVT: its lanes as FP32 codes, lane i at bit 32 i. -/
def convertValue (s : State) : Val :=
  if convertsNothing s then val (portL 512 s)
  else Val.of (4 * laneCount (s.vfmt s.sch.cur))
    ((List.range (laneCount (s.vfmt s.sch.cur))).foldl (fun a i => a + (convertLane s i).code * 2 ^ (32 * i)) 0)

/-- FP32 lane i of L as a number. -/
def wideL (s : State) (i : Nat) : Machine.Num :=
  fp32.decode ((portL (32 * laneCount (s.vfmt s.sch.cur)) s).extractLsb' (32 * i) 32).toNat

/-- The scale byte of block j of VQUANT (R350): that of its 32 lanes, 127 without block scales. -/
def quantScale (s : State) (j : Nat) : Nat :=
  if scaled s then blockScale (s.vfmt s.sch.cur) ((((List.range (laneCount (s.vfmt s.sch.cur))).map (wideL s)).drop (32 * j)).take 32)
  else 127

/-- Lane i of VQUANT at a generator (R352): the number over its block's scale, to nearest and saturated for an integer format, given
in VFMT for a float format; under the scale 0xFF 0 with IV, or NaN. -/
def quantLaneOf (s : State) (i : Nat) (g : Word) : Rounded :=
  let f := s.vfmt s.sch.cur
  let k := quantScale s (i / 32)
  let y := (wideL s i).scale (127 - (k : Int))
  if k = 0xFF then (if f.isInt then ⟨0, flagIV, g⟩ else ⟨f.nanCode, if (wideL s i).isSig then flagIV else 0, g⟩)
  else match f with
    | .int n sgn =>
      let q := toIntIn .rn (intRange n sgn).1 (intRange n sgn).2 y
      ⟨(BitVec.ofInt n q.1).toNat, q.2, g⟩
    | f => f.give .rn y g

/-- The lanes of VQUANT, their flags and the generator that they leave. -/
def quantRun (s : State) : Nat × Flags × Word := runLanes (s.vfmt s.sch.cur) (quantLaneOf s) (s.rngOf s.sch.cur)

/-- The value of VQUANT: its lanes, and with block scales the scale bytes behind them. -/
def quantValue (s : State) : Val :=
  let f := s.vfmt s.sch.cur
  Val.of (scaledBytes s) ((quantRun s).1 + if scaled s then
    2 ^ (8 * vectorLen f) * (List.range ((laneCount f + 31) / 32)).foldl (fun a j => a + quantScale s j * 2 ^ (8 * j)) 0 else 0)

/-- The frame of the firing traps with class CFG_SHAPE and a field code's kind (R205, R373), the image of its region and no
offset as operands. -/
def shapeTrap (s : State) (kind : Nat) : State :=
  s.report s.sch.cur true .cfgShape (kind + (s.region s.sch.cur.region).imageVa * 2 ^ 32)

/-- The frame of the firing traps with class TRAP, a code and a 64-bit operand (R158, R396). -/
def trapWith (s : State) (code operand : Nat) : State := s.report s.sch.cur true .trap (code + operand * 2 ^ 32)

/-- The quotient E_i / AREA of a record at a pixel, rounded once to FP32, and the NaN where AREA is 0 (R406). -/
def baryOf (u : Setup) (p : BitVec 32) (i : Nat) : Nat :=
  if u.area = 0 then 0x7FC00000
  else quotient32 (edgeAt (u.edges.getD i (0, 0, 0)) (256 * (p.extractLsb' 0 16).toInt + 128) (256 * (p.extractLsb' 16 16).toInt + 128)) u.area

/-- Number i of the ray record in L: ORG, DIR, TMIN and TMAX in order (R145). -/
def rayNum (s : State) (i : Nat) : Machine.Num := fp32.decode ((portL 512 s).extractLsb' (32 * i) 32).toNat
/-- Number i of the box in R: MIN and then MAX (R408). -/
def boxNum (s : State) (i : Nat) : Machine.Num := fp32.decode ((portR 192 s).extractLsb' (32 * i) 32).toNat
/-- Entry (i, j) of the matrix in R (R407). -/
def entryOf (s : State) (i j : Nat) : Machine.Num := fp32.decode ((portR 384 s).extractLsb' (128 * i + 32 * j) 32).toNat

/-- The targets of an instruction that sends its results at once and does nothing else but raise flags. -/
def targetsOf (s : State) : Instr → Option (List Target)
  | .steer _ t1 t0 | .gate _ t1 t0 | .gaten _ t1 t0 | .sync _ t1 t0 | .cnt _ t1 t0 | .bound _ t1 t0 | .merge t1 t0
  | .vcmp _ _ t1 t0 | .vsel t1 t0 | .vbcast _ t1 t0 | .vcvt _ t1 t0 | .rstep _ t1 t0 | .rbary _ t1 t0 | .rayxf _ t1 t0
  | .raybox _ t1 t0 | .raytri _ t1 t0 => some [t0, t1]
  | .tstate _ _ t0 => some [t0]
  | i => (resultsOf s i).map fun l => l.map Prod.fst

/-- Two states of a cell with the same banks, tiles, accumulator, generators, engine, sequences, fences and L0 cache. -/
def sameStores (c d : Cell) : Prop :=
  d.banks = c.banks ∧ d.bytes = c.bytes ∧ d.tiles = c.tiles ∧ d.acc = c.acc ∧ d.rng = c.rng ∧ d.engine = c.engine ∧ d.seqs = c.seqs ∧
  d.fences = c.fences ∧ d.cache = c.cache

/-- The packet of a token of a stream, last where told (R28, R426). -/
def tokenPkt (q : Nat × Nat × Val) (last : Bool) : Pkt :=
  { kind := 5, len := q.2.2.len, tag := q.1, addr := q.2.1, payload := toBytes q.2.2.len q.2.2.bits, last := last }

/-! ## After reset -/

/-- The values that the register maps give for reset (R16, R44, R45, R71, R74, R88): zero but for these. -/
def resetValue : Reg → Nat
  | .pwrCap => 0x1068
  | .ageLim => 0x40
  | .trimThr _ _ => 0x403020
  | .netPace _ => 0x80000040
  | .epCfg _ => 0x80000010
  | .attest => 0x1000000000000000
  | .relCtl => 0x08000000
  | .relPeriod => 0x00FE502AAAAAAAAB
  | .relStatus => 0x3FFF0000
  | _ => 0

/-- The invariant that every step keeps: the byte memories in canonical form, CAP between 1,500 and 4,200 watts (R16), and the
flash image F (R17, R18: it is read, never written). -/
def Inv (F : Flash) (s : State) : Prop :=
  s.memForm = true ∧ 1500 ≤ s.hub.cap.toNat ∧ s.hub.cap.toNat ≤ 4200 ∧ s.flash = F

end Sys2Proof.Claims

section Statements

open Sys2Proof Sys2Proof.Machine Sys2Proof.Claims

/-! ## The encoding (R275 to R289) -/

/-- Words that the spec derives field by field decode to the instructions that it names: R278's fields, with the words of
the worked programs of chapters 14, 17, 18, 20, 21 and 22. -/
def Obligations.DecodeOfSpecWords : Prop :=
  decode 0x18010E8A = .ok (.cnt .always (.slot .l false 7) (.slot .l false 10)) ∧
  decode 0x1C000105 = .ok (.rdh .always false 0 (.slot .r false 5)) ∧
  decode 0x1204FE82 = .ok (.frame .always 1 .discard (.slot .l false 2)) ∧
  decode 0x344142A3 = .ok (.shr .always true (.slot .l false 33) (.slot .l false 35)) ∧
  decode 0x67815AA7 = .ok (.ffma .s .rn (.slot .l false 45) (.slot .l false 39)) ∧
  decode 0xA205447F = .ok (.st .always 1 1 1 2 .discard) ∧
  decode 0xB8096070 = .ok (.amot .always 2 .swap (.slot .l 48)) ∧
  decode 0xC007E887 = .ok (.qpop .always 1 31 (.slot .l false 7)) ∧
  decode 0xEC300241 = .ok (.tset .always .ready 1 (.hold 1)) ∧
  decode 0xF0184049 = .ok (.bload .always 6 2 (.slot .l 9)) ∧
  decode 0xF608FE8D = .ok (.mrda .always .discard (.slot .l false 13)) ∧
  decode 0xFC011689 = .ok (.seqget .always (.slot .l false 11) (.slot .l false 9))

/-- Decode after encode: every well-formed instruction that takes a unit of the cell (R442), with every operand at every value
that its field holds, has a word, and the word decodes to it; a step of the part without a word has none. -/
def Obligations.DecodeAfterEncode : Prop :=
  (∀ i : Instr, i.unit.isSome = true → i.wf = true → ∃ w, encode i = some w ∧ decode w = .ok i) ∧
  ∀ i : Instr, i.unit = none → encode i = none

/-- Encode after decode: a word that decodes is the one word of the instruction, which is well formed. So no two words stand
for one instruction, and every bit that a format leaves unused must be as the encoder writes it. -/
def Obligations.EncodeAfterDecode : Prop :=
  ∀ (w : Word) (i : Instr), decode w = .ok i → i.wf = true ∧ encode i = some w

/-- Words that the checks of R298 refuse, whatever their other bits: the opcodes that R281 lists as unassigned (0x10); pd 11
on an opcode of entry a (0x12), and a target code 0x60 to 0x7E under port 00 (0x21), for the Format I opcodes LIT and ADDI. -/
def Obligations.ReservedWordsRefused : Prop :=
  (∀ w : Word, (0x29 ≤ w.toNat / 2 ^ 25 ∧ w.toNat / 2 ^ 25 ≤ 0x2F) ∨ (0x48 ≤ w.toNat / 2 ^ 25 ∧ w.toNat / 2 ^ 25 ≤ 0x4F) ∨
      w.toNat / 2 ^ 25 = 0x6F ∨ w.toNat / 2 ^ 25 = 0x7F → decode w = .error .opcode) ∧
  (∀ w : Word, (w.toNat / 2 ^ 25 = 0x02 ∨ w.toNat / 2 ^ 25 = 0x25) → w.toNat / 2 ^ 23 % 4 = 3 → decode w = .error .predicate) ∧
  (∀ w : Word, (w.toNat / 2 ^ 25 = 0x02 ∨ w.toNat / 2 ^ 25 = 0x25) → w.toNat / 2 ^ 23 % 4 < 3 →
      0x60 ≤ w.toNat % 2 ^ 9 ∧ w.toNat % 2 ^ 9 ≤ 0x7E → decode w = .error .target)

/-! ## Steps -/

/-- A step runs the decoded instruction of the arbiter's choice; else the step put first; else the next of the model's own
order (log 3, DESIGN CHOICE: which ready step comes first is the model's, what each does is the spec's). -/
def Obligations.StepRunsTheDecoded : Prop :=
  (∀ (s : State) (f : Firing) (i : Instr), s.sch.chosen = some f →
    decode (((s.cell (cellKey f.die f.x f.y)).window f.acc.win).words.getD f.acc.slot 0) = .ok i →
    step s = exec i { s with sch := { s.sch with cur := f, chosen := none, blocked := false } }) ∧
  (∀ (s : State) (i : Instr) (a : Args) (t : List (Instr × Args)), s.sch.chosen = none → s.sch.agenda = (i, a) :: t →
    step s = exec i { s with sch := { s.sch with agenda := t, args := a } }) ∧
  (∀ s : State, s.sch.chosen = none → s.sch.agenda = [] →
    (∀ i a, s.due = some (i, a) → step s = exec i { s with sch := { s.sch with agenda := [], args := a } }) ∧
    (s.due = none → ∀ u f, s.nextChoice = some (.fire u f) → step s = .next (s.choose u f)) ∧
    (s.due = none → ∀ k, s.nextChoice = some (.row k) →
      step s = exec .matrixRowStep { s with sch := { s.sch.spend k 3 with
        agenda := [], args := { die := k / 3200, x := k % 80, y := k % 3200 / 80 } } }) ∧
    (s.due = none → s.nextChoice = none → step s = .next s.tick))

/-- `withFetchWord` places a word so that the very next step fetches and runs exactly it (log 8). -/
def Obligations.PlacedWordRunsNext : Prop :=
  ∀ (w : Nat) (i : Instr), w < 2 ^ 32 → decode (BitVec.ofNat 32 w) = .ok i →
    let s := State.reset.withFetchWord 32 w
    ∃ f, s.sch.chosen = some f ∧ f.acc = fetchAccord w ∧
      step s = exec i { s with sch := { s.sch with cur := f, chosen := none, blocked := false } }

/-- Nothing stops the machine: `exec` answers a next state for every instruction in every state, and `step` stops only on a
chosen slot whose word does not decode, which no load admits (R297). -/
def Obligations.NothingStops : Prop :=
  (∀ (i : Instr) (s : State), ∃ t, exec i s = .next t) ∧
  (∀ (s : State) (r : Fault), step s = .fault r →
    ∃ f c, s.sch.chosen = some f ∧ decode (s.fetch f) = .error c ∧ r = .undecodable c.code) ∧
  ∀ (s : State) (r : Refusal), step s ≠ .refused r

/-! ## Reset -/

/-- Every register of the BAR0 map but the MSI-X table (whose reset the spec leaves open, log 1) reads, after reset, what the
Reset columns of its table give. -/
def Obligations.ResetRegisters : Prop :=
  ∀ r : Reg, (∀ i, r ≠ .msix i) → State.reset.regVal r = resetValue r

/-- The state after reset: bring-up at phase 0, nothing running, no byte listed (log 2, DESIGN CHOICE: what an unlisted byte
reads as), and the invariant of `StepKeepsTheInvariant`. -/
def Obligations.ResetIsQuiet : Prop :=
  let s := State.reset
  s.hub.phase = 0 ∧ s.hub.ready = false ∧ s.mem = [] ∧ s.hostMem = [] ∧ s.regions = [] ∧ s.cells = [] ∧ s.toks = [] ∧
  s.accesses = [] ∧ s.hub.ctxs = [] ∧ s.eps = [] ∧ s.rel.running = false ∧ Inv s.flash s

/-- Every step keeps the byte memories' canonical form, the power cap within 1,500 to 4,200 watts (R16), and the flash image. -/
def Obligations.StepKeepsTheInvariant : Prop :=
  ∀ (F : Flash) (s t : State), Inv F s → step s = .next t → Inv F t

/-! ## Firing (R190, R191) -/

/-- R190: an accord whose predicate fails is consumed with no result, flag or fault; a wave-ordered access fills its position
with an access that does nothing. -/
def Obligations.FailedPredicateConsumes : Prop :=
  (∀ (i : Instr) (s : State), s.sch.cur.passes i.pd = false → accessOf i = none → exec i s = .next s) ∧
  ∀ (i : Instr) (s : State) (port seq : BitVec 5), s.sch.cur.passes i.pd = false → accessOf i = some (port, seq) →
    (∀ b, (s.region s.sch.cur.region).binding? port.toNat = some b → b.shape.cls = .random → exec i s = .next s) ∧
    ∀ b, (s.region s.sch.cur.region).binding? port.toNat = some b → b.shape.cls ≠ .random →
      exec i s = .next (s.sendAccess s.sch.cur b (s.rankOf s.sch.cur b.p seq.toNat) .discard .skip 0 .none)

/-- R191, R192, R199, with R170 and R151: what one send does. The instruction is MOV, whose other target is discarded. -/
def Obligations.SendsReachTheirTargets : Prop :=
  (∀ (pd : Pd) (s : State), s.sch.cur.passes pd = true →
    s.canSend s.sch.cur (toBoth .discard .discard s.sch.cur.valL) = true → exec (.mov pd .discard .discard) s = .next s) ∧
  (∀ (pd : Pd) (h : BitVec 5) (s : State) (c : Cell) (i : Nat), s.sch.cur.passes pd = true →
    s.canSend s.sch.cur (toBoth (.hold h) .discard s.sch.cur.valL) = true →
    (s.cell s.sch.cur.cell).takeSlot s.sch.cur.region s.sch.cur.frm = some (i, c) →
    exec (.mov pd .discard (.hold h)) s = .next (s.updCell s.sch.cur.cell fun _ =>
      c.setHold i h.toNat { st := .full, val := BitVec.ofNat 64 s.sch.cur.valL.bits })) ∧
  ∀ (pd : Pd) (n : BitVec 6) (s : State), s.sch.cur.passes pd = true →
    s.canSend s.sch.cur (toBoth (.arc n) .discard s.sch.cur.valL) = true →
    let f := s.sch.cur
    let win := (s.cell f.cell).window f.acc.win
    let o : OutArc := look {} win.outs n.toNat
    let paid : State := s.updOut f.cell f.acc.win n.toNat fun o => { o with cred := o.cred - o.need f.valL.len }
    let act := s.actFrom f.region f.x f.y win.rwin n.toNat
    (act = none → o.need f.valL.len ≤ o.cred → (∀ q, s.consumer f.region o = some q → (s.inArc q.1 q.2.1 q.2.2).spill = []) →
      ∃ (t : State) (k : Tok), exec (.mov pd .discard (.arc n)) s = .next t ∧ t.toks = s.toks ++ [k] ∧
        k.tag = f.acc.tag ∧ k.val = f.valL ∧ k.dest = .arc o.cwin o.carc ∧ k.kind = .arc ∧ k.region = f.region ∧
        t.cells = paid.cells ∧ t.mem = s.mem ∧ t.regions = s.regions) ∧
    (∀ k w a, act = none → s.consumer f.region o = some (k, w, a) →
      (s.inArc k w a).spill ≠ [] ∨ o.cred < o.need f.valL.len →
      ∃ (u : State) (t : Tok), u.cells = (s.updOut f.cell f.acc.win n.toNat fun q => { q with cred := o.cred }).cells ∧
        u.toks = s.toks ∧ u.mem = s.mem ∧ u.regions = s.regions ∧ t.tag = f.acc.tag ∧ t.val = f.valL ∧ t.dest = .arc o.cwin o.carc ∧ t.region = f.region ∧
        exec (.mov pd .discard (.arc n)) s = .next ((u.appendSpill k w a t).drawSpill f.region f.cell f.acc.win n.toNat)) ∧
    ∀ q, act = some q → exec (.mov pd .discard (.arc n)) s = .next (paid.feedAct q f.acc.tag f.valL)

/-- R190: a complete accord that is not ready waits. For the instructions that send one result value of a known length to their
targets at once, exec answers the state with the accord put back and nothing else changed. -/
def Obligations.UnreadyFiringWaits : Prop :=
  ∀ (i : Instr) (s : State) (l : List (Target × Nat)), s.sch.cur.passes i.pd = true → resultsOf s i = some l →
    s.canSend s.sch.cur (l.map fun q => (q.1, Val.of q.2 0)) = false →
    exec i s = .next { s.updCell s.sch.cur.cell (fun c => { c with waiting := s.sch.cur.acc :: c.waiting }) with
      sch := { s.sch with blocked := true } }

/-! ## Moving, choosing and joining values (R304 to R308) -/

/-- R304. -/
def Obligations.MovesSendTheirValue : Prop :=
  ∀ (pd : Pd) (imm : BitVec 14) (t1 t0 : Target),
    Sends (.nop pd) noFlags (fun _ => []) ∧
    Sends (.mov pd t1 t0) noFlags (fun s => toBoth t0 t1 s.sch.cur.valL) ∧
    Sends (.lit pd imm t0) noFlags (fun _ => [(t0, val (imm.signExtend 64))]) ∧
    Sends (.lit32 pd t1 t0) noFlags (fun s =>
      toBoth t0 t1 (val (((s.cell s.sch.cur.cell).window s.sch.cur.acc.win).words.getD (s.sch.cur.acc.slot + 1) 0))) ∧
    ∀ (s : State) (f : Firing) (tag : Tag) (v : Val), s.send1 f tag false .discard v = s

/-- R305, R307, R308, and the value of MERGE (R306). -/
def Obligations.ChoicesAndCounts : Prop :=
  ∀ (pd : Pd) (t1 t0 : Target),
    Sends (.steer pd t1 t0) noFlags (fun s => if (portR 64 s).getLsbD 0 then [(t0, s.sch.cur.valL)] else [(t1, s.sch.cur.valL)]) ∧
    Sends (.gate pd t1 t0) noFlags (fun s => if (portR 64 s).getLsbD 0 then toBoth t0 t1 s.sch.cur.valL else []) ∧
    Sends (.gaten pd t1 t0) noFlags (fun s => if (portR 64 s).getLsbD 0 then [] else toBoth t0 t1 s.sch.cur.valL) ∧
    Sends (.sync pd t1 t0) noFlags (fun s => [(t0, s.sch.cur.valL), (t1, s.sch.cur.valR)]) ∧
    Sends (.cnt pd t1 t0) noFlags (fun s =>
      [(t0, val (portL 32 s + 1)), (t1, val (if (portL 32 s + 1).ult (portR 32 s) then (1 : BitVec 32) else 0))]) ∧
    Sends (.bound pd t1 t0) noFlags (fun s =>
      if (portL 32 s).ult (portR 32 s) then [(t0, val (portL 32 s))] else [(t1, val (portL 32 s))]) ∧
    ∀ (s : State) (v : Val), (s.sch.cur.acc.l = some v ∨ s.sch.cur.acc.l = none ∧ s.sch.cur.acc.r = some v) →
      s.canSend s.sch.cur (toBoth t0 t1 v) = true →
      exec (.merge t1 t0) s = .next (s.sendAll s.sch.cur s.sch.cur.acc.tag false (toBoth t0 t1 v))

/-! ## Integers (R323 to R328) -/

/-- R325, in bit-vector arithmetic: sums, products and both high halves, logic, shifts and rotates by R modulo n, sign
operations, the lesser and the greater, and the ten conditions of CMP. -/
def Obligations.IntegerResults : Prop :=
  ∀ (pd : Pd) (w : Bool) (t1 t0 : Target),
    Computes (.add pd w t1 t0) w t1 t0 (fun _ l r => l + r) ∧
    Computes (.sub pd w t1 t0) w t1 t0 (fun _ l r => l - r) ∧
    Computes (.mul pd w t1 t0) w t1 t0 (fun _ l r => l * r) ∧
    Computes (.mulh pd w t1 t0) w t1 t0 (fun n l r => ((l.signExtend (2 * n) * r.signExtend (2 * n)) >>> n).setWidth n) ∧
    Computes (.mulhu pd w t1 t0) w t1 t0 (fun n l r => ((l.setWidth (2 * n) * r.setWidth (2 * n)) >>> n).setWidth n) ∧
    Computes (.and pd w t1 t0) w t1 t0 (fun _ l r => l &&& r) ∧
    Computes (.or pd w t1 t0) w t1 t0 (fun _ l r => l ||| r) ∧
    Computes (.xor pd w t1 t0) w t1 t0 (fun _ l r => l ^^^ r) ∧
    Computes (.andn pd w t1 t0) w t1 t0 (fun _ l r => l &&& ~~~r) ∧
    Computes (.shl pd w t1 t0) w t1 t0 (fun n l r => l <<< (r.toNat % n)) ∧
    Computes (.shr pd w t1 t0) w t1 t0 (fun n l r => l >>> (r.toNat % n)) ∧
    Computes (.sra pd w t1 t0) w t1 t0 (fun n l r => l.sshiftRight (r.toNat % n)) ∧
    Computes (.rol pd w t1 t0) w t1 t0 (fun n l r => l.rotateLeft (r.toNat % n)) ∧
    Computes (.ror pd w t1 t0) w t1 t0 (fun n l r => l.rotateRight (r.toNat % n)) ∧
    Computes (.neg pd w t1 t0) w t1 t0 (fun _ l _ => -l) ∧
    Computes (.abs pd w t1 t0) w t1 t0 (fun _ l _ => if l.msb then -l else l) ∧
    Computes (.min pd w t1 t0) w t1 t0 (fun _ l r => if l.sle r then l else r) ∧
    Computes (.max pd w t1 t0) w t1 t0 (fun _ l r => if r.sle l then l else r) ∧
    Computes (.minu pd w t1 t0) w t1 t0 (fun _ l r => if l.ule r then l else r) ∧
    Computes (.maxu pd w t1 t0) w t1 t0 (fun _ l r => if r.ule l then l else r) ∧
    ∀ cc : IntCond, Sends (.cmp pd w cc t1 t0) noFlags (fun s =>
      toBoth t0 t1 (val (if condition cc (portL (width w) s) (portR (width w) s) then (1 : BitVec 32) else 0)))

/-- R326: division with its corners, at both widths. -/
def Obligations.DivisionResults : Prop :=
  ∀ (pd : Pd) (w : Bool) (t1 t0 : Target),
    Computes (.div pd w t1 t0) w t1 t0 (fun n l r => if r = 0 then BitVec.allOnes n else if l = BitVec.intMin n ∧ r = BitVec.allOnes n
      then l else BitVec.ofInt n (l.toInt.tdiv r.toInt)) ∧
    Computes (.rem pd w t1 t0) w t1 t0 (fun n l r => if r = 0 then l else if l = BitVec.intMin n ∧ r = BitVec.allOnes n
      then 0 else BitVec.ofInt n (l.toInt.tmod r.toInt)) ∧
    Computes (.divu pd w t1 t0) w t1 t0 (fun n l r => if r = 0 then BitVec.allOnes n else l / r) ∧
    Computes (.remu pd w t1 t0) w t1 t0 (fun _ l r => if r = 0 then l else l % r)

/-- R327, bit by bit: the field of descriptor d at width n is bits POS to POS + LEN - 1, clipped to the width. -/
def Obligations.BitFields : Prop :=
  ∀ (pd : Pd) (w : Bool) (t1 t0 : Target),
    Computes (.bfxu pd w t1 t0) w t1 t0 (fun _ l d => ofBits fun k => decide (k < fieldLength d) && l.getLsbD (fieldPosition d + k)) ∧
    Computes (.bfxs pd w t1 t0) w t1 t0 (fun _ l d => ofBits fun k =>
      decide (0 < fieldLength d) && l.getLsbD (fieldPosition d + min k (fieldLength d - 1))) ∧
    Sends (.bfi w t1 t0) noFlags (fun s =>
      let l := portL (width w) s
      let d := portP (width w) s
      toBoth t0 t1 (val (ofBits (n := width w) fun k => if fieldPosition d ≤ k ∧ k < fieldPosition d + fieldLength d
        then (portR (width w) s).getLsbD (k - fieldPosition d) else l.getLsbD k)))

/-- R328. -/
def Obligations.CountsSelectsExtensions : Prop :=
  ∀ (pd : Pd) (w : Bool) (imm : BitVec 14) (t1 t0 : Target),
    Computes (.popc pd w t1 t0) w t1 t0 (fun n l _ => BitVec.ofNat n ((List.range n).countP fun k => l.getLsbD k)) ∧
    Computes (.clz pd w t1 t0) w t1 t0 (fun n l _ => BitVec.ofNat n (((List.range n).find? fun k => l.getMsbD k).getD n)) ∧
    Computes (.ctz pd w t1 t0) w t1 t0 (fun n l _ => BitVec.ofNat n (((List.range n).find? fun k => l.getLsbD k).getD n)) ∧
    Sends (.sel w t1 t0) noFlags (fun s =>
      toBoth t0 t1 (val (if (portP (width w) s).getLsbD 0 then portL (width w) s else portR (width w) s))) ∧
    Computes (.sx8 pd w t1 t0) w t1 t0 (fun n l _ => (l.setWidth 8).signExtend n) ∧
    Computes (.sx16 pd w t1 t0) w t1 t0 (fun n l _ => (l.setWidth 16).signExtend n) ∧
    Computes (.zx8 pd w t1 t0) w t1 t0 (fun n l _ => (l.setWidth 8).setWidth n) ∧
    Computes (.zx16 pd w t1 t0) w t1 t0 (fun n l _ => (l.setWidth 16).setWidth n) ∧
    Sends (.sx32 pd t1 t0) noFlags (fun s => toBoth t0 t1 (val ((portL 32 s).signExtend 64))) ∧
    Sends (.zx32 pd t1 t0) noFlags (fun s => toBoth t0 t1 (val ((portL 32 s).setWidth 64))) ∧
    Sends (.addi pd imm t0) noFlags (fun s => [(t0, val (portL 32 s + imm.signExtend 32))]) ∧
    Sends (.andi pd imm t0) noFlags (fun s => [(t0, val (portL 32 s &&& imm.signExtend 32))]) ∧
    Sends (.ori pd imm t0) noFlags (fun s => [(t0, val (portL 32 s ||| imm.signExtend 32))]) ∧
    Sends (.xori pd imm t0) noFlags (fun s => [(t0, val (portL 32 s ^^^ imm.signExtend 32))])

/-! ## Scalar floating point (R329 to R340) -/

/-- R329, R331, R332, R335, R336: the scalar float instructions complete with the code and the flags of the operation named,
on operands decoded in format FT. -/
def Obligations.FloatArithmetic : Prop :=
  ∀ (pd : Pd) (ft : FloatFmt) (rm : Rm) (t1 t0 : Target),
    SendsFloat (.fadd pd ft rm t1 t0) t1 t0 (fun s => ((ftFmt ft).op2 rm 0 (addNum rm) (numL ft s) (numR ft s)).pair) ∧
    SendsFloat (.fsub pd ft rm t1 t0) t1 t0 (fun s => ((ftFmt ft).op2 rm 0 (fun x y => addNum rm x y.negate) (numL ft s) (numR ft s)).pair) ∧
    SendsFloat (.fmul pd ft rm t1 t0) t1 t0 (fun s => ((ftFmt ft).op2 rm 0 mulNum (numL ft s) (numR ft s)).pair) ∧
    SendsFloat (.fdiv pd ft rm t1 t0) t1 t0 (fun s => ((ftFmt ft).op2 rm 0 divNum (numL ft s) (numR ft s)).pair) ∧
    SendsFloat (.fsqrt pd ft rm t1 t0) t1 t0 (fun s => ((ftFmt ft).op1 rm 0 sqrtNum (numL ft s)).pair) ∧
    SendsFloat (.ffma ft rm t1 t0) t1 t0 (fun s => ((ftFmt ft).fma rm 0 (numL ft s) (numR ft s) (numP ft s)).pair) ∧
    SendsFloat (.frcp pd ft t1 t0) t1 t0 (fun s => ((ftFmt ft).op1 .rn 0 rcpNum (numL ft s)).pair) ∧
    SendsFloat (.frsq pd ft t1 t0) t1 t0 (fun s => ((ftFmt ft).op1 .rn 0 rsqNum (numL ft s)).pair) ∧
    SendsFloat (.fexp2 pd ft t1 t0) t1 t0 (fun s => ((ftFmt ft).op1 .rn 0 exp2Num (numL ft s)).pair) ∧
    SendsFloat (.flog2 pd ft t1 t0) t1 t0 (fun s => ((ftFmt ft).op1 .rn 0 log2Num (numL ft s)).pair) ∧
    SendsFloat (.fsin pd ft t1 t0) t1 t0 (fun s => ((ftFmt ft).op1 .rn 0 sinNum (numL ft s)).pair) ∧
    SendsFloat (.fcos pd ft t1 t0) t1 t0 (fun s => ((ftFmt ft).op1 .rn 0 cosNum (numL ft s)).pair) ∧
    SendsFloat (.fmin pd ft t1 t0) t1 t0 (fun s => (ftFmt ft).pick false false (codeL ft s) (codeR ft s)) ∧
    SendsFloat (.fmax pd ft t1 t0) t1 t0 (fun s => (ftFmt ft).pick true false (codeL ft s) (codeR ft s)) ∧
    SendsFloat (.fminm pd ft t1 t0) t1 t0 (fun s => (ftFmt ft).pick false true (codeL ft s) (codeR ft s)) ∧
    SendsFloat (.fmaxm pd ft t1 t0) t1 t0 (fun s => (ftFmt ft).pick true true (codeL ft s) (codeR ft s)) ∧
    SendsFloat (.frnd pd ft rm t1 t0) t1 t0 (fun s => (ftFmt ft).integral rm (codeL ft s))

/-- R331's table of cases, R261's zero sums and R332's NaN rows, for each of FP32, FP16 and BF16 (code n is the canonical NaN). -/
def Obligations.FloatSpecialCases : Prop :=
  ∀ (ft : FloatFmt) (rm : Rm) (x y z : Machine.Num),
    let f := ftFmt ft
    let n := f.nanCode
    (∀ a, ((x = .inf a ∧ y.isZero = true) ∨ (y = .inf a ∧ x.isZero = true)) → (f.fma rm 0 x y z).pair = (n, flagIV)) ∧
    (x.isNan = true ∨ y.isNan = true →
      (f.op2 rm 0 (addNum rm) x y).pair = (n, if x.isSig || y.isSig then flagIV else 0) ∧
      (f.op2 rm 0 mulNum x y).pair = (n, if x.isSig || y.isSig then flagIV else 0) ∧
      (f.op2 rm 0 divNum x y).pair = (n, if x.isSig || y.isSig then flagIV else 0)) ∧
    (∀ a, (f.op2 rm 0 (addNum rm) (.inf a) (.inf !a)).pair = (n, flagIV)) ∧
    (∀ a, x.isZero = true → (f.op2 rm 0 mulNum x (.inf a)).pair = (n, flagIV) ∧ (f.op2 rm 0 mulNum (.inf a) x).pair = (n, flagIV)) ∧
    (∀ a b, (f.op2 rm 0 divNum (.inf a) (.inf b)).pair = (n, flagIV)) ∧
    (x.isZero = true → y.isZero = true → (f.op2 rm 0 divNum x y).pair = (n, flagIV)) ∧
    (∀ a b m e k, m ≠ 0 → (f.op2 rm 0 divNum (.fin a m e) (.fin b 0 k)).pair = (f.signed (a != b) (f.maxCode + 1), flagDZ)) ∧
    (∀ a e, (f.op1 rm 0 sqrtNum (.fin a 0 e)).pair = (f.signed a 0, 0)) ∧
    (∀ m e, m ≠ 0 → (f.op1 rm 0 sqrtNum (.fin true m e)).pair = (n, flagIV)) ∧
    (f.op1 rm 0 sqrtNum (.inf true)).pair = (n, flagIV) ∧
    (∀ a m e, m ≠ 0 → (f.op2 rm 0 (addNum rm) (.fin a m e) (.fin (!a) m e)).pair = (f.signed (decide (rm = .rd)) 0, 0)) ∧
    ∀ (c d : Nat) (g : Bool), (f.decode c).isNan = true →
      f.pick g false c d = (n, if (f.decode c).isSig || (f.decode d).isSig then flagIV else 0) ∧
      ((f.decode d).isNan = false → f.pick g true c d = (d, if (f.decode c).isSig then flagIV else 0))

/-- R261 under RM 01, for every non-zero finite value (-1)^a m 2^e: the result is the greatest magnitude of the format that does
not exceed the exact one, and NX tells whether it differs (R262). -/
def Obligations.RoundingTowardZero : Prop :=
  ∀ (ft : FloatFmt) (a : Bool) (m : Nat) (e : Int), m ≠ 0 →
    let f := ftFmt ft
    let r := f.give .rz (.fin a m e) 0
    ∃ (k : Nat) (q : Int), f.decode r.code = .fin a k q ∧ lessAt m e k q = false ∧
      (∀ (c j : Nat) (p : Int), f.decode c = .fin a j p → lessAt k q j p = true → lessAt m e j p = true) ∧
      (r.flags &&& flagNX ≠ 0 ↔ lessAt k q m e = true)

/-- R333, R334, R339. -/
def Obligations.SignsComparisonsClasses : Prop :=
  (∀ (pd : Pd) (t1 t0 : Target),
    SendsFloat (.fabs pd .s t1 t0) t1 t0 (fun s => ((portL 32 s &&& 0x7FFFFFFF).toNat, 0)) ∧
    SendsFloat (.fneg pd .s t1 t0) t1 t0 (fun s => ((portL 32 s ^^^ 0x80000000).toNat, 0)) ∧
    (∀ ft, ft ≠ .s → SendsFloat (.fabs pd ft t1 t0) t1 t0 (fun s => ((portL 16 s &&& 0x7FFF).toNat, 0)) ∧
      SendsFloat (.fneg pd ft t1 t0) t1 t0 (fun s => ((portL 16 s ^^^ 0x8000).toNat, 0))) ∧
    (∀ ft cc, SendsFloat (.fcmp pd ft cc t1 t0) t1 t0 (fun s =>
      (bitOf (compareNum cc (numL ft s) (numR ft s)).1, (compareNum cc (numL ft s) (numR ft s)).2))) ∧
    ∀ ft, SendsFloat (.fclass pd ft t1 t0) t1 t0 (fun s => (2 ^ (ftFmt ft).classBit (codeL ft s), 0))) ∧
  (∀ x y : Machine.Num, (x.isNan || y.isNan) = true → ∀ cc,
    (compareNum cc x y).1 = (match cc with | .ne => true | .un => true | _ => false) ∧
    (compareNum cc x y).2 = (match cc with
      | .lt | .le | .gt | .ge => flagIV
      | _ => if x.isSig || y.isSig then flagIV else 0)) ∧
  (∀ x y : Machine.Num, (x.isNan || y.isNan) = false →
    (∀ cc, (compareNum cc x y).2 = 0) ∧
    (compareNum .un x y).1 = false ∧ (compareNum .ord x y).1 = true ∧
    (compareNum .ne x y).1 = !(compareNum .eq x y).1 ∧ (compareNum .ge x y).1 = !(compareNum .lt x y).1 ∧
    (compareNum .le x y).1 = !(compareNum .gt x y).1 ∧ (compareNum .gt x y).1 = (compareNum .lt y x).1 ∧
    ((compareNum .eq x y).1 = true → (compareNum .lt x y).1 = false)) ∧
  ∀ (ft : FloatFmt) (c : Nat), (ftFmt ft).classBit c ≤ 9

/-- R335's table of special cases. -/
def Obligations.FloatFunctionSpecialCases : Prop :=
  ∀ (ft : FloatFmt) (a : Bool) (e : Int) (m : Nat),
    let f := ftFmt ft
    let n := f.nanCode
    let inf := f.maxCode + 1
    (∀ g, (f.op1 .rn 0 g (.nan a)).pair = (n, if a then flagIV else 0)) ∧
    (f.op1 .rn 0 rcpNum (.fin a 0 e)).pair = (f.signed a inf, flagDZ) ∧ (f.op1 .rn 0 rcpNum (.inf a)).pair = (f.signed a 0, 0) ∧
    (f.op1 .rn 0 rsqNum (.fin a 0 e)).pair = (f.signed a inf, flagDZ) ∧ (f.op1 .rn 0 rsqNum (.inf false)).pair = (0, 0) ∧
    (m ≠ 0 → (f.op1 .rn 0 rsqNum (.fin true m e)).pair = (n, flagIV)) ∧ (f.op1 .rn 0 rsqNum (.inf true)).pair = (n, flagIV) ∧
    (f.op1 .rn 0 exp2Num (.inf true)).pair = (0, 0) ∧ (f.op1 .rn 0 exp2Num (.inf false)).pair = (inf, 0) ∧
    f.decode (f.op1 .rn 0 exp2Num (.fin a 0 e)).pair.1 = f.decode (f.give .rn (.fin false 1 0) 0).code ∧
    (f.op1 .rn 0 log2Num (.fin a 0 e)).pair = (f.signed true inf, flagDZ) ∧
    (m ≠ 0 → (f.op1 .rn 0 log2Num (.fin true m e)).pair = (n, flagIV)) ∧ (f.op1 .rn 0 log2Num (.inf true)).pair = (n, flagIV) ∧
    (f.op1 .rn 0 log2Num (.inf false)).pair = (inf, 0) ∧ (∀ k : Nat, (f.op1 .rn 0 log2Num (.fin false (2 ^ k) (-k))).pair = (0, 0)) ∧
    (f.op1 .rn 0 sinNum (.inf a)).pair = (n, flagIV) ∧ (0 ≤ e → (f.op1 .rn 0 sinNum (.fin a m e)).pair = (f.signed a 0, 0)) ∧
    (f.op1 .rn 0 cosNum (.inf a)).pair = (n, flagIV) ∧ (f.op1 .rn 0 cosNum (.fin a (2 * m + 1) (-1))).pair = (0, 0)

/-- R263 to R267, R337, R338. -/
def Obligations.Conversions : Prop :=
  (∀ (pd : Pd) (ft : FloatFmt) (rm : Rm) (t1 t0 : Target),
    SendsFloat (.cvtS pd ft rm t1 t0) t1 t0 (fun s => (fp32.give rm (numL ft s) 0).pair) ∧
    SendsFloat (.cvtH pd ft rm t1 t0) t1 t0 (fun s => (fp16.give rm (numL ft s) 0).pair) ∧
    SendsFloat (.cvtB pd ft rm t1 t0) t1 t0 (fun s => (bf16.give rm (numL ft s) 0).pair) ∧
    SendsFloat (.cvtfi pd ft rm t1 t0) t1 t0 (fun s =>
      ((BitVec.ofInt 32 (toIntIn rm (-2147483648) 2147483647 (numL ft s)).1).toNat,
        (toIntIn rm (-2147483648) 2147483647 (numL ft s)).2)) ∧
    SendsFloat (.cvtif pd ft rm t1 t0) t1 t0 (fun s => giveInt ft rm (portL 32 s).toInt) ∧
    SendsFloat (.cvtifL pd ft rm t1 t0) t1 t0 (fun s => giveInt ft rm (portL 64 s).toInt) ∧
    SendsFloat (.cvf8 pd ft t1 t0) t1 t0 (fun s =>
      ((ftFmt ft).give .rn ((s.vfmt s.sch.cur).decode (portL 8 s).toNat) 0).pair) ∧
    ∀ s : State, s.sch.cur.passes pd = true →
      let q := (s.vfmt s.sch.cur).give .rn (numL ft s) (s.rngOf s.sch.cur)
      s.canSend s.sch.cur (toBoth t0 t1 (Val.of 4 q.code)) = true →
      exec (.cvt8 pd ft t1 t0) s = .next (((s.setRng s.sch.cur q.rng).raise s.sch.cur q.flags).sendAll s.sch.cur s.sch.cur.acc.tag
        false (toBoth t0 t1 (Val.of 4 q.code)))) ∧
  (∀ (rm : Rm) (a : Bool),
    toIntIn rm (-2147483648) 2147483647 (.nan a) = (0, flagIV) ∧
    toIntIn rm (-2147483648) 2147483647 (.inf a) = (if a then -2147483648 else 2147483647, flagIV) ∧
    (∀ m : Nat, 2147483647 < m → toIntIn rm (-2147483648) 2147483647 (.fin false m 0) = (2147483647, flagIV)) ∧
    ∀ m : Nat, m ≤ 2147483647 → toIntIn rm (-2147483648) 2147483647 (.fin a m 0) = (if a then -(m : Int) else m, 0)) ∧
  (∀ (rm : Rm) (i : Int), i.natAbs < 2 ^ 24 →
    (giveInt .s rm i).2 = 0 ∧ (Machine.Num.eqv (fp32.decode (giveInt .s rm i).1) (ofInt i 0 false)) = true) ∧
  ∀ (p : Nat) (sgn ext : Bool) (x : Machine.Num) (g : Word),
    ((Fmt.b8 p sgn ext).give .rn x g).rng = g ∨ ((Fmt.b8 p sgn ext).give .rn x g).rng = rngNext g

/-! ## Tags, frames and sends (R312 to R322) -/

/-- R312 to R315, R319, R320: what the instructions of tags and frames do when their targets are ready; and the tag arithmetic
that the allocator rests on: a tag splits into the fields that made it (R6), and NextTag (R191). -/
def Obligations.TagsAndFrames : Prop :=
  (∀ (pd : Pd) (k : BitVec 3) (t1 t0 : Target) (s : State), s.sch.cur.passes pd = true →
     let f := s.sch.cur
     let n := f.valL.len
     let held := s.reserve f [t0, t1] n
     (s.canSend f (toBoth t0 t1 (Val.of n 0)) = true →
       exec (.iter pd t1 t0) s = .next (held.ask f .iter 0 [t0, t1]) ∧
       exec (.nextIter pd t1 t0) s = .next ((held.endTag f.region f.acc.tag).ask f .iter 0 [t0, t1])) ∧
     (s.canSend f (toBoth t0 t1 f.valL) = true →
       exec (.retire pd t1 t0) s = .next ((s.retireTag f.region f.acc.tag).sendAll f f.acc.tag false (toBoth t0 t1 f.valL))) ∧
     (s.canSend f [(t0, f.valL), (t1, Val.of 4 0)] = true →
       exec (.frame pd k t1 t0) s = .next (((s.reserve f [t0] n).reserve f [t1] 4).ask f .frame k.toNat [t0, t1])) ∧
     ((s.region f.region).frame? f.frm = none → exec (.fret pd t1 t0) s = .next s) ∧
     (∀ g, (s.region f.region).frame? f.frm = some g → g.returned = true → exec (.fret pd t1 t0) s = .next s) ∧
     (∀ g, (s.region f.region).frame? f.frm = some g → g.returned = false → g.parent = none →
       exec (.fret pd t1 t0) s = .next (s.returnFrame f.region f.frm)) ∧
     (∀ g p, (s.region f.region).frame? f.frm = some g → g.returned = false → g.parent = some p →
       s.canSend f (toBoth t0 t1 f.valL) = true →
       exec (.fret pd t1 t0) s = .next ((s.sendAll f p false (toBoth t0 t1 f.valL)).returnFrame f.region f.frm)) ∧
     (∀ p : Tag, p = (((s.region f.region).frame? f.frm).bind FrameRec.parent).getD 0 →
       s.canSend f (toBoth t0 t1 (val (p ++ f.acc.tag))) = true →
       exec (.tagrd pd t1 t0) s = .next (s.sendAll f f.acc.tag false (toBoth t0 t1 (val (p ++ f.acc.tag))))) ∧
     ∀ (ps : List Pool) (q : State), s.canSend f (toBoth t0 t1 (Val.of 4 0)) = true →
       s.takePools f.cell f.region (max 1 (slotSends (toBoth t0 t1 (Val.of 4 0))).length) = some (ps, q) →
       exec (.qlvl pd t1 t0) s = .next ((q.reserve f [t0, t1] 4).updDie f.die fun d =>
         { d with gates := d.gates ++ [{ firing := f, targets := [t0, t1], pools := ps }] })) ∧
  (∀ ctx frm gen itr : Nat, ctx < 1024 → frm < 256 → gen < 4 → itr < 4096 →
    tagCtx (mkTag ctx frm gen itr) = ctx ∧ tagFrm (mkTag ctx frm gen itr) = frm ∧
    tagGen (mkTag ctx frm gen itr) = gen ∧ tagItr (mkTag ctx frm gen itr) = itr) ∧
  (∀ t : Tag, t = mkTag (tagCtx t) (tagFrm t) (tagGen t) (tagItr t)) ∧
  ∀ t : Tag,
    nextTag t = (if t.extractLsb' 0 12 = 0xFFF then t.extractLsb' 14 18 ++ (t.extractLsb' 12 2 + 1) ++ (0 : BitVec 12)
      else t.extractLsb' 12 20 ++ (t.extractLsb' 0 12 + 1))

/-- R317, R318: the tokens of SEND and SENDM, and the traps of their descriptors. -/
def Obligations.SendsAcrossTheRegion : Prop :=
  ∀ (pd : Pd) (s : State), s.sch.cur.passes pd = true →
    let f := s.sch.cur
    let d := portR 32 s
    let r := s.region f.region
    let x := r.x0 + (d.extractLsb' 21 7).toNat
    let y := r.y0 + (d.extractLsb' 15 6).toNat
    let w := (d.extractLsb' 12 3).toNat
    let slot := (d.extractLsb' 6 6).toNat
    let tag := if d.getLsbD 3 then nextTag f.acc.tag else f.acc.tag
    (∀ (p : Port) (pool : Pool) (q : State), d.extractLsb' 28 4 = 0 → d.extractLsb' 0 3 = 0 → r.contains x y = true →
      w < r.image.wpc → (d.extractLsb' 4 2).toNat = p.code → s.slotTakes f.region (cellKey f.die x y) w slot p = true →
      r.steer x y w tag f.valL = (x, y) → s.takeEntry (cellKey f.die x y) f.region = some (pool, q) →
      ∃ t k, exec (.send pd) s = .next t ∧ t.toks = s.toks ++ [k] ∧ k.tag = tag ∧ k.val = f.valL ∧ k.x = x ∧ k.y = y ∧
        k.dest = .slot w slot p ∧ k.region = f.region ∧ k.pool = pool ∧ t.mem = s.mem ∧ t.regions = s.regions) ∧
    (d.extractLsb' 28 4 ≠ 0 ∨ d.extractLsb' 0 3 ≠ 0 ∨ r.contains x y = false ∨ r.image.wpc ≤ w →
      exec (.send pd) s = .next (s.report f true .trap (0x3FF1 + d.toNat * 2 ^ 32))) ∧
    (∀ (p : Port) (l : List (Nat × Nat × Pool)) (q : State),
      let g : Group := look {} (s.die f.die).groups (d.extractLsb' 16 8).toNat
      let goal := g.members.filter fun c => r.contains c.1 c.2
      d.extractLsb' 24 8 = 0 → d.getLsbD 15 = false → d.extractLsb' 0 3 = 0 → (d.extractLsb' 4 2).toNat = p.code →
      g.members ≠ [] → g.ctx = tagCtx f.acc.tag → w < r.image.wpc →
      (∀ c ∈ goal, s.slotTakes f.region (cellKey f.die c.1 c.2) w slot p = true) →
      s.takeEntries f.die f.region goal = some (l, q) →
      ∃ t ks, exec (.sendm pd) s = .next t ∧ t.toks = s.toks ++ ks ∧ ks.map (fun k => (k.x, k.y)) = goal ∧
        ∀ k ∈ ks, k.tag = tag ∧ k.val = f.valL ∧ k.dest = .slot w slot p ∧ k.region = f.region) ∧
    ((d.extractLsb' 24 8 ≠ 0 ∨ d.getLsbD 15 = true ∨ d.extractLsb' 0 3 ≠ 0 ∨ d.extractLsb' 4 2 = 0 ∨
        (look {} (s.die f.die).groups (d.extractLsb' 16 8).toNat : Group).ctx ≠ tagCtx f.acc.tag) →
      exec (.sendm pd) s = .next (s.report f true .trap (0x3FF2 + d.toNat * 2 ^ 32)))

/-- R321, and END's first two steps (R322). -/
def Obligations.HoldRegistersAndEnd : Prop :=
  ∀ (pd : Pd) (trap : Bool) (h : BitVec 5) (t0 : Target) (s : State), s.sch.cur.passes pd = true →
    let f := s.sch.cur
    (∀ (i : Nat) (c : Cell), (s.cell f.cell).takeSlot f.region f.frm = some (i, c) →
      let held := s.updCell f.cell fun _ => c
      let q := (held.cell f.cell).hold i h.toNat
      (q.st = .full → s.canSend f [(t0, val q.val)] = true →
        exec (.rdh pd trap h t0) s = .next (held.sendAll f f.acc.tag false [(t0, val q.val)])) ∧
      (q.st ≠ .full → exec (.rdh pd true h t0) s = .next (held.report f true .hempty (h.toNat + i * 256)) ∧
        exec (.rdh pd false h t0) s = .next (s.putBack f)) ∧
      (∀ v : Dword, v = (if q.st = .full then 1 else 0) → s.canSend f [(t0, val v)] = true →
        exec (.tsth pd h t0) s = .next (held.sendAll f f.acc.tag false [(t0, val v)])) ∧
      ((c.hold i h.toNat).st ≠ .pending → s.canSend f [(t0, val (portL 64 s))] = true →
        exec (.wrh pd h t0) s = .next ((s.updCell f.cell fun _ =>
          c.setHold i h.toNat { st := .full, val := portL 64 s }).sendAll f f.acc.tag false [(t0, val (portL 64 s))])) ∧
      ((c.hold i h.toNat).st ≠ .pending → s.canSend f [(t0, f.valL)] = true →
        exec (.clrh pd h t0) s = .next ((s.updCell f.cell fun _ => c.setHold i h.toNat {}).sendAll f f.acc.tag false [(t0, f.valL)])) ∧
      ((c.hold i h.toNat).st = .pending → exec (.wrh pd h t0) s = .next (s.putBack f) ∧ exec (.clrh pd h t0) s = .next (s.putBack f))) ∧
    ((s.region f.region).trapSet = [] → exec (.endRegion pd) s = .next (s.updRegion f.region fun r => { r with ended := true })) ∧
    ((s.region f.region).trapSet ≠ [] → exec (.endRegion pd) s = .next (s.putBack f))

/-! ## Memory, queues, trees (R376 to R394) -/

/-- R377, R379, R380, R385, R386: the accesses that the instructions of Format M send. STT's RETAIN is L [32]. -/
def Obligations.AccessesIssue : Prop :=
  ∀ (pd : Pd) (seq : BitVec 5) (pv nx : BitVec 2) (port : BitVec 5) (t0 : Target),
    Accesses (.ld pd seq pv nx port t0) port seq t0 4 (fun _ => .ld) ∧
    Accesses (.st pd seq pv nx port t0) port seq t0 4 (fun s => .st (portR 32 s).toNat) ∧
    Accesses (.ldt pd seq pv nx port t0) port seq t0 4 (fun s => .ldt (portL 64 s).toNat) ∧
    Accesses (.stt pd seq pv nx port t0) port seq t0 4 (fun s =>
      .stt (portL 64 s &&& 0xFFFFFFFEFFFFFFFF).toNat ((portL 64 s).getLsbD 32)) ∧
    Accesses (.pft pd seq pv nx port t0) port seq t0 4 (fun _ => .pft) ∧
    Accesses (.amoadd pd seq pv nx port t0) port seq t0 8 (fun s => .amoadd (portR 32 s).toNat) ∧
    Accesses (.amomin pd seq pv nx port t0) port seq t0 8 (fun s => .amomin (portR 32 s).toNat) ∧
    Accesses (.amomax pd seq pv nx port t0) port seq t0 8 (fun s => .amomax (portR 32 s).toNat) ∧
    Accesses (.scas64 pd seq pv nx port t0) port seq t0 8 (fun s =>
      .scas64 (portR 64 s).toNat ((portR 128 s).extractLsb' 64 64).toNat) ∧
    Accesses (.scas128 pd seq pv nx port t0) port seq t0 16 (fun s =>
      .scas128 (portR 128 s).toNat ((portR 256 s).extractLsb' 128 128).toNat) ∧
    Accesses (.sadd pd seq pv nx port t0) port seq t0 8 (fun s => .sadd (portR 64 s).toNat) ∧
    Accesses (.sswap pd seq pv nx port t0) port seq t0 8 (fun s => .sswap (portR 64 s).toNat)

/-- R379 (LDH), R378 (MNOP), R382 (FENCE): how they fire. -/
def Obligations.PendingLoadsAndFences : Prop :=
  ∀ (pd : Pd) (seq : BitVec 5) (pv nx : BitVec 2) (port h : BitVec 5) (sc : Scope) (t1 t0 : Target) (s : State),
    s.sch.cur.passes pd = true →
    let f := s.sch.cur
    (∀ (b : Binding) (pool : Pool) (q : State) (i : Nat) (c : Cell), (s.region f.region).binding? port.toNat = some b →
      s.retries f.cell < 32 → s.cacheWaits f b = false → (s.cell f.cell).holdReady f.region f.frm h.toNat = true →
      s.takeEntry f.cell f.region = some (pool, q) → (q.cell f.cell).takeSlot f.region f.frm = some (i, c) →
      exec (.ldh pd seq pv nx port h) s = .next ((q.updCell f.cell fun _ => c.setHold i h.toNat { st := .pending }).sendAccess
        f b (s.rankOf f b.p seq.toNat) .discard (.ldh h) (portL 64 s).toNat pool)) ∧
    (∀ b, (s.region f.region).binding? port.toNat = some b →
      let v := portL 64 s
      let lo := (v.extractLsb' 0 6).toNat
      let hi := (v.extractLsb' 8 6).toNat
      (v.extractLsb' 6 2 ≠ 0 ∨ v.extractLsb' 14 50 ≠ 0 ∨ hi < lo ∨ s.rankCount f b.p ≤ hi →
        exec (.mnop pd seq pv nx port t0) s = .next (s.report f true .trap (0x3FF7 + v.toNat * 2 ^ 32))) ∧
      (∀ (pool : Pool) (q : State), v.extractLsb' 6 2 = 0 → v.extractLsb' 14 50 = 0 → lo ≤ hi → hi < s.rankCount f b.p →
        s.retries f.cell < 32 → s.canSend f [(t0, Val.of 4 0)] = true → s.takeEntry f.cell f.region = some (pool, q) →
        exec (.mnop pd seq pv nx port t0) s = .next ((q.reserve f [t0] 4).sendAccess f b lo t0 (.mnop hi) lo pool))) ∧
    (s.canSend f (toBoth t0 t1 (Val.of f.valL.len 0)) = true →
      let held := s.reserve f [t0, t1] f.valL.len
      exec (.fenceAcq pd sc t1 t0) s = .next (held.putFence f .acq sc [t0, t1] .send .none) ∧
      exec (.fenceRel pd sc t1 t0) s = .next (held.putFence f .rel sc [t0, t1] .send .none) ∧
      exec (.fenceFull pd sc t1 t0) s = .next (held.putFence f .full sc [t0, t1] .send .none)) ∧
    ∀ (k : FenceKind) (u : State) (l : List Target),
      let before := (u.accesses.filter fun a => a.firing.cell = f.cell && a.firing.region = f.region && a.firing.frm = f.frm &&
        (match k with
          | .acq => a.op.isLoad || a.op.isAtomic
          | _ => a.op.isLoad || a.op.isAtomic || a.op.isStore)).map (·.id)
      let own := ((u.cell f.cell).ownReads.filter fun p => p.1 = f.region && p.2.1 = f.frm && sc ≠ .cell).map (·.2.2)
      let queue := (u.pendingQueue.filter fun o => (k ≠ .acq || o.kind ≠ .push) && o.firing.cell = f.cell &&
        o.firing.region = f.region && o.firing.frm = f.frm).map (·.id)
      let tree := (u.die f.die).tree.flatMap fun o => (o.contribs.filter fun c => !c.targets.isEmpty && c.firing.cell = f.cell &&
        c.firing.region = f.region && c.firing.frm = f.frm).map (·.id)
      let new : Fence := { id := u.sch.nextId, firing := f, kind := k, scope := sc, targets := l,
                           before := before ++ own ++ queue ++ tree }
      u.putFence f k sc l .send .none =
        { u with sch := { u.sch with nextId := u.sch.nextId + 1 }
                 cells := upd {} f.cell (fun c => { c with fences := c.fences ++ [new] }) u.cells }

/-- R384. -/
def Obligations.TileAtomics : Prop :=
  (∀ (pd : Pd) (td : BitVec 5) (op : AmotOp) (ct : Completion) (s : State), s.sch.cur.passes pd = true →
    let f := s.sch.cur
    let c := s.cell f.cell
    let t := c.tile td.toNat
    let col := ((portL 64 s).extractLsb' 0 12).toNat
    let row := ((portL 64 s).extractLsb' 12 10).toNat
    let at_ := t.rowAddr row + 4 * col
    let len := if op = .add64 then 8 else 4
    let suits := (portL 64 s).extractLsb' 22 42 = 0 ∧ row < t.nrows ∧ col < t.ncols ∧ amotFmt op t.fmt = true ∧ t.bs = false ∧
      (op = .add64 → col % 2 = 0 ∧ col + 1 < t.ncols) ∧ (c.bank t.bank.toNat).mode = .scratchpad
    (c.tileReady td.toNat = false → exec (.amot pd td op ct) s = .next (s.putBack f)) ∧
    (c.tileReady td.toNat = true → ¬ suits →
      exec (.amot pd td op ct) s = .next (s.report f true .trap (0x3FF6 + (portL 64 s).toNat * 2 ^ 32))) ∧
    (c.tileReady td.toNat = true → suits →
      let q := amotApply op (c.bankRead t.bank.toNat at_ len) (s.sch.cur.r len)
      let l := (ctTargets ct).map fun t => (t, Val.of (if op = .add64 ∨ op = .fmin ∨ op = .fmax ∨ op = .fadd then 8 else 4) q.2)
      s.canSend f l = true →
      exec (.amot pd td op ct) s = .next ((s.updCell f.cell fun c => c.bankWrite t.bank.toNat at_ (toBytes len q.1)).sendAll f
        f.acc.tag false l))) ∧
  (∀ m v : BitVec 32,
    amotApply .add m.toNat v.toNat = ((m + v).toNat, m.toNat) ∧ amotApply .and m.toNat v.toNat = ((m &&& v).toNat, m.toNat) ∧
    amotApply .or m.toNat v.toNat = ((m ||| v).toNat, m.toNat) ∧ amotApply .xor m.toNat v.toNat = ((m ^^^ v).toNat, m.toNat) ∧
    amotApply .min m.toNat v.toNat = ((if m.sle v then m else v).toNat, m.toNat) ∧
    amotApply .max m.toNat v.toNat = ((if v.sle m then m else v).toNat, m.toNat) ∧
    amotApply .minu m.toNat v.toNat = ((if m.ule v then m else v).toNat, m.toNat) ∧
    amotApply .maxu m.toNat v.toNat = ((if v.ule m then m else v).toNat, m.toNat) ∧
    amotApply .swap m.toNat v.toNat = (v.toNat, m.toNat)) ∧
  ∀ m v : BitVec 64, amotApply .add64 m.toNat v.toNat = ((m + v).toNat, m.toNat)

/-- R387, R389, R391 to R394: what the instructions that leave the cell send, COLLREC at the first chunk of a record. -/
def Obligations.QueueTreeTimelineRequests : Prop :=
  (∀ (pd : Pd) (k lim : BitVec 5) (g : BitVec 8) (op : TreeOp) (ch : BitVec 6) (t0 : Target) (s : State), s.sch.cur.passes pd = true →
     let f := s.sch.cur
     let ctx := tagCtx f.acc.tag
     let chain := s.chain ctx ch.toNat
     (∀ (pool : Pool) (q : State), s.takeEntry f.cell f.region = some (pool, q) →
       (s.canSend f [(t0, Val.of 8 0)] = true →
         exec (.qpush pd k lim t0) s = .next (asksQueue (q.reserve f [t0] 8) f .push k.toNat lim.toNat (portL 256 s).toNat t0 pool) ∧
         exec (.tailadv pd ch t0) s = .next ((q.reserve f [t0] 8).putFence f .rel .device [t0] (.tail ch.toNat (portL 64 s)) pool) ∧
         exec (.tlread pd ch t0) s = .next ((q.reserve f [t0] 8).land f f.acc.tag pool
           [(t0, val ((q.reserve f [t0] 8).chain ctx ch.toNat).tl)])) ∧
       (s.canSend f [(t0, Val.of 32 0)] = true →
         exec (.qpop pd k lim t0) s = .next (asksQueue (q.reserve f [t0] 32) f .pop k.toNat lim.toNat 0 t0 pool) ∧
         exec (.qpeek pd k lim t0) s = .next (asksQueue (q.reserve f [t0] 32) f .peek k.toNat lim.toNat 0 t0 pool)) ∧
       (s.inGroup f g.toNat = true → s.canSend f [(t0, Val.of f.valL.len 0)] = true →
         exec (.barr pd g t0) s = .next ((q.reserve f [t0] f.valL.len).contribute f.die g.toNat ((q.reserve f [t0] f.valL.len).noteOf f)
           { x := f.x, y := f.y, op := 0, val := f.valL, targets := [t0], firing := f, pool := pool })) ∧
       (s.inGroup f g.toNat = true → s.canSend f [(t0, Val.of (treeVal f).len 0)] = true →
         exec (.tree pd op g t0) s = .next ((q.reserve f [t0] (treeVal f).len).contribute f.die g.toNat
           ((q.reserve f [t0] (treeVal f).len).noteOf f)
           { x := f.x, y := f.y, op := op.code, val := treeVal f, targets := [t0], firing := f, pool := pool })) ∧
       ((portL 64 s).toNat ≤ chain.tl.toNat → s.canSend f [(t0, Val.of 8 0)] = true →
         exec (.tlwait pd ch t0) s = .next ((q.reserve f [t0] 8).putFence (f.withL (val (portL 64 s))) .acq
           (if ((q.reserve f [t0] 8).chain ctx ch.toNat).systemScope then .system else .device) [t0] .send pool))) ∧
     (s.inGroup f g.toNat = false →
       exec (.barr pd g t0) s = .next (s.report f true .trap (0x3FF8 + g.toNat * 2 ^ 32)) ∧
       exec (.tree pd op g t0) s = .next (s.report f true .trap (0x3FF8 + g.toNat * 2 ^ 32))) ∧
     (chain.tl.toNat < (portL 64 s).toNat → exec (.tlwait pd ch t0) s = .next (s.putBack f)) ∧
     (chain.entry.isSome = true → chain.kind ≠ 2 → exec (.collrec pd ch t0) s = .next (s.report f true .trap (0x3FF9 + ch.toNat * 2 ^ 32)))) ∧
  ∀ (pd : Pd) (ch : BitVec 6) (t0 : Target) (s : State) (c : Coll) (pool : Pool) (q : State), s.sch.cur.passes pd = true →
    let f := s.sch.cur
    let ctx := tagCtx f.acc.tag
    let key := 64 * ctx + ch.toNat
    let e := min 16 c.elems
    let held := q.reserve f [t0] 4
    s.colls = [c] → c.ctx = ctx → c.chain = ch.toNat → 0 < c.ordinal → look 0 (s.cell f.cell).collCount key = 0 →
    (s.chain ctx ch.toNat).kind = 2 → (s.chain ctx ch.toNat).invalid = false →
    bit c.dieMask f.die = true → s.inGroup f c.group = true → s.canSend f [(t0, Val.of 4 0)] = true →
    s.takeEntry f.cell f.region = some (pool, q) →
    let counted := held.updCell f.cell fun cell => { cell with
      collCount := put 0 key (c.ordinal * 2 ^ 32 + if 1 = c.chunkCount then 0 else 1) cell.collCount }
    exec (.collrec pd ch t0) s = .next (counted.contribute f.die c.group (counted.noteOf f)
      { x := f.x, y := f.y, op := c.op, val := Val.of (4 * e) (f.l 64), targets := [t0], firing := f, pool := pool,
        coll := some (ch.toNat, c.ordinal, 0) })

/-! ## Traps, system queries and configuration (R395 to R402) -/

/-- R396, R397 and the code and operand of R395: the report goes to the die's scheduler, and the accord completes when it is
issued again. -/
def Obligations.TrapsAndBreakpoints : Prop :=
  ∀ (pd : Pd) (imm : BitVec 14) (mask : BitVec 5) (code : BitVec 10) (set : BitVec 4) (t0 : Target) (s : State),
    s.sch.cur.passes pd = true →
    let f := s.sch.cur
    let v := (portL 64 s).toNat
    let h31 := (s.cell f.cell).holdOf f.region f.frm 31
    let fl := if h31.st = .full then (h31.val.extractLsb' 0 5 &&& mask) else 0
    let armed := (s.die f.die).bkpt.mask.getLsbD set.toNat = true ∧ (s.die f.die).bkpt.ctx.toNat = tagCtx f.acc.tag
    (f.acc.reissue = false →
      exec (.trap pd imm t0) s = .next (s.report f true .trap (imm.toNat + v * 2 ^ 32)) ∧
      (h31.st = .pending → exec (.trapf pd mask t0) s = .next (s.putBack f)) ∧
      (h31.st ≠ .pending → fl ≠ 0 → exec (.trapf pd mask t0) s = .next (s.report f true .trap (0x10000 + fl.toNat + v * 2 ^ 32))) ∧
      (armed → exec (.bkpt pd code set t0) s = .next (s.report f true .bkpt (code.toNat + v * 2 ^ 32)))) ∧
    (s.canSend f [(t0, val (portL 64 s))] = true →
      let passed : State := s.sendAll f f.acc.tag false [(t0, val (portL 64 s))]
      (f.acc.reissue = true → exec (.trap pd imm t0) s = .next passed ∧ exec (.trapf pd mask t0) s = .next passed ∧
        exec (.bkpt pd code set t0) s = .next passed) ∧
      (h31.st ≠ .pending → fl = 0 → exec (.trapf pd mask t0) s = .next passed) ∧
      (¬ armed → exec (.bkpt pd code set t0) s = .next passed))

/-- R158 step 1 and the layout of R155. -/
def Obligations.TrapReportsAndRecords : Prop :=
  (∀ (s : State) (f : Firing) (accord : Bool) (cls : FaultClass) (body : Nat),
    let r := s.region f.region
    let loc : Word := BitVec.ofNat 32 (f.die * 2 ^ 28 + f.x * 2 ^ 21 + f.y * 2 ^ 15 + f.rwin * 2 ^ 12 + f.acc.slot * 2 ^ 6)
    let rcd : FaultRec := { cls := cls, ctx := r.ctx, tag := f.acc.tag, loc := loc, bodyA := body,
                            cycle := (s.die f.die).fabCycles, bodyB := r.handle }
    let new : TrapReport := { region := f.region, frm := f.frm, accord := if accord then some f else none, rcd := rcd }
    s.report f accord cls body = { s with dies := upd {} f.die (fun d => { d with reports := d.reports ++ [new] }) s.dies }) ∧
  ∀ r : FaultRec, r.ctx < 1024 →
    r.bytes.length = 64 ∧ ofBytes (r.bytes.take 2) = r.cls.code ∧ ofBytes ((r.bytes.drop 2).take 2) = r.ctx ∧
    ofBytes ((r.bytes.drop 4).take 4) = r.tag.toNat ∧ ofBytes ((r.bytes.drop 8).take 4) = r.loc.toNat ∧
    ofBytes ((r.bytes.drop 12).take 20) = r.bodyA % 2 ^ 160 ∧ ofBytes ((r.bytes.drop 32).take 8) = r.cycle.toNat ∧
    ofBytes (r.bytes.drop 40) = r.bodyB % 2 ^ 192

/-- R399 to R402. -/
def Obligations.SystemRegisters : Prop :=
  ∀ (pd : Pd) (ix : BitVec 12) (t1 t0 : Target),
    Sends (.sysqHandle pd t1 t0) noFlags (fun s =>
      let r := s.region s.sch.cur.region
      toBoth t0 t1 (Val.of 8 (r.die * 2 ^ 28 + r.x0 * 2 ^ 21 + r.y0 * 2 ^ 15 + (r.w - 1) * 2 ^ 8 + (r.h - 1) * 2 ^ 2))) ∧
    Sends (.sysqDie pd t1 t0) noFlags (fun s => toBoth t0 t1 (Val.of 4 s.sch.cur.die)) ∧
    Sends (.sysqReplica pd t1 t0) noFlags (fun s =>
      toBoth t0 t1 (Val.of 4 ((s.cell s.sch.cur.cell).window s.sch.cur.acc.win).replica)) ∧
    Sends (.sysqCtx pd t1 t0) noFlags (fun s => toBoth t0 t1 (Val.of 4 (s.region s.sch.cur.region).ctx)) ∧
    Sends (.cyc pd t1 t0) noFlags (fun s => toBoth t0 t1 (val (s.die s.sch.cur.die).fabCycles)) ∧
    Sends (.rdcfg pd ix t0) noFlags (fun s => [(t0, Val.of 8 (s.cfgRead s.sch.cur ix.toNat))]) ∧
    SendsAfter (.yield pd t1 t0) (fun s => s.updCell s.sch.cur.cell fun c => c.updWindow s.sch.cur.acc.win fun w =>
      { w with pass := put 0 0 (look 0 w.pass 0 + 0x10000) w.pass }) noFlags (fun s => toBoth t0 t1 s.sch.cur.valL) ∧
    (∀ (s : State) (f : Firing),
      s.cfgRead f 0x010 = (s.die f.die).pwr.word ∧ s.cfgRead f 0x020 = (s.region f.region).hang ∧
      s.cfgRead f 0x021 = (s.region f.region).margin ∧ s.cfgRead f 0x040 = (s.die f.die).bkpt.mask.toNat ∧
      s.cfgRead f 0x000 = (s.cell f.cell).fmt.word ∧ s.cfgRead f 0x001 = (s.cell f.cell).bankWord ∧
      s.cfgRead f 0x002 = (s.cell f.cell).statWord ∧ s.cfgRead f 0x003 = (s.cell f.cell).ecc.word) ∧
    ∀ s : State, s.sch.cur.passes pd = true →
      let f := s.sch.cur
      let v := portL 64 s
      let foreign := ix = 0x040 ∧ (s.die f.die).bkpt.ctx.toNat ≠ tagCtx f.acc.tag
      ((s.region f.region).priv = false ∨ foreign →
        exec (.wrcfg pd ix t0) s = .next (s.report f true .priv (ix.toNat + v.toNat * 2 ^ 32))) ∧
      ((s.region f.region).priv = true → s.canSend f [(t0, val (portL 64 s))] = true →
        let sent := fun t : State => t.sendAll f f.acc.tag false [(t0, val (portL 64 s))]
        (ix = 0x020 → exec (.wrcfg pd ix t0) s =
          .next (sent (s.updRegion f.region fun r => { r with hang := max 4096 (v.setWidth 32).toNat }))) ∧
        (ix = 0x021 → exec (.wrcfg pd ix t0) s =
          .next (sent (s.updRegion f.region fun r => { r with margin := (v.setWidth 8).toNat }))) ∧
        (ix = 0x040 → ¬ foreign → exec (.wrcfg pd ix t0) s =
          .next (sent (s.updDie f.die fun d => { d with bkpt := { d.bkpt with mask := v.setWidth 16 } }))) ∧
        ∀ (w : Nat) (win : Window), 0x030 ≤ ix.toNat → ix.toNat ≤ 0x037 →
          (s.cell f.cell).findWin f.region (ix.toNat - 0x030) = some (w, win) →
          exec (.wrcfg pd ix t0) s = .next (sent (s.updCell f.cell fun c => c.updWindow w fun q => { q with share := v.setWidth 4 })))

/-! ## Vectors (R341 to R352) -/

/-- R341, R343 to R346. The lanes are threaded by `laneGen`, the generator before lane i. -/
def Obligations.VectorLaneArithmetic : Prop :=
  (∀ (pd : Pd) (t1 t0 : Target),
    SendsLanes (.vadd pd t1 t0) t1 t0 (fun _ f g l r _ => arithmeticLane f g (addNum .rn) (fun a b => a + b) l r) ∧
    SendsLanes (.vsub pd t1 t0) t1 t0 (fun _ f g l r _ =>
      arithmeticLane f g (fun x y => addNum .rn x y.negate) (fun a b => a - b) l r) ∧
    SendsLanes (.vmul pd t1 t0) t1 t0 (fun _ f g l r _ => arithmeticLane f g mulNum (fun a b => a * b) l r) ∧
    SendsLanes (.vfma t1 t0) t1 t0 (fun _ f g l r p =>
      if f.isInt then ⟨saturateTo f (laneInt f l * laneInt f r + laneInt f p), 0, g⟩
      else f.fma .rn g (f.decode l) (f.decode r) (f.decode p)) ∧
    SendsLanes (.vmin pd t1 t0) t1 t0 (fun _ f g l r _ => ⟨(lanePick false f l r).1, (lanePick false f l r).2, g⟩) ∧
    SendsLanes (.vmax pd t1 t0) t1 t0 (fun _ f g l r _ => ⟨(lanePick true f l r).1, (lanePick true f l r).2, g⟩) ∧
    SendsLanes (.vclamp t1 t0) t1 t0 (fun _ f g l r p => ⟨(lanePick false f (lanePick true f l r).1 p).1,
      (lanePick true f l r).2 ||| (lanePick false f (lanePick true f l r).1 p).2, g⟩) ∧
    SendsLanes (.vabs pd t1 t0) t1 t0 (fun _ f g l _ _ => ⟨(laneAbs f l).1, (laneAbs f l).2, g⟩) ∧
    SendsLanes (.vneg pd t1 t0) t1 t0 (fun _ f g l _ _ => ⟨(laneNeg f l).1, (laneNeg f l).2, g⟩) ∧
    SendsLanes (.vrcp pd t1 t0) t1 t0 (fun _ f g l _ _ => f.op1 .rn g rcpNum (f.decode l)) ∧
    SendsLanes (.vrsq pd t1 t0) t1 t0 (fun _ f g l _ _ => f.op1 .rn g rsqNum (f.decode l)) ∧
    SendsLanes (.vexp2 pd t1 t0) t1 t0 (fun _ f g l _ _ => f.op1 .rn g exp2Num (f.decode l)) ∧
    SendsLanes (.vlog2 pd t1 t0) t1 t0 (fun _ f g l _ _ => f.op1 .rn g log2Num (f.decode l)) ∧
    SendsLanes (.vscale pd t1 t0) t1 t0 (fun s f g l _ _ =>
      if portR 8 s = 0xFF then ⟨f.nanCode, 0, g⟩
      else f.op1 .rn g (fun x => (x.scale ((portR 8 s).toNat - 127), 0)) (f.decode l))) ∧
  (∀ (f : Fmt) (o : Nat → Word → Rounded) (g : Word),
    (∀ i, i < laneCount f → laneOf f (runLanes f o g).1 i = (o i (laneGen o g i)).code % 2 ^ f.bits) ∧
    (runLanes f o g).2.1 = (List.range (laneCount f)).foldl (fun a i => a ||| (o i (laneGen o g i)).flags) 0 ∧
    (runLanes f o g).2.2 = laneGen o g (laneCount f)) ∧
  (∀ (n : Nat) (sgn : Bool) (v : Int), 0 < n →
    laneInt (.int n sgn) (saturateTo (.int n sgn) v) = max (intRange n sgn).1 (min (intRange n sgn).2 v)) ∧
  (∀ (n : Nat) (sgn g : Bool) (l r : Nat), let p := (lanePick g (.int n sgn) l r).1
    (p = l ∨ p = r) ∧ laneInt (.int n sgn) p =
      if g then max (laneInt (.int n sgn) l) (laneInt (.int n sgn) r) else min (laneInt (.int n sgn) l) (laneInt (.int n sgn) r)) ∧
  ∀ l, l < 256 →
    (∀ (p : Nat) (ext : Bool), (laneAbs (.b8 p true ext) l).1 = (if l = 0x80 then l else l % 128) ∧
      (laneNeg (.b8 p true ext) l).1 = (if l = 0 ∨ l = 0x80 then l else (l + 128) % 256) ∧ (laneAbs (.b8 p false ext) l).1 = l ∧
      laneNeg (.b8 p false ext) l = (if l = 0xFF then 0xFF else 0, if l = 0 ∨ l = 0xFF then 0 else flagIV)) ∧
    laneInt (.int 8 true) (laneAbs (.int 8 true) l).1 = min 127 ((laneInt (.int 8 true) l).natAbs : Int) ∧
    laneInt (.int 8 true) (laneNeg (.int 8 true) l).1 = min 127 (-laneInt (.int 8 true) l) ∧
    (laneAbs (.int 8 false) l).1 = l ∧ (laneNeg (.int 8 false) l).1 = 0

/-- R347 to R352, for every VFMT and both values of BS. -/
def Obligations.VectorMasksReductionsConversions : Prop :=
  (∀ (pd : Pd) (cc : LaneCond) (t1 t0 : Target),
    Sends (.vcmp pd cc t1 t0) (fun s => (List.range (laneCount (s.vfmt s.sch.cur))).foldl (fun a i => a ||| (compareLanes cc s i).2) 0)
      (fun s => toBoth t0 t1 (val (ofBits (n := 64) fun i =>
        decide (i < laneCount (s.vfmt s.sch.cur)) && (compareLanes cc s i).1))) ∧
    Sends (.vsel t1 t0) noFlags (fun s => toBoth t0 t1 (Val.of (vectorLen (s.vfmt s.sch.cur))
      (lanesFrom (s.vfmt s.sch.cur) fun i => if (portP 64 s).getLsbD i then laneL s i else laneR s i))) ∧
    Sends (.vbcast pd t1 t0) noFlags (fun s => toBoth t0 t1 (Val.of (vectorLen (s.vfmt s.sch.cur))
      (lanesFrom (s.vfmt s.sch.cur) fun _ => (portL (s.vfmt s.sch.cur).bits s).toNat))) ∧
    SendsAfter (.vredSum pd t1 t0) (fun s => s.setRng s.sch.cur (sumOf s).rng) (fun s => (sumOf s).flags)
      (fun s => toBoth t0 t1 (Val.of 4 (sumOf s).code)) ∧
    SendsAfter (.vredMin pd t1 t0) (fun s => s.setRng s.sch.cur (pickOf false s).rng) (fun s => (pickOf false s).flags)
      (fun s => toBoth t0 t1 (Val.of 4 (pickOf false s).code)) ∧
    SendsAfter (.vredMax pd t1 t0) (fun s => s.setRng s.sch.cur (pickOf true s).rng) (fun s => (pickOf true s).flags)
      (fun s => toBoth t0 t1 (Val.of 4 (pickOf true s).code)) ∧
    Sends (.vcvt pd t1 t0) (convertFlags) (fun s => toBoth t0 t1 (convertValue s)) ∧
    SendsAfter (.vquant pd t1 t0) (fun s => s.setRng s.sch.cur (quantRun s).2.2) (fun s => (quantRun s).2.1)
      (fun s => toBoth t0 t1 (quantValue s))) ∧
  (∀ (n : Nat) (sgn : Bool) (g : Word) (c : Nat) (l : List Nat), ∀ greater : Bool,
    let q := reducePick greater (.int n sgn) g (c :: l)
    ∃ d ∈ c :: l, q.code = (BitVec.ofInt 32 (laneInt (.int n sgn) d)).toNat ∧ q.flags = 0 ∧ q.rng = g ∧
      ∀ e ∈ c :: l, if greater then laneInt (.int n sgn) e ≤ laneInt (.int n sgn) d else laneInt (.int n sgn) d ≤ laneInt (.int n sgn) e) ∧
  (∀ (f : Fmt) (g : Word) (c : Nat) (l : List Nat) (greater : Bool), f.isInt = false →
    (reducePick greater f g (c :: l)).rng = g ∧
    ((reducePick greater f g (c :: l)).code, (reducePick greater f g (c :: l)).flags) =
      l.foldl (fun q d => ((f.pick greater false q.1 d).1, q.2 ||| (f.pick greater false q.1 d).2)) (c, 0)) ∧
  ∀ (f : Fmt) (l : List Machine.Num),
    (l.any Machine.Num.isNan = true → blockScale f l = 0xFF) ∧
    (l.any Machine.Num.isNan = false → (∀ x ∈ l, x.isZero = true ∨ ∃ a, x = .inf a) → blockScale f l = 127) ∧
    (l.any Machine.Num.isNan = false → blockScale f l ≤ 254)
/-! ## Tiles, the tile engine, the matrix unit (R353 to R374) -/

/-- R353 to R356, on the tile-table entry of the firing's cell, with the space tokens of R226. -/
def Obligations.TileEntries : Prop :=
  (∀ (pd : Pd) (goal : TileState) (tile : BitVec 5) (t0 : Target) (s : State), s.sch.cur.passes pd = true →
    let f := s.sch.cur
    let c := s.cell f.cell
    let j := tile.toNat
    let t := c.tile j
    let v := portL 128 s
    let e : Tile := { defined := true, tdef := true, bank := v.extractLsb' 124 2, fmt := v.extractLsb' 118 6, bs := v.getLsbD 117,
                      base := v.extractLsb' 106 11, rows := v.extractLsb' 96 10, cols := v.extractLsb' 84 12, stride := v.extractLsb' 72 12 }
    let good := v.extractLsb' 126 2 = 0 ∧ v.extractLsb' 0 72 = 0 ∧ fmtBits e.fmt.toNat ≠ 0 ∧ c.tileValid e = true
    let set : TileState → State := fun n => s.updCell f.cell fun c => c.updTile j fun t =>
      if n = .filling then { t with st := n, opened := true, otag := f.acc.tag, rowsIn := 0 }
      else { t with st := n, opened := decide (n = .draining) }
    let zero : State → State := fun u => u.sendAll f f.acc.tag false [(t0, Val.of 4 0)]
    let goals := s.destsOf f.region f.x f.y j
    let m := (c.bank t.bank.toNat).mode
    let moves := goal = .filling ∨ goal = .draining
    let barred := m = .cache ∨ m = .fifo ∨ (m = .compute ∧ moves)
    let held := c.engineHolds j = true ∨ (moves ∧ c.tileBusy j = true)
    let waits := t.st = .filling ∨ (t.st = .draining ∧ (goal ≠ .empty ∨ t.opened = false)) ∨ (t.st = .empty ∧ goal = .draining) ∨
      (t.st = .ready ∧ goal = .filling)
    (t.st ≠ .empty → exec (.tdef pd tile t0) s = .next (s.putBack f)) ∧
    (t.st = .empty → ¬ good → exec (.tdef pd tile t0) s = .next (shapeTrap s 0xC0)) ∧
    (t.st = .empty → good → c.ownsTile e f.region = false → exec (.tdef pd tile t0) s = .next (shapeTrap s 0xC2)) ∧
    (s.canSend f [(t0, Val.of 4 0)] = true →
      (t.st = .empty → good → c.ownsTile e f.region = true →
        exec (.tdef pd tile t0) s = .next (zero (s.updCell f.cell fun c => c.updTile j fun _ => e))) ∧
      exec (.tstate pd tile t0) s = .next (s.sendAll f f.acc.tag false [(t0, val (BitVec.ofNat 32
        ((match t.st with | .empty => 0 | .filling => 1 | .ready => 2 | .draining => 3) + 65536 * t.rowsIn.toNat)))]) ∧
      (c.ownsTile t f.region = true → ¬ barred → ¬ held →
        (t.st = .empty → goal ≠ .draining → exec (.tset pd goal tile t0) s = .next (zero (set goal))) ∧
        (t.st = .ready → goal = .ready ∨ goal = .draining → exec (.tset pd goal tile t0) s = .next (zero (set goal))) ∧
        (t.st = .ready → goal = .empty → exec (.tset pd goal tile t0) s = .next (zero ((set .empty).sendSpaces f none goals))) ∧
        (t.st = .draining → goal = .empty → t.opened = true → exec (.tset pd goal tile t0) s = .next (zero (set .empty)))) ∧
      (c.ownsTile t f.region = true → c.engineHolds j = false → t.st = .ready →
        (goals = [] →
          exec (.permit pd tile t0) s = .next (zero (s.updCell f.cell fun c => c.updTile j fun t => { t with st := .empty }))) ∧
        (goals ≠ [] → exec (.permit pd tile t0) s = .next (((s.reserve f [t0] 4).updCell f.cell fun c =>
          c.updTile j fun t => { t with st := .empty }).sendSpaces f (some (f, [t0])) goals)))) ∧
    (c.ownsTile t f.region = true →
      (barred → exec (.tset pd goal tile t0) s = .next (shapeTrap s 0x40)) ∧
      (¬ barred → held ∨ waits → exec (.tset pd goal tile t0) s = .next (s.putBack f)) ∧
      (t.st ≠ .ready ∨ c.engineHolds j = true → exec (.permit pd tile t0) s = .next (s.putBack f))) ∧
    (c.ownsTile t f.region = false → exec (.tset pd goal tile t0) s = .next (shapeTrap s 0xC2) ∧
      exec (.permit pd tile t0) s = .next (shapeTrap s 0xC2))) ∧
  ∀ (s : State) (f : Firing) (reply : Option (Firing × List Target)) (l : List (Nat × Nat)), ∃ ts : List Space,
    s.sendSpaces f reply l = { s with spaces := s.spaces ++ ts, sch := { s.sch with nextId := s.sch.nextId + l.length } } ∧
    ts.map (fun q => (q.port, q.buffer)) = l ∧ ts.map (fun q => q.reply) = (l.drop 1).map (fun _ => none) ++ (l.take 1).map (fun _ => reply) ∧
    ∀ q ∈ ts, q.region = f.region ∧ q.tag = f.acc.tag

/-- R357 to R360, R364, R365: operations that start in the tile engine; and BMODE (R201, R202, R360). -/
def Obligations.TileEngineStarts : Prop :=
  (∀ (pd : Pd) (td ta tb : BitVec 5) (ct : Completion) (bank : BitVec 2) (m : BankMode) (intlv : Bool) (t0 : Target) (s : State),
    s.sch.cur.passes pd = true →
    let f := s.sch.cur
    let c := s.cell f.cell
    let d := c.tile td.toNat
    let a := c.tile ta.toNat
    let b := c.tile tb.toNat
    let v := portL 64 s
    let start : List Target → EngineOp → State := fun l op =>
      (s.reserve f l 4).updCell f.cell fun c => { c with engine := some op }
    let pool : EngineKind → EngineOp := fun k =>
      { kind := k, td := td.toNat, ta := ta.toNat, tb := tb.toNat, l := v.toNat, targets := ctTargets ct, firing := f }
    let kk := v.extractLsb' 8 8
    let transposes := d.nrows = a.ncols ∧ d.ncols = a.nrows ∧ d.fmt = a.fmt ∧ d.bs = false ∧ a.bs = false ∧ (td = ta → a.nrows = a.ncols)
    let pools := td ≠ ta ∧ td ≠ tb ∧ fmtBits a.fmt.toNat ≠ 0 ∧ a.fmt ≠ 8 ∧ b.fmt = 4 ∧ b.nrows = a.nrows ∧ b.ncols = (a.ncols + 7) / 8 ∧
      d.fmt = 0 ∧ d.bs = false ∧ d.nrows = a.nrows ∧ d.ncols = 2 * a.ncols
    let poolArg := v.extractLsb' 16 48 = 0 ∧ v.extractLsb' 4 4 = 0 ∧ 1 ≤ kk.toNat ∧ kk.toNat ≤ 49
    let loads := v.extractLsb' 0 16 = 0 ∧ v.extractLsb' 22 42 = 0 ∧ (v.extractLsb' 16 6).toNat < d.nrows
    let suits := c.computeTile d = true ∧ c.sourceTile a c.fmt.bfmt = true ∧ a.nrows ≤ 32
    (c.engine.isSome = true ∨ (c.ownsTile d f.region = true ∧ c.tileReady td.toNat = false) →
      exec (.vtrans pd td ta ct) s = .next (s.putBack f) ∧ exec (.vpoolmax pd td ta tb ct) s = .next (s.putBack f) ∧
      exec (.vpoolavg pd td ta tb ct) s = .next (s.putBack f) ∧ exec (.bload pd td ta ct) s = .next (s.putBack f) ∧
      exec (.binv pd td t0) s = .next (s.putBack f)) ∧
    (c.engine = none → c.tileReady td.toNat = true →
      (c.tileReady ta.toNat = true →
        (¬ transposes → exec (.vtrans pd td ta ct) s = .next (shapeTrap s 0xC1)) ∧
        (¬ loads → exec (.bload pd td ta ct) s = .next (trapWith s 0x3FF5 v.toNat)) ∧
        (loads → ¬ suits → exec (.bload pd td ta ct) s = .next (shapeTrap s 0xC3)) ∧
        (loads → suits → c.ownsTile d f.region = false ∨ c.ownsTile a f.region = false →
          exec (.bload pd td ta ct) s = .next (shapeTrap s 0xC2)) ∧
        (s.canSend f (later (ctTargets ct) 4) = true →
          (transposes → exec (.vtrans pd td ta ct) s = .next (start (ctTargets ct)
            { kind := .trans, td := td.toNat, ta := ta.toNat, targets := ctTargets ct, firing := f })) ∧
          (loads → suits → c.ownsTile d f.region = true →
            c.ownsTile a f.region = true → exec (.bload pd td ta ct) s = .next (start (ctTargets ct)
              { kind := .bload, td := td.toNat, ta := ta.toNat, l := (v.extractLsb' 16 6).toNat, targets := ctTargets ct, firing := f }))) ∧
        (c.tileReady tb.toNat = true →
          (¬ poolArg → exec (.vpoolmax pd td ta tb ct) s = .next (trapWith s 0x3FF4 v.toNat) ∧
            exec (.vpoolavg pd td ta tb ct) s = .next (trapWith s 0x3FF4 v.toNat)) ∧
          (poolArg → ¬ pools → exec (.vpoolmax pd td ta tb ct) s = .next (shapeTrap s 0xC1) ∧
            exec (.vpoolavg pd td ta tb ct) s = .next (shapeTrap s 0xC1)) ∧
          (poolArg → pools → s.canSend f (later (ctTargets ct) 4) = true →
            exec (.vpoolmax pd td ta tb ct) s = .next (start (ctTargets ct) (pool .poolMax)) ∧
            exec (.vpoolavg pd td ta tb ct) s = .next (start (ctTargets ct) (pool .poolAvg))))) ∧
      (c.tileReady ta.toNat = false ∨ c.tileReady tb.toNat = false →
        exec (.vpoolmax pd td ta tb ct) s = .next (s.putBack f) ∧ exec (.vpoolavg pd td ta tb ct) s = .next (s.putBack f)) ∧
      (c.tileReady ta.toNat = false → exec (.vtrans pd td ta ct) s = .next (s.putBack f) ∧
        (c.ownsTile a f.region = true → exec (.bload pd td ta ct) s = .next (s.putBack f))) ∧
      (c.computeTile d = false → exec (.binv pd td t0) s = .next (shapeTrap s 0xC3)) ∧
      (c.computeTile d = true → c.ownsTile d f.region = false → exec (.binv pd td t0) s = .next (shapeTrap s 0xC2)) ∧
      (c.computeTile d = true → c.ownsTile d f.region = true → s.canSend f (later [t0] 4) = true →
        exec (.binv pd td t0) s = .next (start [t0] { kind := .binv, td := td.toNat, targets := [t0], firing := f }))) ∧
    let w := portL 32 s
    let k := bank.toNat
    let other := if k % 2 = 0 then k + 1 else k - 1
    let owns : Nat → Prop := fun n => (c.bank n).claimed = true ∧ (c.bank n).region = f.region
    let goal := s.regionAt f.die (w.extractLsb' 7 7).toNat (w.extractLsb' 1 6).toNat
    let gives := ∃ r, goal = some r ∧ r.ctx = tagCtx f.acc.tag ∧ r.contains f.x f.y = true
    let arc := c.windows.any fun q => q.2.ins.any fun a => a.2.fifo = some k
    let good := owns k ∧ (intlv = true → owns other ∧ m = .scratchpad) ∧ w.extractLsb' 14 18 = 0 ∧ (w.getLsbD 0 = true → gives) ∧
      (arc = true → m = .fifo)
    let banks := if intlv || (c.bank k).intlv then [k, other] else [k]
    let begun := c.modeOps.any fun o => o.stamp = f.acc.stamp && o.win = f.acc.win && o.slot = f.acc.slot
    (¬ good → exec (.bmode pd bank m intlv t0) s = .next (trapWith s 0x3FF3 w.toNat)) ∧
    (good → (∃ n ∈ banks, c.bankBusy n = true) → exec (.bmode pd bank m intlv t0) s = .next (s.putBack f)) ∧
    (good → (∀ n ∈ banks, c.bankBusy n = false) →
      ((∃ n ∈ banks, c.bankQuiet n = false) →
        exec (.bmode pd bank m intlv t0) s = .next (if begun then s.putBack f else s.beginMode f banks)) ∧
      ((∀ n ∈ banks, c.bankQuiet n = true) → s.canSend f [(t0, val w)] = true →
        exec (.bmode pd bank m intlv t0) s = .next ((s.changeMap f k m intlv (if w.getLsbD 0 then goal.map Region.id else none)).sendAll f
          f.acc.tag false [(t0, val w)])))) ∧
  (∀ (s : State) (f : Firing) (k : Nat) (m : BankMode) (intlv : Bool) (goal : Option Nat),
    let c := s.cell f.cell
    let d := c.remap k m intlv goal
    let gone := (List.range 32).filter fun j => (c.tile j).st = .ready && (d.tile j).st = .empty
    ∃ ts : List Space,
      s.changeMap f k m intlv goal = { s with
        cells := upd {} f.cell (fun _ => { d with modeOps := d.modeOps.filter fun o =>
          !(o.stamp = f.acc.stamp && o.win = f.acc.win && o.slot = f.acc.slot) }) s.cells
        spaces := s.spaces ++ ts, sch := { s.sch with nextId := s.sch.nextId + ts.length } } ∧
      ts.map (fun q => (q.port, q.buffer)) = gone.flatMap fun j => s.destsOf f.region f.x f.y j) ∧
  ∀ (c : Cell) (k : Nat) (m : BankMode) (g : Nat), k < 4 → tableWf {} c.banks = true →
    let other := if k % 2 = 0 then k + 1 else k - 1
    (∀ goal : Option Nat,
      (((c.remap k m true goal).bank k).mode = m ∧ ((c.remap k m true goal).bank other).mode = m ∧
        ((c.remap k m true goal).bank k).intlv = true ∧ ((c.remap k m true goal).bank other).intlv = true) ∧
      ((c.remap k m false goal).bank k).mode = m ∧ ((c.remap k m false goal).bank k).intlv = false ∧
      ((c.bank k).intlv = true → ((c.remap k m false goal).bank other).intlv = false)) ∧
    (∀ intlv, ((c.remap k m intlv (some g)).bank k).region = g ∧
      ∀ q ∈ (c.remap k m intlv (some g)).tiles, c.tileInBank q.2 k = true → q.2.st = .empty) ∧
    ((c.bank k).mode = .scratchpad → m ≠ .scratchpad → (c.bank k).intlv = false →
      ∀ q ∈ (c.remap k m false none).tiles, c.tileInBank q.2 k = true → q.2.st ≠ .ready)

/-- R366, R369, R371 to R373, with no sequence in progress, and the wait behind one of the same or a more urgent note. -/
def Obligations.MatrixInstructions : Prop :=
  ∀ (pd : Pd) (ta tb : BitVec 5) (ct : Completion) (t1 t0 : Target) (s : State), s.sch.cur.passes pd = true →
    let f := s.sch.cur
    let c := s.cell f.cell
    let a := c.tile ta.toNat
    let b := c.tile tb.toNat
    let v := portL 64 s
    let row := (v.extractLsb' 0 6).toNat
    let nt := (v.extractLsb' 8 5).toNat + 1
    let slot := (v.extractLsb' 16 6).toNat
    let starts := v.extractLsb' 6 2 = 0 ∧ v.extractLsb' 13 3 = 0 ∧ v.extractLsb' 22 42 = 0 ∧ row + 1 ≤ a.nrows ∧ slot < b.nrows
    let seq : Bool → MatSeq := fun z => { zero := z, ta := ta.toNat, tb := tb.toNat, mt := row + 1, nt := nt, bidx := slot,
                                          targets := ctTargets ct, firing := f }
    let rect := v.extractLsb' 6 2 = 0 ∧ v.extractLsb' 13 3 = 0 ∧ v.extractLsb' 17 47 = 0
    let w := (s.vfmt f).bits
    (∀ q l, c.seqs = q :: l → (s.noteOf q.firing).code ≤ (s.noteOf f).code →
      exec (.mma pd ta tb ct) s = .next (s.putBack f) ∧ exec (.mmaz pd ta tb ct) s = .next (s.putBack f) ∧
      exec (.mzero pd t1 t0) s = .next (s.putBack f) ∧ exec (.mstat pd t1 t0) s = .next (s.putBack f) ∧
      exec (.mrd pd t1 t0) s = .next (s.putBack f) ∧ exec (.mrda pd t1 t0) s = .next (s.putBack f)) ∧
    (c.seqs = [] →
      (c.tileReady ta.toNat = true → c.tileReady tb.toNat = true →
        (¬ starts → exec (.mma pd ta tb ct) s = .next (trapWith s 0x3FF5 v.toNat) ∧
          exec (.mmaz pd ta tb ct) s = .next (trapWith s 0x3FF5 v.toNat)) ∧
        (starts → c.sourceTile a c.fmt.afmt = true → c.computeTile b = true → c.ownsTile a f.region = true → c.ownsTile b f.region = true →
          s.canSend f (later (ctTargets ct) 4) = true →
          exec (.mma pd ta tb ct) s = .next ((s.reserve f (ctTargets ct) 4).updCell f.cell fun c =>
            { c with seqs := seq false :: c.seqs }) ∧
          exec (.mmaz pd ta tb ct) s = .next ((s.reserve f (ctTargets ct) 4).updCell f.cell fun c =>
            { c with seqs := seq true :: c.seqs }))) ∧
      (¬ (rect ∧ v.getLsbD 16 = false) → exec (.mzero pd t1 t0) s = .next (trapWith s 0x3FF5 v.toNat) ∧
        exec (.mstat pd t1 t0) s = .next (trapWith s 0x3FF5 v.toNat)) ∧
      (¬ rect → exec (.mrd pd t1 t0) s = .next (trapWith s 0x3FF5 v.toNat) ∧
        exec (.mrda pd t1 t0) s = .next (trapWith s 0x3FF5 v.toNat)) ∧
      (rect → v.getLsbD 16 = false → s.canSend f (toBoth t0 t1 (Val.of 8 0)) = true →
        exec (.mzero pd t1 t0) s = .next ((s.updCell f.cell fun c => { c with
          acc := c.acc.filter fun q => !(decide (q.1 / 32 ≤ row) && decide (q.1 % 32 < nt)) }).sendAll f f.acc.tag false
            (toBoth t0 t1 (val v))) ∧
        exec (.mstat pd t1 t0) s = .next (s.sendAll f f.acc.tag false (toBoth t0 t1 (Val.of 8 (c.accStatus (row + 1) nt))))) ∧
      (rect → s.canSend f (toBoth t0 t1 (Val.of (4 * ((nt * w + 31) / 32)) 0)) = true → ∀ alt : Bool,
        let r := if alt then (portR 8 s).toNat else 127
        let q := s.readRow f row nt r
        exec (if alt then .mrda pd t1 t0 else .mrd pd t1 t0) s = .next ((((s.setRng f q.2.2).updCell f.cell fun c =>
          if v.getLsbD 16 then c.clearAcc row 1 nt else c).raise f q.2.1).sendAll f f.acc.tag false
            (toBoth t0 t1 (Val.of (4 * ((nt * w + 31) / 32)) q.1)))))

/-- R357, R359, R367, R369 (the two steps), R272 and R273 (the accumulator). -/
def Obligations.RowStepsAndAccumulator : Prop :=
  (∀ s : State,
    let g := s.sch.args
    let k := cellKey g.die g.x g.y
    let zero : List Target → List (Target × Val) := fun l => l.map fun t => (t, Val.of 4 0)
    ((s.cell k).engine = none → exec .tileEngineDone s = .next s) ∧
    (∀ e, (s.cell k).engine = some e →
      let c : Cell := { s.cell k with engine := none }
      let done : Cell × Flags := match e.kind with
        | .trans => (c.transpose e.td e.ta, 0)
        | .poolMax => c.pool true e.td e.ta e.tb e.l
        | .poolAvg => c.pool false e.td e.ta e.tb e.l
        | .bload => (c.bload e.td e.ta e.l, 0)
        | .binv => (c.binv e.td, 0)
      let u : State := s.updCell k fun _ => done.1
      let ended := (s.region e.firing.region).admission e.firing.x e.firing.y e.firing.acc.tag = .drop
      exec .tileEngineDone s = .next ((if ended then u else u.raise e.firing done.2).land e.firing e.firing.acc.tag .none (zero e.targets))) ∧
    ((s.cell k).seqs = [] → exec .matrixRowStep s = .next s) ∧
    ∀ q l, (s.cell k).seqs = q :: l →
      (q.row + 1 < q.mt → exec .matrixRowStep s = .next (s.updCell k fun c =>
        { c.rowStep q with seqs := { q with row := q.row + 1 } :: l })) ∧
      (q.mt ≤ q.row + 1 → exec .matrixRowStep s = .next ((s.updCell k fun c =>
        { c.rowStep q with seqs := l }).land q.firing q.firing.acc.tag .none (zero q.targets)))) ∧
  (∀ (isMax : Bool) (l : Nat) (v : Machine.Num) (x n : Nat), l.testBit 2 = false → l.testBit 1 = false →
    (l.testBit 0 = false → poolElem isMax l false v x n = (x, n, (fp32.give .rn v 0).flags)) ∧
    (l.testBit 0 = true → poolElem isMax l false v x n = (if isMax then 0xFF800000 else 0, 0, (fp32.give .rn v 0).flags))) ∧
  (∀ a b : AccEntry, accAdd a b = accAdd b a ∧
    (a.isNan = true → accAdd a b = { s := 0, e := -512 }) ∧
    (a.isNan = false → b.isNan = false → a.e = b.e → a.s.toInt + b.s.toInt = 0 → accAdd a b = {}) ∧
    (a.isNan = false → b.isNan = false → a.e = b.e → a.s.toInt + b.s.toInt ≠ 0 → -2 ^ 55 ≤ a.s.toInt + b.s.toInt →
      a.s.toInt + b.s.toInt < 2 ^ 55 → accAdd a b = { s := a.s + b.s, e := a.e })) ∧
  ∀ (a : AccEntry) (r : Nat),
    (r = 0xFF ∨ (a.s = 0 ∧ a.e = -512) → a.read r = .nan false) ∧
    (r ≠ 0xFF → a.s ≠ 0 → a.read r = .fin a.s.msb a.s.toInt.natAbs (a.e.toInt + r - 127)) ∧
    (r ≠ 0xFF → a.s = 0 → a.e ≠ -512 → a.read r = .fin false 0 0)
/-! ## Rendering and rays (R403 to R414) -/

/-- R403 to R406. -/
def Obligations.TriangleSetupAndCoverage : Prop :=
  (∀ (pd : Pd) (t1 t0 : Target),
    (∀ s : State, s.sch.cur.passes pd = true →
      let x := fun i : Nat => snap (fp32.decode ((portL 192 s).extractLsb' (64 * i) 32).toNat)
      let y := fun i : Nat => snap (fp32.decode ((portL 192 s).extractLsb' (64 * i + 32) 32).toNat)
      ((portR 32 s).extractLsb' 2 30 ≠ 0 → exec (.rsetup pd t1 t0) s = .next (trapWith s 0x3FFB (portR 32 s).toNat)) ∧
      ((portR 32 s).extractLsb' 2 30 = 0 → s.canSend s.sch.cur (toBoth t0 t1 (Val.of 64 0)) = true →
        exec (.rsetup pd t1 t0) s = .next (s.sendAll s.sch.cur s.sch.cur.acc.tag false (toBoth t0 t1 (Val.of 64
          (setupOf ((portR 32 s).getLsbD 0) ((portR 32 s).getLsbD 1) [x 0, x 1, x 2] [y 0, y 1, y 2]).value))))) ∧
    Sends (.rstep pd t1 t0) noFlags (fun s =>
      toBoth t0 t1 (Val.of 4 (coverage (Setup.read (portL 512 s).toNat) (portR 32 s).toNat))) ∧
    Sends (.rbary pd t1 t0) noFlags (fun s => toBoth t0 t1 (Val.of 8
      (baryOf (Setup.read (portL 512 s).toNat) (portR 32 s) 1 + baryOf (Setup.read (portL 512 s).toNat) (portR 32 s) 2 * 2 ^ 32)))) ∧
  (∀ (a b : Bool) (xs ys : Fin 3 → Int),
    let u := setupOf a b [some (xs 0), some (xs 1), some (xs 2)] [some (ys 0), some (ys 1), some (ys 2)]
    (u = {} ∨ 0 < u.area) ∧
    (0 < u.area → ∃ e0 e1 e2, u.edges = [e0, e1, e2] ∧
      edgeAt e0 (xs 0) (ys 0) = u.area ∧ edgeAt e0 (xs 1) (ys 1) = 0 ∧ edgeAt e0 (xs 2) (ys 2) = 0 ∧
      edgeAt e1 (xs 1) (ys 1) = u.area ∧ edgeAt e1 (xs 2) (ys 2) = 0 ∧ edgeAt e1 (xs 0) (ys 0) = 0 ∧
      edgeAt e2 (xs 2) (ys 2) = u.area ∧ edgeAt e2 (xs 0) (ys 0) = 0 ∧ edgeAt e2 (xs 1) (ys 1) = 0 ∧
      ∀ x y, edgeAt e0 x y + edgeAt e1 x y + edgeAt e2 x y = u.area) ∧
    (setupOf false false [some (xs 0), some (xs 2), some (xs 1)] [some (ys 0), some (ys 2), some (ys 1)]).area =
      (setupOf false false [some (xs 0), some (xs 1), some (xs 2)] [some (ys 0), some (ys 1), some (ys 2)]).area) ∧
  (∀ (p q c : Int) (x y : Int), (p ≠ 0 ∨ q ≠ 0) →
    (insideEdge (p, q, c) x y = true ↔ insideEdge (-p, -q, -c) x y = false)) ∧
  (∀ (u : Setup) (v i : Nat), u.area = 0 → (coverage u v).testBit i = false) ∧
  ∀ (n : Bool) (culln cullp : Bool) (ys : List (Option Int)) (x1 x2 : Option Int),
    snap (.nan n) = none ∧ snap (.inf n) = none ∧ setupOf culln cullp [none, x1, x2] ys = {}

/-- R407 to R409. An infinite TMAX bounds nothing: the model's reading, log 21. -/
def Obligations.RaySteps : Prop :=
  (∀ (pd : Pd) (t1 t0 : Target) (s : State), s.sch.cur.passes pd = true →
    let f := s.sch.cur
    let ray := portL 512 s
    let sent : Flags → Val → State := fun fl v => (s.raise f fl).sendAll f f.acc.tag false (toBoth t0 t1 v)
    (s.canSend f (toBoth t0 t1 (Val.of 64 0)) = true →
      (∃ (fl : Flags) (v : BitVec 512), exec (.rayxf pd t1 t0) s = .next (sent fl (val v)) ∧
        v.extractLsb' 192 320 = ray.extractLsb' 192 320 ∧
        ∀ i : Nat, i < 3 →
          (v.extractLsb' (32 * i) 32).toNat = (dot32 [(entryOf s i 0, rayNum s 0), (entryOf s i 1, rayNum s 1), (entryOf s i 2, rayNum s 2),
            (entryOf s i 3, fp32.decode 0x3F800000)]).1 ∧
          (v.extractLsb' (96 + 32 * i) 32).toNat =
            (dot32 [(entryOf s i 0, rayNum s 3), (entryOf s i 1, rayNum s 4), (entryOf s i 2, rayNum s 5)]).1) ∧
      exec (.raytri pd t1 t0) s = .next (sent 0 (Val.of 64 (rayTri ray.toNat (portR 320 s).toNat)))) ∧
    (s.canSend f (toBoth t0 t1 (Val.of 8 0)) = true → ∃ v : BitVec 64, exec (.raybox pd t1 t0) s = .next (sent 0 (val v)) ∧
      v.extractLsb' 33 31 = 0 ∧ (v.getLsbD 32 = false → v = 0x7F800000) ∧
      ((∃ i, i < 8 ∧ (rayNum s i).isNan = true) ∨ (∃ i, i < 6 ∧ (boxNum s i).isNan = true) ∨
        (∃ i, i < 3 ∧ (boxNum s (i + 3)).lt (boxNum s i) = true) → v = 0x7F800000))) ∧
  (∀ (v tri : Nat), v < 2 ^ 512 →
    let w := rayTri v tri
    w % 2 ^ 224 = v % 2 ^ 224 ∧ w / 2 ^ 352 = v / 2 ^ 352 ∧
    ((∃ i, i < 7 ∧ (num32 v (4 * i)).isFin = false) ∨ (∃ i, i < 9 ∧ (num32 tri (4 * i)).isFin = false) ∨ (num32 v 28).isNan = true → w = v) ∧
    (w = v ∨ (num32 w 28).lt (num32 v 28) = true ∨ ((num32 w 28).eqv (num32 v 28) = true ∧ word32 w 32 < word32 v 32))) ∧
  ∀ (l : List (Machine.Num × Machine.Num)), (∃ p ∈ l, p.1.isNan = true ∨ p.2.isNan = true) → (dot32 l).1 = 0x7FC00000

/-- R411 to R414. -/
def Obligations.SequenceStampsAndBlend : Prop :=
  ∀ (pd : Pd) (t1 t0 : Target) (s : State), s.sch.cur.passes pd = true →
    let f := s.sch.cur
    let c := s.cell f.cell
    let v := portL 64 s
    let i := (v.extractLsb' 0 19).toNat
    let quad := (v.extractLsb' 36 4).toNat
    let seq := (v.extractLsb' 40 24).toNat
    let loc := (portR 32 s).toNat
    let end_ := ((portR 1088 s).extractLsb' 1024 32).toNat
    (c.seqAt loc ((portL 32 s).extractLsb' 0 19).toNat = none → exec (.seqget pd t1 t0) s = .next (trapWith s 0x3FFB loc)) ∧
    (∀ j a, c.seqAt loc ((portL 32 s).extractLsb' 0 19).toNat = some (j, a) →
      (c.tileReady j = false → exec (.seqget pd t1 t0) s = .next (s.putBack f)) ∧
      (c.tileReady j = true → s.canSend f (toBoth t0 t1 (Val.of 4 0)) = true →
        let n := c.bankRead (c.tile j).bank.toNat a 4 % 2 ^ 24
        exec (.seqget pd t1 t0) s = .next ((s.updCell f.cell fun c =>
          c.bankWrite (c.tile j).bank.toNat a (toBytes 3 ((n + 1) % 2 ^ 24))).sendAll f f.acc.tag false (toBoth t0 t1 (Val.of 4 n))))) ∧
    (c.bufferAt loc i = none → exec (.seqwait pd t1 t0) s = .next (trapWith s 0x3FFB loc)) ∧
    (∀ j a, c.bufferAt loc i = some (j, a) →
      (c.tileReady j = true → c.quadCounter (c.tile j).bank.toNat a quad = seq →
        s.canSend f (toBoth t0 t1 (val v)) = true →
        exec (.seqwait pd t1 t0) s = .next (s.sendAll f f.acc.tag false (toBoth t0 t1 (val v)))) ∧
      (c.tileReady j = false ∨ c.quadCounter (c.tile j).bank.toNat a quad ≠ seq → exec (.seqwait pd t1 t0) s = .next (s.putBack f))) ∧
    (c.bufferAt end_ i = none → exec (.blend pd t1 t0) s = .next (trapWith s 0x3FFB end_)) ∧
    (∀ j a, c.bufferAt end_ i = some (j, a) → c.tileReady j = true →
      let bank := (c.tile j).bank.toNat
      (c.quadCounter bank a quad ≠ seq → exec (.blend pd t1 t0) s = .next (trapWith s 0x3FFC v.toNat)) ∧
      (c.quadCounter bank a quad = seq → s.canSend f (toBoth t0 t1 (Val.of 8 0)) = true →
        (∃ (d : Cell) (fl : Flags) (w : BitVec 64), exec (.blend pd t1 t0) s = .next (((s.updCell f.cell fun _ => d).raise f fl).sendAll f
            f.acc.tag false (toBoth t0 t1 (val w))) ∧ w.extractLsb' 0 19 = v.extractLsb' 0 19 ∧ w.extractLsb' 19 13 = 0 ∧
          w.extractLsb' 34 30 = 0 ∧ d = { c with bytes := d.bytes }) ∧
        (v.extractLsb' 20 16 = 0 →
          let next := (seq + 1) % 2 ^ 24
          let done := c.bankWrite bank (a + 2048 + 4 * quad) (toBytes 3 next)
          let credit := (List.range 16).all fun k => decide ((done.quadCounter bank a k + 2 ^ 24 - next) % 2 ^ 24 < 2 ^ 23)
          exec (.blend pd t1 t0) s = .next ((s.updCell f.cell fun _ => done).sendAll f f.acc.tag false (toBoth t0 t1 (Val.of 8
            (i + (if credit then 2 ^ 32 else 0) + (if credit && v.getLsbD 19 then 2 ^ 33 else 0)))))))) ∧
    ∀ l k, (l / 32 % 8 ≠ 0 ∨ l / 65536 % 65536 ≠ 0 ∨ 8 < l / 256 % 256) → c.seqAt l k = none ∧ c.bufferAt l k = none

/-- R410. -/
def Obligations.RayMigration : Prop :=
  ∀ (pd : Pd) (s : State), s.sch.cur.passes pd = true →
    let f := s.sch.cur
    let c := s.cell f.cell
    let r := s.region f.region
    let d := portR 32 s
    let p := (d.extractLsb' 0 12).toNat
    let j := (d.extractLsb' 12 5).toNat
    let t := c.tile j
    let e : BitVec 32 := BitVec.ofNat 32 (c.bankRead t.bank.toNat (t.rowAddr (p / t.ncols) + 4 * (p % t.ncols)) 4)
    let x := (e.extractLsb' 21 7).toNat
    let y := (e.extractLsb' 15 6).toNat
    let rwin := (e.extractLsb' 12 3).toNat
    let slot := (e.extractLsb' 6 6).toNat
    let die := (e.extractLsb' 28 4).toNat
    let trapped := exec (.migr pd) s = .next (trapWith s 0x3FFA d.toNat)
    let outside := d.extractLsb' 22 10 ≠ 0 ∨ fmtBits t.fmt.toNat ≠ 32 ∨ t.nrows * t.ncols ≤ p
    (c.tileReady j = false → exec (.migr pd) s = .next (s.putBack f)) ∧
    (c.tileReady j = true →
      (outside → trapped) ∧
      (¬ outside →
        (portOf (e.extractLsb' 4 2).toNat = none ∨ e.extractLsb' 0 4 ≠ 0 ∨ 8 ≤ die → trapped) ∧
        ∀ port, portOf (e.extractLsb' 4 2).toNat = some port → e.extractLsb' 0 4 = 0 → die < 8 →
          (die = f.die → r.contains x y = true →
            (r.image.wpc ≤ rwin ∨ s.slotTakes f.region (cellKey f.die x y) rwin slot port = false → trapped) ∧
            (rwin < r.image.wpc → s.slotTakes f.region (cellKey f.die x y) rwin slot port = true →
              (∀ pool q, s.takeEntry (cellKey f.die x y) f.region = some (pool, q) →
                exec (.migr pd) s = .next (q.sendSlot f x y rwin slot port f.acc.tag pool (val (portL 512 s)))) ∧
              (s.takeEntry (cellKey f.die x y) f.region = none → exec (.migr pd) s = .next (s.putBack f)))) ∧
          (¬ (die = f.die ∧ r.contains x y = true) →
            (r.binding? (d.extractLsb' 17 5).toNat = none → trapped) ∧
            ∀ b, r.binding? (d.extractLsb' 17 5).toNat = some b →
              (b.mode ≠ .element → trapped) ∧
              (b.mode = .element → exec (.migr pd) s = .next (s.migrStream f b e.toNat (val (portL 512 s)))))))
/-! ## Frames: what an instruction leaves unchanged -/

/-- R190, R191, R199, R262: the frame of the instructions that send their results at once. -/
def Obligations.ResultFrame : Prop :=
  ∀ (i : Instr) (s t : State) (l : List Target), tableWf {} s.cells = true → targetsOf s i = some l →
    (∀ port adv slot, Target.slot port adv slot ∈ l → (s.region s.sch.cur.region).admission s.sch.cur.x s.sch.cur.y
      (if adv then nextTag s.sch.cur.acc.tag else s.sch.cur.acc.tag) = .accept) →
    exec i s = .next t →
    let f := s.sch.cur
    let win := (s.cell f.cell).window f.acc.win
    t = { s with cells := t.cells, toks := t.toks, ports := t.ports, sch := t.sch, acts := t.acts, eps := t.eps,
                 mem := t.mem, lineOwner := t.lineOwner, caches := t.caches, hostMem := t.hostMem } ∧
    (tableWf {} (s.cell f.cell).windows = true → tableWf {} win.outs = true →
      (∀ n k w a, .arc n ∈ l → s.consumer f.region (look {} win.outs n.toNat) = some (k, w, a) →
        (s.inArc k w a).extended = false ∧ (s.inArc k w a).spill = []) →
      t.mem = s.mem ∧ t.lineOwner = s.lineOwner ∧ t.caches = s.caches ∧ t.hostMem = s.hostMem) ∧
    ((∀ n, .arc n ∈ l → s.actFrom f.region f.x f.y win.rwin n.toNat = none) → t.acts = s.acts ∧ t.eps = s.eps) ∧
    t.sch.cur = s.sch.cur ∧ t.sch.args = s.sch.args ∧ t.sch.agenda = s.sch.agenda ∧
    (∀ k, sameStores (s.cell k) (t.cell k)) ∧
    (∀ k, k ≠ f.cell → t.cell k = { s.cell k with windows := (t.cell k).windows }) ∧
    ∀ (region frm h : Nat), (region = f.region → frm = f.frm → h ≠ 31 ∧ ∀ b : BitVec 5, .hold b ∈ l → h ≠ b.toNat) →
      (t.cell f.cell).holdOf region frm h = (s.cell f.cell).holdOf region frm h

/-- R76, R377, R384, R412: stores, at the addresses that the meanings compute, and what they leave unchanged. -/
def Obligations.StoresAndTheirFrames : Prop :=
  (∀ (i : Instr) (s t : State) (q : BitVec 5 × BitVec 5), tableWf {} s.cells = true → accessOf i = some q → exec i s = .next t →
    t.mem = s.mem ∧ t.lineOwner = s.lineOwner ∧ t.caches = s.caches ∧ t.hostMem = s.hostMem ∧ t.hub = s.hub ∧ t.regions = s.regions ∧
    t.dies = s.dies ∧
    ∀ k, (t.cell k).banks = (s.cell k).banks ∧ (t.cell k).bytes = (s.cell k).bytes ∧ (t.cell k).tiles = (s.cell k).tiles ∧
      (t.cell k).acc = (s.cell k).acc) ∧
  (∀ (c : Cell) (bank a x : Nat) (bs : List Byte), tableWf 0 c.bytes = true → bank < 4 → a + bs.length ≤ 65536 → x < 65536 →
    let d := c.bankWrite bank a bs
    d = { c with bytes := d.bytes } ∧
    (x < a ∨ a + bs.length ≤ x → d.bankByte bank x = c.bankByte bank x) ∧
    (∀ j, j < bs.length → d.bankByte bank (a + j) = bs.getD j 0)) ∧
  (∀ (pd : Pd) (td : BitVec 5) (op : AmotOp) (s t : State), tableWf {} s.cells = true → s.sch.cur.passes pd = true →
    exec (.amot pd td op .none) s = .next t →
    let f := s.sch.cur
    let tile := (s.cell f.cell).tile td.toNat
    let at_ := tile.rowAddr ((portL 64 s).extractLsb' 12 10).toNat + 4 * ((portL 64 s).extractLsb' 0 12).toNat
    t.mem = s.mem ∧ t.hostMem = s.hostMem ∧ t.hub = s.hub ∧ t.regions = s.regions ∧
    (∀ k, k ≠ f.cell → t.cell k = s.cell k) ∧ (t.cell f.cell).banks = (s.cell f.cell).banks ∧
    ∃ bs : List Byte, bs.length ≤ 8 ∧ (t.cell f.cell).bytes = ((s.cell f.cell).bankWrite tile.bank.toNat at_ bs).bytes) ∧
  (∀ (pd : Pd) (s t : State), tableWf {} s.cells = true → s.sch.cur.passes pd = true →
    exec (.seqget pd .discard .discard) s = .next t →
    let f := s.sch.cur
    let c := s.cell f.cell
    t.mem = s.mem ∧ t.hostMem = s.hostMem ∧ (∀ k, k ≠ f.cell → t.cell k = s.cell k) ∧
    ((t.cell f.cell).bytes = c.bytes ∨ ∃ j a, c.seqAt (portR 32 s).toNat ((portL 32 s).extractLsb' 0 19).toNat = some (j, a) ∧
      (t.cell f.cell).bytes = (c.bankWrite (c.tile j).bank.toNat a
        (toBytes 3 ((c.bankRead (c.tile j).bank.toNat a 4 % 2 ^ 24 + 1) % 2 ^ 24))).bytes)) ∧
  ∀ s : State, tableWf none s.lineOwner = true →
    let a := s.hub.aper.target s.sch.args.offset
    let n := min 8 s.sch.args.size
    (2 ^ s.hub.bar4 ≤ s.sch.args.offset → exec .apertureWrite s = .next s ∧ exec .apertureRead s = .next s) ∧
    (s.sch.args.offset < 2 ^ s.hub.bar4 → ∃ t : State, exec .apertureWrite s = .next t ∧
      (∀ x, x < a ∨ a + n ≤ x → t.aperByte x = s.aperByte x) ∧
      (∀ j, j < n → s.populated (a + j) = true → s.reached (a + j) = true →
        t.aperByte (a + j) = s.sch.args.value.extractLsb' (8 * j) 8) ∧
      t.hostMem = s.hostMem ∧ t.regions = s.regions ∧ t.cells = s.cells ∧ t.hub = s.hub ∧
      let got := BitVec.ofNat 64 (ofBytes ((List.range n).map fun j => s.aperByte (a + j)))
      exec .apertureRead s = .next { s with hub := { s.hub with hostRead := got } })
/-! ## Power, thermal limits, resets (R10 to R20) -/

/-- R10, R12, R13, R15, R16, R19, R20. -/
def Obligations.PowerAndResets : Prop :=
  (∀ (avail : Nat) (ds : List (Nat × Option Nat)), ((budgets avail ds).map Prod.snd).sum ≤ avail ∧
    (150 * ds.length ≤ avail → ∀ q ∈ budgets avail ds, 150 ≤ q.2)) ∧
  ∀ s : State, tableWf {} s.dies = true →
    let a := s.sch.args
    let d := a.die
    let next := if s.hub.kind = .moduleReset ∧ s.hub.phase = 0 then 2 else s.hub.phase.toNat + 1
    let resets : State → Prop := fun t => t.hub.phase = 0 ∧ t.hub.ready = false ∧ t.regions = [] ∧ t.cells = [] ∧ t.toks = [] ∧
      t.accesses = [] ∧ t.flash = s.flash ∧ t.hub.cap = 4200
    let served := s.hub.kind = .moduleReset ∨ s.hub.phase ≠ 0
    (served → exec .hubPwrCapWrite s = .next { s with hub := { s.hub with
      cap := BitVec.ofNat 13 (min 4200 (max 1500 (a.value.extractLsb' 0 13).toNat)) } }) ∧
    (¬ served → exec .hubPwrCapWrite s = .next s ∧ exec .emergencyHoldSet s = .next s ∧ exec .emergencyHoldRelease s = .next s) ∧
    (∃ t, exec .governorInterval s = .next t ∧ (s.hub.waiting = [] → t.hub.intervals = s.hub.intervals + 1 ∧
      t.hub.rails = Config.rails s.hub.intervals ∧ t.regions = s.regions ∧ t.mem = s.mem ∧ ∀ k, k < 8 →
        (s.live k = false → (t.die k).pwr.budget = 0) ∧
        (s.live k = true → (t.die k).demand = some (Config.meter s.hub.intervals k) ∧
          (s.hub.hold = true → (t.die k).pwr.step = 7 ∧ (t.die k).pwr.throttle = true)))) ∧
    (d < 8 → exec .stepTransitionEnd s = .next (s.updDie d fun q => { q with transition := false })) ∧
    (served →
      (s.hub.hold = false → exec .emergencyHoldSet s = .next (({ s with hub := { s.hub with hold := true } } : State).event 0x0008 8 1)) ∧
      (s.hub.hold = true → exec .emergencyHoldRelease s = .next (({ s with hub := { s.hub with hold := false } } : State).event 0x0008 8 0))) ∧
    (d < 8 → s.live d = true →
      (800 ≤ a.temp → a.temp < 880 → (s.die d).band ≠ 1 → exec .thermalBandEntered s = .next (s.updDie d fun q =>
        { q with pwr := { q.pwr with temp := BitVec.ofNat 11 a.temp }, band := 1 })) ∧
      (a.temp < 920 → ∃ t, exec .thermalBandEntered s = .next t ∧ (t.die d).pwr.temp = BitVec.ofNat 11 a.temp) ∧
      (880 ≤ a.temp → a.temp < 920 → (s.die d).band ≠ 2 → ∃ t, exec .thermalBandEntered s = .next t ∧ (t.die d).band = 2 ∧
        t.hub.sideband = s.hub.sideband ++ [(d, a.temp)] ∧ ((s.die d).moved = false → (t.die d).pwr.step = 7 ∧ (t.die d).pwr.throttle = true)) ∧
      (920 ≤ a.temp → ∃ t, exec .thermalTrip s = .next t ∧ ((∀ r ∈ s.regions, r.die ≠ d) → (t.die d).pwr.tripped = true ∧
        t.dieUp d = false ∧ (∀ c ∈ t.cells, c.1 / 3200 ≠ d) ∧ ∀ c ∈ t.caches, holderDie c.holder ≠ d))) ∧
    (a.flag = true → ∃ t, exec .coldReset s = .next t ∧ resets t ∧ t.mem = [] ∧ t.hub.keys = []) ∧
    (∃ t, exec .moduleReset s = .next t ∧ resets t ∧ t.hub.keys = s.hub.keys ∧ t.hub.hold = s.hub.hold) ∧
    (s.hub.ready = false → s.hub.halted = false → s.hub.phase.toNat < 7 →
      ∃ t, exec .bringupPhase s = .next t ∧ t.hub.phase = BitVec.ofNat 4 next ∧
        (next = 7 → s.flash.hostLink = true → t.hub.ready = true) ∧ (next = 2 → s.hub.kind = .cold → t.hub.puf = s.flash.puf) ∧
        (next = 3 → s.flash.firmwareOk = false → t.hub.halted = true ∧ t.hub.err = 2)) ∧
    (d < 8 → s.hub.ready = true → s.dieUp d = false → 720 ≤ (s.die d).pwr.temp.toNat →
      exec .dieReset s = .next { s with hub := { s.hub with dieBusy := s.hub.dieBusy ||| (1#8 <<< d) } }) ∧
    (d < 8 → s.hub.dieBusy.getLsbD d = true → a.temp < 720 → s.flash.enabled.getLsbD d = true → s.flash.dieFail.getLsbD d = false →
      s.flash.network = true → ∃ t, exec .dieResetRelease s = .next t ∧ t.dieUp d = true ∧ t.hub.dieBusy.getLsbD d = false ∧
        (t.die d).pwr.tripped = false ∧ (t.die d).pwr.temp = BitVec.ofNat 11 a.temp)
/-! ## Routed network, release engine (R29 to R34, R53 to R55, R66 to R71, R134) -/

/-- R29, R31 to R34, R53 to R55. -/
def Obligations.SwitchesAndLinks : Prop :=
  (∀ s : State,
    let a := s.sch.args
    let i := s.swIn a.sw a.inp
    (a.flag = false → i.paused = none → ∀ (p : Pkt) (rest : List Pkt), i.data = p :: rest →
      let u := s.updSwIn a.sw a.inp fun i => { i with data := rest }
      (p.hcrc ≠ p.crc → exec .switchPacketArrival s = .next (u.discardAtSwitch a.sw true)) ∧
      (p.hcrc = p.crc → p.malformed = true → exec .switchPacketArrival s = .next (u.discardAtSwitch a.sw false)) ∧
      ∀ out, p.hcrc = p.crc → p.malformed = false → s.route a.sw p = some out →
        let o := s.swOut a.sw out
        let n := Note.ofCode p.cls
        let fits := queueFlits (o.queue n) + (1 + (p.len + 31) / 32) ≤ o.threshold n
        (fits → exec .switchPacketArrival s = .next (u.updSwOut a.sw out fun o => o.setQueue n (o.queue n ++ [(p, p.flits)]))) ∧
        (¬ fits → (o.store a.inp).length < 4 → exec .switchPacketArrival s = .next ((u.updSwOut a.sw out fun o => o.countTrim n).updSwOut
          a.sw out fun o => { o with stores := upd [] a.inp (· ++ [p.trimmed]) o.stores })) ∧
        (¬ fits → ∃ t, exec .switchPacketArrival s = .next t ∧ (4 ≤ (o.store a.inp).length → tableWf {} s.outs = true →
          t = (u.updSwOut a.sw out fun o => o.countTrim n).updSwIn a.sw a.inp fun i => { i with paused := some (out, p.trimmed) }))) ∧
    (∀ p, i.paused = some (a.out, p) → ((s.swOut a.sw a.out).store a.inp).length < 4 →
      exec .headerStoreEntry s = .next ((s.updSwIn a.sw a.inp fun i => { i with paused := none }).updSwOut a.sw a.out fun o =>
        { o with stores := upd [] a.inp (· ++ [p]) o.stores })) ∧
    (4 ≤ ((s.swOut a.sw a.out).store a.inp).length → exec .headerStoreEntry s = .next s) ∧
    (i.pausedFor a.out = none → ((s.swOut a.sw a.out).store a.inp).length < 4 →
      (i.sil.find? (fun p => s.headerFor a.sw p a.out) = none → exec .headerStoreEntry s = .next s) ∧
      ∀ p, i.sil.find? (fun p => s.headerFor a.sw p a.out) = some p → p.hcrc = p.crc → p.malformed = false → s.route a.sw p = some a.out →
        exec .headerStoreEntry s = .next ((s.updSwIn a.sw a.inp fun i => i.takeHeader p).updSwOut a.sw a.out fun o =>
          { o with stores := upd [] a.inp (· ++ [p]) o.stores })) ∧
    (∀ j p, s.silNext a.sw a.out = some (j, p) → exec .flitDepart s = .next ((s.passHop a.sw a.out p).updSwOut a.sw a.out fun o =>
      { o with stores := upd [] j List.tail o.stores, rr := j, lastSil := true })) ∧
    (∀ n, s.silNext a.sw a.out = none → s.dataNote a.sw a.out = some n → exec .flitDepart s = .next (s.dataFlit a.sw a.out n)) ∧
    (s.silNext a.sw a.out = none → s.dataNote a.sw a.out = none →
      exec .flitDepart s = .next (s.updSwOut a.sw a.out fun o => { o with lastSil := false })) ∧
    (∀ l, hopOf a.sw a.out = .link l → exec .flitReplay s = .next { s with
      links := upd {} l (fun q => { q with replays := satInc q.replays }) s.links }) ∧
    (∀ sw inp p, p.sillage = true → let q := s.swIn sw inp
      s.intoSwitch sw inp p = s.updSwIn sw inp fun i => if q.sil.length < 8 ∧ q.wait = [] then { i with sil := q.sil ++ [p] }
        else { i with wait := q.wait ++ [p] }) ∧
    (a.link < 18 → a.link < s.flash.linkPorts → s.defect 6 255 a.link 0 = false → (a.link ≠ 17 ∨ s.rel.ptpSrc = true) →
      s.linkUp a.link = false → tableWf {} s.links = true →
      ∃ t, exec .linkTrained s = .next t ∧ (look {} t.links a.link).peer = a.value.extractLsb' 0 8 ∧
        (s.expectedPeer a.link = some ((a.value.extractLsb' 4 4).toNat, (a.value.extractLsb' 0 4).toNat) → t.linkUp a.link = true) ∧
        (s.expectedPeer a.link ≠ some ((a.value.extractLsb' 4 4).toNat, (a.value.extractLsb' 0 4).toNat) →
          (look {} t.links a.link).st = .miswire))) ∧
  ∀ p : Pkt, p.trimmed.trim = true ∧ p.trimmed.tcnt = min 15 (p.tcnt + 1) ∧ p.trimmed.payload = [] ∧ p.trimmed.len = p.len ∧
    p.trimmed.hcrc = p.trimmed.crc ∧ p.trimmed.seq = p.seq ∧ p.trimmed.dst = p.dst

/-- R66 to R71, R134. -/
def Obligations.ReleaseEngine : Prop :=
  ∀ s : State,
    let a := s.sch.args
    let r := s.rel
    let k := r.instant
    let off : Int := (a.value.toNat : Int) - r.now
    let bound := if a.seq = 0 then a.size else min a.size (if r.ptpSrc then 200 else 50)
    let mine := a.ctx = r.domain.toNat ∧ (a.link = 17 ↔ r.ptpSrc = false)
    let on : Release := { r with en := true, running := true, done := 0, miss := 0, lastMiss := 0, instant := r.firstAfter r.now, phase := 16 }
    let slewed : Release := { r with
      lock := .locked, everLocked := true, heard := s.hub.cycles, ebound := BitVec.ofNat 14 (min bound 0x3FFF), slew := off }
    (¬ mine → exec .ptpMessage s = .next s) ∧
    (mine → a.flag = false → r.lock = .free →
      exec .ptpMessage s = .next { s with rel := { r with heard := s.hub.cycles, lock := .acquiring } }) ∧
    (mine → a.flag = true → r.everLocked = true ∨ off.natAbs ≤ 1000000 → exec .ptpMessage s = .next { s with rel := slewed }) ∧
    (mine → a.flag = true → r.everLocked = false → 1000000 < off.natAbs → ∃ t, exec .ptpMessage s = .next t ∧ t.rel.lock = .locked ∧
      t.rel.everLocked = true ∧ t.rel.slew = 0 ∧ (a.value.toNat < 2 ^ 48 * 1000000000 → t.rel.now = a.value.toNat)) ∧
    (r.lock = .locked ∨ r.lock = .acquiring → 6000000000 ≤ (s.hub.cycles - r.heard).toNat →
      ∃ t, exec .holdoverEnter s = .next t ∧ t.rel = { r with lock := .holdover, slew := 0 } ∧ t.regions = s.regions ∧ t.cells = s.cells) ∧
    (r.en = false → exec .relEnable s = .next { s with rel := on }) ∧
    (r.en = true → exec .relEnable s = .next s) ∧
    (r.running = true → r.t0sec.toNat * 1000000000 + r.t0ns.toNat + k * r.period.toNat / 2 ^ 32 ≤ r.now →
      ∃ t : Release, exec .releaseInstant s = .next (({ s with rel := t }).sendRel (.deadline (k + 1))) ∧ t.instant = k + 1 ∧
        t.phase = 1 ∧ t.done = r.done ∧
        (r.done.toNat < k → t.miss = r.miss + 1 ∧ t.lastMiss = BitVec.ofNat 64 k) ∧
        (k ≤ r.done.toNat → t.miss = r.miss ∧ t.lastMiss = r.lastMiss)) ∧
    (r.running = true → r.phase ≤ 15 → r.phaseAt k r.phase ≤ r.now →
      exec .phaseToken s = .next (({ s with rel := { r with phase := r.phase + 1 } }).sendRel (.phase k r.phase))) ∧
    (∀ t : RelToken, (s.sendRel t).rel = r ∧ (tableWf {} s.eps = true → (s.ep (8192 + 0x044)).sends = [] →
      (s.ep (8192 + 0x044)).wants = [] → ((s.sendRel t).ep (8192 + 0x044)).wants = ((List.range 8).filter s.dieUp).map fun d =>
        { dst := s.epAddr (1024 * d + 0x070), cls := .top, ord := true, ctx := r.ctx.toNat, owner := .release,
          feed := .tokens [t.item] false })) ∧
    (∀ d f p, tableWf [] r.tokens = true → ofBytes p.payload = f →
      look [] (s.deliverRel d p).rel.tokens d = look [] r.tokens d ++ [if p.tag = 0 then .deadline f else .phase f p.tag]) ∧
    (∀ f l, look [] r.tokens a.die = .deadline f :: l → exec .deadlineTokenReceive s = .next ((s.dropRel a.die).updDie a.die fun q =>
      { q with phases := put 0 (f - 1) 16 (put 0 f 0 q.phases) })) ∧
    (∀ f n l, look [] r.tokens a.die = .phase f n :: l → exec .phaseTokenReceive s = .next ((s.dropRel a.die).updDie a.die fun q =>
      { q with phases := put 0 f n q.phases })) ∧
    (∀ j l, r.reports = j :: l → r.reached = true → exec .frameCompletionReport s = .next s) ∧
    (∀ j l, r.reports = j :: l → r.reached = false → ∃ t, exec .frameCompletionReport s = .next t ∧ t.rel.reports = l ∧
      t.rel.done = (if r.done.toNat < j then BitVec.ofNat 64 j else r.done) ∧ t = { s with rel := t.rel })
/-! ## Streams (R35 to R48) -/

/-- R29, R35, R36, R38, R40, at endpoint `sch.args.ep`. -/
def Obligations.StreamSource : Prop :=
  ∀ s : State,
    let a := s.sch.args
    let k := a.ep
    let e := s.ep k
    let taken : Pkt → State := fun p => s.updEp k fun e => { e with inbox := dropFirst (fun r => r = p) e.inbox }
    (∀ i w, freeIndex (e.sends.map fun t => t.index) = some i →
      (sortBy (fun (a b : SendStream) => decide (a.cls.code ≤ b.cls.code)) e.wants).head? = some w →
      ∃ (t : SendStream) (path : Option (Option Nat)),
        let opened : Endpoint → Endpoint := fun e => { e with
          wants := dropFirst (fun q => q = w) e.wants, sends := e.sends ++ [t], nextStream := (t.stream + 1) % 65536 }
        path = s.choosePath w.dst t.stream ∧
        (path = none → exec .streamOpen s = .next ((s.updEp k opened).losePath k t)) ∧
        (path ≠ none → exec .streamOpen s = .next ((s.updEp k opened).sendOpen k t)) ∧
        t = { w with index := i, stream := t.stream, st := .opening, rto := e.rto, via := path.getD none } ∧
        (∀ id, w.feed = .act id → t.stream = w.stream) ∧ ((∀ id, w.feed ≠ .act id) → t.stream < 65536) ∧
        w ∈ e.wants ∧ ∀ v ∈ e.wants, w.cls.code ≤ v.cls.code) ∧
    (∀ p, e.inbox.find? (fun p => p.kind = 6 && p.addr = 3) = some p →
      let u := taken p
      (p.hcrc ≠ p.crc → exec .refuseReceive s = .next (u.discardAtEp k true)) ∧
      (p.hcrc = p.crc → p.malformed = false → exec .refuseReceive s = .next (u.updSend k p.stream fun t =>
        if t.st = .opening then { t with st := .refused, since := s.epCycle k } else t))) ∧
    (∀ t, e.send? a.stream = some t →
      (t.st = .refused → t.since + e.gap.toNat ≤ s.epCycle k →
        exec .openRetry s = .next ((s.updSend k a.stream fun t => { t with st := .opening }).sendOpen k t)) ∧
      (t.st ≠ .open ∨ t.sentLast = true ∨ t.limit ≤ t.next → exec .packetSend s = .next s) ∧
      (∀ q rest final, t.st = .open → t.sentLast = false → t.next < t.limit → t.feed = .tokens (q :: rest) final →
        exec .packetSend s = .next ((s.chainTurn k t).sendData k t (tokenPkt q (final && rest.isEmpty)) (.tokens rest final))) ∧
      (∀ id q tag v rest, t.st = .open → t.sentLast = false → t.next < t.limit → t.feed = .act id →
        (s.chainTurn k t).acts.find? (fun q => q.id = id) = some q → q.queue = (tag, v) :: rest →
        exec .packetSend s = .next (((((s.chainTurn k t).updAct id fun q => { q with queue := rest }).actSent q v.len)).sendData k t
          (tokenPkt (tag.toNat, 0, v) false) t.feed)) ∧
      (∀ src dst left, t.st = .open → t.sentLast = false → t.next < t.limit → t.feed = .copy src dst left →
        exec .packetSend s = .next ((s.chainTurn k t).sendChunk k t (some src) dst left 0 0)) ∧
      (∀ q l, t.resend = q :: l → exec .retransmit s = .next ((s.updSend k a.stream fun t => { t with resend := t.resend.tail }).resendPkt
        k a.stream q.1 q.2)) ∧
      ∀ q, t.kept.find? (fun q => q.1.seq = a.seq) = some q →
        (q.2 + 2 ^ t.rto.toNat ≤ s.epCycle k → exec .retransmissionTimeout s = .next (s.resendPkt k a.stream a.seq 0)) ∧
        (s.epCycle k < q.2 + 2 ^ t.rto.toNat → exec .retransmissionTimeout s = .next s)) ∧
    (∀ p, e.inbox.find? (fun p => p.kind = 1) = some p → p.hcrc = p.crc → p.malformed = false →
      (((taken p).ep k).send? p.stream = none → exec .grantReceive s = .next (taken p)) ∧
      ∀ t, ((taken p).ep k).send? p.stream = some t → (t.dst = p.from → (taken p).moveGoal k t p.from = taken p) ∧
      ∃ g : SendStream → SendStream, exec .grantReceive s = .next (((taken p).moveGoal k t p.from).updSend k p.stream g) ∧
        ∀ t, t.limit ≤ (g t).limit ∧ (g t).limit = max t.limit (absSeq t.limit p.seq) ∧ (t.st = .opening → (g t).st = .open) ∧
          (g t).kept = t.kept ∧ (g t).next = t.next) ∧
    (∀ p, e.inbox.find? (fun p => p.kind = 2) = some p → p.hcrc = p.crc → p.malformed = false →
      ∃ g : SendStream → SendStream, exec .rreqReceive s = .next ((taken p).updSend k p.stream g) ∧
        ∀ t, (g t).trims = satInc t.trims ∧ (g t).next = t.next ∧ (g t).limit = t.limit ∧
          ((∃ q ∈ t.kept, q.1.seq = p.seq) → (g t).resend = t.resend ++ [(p.seq, p.tcnt)] ∧ (g t).dups = t.dups) ∧
          ((∀ q ∈ t.kept, q.1.seq ≠ p.seq) → (g t).resend = t.resend ∧ (g t).dups = satInc t.dups)) ∧
    (∀ p, e.inbox.find? (fun p => p.kind = 3) = some p → p.hcrc = p.crc → p.malformed = false →
      ∃ g : SendStream → SendStream, exec .ackReceive s = .next ((taken p).updSend k p.stream g) ∧
        ∀ t, (∀ q ∈ (g t).kept, q ∈ t.kept ∧ absSeq t.next p.seq ≤ absSeq t.next q.1.seq) ∧ (g t).next = t.next ∧
          ∀ q ∈ t.kept, absSeq t.next q.1.seq = absSeq t.next p.seq ∨ absSeq t.next p.seq + 32 < absSeq t.next q.1.seq → q ∈ (g t).kept) ∧
    ∀ p, e.inbox.find? (fun p => p.kind = 6 && p.addr = 2) = some p → p.hcrc = p.crc → p.malformed = false →
      let u := taken p
      (∀ t, (u.ep k).send? p.stream = some t → exec .closedReceive s = .next ((u.dropSend k p.stream).streamEnded t
        (t.st = .closing && p.tcnt = 0 && !p.last))) ∧
      ((u.ep k).send? p.stream = none → exec .closedReceive s = .next u)

/-- R35 to R37, R39 to R42, R47, R55, R56. -/
def Obligations.StreamReceiver : Prop :=
  (∀ s : State,
    let a := s.sch.args
    let k := a.ep
    let e := s.ep k
    let taken : Pkt → State := fun p => s.updEp k fun e => { e with inbox := dropFirst (fun r => r = p) e.inbox }
    (∀ p, e.inbox.find? (fun p => p.kind = 6 && p.addr = 0) = some p → p.hcrc = p.crc → p.malformed = false →
      (∀ r, ((taken p).ep k).recv? p.from p.stream = some r → exec .openReceive s = .next ((taken p).sendGrant k p.from p.stream)) ∧
      (((taken p).ep k).recv? p.from p.stream = none →
        (freeIndex (((taken p).ep k).recvs.map fun t => t.index) = none → exec .openReceive s = .next ((taken p).sendPkt k p.from
          { kind := 6, addr := 3, cls := p.cls, ord := p.ord, ctx := p.ctx, stream := p.stream })) ∧
        ∀ i, freeIndex (((taken p).ep k).recvs.map fun t => t.index) = some i → ∃ r : RecvStream, r.index = i ∧ r.src = p.from ∧
          r.stream = p.stream ∧ r.win = ((taken p).ep k).win.toNat ∧ r.kmax = ((taken p).ep k).kmax ∧ r.ord = p.ord ∧ r.ctx = p.ctx ∧ r.cum = 0 ∧
          exec .openReceive s = .next (((taken p).updEp k fun e => { e with recvs := e.recvs ++ [r] }).sendGrant k p.from p.stream))) ∧
    (∀ p, e.inbox.find? (fun p => (p.dataKind && !p.trim) || p.unknown) = some p → p.hcrc = p.crc →
      (p.unknown = true → exec .dataPacketReceive s = .next ((taken p).discardAtEp k false)) ∧
      (p.malformed = false → ((taken p).ep k).recv? p.from p.stream = none →
        exec .dataPacketReceive s = .next ((taken p).discardAtEp k false))) ∧
    (∀ p r, e.inbox.find? (fun p => (p.dataKind && !p.trim) || p.unknown) = some p → p.hcrc = p.crc → p.malformed = false →
      ((taken p).ep k).recv? p.from p.stream = some r → p.ord = r.ord → absSeq r.cum p.seq < r.limit → (taken p).badAddr k p = false →
      (r.has (absSeq r.cum p.seq) = true → p.retx = false →
        exec .dataPacketReceive s = .next ((taken p).updRecv k p.from p.stream fun r => { r with dups := satInc r.dups })) ∧
      (r.has (absSeq r.cum p.seq) = false → ∃ g : RecvStream → RecvStream,
        exec .dataPacketReceive s = .next (((taken p).updRecv k p.from p.stream g).ackIfDue k p.from p.stream) ∧
        ∀ r, (g r).held = r.held ++ [p] ∧ (g r).cum = r.cum ∧ (g r).limit = r.limit ∧ (g r).unacked = true)) ∧
    (∀ p r, e.inbox.find? (fun p => p.dataKind && p.trim) = some p → p.hcrc = p.crc → p.malformed = false →
      ((taken p).ep k).recv? p.from p.stream = some r → p.ord = r.ord → absSeq r.cum p.seq < r.limit → (taken p).badAddr k p = false →
      r.has (absSeq r.cum p.seq) = false → (∀ h ∈ r.holes, h.starved = false) →
      ∃ (g : RecvStream → RecvStream) (h : Hole), exec .trimmedHeaderReceive s = .next (
          if r.kmax.toNat ≤ p.tcnt then ((taken p).updRecv k p.from p.stream g).linkStarve k r p
          else (taken p).updRecv k p.from p.stream g) ∧
        h.seq = absSeq r.cum p.seq ∧ h.tcnt = p.tcnt ∧ h.sent = false ∧ h.starved = decide (r.kmax.toNat ≤ p.tcnt) ∧
        ∀ q : RecvStream, (g q).trims = satInc q.trims ∧ (g q).held = q.held ∧
          (r.kmax.toNat ≤ p.tcnt → (g q).st = .starved) ∧ (g q).holes = (q.holes.filter fun q => q.seq ≠ h.seq) ++ [h]) ∧
    (∀ r h, e.recv? a.src a.stream = some r → r.nextRreq = some h → (r.holes.filter fun q => q.sent).length < 8 →
      (∀ q ∈ e.recvs, q.src = r.src → ∀ g, q.pendingRreq = some g → h.born ≤ g.born) → h.born + 1 ≤ s.epCycle k → (look 0 e.paced r.src = 0 ∨
        look 0 e.paced r.src - 1 + e.gap.toNat * 2 ^ (h.tcnt - 1) ≤ s.epCycle k) →
      exec .rreqSend s = .next (((s.updRecv k a.src a.stream fun r => { r with
        holes := changeFirst (fun q => q.seq = h.seq) (fun q => { q with sent := true }) r.holes }).updEp k fun e =>
          { e with paced := put 0 a.src (s.epCycle k + 1) e.paced }).sendPkt k a.src
            { kind := 2, cls := r.cls.code, ord := r.ord, ctx := r.ctx, stream := a.stream, seq := h.seq % 2 ^ 24, tcnt := h.tcnt })) ∧
    (∀ r, e.recv? a.src a.stream = some r →
      (r.deliverable = none → exec .packetDeliver s = .next s) ∧
      (∀ p, r.deliverable = some p → s.deliver k p = none → exec .packetDeliver s = .next s) ∧
      (∀ p u, r.deliverable = some p → s.deliver k p = some u → ∃ t, exec .packetDeliver s = .next t) ∧
      (r.unacked = true → r.since + 256 ≤ s.epCycle k → exec .ackTimer s = .next (s.sendAck k a.src a.stream)) ∧
      (s.epCycle k < r.since + 256 → exec .ackTimer s = .next s)) ∧
    (∀ p, e.inbox.find? (fun p => p.kind = 6 && p.addr = 1) = some p → p.hcrc = p.crc → p.malformed = false →
      (((taken p).ep k).recv? p.from p.stream = none → exec .closeReceive s = .next ((taken p).discardAtEp k false)) ∧
      ∀ r, ((taken p).ep k).recv? p.from p.stream = some r →
        (p.ord ≠ r.ord → exec .closeReceive s = .next ((taken p).discardAtEp k false)) ∧
        (p.ord = r.ord → exec .closeReceive s = .next (((taken p).updRecv k p.from p.stream fun r =>
          { r with closeAsked := true }).closeIfDone k p.from p.stream))) ∧
    (∃ st0 st1 st2 st3 : BitVec 32,
      let latched : Endpoint → Endpoint := fun e => { e with
        sel := a.value.setWidth 32 &&& 0x800001FF, stat0 := st0, stat1 := st1, stat2 := st2, stat3 := st3 }
      exec .streamSelect s = .next (s.updEp k latched) ∧
      (∀ r, a.value.getLsbD 31 = false → e.recvs.find? (fun t => t.index = (a.value.extractLsb' 0 9).toNat) = some r →
        st0.extractLsb' 0 16 = BitVec.ofNat 16 r.stream ∧ st1 = r.trims ++ r.retx ∧ st3 = BitVec.ofNat 32 r.dups.toNat)) ∧
    (∀ r, e.sel.getLsbD 31 = false → e.recvs.find? (fun t => t.index = (e.sel.extractLsb' 0 9).toNat && t.st = .starved) = some r →
      exec .streamResume s = .next (s.updRecv k r.src r.stream fun r => { r with st := .open, holes := r.holes.map fun h =>
        if h.starved then { h with starved := false, sent := false, tcnt := 0 } else h }) ∧
      exec .streamAbort s = .next (s.abortRecv k r)) ∧
    (a.flag = true → ∃ t, exec .linkDown s = .next t ∧ t.links = s.links ∧ t.farDown = farPairs a.list) ∧
    (a.flag = false → a.link < 18 → (look {} s.links a.link).st ≠ .down → tableWf {} s.links = true →
      ∃ t, exec .linkDown s = .next t ∧ (look {} t.links a.link).st = .down ∧ t.linkUp a.link = false)) ∧
  ∀ (r : RecvStream) (n : Nat), r.cum ≤ (r.count n).cum ∧ (r.cum = n → n < (r.count n).cum)
/-! ## Registers of BAR0, TAIL, hardware queues (R3, R74, R93, R103 to R108) -/

/-- R3, R74, R93, R103 to R108. -/
def Obligations.RegistersAndQueues : Prop :=
  (∀ s : State,
    let a := s.sch.args
    let q := s.hwq a.ctx a.queue
    let z := s.hwq (a.ctx % 1024) (a.queue % 32)
    let ctl : QCtl := { s.hub.qCtl with ctx := BitVec.ofNat 10 a.ctx, queue := BitVec.ofNat 5 a.queue }
    let done : QCtl := { refused := false, ctx := BitVec.ofNat 10 a.ctx, queue := BitVec.ofNat 5 a.queue }
    let refused : QCtl := { refused := true, ctx := BitVec.ofNat 10 a.ctx, queue := BitVec.ofNat 5 a.queue }
    let got : Nat → State := fun v => { s with hub := { s.hub with hostRead := BitVec.ofNat 64 v } }
    (a.flag = true → exec .readClear s = .next (got (s.readTail a.offset a.size)) ∧
      (a.offset = 0 → exec .registerWrite s = .next { s with hub := { s.hub with bar4 := min 41 (max 28 a.value.toNat) } }) ∧
      (a.offset ≠ 0 → exec .registerWrite s = .next { s with hub := { s.hub with priLimit := min 4096 a.value.toNat } })) ∧
    (∀ c n, c < 1024 → n < 8 → s.readTail (64 * c + 8 * n) 8 = (s.chain c n).tail.toNat ∧
      s.readTail (64 * c + 8 * n) 4 = (s.chain c n).tail.toNat % 2 ^ 32) ∧
    (a.flag = false → alignedAccess a.offset a.size = false → exec .readClear s = .next (got (2 ^ (8 * min 8 a.size) - 1)) ∧ exec .registerWrite s = .next s) ∧
    (a.flag = false → alignedAccess a.offset a.size = true →
      (regAt (a.offset / 8 * 8) = none → exec .readClear s = .next (got 0) ∧ exec .registerWrite s = .next s) ∧
      ∀ r, regAt (a.offset / 8 * 8) = some r →
        (a.size = 8 → r.wide = true → exec .readClear s = .next ((got (s.regVal r % 2 ^ 64)).clearReg r)) ∧
        (a.size = 4 → a.offset % 8 = 0 → exec .readClear s = .next ((got (s.regVal r % 2 ^ 32)).clearReg r)) ∧
        (a.size = 4 → a.offset % 8 = 4 → r.wide = true → exec .readClear s = .next (got (s.regVal r % 2 ^ 64 / 2 ^ 32))) ∧
        (r = .pwrCap → a.offset % 8 = 0 → exec .registerWrite s = .next { s with hub := { s.hub with
          cap := clampCap (a.value.toNat % 2 ^ 32) } }) ∧
        (r = .ageLim → a.size = 8 → exec .registerWrite s = .next { s with hub := { s.hub with ageLim := a.value.setWidth 16 } }) ∧
        (r = .ctxBase → a.size = 8 → exec .registerWrite s = .next { s with hub := { s.hub with ctxBase := a.value.extractLsb' 16 32 } })) ∧
    (a.ctx < 1024 → a.chain < 8 → ∀ d, ((s.holdDesc a.ctx).ctx a.ctx).desc = some d → d.bad = false →
      let h := s.holdDesc a.ctx
      let c := h.chain a.ctx a.chain
      let raised : Chain → Chain := fun q => if q.tail.toNat < a.value.toNat then { q with tail := a.value } else q
      (c.entry.isSome = true → 0 < c.tail.toNat ∨ a.value = 0 → c.invalid = false →
        exec .tailWrite s = .next (h.updChain a.ctx a.chain raised)) ∧
      (c.entry.isSome = true → c.invalid = true → exec .tailWrite s = .next (h.chainFault a.ctx a.chain .cmdFormat 0 0)) ∧
      (c.tail = 0 → c.invalid = false → a.value ≠ 0 → let u := h.readEntry a.ctx a.chain
        ((u.chain a.ctx a.chain).invalid = false → exec .tailWrite s = .next (u.updChain a.ctx a.chain raised)) ∧
        ((u.chain a.ctx a.chain).invalid = true → exec .tailWrite s = .next (u.chainFault a.ctx a.chain .cmdFormat 0 0)))) ∧
    (1024 ≤ a.ctx ∨ 8 ≤ a.chain → exec .tailWrite s = .next s) ∧
    (∀ o, s.hub.qreqs.find? (fun o => o.id = a.id) = some o → s.hub.qreqs.find? (fun p => p.firing.cell = o.firing.cell && !s.queueHeld p) = some o →
      let left := dropFirst (fun p => p.id = o.id) s.hub.qreqs
      exec .queueRequest s = .next ((({ s with hub := { s.hub with qreqs := left } } : State).queueArrive o).settleChains o.ctx)) ∧
    (∀ o p, s.hub.qreqs.find? (fun o => o.id = a.id) = some o → s.hub.qreqs.find? (fun p => p.firing.cell = o.firing.cell && !s.queueHeld p) = some p →
      p.id ≠ o.id → exec .queueRequest s = .next s) ∧
    ((∀ o, (q.pushes ++ q.pops).find? (fun o => o.id = a.id && o.kind ≠ .enginePush &&
          decide (o.arrived + 2 ^ o.lim ≤ s.hub.cycles.toNat)) = some o → exec .qwaitExpiry s = .next
        ((s.updHwq a.ctx a.queue fun h => h.without fun p => p.id = o.id && p.kind ≠ .enginePush).queueFault o .qwait
          (o.queue + o.kind.code * 2 ^ 8 + o.lim * 2 ^ 16 + q.head.toNat * 2 ^ 32 + q.tail.toNat * 2 ^ 96))) ∧
      (∀ o, q.pushes.find? (fun o => o.kind = .enginePush && o.chain = a.chain && o.ordinal = a.ordinal &&
          decide (o.arrived + 2 ^ 20 ≤ s.hub.cycles.toNat)) = some o → ∃ (u : State), exec .enginePushExpiry s = .next
        ((u.pushDone o).settleChains a.ctx))) ∧
    (exec .queueSelect s = .next { s with hub := { s.hub with qHead := z.head, qTail := z.tail, qCtl := ctl } } ∧
      (z.pushes = [] → z.pops = [] → exec .queueReset s = .next (({ s with hub := { s.hub with qCtl := done } } : State).updHwq
        (a.ctx % 1024) (a.queue % 32) fun h => { h with read := false, entry := none, head := 0, tail := 0 })) ∧
      (z.pushes ≠ [] ∨ z.pops ≠ [] → exec .queueReset s = .next { s with hub := { s.hub with qCtl := refused } }))) ∧
  regAt 0x0010 = some .pwrCap ∧ (∀ r, regAt 0x8FFFFF8 ≠ some r) ∧ alignedAccess 0x10 4 = true ∧ alignedAccess 0x12 4 = false ∧
  alignedAccess 0x14 8 = false ∧ alignedAccess 0x10 2 = false
/-! ## Translation, invalidation, keys, attestation (R76 to R88) -/

/-- R77 to R81, R85, R88. -/
def Obligations.ProtectionSteps : Prop :=
  ∀ s : State,
    let a := s.sch.args
    let h := s.hub
    let inv : BitVec 2 → InvReg := fun op => { h.inv with op := op, busy := true }
    let idle : InvReg := { h.inv with busy := false }
    let ctx := h.keyCmd.ctx.toNat
    let key : Bool → KeyCmd := fun r => { h.keyCmd with busy := true, refused := r }
    let att : BitVec 2 → AttestReg := fun op => { h.attest with op := op, busy := true }
    let hubOf : Hub → State := fun g => { s with hub := g }
    let rest : Walk → Hub := fun w => { h with walks := h.walks.filter fun q => !(q.ctx = w.ctx && q.vpn = w.vpn) }
    (∀ w, nextWalk h.walks = some w → exec .pageWalk s = .next ((hubOf (rest w).takeWaiting).endWalk w)) ∧
    (∀ w, nextWalk h.walks = some w → w ∈ h.walks ∧ ((∃ v ∈ h.walks, v.note = .top) → w.note = .top) ∧
      ((∃ v ∈ h.walks, v.note = .heart) → w.note ≠ .base)) ∧
    (h.walks = [] → exec .pageWalk s = .next s) ∧
    (∀ r, h.ats.find? (fun q => q.walk.ctx = a.ctx && q.pri = false) = some r →
      (a.flag = true → exec .atsTranslationCompletion s = .next (((s.updAts r fun _ => none).fillWaiting r.walk.ctx r.walk.vpn
        r.leaf).retryWalk r.walk.ctx r.walk.vpn)) ∧
      (a.flag = false → (h.ats.filter fun q => q.pri).length < h.priLimit →
        exec .atsTranslationCompletion s = .next (s.updAts r fun q => some { q with pri := true })) ∧
      (a.flag = false → h.priLimit ≤ (h.ats.filter fun q => q.pri).length → exec .atsTranslationCompletion s = .next s)) ∧
    (∀ r, h.ats.find? (fun q => q.walk.ctx = a.ctx && q.pri = true) = some r →
      (a.flag = true → exec .priResponse s = .next (s.updAts r fun q => some { q with pri := false })) ∧
      (a.flag = false → exec .priResponse s = .next (((s.updAts r fun _ => none).waitingWalk r.walk.ctx r.walk.vpn).foldl
        (fun s a => s.memFault a .hostPage a.va (sizeLevel r.leaf.size)) (s.updAts r fun _ => none)))) ∧
    exec .hubInvPage s = .next (((hubOf { h with inv := inv 1 }).rereadDescs (inv 1)).dropEntries (inv 1).matches) ∧
    exec .hubInvContext s = .next (((hubOf { h with inv := inv 2 }).rereadDescs (inv 2)).dropEntries (inv 2).matches) ∧
    exec .hubInvAll s = .next (((hubOf { h with inv := inv 3 }).rereadDescs (inv 3)).dropEntries (inv 3).matches) ∧
    (∀ (p : TlbEntry → Bool) (q : Nat × PortCore), q ∈ (s.dropEntries p).ports → ∀ e ∈ q.2.tlb, p e = false) ∧
    (∀ (p : TlbEntry → Bool) (q : Nat × Die), q ∈ (s.dropEntries p).dies → ∀ e ∈ q.2.tcache, p e = false) ∧
    (h.inv.busy = true → s.acks = [] → s.accesses = [] →
      exec .invalidationComplete s = .next ((hubOf { h with inv := idle }).dropEntries h.inv.matches)) ∧
    (h.inv.busy = true → s.acks ≠ [] → exec .invalidationComplete s = .next s) ∧
    exec .atsInvalidationRequest s = .next ((hubOf { h with atsInv := h.atsInv ++ [(a.offset, a.size)] }).dropEntries
      (inRange (a.offset, a.size))) ∧
    (∀ q l, h.atsInv = q :: l → s.acks = [] → s.accesses = [] →
      exec .atsInvalidationComplete s = .next ((hubOf { h with atsInv := l }).dropEntries (inRange q))) ∧
    ((∃ r ∈ s.regions, r.ctx = ctx) →
      exec .keyGenerate s = .next (hubOf { h with keyCmd := key true }) ∧ exec .keyDestroy s = .next (hubOf { h with keyCmd := key true })) ∧
    (s.keyHeld ctx = false →
      exec .keyDestroy s = .next (hubOf { h with keyCmd := key false, keys := put 0 ctx 0 h.keys }) ∧
      exec .keyGenerate s = .next ((hubOf { h with keyCmd := key false, keys := put 0 ctx (h.keyDraws + 1) h.keys, keyDraws := h.keyDraws + 1
        }).devWrite none (h.ctxBase.toNat * 65536 + 64 * ctx + 8) (toBytes 8 (Config.bankSeed (h.keyDraws + 1)).toNat))) ∧
    (∃ t, exec .keyCommandDone s = .next t ∧ t.hub.keyCmd.busy = false ∧ t = { s with hub := { h with keyCmd := t.hub.keyCmd } } ∧
      t.hub.keyCmd.refused = h.keyCmd.refused ∧ t.hub.keyCmd.ctx = h.keyCmd.ctx) ∧
    exec .attestReport s = .next (hubOf { h with attest := att 1 }) ∧
    exec .attestCertificate s = .next (hubOf { h with attest := att 2 }) ∧
    (h.attest.busy = false → exec .attestDone s = .next s) ∧
    (h.attest.busy = true → ∃ t, exec .attestDone s = .next t ∧ t.hub.attest.busy = false ∧ t.hostMem = s.hostMem ∧ t.cells = s.cells ∧
      t.regions = s.regions ∧ (h.attest.buf.toNat < 0x10000000000 → t.mem = s.mem))
/-! ## Port cores, home slices and the host port (R205, R217 to R230, R237, R238, R241, R253 to R255, R379) -/

/-- R203, R205, R218 to R221, R224, R226, R237, R238, R241, R253, R255, R379. -/
def Obligations.PortCoresAndHomeSlices : Prop :=
  ∀ s : State,
    let g := s.sch.args
    (∀ a, s.accessIn (· = .travel) = some a →
      let n := (s.wave a).nextw.toNat
      (a.wseq = none → exec .memoryAccessArrival s = .next (s.performAccess a g.flag)) ∧
      ∀ w, a.wseq = some w →
        ((∃ p, p ∈ a.positions ∧ s.taken a p = true) → exec .memoryAccessArrival s = .next (s.duplicate a)) ∧
        ((∀ p, p ∈ a.positions → s.taken a p = false) →
          (w = n → exec .memoryAccessArrival s = .next (s.performAccess a g.flag)) ∧
          (w ≠ n → (w + 2 ^ 32 - n) % 2 ^ 32 < 32 → s.windowFree a = true →
            exec .memoryAccessArrival s = .next (s.updAccess a.id fun b => { b with phase := .held })) ∧
          (w ≠ n → 32 ≤ (w + 2 ^ 32 - n) % 2 ^ 32 ∨ s.windowFree a = false →
            (s.retries a.firing.cell < 32 →
              exec .memoryAccessArrival s = .next (s.updAccess a.id fun b => { b with phase := .retry false })) ∧
            (32 ≤ s.retries a.firing.cell → exec .memoryAccessArrival s = .next s)))) ∧
    (∀ a, s.accessIn (· = .held) = some a →
      (a.wseq = some (s.wave a).nextw.toNat → exec .heldAccessPerform s = .next (s.performAccess a g.flag)) ∧
      (a.wseq ≠ some (s.wave a).nextw.toNat → exec .heldAccessPerform s = .next s)) ∧
    (∀ a, s.accessIn (· = .retry true) = some a → exec .retryReissue s = .next (s.updAccess a.id fun b => { b with phase := .travel })) ∧
    (∀ p, g.flag = false → s.responses.find? (fun p => p.id = g.id) = some p → exec .memoryResponse s = .next (s.landResponse p)) ∧
    (∀ a, s.accessIn (· = .home) = some a →
      let addr := a.entry.target a.va
      let die := a.core / 80
      (g.flag = true ∨ s.dieUp (s.homeDie a.entry addr) = false → exec .homeSliceRequest s = .next (s.memFault a .memUe a.va 0xFF)) ∧
      (g.flag = false → s.dieUp (s.homeDie a.entry addr) = true → a.op.writes = false →
        exec .homeSliceRequest s = .next (s.performLoad a die)) ∧
      (g.flag = false → s.dieUp (s.homeDie a.entry addr) = true → a.op.writes = true → a.op.isSystem = false →
        (∀ k, k ∈ s.acks → k.access ≠ a.id) →
        let t := s.takeLine a.entry a.core addr a.id
        let q := t.effect a (t.homeBytes a.entry addr a.size)
        exec .homeSliceRequest s = .next (q.1.respond a q.2 none)) ∧
      (g.flag = false → s.dieUp (s.homeDie a.entry addr) = true → a.op.isSystem = true →
        ((∃ k, k ∈ s.acks ∧ k.access = a.id) → exec .homeSliceRequest s = .next s) ∧
        ((∀ k, k ∈ s.acks → k.access ≠ a.id) →
          let t := s.takeHome a.entry die addr a.id
          let q := t.effect a (t.homeBytes a.entry addr a.size)
          ((∃ k, k ∈ t.acks ∧ k.access = a.id) → exec .homeSliceRequest s = .next t) ∧
          ((∀ k, k ∈ t.acks → k.access ≠ a.id) → exec .homeSliceRequest s = .next (q.1.respond a q.2 none))))) ∧
    (∀ k, s.acks.find? (fun k => k.access = g.id && k.die = g.die) = some k → ∃ t, exec .invalidationAck s = .next t ∧
      t.acks.length + 1 = s.acks.length ∧ t.mem = s.mem ∧ t.cells = s.cells ∧
      ∀ c, c ∈ t.caches ↔ c ∈ s.caches ∧ ¬ (c.line = k.line ∧ c.stale = true ∧ holderDie c.holder = k.die)) ∧
    (∀ a, s.accessIn (· = .host) = some a → a.op.isSystem = true →
      let q := s.effect a (s.hostRead (a.entry.target a.va) a.size)
      (g.flag = true → exec .atomicopCompletion s = .next (s.memFault a .sysAtomicUnsup a.va 0xFF)) ∧
      (g.flag = false → exec .atomicopCompletion s = .next (q.1.respond a q.2 none))) ∧
    (∀ a, s.accessIn (· = .host) = some a → a.op.isSystem = false →
      let q := s.effect a (s.hostRead (a.entry.target a.va) a.size)
      let u := if a.op.writes then q.1.updRegion a.firing.region fun r => { r with posted := true } else q.1
      (g.flag = true → exec .hostReadCompletion s = .next (s.memFault a .memUe a.va 0xFF)) ∧
      (g.flag = false → exec .hostReadCompletion s = .next (u.respond a q.2 (u.lineFor a (a.core / 80))))) ∧
    (∃ t, exec .hostSnoop s = .next t ∧ t.mem = s.mem ∧ t.hostMem = s.hostMem ∧
      ∀ c, c ∈ t.caches ↔ c ∈ s.caches ∧ c.line ≠ 2 ^ 60 + g.offset / 64) ∧
    (∀ r b, s.bindingArg = some (r, b) →
      (s.roundReady r b = true → exec .roundStart s = .next (s.startRound r b)) ∧
      (s.roundReady r b = false → exec .roundStart s = .next s) ∧
      (s.aheadReady r b = true → exec .readAhead s = .next (s.readAheadOne r b g.flag)) ∧
      (s.aheadReady r b = false → exec .readAhead s = .next s) ∧
      (∀ a t, (s.agn r b).params = a :: t →
        let v := BitVec.ofNat 64 ((a.l.getD {}).low 8)
        ((s.agn r b).pending = none → exec .paramOverwrite s = .next (s.updAgn r b fun g => { g with params := t, pending := some v })) ∧
        ((s.agn r b).pending ≠ none → exec .paramOverwrite s = .next s)) ∧
      (s.xfers.find? (fun x => x.id = g.id && !x.begun) = none → s.tileReadyToStart r b = true →
        exec .tileFillStart s = .next (s.startTile r b g.flag))) ∧
    (∀ x, s.xfers.find? (fun x => x.id = g.id && !x.begun) = some x → exec .tileFillStart s = .next (s.beginXfer x)) ∧
    (∀ x, s.xfers.find? (fun x => x.id = g.id && x.begun && !x.faulted && x.kind = .fill) = some x →
      exec .tileRowLand s = .next ((s.updPort (s.xferCore x) fun c => { c with turn := (s.xferOf x).2.agn }).landRow x g.flag)) ∧
    (∀ x, s.xfers.find? (fun x => x.id = g.id && x.begun && !x.faulted && x.kind = .drain) = some x →
      exec .tileDrainComplete s = .next ((s.updPort (s.xferCore x) fun c => { c with turn := (s.xferOf x).2.agn }).endDrain x)) ∧
    (∀ t b, s.spaces.find? (fun t => t.id = g.id) = some t → (s.region t.region).binding? t.port = some b → t.reply = none →
      let u : State := { s with spaces := dropFirst (fun q => q.id = t.id) s.spaces }
      let n := fun (a : Agn) => look 0 a.joins t.buffer + 1
      exec .spaceToken s = .next (u.updAgn (s.region t.region) b fun a => if b.dests.length ≤ n a
        then { a with joins := put 0 t.buffer 0 a.joins, busyBufs := a.busyBufs.filter (· ≠ t.buffer) }
        else { a with joins := put 0 t.buffer (n a) a.joins }))
/-! ## Command records and trees (R58 to R62, R93 to R102) -/

/-- R93, R95 to R97, R99 to R102. -/
def Obligations.RecordsFetchedAndRun : Prop :=
  ∀ s : State,
    let a := s.sch.args
    let q := s.chain a.ctx a.chain
    let n := q.walked.toNat + 1
    let started := fun r : CmdRec => s.updRcd a.ctx a.chain r.ordinal fun r => { r with started := true, stamp := s.hub.cycles.toNat }
    let ctx := a.ctx % 1024
    let c := a.chain % 64
    let host := 2 ≤ q.kind ∧ s.touchesHost a.ctx q.nextVa 64 false = true
    (s.walks a.ctx a.chain = true → q.walked.toNat < q.tail.toNat → host → exec .recordFetch s = .next (s.updChain a.ctx a.chain fun q =>
      { q with walked := q.walked + 1, nextVa := q.nextVa + 64,
               recs := q.recs ++ [{ ordinal := n, va := q.nextVa, started := true, work := 0x8008 }] })) ∧
    (s.walks a.ctx a.chain = true → q.walked.toNat < q.tail.toNat → ¬ host → ∀ v t, s.vaNum a.ctx q.nextVa 64 = .ok (v, t) →
      let r : CmdRec := { ordinal := n, va := q.nextVa, bits := v }
      let behind := if r.type = 0x01 then r.field 16 8 else q.nextVa + 64
      (r.refused q.kind = none → exec .recordFetch s = .next (t.updChain a.ctx a.chain fun q =>
        { q with walked := q.walked + 1, nextVa := behind, recs := q.recs ++ [r] })) ∧
      (∀ st cls, r.refused q.kind = some (st, cls) → exec .recordFetch s = .next ((t.updChain a.ctx a.chain fun k =>
        { k with walked := k.walked + 1, nextVa := q.nextVa + 64, recs := k.recs ++ [r] }).halt a.ctx a.chain n (some q.nextVa) st cls
          (statusBody st)))) ∧
    (q.tail.toNat ≤ q.walked.toNat → exec .recordFetch s = .next s) ∧
    (∀ r, s.readyRec a.ctx a.chain 0x00 = some r → exec .nopRecord s = .next ((started r).completeRec a.ctx a.chain r.ordinal 1)) ∧
    (∀ r, s.readyRec a.ctx a.chain 0x01 = some r → exec .jumpRecord s = .next ((started r).completeRec a.ctx a.chain r.ordinal 1)) ∧
    (∀ r, s.readyRec a.ctx a.chain 0x02 = some r →
      let src := r.field 16 8
      let dst := r.field 24 8
      let len := r.field 32 8
      (len = 0 → exec .copyRecord s = .next ((started r).recordDone a.ctx a.chain r.ordinal 1)) ∧
      (0 < len → src < dst + len ∧ dst < src + len → exec .copyRecord s = .next ((started r).recordDone a.ctx a.chain r.ordinal 0x800A)) ∧
      (0 < len → dst + len ≤ src ∨ src + len ≤ dst →
        exec .copyRecord s = .next ((started r).startMove a.ctx a.chain r dst (.copy src dst len)))) ∧
    (∀ r, s.readyRec a.ctx a.chain 0x03 = some r →
      (r.field 24 8 = 0 → exec .fillRecord s = .next ((started r).recordDone a.ctx a.chain r.ordinal 1)) ∧
      (0 < r.field 24 8 → exec .fillRecord s =
        .next ((started r).startMove a.ctx a.chain r (r.field 16 8) (.fill (r.field 16 8) (r.field 24 8) (r.field 32 8) 0)))) ∧
    (∀ r, s.readyRec a.ctx a.chain 0x20 = some r →
      ((started r).touchesHost a.ctx (r.field 32 8) 32 false = true →
        exec .collRecord s = .next ((started r).recordDone a.ctx a.chain r.ordinal 0x8008)) ∧
      ((started r).touchesHost a.ctx (r.field 32 8) 32 false = false → ∀ v t, (started r).vaNum a.ctx (r.field 32 8) 32 = .ok (v, t) →
        (bit v (16 * t.ownGroup + t.ownModule) = false →
          exec .collRecord s = .next (t.halt a.ctx a.chain r.ordinal (some r.va) 0x8001 .cmdFormat (statusBody 0x8001))) ∧
        (bit v (16 * t.ownGroup + t.ownModule) = true → ∃ k : Coll,
          exec .collRecord s = .next (({ t with colls := t.colls ++ [k] }).moveColl a.ctx a.chain r.ordinal) ∧
          k.op = r.field 28 1 ∧ k.cid = r.field 40 4 ∧ k.elems = (if k.op = 0 then 0 else r.field 24 4) ∧ k.group = r.field 29 1 ∧ k.dieMask = r.field 30 1 ∧ k.dst = r.field 16 8 ∧ k.chunks = [] ∧
          (∀ m, m ∈ k.members ↔ m < 256 ∧ bit v m = true) ∧ k.members[k.rank]? = some (16 * t.ownGroup + t.ownModule)))) ∧
    (∀ r, s.readyRec a.ctx a.chain 0x10 = some r →
      let d := (started r).rereadDesc a.ctx
      (∀ why, d.descValid a.ctx = false → d.descReason a.ctx = some why → exec .launchRecord s =
        .next ((d.event 0x0007 8 (a.ctx + 1024 * why)).completeRec a.ctx a.chain r.ordinal 0x8005)) ∧
      (d.descValid a.ctx = true → r.field 32 2 = 0 →
        let im := d.loadImage (r.field 16 8) { ctx := a.ctx, width := r.field 34 1, height := r.field 35 1 }
        ∀ bs img, im.1 = .ok (bs, img) → ∃ w : Waiting, w.ctx = a.ctx ∧ w.ordinal = r.ordinal ∧ w.image = img ∧ w.imageBytes = bs ∧
          w.dieMask = r.field 36 1 ∧ w.tokens = [] ∧ w.frame.toNat = r.field 40 8 ∧ w.cfgVa = r.field 16 8 ∧ w.hndl = r.field 48 8 ∧
          w.flacon = none ∧ exec .launchRecord s = .next ({ im.2 with hub := { im.2.hub with waiting := im.2.hub.waiting ++ [w] } }.placeWaiting))) ∧
    (∀ r, q.rcd? a.ordinal = some r → r.running = true → r.work ≠ 0 →
      exec .recordComplete s = .next (s.completeRec a.ctx a.chain a.ordinal r.work)) ∧
    (∀ r e l p, s.region? a.region = some r → r.inject = e :: l → r.st = .running → r.stop = .none → portOf (bits e.2.1 15 14) = some p →
      let tag := mkTag r.ctx (bits e.2.2 21 14) (bits e.2.2 13 12) (bits e.2.2 11 0)
      let v := Val.of (r.image.tokenLen e.2.1) e.1
      let goal := r.steer (r.x0 + bits e.2.1 31 25) (r.y0 + bits e.2.1 24 19) (bits e.2.1 18 16) tag v
      let u := s.updRegion r.id fun r => { r with inject := l }
      (u.takeEntry (cellKey r.die goal.1 goal.2) r.id = none → exec .tokenInject s = .next s) ∧
      ∀ pool u', u.takeEntry (cellKey r.die goal.1 goal.2) r.id = some (pool, u') →
        ∃ t k, exec .tokenInject s = .next t ∧ t.toks = u'.toks ++ [k] ∧ k.x = goal.1 ∧ k.y = goal.2 ∧ k.tag = tag ∧ k.val = v ∧
          k.dest = .slot (bits e.2.1 18 16) (bits e.2.1 13 8) p ∧ k.region = r.id ∧ k.kind = .injected ∧ k.pool = pool ∧
          k.note = u'.blockNote r goal.1 goal.2 (bits e.2.1 18 16) ∧
          t.cells = u'.cells ∧ t.regions = u'.regions) ∧
    (let h := s.chain ctx c
     (h.halted = none → exec .chainRetry s = .next (s.chainOp ctx c true) ∧ exec .chainSkip s = .next (s.chainOp ctx c true)) ∧
     (∀ m, h.halted = some m →
       let u := s.chainOp ctx c false
       let w := ({ u with colls := u.colls.filter fun k => !(k.ctx = ctx && k.chain = c && k.ordinal = m) }).updChain ctx c
         fun q => { q with halted := h.restHalt m }
       ∀ r, h.rcd? m = some r →
         (r.refused h.kind = none → exec .chainRetry s = .next (w.updRcd ctx c m fun r =>
           { r with status := 0, started := false, complete := false, work := 0, pushed := false })) ∧
         exec .chainSkip s = .next ((w.updRcd ctx c m fun r =>
           { r with started := true, pushed := r.pushed || r.complete, complete := true }).settleChains ctx)) ∧
     (0 < h.inflight → exec .chainReset s = .next (s.chainOp ctx c true)) ∧
     (h.inflight = 0 → (∀ r, r ∈ h.recs → s.pushWaits ctx c r.ordinal = false) →
       let u := s.chainOp ctx c false
       let w := ({ u with colls := u.colls.filter fun k => !(k.ctx = ctx && k.chain = c) }).updChain ctx c
         fun q => { q with walked := q.tail, tl := q.tail, recs := [], halted := none }
       ((w.ctx ctx).desc = none → exec .chainReset s = .next (w.settleChains ctx)) ∧
       ∀ d, (w.ctx ctx).desc = some d → exec .chainReset s =
         .next ((((w.vaWrite ctx (d.tlbase + 8 * c) (toBytes 8 h.tail.toNat)).1).readEntry ctx c).settleChains ctx)))

/-- R58 to R62, R118. -/
def Obligations.TreesAndCollectives : Prop :=
  (∀ s : State,
    let a := s.sch.args
    let d := s.die a.die
    (16 ≤ (d.tree.filter fun o => o.active).length → exec .treeOpStart s = .next s) ∧
    ((∀ o, o ∈ d.tree → o.active = true ∨ o.bad = true) → exec .treeOpStart s = .next s) ∧
    ((d.tree.filter fun o => o.active).length < 16 → (∃ o, o ∈ d.tree ∧ o.active = false ∧ o.bad = false) →
      ∃ o, o ∈ d.tree ∧ o.active = false ∧ o.bad = false ∧
        (∀ p, p ∈ d.tree → p.active = false → p.bad = false → o.note.code ≤ p.note.code) ∧
        exec .treeOpStart s = .next (o.contribs.foldl (fun s c => if c.targets.isEmpty then s else s.sendEntered c)
          (s.updTree a.die o.id fun o => { o with active := true, contribs := o.contribs.map Contribution.entered }))) ∧
    (∀ o, d.tree.find? (fun o => o.id = a.id) = some o →
      let u := s.updDie a.die fun d => { d with tree := dropFirst (fun q => q.id = o.id) d.tree }
      ((∃ m, m ∈ o.members ∧ ∀ c, c ∈ o.contribs → (c.x, c.y) ≠ m) → exec .treeResult s = .next s) ∧
      ((∀ m, m ∈ o.members → ∃ c, c ∈ o.contribs ∧ (c.x, c.y) = m) →
        (o.bad = true → exec .treeResult s = .next u) ∧
        (o.bad = false → o.active = true → exec .treeResult s = .next (u.treeDeliver a.die o)))) ∧
    (∀ c, s.coll? a.ctx a.chain a.ordinal = some c →
      let rank := a.value.toNat
      let k := c.combine rank
      (c.members.length ≤ rank ∨ rank ∈ c.have ∨ c.status ≠ none → exec .collPartialReceive s = .next s) ∧
      (rank < c.members.length → rank ∉ c.have → c.status = none →
        (a.flag = true → exec .collPartialReceive s = .next (s.updColl a.ctx a.chain a.ordinal fun c => { c with status := some 0x8009 })) ∧
        (a.flag = false → c.combines rank = false → exec .collPartialReceive s = .next s) ∧
        (a.flag = false → c.combines rank = true →
          exec .collPartialReceive s = .next ((s.updColl a.ctx a.chain a.ordinal fun _ => k).finishColl k k.have))))) ∧
  (∀ (c : Coll) rank ws n, c.waits rank = some ws → c.allowed rank = some n →
    let t := (c.taken rank).getD []
    (c.combine rank).taken rank = some (t ++ ws.take (n - t.length)) ∧ (c.combine rank).waits rank = some (ws.drop (n - t.length))) ∧
  (∀ (c : Coll), c.allowed 0 = some c.own ∧ ∀ rank, c.allowed (rank + 1) = (c.taken rank).map List.length) ∧
  (∀ op e fuel v, reduceVals op e fuel [v] = v) ∧
  (∀ op e v w, reduceVals op e 2 [v, w] = combineVal op e v w) ∧
  (∀ op e v w x, reduceVals op e 3 [v, w, x] = combineVal op e (combineVal op e v w) x) ∧
  (∀ op e v w x y, reduceVals op e 4 [v, w, x, y] = combineVal op e (combineVal op e v w) (combineVal op e x y))
/-! ## Regions under their die scheduler, and the tokens of their cells (R114, R115, R119 to R129, R135 to R137, R168, R185 to R196) -/

/-- R114, R115, R120, R122, R124, R129, R168. -/
def Obligations.RegionsLoadedAndPlaced : Prop :=
  (∀ s : State,
    let a := s.sch.args
    let d := s.die a.die
    let at_ := s.regionAt a.die d.reg.x0.toNat d.reg.y0.toNat
    let va := d.reg.img.toNat / 64 * 64
    (at_ = none → exec .regionLoad s = .next (s.loadResult a.die 2)) ∧
    (∀ r, at_ = some r → r.st = .running → r.stop = .none → r.ended = false → s.holdsTokens r = false →
      let q := s.loadImage va { ctx := r.ctx, width := r.w, height := r.h, claims := some (r.image.wpc, r.image.banks) }
      (∀ bs img, q.1 = .ok (bs, img) → q.2.loadRefused r img = none → exec .regionLoad s = .next (q.2.beginLoad r va bs img)) ∧
      (∀ b, q.1 = .error b → exec .regionLoad s = .next ((q.2.loadFault r.ctx va (loadWhere a.die r.x0 r.y0 b) r.handle
        (q.2.die a.die).netCycles b).loadResult a.die 3))) ∧
    (∀ r, d.loading.bind s.region? = some r →
      let u := ((s.eachCell r fun rx ry c => c.reload r rx ry).updRegion r.id fun r => { r with st := .running }).sendPrimes r.id
      exec .loadComplete s = .next ((u.updDie a.die fun d => { d with loading := none }).loadResult a.die 0)) ∧
    (∀ r, at_ = some r → exec .regionSelect s = .next (s.updDie a.die fun d =>
      { d with reg := { d.reg with stat := BitVec.ofNat 64 r.statWord, code := 0 } })) ∧
    (at_ = none → exec .regionSelect s = .next (s.updDie a.die fun d => { d with reg := { d.reg with stat := 0, code := 2 } })) ∧
    (∀ r, s.regionAt a.die d.hangReg.x0.toNat d.hangReg.y0.toNat = some r →
      exec .hangSet s = .next (s.updRegion r.id fun r => { r with hang := clampHang d.hangReg.hang.toNat })) ∧
    exec .placementSample s = .next ((s.regions.filter fun r => r.die = a.die).foldl (fun s r => s.sampleRegion r.id) s) ∧
    (∀ id, (∀ e, e ∈ (s.region id).actors → e.cfg.elastic = false) → s.sampleRegion id = s) ∧
    (∀ r e, s.actorArg = some (r, e) →
      let to_ := fun (f : Actor → Actor) => s.updRegion r.id fun r => r.updActor e.cfg.actor f
      (∀ m x y,
        e.copyable.find? (s.moveReady r e) = some m → e.replicas[m.src]? = some x → e.replicas[m.dst]? = some y →
        let u := to_ fun e => { e with moves := changeFirst (fun q => q = m) (fun q => { q with step := 4 }) e.moves }
        let o := 64 * (e.cfg.sbase + m.bucket * e.cfg.ssize)
        let bs := (List.range (64 * e.cfg.ssize)).map fun i => (s.cell (cellKey r.die x.1 x.2)).bankByte e.cfg.sbank (o + i)
        exec .bucketStateCopy s = .next (u.updCell (cellKey r.die y.1 y.2) fun c => c.bankWrite e.cfg.sbank o bs)) ∧
      (∀ m y, e.moves.find? (fun m => m.step = 4) = some m → e.replicas[m.dst]? = some y →
        let mine := fun t : Tok => e.cfg.bucket t.tag t.val = m.bucket
        let out := e.held.filter mine
        let u := to_ fun e => { e with
          moves := dropFirst (fun q => q = m) e.moves, held := e.held.filter fun t => !decide (mine t) }
        exec .bucketRelease s = .next ((u.beginMoves r.id e.cfg.actor).updCell (cellKey r.die y.1 y.2) fun c => { c with
          queue := out.filter (fun t => t.kind = .forwarded) ++ out.filter (fun t => t.kind ≠ .forwarded) ++ c.queue })) ∧
      ((∀ n, n ∈ e.leaving → ∃ m, m ∈ e.moves ∧ m.src = n) → exec .replicaFree s = .next s) ∧
      (∀ n x, s.freeable r e = some (n, x) → n ∈ e.leaving ∧ e.replicas[n]? = some x ∧ (∀ m, m ∈ e.moves → m.src ≠ n) ∧
        s.actorHolds r e x (fun _ _ => true) = false ∧
        ∃ u p, u = s.updCell (cellKey r.die x.1 x.2) (fun c => { c with windows := c.windows.map fun (w : Nat × Window) =>
            (w.1, if w.2.region = r.id && bit e.cfg.wins w.2.rwin then { region := r.id, rwin := w.2.rwin } else w.2) }) ∧
          (p = [x] ∨ p = []) ∧
          (p = [x] ↔ ∀ w, w ∈ (u.cell (cellKey r.die x.1 x.2)).windows → w.2.region = r.id → w.2.words = []) ∧
          exec .replicaFree s = .next (u.updRegion r.id fun r =>
            { r.updActor e.cfg.actor (fun e => { e with leaving := e.leaving.filter (· ≠ n), freed := e.freed ++ [n] }) with pool := r.pool ++ p }))) ∧
    exec .shareReweight s = .next (s.updCell (cellKey a.die a.x a.y) fun c =>
      { c with windows := c.windows.map fun (w : Nat × Window) => (w.1, w.2.reweighted) })) ∧
  ∀ w : Window, w.reweighted.occSum = 0 ∧ w.reweighted.occSince = 0 ∧ w.reweighted.share = w.share ∧ w.reweighted.ins = w.ins ∧
    let slots := (w.ins.map fun i => i.2.depth).sum
    (0 < slots → w.reweighted.eff = w.share.toNat + w.share.toNat * min 4 (4 * w.occSum / (1024 * slots)) / 4) ∧
    (slots = 0 → w.reweighted.eff = w.share.toNat)

/-- R123, R124, R135 to R137, R159, R163, R185, R186, R188, R194 to R196. -/
def Obligations.TokensNoticesAndLaps : Prop :=
  ∀ s : State,
    let a := s.sch.args
    (∀ t u, s.toks.find? (fun t => t.id = a.id) = some t → s.toks.find? (fun u => s.sameWay t u) = some u → u.id ≠ t.id →
      exec .tokenArrival s = .next s) ∧
    (∀ t u, s.toks.find? (fun t => t.id = a.id) = some t → s.toks.find? (fun u => s.sameWay t u) = some u → u.id = t.id →
      let r := s.region t.region
      let k := cellKey r.die t.x t.y
      let q := ({ s with toks := dropFirst (fun u => u.id = t.id) s.toks }).updRegion t.region fun r => { r with silentFor := 0 }
      (s.arrives t = false → exec .tokenArrival s = .next s) ∧
      (r.frame? (tagFrm t.tag) = none → exec .tokenArrival s = .next (q.turnAway k t)) ∧
      (∀ f, r.frame? (tagFrm t.tag) = some f →
        (f.killed = true ∨ f.returned = true → exec .tokenArrival s = .next (q.turnAway k t)) ∧
        (f.killed = false → f.returned = false → tagFrm t.tag ∈ r.trapSet →
          exec .tokenArrival s = .next ((q.turnAway k t).park r.id (.token t))) ∧
        (f.killed = false → f.returned = false → tagFrm t.tag ∉ r.trapSet → f.inWindow t.x t.y (tagGen t.tag) = false →
          exec .tokenArrival s = .next ((q.turnAway k t).stale_ r.die t.x t.y r.id t.dest.win t.dest.slotOf t.tag (f.lapAt t.x t.y).2)) ∧
        (f.killed = false → f.returned = false → tagFrm t.tag ∉ r.trapSet → f.inWindow t.x t.y (tagGen t.tag) = true →
          s.arrives t = true → ∀ pool v, q.entryFor k t = some (pool, v) →
          exec .tokenArrival s = .next (v.acceptTok k { t with pool := pool } (r.cut t.x t.y))))) ∧
    (∀ r, s.region? a.region = some r →
      let k := cellKey r.die a.x a.y
      (r.stop = .freeze ∨ r.st = .frozen → exec .tokenMatch s = .next s) ∧
      (r.stop = .none → r.st ≠ .frozen →
        (a.flag = true → exec .tokenMatch s = .next (s.matchRing r k a.x a.y a.port a.arc)) ∧
        (a.flag = false → (∀ t, t ∈ (s.cell k).queue → t.region ≠ r.id) → exec .tokenMatch s = .next s) ∧
        (∀ t, a.flag = false → (s.cell k).queue.find? (fun t => t.region = r.id) = some t →
          let u := s.updCell k fun c => { c with queue := dropFirst (fun u => u.id = t.id) c.queue }
          let gone := fun s : State => ((s.updCell k fun c => { c with
            queue := dropFirst (fun u => u.id = t.id) c.queue }).leaveQueue k t).stir r.id
          (∀ x y, r.steerAt t.x t.y t.dest.win t.tag t.val = .away x y → exec .tokenMatch s = .next (s.forward r.die t x y gone)) ∧
          (∀ n, r.steerAt t.x t.y t.dest.win t.tag t.val = .hold n →
            exec .tokenMatch s = .next (u.updRegion r.id fun r => r.updActor n fun e => { e with held := e.held ++ [t] })) ∧
          (∀ w win, r.steerAt t.x t.y t.dest.win t.tag t.val = .here → (s.cell k).findWin r.id t.dest.win = some (w, win) →
            t.kind = .unparked ∨ r.admission t.x t.y t.tag = .accept →
            let p := s.portOfDest k w t.dest
            (s.roomFor k w r.id p.1 p.2 t.tag t.val t.held = false → exec .tokenMatch s = .next s) ∧
            (s.roomFor k w r.id p.1 p.2 t.tag t.val t.held = true → exec .tokenMatch s =
              .next ((((u.leaveQueue k t).stir r.id).countProgress k w r.id t.dest).matchToken k w p.1 p.2 t.tag t.val)))))) ∧
    (∀ n, s.notices.find? (fun n => n.id = a.id) = some n → 80 ≤ n.x → exec .creditNotice s =
      .next (({ s with notices := dropFirst (fun m => m.id = n.id) s.notices } : State).updAct n.arc fun q => { q with cred := q.cred + n.count })) ∧
    (∀ n w win, s.notices.find? (fun n => n.id = a.id) = some n → n.x < 80 →
      let k := cellKey (s.region n.region).die n.x n.y
      (s.cell k).findWin n.region n.rwin = some (w, win) →
      let u : State := { s with notices := dropFirst (fun m => m.id = n.id) s.notices }
      exec .creditNotice s = .next ((u.updOut k w n.arc fun o => { o with cred := o.cred + n.count }).drawSpill n.region k w n.arc)) ∧
    (∀ r, s.region? a.region = some r →
      let k := cellKey r.die a.x a.y
      let n := look 0 (s.cell k).dequeued r.id
      let cycle := (s.die r.die).fabCycles.toNat
      (64 ≤ n ∨ (0 < n ∧ look 0 (s.cell k).unreported r.id + 256 ≤ cycle) →
        exec .progressReport s = .next ((s.updRegion r.id fun q => { q with count := q.count + n }).updCell k
          fun c => { c with dequeued := put 0 r.id 0 c.dequeued, unreported := put 0 r.id 0 c.unreported })) ∧
      (n < 64 → n = 0 ∨ cycle < look 0 (s.cell k).unreported r.id + 256 → exec .progressReport s = .next s)) ∧
    (∀ g l, (s.die a.die).gates = g :: l →
      let u := s.updDie a.die fun d => { d with gates := l }
      let r := u.region g.firing.region
      let phase := look 0 (u.die a.die).phases r.frame.toNat
      let given := fun q : Nat => g.targets.map fun x => (x, Val.of 4 q)
      (r.disp = true → r.margin * r.image.ptotal + 256 * r.count < 16 * phase * r.image.ptotal → 0 < r.ql → r.lowered ≠ some phase →
        exec .qualityGate s = .next ((u.updRegion r.id fun r => { r with ql := r.ql - 1, lowered := some phase }).landEach g.firing
          g.firing.acc.tag g.pools (given (r.ql - 1)))) ∧
      (r.disp = false ∨ 16 * phase * r.image.ptotal ≤ r.margin * r.image.ptotal + 256 * r.count ∨ r.ql = 0 ∨ r.lowered = some phase →
        exec .qualityGate s = .next (u.landEach g.firing g.firing.acc.tag g.pools (given r.ql)))) ∧
    (∀ f m, (s.region a.region).frame? a.frm = some f → f.markers.find? (fun m => m.2.2.contains a.arc) = some m →
      (s.aheadOf a.region a.arc m.2.1 = true → exec .markerReport s = .next s) ∧
      (s.aheadOf a.region a.arc m.2.1 = false →
        let left := m.2.2.filter (· ≠ a.arc)
        (left = [] → exec .markerReport s = .next ((s.updRegion a.region fun r => r.updFrame a.frm fun f =>
          { f with markers := f.markers.filter (fun q => q.1 ≠ m.1), marked := f.marked ++ [m.1] }).serveAsks a.region)) ∧
        (left ≠ [] → exec .markerReport s = .next ((s.updRegion a.region fun r => r.updFrame a.frm fun f =>
          { f with markers := changeFirst (fun q => q.1 = m.1) (fun q => (q.1, q.2.1, left)) f.markers }).serveAsks a.region)))) ∧
    (∀ w, ((s.region a.region).frame? a.frm).bind FrameRec.wrap = some w →
      let set := fun w : Wrap => s.updRegion a.region fun r => r.updFrame a.frm fun f => { f with wrap := some w }
      ((a.x, a.y) ∉ w.cells → exec .lapUpdate s = .next s) ∧
      ((a.x, a.y) ∈ w.cells → exec .lapUpdate s = .next ((set { w with cells := w.cells.filter (· ≠ (a.x, a.y)), acks := w.acks ++
        [(a.x, a.y)] }).sweepStale a.region a.frm [(a.x, a.y)])) ∧
      exec .lapAck s = .next ((set { w with acks := w.acks.tail }).serveAsks a.region))
/-! ## Frame traps, stops, fences and restores (R113, R158 to R182, R244, R322) -/

/-- R113, R158, R161 to R163, R169, R172 to R174, R181, R182, R244, R322. -/
def Obligations.TrapsStopsAndRestores : Prop :=
  ∀ s : State,
    let a := s.sch.args
    let d := s.die a.die
    let freed := fun u : State => u.updDie a.die fun d => { d with trapCtl := { d.trapCtl with busy := false, refused := true } }
    let coded := fun n : Nat => s.updDie a.die fun d => { d with pre := { d.pre with busy := false, code := BitVec.ofNat 3 n } }
    let busy := fun u : State => u.updDie a.die fun d => { d with pre := { d.pre with busy := true } }
    (∀ t l, d.reports = t :: l →
      let u := s.updDie a.die fun d => { d with reports := l }
      (∀ f, (u.region t.region).frame? t.frm = some f → f.killed = false → f.returned = false → (u.region t.region).st ≠ .frozen →
        exec .frameTrap s = .next ((u.stopFrame t.region t.frm t.accord).putFault t.rcd)) ∧
      ((u.region t.region).frame? t.frm = none → exec .frameTrap s = .next (u.putFault t.rcd))) ∧
    (s.trapNamed a.die = none → exec .trapResume s = .next (freed s) ∧ exec .trapKill s = .next (freed s)) ∧
    (∀ r frm, s.trapNamed a.die = some (r, frm) →
      ((∀ f, r.frame? frm = some f → f.killed = true) → exec .trapResume s = .next (freed s)) ∧
      (∀ f, r.frame? frm = some f → f.killed = false → exec .trapResume s = .next ((s.trapResult a.die true false).updRegion r.id
        fun r => { r with resuming := r.resuming.filter (· ≠ frm) ++ [frm] })) ∧
      (let t := (s.trapResult a.die true false).updRegion r.id fun r => { r.updFrame frm (fun f => { f with killed := true }) with
         park := r.park.filter (fun p => p.frm ≠ frm), resuming := r.resuming.filter (· ≠ frm) }
       let u := (t.rewritePark r.id).discardAccesses fun a => a.firing.region = r.id && a.firing.frm = frm
       let v := (u.xfers.filter fun x => x.region = r.id && tagFrm x.tag = frm && (x.faulted || !x.begun)).foldl (fun s x => s.abandonXfer x) u
       let w := r.image.bindings.foldl (fun s b => if (s.agn r b).region ≠ r.id || (s.agn r b).port ≠ b.p then s
         else s.updAgn r b fun g => { g with round := g.round.filter fun q => tagFrm q.tag ≠ frm }) v
       exec .trapKill s = .next (r.cells.foldl (fun s p => s.updCell (cellKey r.die p.1 p.2) fun c =>
         { c with fences := c.fences.filter fun f => !(f.firing.region = r.id && f.firing.frm = frm) }) w))) ∧
    (∀ r, s.region? a.region = some r →
      (a.frm ∉ r.resuming → exec .parkReinject s = .next s) ∧
      (a.frm ∈ r.resuming → r.st = .running → r.stop = .none → s.reported r a.frm = false → s.starves r a.frm = false →
        (∀ p, p ∈ r.park → p.frm ≠ a.frm) →
        exec .parkReinject s = .next (((s.resumePorts r a.frm).stir r.id).leaveTrap r a.frm)) ∧
      (∀ f, r.frame? a.frm = some f →
        (f.killed = false → exec .killTagsFree s = .next s) ∧
        (f.killed = true → s.frameBusy r.id a.frm = false → s.reported r a.frm = false →
          exec .killTagsFree s = .next ((s.returnFrame r.id a.frm).leaveTrap r a.frm))) ∧
      (s.isSilent r = false → exec .regionSilent s = .next s) ∧
      (s.isSilent r = true → s.holdsTokens r = false → exec .regionSilent s = .next (s.updRegion r.id fun r => { r with complete := true })) ∧
      (s.isSilent r = true → s.holdsLoose r = false → r.holdsParked = true → exec .regionSilent s = .next s) ∧
      (s.isSilent r = true → s.holdsLoose r = true → s.maySpill r = false → exec .regionSilent s = .next (s.freezeSilent r)) ∧
      (r.ended = false → exec .endComplete s = .next s) ∧
      (r.ended = true → r.complete = false → s.outstanding r.id = false → s.sendsOpen r.id = false →
        (∀ x, x ∈ s.accesses → x.firing.region = r.id → s.canPerform x = false) →
        let u := (s.withdrawQueue fun f => f.region = r.id).2
        let v := { u with toks := u.toks.filter fun t => t.region ≠ r.id }
        let v := { v with notices := v.notices.filter fun n => n.region ≠ r.id }
        let v := { v with accesses := v.accesses.filter fun x => x.firing.region ≠ r.id }
        let v := { v with xfers := v.xfers.filter fun x => x.region ≠ r.id }
        let e := v.updRegion r.id fun r => { r with complete := true, asks := [], inject := [], inflight := [] }
        exec .endComplete s = .next ((e.regionCells r.id).foldl (fun s k => s.updCell k fun c =>
          let c' := { c with matching := c.matching.filter fun a => (c.window a.win).region ≠ r.id }
          let c' := { c' with waiting := c.waiting.filter fun a => (c.window a.win).region ≠ r.id }
          let c' := { c' with queue := c.queue.filter fun t => t.region ≠ r.id }
          { c' with fences := c.fences.filter fun f => f.firing.region ≠ r.id }) e)) ∧
      (∀ cells, r.stop = .drydown cells →
        ((a.x, a.y) ∈ cells → exec .markerArrival s = .next s) ∧
        ((a.x, a.y) ∉ cells → r.contains a.x a.y = true → (∀ e, e ∈ r.actors → e.moves = [] ∧ e.leaving = []) →
          exec .markerArrival s =
            .next ((s.updRegion r.id fun r => { r with stop := .drydown (cells ++ [(a.x, a.y)]) }).dropAhead r fun _ => true)) ∧
        ((∃ c, c ∈ r.cells ∧ c ∉ cells) → exec .cutComplete s = .next s) ∧
        ((∀ c, c ∈ r.cells → c ∈ cells) → s.canSettle r = true →
          exec .cutComplete s = .next (((s.freezeNow r).endBusy r).saveRegion ((s.freezeNow r).region r.id)))) ∧
      (r.stop = .freeze → s.canSettle r = true → exec .freezeComplete s = .next ((s.freezeNow r).endBusy r)) ∧
      (r.stop = .freeze → s.canSettle r = false → exec .freezeComplete s = .next s) ∧
      (∀ t, r.contains a.x a.y = true → r.lastUe = some t → (s.die r.die).netCycles.toNat < t + 2 ^ 20 → r.st ≠ .frozen →
        let now := (s.die r.die).netCycles
        let u := (s.updCell (cellKey r.die a.x a.y) fun c => { c with ecc := { c.ecc with uncorr := satInc c.ecc.uncorr } }).updRegion r.id
          fun r => { r with lastUe := some now.toNat }
        let bodyA := r.imageVa % 2 ^ 64 * 2 ^ 32 + a.offset % 2 ^ 64 * 2 ^ 96
        let where_ := whereC r.die a.x a.y 0 0
        let rcd : FaultRec := { cls := .cfgUe, ctx := r.ctx, loc := where_, cycle := now, bodyB := r.handle, bodyA := bodyA }
        exec .configUe s = .next ((u.putFault rcd).startFreeze r.id .configUe))) ∧
    (s.preRegion a.die = none → exec .drydown s = .next (coded 1) ∧ exec .freeze s = .next (coded 1) ∧ exec .save s = .next (coded 1) ∧
      exec .regionRelease s = .next (coded 1)) ∧
    (∀ r, s.preRegion a.die = some r →
      (r.stop ≠ .none ∨ r.ended = true ∨ r.complete = true → exec .drydown s = .next (coded 2)) ∧
      (r.st = .running → r.stop = .none → r.ended = false → r.complete = false →
        exec .drydown s = .next (busy (s.updRegion r.id fun r => { r with st := .draining, stop := .drydown [], cause := .drydown }))) ∧
      (r.stop = .freeze ∨ r.ended = true ∨ r.complete = true → exec .freeze s = .next (coded 2)) ∧
      (r.st = .running ∨ r.st = .draining → r.stop ≠ .freeze → r.ended = false → r.complete = false →
        exec .freeze s = .next (busy (s.startFreeze r.id .request))) ∧
      (r.st = .frozen → exec .save s = .next (s.saveRegion r) ∧
        exec .regionRelease s = .next (((s.leaveTree r).endLaunch r 0x8005).preResult a.die 0)) ∧
      (r.st ≠ .frozen → exec .save s = .next (coded 2) ∧ exec .regionRelease s = .next (coded 2))) ∧
    exec .configSingleBitError s = .next (s.updCell (cellKey a.die a.x a.y) fun c => { c with ecc := { c.ecc with corr := satInc c.ecc.corr } }) ∧
    (∀ q p, (s.cell (cellKey a.die a.x a.y)).fences.find? (fun q => q.id = a.id) = some q →
      (s.cell (cellKey a.die a.x a.y)).fences.find? (fun p => p.firing.region = q.firing.region && p.firing.frm = q.firing.frm) = some p →
      (p.id ≠ q.id → exec .fenceComplete s = .next s) ∧
      (p.id = q.id → s.fenceOwes q = true ∨ q.hostRead = true → exec .fenceComplete s = .next s) ∧
      (p.id = q.id → s.fenceOwes q = false → q.hostRead = false →
        let marked := fun h : Fence → Fence => s.updCell q.firing.cell fun c => { c with fences := changeFirst (fun p => p.id = q.id) h c.fences }
        let asks := q.kind ≠ .acq ∧ q.scope = .system ∧ q.readDone = false ∧ (s.region q.firing.region).posted = true
        (q.scope = .device ∨ q.scope = .system → q.settled = false → s.acks ≠ [] →
          exec .fenceComplete s = .next (marked fun p => { p with settled := true, before := distinct (s.acks.map Ack.access) })) ∧
        (s.acks = [] → asks → exec .fenceComplete s = .next (marked fun p => { p with hostRead := true })) ∧
        (s.acks = [] → ¬ asks → exec .fenceComplete s = .next (s.endFence q)))) ∧
    (let ctx := s.hub.restore.ctx.toNat
     let va := s.hub.restore.img.toNat / 64 * 64
     let t := s.readFlacon va ctx
     (∀ reason, t.1 = .error reason → exec .restore s = .next (t.2.refuseRestore ctx va reason)) ∧
     (∀ bs img, t.1 = .ok (bs, img) → ∃ w : Waiting, w.ctx = ctx ∧ w.image = img ∧ w.flacon = some bs ∧
       w.dieMask = s.hub.restore.dieMask.toNat ∧ w.cfgVa = va + (flaconSection bs 0).1 ∧
       exec .restore s = .next ({ t.2 with hub := { t.2.hub with
         waiting := t.2.hub.waiting ++ [w], restore := { s.hub.restore with busy := true, refused := false } } }.placeWaiting))) ∧
    (∀ w bs p, s.restorePlace (sortBy waitsBefore s.hub.waiting) [] = some (w, bs, p) →
      exec .restorePlacement s = .next ((s.placeRestore w bs p.1 p.2.1 p.2.2).placeWaiting))

end Statements
end

