-- ==== Sys2Proof/Laws/Assoc.lean ====
section
/-!
SUPPORT. Laws of sparse tables and byte memories: a read after a write, and the canonical forms that every write keeps.
-/

namespace Sys2Proof.Machine

variable {α : Type} [DecidableEq α]

/-! ## Tables -/

/-- A key that comes before every listed key reads as the default. -/
theorem look_below (d : α) (k : Nat) (l : Assoc α) (h : tableWf d l = true) (hk : ∀ p ∈ l.head?, k < p.1) : look d l k = d := by
  induction l with
  | nil => rfl
  | cons p t ih =>
    obtain ⟨k', w⟩ := p
    have h1 : k < k' := hk (k', w) (by simp)
    have h2 : tableWf d t = true := by simp only [tableWf, Bool.and_eq_true] at h; exact h.2
    rw [look, if_neg (by omega)]
    apply ih h2
    intro q hq
    cases t with
    | nil => simp at hq
    | cons r u =>
      simp only [List.head?_cons, Option.mem_some_iff] at hq
      subst hq
      simp only [tableWf, Bool.and_eq_true, decide_eq_true_eq] at h
      omega

/-- The rest of a canonical table is canonical. -/
theorem tableWf_tail (d : α) (p : Nat × α) (t : Assoc α) (h : tableWf d (p :: t) = true) : tableWf d t = true := by
  obtain ⟨k, v⟩ := p
  simp only [tableWf, Bool.and_eq_true] at h
  exact h.2

/-- A key read after it was put reads as what was put. -/
theorem look_put_same (d : α) (k : Nat) (v : α) (l : Assoc α) (h : tableWf d l = true) : look d (put d k v l) k = v := by
  induction l with
  | nil => by_cases hv : v = d <;> simp [put, look, hv]
  | cons p t ih =>
    obtain ⟨k', w⟩ := p
    have ht := tableWf_tail d _ _ h
    unfold put
    split
    · split
      · rename_i h1 hv
        rw [hv]
        exact look_below d k _ h (by simpa using h1)
      · simp [look]
    · split
      · split
        · rename_i h1 h2 hv
          subst h2
          rw [hv]
          apply look_below d k _ ht
          intro q hq
          cases t with
          | nil => simp at hq
          | cons r u =>
            simp only [List.head?_cons, Option.mem_some_iff] at hq
            subst hq
            simp only [tableWf, Bool.and_eq_true, decide_eq_true_eq] at h
            exact h.1.2
        · simp [look]
      · rename_i h1 h2
        rw [look, if_neg h2]
        exact ih ht

/-- Every other key reads as before. -/
theorem look_put_other (d : α) (k j : Nat) (v : α) (l : Assoc α) (hj : j ≠ k) : look d (put d k v l) j = look d l j := by
  induction l with
  | nil => by_cases hv : v = d <;> simp [put, look, hv, hj]
  | cons p t ih =>
    obtain ⟨k', w⟩ := p
    unfold put
    split
    · split
      · rfl
      · simp [look, hj]
    · split
      · split
        · rename_i h2 _
          subst h2
          simp [look, hj]
        · rename_i h2 _
          subst h2
          simp [look, hj]
      · simp only [look, ih]

/-- A key read after it was changed reads as the change of what it read as. -/
theorem look_upd_same (d : α) (k : Nat) (f : α → α) (l : Assoc α) (h : tableWf d l = true) :
    look d (upd d k f l) k = f (look d l k) := look_put_same d k _ l h

/-- Every other key reads as before. -/
theorem look_upd_other (d : α) (k j : Nat) (f : α → α) (l : Assoc α) (hj : j ≠ k) :
    look d (upd d k f l) j = look d l j := look_put_other d k j _ l hj

/-- The keys that `put` leaves at the head of a table. -/
theorem head_put (d : α) (k : Nat) (v : α) (l : Assoc α) (b : Nat) (hb : b < k) (hl : ∀ p ∈ l.head?, b < p.1)
    (h : tableWf d l = true) : ∀ p ∈ (put d k v l).head?, b < p.1 := by
  intro p hp
  cases l with
  | nil =>
    by_cases hv : v = d
    · simp [put, hv] at hp
    · simp only [put, if_neg hv, List.head?_cons, Option.mem_some_iff] at hp
      subst hp
      exact hb
  | cons q t =>
    obtain ⟨k', w⟩ := q
    have h0 : b < k' := hl (k', w) (by simp)
    have ht : ∀ r ∈ t.head?, k' < r.1 := by
      intro r hr
      cases t with
      | nil => simp at hr
      | cons x u =>
        simp only [List.head?_cons, Option.mem_some_iff] at hr
        subst hr
        simp only [tableWf, Bool.and_eq_true, decide_eq_true_eq] at h
        exact h.1.2
    unfold put at hp
    split at hp
    · split at hp
      · simp only [List.head?_cons, Option.mem_some_iff] at hp; subst hp; exact h0
      · simp only [List.head?_cons, Option.mem_some_iff] at hp; subst hp; exact hb
    · split at hp
      · split at hp
        · exact Nat.lt_trans h0 (ht p hp)
        · simp only [List.head?_cons, Option.mem_some_iff] at hp; subst hp; exact hb
      · simp only [List.head?_cons, Option.mem_some_iff] at hp; subst hp; exact h0

/-- The canonical form of a table with its head apart. -/
theorem tableWf_cons (d : α) (k : Nat) (v : α) (t : Assoc α) :
    tableWf d ((k, v) :: t) = true ↔ v ≠ d ∧ (∀ p ∈ t.head?, k < p.1) ∧ tableWf d t = true := by
  cases t with
  | nil => simp [tableWf]
  | cons q u => simp [tableWf, and_assoc]

/-- `put` keeps the canonical form. -/
theorem tableWf_put (d : α) (k : Nat) (v : α) (l : Assoc α) (h : tableWf d l = true) : tableWf d (put d k v l) = true := by
  induction l with
  | nil => by_cases hv : v = d <;> simp [put, tableWf, hv]
  | cons p t ih =>
    obtain ⟨k', w⟩ := p
    obtain ⟨hw, hh, ht⟩ := (tableWf_cons d k' w t).1 h
    unfold put
    split
    · split
      · exact h
      · rename_i h1 hv
        exact (tableWf_cons _ _ _ _).2 ⟨hv, by simpa using h1, h⟩
    · split
      · split
        · exact ht
        · rename_i h1 h2 hv
          subst h2
          exact (tableWf_cons _ _ _ _).2 ⟨hv, hh, ht⟩
      · rename_i h1 h2
        exact (tableWf_cons _ _ _ _).2 ⟨hw, head_put d k v t k' (by omega) hh ht, ih ht⟩

/-- `upd` keeps the canonical form. -/
theorem tableWf_upd (d : α) (k : Nat) (f : α → α) (l : Assoc α) (h : tableWf d l = true) : tableWf d (upd d k f l) = true :=
  tableWf_put d k _ l h

/-! ## Byte memories -/

/-- A byte read after it was written is the byte written. -/
@[simp] theorem readByte_writeByte_same (a : Nat) (b : Byte) (m : List Host.Cell) : readByte (writeByte a b m) a = some b := by
  induction m with
  | nil => simp [writeByte, readByte]
  | cons p t ih =>
    obtain ⟨a', c⟩ := p
    unfold writeByte
    split
    · simp [readByte]
    · split
      · simp [readByte]
      · rename_i h1 h2
        rw [readByte, if_neg h2]
        exact ih

/-- Every other byte reads as before. -/
theorem readByte_writeByte_other (a x : Nat) (b : Byte) (m : List Host.Cell) (h : x ≠ a) :
    readByte (writeByte a b m) x = readByte m x := by
  induction m with
  | nil => simp [writeByte, readByte, h]
  | cons p t ih =>
    obtain ⟨a', c⟩ := p
    unfold writeByte
    split
    · simp [readByte, h]
    · split
      · rename_i h2
        subst h2
        simp [readByte, h]
      · simp only [readByte, ih]

/-- A byte outside a write reads as before. -/
theorem readByte_writeBytes_other (a x : Nat) (bs : List Byte) (m : List Host.Cell) (h : x < a ∨ a + bs.length ≤ x) :
    readByte (writeBytes a bs m) x = readByte m x := by
  induction bs generalizing a m with
  | nil => rfl
  | cons b t ih =>
    simp only [writeBytes, List.length_cons] at h ⊢
    rw [ih (a + 1) _ (by omega), readByte_writeByte_other a x b m (by omega)]

/-- A byte inside a write reads as the byte written there. -/
theorem readByte_writeBytes_same (a i : Nat) (bs : List Byte) (m : List Host.Cell) (h : i < bs.length) :
    readByte (writeBytes a bs m) (a + i) = some (bs[i]'h) := by
  induction bs generalizing a i m with
  | nil => simp at h
  | cons b t ih =>
    simp only [writeBytes]
    cases i with
    | zero =>
      rw [readByte_writeBytes_other (a + 1) _ t _ (by omega)]
      simp
    | succ j =>
      have hj : j < t.length := by simpa using h
      have := ih (a + 1) j (writeByte a b m) hj
      simpa [Nat.add_assoc, Nat.add_comm 1 j] using this

/-- The canonical form of a memory with its head apart. -/
theorem memoryWf_cons (a : Nat) (b : Byte) (m : List Host.Cell) :
    memoryWf ((a, b) :: m) = true ↔ (∀ p ∈ m.head?, a < p.1) ∧ memoryWf m = true := by
  cases m with
  | nil => simp [memoryWf]
  | cons q u => simp [memoryWf]

/-- The address that `writeByte` leaves at the head of a memory. -/
theorem head_writeByte (a : Nat) (b : Byte) (m : List Host.Cell) (c : Nat) (hc : c < a) (hm : ∀ p ∈ m.head?, c < p.1) :
    ∀ p ∈ (writeByte a b m).head?, c < p.1 := by
  intro p hp
  cases m with
  | nil => simp only [writeByte, List.head?_cons, Option.mem_some_iff] at hp; subst hp; exact hc
  | cons q t =>
    obtain ⟨a', w⟩ := q
    have h0 : c < a' := hm (a', w) (by simp)
    unfold writeByte at hp
    split at hp
    · simp only [List.head?_cons, Option.mem_some_iff] at hp; subst hp; exact hc
    · split at hp
      · simp only [List.head?_cons, Option.mem_some_iff] at hp; subst hp; exact hc
      · simp only [List.head?_cons, Option.mem_some_iff] at hp; subst hp; exact h0

/-- A write of one byte keeps the canonical form. -/
theorem memoryWf_writeByte (a : Nat) (b : Byte) (m : List Host.Cell) (h : memoryWf m = true) : memoryWf (writeByte a b m) = true := by
  induction m with
  | nil => simp [writeByte, memoryWf]
  | cons p t ih =>
    obtain ⟨a', c⟩ := p
    obtain ⟨hh, ht⟩ := (memoryWf_cons a' c t).1 h
    unfold writeByte
    split
    · rename_i h1
      exact (memoryWf_cons _ _ _).2 ⟨by simpa using h1, h⟩
    · split
      · rename_i h1 h2
        subst h2
        exact (memoryWf_cons _ _ _).2 ⟨hh, ht⟩
      · rename_i h1 h2
        exact (memoryWf_cons _ _ _).2 ⟨head_writeByte a b t a' (by omega) hh, ih ht⟩

/-- A write of bytes keeps the canonical form. -/
theorem memoryWf_writeBytes (a : Nat) (bs : List Byte) (m : List Host.Cell) (h : memoryWf m = true) :
    memoryWf (writeBytes a bs m) = true := by
  induction bs generalizing a m with
  | nil => exact h
  | cons b t ih => exact ih (a + 1) _ (memoryWf_writeByte a b m h)

/-- A memory without some of its bytes keeps the canonical form, and so do the addresses above one below its head. -/
theorem memoryWf_filter_above (p : Host.Cell → Bool) (m : List Host.Cell) (h : memoryWf m = true) :
    memoryWf (m.filter p) = true ∧ ∀ c : Nat, (∀ q ∈ m.head?, c < q.1) → ∀ q ∈ (m.filter p).head?, c < q.1 := by
  induction m with
  | nil => simp [memoryWf]
  | cons q t ih =>
    obtain ⟨a, b⟩ := q
    obtain ⟨hh, ht⟩ := (memoryWf_cons a b t).1 h
    obtain ⟨h1, h2⟩ := ih ht
    by_cases hp : p (a, b) = true
    · rw [List.filter_cons_of_pos hp]
      refine ⟨(memoryWf_cons _ _ _).2 ⟨h2 a hh, h1⟩, ?_⟩
      intro c hc q hq
      simp only [List.head?_cons, Option.mem_some_iff] at hq
      subst hq
      exact hc (a, b) (by simp)
    · rw [List.filter_cons_of_neg hp]
      refine ⟨h1, fun c hc => h2 c ?_⟩
      intro q hq
      exact Nat.lt_trans (hc (a, b) (by simp)) (hh q hq)

/-- A memory without some of its bytes keeps the canonical form. -/
theorem memoryWf_filter (p : Host.Cell → Bool) (m : List Host.Cell) (h : memoryWf m = true) : memoryWf (m.filter p) = true :=
  (memoryWf_filter_above p m h).1

/-! ## Bytes and numbers -/

/-- How many bytes a number is given in. -/
@[simp] theorem toBytes_length (n v : Nat) : (toBytes n v).length = n := by
  induction n generalizing v with
  | zero => rfl
  | succ n ih => simp [toBytes, ih]

/-- Bytes of a number read back. -/
theorem ofBytes_toBytes (n v : Nat) : ofBytes (toBytes n v) = v % 2 ^ (8 * n) := by
  induction n generalizing v with
  | zero => simp [toBytes, ofBytes, Nat.mod_one]
  | succ n ih =>
    simp only [toBytes, ofBytes, ih, BitVec.toNat_ofNat]
    have h : 2 ^ (8 * (n + 1)) = 256 * 2 ^ (8 * n) := by
      rw [show 8 * (n + 1) = 8 * n + 8 by omega, Nat.pow_add]; omega
    rw [h, Nat.mod_mul]

end Sys2Proof.Machine
end

