-- ==== Sys2Proof/Laws/Memory.lean ====
section
/-!
SUPPORT. Laws of device and host memory: every operation that writes a byte memory keeps its canonical form, a byte written under an
owner is read back under that owner, and a byte outside the line that is written reads as before.
-/

namespace Sys2Proof.Machine

/-- A fold whose every step keeps a property keeps it. -/
theorem foldl_keeps {σ β : Type} (p : σ → Prop) (f : σ → β → σ) (h : ∀ s b, p s → p (f s b)) (l : List β) (s : σ) (hs : p s) :
    p (l.foldl f s) := by
  induction l generalizing s with
  | nil => exact hs
  | cons b t ih => exact ih _ (h s b hs)

/-- The two memories of a canonical state. -/
theorem State.memForm_iff (s : State) : s.memForm = true ↔ memoryWf s.mem = true ∧ memoryWf s.hostMem = true := by
  simp [State.memForm]

/-- The memories at reset are canonical. -/
theorem reset_memForm : State.reset.memForm = true := rfl

/-! ## Writes keep the canonical form -/

theorem State.writeBack_memForm (s : State) (c : CLine) (h : s.memForm = true) : (s.writeBack c).memForm = true := by
  rw [memForm_iff] at h ⊢
  exact ⟨memoryWf_writeBytes _ _ _ h.1, h.2⟩

theorem State.ownLine_memForm (s : State) (o : Owner) (line : Nat) (h : s.memForm = true) : (s.ownLine o line).memForm = true := by
  unfold ownLine
  split
  · exact s.writeBack_memForm _ h
  · split
    · exact h
    · split
      · exact s.writeBack_memForm _ h
      · exact h

theorem State.devPut_memForm (s : State) (o : Owner) (dpa : Nat) (bs : List Byte) (h : s.memForm = true) :
    (s.devPut o dpa bs).memForm = true := by
  have k := s.ownLine_memForm o (dpa / 64) h
  unfold devPut
  split
  · rw [memForm_iff] at k ⊢
    exact ⟨memoryWf_writeBytes _ _ _ k.1, k.2⟩
  · exact h

theorem State.devWriteLine_memForm (s : State) (o : Owner) (dpa : Nat) (bs : List Byte) (h : s.memForm = true) :
    (s.devWriteLine o dpa bs).memForm = true := s.devPut_memForm o dpa bs h

theorem State.devWrite_memForm (s : State) (o : Owner) (dpa : Nat) (bs : List Byte) (h : s.memForm = true) :
    (s.devWrite o dpa bs).memForm = true :=
  foldl_keeps (fun s : State => s.memForm = true) _ (fun s _ k => s.devWriteLine_memForm o _ _ k) _ s h

theorem State.hostWrite_memForm (s : State) (a : Nat) (bs : List Byte) (h : s.memForm = true) : (s.hostWrite a bs).memForm = true := by
  rw [memForm_iff] at h ⊢
  exact ⟨h.1, memoryWf_writeBytes _ _ _ h.2⟩

theorem State.setEntryBits_memForm (s : State) (dpa mask : Nat) (h : s.memForm = true) : (s.setEntryBits dpa mask).memForm = true := by
  unfold setEntryBits
  dsimp only
  split
  · exact h
  · exact s.devWrite_memForm _ _ _ h

theorem State.setAccessed_memForm (s : State) (path : List Nat) (write : Bool) (h : s.memForm = true) :
    (s.setAccessed path write).memForm = true := by
  unfold setAccessed
  split
  · exact h
  · have k := foldl_keeps (fun s : State => s.memForm = true) (fun s a => s.setEntryBits a 0x40)
      (fun s a k => s.setEntryBits_memForm a _ k) path s h
    dsimp only
    split
    · exact State.setEntryBits_memForm _ _ _ k
    · exact k

theorem State.vaReadLine_memForm (s : State) (ctx va n : Nat) (h : s.memForm = true) (q : List Byte × State)
    (hq : s.vaReadLine ctx va n = .ok q) : q.2.memForm = true := by
  unfold vaReadLine at hq
  split at hq
  · cases hq
  · split at hq
    · cases hq
    · cases hq
      exact s.setAccessed_memForm _ _ h

theorem State.vaReadParts_memForm (ctx : Nat) (l : List (Nat × Nat × Nat)) (s : State) (h : s.memForm = true) (q : List Byte × State)
    (hq : s.vaReadParts ctx l = .ok q) : q.2.memForm = true := by
  induction l generalizing s q with
  | nil => cases hq; exact h
  | cons p t ih =>
    unfold vaReadParts at hq
    split at hq
    · cases hq
    · rename_i bs u hu
      split at hq
      · cases hq
      · rename_i bs' v hv
        cases hq
        exact ih u (s.vaReadLine_memForm _ _ _ h _ hu) (bs', v) hv

/-- A read by VA writes A bits alone, and keeps the form. -/
theorem State.vaRead_memForm (s : State) (ctx va n : Nat) (h : s.memForm = true) (q : List Byte × State)
    (hq : s.vaRead ctx va n = .ok q) : q.2.memForm = true := vaReadParts_memForm ctx _ s h q hq

theorem State.vaWriteLine_memForm (s : State) (ctx va : Nat) (bs : List Byte) (h : s.memForm = true) (t : State)
    (ht : s.vaWriteLine ctx va bs = .ok t) : t.memForm = true := by
  unfold vaWriteLine at ht
  split at ht
  · cases ht
  · split at ht
    · cases ht
    · have k := s.setAccessed_memForm (‹WalkEnd› : WalkEnd).path true h
      simp only [Except.ok.injEq] at ht
      subst ht
      split
      · exact State.hostWrite_memForm _ _ _ k
      · exact State.devWrite_memForm _ _ _ _ k

theorem State.vaWriteParts_memForm (ctx : Nat) (bs : List Byte) (l : List (Nat × Nat × Nat)) (s : State) (h : s.memForm = true) :
    (s.vaWriteParts ctx bs l).1.memForm = true := by
  induction l generalizing s with
  | nil => exact h
  | cons q t ih =>
    unfold vaWriteParts
    split
    · exact h
    · rename_i u hu
      exact ih u (s.vaWriteLine_memForm _ _ _ h u hu)

/-- A write by VA keeps the form, whether or not it faults. -/
theorem State.vaWrite_memForm (s : State) (ctx va : Nat) (bs : List Byte) (h : s.memForm = true) :
    (s.vaWrite ctx va bs).1.memForm = true := vaWriteParts_memForm ctx bs _ s h

/-! ## A read after a write -/

/-- A copy that an owner's accesses find is of that line and that owner (R83). -/
theorem State.freshCopy_owner (s : State) (o : Owner) (line : Nat) (c : CLine) (h : s.freshCopy o line = some c) :
    c.line = line ∧ c.owner = o := by
  unfold freshCopy at h
  have k := List.find?_some h
  simp only [Bool.and_eq_true, decide_eq_true_eq] at k
  exact k.1

/-- Writing a line back leaves every copy in the caches. -/
@[simp] theorem State.writeBack_caches (s : State) (c : CLine) : (s.writeBack c).caches = s.caches := rfl

/-- Writing a line back leaves the hub. -/
@[simp] theorem State.writeBack_hub (s : State) (c : CLine) : (s.writeBack c).hub = s.hub := rfl

/-- Taking a line over leaves every copy in the caches. -/
@[simp] theorem State.ownLine_caches (s : State) (o : Owner) (line : Nat) : (s.ownLine o line).caches = s.caches := by
  unfold ownLine
  split
  · exact s.writeBack_caches _
  · split
    · exact Eq.refl s.caches
    · split
      · exact s.writeBack_caches _
      · exact Eq.refl s.caches

/-- Taking a line over leaves the hub. -/
@[simp] theorem State.ownLine_hub (s : State) (o : Owner) (line : Nat) : (s.ownLine o line).hub = s.hub := by
  unfold ownLine
  split
  · exact s.writeBack_hub _
  · split
    · exact Eq.refl s.hub
    · split
      · exact s.writeBack_hub _
      · exact Eq.refl s.hub

/-- A write of the hub or an engine to device memory leaves the hub. -/
@[simp] theorem State.devWriteLine_hub (s : State) (o : Owner) (dpa : Nat) (bs : List Byte) :
    (s.devWriteLine o dpa bs).hub = s.hub := by
  unfold devWriteLine devPut
  dsimp only
  split
  · exact s.ownLine_hub o _
  · rfl

/-- Which addresses are reached is the hub's to say (R237). -/
theorem State.reached_of_hub (s t : State) (dpa : Nat) (h : t.hub = s.hub) : t.reached dpa = s.reached dpa := by
  simp only [reached, dieUp, homeDieOf, h]

/-- A line taken over is its new owner's. -/
theorem State.ownLine_owner (s : State) (o : Owner) (line : Nat) (h : tableWf none s.lineOwner = true) :
    look none (s.ownLine o line).lineOwner line = o := by
  unfold ownLine
  split
  · rename_i c hc
    obtain ⟨hl, ho⟩ := s.freshCopy_owner o line c hc
    rw [writeBack, hl, ho]
    exact look_put_same _ _ _ _ h
  · split
    · assumption
    · split
      · exact look_put_same _ _ _ _ h
      · exact look_put_same _ _ _ _ h

/-- Taking a line over leaves the owners of the other lines. -/
theorem State.ownLine_owner_other (s : State) (o : Owner) (line other : Nat) (h : other ≠ line) :
    look none (s.ownLine o line).lineOwner other = look none s.lineOwner other := by
  unfold ownLine
  split
  · rename_i c hc
    rw [writeBack, (s.freshCopy_owner o line c hc).1]
    exact look_put_other _ _ _ _ _ h
  · split
    · rfl
    · split
      · exact look_put_other _ _ _ _ _ h
      · exact look_put_other _ _ _ _ _ h

/-- R75, R82, R237: bytes that the hub or an engine stores at a populated address of a die that is up read back under their owner. -/
theorem State.devByte_devWriteLine_same (s : State) (o : Owner) (dpa i : Nat) (bs : List Byte) (hp : s.populated dpa = true)
    (hr : s.reached dpa = true) (hr' : s.reached (dpa + i) = true)
    (hw : tableWf none s.lineOwner = true) (hi : i < bs.length) (hl : dpa % 64 + bs.length ≤ 64) :
    (s.devWriteLine o dpa bs).devByte o (dpa + i) = bs[i]'hi := by
  have hd : (dpa + i) / 64 = dpa / 64 := by omega
  have ho := s.ownLine_owner o (dpa / 64) hw
  have hreach : (s.devWriteLine o dpa bs).reached (dpa + i) = true := by
    rw [s.reached_of_hub _ _ (s.devWriteLine_hub o dpa bs), hr']
  have hfresh : (s.devWriteLine o dpa bs).freshCopy o ((dpa + i) / 64) = none := by
    rw [hd]
    simp only [freshCopy, List.find?_eq_none, devWriteLine, List.mem_filter]
    intro c hc
    have := hc.2
    simp_all
  rw [devByte, hreach, hfresh]
  simp only [Bool.not_true, Bool.false_eq_true, if_false, memByte, hd]
  have how : look none (s.devWriteLine o dpa bs).lineOwner (dpa / 64) = o := by
    simpa only [devWriteLine, devPut, hp, hr, Bool.and_self, if_true] using ho
  rw [if_pos how, ownedByte]
  have hm : readByte (s.devWriteLine o dpa bs).mem (dpa + i) = some (bs[i]'hi) := by
    simp only [devWriteLine, devPut, hp, hr, Bool.and_self, if_true]
    exact readByte_writeBytes_same dpa i bs _ hi
  rw [hm]

/-- Writing a line back leaves every byte of memory outside it. -/
theorem State.readByte_writeBack_other (s : State) (c : CLine) (a : Nat) (ha : a / 64 ≠ c.line) :
    readByte (s.writeBack c).mem a = readByte s.mem a := by
  rw [writeBack]
  refine readByte_writeBytes_other _ _ _ _ ?_
  have h : c.bytes.length = 64 := by simp [CLine.bytes]
  omega

/-- A write to device memory leaves every byte of memory outside its line. -/
theorem State.readByte_devPut_other (s : State) (o : Owner) (dpa a : Nat) (bs : List Byte) (hl : dpa % 64 + bs.length ≤ 64)
    (ha : a / 64 ≠ dpa / 64) : readByte (s.devPut o dpa bs).mem a = readByte s.mem a := by
  unfold devPut
  split
  · rw [readByte_writeBytes_other _ _ _ _ (by omega)]
    unfold ownLine
    split
    · rename_i c hc
      exact s.readByte_writeBack_other c a (by rw [(s.freshCopy_owner _ _ _ hc).1]; exact ha)
    · split
      · rfl
      · split
        · exact s.readByte_writeBack_other _ a ha
        · rfl
  · rfl

/-- R76: an unpopulated address discards what is written. -/
theorem State.devPut_unpopulated (s : State) (o : Owner) (dpa : Nat) (bs : List Byte) (h : s.populated dpa = false) :
    s.devPut o dpa bs = s := by
  simp [devPut, h]

/-- Host bytes written read back. -/
theorem State.hostByte_hostWrite_same (s : State) (a i : Nat) (bs : List Byte) (h : i < bs.length) :
    (s.hostWrite a bs).hostByte (a + i) = bs[i]'h := by
  simp [hostWrite, hostByte, readByte_writeBytes_same a i bs _ h]

/-- Every other host byte reads as before. -/
theorem State.hostByte_hostWrite_other (s : State) (a x : Nat) (bs : List Byte) (h : x < a ∨ a + bs.length ≤ x) :
    (s.hostWrite a bs).hostByte x = s.hostByte x := by
  simp [hostWrite, hostByte, readByte_writeBytes_other a x bs _ h]

end Sys2Proof.Machine
end

