-- ==== Sys2Proof/Laws/Ops.lean ====
section
/-!
SUPPORT. What the shared operations of the firings answer: `fire`, `finish`, `startLate`, `putBack` and `takeTrap`, each case once.
-/

namespace Sys2Proof.Machine

/-! ## The predicate (R190) -/

/-- A firing that its predicate turns away changes nothing. -/
@[simp] theorem State.fire_failed (s : State) (pd : Pd) (m : Firing → State → Result) (h : s.sch.cur.passes pd = false) :
    s.fire pd m = .next s := by
  simp [State.fire, h]

/-- A firing that its predicate lets pass is what its meaning makes of it. -/
@[simp] theorem State.fire_passed (s : State) (pd : Pd) (m : Firing → State → Result) (h : s.sch.cur.passes pd = true) :
    s.fire pd m = m s.sch.cur s := by
  simp [State.fire, h]

/-- A firing answers a next state where its meaning does. -/
theorem State.fire_next (s : State) (pd : Pd) (m : Firing → State → Result) (h : ∀ f s, ∃ t, m f s = .next t) :
    ∃ t, s.fire pd m = .next t := by
  unfold State.fire
  split
  · exact h _ _
  · exact ⟨s, rfl⟩

/-! ## Results at once (R191) -/

/-- Where its targets are ready, a firing raises its flags and sends its results after its effect. -/
@[simp] theorem State.finish_ready (s : State) (f : Firing) (l : List (Target × Val)) (fl : BitVec 5) (eff : State → State)
    (h : s.canSend f l = true) : s.finish f l fl eff = .next (((eff s).raise f fl).sendAll f f.acc.tag false l) := by
  simp [State.finish, h]

/-- Where a target is not ready, the accord waits. -/
@[simp] theorem State.finish_waits (s : State) (f : Firing) (l : List (Target × Val)) (fl : BitVec 5) (eff : State → State)
    (h : s.canSend f l = false) : s.finish f l fl eff = .next (s.putBack f) := by
  simp [State.finish, h]

/-- A firing with results at once answers one of the two. -/
theorem State.finish_cases (s t : State) (f : Firing) (l : List (Target × Val)) (fl : BitVec 5) (eff : State → State)
    (h : s.finish f l fl eff = .next t) :
    (s.canSend f l = true ∧ t = ((eff s).raise f fl).sendAll f f.acc.tag false l) ∨ (s.canSend f l = false ∧ t = s.putBack f) := by
  cases hc : s.canSend f l
  · rw [State.finish_waits s f l fl eff hc] at h; cases h; exact .inr ⟨rfl, rfl⟩
  · rw [State.finish_ready s f l fl eff hc] at h; cases h; exact .inl ⟨rfl, rfl⟩

/-- No flag leaves the state. -/
@[simp] theorem State.raise_none (s : State) (f : Firing) : s.raise f 0 = s := by simp [State.raise]

/-- No result leaves the state. -/
@[simp] theorem State.sendAll_nil (s : State) (f : Firing) (tag : Tag) (paid : Bool) : s.sendAll f tag paid [] = s := rfl

/-! ## Results that land later (R127, R190) -/

/-- A late result that takes no input-queue entry: room taken, then the effect. -/
@[simp] theorem State.startLate_ready (s : State) (f : Firing) (targets : List Target) (len : Nat) (eff : Pool → State → State)
    (h : s.canSend f (later targets len) = true) :
    s.startLate f targets len false eff = .next (eff .none (s.reserve f targets len)) := by
  simp [State.startLate, h]

/-- A late result that takes an input-queue entry: the entry, then room, then the effect. -/
theorem State.startLate_entry (s q : State) (f : Firing) (targets : List Target) (len : Nat) (eff : Pool → State → State) (p : Pool)
    (h : s.canSend f (later targets len) = true) (hq : s.takeEntry f.cell f.region = some (p, q)) :
    s.startLate f targets len true eff = .next (eff p (q.reserve f targets len)) := by
  simp [State.startLate, h, hq]

/-- Without an input-queue entry the accord waits. -/
theorem State.startLate_noEntry (s : State) (f : Firing) (targets : List Target) (len : Nat) (eff : Pool → State → State)
    (hq : s.takeEntry f.cell f.region = none) : s.startLate f targets len true eff = .next (s.putBack f) := by
  unfold State.startLate
  split
  · simp [hq]
  · rfl

/-- Where a target is not ready, the accord waits. -/
@[simp] theorem State.startLate_waits (s : State) (f : Firing) (targets : List Target) (len : Nat) (mesh : Bool)
    (eff : Pool → State → State) (h : s.canSend f (later targets len) = false) :
    s.startLate f targets len mesh eff = .next (s.putBack f) := by
  simp [State.startLate, h]

/-- A firing whose result lands later answers a next state. -/
theorem State.startLate_next (s : State) (f : Firing) (targets : List Target) (len : Nat) (mesh : Bool) (eff : Pool → State → State) :
    ∃ t, s.startLate f targets len mesh eff = .next t := by
  unfold State.startLate
  split
  · split
    · split
      · exact ⟨_, rfl⟩
      · exact ⟨_, rfl⟩
    · exact ⟨_, rfl⟩
  · exact ⟨_, rfl⟩

/-! ## An accord put back, and a trap taken -/

/-- An accord put back is the first of its cell's waiting accords. -/
theorem State.putBack_waiting (s : State) (f : Firing) (h : tableWf {} s.cells = true) :
    ((s.putBack f).cell f.cell).waiting = f.acc :: (s.cell f.cell).waiting := by
  simp only [State.putBack, State.updCell, State.cell]
  rw [look_upd_same _ _ _ _ h]

/-- An accord put back leaves the other cells. -/
theorem State.putBack_otherCell (s : State) (f : Firing) (k : Nat) (h : k ≠ f.cell) : (s.putBack f).cell k = s.cell k := by
  simp only [State.putBack, State.updCell, State.cell]
  exact look_upd_other _ _ _ _ _ h

/-- A trap taken answers the state with its fault report (R121, R375). -/
theorem State.takeTrap_next (s : State) (f : Firing) (cls : FaultClass) (code operand : Nat) :
    s.takeTrap f cls code operand = .next (s.report f true cls (code % 2 ^ 32 + operand % 2 ^ 64 * 2 ^ 32)) := rfl

end Sys2Proof.Machine
end

