-- ==== Sys2Proof/Laws/PerInstr.lean ====
section
/-!
SUPPORT. The family `ReadRaw`, one lemma per constructor of `Instr`: the fields that the encoder writes for a well-formed instruction
(R278, R282 to R289) are read as that instruction.
-/

namespace Sys2Proof.Laws

open Sys2Proof

/-! ## The parts of a word -/

/-- The low bits of a number read back as the field that they hold. -/
theorem ofNat_low {n : Nat} (v : BitVec n) (x : Nat) (h : x % 2 ^ n = v.toNat) : BitVec.ofNat n x = v :=
  BitVec.eq_of_toNat_eq (by simpa using h)

theorem readTarget_code (t : Target) : readTarget t.code = .ok t := by
  cases t with
  | slot port adv s =>
    have hs := s.isLt
    have h0 : BitVec.ofNat 6 (bitField (Target.slot port adv s).code 0 6) = s :=
      ofNat_low s _ (by cases port <;> cases adv <;> simp [bitField, Target.code, Port.code, boolCode] <;> omega)
    have h1 : (bitField (Target.slot port adv s).code 6 1 == 1) = adv := by
      cases port <;> cases adv <;> simp [bitField, Target.code, Port.code, boolCode] <;> omega
    have h2 : bitField (Target.slot port adv s).code 7 2 = port.code := by
      cases port <;> cases adv <;> simp [bitField, Target.code, Port.code, boolCode] <;> omega
    cases port <;> simp only [readTarget, h0, h1, h2, Port.code]
  | arc n =>
    have hn := n.isLt
    have h2 : bitField n.toNat 7 2 = 0 := by simp only [bitField]; omega
    have h0 : bitField n.toNat 0 7 = n.toNat := by simp only [bitField]; omega
    simp only [readTarget, Target.code, h0, h2]
    rw [if_pos (by omega), ofNat_low n _ (by omega)]
  | hold h =>
    have hn := h.isLt
    have h2 : bitField (0x40 + h.toNat) 7 2 = 0 := by simp only [bitField]; omega
    have h0 : bitField (0x40 + h.toNat) 0 7 = 0x40 + h.toNat := by simp only [bitField]; omega
    simp only [readTarget, Target.code, h0, h2]
    rw [if_neg (by omega), if_pos (by omega), ofNat_low h _ (by omega)]
  | discard => rfl

theorem readCt_code (k : Completion) : readCt k.code = .ok k := by
  cases k with
  | none => rfl
  | slot port s =>
    have hs := s.isLt
    have h0 : BitVec.ofNat 6 (bitField (Completion.slot port s).code 0 6) = s :=
      ofNat_low s _ (by cases port <;> simp [bitField, Completion.code, Port.code] <;> omega)
    have h2 : bitField (Completion.slot port s).code 6 2 = port.code := by
      cases port <;> simp [bitField, Completion.code, Port.code] <;> omega
    cases port <;> simp only [readCt, h0, h2, Port.code]

theorem boolCode_false : boolCode false = 0 := rfl
theorem boolCode_true : boolCode true = 1 := rfl

theorem readPd_code (p : Pd) : readPd p.code = .ok p := by cases p <;> rfl

theorem readFt_code (f : FloatFmt) : readFt f.code = .ok f := by cases f <;> rfl

/-- One bit of a number above the bits below it. -/
theorem bitField_bool (b : Bool) (n x : Nat) (h : x < 2 ^ n) : (bitField (2 ^ n * boolCode b + x) n 1 == 1) = b := by
  have k : (2 ^ n * boolCode b + x) / 2 ^ n = boolCode b := by
    rw [Nat.mul_add_div (Nat.two_pow_pos n), Nat.div_eq_of_lt h, Nat.add_zero]
  rw [bitField, k]
  cases b <;> rfl

/-! ## The shapes of the formats -/

theorem gWord_read (c : Pd → Target → Target → Instr) (p : Pd) (b a : Target) : gWord c p.code b.code a.code = .ok (c p b a) := by
  simp only [gWord, readPd_code, readTarget_code]; rfl

theorem gWord3_read (c : Target → Target → Instr) (b a : Target) : gWord3 c 3 b.code a.code = .ok (c b a) := by
  simp only [gWord3, readTarget_code]; rfl

theorem gSink_read (c : Pd → Instr) (p : Pd) : gSink c p.code 0x7F 0x7F = .ok (c p) := by
  simp only [gSink, readPd_code]; rfl

theorem iWord_read (c : Pd → Target → Instr) (p : Pd) (a : Target) : iWord c p.code a.code = .ok (c p a) := by
  simp only [iWord, readPd_code, readTarget_code]; rfl

theorem iWordR_read (c : Pd → Target → Instr) (r : Nat) (p : Pd) (a : Target) (h : r = 0) : iWordR c r p.code a.code = .ok (c p a) := by
  simp only [iWordR, readPd_code, readTarget_code, h]; rfl

theorem floatWord_read (c : Pd → FloatFmt → Rm → Target → Target → Instr) (f : FloatFmt) (m : Rm) (p : Pd) (b a : Target) :
    floatWord c (8 * f.code + m.code) p.code b.code a.code = .ok (c p f m b a) := by
  cases f <;> cases m <;> (simp only [floatWord, readPd_code, readTarget_code]; rfl)

theorem cvtWord_read (d : FloatFmt) (c : Pd → FloatFmt → Rm → Target → Target → Instr) (f : FloatFmt) (m : Rm) (p : Pd) (b a : Target)
    (h : f ≠ d) : cvtWord d c (8 * f.code + m.code) p.code b.code a.code = .ok (c p f m b a) := by
  have hx : readFt (bitField (8 * f.code + m.code) 3 2) = .ok f := by cases f <;> cases m <;> rfl
  have hd : assigned (f != d) = .ok () := by simp [assigned, h]
  simp only [cvtWord, hx]
  change (assigned (f != d) >>= fun _ => floatWord c _ _ _ _) = _
  rw [hd]
  exact floatWord_read c f m p b a

theorem floatWordV_read0 (c0 c1 : Pd → FloatFmt → Target → Target → Instr) (f : FloatFmt) (p : Pd) (b a : Target) :
    floatWordV c0 c1 (8 * f.code) p.code b.code a.code = .ok (c0 p f b a) := by
  cases f <;> (simp only [floatWordV, readPd_code, readTarget_code]; rfl)

theorem floatWordV_read1 (c0 c1 : Pd → FloatFmt → Target → Target → Instr) (f : FloatFmt) (p : Pd) (b a : Target) :
    floatWordV c0 c1 (4 + 8 * f.code) p.code b.code a.code = .ok (c1 p f b a) := by
  cases f <;> (simp only [floatWordV, readPd_code, readTarget_code]; rfl)

theorem floatWord1_read (c : Pd → FloatFmt → Target → Target → Instr) (f : FloatFmt) (p : Pd) (b a : Target) :
    floatWord1 c (8 * f.code) p.code b.code a.code = .ok (c p f b a) := by
  cases f <;> (simp only [floatWord1, readPd_code, readTarget_code]; rfl)

theorem mWord_read (c : Pd → BitVec 5 → BitVec 2 → BitVec 2 → BitVec 5 → Target → Instr) (p : Pd) (q : BitVec 5) (v n : BitVec 2)
    (o : BitVec 5) (a : Target) : mWord c p.code q.toNat v.toNat n.toNat o.toNat a.code = .ok (c p q v n o a) := by
  simp only [mWord, readPd_code, readTarget_code, BitVec.ofNat_toNat, BitVec.setWidth_eq]; rfl

theorem tWord_read (c : Pd → Completion → Instr) (p : Pd) (k : Completion) : tWord c 0 p.code k.code = .ok (c p k) := by
  simp only [tWord, readPd_code, readCt_code]; rfl

/-- A word of two targets and nothing else. -/
theorem two_read (c : Target → Target → Instr) (b a : Target) :
    (do let b ← readTarget b.code; let a ← readTarget a.code; return c b a : Except WordCheck Instr) = .ok (c b a) := by
  simp only [readTarget_code]; rfl

/-! ## The family -/

/-- The fields that the encoder writes for `i` are read as `i`, where it is well formed. -/
def ReadRaw.Statement (i : Instr) : Prop := i.wf = true → ∀ r, i.raw = some r → r.read = .ok i

theorem ReadRaw.nop (pd : Pd) : ReadRaw.Statement (.nop pd) := by
  intro _ r h; cases h
  exact gSink_read _ pd

theorem ReadRaw.mov (pd : Pd) (t1 t0 : Target) : ReadRaw.Statement (.mov pd t1 t0) := by
  intro _ r h; cases h
  exact gWord_read _ pd t1 t0

theorem ReadRaw.lit (pd : Pd) (imm : BitVec 14) (t0 : Target) : ReadRaw.Statement (.lit pd imm t0) := by
  intro _ r h; cases h
  refine Eq.trans (iWord_read _ pd t0) ?_
  simp only [BitVec.ofNat_toNat, BitVec.setWidth_eq]

theorem ReadRaw.lit32 (pd : Pd) (t1 t0 : Target) : ReadRaw.Statement (.lit32 pd t1 t0) := by
  intro _ r h; cases h
  exact gWord_read _ pd t1 t0

theorem ReadRaw.steer (pd : Pd) (t1 t0 : Target) : ReadRaw.Statement (.steer pd t1 t0) := by
  intro _ r h; cases h
  exact gWord_read _ pd t1 t0

theorem ReadRaw.gate (pd : Pd) (t1 t0 : Target) : ReadRaw.Statement (.gate pd t1 t0) := by
  intro _ r h; cases h
  exact gWord_read _ pd t1 t0

theorem ReadRaw.gaten (pd : Pd) (t1 t0 : Target) : ReadRaw.Statement (.gaten pd t1 t0) := by
  intro _ r h; cases h
  exact gWord_read _ pd t1 t0

theorem ReadRaw.merge (t1 t0 : Target) : ReadRaw.Statement (.merge t1 t0) := by
  intro _ r h; cases h
  exact two_read Instr.merge t1 t0

theorem ReadRaw.sync (pd : Pd) (t1 t0 : Target) : ReadRaw.Statement (.sync pd t1 t0) := by
  intro _ r h; cases h
  exact gWord_read _ pd t1 t0

theorem ReadRaw.iter (pd : Pd) (t1 t0 : Target) : ReadRaw.Statement (.iter pd t1 t0) := by
  intro _ r h; cases h
  exact gWord_read _ pd t1 t0

theorem ReadRaw.nextIter (pd : Pd) (t1 t0 : Target) : ReadRaw.Statement (.nextIter pd t1 t0) := by
  intro _ r h; cases h
  exact gWord_read _ pd t1 t0

theorem ReadRaw.retire (pd : Pd) (t1 t0 : Target) : ReadRaw.Statement (.retire pd t1 t0) := by
  intro _ r h; cases h
  exact gWord_read _ pd t1 t0

theorem ReadRaw.frame (pd : Pd) (level : BitVec 3) (t1 t0 : Target) : ReadRaw.Statement (.frame pd level t1 t0) := by
  intro _ r h; cases h
  have hl := level.isLt
  have h3 : bitField level.toNat 3 1 = 0 := by simp only [bitField]; omega
  have h4 : bitField level.toNat 4 1 = 0 := by simp only [bitField]; omega
  have h0 : bitField level.toNat 0 3 = level.toNat := by simp only [bitField]; omega
  simp only [Raw.read, readG, readPd_code, readTarget_code, h3, h4, h0, BitVec.ofNat_toNat, BitVec.setWidth_eq]
  rfl

theorem ReadRaw.fret (pd : Pd) (t1 t0 : Target) : ReadRaw.Statement (.fret pd t1 t0) := by
  intro _ r h; cases h
  cases pd <;> exact two_read (Instr.fret _) t1 t0

theorem ReadRaw.send (pd : Pd) : ReadRaw.Statement (.send pd) := by
  intro _ r h; cases h
  exact gSink_read _ pd

theorem ReadRaw.sendm (pd : Pd) : ReadRaw.Statement (.sendm pd) := by
  intro _ r h; cases h
  exact gSink_read _ pd

theorem ReadRaw.cnt (pd : Pd) (t1 t0 : Target) : ReadRaw.Statement (.cnt pd t1 t0) := by
  intro _ r h; cases h
  exact gWord_read _ pd t1 t0

theorem ReadRaw.bound (pd : Pd) (t1 t0 : Target) : ReadRaw.Statement (.bound pd t1 t0) := by
  intro _ r h; cases h
  exact gWord_read _ pd t1 t0

theorem ReadRaw.tagrd (pd : Pd) (t1 t0 : Target) : ReadRaw.Statement (.tagrd pd t1 t0) := by
  intro _ r h; cases h
  exact gWord_read _ pd t1 t0

theorem ReadRaw.qlvl (pd : Pd) (t1 t0 : Target) : ReadRaw.Statement (.qlvl pd t1 t0) := by
  intro _ r h; cases h
  exact gWord_read _ pd t1 t0

theorem ReadRaw.rdh (pd : Pd) (trapE : Bool) (h : BitVec 5) (t0 : Target) : ReadRaw.Statement (.rdh pd trapE h t0) := by
  intro _ r h; cases h
  have hv := h.isLt
  cases trapE with
  | false =>
    have hs : bitField (2048 * boolCode false + h.toNat) 12 2 = 0 := by simp only [bitField, boolCode_false]; omega
    have hr : bitField (2048 * boolCode false + h.toNat) 5 6 = 0 := by simp only [bitField, boolCode_false]; omega
    have hb : (bitField (2048 * boolCode false + h.toNat) 11 1 == 1) = false := by simp [bitField, boolCode_false]; omega
    simp only [Raw.read, readI, hs]
    rw [iWordR_read _ _ pd t0 hr, ofNat_low h _ (by simp only [boolCode_false]; omega), hb]
  | true =>
    have hs : bitField (2048 * boolCode true + h.toNat) 12 2 = 0 := by simp only [bitField, boolCode_true]; omega
    have hr : bitField (2048 * boolCode true + h.toNat) 5 6 = 0 := by simp only [bitField, boolCode_true]; omega
    have hb : (bitField (2048 * boolCode true + h.toNat) 11 1 == 1) = true := by simp [bitField, boolCode_true]; omega
    simp only [Raw.read, readI, hs]
    rw [iWordR_read _ _ pd t0 hr, ofNat_low h _ (by simp only [boolCode_true]; omega), hb]

theorem ReadRaw.wrh (pd : Pd) (h : BitVec 5) (t0 : Target) : ReadRaw.Statement (.wrh pd h t0) := by
  intro _ r h; cases h
  have hv := h.isLt
  have hs : bitField (0x1000 + h.toNat) 12 2 = 1 := by simp only [bitField]; omega
  have hr : bitField (0x1000 + h.toNat) 5 7 = 0 := by simp only [bitField]; omega
  simp only [Raw.read, readI, hs]
  rw [iWordR_read _ _ pd t0 hr, ofNat_low h _ (by omega)]

theorem ReadRaw.clrh (pd : Pd) (h : BitVec 5) (t0 : Target) : ReadRaw.Statement (.clrh pd h t0) := by
  intro _ r h; cases h
  have hv := h.isLt
  have hs : bitField (0x2000 + h.toNat) 12 2 = 2 := by simp only [bitField]; omega
  have hr : bitField (0x2000 + h.toNat) 5 7 = 0 := by simp only [bitField]; omega
  simp only [Raw.read, readI, hs]
  rw [iWordR_read _ _ pd t0 hr, ofNat_low h _ (by omega)]

theorem ReadRaw.tsth (pd : Pd) (h : BitVec 5) (t0 : Target) : ReadRaw.Statement (.tsth pd h t0) := by
  intro _ r h; cases h
  have hv := h.isLt
  have hs : bitField (0x3000 + h.toNat) 12 2 = 3 := by simp only [bitField]; omega
  have hr : bitField (0x3000 + h.toNat) 5 7 = 0 := by simp only [bitField]; omega
  simp only [Raw.read, readI, hs]
  rw [iWordR_read _ _ pd t0 hr, ofNat_low h _ (by omega)]

theorem ReadRaw.endRegion (pd : Pd) : ReadRaw.Statement (.endRegion pd) := by
  intro _ r h; cases h
  exact gSink_read _ pd

theorem ReadRaw.add (pd : Pd) (wide : Bool) (t1 t0 : Target) : ReadRaw.Statement (.add pd wide t1 t0) := by
  intro _ r h; cases h
  cases wide <;> exact gWord_read _ pd t1 t0

theorem ReadRaw.sub (pd : Pd) (wide : Bool) (t1 t0 : Target) : ReadRaw.Statement (.sub pd wide t1 t0) := by
  intro _ r h; cases h
  cases wide <;> exact gWord_read _ pd t1 t0

theorem ReadRaw.mul (pd : Pd) (wide : Bool) (t1 t0 : Target) : ReadRaw.Statement (.mul pd wide t1 t0) := by
  intro _ r h; cases h
  cases wide <;> exact gWord_read _ pd t1 t0

theorem ReadRaw.mulh (pd : Pd) (wide : Bool) (t1 t0 : Target) : ReadRaw.Statement (.mulh pd wide t1 t0) := by
  intro _ r h; cases h
  cases wide <;> exact gWord_read _ pd t1 t0

theorem ReadRaw.mulhu (pd : Pd) (wide : Bool) (t1 t0 : Target) : ReadRaw.Statement (.mulhu pd wide t1 t0) := by
  intro _ r h; cases h
  cases wide <;> exact gWord_read _ pd t1 t0

theorem ReadRaw.div (pd : Pd) (wide : Bool) (t1 t0 : Target) : ReadRaw.Statement (.div pd wide t1 t0) := by
  intro _ r h; cases h
  cases wide <;> exact gWord_read _ pd t1 t0

theorem ReadRaw.divu (pd : Pd) (wide : Bool) (t1 t0 : Target) : ReadRaw.Statement (.divu pd wide t1 t0) := by
  intro _ r h; cases h
  cases wide <;> exact gWord_read _ pd t1 t0

theorem ReadRaw.rem (pd : Pd) (wide : Bool) (t1 t0 : Target) : ReadRaw.Statement (.rem pd wide t1 t0) := by
  intro _ r h; cases h
  cases wide <;> exact gWord_read _ pd t1 t0

theorem ReadRaw.remu (pd : Pd) (wide : Bool) (t1 t0 : Target) : ReadRaw.Statement (.remu pd wide t1 t0) := by
  intro _ r h; cases h
  cases wide <;> exact gWord_read _ pd t1 t0

theorem ReadRaw.and (pd : Pd) (wide : Bool) (t1 t0 : Target) : ReadRaw.Statement (.and pd wide t1 t0) := by
  intro _ r h; cases h
  cases wide <;> exact gWord_read _ pd t1 t0

theorem ReadRaw.or (pd : Pd) (wide : Bool) (t1 t0 : Target) : ReadRaw.Statement (.or pd wide t1 t0) := by
  intro _ r h; cases h
  cases wide <;> exact gWord_read _ pd t1 t0

theorem ReadRaw.xor (pd : Pd) (wide : Bool) (t1 t0 : Target) : ReadRaw.Statement (.xor pd wide t1 t0) := by
  intro _ r h; cases h
  cases wide <;> exact gWord_read _ pd t1 t0

theorem ReadRaw.andn (pd : Pd) (wide : Bool) (t1 t0 : Target) : ReadRaw.Statement (.andn pd wide t1 t0) := by
  intro _ r h; cases h
  cases wide <;> exact gWord_read _ pd t1 t0

theorem ReadRaw.shl (pd : Pd) (wide : Bool) (t1 t0 : Target) : ReadRaw.Statement (.shl pd wide t1 t0) := by
  intro _ r h; cases h
  cases wide <;> exact gWord_read _ pd t1 t0

theorem ReadRaw.shr (pd : Pd) (wide : Bool) (t1 t0 : Target) : ReadRaw.Statement (.shr pd wide t1 t0) := by
  intro _ r h; cases h
  cases wide <;> exact gWord_read _ pd t1 t0

theorem ReadRaw.sra (pd : Pd) (wide : Bool) (t1 t0 : Target) : ReadRaw.Statement (.sra pd wide t1 t0) := by
  intro _ r h; cases h
  cases wide <;> exact gWord_read _ pd t1 t0

theorem ReadRaw.rol (pd : Pd) (wide : Bool) (t1 t0 : Target) : ReadRaw.Statement (.rol pd wide t1 t0) := by
  intro _ r h; cases h
  cases wide <;> exact gWord_read _ pd t1 t0

theorem ReadRaw.ror (pd : Pd) (wide : Bool) (t1 t0 : Target) : ReadRaw.Statement (.ror pd wide t1 t0) := by
  intro _ r h; cases h
  cases wide <;> exact gWord_read _ pd t1 t0

theorem ReadRaw.cmp (pd : Pd) (wide : Bool) (cc : IntCond) (t1 t0 : Target) : ReadRaw.Statement (.cmp pd wide cc t1 t0) := by
  intro _ r h; cases h
  cases wide <;> cases cc <;> exact gWord_read _ pd t1 t0

theorem ReadRaw.min (pd : Pd) (wide : Bool) (t1 t0 : Target) : ReadRaw.Statement (.min pd wide t1 t0) := by
  intro _ r h; cases h
  cases wide <;> exact gWord_read _ pd t1 t0

theorem ReadRaw.max (pd : Pd) (wide : Bool) (t1 t0 : Target) : ReadRaw.Statement (.max pd wide t1 t0) := by
  intro _ r h; cases h
  cases wide <;> exact gWord_read _ pd t1 t0

theorem ReadRaw.minu (pd : Pd) (wide : Bool) (t1 t0 : Target) : ReadRaw.Statement (.minu pd wide t1 t0) := by
  intro _ r h; cases h
  cases wide <;> exact gWord_read _ pd t1 t0

theorem ReadRaw.maxu (pd : Pd) (wide : Bool) (t1 t0 : Target) : ReadRaw.Statement (.maxu pd wide t1 t0) := by
  intro _ r h; cases h
  cases wide <;> exact gWord_read _ pd t1 t0

theorem ReadRaw.bfxu (pd : Pd) (wide : Bool) (t1 t0 : Target) : ReadRaw.Statement (.bfxu pd wide t1 t0) := by
  intro _ r h; cases h
  cases wide <;> exact gWord_read _ pd t1 t0

theorem ReadRaw.bfxs (pd : Pd) (wide : Bool) (t1 t0 : Target) : ReadRaw.Statement (.bfxs pd wide t1 t0) := by
  intro _ r h; cases h
  cases wide <;> exact gWord_read _ pd t1 t0

theorem ReadRaw.bfi (wide : Bool) (t1 t0 : Target) : ReadRaw.Statement (.bfi wide t1 t0) := by
  intro _ r h; cases h
  cases wide <;> exact gWord3_read _ t1 t0

theorem ReadRaw.popc (pd : Pd) (wide : Bool) (t1 t0 : Target) : ReadRaw.Statement (.popc pd wide t1 t0) := by
  intro _ r h; cases h
  cases wide <;> exact gWord_read _ pd t1 t0

theorem ReadRaw.clz (pd : Pd) (wide : Bool) (t1 t0 : Target) : ReadRaw.Statement (.clz pd wide t1 t0) := by
  intro _ r h; cases h
  cases wide <;> exact gWord_read _ pd t1 t0

theorem ReadRaw.ctz (pd : Pd) (wide : Bool) (t1 t0 : Target) : ReadRaw.Statement (.ctz pd wide t1 t0) := by
  intro _ r h; cases h
  cases wide <;> exact gWord_read _ pd t1 t0

theorem ReadRaw.sel (wide : Bool) (t1 t0 : Target) : ReadRaw.Statement (.sel wide t1 t0) := by
  intro _ r h; cases h
  cases wide <;> exact gWord3_read _ t1 t0

theorem ReadRaw.neg (pd : Pd) (wide : Bool) (t1 t0 : Target) : ReadRaw.Statement (.neg pd wide t1 t0) := by
  intro _ r h; cases h
  cases wide <;> exact gWord_read _ pd t1 t0

theorem ReadRaw.abs (pd : Pd) (wide : Bool) (t1 t0 : Target) : ReadRaw.Statement (.abs pd wide t1 t0) := by
  intro _ r h; cases h
  cases wide <;> exact gWord_read _ pd t1 t0

theorem ReadRaw.sx8 (pd : Pd) (wide : Bool) (t1 t0 : Target) : ReadRaw.Statement (.sx8 pd wide t1 t0) := by
  intro _ r h; cases h
  cases wide <;> exact gWord_read _ pd t1 t0

theorem ReadRaw.sx16 (pd : Pd) (wide : Bool) (t1 t0 : Target) : ReadRaw.Statement (.sx16 pd wide t1 t0) := by
  intro _ r h; cases h
  cases wide <;> exact gWord_read _ pd t1 t0

theorem ReadRaw.sx32 (pd : Pd) (t1 t0 : Target) : ReadRaw.Statement (.sx32 pd t1 t0) := by
  intro _ r h; cases h
  exact gWord_read _ pd t1 t0

theorem ReadRaw.zx8 (pd : Pd) (wide : Bool) (t1 t0 : Target) : ReadRaw.Statement (.zx8 pd wide t1 t0) := by
  intro _ r h; cases h
  cases wide <;> exact gWord_read _ pd t1 t0

theorem ReadRaw.zx16 (pd : Pd) (wide : Bool) (t1 t0 : Target) : ReadRaw.Statement (.zx16 pd wide t1 t0) := by
  intro _ r h; cases h
  cases wide <;> exact gWord_read _ pd t1 t0

theorem ReadRaw.zx32 (pd : Pd) (t1 t0 : Target) : ReadRaw.Statement (.zx32 pd t1 t0) := by
  intro _ r h; cases h
  exact gWord_read _ pd t1 t0

theorem ReadRaw.addi (pd : Pd) (imm : BitVec 14) (t0 : Target) : ReadRaw.Statement (.addi pd imm t0) := by
  intro _ r h; cases h
  refine Eq.trans (iWord_read _ pd t0) ?_
  simp only [BitVec.ofNat_toNat, BitVec.setWidth_eq]

theorem ReadRaw.andi (pd : Pd) (imm : BitVec 14) (t0 : Target) : ReadRaw.Statement (.andi pd imm t0) := by
  intro _ r h; cases h
  refine Eq.trans (iWord_read _ pd t0) ?_
  simp only [BitVec.ofNat_toNat, BitVec.setWidth_eq]

theorem ReadRaw.ori (pd : Pd) (imm : BitVec 14) (t0 : Target) : ReadRaw.Statement (.ori pd imm t0) := by
  intro _ r h; cases h
  refine Eq.trans (iWord_read _ pd t0) ?_
  simp only [BitVec.ofNat_toNat, BitVec.setWidth_eq]

theorem ReadRaw.xori (pd : Pd) (imm : BitVec 14) (t0 : Target) : ReadRaw.Statement (.xori pd imm t0) := by
  intro _ r h; cases h
  refine Eq.trans (iWord_read _ pd t0) ?_
  simp only [BitVec.ofNat_toNat, BitVec.setWidth_eq]

theorem ReadRaw.fadd (pd : Pd) (ft : FloatFmt) (rm : Rm) (t1 t0 : Target) : ReadRaw.Statement (.fadd pd ft rm t1 t0) := by
  intro _ r h; cases h
  exact floatWord_read _ ft rm pd t1 t0

theorem ReadRaw.fsub (pd : Pd) (ft : FloatFmt) (rm : Rm) (t1 t0 : Target) : ReadRaw.Statement (.fsub pd ft rm t1 t0) := by
  intro _ r h; cases h
  exact floatWord_read _ ft rm pd t1 t0

theorem ReadRaw.fmul (pd : Pd) (ft : FloatFmt) (rm : Rm) (t1 t0 : Target) : ReadRaw.Statement (.fmul pd ft rm t1 t0) := by
  intro _ r h; cases h
  exact floatWord_read _ ft rm pd t1 t0

theorem ReadRaw.ffma (ft : FloatFmt) (rm : Rm) (t1 t0 : Target) : ReadRaw.Statement (.ffma ft rm t1 t0) := by
  intro _ r h; cases h
  cases ft <;> cases rm <;> exact two_read (Instr.ffma _ _) t1 t0

theorem ReadRaw.fdiv (pd : Pd) (ft : FloatFmt) (rm : Rm) (t1 t0 : Target) : ReadRaw.Statement (.fdiv pd ft rm t1 t0) := by
  intro _ r h; cases h
  exact floatWord_read _ ft rm pd t1 t0

theorem ReadRaw.fsqrt (pd : Pd) (ft : FloatFmt) (rm : Rm) (t1 t0 : Target) : ReadRaw.Statement (.fsqrt pd ft rm t1 t0) := by
  intro _ r h; cases h
  exact floatWord_read _ ft rm pd t1 t0

theorem ReadRaw.fmin (pd : Pd) (ft : FloatFmt) (t1 t0 : Target) : ReadRaw.Statement (.fmin pd ft t1 t0) := by
  intro _ r h; cases h
  exact floatWordV_read0 _ _ ft pd t1 t0

theorem ReadRaw.fmax (pd : Pd) (ft : FloatFmt) (t1 t0 : Target) : ReadRaw.Statement (.fmax pd ft t1 t0) := by
  intro _ r h; cases h
  exact floatWordV_read1 _ _ ft pd t1 t0

theorem ReadRaw.fminm (pd : Pd) (ft : FloatFmt) (t1 t0 : Target) : ReadRaw.Statement (.fminm pd ft t1 t0) := by
  intro _ r h; cases h
  exact floatWordV_read0 _ _ ft pd t1 t0

theorem ReadRaw.fmaxm (pd : Pd) (ft : FloatFmt) (t1 t0 : Target) : ReadRaw.Statement (.fmaxm pd ft t1 t0) := by
  intro _ r h; cases h
  exact floatWordV_read1 _ _ ft pd t1 t0

theorem ReadRaw.fabs (pd : Pd) (ft : FloatFmt) (t1 t0 : Target) : ReadRaw.Statement (.fabs pd ft t1 t0) := by
  intro _ r h; cases h
  exact floatWordV_read0 _ _ ft pd t1 t0

theorem ReadRaw.fneg (pd : Pd) (ft : FloatFmt) (t1 t0 : Target) : ReadRaw.Statement (.fneg pd ft t1 t0) := by
  intro _ r h; cases h
  exact floatWordV_read1 _ _ ft pd t1 t0

theorem ReadRaw.fcmp (pd : Pd) (ft : FloatFmt) (cc : FloatCond) (t1 t0 : Target) : ReadRaw.Statement (.fcmp pd ft cc t1 t0) := by
  intro _ r h; cases h
  cases ft <;> cases cc <;> exact gWord_read _ pd t1 t0

theorem ReadRaw.frcp (pd : Pd) (ft : FloatFmt) (t1 t0 : Target) : ReadRaw.Statement (.frcp pd ft t1 t0) := by
  intro _ r h; cases h
  exact floatWord1_read _ ft pd t1 t0

theorem ReadRaw.frsq (pd : Pd) (ft : FloatFmt) (t1 t0 : Target) : ReadRaw.Statement (.frsq pd ft t1 t0) := by
  intro _ r h; cases h
  exact floatWord1_read _ ft pd t1 t0

theorem ReadRaw.fexp2 (pd : Pd) (ft : FloatFmt) (t1 t0 : Target) : ReadRaw.Statement (.fexp2 pd ft t1 t0) := by
  intro _ r h; cases h
  exact floatWord1_read _ ft pd t1 t0

theorem ReadRaw.flog2 (pd : Pd) (ft : FloatFmt) (t1 t0 : Target) : ReadRaw.Statement (.flog2 pd ft t1 t0) := by
  intro _ r h; cases h
  exact floatWord1_read _ ft pd t1 t0

theorem ReadRaw.fsin (pd : Pd) (ft : FloatFmt) (t1 t0 : Target) : ReadRaw.Statement (.fsin pd ft t1 t0) := by
  intro _ r h; cases h
  exact floatWordV_read0 _ _ ft pd t1 t0

theorem ReadRaw.fcos (pd : Pd) (ft : FloatFmt) (t1 t0 : Target) : ReadRaw.Statement (.fcos pd ft t1 t0) := by
  intro _ r h; cases h
  exact floatWordV_read1 _ _ ft pd t1 t0

theorem ReadRaw.frnd (pd : Pd) (ft : FloatFmt) (rm : Rm) (t1 t0 : Target) : ReadRaw.Statement (.frnd pd ft rm t1 t0) := by
  intro _ r h; cases h
  exact floatWord_read _ ft rm pd t1 t0

theorem ReadRaw.cvtS (pd : Pd) (ft : FloatFmt) (rm : Rm) (t1 t0 : Target) : ReadRaw.Statement (.cvtS pd ft rm t1 t0) := by
  intro w r h; cases h
  exact cvtWord_read _ _ ft rm pd t1 t0 (of_decide_eq_true w)

theorem ReadRaw.cvtH (pd : Pd) (ft : FloatFmt) (rm : Rm) (t1 t0 : Target) : ReadRaw.Statement (.cvtH pd ft rm t1 t0) := by
  intro w r h; cases h
  exact cvtWord_read _ _ ft rm pd t1 t0 (of_decide_eq_true w)

theorem ReadRaw.cvtB (pd : Pd) (ft : FloatFmt) (rm : Rm) (t1 t0 : Target) : ReadRaw.Statement (.cvtB pd ft rm t1 t0) := by
  intro w r h; cases h
  exact cvtWord_read _ _ ft rm pd t1 t0 (of_decide_eq_true w)

theorem ReadRaw.cvtfi (pd : Pd) (ft : FloatFmt) (rm : Rm) (t1 t0 : Target) : ReadRaw.Statement (.cvtfi pd ft rm t1 t0) := by
  intro _ r h; cases h
  exact floatWord_read _ ft rm pd t1 t0

theorem ReadRaw.cvtif (pd : Pd) (ft : FloatFmt) (rm : Rm) (t1 t0 : Target) : ReadRaw.Statement (.cvtif pd ft rm t1 t0) := by
  intro _ r h; cases h
  cases ft <;> cases rm <;> exact gWord_read _ pd t1 t0

theorem ReadRaw.cvtifL (pd : Pd) (ft : FloatFmt) (rm : Rm) (t1 t0 : Target) : ReadRaw.Statement (.cvtifL pd ft rm t1 t0) := by
  intro _ r h; cases h
  cases ft <;> cases rm <;> exact gWord_read _ pd t1 t0

theorem ReadRaw.cvt8 (pd : Pd) (ft : FloatFmt) (t1 t0 : Target) : ReadRaw.Statement (.cvt8 pd ft t1 t0) := by
  intro _ r h; cases h
  exact floatWord1_read _ ft pd t1 t0

theorem ReadRaw.cvf8 (pd : Pd) (ft : FloatFmt) (t1 t0 : Target) : ReadRaw.Statement (.cvf8 pd ft t1 t0) := by
  intro _ r h; cases h
  exact floatWord1_read _ ft pd t1 t0

theorem ReadRaw.fclass (pd : Pd) (ft : FloatFmt) (t1 t0 : Target) : ReadRaw.Statement (.fclass pd ft t1 t0) := by
  intro _ r h; cases h
  exact floatWord1_read _ ft pd t1 t0

theorem ReadRaw.ld (pd : Pd) (seq : BitVec 5) (prevD nextD : BitVec 2) (port : BitVec 5) (t0 : Target) : ReadRaw.Statement (.ld pd seq prevD nextD port t0) := by
  intro _ r h; cases h
  exact mWord_read _ pd seq prevD nextD port t0

theorem ReadRaw.st (pd : Pd) (seq : BitVec 5) (prevD nextD : BitVec 2) (port : BitVec 5) (t0 : Target) : ReadRaw.Statement (.st pd seq prevD nextD port t0) := by
  intro _ r h; cases h
  exact mWord_read _ pd seq prevD nextD port t0

theorem ReadRaw.ldt (pd : Pd) (seq : BitVec 5) (prevD nextD : BitVec 2) (port : BitVec 5) (t0 : Target) : ReadRaw.Statement (.ldt pd seq prevD nextD port t0) := by
  intro _ r h; cases h
  exact mWord_read _ pd seq prevD nextD port t0

theorem ReadRaw.stt (pd : Pd) (seq : BitVec 5) (prevD nextD : BitVec 2) (port : BitVec 5) (t0 : Target) : ReadRaw.Statement (.stt pd seq prevD nextD port t0) := by
  intro _ r h; cases h
  exact mWord_read _ pd seq prevD nextD port t0

theorem ReadRaw.ldh (pd : Pd) (seq : BitVec 5) (prevD nextD : BitVec 2) (port h : BitVec 5) : ReadRaw.Statement (.ldh pd seq prevD nextD port h) := by
  intro _ r h; cases h
  simp only [Raw.read, readM, readPd_code, show 0x40 + h.toNat = (Target.hold h).code from rfl, readTarget_code,
    BitVec.ofNat_toNat, BitVec.setWidth_eq]
  rfl

theorem ReadRaw.pft (pd : Pd) (seq : BitVec 5) (prevD nextD : BitVec 2) (port : BitVec 5) (t0 : Target) : ReadRaw.Statement (.pft pd seq prevD nextD port t0) := by
  intro _ r h; cases h
  exact mWord_read _ pd seq prevD nextD port t0

theorem ReadRaw.mnop (pd : Pd) (seq : BitVec 5) (prevD nextD : BitVec 2) (port : BitVec 5) (t0 : Target) : ReadRaw.Statement (.mnop pd seq prevD nextD port t0) := by
  intro _ r h; cases h
  exact mWord_read _ pd seq prevD nextD port t0

theorem ReadRaw.fenceAcq (pd : Pd) (scope : Scope) (t1 t0 : Target) : ReadRaw.Statement (.fenceAcq pd scope t1 t0) := by
  intro _ r h; cases h
  cases pd <;> cases scope <;> exact two_read (Instr.fenceAcq _ _) t1 t0

theorem ReadRaw.fenceRel (pd : Pd) (scope : Scope) (t1 t0 : Target) : ReadRaw.Statement (.fenceRel pd scope t1 t0) := by
  intro _ r h; cases h
  cases pd <;> cases scope <;> exact two_read (Instr.fenceRel _ _) t1 t0

theorem ReadRaw.fenceFull (pd : Pd) (scope : Scope) (t1 t0 : Target) : ReadRaw.Statement (.fenceFull pd scope t1 t0) := by
  intro _ r h; cases h
  cases pd <;> cases scope <;> exact two_read (Instr.fenceFull _ _) t1 t0

theorem ReadRaw.scas64 (pd : Pd) (seq : BitVec 5) (prevD nextD : BitVec 2) (port : BitVec 5) (t0 : Target) : ReadRaw.Statement (.scas64 pd seq prevD nextD port t0) := by
  intro _ r h; cases h
  exact mWord_read _ pd seq prevD nextD port t0

theorem ReadRaw.scas128 (pd : Pd) (seq : BitVec 5) (prevD nextD : BitVec 2) (port : BitVec 5) (t0 : Target) : ReadRaw.Statement (.scas128 pd seq prevD nextD port t0) := by
  intro _ r h; cases h
  exact mWord_read _ pd seq prevD nextD port t0

theorem ReadRaw.sadd (pd : Pd) (seq : BitVec 5) (prevD nextD : BitVec 2) (port : BitVec 5) (t0 : Target) : ReadRaw.Statement (.sadd pd seq prevD nextD port t0) := by
  intro _ r h; cases h
  exact mWord_read _ pd seq prevD nextD port t0

theorem ReadRaw.sswap (pd : Pd) (seq : BitVec 5) (prevD nextD : BitVec 2) (port : BitVec 5) (t0 : Target) : ReadRaw.Statement (.sswap pd seq prevD nextD port t0) := by
  intro _ r h; cases h
  exact mWord_read _ pd seq prevD nextD port t0

theorem ReadRaw.amot (pd : Pd) (td : BitVec 5) (op : AmotOp) (ct : Completion) : ReadRaw.Statement (.amot pd td op ct) := by
  intro _ r h; cases h
  cases op <;>
    (refine Eq.trans (tWord_read _ pd ct) ?_; simp only [BitVec.ofNat_toNat, BitVec.setWidth_eq])

theorem ReadRaw.amoadd (pd : Pd) (seq : BitVec 5) (prevD nextD : BitVec 2) (port : BitVec 5) (t0 : Target) : ReadRaw.Statement (.amoadd pd seq prevD nextD port t0) := by
  intro _ r h; cases h
  exact mWord_read _ pd seq prevD nextD port t0

theorem ReadRaw.amomin (pd : Pd) (seq : BitVec 5) (prevD nextD : BitVec 2) (port : BitVec 5) (t0 : Target) : ReadRaw.Statement (.amomin pd seq prevD nextD port t0) := by
  intro _ r h; cases h
  exact mWord_read _ pd seq prevD nextD port t0

theorem ReadRaw.amomax (pd : Pd) (seq : BitVec 5) (prevD nextD : BitVec 2) (port : BitVec 5) (t0 : Target) : ReadRaw.Statement (.amomax pd seq prevD nextD port t0) := by
  intro _ r h; cases h
  exact mWord_read _ pd seq prevD nextD port t0

theorem ReadRaw.qpush (pd : Pd) (queue lim : BitVec 5) (t0 : Target) : ReadRaw.Statement (.qpush pd queue lim t0) := by
  intro _ r h; cases h
  refine Eq.trans (iWordR_read _ _ pd t0 rfl) ?_
  simp only [BitVec.ofNat_toNat, BitVec.setWidth_eq]

theorem ReadRaw.qpop (pd : Pd) (queue lim : BitVec 5) (t0 : Target) : ReadRaw.Statement (.qpop pd queue lim t0) := by
  intro _ r h; cases h
  refine Eq.trans (iWordR_read _ _ pd t0 rfl) ?_
  simp only [BitVec.ofNat_toNat, BitVec.setWidth_eq]

theorem ReadRaw.qpeek (pd : Pd) (queue lim : BitVec 5) (t0 : Target) : ReadRaw.Statement (.qpeek pd queue lim t0) := by
  intro _ r h; cases h
  refine Eq.trans (iWordR_read _ _ pd t0 rfl) ?_
  simp only [BitVec.ofNat_toNat, BitVec.setWidth_eq]

theorem ReadRaw.barr (pd : Pd) (group : BitVec 8) (t0 : Target) : ReadRaw.Statement (.barr pd group t0) := by
  intro _ r h; cases h
  have hv := group.isLt
  have hr : bitField (group.toNat) 8 6 = 0 := by simp only [bitField]; omega
  simp only [Raw.read, readI]
  rw [iWordR_read _ _ pd t0 hr, ofNat_low group _ (by omega)]

theorem ReadRaw.tree (pd : Pd) (op : TreeOp) (group : BitVec 8) (t0 : Target) : ReadRaw.Statement (.tree pd op group t0) := by
  intro _ r h; cases h
  have hv := group.isLt
  have ho : bitField (1024 * op.code + group.toNat) 10 4 = op.code := by cases op <;> simp only [bitField, TreeOp.code] <;> omega
  have hr : bitField (1024 * op.code + group.toNat) 8 2 = 0 := by simp only [bitField]; omega
  have hc : readTreeOp op.code = .ok op := by cases op <;> rfl
  simp only [Raw.read, readI, ho, hc]
  refine Eq.trans (iWordR_read _ _ pd t0 hr) ?_
  rw [ofNat_low group _ (by omega)]

theorem ReadRaw.tailadv (pd : Pd) (chain : BitVec 6) (t0 : Target) : ReadRaw.Statement (.tailadv pd chain t0) := by
  intro _ r h; cases h
  have hv := chain.isLt
  have hr : bitField (chain.toNat) 6 8 = 0 := by simp only [bitField]; omega
  simp only [Raw.read, readI]
  rw [iWordR_read _ _ pd t0 hr, ofNat_low chain _ (by omega)]

theorem ReadRaw.tlread (pd : Pd) (chain : BitVec 6) (t0 : Target) : ReadRaw.Statement (.tlread pd chain t0) := by
  intro _ r h; cases h
  have hv := chain.isLt
  have hr : bitField (chain.toNat) 6 8 = 0 := by simp only [bitField]; omega
  simp only [Raw.read, readI]
  rw [iWordR_read _ _ pd t0 hr, ofNat_low chain _ (by omega)]

theorem ReadRaw.tlwait (pd : Pd) (chain : BitVec 6) (t0 : Target) : ReadRaw.Statement (.tlwait pd chain t0) := by
  intro _ r h; cases h
  have hv := chain.isLt
  have hr : bitField (chain.toNat) 6 8 = 0 := by simp only [bitField]; omega
  simp only [Raw.read, readI]
  rw [iWordR_read _ _ pd t0 hr, ofNat_low chain _ (by omega)]

theorem ReadRaw.collrec (pd : Pd) (chain : BitVec 6) (t0 : Target) : ReadRaw.Statement (.collrec pd chain t0) := by
  intro _ r h; cases h
  have hv := chain.isLt
  have hr : bitField (chain.toNat) 6 8 = 0 := by simp only [bitField]; omega
  simp only [Raw.read, readI]
  rw [iWordR_read _ _ pd t0 hr, ofNat_low chain _ (by omega)]

theorem ReadRaw.trap (pd : Pd) (imm : BitVec 14) (t0 : Target) : ReadRaw.Statement (.trap pd imm t0) := by
  intro w r h; cases h
  have w : imm.toNat < 0x3FF0 := of_decide_eq_true w
  simp only [Raw.read, readI, assigned, w, decide_true, if_true, iWord_read, BitVec.ofNat_toNat, BitVec.setWidth_eq]
  rfl

theorem ReadRaw.trapf (pd : Pd) (mask : BitVec 5) (t0 : Target) : ReadRaw.Statement (.trapf pd mask t0) := by
  intro _ r h; cases h
  have hv := mask.isLt
  have hr : bitField (mask.toNat) 5 9 = 0 := by simp only [bitField]; omega
  simp only [Raw.read, readI]
  rw [iWordR_read _ _ pd t0 hr, ofNat_low mask _ (by omega)]

theorem ReadRaw.sysqHandle (pd : Pd) (t1 t0 : Target) : ReadRaw.Statement (.sysqHandle pd t1 t0) := by
  intro _ r h; cases h
  exact gWord_read _ pd t1 t0

theorem ReadRaw.sysqDie (pd : Pd) (t1 t0 : Target) : ReadRaw.Statement (.sysqDie pd t1 t0) := by
  intro _ r h; cases h
  exact gWord_read _ pd t1 t0

theorem ReadRaw.sysqReplica (pd : Pd) (t1 t0 : Target) : ReadRaw.Statement (.sysqReplica pd t1 t0) := by
  intro _ r h; cases h
  exact gWord_read _ pd t1 t0

theorem ReadRaw.sysqCtx (pd : Pd) (t1 t0 : Target) : ReadRaw.Statement (.sysqCtx pd t1 t0) := by
  intro _ r h; cases h
  exact gWord_read _ pd t1 t0

theorem ReadRaw.rdcfg (pd : Pd) (index : BitVec 12) (t0 : Target) : ReadRaw.Statement (.rdcfg pd index t0) := by
  intro w r h; cases h
  have hv := index.isLt
  have h0 : bitField index.toNat 0 12 = index.toNat := by simp only [bitField]; omega
  have hr : bitField index.toNat 12 2 = 0 := by simp only [bitField]; omega
  have hi : rdcfgIndex index.toNat = true := by
    have w : readableIndices.contains index.toNat = true := w
    simp [readableIndices] at w
    simp [rdcfgIndex]
    omega
  simp only [Raw.read, readI, h0, hi]
  refine Eq.trans (iWordR_read _ _ pd t0 hr) ?_
  simp only [BitVec.ofNat_toNat, BitVec.setWidth_eq]

theorem ReadRaw.wrcfg (pd : Pd) (index : BitVec 12) (t0 : Target) : ReadRaw.Statement (.wrcfg pd index t0) := by
  intro w r h; cases h
  have hv := index.isLt
  have h0 : bitField index.toNat 0 12 = index.toNat := by simp only [bitField]; omega
  have hr : bitField index.toNat 12 2 = 0 := by simp only [bitField]; omega
  have hi : wrcfgIndex index.toNat = true := by
    have w : writableIndices.contains index.toNat = true := w
    simp [writableIndices] at w
    simp [wrcfgIndex]
    omega
  simp only [Raw.read, readI, h0, hi]
  refine Eq.trans (iWordR_read _ _ pd t0 hr) ?_
  simp only [BitVec.ofNat_toNat, BitVec.setWidth_eq]

theorem ReadRaw.yield (pd : Pd) (t1 t0 : Target) : ReadRaw.Statement (.yield pd t1 t0) := by
  intro _ r h; cases h
  exact gWord_read _ pd t1 t0

theorem ReadRaw.bkpt (pd : Pd) (code : BitVec 10) (set : BitVec 4) (t0 : Target) : ReadRaw.Statement (.bkpt pd code set t0) := by
  intro _ r h; cases h
  have hv := code.isLt
  have hw := set.isLt
  simp only [Raw.read, readI]
  rw [iWord_read, ofNat_low code _ (by simp only [bitField]; omega), ofNat_low set _ (by omega)]

theorem ReadRaw.cyc (pd : Pd) (t1 t0 : Target) : ReadRaw.Statement (.cyc pd t1 t0) := by
  intro _ r h; cases h
  exact gWord_read _ pd t1 t0

theorem ReadRaw.vadd (pd : Pd) (t1 t0 : Target) : ReadRaw.Statement (.vadd pd t1 t0) := by
  intro _ r h; cases h
  exact gWord_read _ pd t1 t0

theorem ReadRaw.vsub (pd : Pd) (t1 t0 : Target) : ReadRaw.Statement (.vsub pd t1 t0) := by
  intro _ r h; cases h
  exact gWord_read _ pd t1 t0

theorem ReadRaw.vmul (pd : Pd) (t1 t0 : Target) : ReadRaw.Statement (.vmul pd t1 t0) := by
  intro _ r h; cases h
  exact gWord_read _ pd t1 t0

theorem ReadRaw.vmin (pd : Pd) (t1 t0 : Target) : ReadRaw.Statement (.vmin pd t1 t0) := by
  intro _ r h; cases h
  exact gWord_read _ pd t1 t0

theorem ReadRaw.vmax (pd : Pd) (t1 t0 : Target) : ReadRaw.Statement (.vmax pd t1 t0) := by
  intro _ r h; cases h
  exact gWord_read _ pd t1 t0

theorem ReadRaw.vscale (pd : Pd) (t1 t0 : Target) : ReadRaw.Statement (.vscale pd t1 t0) := by
  intro _ r h; cases h
  exact gWord_read _ pd t1 t0

theorem ReadRaw.vcmp (pd : Pd) (cc : LaneCond) (t1 t0 : Target) : ReadRaw.Statement (.vcmp pd cc t1 t0) := by
  intro _ r h; cases h
  cases cc <;> exact gWord_read _ pd t1 t0

theorem ReadRaw.vabs (pd : Pd) (t1 t0 : Target) : ReadRaw.Statement (.vabs pd t1 t0) := by
  intro _ r h; cases h
  exact gWord_read _ pd t1 t0

theorem ReadRaw.vneg (pd : Pd) (t1 t0 : Target) : ReadRaw.Statement (.vneg pd t1 t0) := by
  intro _ r h; cases h
  exact gWord_read _ pd t1 t0

theorem ReadRaw.vrcp (pd : Pd) (t1 t0 : Target) : ReadRaw.Statement (.vrcp pd t1 t0) := by
  intro _ r h; cases h
  exact gWord_read _ pd t1 t0

theorem ReadRaw.vrsq (pd : Pd) (t1 t0 : Target) : ReadRaw.Statement (.vrsq pd t1 t0) := by
  intro _ r h; cases h
  exact gWord_read _ pd t1 t0

theorem ReadRaw.vexp2 (pd : Pd) (t1 t0 : Target) : ReadRaw.Statement (.vexp2 pd t1 t0) := by
  intro _ r h; cases h
  exact gWord_read _ pd t1 t0

theorem ReadRaw.vlog2 (pd : Pd) (t1 t0 : Target) : ReadRaw.Statement (.vlog2 pd t1 t0) := by
  intro _ r h; cases h
  exact gWord_read _ pd t1 t0

theorem ReadRaw.vbcast (pd : Pd) (t1 t0 : Target) : ReadRaw.Statement (.vbcast pd t1 t0) := by
  intro _ r h; cases h
  exact gWord_read _ pd t1 t0

theorem ReadRaw.vredSum (pd : Pd) (t1 t0 : Target) : ReadRaw.Statement (.vredSum pd t1 t0) := by
  intro _ r h; cases h
  exact gWord_read _ pd t1 t0

theorem ReadRaw.vredMin (pd : Pd) (t1 t0 : Target) : ReadRaw.Statement (.vredMin pd t1 t0) := by
  intro _ r h; cases h
  exact gWord_read _ pd t1 t0

theorem ReadRaw.vredMax (pd : Pd) (t1 t0 : Target) : ReadRaw.Statement (.vredMax pd t1 t0) := by
  intro _ r h; cases h
  exact gWord_read _ pd t1 t0

theorem ReadRaw.vcvt (pd : Pd) (t1 t0 : Target) : ReadRaw.Statement (.vcvt pd t1 t0) := by
  intro _ r h; cases h
  exact gWord_read _ pd t1 t0

theorem ReadRaw.vquant (pd : Pd) (t1 t0 : Target) : ReadRaw.Statement (.vquant pd t1 t0) := by
  intro _ r h; cases h
  exact gWord_read _ pd t1 t0

theorem ReadRaw.vfma (t1 t0 : Target) : ReadRaw.Statement (.vfma t1 t0) := by
  intro _ r h; cases h
  exact gWord3_read _ t1 t0

theorem ReadRaw.vsel (t1 t0 : Target) : ReadRaw.Statement (.vsel t1 t0) := by
  intro _ r h; cases h
  exact gWord3_read _ t1 t0

theorem ReadRaw.vclamp (t1 t0 : Target) : ReadRaw.Statement (.vclamp t1 t0) := by
  intro _ r h; cases h
  exact gWord3_read _ t1 t0

theorem ReadRaw.vtrans (pd : Pd) (td ta : BitVec 5) (ct : Completion) : ReadRaw.Statement (.vtrans pd td ta ct) := by
  intro _ r h; cases h
  refine Eq.trans (tWord_read _ pd ct) ?_
  simp only [BitVec.ofNat_toNat, BitVec.setWidth_eq]

theorem ReadRaw.vpoolmax (pd : Pd) (td ta tb : BitVec 5) (ct : Completion) : ReadRaw.Statement (.vpoolmax pd td ta tb ct) := by
  intro _ r h; cases h
  refine Eq.trans (tWord_read _ pd ct) ?_
  simp only [BitVec.ofNat_toNat, BitVec.setWidth_eq]

theorem ReadRaw.vpoolavg (pd : Pd) (td ta tb : BitVec 5) (ct : Completion) : ReadRaw.Statement (.vpoolavg pd td ta tb ct) := by
  intro _ r h; cases h
  refine Eq.trans (tWord_read _ pd ct) ?_
  simp only [BitVec.ofNat_toNat, BitVec.setWidth_eq]

theorem ReadRaw.tdef (pd : Pd) (tile : BitVec 5) (t0 : Target) : ReadRaw.Statement (.tdef pd tile t0) := by
  intro _ r h; cases h
  have hv := tile.isLt
  have hs : bitField (tile.toNat) 12 2 = 0 := by simp only [bitField]; omega
  have hr : bitField (tile.toNat) 5 7 = 0 := by simp only [bitField]; omega
  simp only [Raw.read, readI, hs]
  rw [iWordR_read _ _ pd t0 hr, ofNat_low tile _ (by omega)]

theorem ReadRaw.tset (pd : Pd) (state : TileState) (tile : BitVec 5) (t0 : Target) : ReadRaw.Statement (.tset pd state tile t0) := by
  intro _ r h; cases h
  have hv := tile.isLt
  have hs : bitField (0x1000 + 1024 * state.code + tile.toNat) 12 2 = 1 := by cases state <;> simp only [bitField, TileState.code] <;> omega
  have hk : bitField (0x1000 + 1024 * state.code + tile.toNat) 10 2 = state.code := by
    cases state <;> simp only [bitField, TileState.code] <;> omega
  have hr : bitField (0x1000 + 1024 * state.code + tile.toNat) 5 5 = 0 := by cases state <;> simp only [bitField, TileState.code] <;> omega
  have hc : readTileState state.code = state := by cases state <;> rfl
  simp only [Raw.read, readI, hs]
  rw [iWordR_read _ _ pd t0 hr, ofNat_low tile _ (by omega), hk, hc]

theorem ReadRaw.tstate (pd : Pd) (tile : BitVec 5) (t0 : Target) : ReadRaw.Statement (.tstate pd tile t0) := by
  intro _ r h; cases h
  have hv := tile.isLt
  have hs : bitField (0x2000 + tile.toNat) 12 2 = 2 := by simp only [bitField]; omega
  have hr : bitField (0x2000 + tile.toNat) 5 7 = 0 := by simp only [bitField]; omega
  simp only [Raw.read, readI, hs]
  rw [iWordR_read _ _ pd t0 hr, ofNat_low tile _ (by omega)]

theorem ReadRaw.bmode (pd : Pd) (bank : BitVec 2) (mode : BankMode) (intlv : Bool) (t0 : Target) : ReadRaw.Statement (.bmode pd bank mode intlv t0) := by
  intro w r h; cases h
  have hv := bank.isLt
  have hs : bitField (1024 * bank.toNat + 256 * mode.code + 128 * boolCode intlv) 12 2 = 0 := by
    cases mode <;> cases intlv <;> simp only [bitField, BankMode.code, boolCode_false, boolCode_true] <;> omega
  have hb : bitField (1024 * bank.toNat + 256 * mode.code + 128 * boolCode intlv) 10 2 = bank.toNat := by
    cases mode <;> cases intlv <;> simp only [bitField, BankMode.code, boolCode_false, boolCode_true] <;> omega
  have hm : bitField (1024 * bank.toNat + 256 * mode.code + 128 * boolCode intlv) 8 2 = mode.code := by
    cases mode <;> cases intlv <;> simp only [bitField, BankMode.code, boolCode_false, boolCode_true] <;> omega
  have hl : (bitField (1024 * bank.toNat + 256 * mode.code + 128 * boolCode intlv) 7 1 == 1) = intlv := by
    cases mode <;> cases intlv <;> simp [bitField, BankMode.code, boolCode_false, boolCode_true] <;> omega
  have hz : bitField (1024 * bank.toNat + 256 * mode.code + 128 * boolCode intlv) 0 7 = 0 := by
    cases mode <;> cases intlv <;> simp only [bitField, BankMode.code, boolCode_false, boolCode_true] <;> omega
  have hc : (if mode.code = 3 ∧ 2 ≤ bank.toNat then 1 else 0) = 0 := by
    have w : mode = .compute → bank.toNat < 2 := of_decide_eq_true w
    cases mode <;> simp_all [BankMode.code]
  have hk : readBankMode mode.code = mode := by cases mode <;> rfl
  simp only [Raw.read, readI, hs, hb, hm, hl, hz, hc, hk, readPd_code, readTarget_code, BitVec.ofNat_toNat, BitVec.setWidth_eq]
  rfl

theorem ReadRaw.permit (pd : Pd) (tile : BitVec 5) (t0 : Target) : ReadRaw.Statement (.permit pd tile t0) := by
  intro _ r h; cases h
  have hv := tile.isLt
  have hs : bitField (0x1000 + tile.toNat) 12 2 = 1 := by simp only [bitField]; omega
  have hr : bitField (0x1000 + tile.toNat) 5 7 = 0 := by simp only [bitField]; omega
  simp only [Raw.read, readI, hs]
  rw [iWordR_read _ _ pd t0 hr, ofNat_low tile _ (by omega)]

theorem ReadRaw.binv (pd : Pd) (tile : BitVec 5) (t0 : Target) : ReadRaw.Statement (.binv pd tile t0) := by
  intro _ r h; cases h
  have hv := tile.isLt
  have hs : bitField (0x2000 + tile.toNat) 12 2 = 2 := by simp only [bitField]; omega
  have hr : bitField (0x2000 + tile.toNat) 5 7 = 0 := by simp only [bitField]; omega
  simp only [Raw.read, readI, hs]
  rw [iWordR_read _ _ pd t0 hr, ofNat_low tile _ (by omega)]

theorem ReadRaw.bload (pd : Pd) (td ta : BitVec 5) (ct : Completion) : ReadRaw.Statement (.bload pd td ta ct) := by
  intro _ r h; cases h
  refine Eq.trans (tWord_read _ pd ct) ?_
  simp only [BitVec.ofNat_toNat, BitVec.setWidth_eq]

theorem ReadRaw.mma (pd : Pd) (ta tb : BitVec 5) (ct : Completion) : ReadRaw.Statement (.mma pd ta tb ct) := by
  intro _ r h; cases h
  refine Eq.trans (tWord_read _ pd ct) ?_
  simp only [BitVec.ofNat_toNat, BitVec.setWidth_eq]

theorem ReadRaw.mmaz (pd : Pd) (ta tb : BitVec 5) (ct : Completion) : ReadRaw.Statement (.mmaz pd ta tb ct) := by
  intro _ r h; cases h
  refine Eq.trans (tWord_read _ pd ct) ?_
  simp only [BitVec.ofNat_toNat, BitVec.setWidth_eq]

theorem ReadRaw.mzero (pd : Pd) (t1 t0 : Target) : ReadRaw.Statement (.mzero pd t1 t0) := by
  intro _ r h; cases h
  exact gWord_read _ pd t1 t0

theorem ReadRaw.mrd (pd : Pd) (t1 t0 : Target) : ReadRaw.Statement (.mrd pd t1 t0) := by
  intro _ r h; cases h
  exact gWord_read _ pd t1 t0

theorem ReadRaw.mrda (pd : Pd) (t1 t0 : Target) : ReadRaw.Statement (.mrda pd t1 t0) := by
  intro _ r h; cases h
  exact gWord_read _ pd t1 t0

theorem ReadRaw.mstat (pd : Pd) (t1 t0 : Target) : ReadRaw.Statement (.mstat pd t1 t0) := by
  intro _ r h; cases h
  exact gWord_read _ pd t1 t0

theorem ReadRaw.rsetup (pd : Pd) (t1 t0 : Target) : ReadRaw.Statement (.rsetup pd t1 t0) := by
  intro _ r h; cases h
  exact gWord_read _ pd t1 t0

theorem ReadRaw.rstep (pd : Pd) (t1 t0 : Target) : ReadRaw.Statement (.rstep pd t1 t0) := by
  intro _ r h; cases h
  exact gWord_read _ pd t1 t0

theorem ReadRaw.rbary (pd : Pd) (t1 t0 : Target) : ReadRaw.Statement (.rbary pd t1 t0) := by
  intro _ r h; cases h
  exact gWord_read _ pd t1 t0

theorem ReadRaw.rayxf (pd : Pd) (t1 t0 : Target) : ReadRaw.Statement (.rayxf pd t1 t0) := by
  intro _ r h; cases h
  exact gWord_read _ pd t1 t0

theorem ReadRaw.raybox (pd : Pd) (t1 t0 : Target) : ReadRaw.Statement (.raybox pd t1 t0) := by
  intro _ r h; cases h
  exact gWord_read _ pd t1 t0

theorem ReadRaw.raytri (pd : Pd) (t1 t0 : Target) : ReadRaw.Statement (.raytri pd t1 t0) := by
  intro _ r h; cases h
  exact gWord_read _ pd t1 t0

theorem ReadRaw.migr (pd : Pd) : ReadRaw.Statement (.migr pd) := by
  intro _ r h; cases h
  exact gSink_read _ pd

theorem ReadRaw.seqget (pd : Pd) (t1 t0 : Target) : ReadRaw.Statement (.seqget pd t1 t0) := by
  intro _ r h; cases h
  exact gWord_read _ pd t1 t0

theorem ReadRaw.seqwait (pd : Pd) (t1 t0 : Target) : ReadRaw.Statement (.seqwait pd t1 t0) := by
  intro _ r h; cases h
  exact gWord_read _ pd t1 t0

theorem ReadRaw.blend (pd : Pd) (t1 t0 : Target) : ReadRaw.Statement (.blend pd t1 t0) := by
  intro _ r h; cases h
  exact gWord_read _ pd t1 t0

theorem ReadRaw.coldReset : ReadRaw.Statement (.coldReset) := by intro _ r h; cases h
theorem ReadRaw.moduleReset : ReadRaw.Statement (.moduleReset) := by intro _ r h; cases h
theorem ReadRaw.dieReset : ReadRaw.Statement (.dieReset) := by intro _ r h; cases h
theorem ReadRaw.bringupPhase : ReadRaw.Statement (.bringupPhase) := by intro _ r h; cases h
theorem ReadRaw.governorInterval : ReadRaw.Statement (.governorInterval) := by intro _ r h; cases h
theorem ReadRaw.stepTransitionEnd : ReadRaw.Statement (.stepTransitionEnd) := by intro _ r h; cases h
theorem ReadRaw.thermalBandEntered : ReadRaw.Statement (.thermalBandEntered) := by intro _ r h; cases h
theorem ReadRaw.thermalTrip : ReadRaw.Statement (.thermalTrip) := by intro _ r h; cases h
theorem ReadRaw.hubPwrCapWrite : ReadRaw.Statement (.hubPwrCapWrite) := by intro _ r h; cases h
theorem ReadRaw.emergencyHoldSet : ReadRaw.Statement (.emergencyHoldSet) := by intro _ r h; cases h
theorem ReadRaw.emergencyHoldRelease : ReadRaw.Statement (.emergencyHoldRelease) := by intro _ r h; cases h
theorem ReadRaw.switchPacketArrival : ReadRaw.Statement (.switchPacketArrival) := by intro _ r h; cases h
theorem ReadRaw.headerStoreEntry : ReadRaw.Statement (.headerStoreEntry) := by intro _ r h; cases h
theorem ReadRaw.flitDepart : ReadRaw.Statement (.flitDepart) := by intro _ r h; cases h
theorem ReadRaw.flitReplay : ReadRaw.Statement (.flitReplay) := by intro _ r h; cases h
theorem ReadRaw.streamOpen : ReadRaw.Statement (.streamOpen) := by intro _ r h; cases h
theorem ReadRaw.openReceive : ReadRaw.Statement (.openReceive) := by intro _ r h; cases h
theorem ReadRaw.refuseReceive : ReadRaw.Statement (.refuseReceive) := by intro _ r h; cases h
theorem ReadRaw.openRetry : ReadRaw.Statement (.openRetry) := by intro _ r h; cases h
theorem ReadRaw.grantReceive : ReadRaw.Statement (.grantReceive) := by intro _ r h; cases h
theorem ReadRaw.packetSend : ReadRaw.Statement (.packetSend) := by intro _ r h; cases h
theorem ReadRaw.rreqReceive : ReadRaw.Statement (.rreqReceive) := by intro _ r h; cases h
theorem ReadRaw.retransmit : ReadRaw.Statement (.retransmit) := by intro _ r h; cases h
theorem ReadRaw.retransmissionTimeout : ReadRaw.Statement (.retransmissionTimeout) := by intro _ r h; cases h
theorem ReadRaw.ackReceive : ReadRaw.Statement (.ackReceive) := by intro _ r h; cases h
theorem ReadRaw.trimmedHeaderReceive : ReadRaw.Statement (.trimmedHeaderReceive) := by intro _ r h; cases h
theorem ReadRaw.rreqSend : ReadRaw.Statement (.rreqSend) := by intro _ r h; cases h
theorem ReadRaw.dataPacketReceive : ReadRaw.Statement (.dataPacketReceive) := by intro _ r h; cases h
theorem ReadRaw.packetDeliver : ReadRaw.Statement (.packetDeliver) := by intro _ r h; cases h
theorem ReadRaw.ackTimer : ReadRaw.Statement (.ackTimer) := by intro _ r h; cases h
theorem ReadRaw.closeReceive : ReadRaw.Statement (.closeReceive) := by intro _ r h; cases h
theorem ReadRaw.closedReceive : ReadRaw.Statement (.closedReceive) := by intro _ r h; cases h
theorem ReadRaw.streamSelect : ReadRaw.Statement (.streamSelect) := by intro _ r h; cases h
theorem ReadRaw.streamResume : ReadRaw.Statement (.streamResume) := by intro _ r h; cases h
theorem ReadRaw.streamAbort : ReadRaw.Statement (.streamAbort) := by intro _ r h; cases h
theorem ReadRaw.linkDown : ReadRaw.Statement (.linkDown) := by intro _ r h; cases h
theorem ReadRaw.linkTrained : ReadRaw.Statement (.linkTrained) := by intro _ r h; cases h
theorem ReadRaw.readClear : ReadRaw.Statement (.readClear) := by intro _ r h; cases h
theorem ReadRaw.registerWrite : ReadRaw.Statement (.registerWrite) := by intro _ r h; cases h
theorem ReadRaw.treeOpStart : ReadRaw.Statement (.treeOpStart) := by intro _ r h; cases h
theorem ReadRaw.treeResult : ReadRaw.Statement (.treeResult) := by intro _ r h; cases h
theorem ReadRaw.collPartialReceive : ReadRaw.Statement (.collPartialReceive) := by intro _ r h; cases h
theorem ReadRaw.ptpMessage : ReadRaw.Statement (.ptpMessage) := by intro _ r h; cases h
theorem ReadRaw.releaseInstant : ReadRaw.Statement (.releaseInstant) := by intro _ r h; cases h
theorem ReadRaw.phaseToken : ReadRaw.Statement (.phaseToken) := by intro _ r h; cases h
theorem ReadRaw.deadlineTokenReceive : ReadRaw.Statement (.deadlineTokenReceive) := by intro _ r h; cases h
theorem ReadRaw.phaseTokenReceive : ReadRaw.Statement (.phaseTokenReceive) := by intro _ r h; cases h
theorem ReadRaw.frameCompletionReport : ReadRaw.Statement (.frameCompletionReport) := by intro _ r h; cases h
theorem ReadRaw.holdoverEnter : ReadRaw.Statement (.holdoverEnter) := by intro _ r h; cases h
theorem ReadRaw.relEnable : ReadRaw.Statement (.relEnable) := by intro _ r h; cases h
theorem ReadRaw.apertureRead : ReadRaw.Statement (.apertureRead) := by intro _ r h; cases h
theorem ReadRaw.apertureWrite : ReadRaw.Statement (.apertureWrite) := by intro _ r h; cases h
theorem ReadRaw.tailWrite : ReadRaw.Statement (.tailWrite) := by intro _ r h; cases h
theorem ReadRaw.hubInvPage : ReadRaw.Statement (.hubInvPage) := by intro _ r h; cases h
theorem ReadRaw.hubInvContext : ReadRaw.Statement (.hubInvContext) := by intro _ r h; cases h
theorem ReadRaw.hubInvAll : ReadRaw.Statement (.hubInvAll) := by intro _ r h; cases h
theorem ReadRaw.invalidationComplete : ReadRaw.Statement (.invalidationComplete) := by intro _ r h; cases h
theorem ReadRaw.pageWalk : ReadRaw.Statement (.pageWalk) := by intro _ r h; cases h
theorem ReadRaw.atsTranslationCompletion : ReadRaw.Statement (.atsTranslationCompletion) := by intro _ r h; cases h
theorem ReadRaw.priResponse : ReadRaw.Statement (.priResponse) := by intro _ r h; cases h
theorem ReadRaw.atsInvalidationRequest : ReadRaw.Statement (.atsInvalidationRequest) := by intro _ r h; cases h
theorem ReadRaw.atsInvalidationComplete : ReadRaw.Statement (.atsInvalidationComplete) := by intro _ r h; cases h
theorem ReadRaw.hostSnoop : ReadRaw.Statement (.hostSnoop) := by intro _ r h; cases h
theorem ReadRaw.keyGenerate : ReadRaw.Statement (.keyGenerate) := by intro _ r h; cases h
theorem ReadRaw.keyDestroy : ReadRaw.Statement (.keyDestroy) := by intro _ r h; cases h
theorem ReadRaw.keyCommandDone : ReadRaw.Statement (.keyCommandDone) := by intro _ r h; cases h
theorem ReadRaw.attestReport : ReadRaw.Statement (.attestReport) := by intro _ r h; cases h
theorem ReadRaw.attestCertificate : ReadRaw.Statement (.attestCertificate) := by intro _ r h; cases h
theorem ReadRaw.attestDone : ReadRaw.Statement (.attestDone) := by intro _ r h; cases h
theorem ReadRaw.recordFetch : ReadRaw.Statement (.recordFetch) := by intro _ r h; cases h
theorem ReadRaw.nopRecord : ReadRaw.Statement (.nopRecord) := by intro _ r h; cases h
theorem ReadRaw.jumpRecord : ReadRaw.Statement (.jumpRecord) := by intro _ r h; cases h
theorem ReadRaw.copyRecord : ReadRaw.Statement (.copyRecord) := by intro _ r h; cases h
theorem ReadRaw.fillRecord : ReadRaw.Statement (.fillRecord) := by intro _ r h; cases h
theorem ReadRaw.launchRecord : ReadRaw.Statement (.launchRecord) := by intro _ r h; cases h
theorem ReadRaw.collRecord : ReadRaw.Statement (.collRecord) := by intro _ r h; cases h
theorem ReadRaw.recordComplete : ReadRaw.Statement (.recordComplete) := by intro _ r h; cases h
theorem ReadRaw.chainRetry : ReadRaw.Statement (.chainRetry) := by intro _ r h; cases h
theorem ReadRaw.chainSkip : ReadRaw.Statement (.chainSkip) := by intro _ r h; cases h
theorem ReadRaw.chainReset : ReadRaw.Statement (.chainReset) := by intro _ r h; cases h
theorem ReadRaw.tokenInject : ReadRaw.Statement (.tokenInject) := by intro _ r h; cases h
theorem ReadRaw.queueRequest : ReadRaw.Statement (.queueRequest) := by intro _ r h; cases h
theorem ReadRaw.qwaitExpiry : ReadRaw.Statement (.qwaitExpiry) := by intro _ r h; cases h
theorem ReadRaw.enginePushExpiry : ReadRaw.Statement (.enginePushExpiry) := by intro _ r h; cases h
theorem ReadRaw.queueSelect : ReadRaw.Statement (.queueSelect) := by intro _ r h; cases h
theorem ReadRaw.queueReset : ReadRaw.Statement (.queueReset) := by intro _ r h; cases h
theorem ReadRaw.regionLoad : ReadRaw.Statement (.regionLoad) := by intro _ r h; cases h
theorem ReadRaw.regionSelect : ReadRaw.Statement (.regionSelect) := by intro _ r h; cases h
theorem ReadRaw.hangSet : ReadRaw.Statement (.hangSet) := by intro _ r h; cases h
theorem ReadRaw.placementSample : ReadRaw.Statement (.placementSample) := by intro _ r h; cases h
theorem ReadRaw.bucketStateCopy : ReadRaw.Statement (.bucketStateCopy) := by intro _ r h; cases h
theorem ReadRaw.bucketRelease : ReadRaw.Statement (.bucketRelease) := by intro _ r h; cases h
theorem ReadRaw.replicaFree : ReadRaw.Statement (.replicaFree) := by intro _ r h; cases h
theorem ReadRaw.shareReweight : ReadRaw.Statement (.shareReweight) := by intro _ r h; cases h
theorem ReadRaw.tokenArrival : ReadRaw.Statement (.tokenArrival) := by intro _ r h; cases h
theorem ReadRaw.tokenMatch : ReadRaw.Statement (.tokenMatch) := by intro _ r h; cases h
theorem ReadRaw.creditNotice : ReadRaw.Statement (.creditNotice) := by intro _ r h; cases h
theorem ReadRaw.qualityGate : ReadRaw.Statement (.qualityGate) := by intro _ r h; cases h
theorem ReadRaw.progressReport : ReadRaw.Statement (.progressReport) := by intro _ r h; cases h
theorem ReadRaw.markerReport : ReadRaw.Statement (.markerReport) := by intro _ r h; cases h
theorem ReadRaw.lapUpdate : ReadRaw.Statement (.lapUpdate) := by intro _ r h; cases h
theorem ReadRaw.lapAck : ReadRaw.Statement (.lapAck) := by intro _ r h; cases h
theorem ReadRaw.frameTrap : ReadRaw.Statement (.frameTrap) := by intro _ r h; cases h
theorem ReadRaw.trapResume : ReadRaw.Statement (.trapResume) := by intro _ r h; cases h
theorem ReadRaw.parkReinject : ReadRaw.Statement (.parkReinject) := by intro _ r h; cases h
theorem ReadRaw.trapKill : ReadRaw.Statement (.trapKill) := by intro _ r h; cases h
theorem ReadRaw.killTagsFree : ReadRaw.Statement (.killTagsFree) := by intro _ r h; cases h
theorem ReadRaw.regionSilent : ReadRaw.Statement (.regionSilent) := by intro _ r h; cases h
theorem ReadRaw.drydown : ReadRaw.Statement (.drydown) := by intro _ r h; cases h
theorem ReadRaw.markerArrival : ReadRaw.Statement (.markerArrival) := by intro _ r h; cases h
theorem ReadRaw.cutComplete : ReadRaw.Statement (.cutComplete) := by intro _ r h; cases h
theorem ReadRaw.freeze : ReadRaw.Statement (.freeze) := by intro _ r h; cases h
theorem ReadRaw.freezeComplete : ReadRaw.Statement (.freezeComplete) := by intro _ r h; cases h
theorem ReadRaw.save : ReadRaw.Statement (.save) := by intro _ r h; cases h
theorem ReadRaw.regionRelease : ReadRaw.Statement (.regionRelease) := by intro _ r h; cases h
theorem ReadRaw.restore : ReadRaw.Statement (.restore) := by intro _ r h; cases h
theorem ReadRaw.restorePlacement : ReadRaw.Statement (.restorePlacement) := by intro _ r h; cases h
theorem ReadRaw.configUe : ReadRaw.Statement (.configUe) := by intro _ r h; cases h
theorem ReadRaw.tileRowLand : ReadRaw.Statement (.tileRowLand) := by intro _ r h; cases h
theorem ReadRaw.tileDrainComplete : ReadRaw.Statement (.tileDrainComplete) := by intro _ r h; cases h
theorem ReadRaw.roundStart : ReadRaw.Statement (.roundStart) := by intro _ r h; cases h
theorem ReadRaw.paramOverwrite : ReadRaw.Statement (.paramOverwrite) := by intro _ r h; cases h
theorem ReadRaw.readAhead : ReadRaw.Statement (.readAhead) := by intro _ r h; cases h
theorem ReadRaw.tileFillStart : ReadRaw.Statement (.tileFillStart) := by intro _ r h; cases h
theorem ReadRaw.spaceToken : ReadRaw.Statement (.spaceToken) := by intro _ r h; cases h
theorem ReadRaw.memoryAccessArrival : ReadRaw.Statement (.memoryAccessArrival) := by intro _ r h; cases h
theorem ReadRaw.heldAccessPerform : ReadRaw.Statement (.heldAccessPerform) := by intro _ r h; cases h
theorem ReadRaw.retryReissue : ReadRaw.Statement (.retryReissue) := by intro _ r h; cases h
theorem ReadRaw.memoryResponse : ReadRaw.Statement (.memoryResponse) := by intro _ r h; cases h
theorem ReadRaw.homeSliceRequest : ReadRaw.Statement (.homeSliceRequest) := by intro _ r h; cases h
theorem ReadRaw.invalidationAck : ReadRaw.Statement (.invalidationAck) := by intro _ r h; cases h
theorem ReadRaw.atomicopCompletion : ReadRaw.Statement (.atomicopCompletion) := by intro _ r h; cases h
theorem ReadRaw.hostReadCompletion : ReadRaw.Statement (.hostReadCompletion) := by intro _ r h; cases h
theorem ReadRaw.fenceComplete : ReadRaw.Statement (.fenceComplete) := by intro _ r h; cases h
theorem ReadRaw.endComplete : ReadRaw.Statement (.endComplete) := by intro _ r h; cases h
theorem ReadRaw.tileEngineDone : ReadRaw.Statement (.tileEngineDone) := by intro _ r h; cases h
theorem ReadRaw.matrixRowStep : ReadRaw.Statement (.matrixRowStep) := by intro _ r h; cases h
theorem ReadRaw.loadComplete : ReadRaw.Statement (.loadComplete) := by intro _ r h; cases h
theorem ReadRaw.dieResetRelease : ReadRaw.Statement (.dieResetRelease) := by intro _ r h; cases h
theorem ReadRaw.configSingleBitError : ReadRaw.Statement (.configSingleBitError) := by intro _ r h; cases h

end Sys2Proof.Laws
end

