-- ==== Sys2Proof/Laws/State.lean ====
section
/-!
SUPPORT. What each named change of a state leaves as it was: one lemma per field, true by definition.
-/

namespace Sys2Proof.Machine

/-! ## updCell -/

@[simp] theorem State.updCell_sch (s : State) (k : Nat) (f : Cell → Cell) : (s.updCell k f).sch = s.sch := rfl
@[simp] theorem State.updCell_hub (s : State) (k : Nat) (f : Cell → Cell) : (s.updCell k f).hub = s.hub := rfl
@[simp] theorem State.updCell_flash (s : State) (k : Nat) (f : Cell → Cell) : (s.updCell k f).flash = s.flash := rfl
@[simp] theorem State.updCell_dies (s : State) (k : Nat) (f : Cell → Cell) : (s.updCell k f).dies = s.dies := rfl
@[simp] theorem State.updCell_cells (s : State) (k : Nat) (f : Cell → Cell) : (s.updCell k f).cells = upd {} k f s.cells := rfl
@[simp] theorem State.updCell_ports (s : State) (k : Nat) (f : Cell → Cell) : (s.updCell k f).ports = s.ports := rfl
@[simp] theorem State.updCell_regions (s : State) (k : Nat) (f : Cell → Cell) : (s.updCell k f).regions = s.regions := rfl
@[simp] theorem State.updCell_toks (s : State) (k : Nat) (f : Cell → Cell) : (s.updCell k f).toks = s.toks := rfl
@[simp] theorem State.updCell_notices (s : State) (k : Nat) (f : Cell → Cell) : (s.updCell k f).notices = s.notices := rfl
@[simp] theorem State.updCell_accesses (s : State) (k : Nat) (f : Cell → Cell) : (s.updCell k f).accesses = s.accesses := rfl
@[simp] theorem State.updCell_responses (s : State) (k : Nat) (f : Cell → Cell) : (s.updCell k f).responses = s.responses := rfl
@[simp] theorem State.updCell_xfers (s : State) (k : Nat) (f : Cell → Cell) : (s.updCell k f).xfers = s.xfers := rfl
@[simp] theorem State.updCell_spaces (s : State) (k : Nat) (f : Cell → Cell) : (s.updCell k f).spaces = s.spaces := rfl
@[simp] theorem State.updCell_outs (s : State) (k : Nat) (f : Cell → Cell) : (s.updCell k f).outs = s.outs := rfl
@[simp] theorem State.updCell_ins (s : State) (k : Nat) (f : Cell → Cell) : (s.updCell k f).ins = s.ins := rfl
@[simp] theorem State.updCell_swErr (s : State) (k : Nat) (f : Cell → Cell) : (s.updCell k f).swErr = s.swErr := rfl
@[simp] theorem State.updCell_eps (s : State) (k : Nat) (f : Cell → Cell) : (s.updCell k f).eps = s.eps := rfl
@[simp] theorem State.updCell_links (s : State) (k : Nat) (f : Cell → Cell) : (s.updCell k f).links = s.links := rfl
@[simp] theorem State.updCell_lnkMod (s : State) (k : Nat) (f : Cell → Cell) : (s.updCell k f).lnkMod = s.lnkMod := rfl
@[simp] theorem State.updCell_farDown (s : State) (k : Nat) (f : Cell → Cell) : (s.updCell k f).farDown = s.farDown := rfl
@[simp] theorem State.updCell_acts (s : State) (k : Nat) (f : Cell → Cell) : (s.updCell k f).acts = s.acts := rfl
@[simp] theorem State.updCell_colls (s : State) (k : Nat) (f : Cell → Cell) : (s.updCell k f).colls = s.colls := rfl
@[simp] theorem State.updCell_rel (s : State) (k : Nat) (f : Cell → Cell) : (s.updCell k f).rel = s.rel := rfl
@[simp] theorem State.updCell_mem (s : State) (k : Nat) (f : Cell → Cell) : (s.updCell k f).mem = s.mem := rfl
@[simp] theorem State.updCell_lineOwner (s : State) (k : Nat) (f : Cell → Cell) : (s.updCell k f).lineOwner = s.lineOwner := rfl
@[simp] theorem State.updCell_caches (s : State) (k : Nat) (f : Cell → Cell) : (s.updCell k f).caches = s.caches := rfl
@[simp] theorem State.updCell_acks (s : State) (k : Nat) (f : Cell → Cell) : (s.updCell k f).acks = s.acks := rfl
@[simp] theorem State.updCell_hostMem (s : State) (k : Nat) (f : Cell → Cell) : (s.updCell k f).hostMem = s.hostMem := rfl

/-! ## updRegion -/

@[simp] theorem State.updRegion_sch (s : State) (id : Nat) (f : Region → Region) : (s.updRegion id f).sch = s.sch := rfl
@[simp] theorem State.updRegion_hub (s : State) (id : Nat) (f : Region → Region) : (s.updRegion id f).hub = s.hub := rfl
@[simp] theorem State.updRegion_flash (s : State) (id : Nat) (f : Region → Region) : (s.updRegion id f).flash = s.flash := rfl
@[simp] theorem State.updRegion_dies (s : State) (id : Nat) (f : Region → Region) : (s.updRegion id f).dies = s.dies := rfl
@[simp] theorem State.updRegion_cells (s : State) (id : Nat) (f : Region → Region) : (s.updRegion id f).cells = s.cells := rfl
@[simp] theorem State.updRegion_ports (s : State) (id : Nat) (f : Region → Region) : (s.updRegion id f).ports = s.ports := rfl
@[simp] theorem State.updRegion_regions (s : State) (id : Nat) (f : Region → Region) : (s.updRegion id f).regions = changeFirst (fun r => r.id = id) f s.regions := rfl
@[simp] theorem State.updRegion_toks (s : State) (id : Nat) (f : Region → Region) : (s.updRegion id f).toks = s.toks := rfl
@[simp] theorem State.updRegion_notices (s : State) (id : Nat) (f : Region → Region) : (s.updRegion id f).notices = s.notices := rfl
@[simp] theorem State.updRegion_accesses (s : State) (id : Nat) (f : Region → Region) : (s.updRegion id f).accesses = s.accesses := rfl
@[simp] theorem State.updRegion_responses (s : State) (id : Nat) (f : Region → Region) : (s.updRegion id f).responses = s.responses := rfl
@[simp] theorem State.updRegion_xfers (s : State) (id : Nat) (f : Region → Region) : (s.updRegion id f).xfers = s.xfers := rfl
@[simp] theorem State.updRegion_spaces (s : State) (id : Nat) (f : Region → Region) : (s.updRegion id f).spaces = s.spaces := rfl
@[simp] theorem State.updRegion_outs (s : State) (id : Nat) (f : Region → Region) : (s.updRegion id f).outs = s.outs := rfl
@[simp] theorem State.updRegion_ins (s : State) (id : Nat) (f : Region → Region) : (s.updRegion id f).ins = s.ins := rfl
@[simp] theorem State.updRegion_swErr (s : State) (id : Nat) (f : Region → Region) : (s.updRegion id f).swErr = s.swErr := rfl
@[simp] theorem State.updRegion_eps (s : State) (id : Nat) (f : Region → Region) : (s.updRegion id f).eps = s.eps := rfl
@[simp] theorem State.updRegion_links (s : State) (id : Nat) (f : Region → Region) : (s.updRegion id f).links = s.links := rfl
@[simp] theorem State.updRegion_lnkMod (s : State) (id : Nat) (f : Region → Region) : (s.updRegion id f).lnkMod = s.lnkMod := rfl
@[simp] theorem State.updRegion_farDown (s : State) (id : Nat) (f : Region → Region) : (s.updRegion id f).farDown = s.farDown := rfl
@[simp] theorem State.updRegion_acts (s : State) (id : Nat) (f : Region → Region) : (s.updRegion id f).acts = s.acts := rfl
@[simp] theorem State.updRegion_colls (s : State) (id : Nat) (f : Region → Region) : (s.updRegion id f).colls = s.colls := rfl
@[simp] theorem State.updRegion_rel (s : State) (id : Nat) (f : Region → Region) : (s.updRegion id f).rel = s.rel := rfl
@[simp] theorem State.updRegion_mem (s : State) (id : Nat) (f : Region → Region) : (s.updRegion id f).mem = s.mem := rfl
@[simp] theorem State.updRegion_lineOwner (s : State) (id : Nat) (f : Region → Region) : (s.updRegion id f).lineOwner = s.lineOwner := rfl
@[simp] theorem State.updRegion_caches (s : State) (id : Nat) (f : Region → Region) : (s.updRegion id f).caches = s.caches := rfl
@[simp] theorem State.updRegion_acks (s : State) (id : Nat) (f : Region → Region) : (s.updRegion id f).acks = s.acks := rfl
@[simp] theorem State.updRegion_hostMem (s : State) (id : Nat) (f : Region → Region) : (s.updRegion id f).hostMem = s.hostMem := rfl

/-! ## updPort -/

@[simp] theorem State.updPort_sch (s : State) (k : Nat) (f : PortCore → PortCore) : (s.updPort k f).sch = s.sch := rfl
@[simp] theorem State.updPort_hub (s : State) (k : Nat) (f : PortCore → PortCore) : (s.updPort k f).hub = s.hub := rfl
@[simp] theorem State.updPort_flash (s : State) (k : Nat) (f : PortCore → PortCore) : (s.updPort k f).flash = s.flash := rfl
@[simp] theorem State.updPort_dies (s : State) (k : Nat) (f : PortCore → PortCore) : (s.updPort k f).dies = s.dies := rfl
@[simp] theorem State.updPort_cells (s : State) (k : Nat) (f : PortCore → PortCore) : (s.updPort k f).cells = s.cells := rfl
@[simp] theorem State.updPort_ports (s : State) (k : Nat) (f : PortCore → PortCore) : (s.updPort k f).ports = upd {} k f s.ports := rfl
@[simp] theorem State.updPort_regions (s : State) (k : Nat) (f : PortCore → PortCore) : (s.updPort k f).regions = s.regions := rfl
@[simp] theorem State.updPort_toks (s : State) (k : Nat) (f : PortCore → PortCore) : (s.updPort k f).toks = s.toks := rfl
@[simp] theorem State.updPort_notices (s : State) (k : Nat) (f : PortCore → PortCore) : (s.updPort k f).notices = s.notices := rfl
@[simp] theorem State.updPort_accesses (s : State) (k : Nat) (f : PortCore → PortCore) : (s.updPort k f).accesses = s.accesses := rfl
@[simp] theorem State.updPort_responses (s : State) (k : Nat) (f : PortCore → PortCore) : (s.updPort k f).responses = s.responses := rfl
@[simp] theorem State.updPort_xfers (s : State) (k : Nat) (f : PortCore → PortCore) : (s.updPort k f).xfers = s.xfers := rfl
@[simp] theorem State.updPort_spaces (s : State) (k : Nat) (f : PortCore → PortCore) : (s.updPort k f).spaces = s.spaces := rfl
@[simp] theorem State.updPort_outs (s : State) (k : Nat) (f : PortCore → PortCore) : (s.updPort k f).outs = s.outs := rfl
@[simp] theorem State.updPort_ins (s : State) (k : Nat) (f : PortCore → PortCore) : (s.updPort k f).ins = s.ins := rfl
@[simp] theorem State.updPort_swErr (s : State) (k : Nat) (f : PortCore → PortCore) : (s.updPort k f).swErr = s.swErr := rfl
@[simp] theorem State.updPort_eps (s : State) (k : Nat) (f : PortCore → PortCore) : (s.updPort k f).eps = s.eps := rfl
@[simp] theorem State.updPort_links (s : State) (k : Nat) (f : PortCore → PortCore) : (s.updPort k f).links = s.links := rfl
@[simp] theorem State.updPort_lnkMod (s : State) (k : Nat) (f : PortCore → PortCore) : (s.updPort k f).lnkMod = s.lnkMod := rfl
@[simp] theorem State.updPort_farDown (s : State) (k : Nat) (f : PortCore → PortCore) : (s.updPort k f).farDown = s.farDown := rfl
@[simp] theorem State.updPort_acts (s : State) (k : Nat) (f : PortCore → PortCore) : (s.updPort k f).acts = s.acts := rfl
@[simp] theorem State.updPort_colls (s : State) (k : Nat) (f : PortCore → PortCore) : (s.updPort k f).colls = s.colls := rfl
@[simp] theorem State.updPort_rel (s : State) (k : Nat) (f : PortCore → PortCore) : (s.updPort k f).rel = s.rel := rfl
@[simp] theorem State.updPort_mem (s : State) (k : Nat) (f : PortCore → PortCore) : (s.updPort k f).mem = s.mem := rfl
@[simp] theorem State.updPort_lineOwner (s : State) (k : Nat) (f : PortCore → PortCore) : (s.updPort k f).lineOwner = s.lineOwner := rfl
@[simp] theorem State.updPort_caches (s : State) (k : Nat) (f : PortCore → PortCore) : (s.updPort k f).caches = s.caches := rfl
@[simp] theorem State.updPort_acks (s : State) (k : Nat) (f : PortCore → PortCore) : (s.updPort k f).acks = s.acks := rfl
@[simp] theorem State.updPort_hostMem (s : State) (k : Nat) (f : PortCore → PortCore) : (s.updPort k f).hostMem = s.hostMem := rfl

/-! ## updDie -/

@[simp] theorem State.updDie_sch (s : State) (d : Nat) (f : Die → Die) : (s.updDie d f).sch = s.sch := rfl
@[simp] theorem State.updDie_hub (s : State) (d : Nat) (f : Die → Die) : (s.updDie d f).hub = s.hub := rfl
@[simp] theorem State.updDie_flash (s : State) (d : Nat) (f : Die → Die) : (s.updDie d f).flash = s.flash := rfl
@[simp] theorem State.updDie_dies (s : State) (d : Nat) (f : Die → Die) : (s.updDie d f).dies = upd {} d f s.dies := rfl
@[simp] theorem State.updDie_cells (s : State) (d : Nat) (f : Die → Die) : (s.updDie d f).cells = s.cells := rfl
@[simp] theorem State.updDie_ports (s : State) (d : Nat) (f : Die → Die) : (s.updDie d f).ports = s.ports := rfl
@[simp] theorem State.updDie_regions (s : State) (d : Nat) (f : Die → Die) : (s.updDie d f).regions = s.regions := rfl
@[simp] theorem State.updDie_toks (s : State) (d : Nat) (f : Die → Die) : (s.updDie d f).toks = s.toks := rfl
@[simp] theorem State.updDie_notices (s : State) (d : Nat) (f : Die → Die) : (s.updDie d f).notices = s.notices := rfl
@[simp] theorem State.updDie_accesses (s : State) (d : Nat) (f : Die → Die) : (s.updDie d f).accesses = s.accesses := rfl
@[simp] theorem State.updDie_responses (s : State) (d : Nat) (f : Die → Die) : (s.updDie d f).responses = s.responses := rfl
@[simp] theorem State.updDie_xfers (s : State) (d : Nat) (f : Die → Die) : (s.updDie d f).xfers = s.xfers := rfl
@[simp] theorem State.updDie_spaces (s : State) (d : Nat) (f : Die → Die) : (s.updDie d f).spaces = s.spaces := rfl
@[simp] theorem State.updDie_outs (s : State) (d : Nat) (f : Die → Die) : (s.updDie d f).outs = s.outs := rfl
@[simp] theorem State.updDie_ins (s : State) (d : Nat) (f : Die → Die) : (s.updDie d f).ins = s.ins := rfl
@[simp] theorem State.updDie_swErr (s : State) (d : Nat) (f : Die → Die) : (s.updDie d f).swErr = s.swErr := rfl
@[simp] theorem State.updDie_eps (s : State) (d : Nat) (f : Die → Die) : (s.updDie d f).eps = s.eps := rfl
@[simp] theorem State.updDie_links (s : State) (d : Nat) (f : Die → Die) : (s.updDie d f).links = s.links := rfl
@[simp] theorem State.updDie_lnkMod (s : State) (d : Nat) (f : Die → Die) : (s.updDie d f).lnkMod = s.lnkMod := rfl
@[simp] theorem State.updDie_farDown (s : State) (d : Nat) (f : Die → Die) : (s.updDie d f).farDown = s.farDown := rfl
@[simp] theorem State.updDie_acts (s : State) (d : Nat) (f : Die → Die) : (s.updDie d f).acts = s.acts := rfl
@[simp] theorem State.updDie_colls (s : State) (d : Nat) (f : Die → Die) : (s.updDie d f).colls = s.colls := rfl
@[simp] theorem State.updDie_rel (s : State) (d : Nat) (f : Die → Die) : (s.updDie d f).rel = s.rel := rfl
@[simp] theorem State.updDie_mem (s : State) (d : Nat) (f : Die → Die) : (s.updDie d f).mem = s.mem := rfl
@[simp] theorem State.updDie_lineOwner (s : State) (d : Nat) (f : Die → Die) : (s.updDie d f).lineOwner = s.lineOwner := rfl
@[simp] theorem State.updDie_caches (s : State) (d : Nat) (f : Die → Die) : (s.updDie d f).caches = s.caches := rfl
@[simp] theorem State.updDie_acks (s : State) (d : Nat) (f : Die → Die) : (s.updDie d f).acks = s.acks := rfl
@[simp] theorem State.updDie_hostMem (s : State) (d : Nat) (f : Die → Die) : (s.updDie d f).hostMem = s.hostMem := rfl

/-! ## updCtx -/

@[simp] theorem State.updCtx_sch (s : State) (c : Nat) (f : Ctx → Ctx) : (s.updCtx c f).sch = s.sch := rfl
@[simp] theorem State.updCtx_hub (s : State) (c : Nat) (f : Ctx → Ctx) : (s.updCtx c f).hub = { s.hub with ctxs := upd {} c f s.hub.ctxs } := rfl
@[simp] theorem State.updCtx_flash (s : State) (c : Nat) (f : Ctx → Ctx) : (s.updCtx c f).flash = s.flash := rfl
@[simp] theorem State.updCtx_dies (s : State) (c : Nat) (f : Ctx → Ctx) : (s.updCtx c f).dies = s.dies := rfl
@[simp] theorem State.updCtx_cells (s : State) (c : Nat) (f : Ctx → Ctx) : (s.updCtx c f).cells = s.cells := rfl
@[simp] theorem State.updCtx_ports (s : State) (c : Nat) (f : Ctx → Ctx) : (s.updCtx c f).ports = s.ports := rfl
@[simp] theorem State.updCtx_regions (s : State) (c : Nat) (f : Ctx → Ctx) : (s.updCtx c f).regions = s.regions := rfl
@[simp] theorem State.updCtx_toks (s : State) (c : Nat) (f : Ctx → Ctx) : (s.updCtx c f).toks = s.toks := rfl
@[simp] theorem State.updCtx_notices (s : State) (c : Nat) (f : Ctx → Ctx) : (s.updCtx c f).notices = s.notices := rfl
@[simp] theorem State.updCtx_accesses (s : State) (c : Nat) (f : Ctx → Ctx) : (s.updCtx c f).accesses = s.accesses := rfl
@[simp] theorem State.updCtx_responses (s : State) (c : Nat) (f : Ctx → Ctx) : (s.updCtx c f).responses = s.responses := rfl
@[simp] theorem State.updCtx_xfers (s : State) (c : Nat) (f : Ctx → Ctx) : (s.updCtx c f).xfers = s.xfers := rfl
@[simp] theorem State.updCtx_spaces (s : State) (c : Nat) (f : Ctx → Ctx) : (s.updCtx c f).spaces = s.spaces := rfl
@[simp] theorem State.updCtx_outs (s : State) (c : Nat) (f : Ctx → Ctx) : (s.updCtx c f).outs = s.outs := rfl
@[simp] theorem State.updCtx_ins (s : State) (c : Nat) (f : Ctx → Ctx) : (s.updCtx c f).ins = s.ins := rfl
@[simp] theorem State.updCtx_swErr (s : State) (c : Nat) (f : Ctx → Ctx) : (s.updCtx c f).swErr = s.swErr := rfl
@[simp] theorem State.updCtx_eps (s : State) (c : Nat) (f : Ctx → Ctx) : (s.updCtx c f).eps = s.eps := rfl
@[simp] theorem State.updCtx_links (s : State) (c : Nat) (f : Ctx → Ctx) : (s.updCtx c f).links = s.links := rfl
@[simp] theorem State.updCtx_lnkMod (s : State) (c : Nat) (f : Ctx → Ctx) : (s.updCtx c f).lnkMod = s.lnkMod := rfl
@[simp] theorem State.updCtx_farDown (s : State) (c : Nat) (f : Ctx → Ctx) : (s.updCtx c f).farDown = s.farDown := rfl
@[simp] theorem State.updCtx_acts (s : State) (c : Nat) (f : Ctx → Ctx) : (s.updCtx c f).acts = s.acts := rfl
@[simp] theorem State.updCtx_colls (s : State) (c : Nat) (f : Ctx → Ctx) : (s.updCtx c f).colls = s.colls := rfl
@[simp] theorem State.updCtx_rel (s : State) (c : Nat) (f : Ctx → Ctx) : (s.updCtx c f).rel = s.rel := rfl
@[simp] theorem State.updCtx_mem (s : State) (c : Nat) (f : Ctx → Ctx) : (s.updCtx c f).mem = s.mem := rfl
@[simp] theorem State.updCtx_lineOwner (s : State) (c : Nat) (f : Ctx → Ctx) : (s.updCtx c f).lineOwner = s.lineOwner := rfl
@[simp] theorem State.updCtx_caches (s : State) (c : Nat) (f : Ctx → Ctx) : (s.updCtx c f).caches = s.caches := rfl
@[simp] theorem State.updCtx_acks (s : State) (c : Nat) (f : Ctx → Ctx) : (s.updCtx c f).acks = s.acks := rfl
@[simp] theorem State.updCtx_hostMem (s : State) (c : Nat) (f : Ctx → Ctx) : (s.updCtx c f).hostMem = s.hostMem := rfl

/-! ## updChain -/

@[simp] theorem State.updChain_sch (s : State) (x c : Nat) (f : Chain → Chain) : (s.updChain x c f).sch = s.sch := rfl
@[simp] theorem State.updChain_flash (s : State) (x c : Nat) (f : Chain → Chain) : (s.updChain x c f).flash = s.flash := rfl
@[simp] theorem State.updChain_dies (s : State) (x c : Nat) (f : Chain → Chain) : (s.updChain x c f).dies = s.dies := rfl
@[simp] theorem State.updChain_cells (s : State) (x c : Nat) (f : Chain → Chain) : (s.updChain x c f).cells = s.cells := rfl
@[simp] theorem State.updChain_ports (s : State) (x c : Nat) (f : Chain → Chain) : (s.updChain x c f).ports = s.ports := rfl
@[simp] theorem State.updChain_regions (s : State) (x c : Nat) (f : Chain → Chain) : (s.updChain x c f).regions = s.regions := rfl
@[simp] theorem State.updChain_toks (s : State) (x c : Nat) (f : Chain → Chain) : (s.updChain x c f).toks = s.toks := rfl
@[simp] theorem State.updChain_notices (s : State) (x c : Nat) (f : Chain → Chain) : (s.updChain x c f).notices = s.notices := rfl
@[simp] theorem State.updChain_accesses (s : State) (x c : Nat) (f : Chain → Chain) : (s.updChain x c f).accesses = s.accesses := rfl
@[simp] theorem State.updChain_responses (s : State) (x c : Nat) (f : Chain → Chain) : (s.updChain x c f).responses = s.responses := rfl
@[simp] theorem State.updChain_xfers (s : State) (x c : Nat) (f : Chain → Chain) : (s.updChain x c f).xfers = s.xfers := rfl
@[simp] theorem State.updChain_spaces (s : State) (x c : Nat) (f : Chain → Chain) : (s.updChain x c f).spaces = s.spaces := rfl
@[simp] theorem State.updChain_outs (s : State) (x c : Nat) (f : Chain → Chain) : (s.updChain x c f).outs = s.outs := rfl
@[simp] theorem State.updChain_ins (s : State) (x c : Nat) (f : Chain → Chain) : (s.updChain x c f).ins = s.ins := rfl
@[simp] theorem State.updChain_swErr (s : State) (x c : Nat) (f : Chain → Chain) : (s.updChain x c f).swErr = s.swErr := rfl
@[simp] theorem State.updChain_eps (s : State) (x c : Nat) (f : Chain → Chain) : (s.updChain x c f).eps = s.eps := rfl
@[simp] theorem State.updChain_links (s : State) (x c : Nat) (f : Chain → Chain) : (s.updChain x c f).links = s.links := rfl
@[simp] theorem State.updChain_lnkMod (s : State) (x c : Nat) (f : Chain → Chain) : (s.updChain x c f).lnkMod = s.lnkMod := rfl
@[simp] theorem State.updChain_farDown (s : State) (x c : Nat) (f : Chain → Chain) : (s.updChain x c f).farDown = s.farDown := rfl
@[simp] theorem State.updChain_acts (s : State) (x c : Nat) (f : Chain → Chain) : (s.updChain x c f).acts = s.acts := rfl
@[simp] theorem State.updChain_colls (s : State) (x c : Nat) (f : Chain → Chain) : (s.updChain x c f).colls = s.colls := rfl
@[simp] theorem State.updChain_rel (s : State) (x c : Nat) (f : Chain → Chain) : (s.updChain x c f).rel = s.rel := rfl
@[simp] theorem State.updChain_mem (s : State) (x c : Nat) (f : Chain → Chain) : (s.updChain x c f).mem = s.mem := rfl
@[simp] theorem State.updChain_lineOwner (s : State) (x c : Nat) (f : Chain → Chain) : (s.updChain x c f).lineOwner = s.lineOwner := rfl
@[simp] theorem State.updChain_caches (s : State) (x c : Nat) (f : Chain → Chain) : (s.updChain x c f).caches = s.caches := rfl
@[simp] theorem State.updChain_acks (s : State) (x c : Nat) (f : Chain → Chain) : (s.updChain x c f).acks = s.acks := rfl
@[simp] theorem State.updChain_hostMem (s : State) (x c : Nat) (f : Chain → Chain) : (s.updChain x c f).hostMem = s.hostMem := rfl

/-! ## updRcd -/

@[simp] theorem State.updRcd_sch (s : State) (x c n : Nat) (f : CmdRec → CmdRec) : (s.updRcd x c n f).sch = s.sch := rfl
@[simp] theorem State.updRcd_flash (s : State) (x c n : Nat) (f : CmdRec → CmdRec) : (s.updRcd x c n f).flash = s.flash := rfl
@[simp] theorem State.updRcd_dies (s : State) (x c n : Nat) (f : CmdRec → CmdRec) : (s.updRcd x c n f).dies = s.dies := rfl
@[simp] theorem State.updRcd_cells (s : State) (x c n : Nat) (f : CmdRec → CmdRec) : (s.updRcd x c n f).cells = s.cells := rfl
@[simp] theorem State.updRcd_ports (s : State) (x c n : Nat) (f : CmdRec → CmdRec) : (s.updRcd x c n f).ports = s.ports := rfl
@[simp] theorem State.updRcd_regions (s : State) (x c n : Nat) (f : CmdRec → CmdRec) : (s.updRcd x c n f).regions = s.regions := rfl
@[simp] theorem State.updRcd_toks (s : State) (x c n : Nat) (f : CmdRec → CmdRec) : (s.updRcd x c n f).toks = s.toks := rfl
@[simp] theorem State.updRcd_notices (s : State) (x c n : Nat) (f : CmdRec → CmdRec) : (s.updRcd x c n f).notices = s.notices := rfl
@[simp] theorem State.updRcd_accesses (s : State) (x c n : Nat) (f : CmdRec → CmdRec) : (s.updRcd x c n f).accesses = s.accesses := rfl
@[simp] theorem State.updRcd_responses (s : State) (x c n : Nat) (f : CmdRec → CmdRec) : (s.updRcd x c n f).responses = s.responses := rfl
@[simp] theorem State.updRcd_xfers (s : State) (x c n : Nat) (f : CmdRec → CmdRec) : (s.updRcd x c n f).xfers = s.xfers := rfl
@[simp] theorem State.updRcd_spaces (s : State) (x c n : Nat) (f : CmdRec → CmdRec) : (s.updRcd x c n f).spaces = s.spaces := rfl
@[simp] theorem State.updRcd_outs (s : State) (x c n : Nat) (f : CmdRec → CmdRec) : (s.updRcd x c n f).outs = s.outs := rfl
@[simp] theorem State.updRcd_ins (s : State) (x c n : Nat) (f : CmdRec → CmdRec) : (s.updRcd x c n f).ins = s.ins := rfl
@[simp] theorem State.updRcd_swErr (s : State) (x c n : Nat) (f : CmdRec → CmdRec) : (s.updRcd x c n f).swErr = s.swErr := rfl
@[simp] theorem State.updRcd_eps (s : State) (x c n : Nat) (f : CmdRec → CmdRec) : (s.updRcd x c n f).eps = s.eps := rfl
@[simp] theorem State.updRcd_links (s : State) (x c n : Nat) (f : CmdRec → CmdRec) : (s.updRcd x c n f).links = s.links := rfl
@[simp] theorem State.updRcd_lnkMod (s : State) (x c n : Nat) (f : CmdRec → CmdRec) : (s.updRcd x c n f).lnkMod = s.lnkMod := rfl
@[simp] theorem State.updRcd_farDown (s : State) (x c n : Nat) (f : CmdRec → CmdRec) : (s.updRcd x c n f).farDown = s.farDown := rfl
@[simp] theorem State.updRcd_acts (s : State) (x c n : Nat) (f : CmdRec → CmdRec) : (s.updRcd x c n f).acts = s.acts := rfl
@[simp] theorem State.updRcd_colls (s : State) (x c n : Nat) (f : CmdRec → CmdRec) : (s.updRcd x c n f).colls = s.colls := rfl
@[simp] theorem State.updRcd_rel (s : State) (x c n : Nat) (f : CmdRec → CmdRec) : (s.updRcd x c n f).rel = s.rel := rfl
@[simp] theorem State.updRcd_mem (s : State) (x c n : Nat) (f : CmdRec → CmdRec) : (s.updRcd x c n f).mem = s.mem := rfl
@[simp] theorem State.updRcd_lineOwner (s : State) (x c n : Nat) (f : CmdRec → CmdRec) : (s.updRcd x c n f).lineOwner = s.lineOwner := rfl
@[simp] theorem State.updRcd_caches (s : State) (x c n : Nat) (f : CmdRec → CmdRec) : (s.updRcd x c n f).caches = s.caches := rfl
@[simp] theorem State.updRcd_acks (s : State) (x c n : Nat) (f : CmdRec → CmdRec) : (s.updRcd x c n f).acks = s.acks := rfl
@[simp] theorem State.updRcd_hostMem (s : State) (x c n : Nat) (f : CmdRec → CmdRec) : (s.updRcd x c n f).hostMem = s.hostMem := rfl

/-! ## updHwq -/

@[simp] theorem State.updHwq_sch (s : State) (x q : Nat) (f : HwQueue → HwQueue) : (s.updHwq x q f).sch = s.sch := rfl
@[simp] theorem State.updHwq_flash (s : State) (x q : Nat) (f : HwQueue → HwQueue) : (s.updHwq x q f).flash = s.flash := rfl
@[simp] theorem State.updHwq_dies (s : State) (x q : Nat) (f : HwQueue → HwQueue) : (s.updHwq x q f).dies = s.dies := rfl
@[simp] theorem State.updHwq_cells (s : State) (x q : Nat) (f : HwQueue → HwQueue) : (s.updHwq x q f).cells = s.cells := rfl
@[simp] theorem State.updHwq_ports (s : State) (x q : Nat) (f : HwQueue → HwQueue) : (s.updHwq x q f).ports = s.ports := rfl
@[simp] theorem State.updHwq_regions (s : State) (x q : Nat) (f : HwQueue → HwQueue) : (s.updHwq x q f).regions = s.regions := rfl
@[simp] theorem State.updHwq_toks (s : State) (x q : Nat) (f : HwQueue → HwQueue) : (s.updHwq x q f).toks = s.toks := rfl
@[simp] theorem State.updHwq_notices (s : State) (x q : Nat) (f : HwQueue → HwQueue) : (s.updHwq x q f).notices = s.notices := rfl
@[simp] theorem State.updHwq_accesses (s : State) (x q : Nat) (f : HwQueue → HwQueue) : (s.updHwq x q f).accesses = s.accesses := rfl
@[simp] theorem State.updHwq_responses (s : State) (x q : Nat) (f : HwQueue → HwQueue) : (s.updHwq x q f).responses = s.responses := rfl
@[simp] theorem State.updHwq_xfers (s : State) (x q : Nat) (f : HwQueue → HwQueue) : (s.updHwq x q f).xfers = s.xfers := rfl
@[simp] theorem State.updHwq_spaces (s : State) (x q : Nat) (f : HwQueue → HwQueue) : (s.updHwq x q f).spaces = s.spaces := rfl
@[simp] theorem State.updHwq_outs (s : State) (x q : Nat) (f : HwQueue → HwQueue) : (s.updHwq x q f).outs = s.outs := rfl
@[simp] theorem State.updHwq_ins (s : State) (x q : Nat) (f : HwQueue → HwQueue) : (s.updHwq x q f).ins = s.ins := rfl
@[simp] theorem State.updHwq_swErr (s : State) (x q : Nat) (f : HwQueue → HwQueue) : (s.updHwq x q f).swErr = s.swErr := rfl
@[simp] theorem State.updHwq_eps (s : State) (x q : Nat) (f : HwQueue → HwQueue) : (s.updHwq x q f).eps = s.eps := rfl
@[simp] theorem State.updHwq_links (s : State) (x q : Nat) (f : HwQueue → HwQueue) : (s.updHwq x q f).links = s.links := rfl
@[simp] theorem State.updHwq_lnkMod (s : State) (x q : Nat) (f : HwQueue → HwQueue) : (s.updHwq x q f).lnkMod = s.lnkMod := rfl
@[simp] theorem State.updHwq_farDown (s : State) (x q : Nat) (f : HwQueue → HwQueue) : (s.updHwq x q f).farDown = s.farDown := rfl
@[simp] theorem State.updHwq_acts (s : State) (x q : Nat) (f : HwQueue → HwQueue) : (s.updHwq x q f).acts = s.acts := rfl
@[simp] theorem State.updHwq_colls (s : State) (x q : Nat) (f : HwQueue → HwQueue) : (s.updHwq x q f).colls = s.colls := rfl
@[simp] theorem State.updHwq_rel (s : State) (x q : Nat) (f : HwQueue → HwQueue) : (s.updHwq x q f).rel = s.rel := rfl
@[simp] theorem State.updHwq_mem (s : State) (x q : Nat) (f : HwQueue → HwQueue) : (s.updHwq x q f).mem = s.mem := rfl
@[simp] theorem State.updHwq_lineOwner (s : State) (x q : Nat) (f : HwQueue → HwQueue) : (s.updHwq x q f).lineOwner = s.lineOwner := rfl
@[simp] theorem State.updHwq_caches (s : State) (x q : Nat) (f : HwQueue → HwQueue) : (s.updHwq x q f).caches = s.caches := rfl
@[simp] theorem State.updHwq_acks (s : State) (x q : Nat) (f : HwQueue → HwQueue) : (s.updHwq x q f).acks = s.acks := rfl
@[simp] theorem State.updHwq_hostMem (s : State) (x q : Nat) (f : HwQueue → HwQueue) : (s.updHwq x q f).hostMem = s.hostMem := rfl

/-! ## updSwOut -/

@[simp] theorem State.updSwOut_sch (s : State) (a b : Nat) (f : SwOut → SwOut) : (s.updSwOut a b f).sch = s.sch := rfl
@[simp] theorem State.updSwOut_hub (s : State) (a b : Nat) (f : SwOut → SwOut) : (s.updSwOut a b f).hub = s.hub := rfl
@[simp] theorem State.updSwOut_flash (s : State) (a b : Nat) (f : SwOut → SwOut) : (s.updSwOut a b f).flash = s.flash := rfl
@[simp] theorem State.updSwOut_dies (s : State) (a b : Nat) (f : SwOut → SwOut) : (s.updSwOut a b f).dies = s.dies := rfl
@[simp] theorem State.updSwOut_cells (s : State) (a b : Nat) (f : SwOut → SwOut) : (s.updSwOut a b f).cells = s.cells := rfl
@[simp] theorem State.updSwOut_ports (s : State) (a b : Nat) (f : SwOut → SwOut) : (s.updSwOut a b f).ports = s.ports := rfl
@[simp] theorem State.updSwOut_regions (s : State) (a b : Nat) (f : SwOut → SwOut) : (s.updSwOut a b f).regions = s.regions := rfl
@[simp] theorem State.updSwOut_toks (s : State) (a b : Nat) (f : SwOut → SwOut) : (s.updSwOut a b f).toks = s.toks := rfl
@[simp] theorem State.updSwOut_notices (s : State) (a b : Nat) (f : SwOut → SwOut) : (s.updSwOut a b f).notices = s.notices := rfl
@[simp] theorem State.updSwOut_accesses (s : State) (a b : Nat) (f : SwOut → SwOut) : (s.updSwOut a b f).accesses = s.accesses := rfl
@[simp] theorem State.updSwOut_responses (s : State) (a b : Nat) (f : SwOut → SwOut) : (s.updSwOut a b f).responses = s.responses := rfl
@[simp] theorem State.updSwOut_xfers (s : State) (a b : Nat) (f : SwOut → SwOut) : (s.updSwOut a b f).xfers = s.xfers := rfl
@[simp] theorem State.updSwOut_spaces (s : State) (a b : Nat) (f : SwOut → SwOut) : (s.updSwOut a b f).spaces = s.spaces := rfl
@[simp] theorem State.updSwOut_outs (s : State) (a b : Nat) (f : SwOut → SwOut) : (s.updSwOut a b f).outs = upd {} (swKey a b) f s.outs := rfl
@[simp] theorem State.updSwOut_ins (s : State) (a b : Nat) (f : SwOut → SwOut) : (s.updSwOut a b f).ins = s.ins := rfl
@[simp] theorem State.updSwOut_swErr (s : State) (a b : Nat) (f : SwOut → SwOut) : (s.updSwOut a b f).swErr = s.swErr := rfl
@[simp] theorem State.updSwOut_eps (s : State) (a b : Nat) (f : SwOut → SwOut) : (s.updSwOut a b f).eps = s.eps := rfl
@[simp] theorem State.updSwOut_links (s : State) (a b : Nat) (f : SwOut → SwOut) : (s.updSwOut a b f).links = s.links := rfl
@[simp] theorem State.updSwOut_lnkMod (s : State) (a b : Nat) (f : SwOut → SwOut) : (s.updSwOut a b f).lnkMod = s.lnkMod := rfl
@[simp] theorem State.updSwOut_farDown (s : State) (a b : Nat) (f : SwOut → SwOut) : (s.updSwOut a b f).farDown = s.farDown := rfl
@[simp] theorem State.updSwOut_acts (s : State) (a b : Nat) (f : SwOut → SwOut) : (s.updSwOut a b f).acts = s.acts := rfl
@[simp] theorem State.updSwOut_colls (s : State) (a b : Nat) (f : SwOut → SwOut) : (s.updSwOut a b f).colls = s.colls := rfl
@[simp] theorem State.updSwOut_rel (s : State) (a b : Nat) (f : SwOut → SwOut) : (s.updSwOut a b f).rel = s.rel := rfl
@[simp] theorem State.updSwOut_mem (s : State) (a b : Nat) (f : SwOut → SwOut) : (s.updSwOut a b f).mem = s.mem := rfl
@[simp] theorem State.updSwOut_lineOwner (s : State) (a b : Nat) (f : SwOut → SwOut) : (s.updSwOut a b f).lineOwner = s.lineOwner := rfl
@[simp] theorem State.updSwOut_caches (s : State) (a b : Nat) (f : SwOut → SwOut) : (s.updSwOut a b f).caches = s.caches := rfl
@[simp] theorem State.updSwOut_acks (s : State) (a b : Nat) (f : SwOut → SwOut) : (s.updSwOut a b f).acks = s.acks := rfl
@[simp] theorem State.updSwOut_hostMem (s : State) (a b : Nat) (f : SwOut → SwOut) : (s.updSwOut a b f).hostMem = s.hostMem := rfl

/-! ## updSwIn -/

@[simp] theorem State.updSwIn_sch (s : State) (a b : Nat) (f : SwIn → SwIn) : (s.updSwIn a b f).sch = s.sch := rfl
@[simp] theorem State.updSwIn_hub (s : State) (a b : Nat) (f : SwIn → SwIn) : (s.updSwIn a b f).hub = s.hub := rfl
@[simp] theorem State.updSwIn_flash (s : State) (a b : Nat) (f : SwIn → SwIn) : (s.updSwIn a b f).flash = s.flash := rfl
@[simp] theorem State.updSwIn_dies (s : State) (a b : Nat) (f : SwIn → SwIn) : (s.updSwIn a b f).dies = s.dies := rfl
@[simp] theorem State.updSwIn_cells (s : State) (a b : Nat) (f : SwIn → SwIn) : (s.updSwIn a b f).cells = s.cells := rfl
@[simp] theorem State.updSwIn_ports (s : State) (a b : Nat) (f : SwIn → SwIn) : (s.updSwIn a b f).ports = s.ports := rfl
@[simp] theorem State.updSwIn_regions (s : State) (a b : Nat) (f : SwIn → SwIn) : (s.updSwIn a b f).regions = s.regions := rfl
@[simp] theorem State.updSwIn_toks (s : State) (a b : Nat) (f : SwIn → SwIn) : (s.updSwIn a b f).toks = s.toks := rfl
@[simp] theorem State.updSwIn_notices (s : State) (a b : Nat) (f : SwIn → SwIn) : (s.updSwIn a b f).notices = s.notices := rfl
@[simp] theorem State.updSwIn_accesses (s : State) (a b : Nat) (f : SwIn → SwIn) : (s.updSwIn a b f).accesses = s.accesses := rfl
@[simp] theorem State.updSwIn_responses (s : State) (a b : Nat) (f : SwIn → SwIn) : (s.updSwIn a b f).responses = s.responses := rfl
@[simp] theorem State.updSwIn_xfers (s : State) (a b : Nat) (f : SwIn → SwIn) : (s.updSwIn a b f).xfers = s.xfers := rfl
@[simp] theorem State.updSwIn_spaces (s : State) (a b : Nat) (f : SwIn → SwIn) : (s.updSwIn a b f).spaces = s.spaces := rfl
@[simp] theorem State.updSwIn_outs (s : State) (a b : Nat) (f : SwIn → SwIn) : (s.updSwIn a b f).outs = s.outs := rfl
@[simp] theorem State.updSwIn_ins (s : State) (a b : Nat) (f : SwIn → SwIn) : (s.updSwIn a b f).ins = upd {} (swKey a b) f s.ins := rfl
@[simp] theorem State.updSwIn_swErr (s : State) (a b : Nat) (f : SwIn → SwIn) : (s.updSwIn a b f).swErr = s.swErr := rfl
@[simp] theorem State.updSwIn_eps (s : State) (a b : Nat) (f : SwIn → SwIn) : (s.updSwIn a b f).eps = s.eps := rfl
@[simp] theorem State.updSwIn_links (s : State) (a b : Nat) (f : SwIn → SwIn) : (s.updSwIn a b f).links = s.links := rfl
@[simp] theorem State.updSwIn_lnkMod (s : State) (a b : Nat) (f : SwIn → SwIn) : (s.updSwIn a b f).lnkMod = s.lnkMod := rfl
@[simp] theorem State.updSwIn_farDown (s : State) (a b : Nat) (f : SwIn → SwIn) : (s.updSwIn a b f).farDown = s.farDown := rfl
@[simp] theorem State.updSwIn_acts (s : State) (a b : Nat) (f : SwIn → SwIn) : (s.updSwIn a b f).acts = s.acts := rfl
@[simp] theorem State.updSwIn_colls (s : State) (a b : Nat) (f : SwIn → SwIn) : (s.updSwIn a b f).colls = s.colls := rfl
@[simp] theorem State.updSwIn_rel (s : State) (a b : Nat) (f : SwIn → SwIn) : (s.updSwIn a b f).rel = s.rel := rfl
@[simp] theorem State.updSwIn_mem (s : State) (a b : Nat) (f : SwIn → SwIn) : (s.updSwIn a b f).mem = s.mem := rfl
@[simp] theorem State.updSwIn_lineOwner (s : State) (a b : Nat) (f : SwIn → SwIn) : (s.updSwIn a b f).lineOwner = s.lineOwner := rfl
@[simp] theorem State.updSwIn_caches (s : State) (a b : Nat) (f : SwIn → SwIn) : (s.updSwIn a b f).caches = s.caches := rfl
@[simp] theorem State.updSwIn_acks (s : State) (a b : Nat) (f : SwIn → SwIn) : (s.updSwIn a b f).acks = s.acks := rfl
@[simp] theorem State.updSwIn_hostMem (s : State) (a b : Nat) (f : SwIn → SwIn) : (s.updSwIn a b f).hostMem = s.hostMem := rfl

/-! ## updEp -/

@[simp] theorem State.updEp_sch (s : State) (k : Nat) (f : Endpoint → Endpoint) : (s.updEp k f).sch = s.sch := rfl
@[simp] theorem State.updEp_hub (s : State) (k : Nat) (f : Endpoint → Endpoint) : (s.updEp k f).hub = s.hub := rfl
@[simp] theorem State.updEp_flash (s : State) (k : Nat) (f : Endpoint → Endpoint) : (s.updEp k f).flash = s.flash := rfl
@[simp] theorem State.updEp_dies (s : State) (k : Nat) (f : Endpoint → Endpoint) : (s.updEp k f).dies = s.dies := rfl
@[simp] theorem State.updEp_cells (s : State) (k : Nat) (f : Endpoint → Endpoint) : (s.updEp k f).cells = s.cells := rfl
@[simp] theorem State.updEp_ports (s : State) (k : Nat) (f : Endpoint → Endpoint) : (s.updEp k f).ports = s.ports := rfl
@[simp] theorem State.updEp_regions (s : State) (k : Nat) (f : Endpoint → Endpoint) : (s.updEp k f).regions = s.regions := rfl
@[simp] theorem State.updEp_toks (s : State) (k : Nat) (f : Endpoint → Endpoint) : (s.updEp k f).toks = s.toks := rfl
@[simp] theorem State.updEp_notices (s : State) (k : Nat) (f : Endpoint → Endpoint) : (s.updEp k f).notices = s.notices := rfl
@[simp] theorem State.updEp_accesses (s : State) (k : Nat) (f : Endpoint → Endpoint) : (s.updEp k f).accesses = s.accesses := rfl
@[simp] theorem State.updEp_responses (s : State) (k : Nat) (f : Endpoint → Endpoint) : (s.updEp k f).responses = s.responses := rfl
@[simp] theorem State.updEp_xfers (s : State) (k : Nat) (f : Endpoint → Endpoint) : (s.updEp k f).xfers = s.xfers := rfl
@[simp] theorem State.updEp_spaces (s : State) (k : Nat) (f : Endpoint → Endpoint) : (s.updEp k f).spaces = s.spaces := rfl
@[simp] theorem State.updEp_outs (s : State) (k : Nat) (f : Endpoint → Endpoint) : (s.updEp k f).outs = s.outs := rfl
@[simp] theorem State.updEp_ins (s : State) (k : Nat) (f : Endpoint → Endpoint) : (s.updEp k f).ins = s.ins := rfl
@[simp] theorem State.updEp_swErr (s : State) (k : Nat) (f : Endpoint → Endpoint) : (s.updEp k f).swErr = s.swErr := rfl
@[simp] theorem State.updEp_eps (s : State) (k : Nat) (f : Endpoint → Endpoint) : (s.updEp k f).eps = upd {} k f s.eps := rfl
@[simp] theorem State.updEp_links (s : State) (k : Nat) (f : Endpoint → Endpoint) : (s.updEp k f).links = s.links := rfl
@[simp] theorem State.updEp_lnkMod (s : State) (k : Nat) (f : Endpoint → Endpoint) : (s.updEp k f).lnkMod = s.lnkMod := rfl
@[simp] theorem State.updEp_farDown (s : State) (k : Nat) (f : Endpoint → Endpoint) : (s.updEp k f).farDown = s.farDown := rfl
@[simp] theorem State.updEp_acts (s : State) (k : Nat) (f : Endpoint → Endpoint) : (s.updEp k f).acts = s.acts := rfl
@[simp] theorem State.updEp_colls (s : State) (k : Nat) (f : Endpoint → Endpoint) : (s.updEp k f).colls = s.colls := rfl
@[simp] theorem State.updEp_rel (s : State) (k : Nat) (f : Endpoint → Endpoint) : (s.updEp k f).rel = s.rel := rfl
@[simp] theorem State.updEp_mem (s : State) (k : Nat) (f : Endpoint → Endpoint) : (s.updEp k f).mem = s.mem := rfl
@[simp] theorem State.updEp_lineOwner (s : State) (k : Nat) (f : Endpoint → Endpoint) : (s.updEp k f).lineOwner = s.lineOwner := rfl
@[simp] theorem State.updEp_caches (s : State) (k : Nat) (f : Endpoint → Endpoint) : (s.updEp k f).caches = s.caches := rfl
@[simp] theorem State.updEp_acks (s : State) (k : Nat) (f : Endpoint → Endpoint) : (s.updEp k f).acks = s.acks := rfl
@[simp] theorem State.updEp_hostMem (s : State) (k : Nat) (f : Endpoint → Endpoint) : (s.updEp k f).hostMem = s.hostMem := rfl

/-! ## updAct -/

@[simp] theorem State.updAct_sch (s : State) (id : Nat) (f : ActStream → ActStream) : (s.updAct id f).sch = s.sch := rfl
@[simp] theorem State.updAct_hub (s : State) (id : Nat) (f : ActStream → ActStream) : (s.updAct id f).hub = s.hub := rfl
@[simp] theorem State.updAct_flash (s : State) (id : Nat) (f : ActStream → ActStream) : (s.updAct id f).flash = s.flash := rfl
@[simp] theorem State.updAct_dies (s : State) (id : Nat) (f : ActStream → ActStream) : (s.updAct id f).dies = s.dies := rfl
@[simp] theorem State.updAct_cells (s : State) (id : Nat) (f : ActStream → ActStream) : (s.updAct id f).cells = s.cells := rfl
@[simp] theorem State.updAct_ports (s : State) (id : Nat) (f : ActStream → ActStream) : (s.updAct id f).ports = s.ports := rfl
@[simp] theorem State.updAct_regions (s : State) (id : Nat) (f : ActStream → ActStream) : (s.updAct id f).regions = s.regions := rfl
@[simp] theorem State.updAct_toks (s : State) (id : Nat) (f : ActStream → ActStream) : (s.updAct id f).toks = s.toks := rfl
@[simp] theorem State.updAct_notices (s : State) (id : Nat) (f : ActStream → ActStream) : (s.updAct id f).notices = s.notices := rfl
@[simp] theorem State.updAct_accesses (s : State) (id : Nat) (f : ActStream → ActStream) : (s.updAct id f).accesses = s.accesses := rfl
@[simp] theorem State.updAct_responses (s : State) (id : Nat) (f : ActStream → ActStream) : (s.updAct id f).responses = s.responses := rfl
@[simp] theorem State.updAct_xfers (s : State) (id : Nat) (f : ActStream → ActStream) : (s.updAct id f).xfers = s.xfers := rfl
@[simp] theorem State.updAct_spaces (s : State) (id : Nat) (f : ActStream → ActStream) : (s.updAct id f).spaces = s.spaces := rfl
@[simp] theorem State.updAct_outs (s : State) (id : Nat) (f : ActStream → ActStream) : (s.updAct id f).outs = s.outs := rfl
@[simp] theorem State.updAct_ins (s : State) (id : Nat) (f : ActStream → ActStream) : (s.updAct id f).ins = s.ins := rfl
@[simp] theorem State.updAct_swErr (s : State) (id : Nat) (f : ActStream → ActStream) : (s.updAct id f).swErr = s.swErr := rfl
@[simp] theorem State.updAct_eps (s : State) (id : Nat) (f : ActStream → ActStream) : (s.updAct id f).eps = s.eps := rfl
@[simp] theorem State.updAct_links (s : State) (id : Nat) (f : ActStream → ActStream) : (s.updAct id f).links = s.links := rfl
@[simp] theorem State.updAct_lnkMod (s : State) (id : Nat) (f : ActStream → ActStream) : (s.updAct id f).lnkMod = s.lnkMod := rfl
@[simp] theorem State.updAct_farDown (s : State) (id : Nat) (f : ActStream → ActStream) : (s.updAct id f).farDown = s.farDown := rfl
@[simp] theorem State.updAct_acts (s : State) (id : Nat) (f : ActStream → ActStream) : (s.updAct id f).acts = changeFirst (fun q => q.id = id) f s.acts := rfl
@[simp] theorem State.updAct_colls (s : State) (id : Nat) (f : ActStream → ActStream) : (s.updAct id f).colls = s.colls := rfl
@[simp] theorem State.updAct_rel (s : State) (id : Nat) (f : ActStream → ActStream) : (s.updAct id f).rel = s.rel := rfl
@[simp] theorem State.updAct_mem (s : State) (id : Nat) (f : ActStream → ActStream) : (s.updAct id f).mem = s.mem := rfl
@[simp] theorem State.updAct_lineOwner (s : State) (id : Nat) (f : ActStream → ActStream) : (s.updAct id f).lineOwner = s.lineOwner := rfl
@[simp] theorem State.updAct_caches (s : State) (id : Nat) (f : ActStream → ActStream) : (s.updAct id f).caches = s.caches := rfl
@[simp] theorem State.updAct_acks (s : State) (id : Nat) (f : ActStream → ActStream) : (s.updAct id f).acks = s.acks := rfl
@[simp] theorem State.updAct_hostMem (s : State) (id : Nat) (f : ActStream → ActStream) : (s.updAct id f).hostMem = s.hostMem := rfl

/-! ## updAccess -/

@[simp] theorem State.updAccess_sch (s : State) (id : Nat) (f : Access → Access) : (s.updAccess id f).sch = s.sch := rfl
@[simp] theorem State.updAccess_hub (s : State) (id : Nat) (f : Access → Access) : (s.updAccess id f).hub = s.hub := rfl
@[simp] theorem State.updAccess_flash (s : State) (id : Nat) (f : Access → Access) : (s.updAccess id f).flash = s.flash := rfl
@[simp] theorem State.updAccess_dies (s : State) (id : Nat) (f : Access → Access) : (s.updAccess id f).dies = s.dies := rfl
@[simp] theorem State.updAccess_cells (s : State) (id : Nat) (f : Access → Access) : (s.updAccess id f).cells = s.cells := rfl
@[simp] theorem State.updAccess_ports (s : State) (id : Nat) (f : Access → Access) : (s.updAccess id f).ports = s.ports := rfl
@[simp] theorem State.updAccess_regions (s : State) (id : Nat) (f : Access → Access) : (s.updAccess id f).regions = s.regions := rfl
@[simp] theorem State.updAccess_toks (s : State) (id : Nat) (f : Access → Access) : (s.updAccess id f).toks = s.toks := rfl
@[simp] theorem State.updAccess_notices (s : State) (id : Nat) (f : Access → Access) : (s.updAccess id f).notices = s.notices := rfl
@[simp] theorem State.updAccess_accesses (s : State) (id : Nat) (f : Access → Access) : (s.updAccess id f).accesses = changeFirst (fun a => a.id = id) f s.accesses := rfl
@[simp] theorem State.updAccess_responses (s : State) (id : Nat) (f : Access → Access) : (s.updAccess id f).responses = s.responses := rfl
@[simp] theorem State.updAccess_xfers (s : State) (id : Nat) (f : Access → Access) : (s.updAccess id f).xfers = s.xfers := rfl
@[simp] theorem State.updAccess_spaces (s : State) (id : Nat) (f : Access → Access) : (s.updAccess id f).spaces = s.spaces := rfl
@[simp] theorem State.updAccess_outs (s : State) (id : Nat) (f : Access → Access) : (s.updAccess id f).outs = s.outs := rfl
@[simp] theorem State.updAccess_ins (s : State) (id : Nat) (f : Access → Access) : (s.updAccess id f).ins = s.ins := rfl
@[simp] theorem State.updAccess_swErr (s : State) (id : Nat) (f : Access → Access) : (s.updAccess id f).swErr = s.swErr := rfl
@[simp] theorem State.updAccess_eps (s : State) (id : Nat) (f : Access → Access) : (s.updAccess id f).eps = s.eps := rfl
@[simp] theorem State.updAccess_links (s : State) (id : Nat) (f : Access → Access) : (s.updAccess id f).links = s.links := rfl
@[simp] theorem State.updAccess_lnkMod (s : State) (id : Nat) (f : Access → Access) : (s.updAccess id f).lnkMod = s.lnkMod := rfl
@[simp] theorem State.updAccess_farDown (s : State) (id : Nat) (f : Access → Access) : (s.updAccess id f).farDown = s.farDown := rfl
@[simp] theorem State.updAccess_acts (s : State) (id : Nat) (f : Access → Access) : (s.updAccess id f).acts = s.acts := rfl
@[simp] theorem State.updAccess_colls (s : State) (id : Nat) (f : Access → Access) : (s.updAccess id f).colls = s.colls := rfl
@[simp] theorem State.updAccess_rel (s : State) (id : Nat) (f : Access → Access) : (s.updAccess id f).rel = s.rel := rfl
@[simp] theorem State.updAccess_mem (s : State) (id : Nat) (f : Access → Access) : (s.updAccess id f).mem = s.mem := rfl
@[simp] theorem State.updAccess_lineOwner (s : State) (id : Nat) (f : Access → Access) : (s.updAccess id f).lineOwner = s.lineOwner := rfl
@[simp] theorem State.updAccess_caches (s : State) (id : Nat) (f : Access → Access) : (s.updAccess id f).caches = s.caches := rfl
@[simp] theorem State.updAccess_acks (s : State) (id : Nat) (f : Access → Access) : (s.updAccess id f).acks = s.acks := rfl
@[simp] theorem State.updAccess_hostMem (s : State) (id : Nat) (f : Access → Access) : (s.updAccess id f).hostMem = s.hostMem := rfl

/-! ## updWave -/

@[simp] theorem State.updWave_sch (s : State) (a : Access) (f : Wave → Wave) : (s.updWave a f).sch = s.sch := rfl
@[simp] theorem State.updWave_hub (s : State) (a : Access) (f : Wave → Wave) : (s.updWave a f).hub = s.hub := rfl
@[simp] theorem State.updWave_flash (s : State) (a : Access) (f : Wave → Wave) : (s.updWave a f).flash = s.flash := rfl
@[simp] theorem State.updWave_dies (s : State) (a : Access) (f : Wave → Wave) : (s.updWave a f).dies = s.dies := rfl
@[simp] theorem State.updWave_cells (s : State) (a : Access) (f : Wave → Wave) : (s.updWave a f).cells = s.cells := rfl
@[simp] theorem State.updWave_regions (s : State) (a : Access) (f : Wave → Wave) : (s.updWave a f).regions = s.regions := rfl
@[simp] theorem State.updWave_toks (s : State) (a : Access) (f : Wave → Wave) : (s.updWave a f).toks = s.toks := rfl
@[simp] theorem State.updWave_notices (s : State) (a : Access) (f : Wave → Wave) : (s.updWave a f).notices = s.notices := rfl
@[simp] theorem State.updWave_accesses (s : State) (a : Access) (f : Wave → Wave) : (s.updWave a f).accesses = s.accesses := rfl
@[simp] theorem State.updWave_responses (s : State) (a : Access) (f : Wave → Wave) : (s.updWave a f).responses = s.responses := rfl
@[simp] theorem State.updWave_xfers (s : State) (a : Access) (f : Wave → Wave) : (s.updWave a f).xfers = s.xfers := rfl
@[simp] theorem State.updWave_spaces (s : State) (a : Access) (f : Wave → Wave) : (s.updWave a f).spaces = s.spaces := rfl
@[simp] theorem State.updWave_outs (s : State) (a : Access) (f : Wave → Wave) : (s.updWave a f).outs = s.outs := rfl
@[simp] theorem State.updWave_ins (s : State) (a : Access) (f : Wave → Wave) : (s.updWave a f).ins = s.ins := rfl
@[simp] theorem State.updWave_swErr (s : State) (a : Access) (f : Wave → Wave) : (s.updWave a f).swErr = s.swErr := rfl
@[simp] theorem State.updWave_eps (s : State) (a : Access) (f : Wave → Wave) : (s.updWave a f).eps = s.eps := rfl
@[simp] theorem State.updWave_links (s : State) (a : Access) (f : Wave → Wave) : (s.updWave a f).links = s.links := rfl
@[simp] theorem State.updWave_lnkMod (s : State) (a : Access) (f : Wave → Wave) : (s.updWave a f).lnkMod = s.lnkMod := rfl
@[simp] theorem State.updWave_farDown (s : State) (a : Access) (f : Wave → Wave) : (s.updWave a f).farDown = s.farDown := rfl
@[simp] theorem State.updWave_acts (s : State) (a : Access) (f : Wave → Wave) : (s.updWave a f).acts = s.acts := rfl
@[simp] theorem State.updWave_colls (s : State) (a : Access) (f : Wave → Wave) : (s.updWave a f).colls = s.colls := rfl
@[simp] theorem State.updWave_rel (s : State) (a : Access) (f : Wave → Wave) : (s.updWave a f).rel = s.rel := rfl
@[simp] theorem State.updWave_mem (s : State) (a : Access) (f : Wave → Wave) : (s.updWave a f).mem = s.mem := rfl
@[simp] theorem State.updWave_lineOwner (s : State) (a : Access) (f : Wave → Wave) : (s.updWave a f).lineOwner = s.lineOwner := rfl
@[simp] theorem State.updWave_caches (s : State) (a : Access) (f : Wave → Wave) : (s.updWave a f).caches = s.caches := rfl
@[simp] theorem State.updWave_acks (s : State) (a : Access) (f : Wave → Wave) : (s.updWave a f).acks = s.acks := rfl
@[simp] theorem State.updWave_hostMem (s : State) (a : Access) (f : Wave → Wave) : (s.updWave a f).hostMem = s.hostMem := rfl

/-! ## updAgn -/

@[simp] theorem State.updAgn_sch (s : State) (r : Region) (b : Binding) (f : Agn → Agn) : (s.updAgn r b f).sch = s.sch := rfl
@[simp] theorem State.updAgn_hub (s : State) (r : Region) (b : Binding) (f : Agn → Agn) : (s.updAgn r b f).hub = s.hub := rfl
@[simp] theorem State.updAgn_flash (s : State) (r : Region) (b : Binding) (f : Agn → Agn) : (s.updAgn r b f).flash = s.flash := rfl
@[simp] theorem State.updAgn_dies (s : State) (r : Region) (b : Binding) (f : Agn → Agn) : (s.updAgn r b f).dies = s.dies := rfl
@[simp] theorem State.updAgn_cells (s : State) (r : Region) (b : Binding) (f : Agn → Agn) : (s.updAgn r b f).cells = s.cells := rfl
@[simp] theorem State.updAgn_regions (s : State) (r : Region) (b : Binding) (f : Agn → Agn) : (s.updAgn r b f).regions = s.regions := rfl
@[simp] theorem State.updAgn_toks (s : State) (r : Region) (b : Binding) (f : Agn → Agn) : (s.updAgn r b f).toks = s.toks := rfl
@[simp] theorem State.updAgn_notices (s : State) (r : Region) (b : Binding) (f : Agn → Agn) : (s.updAgn r b f).notices = s.notices := rfl
@[simp] theorem State.updAgn_accesses (s : State) (r : Region) (b : Binding) (f : Agn → Agn) : (s.updAgn r b f).accesses = s.accesses := rfl
@[simp] theorem State.updAgn_responses (s : State) (r : Region) (b : Binding) (f : Agn → Agn) : (s.updAgn r b f).responses = s.responses := rfl
@[simp] theorem State.updAgn_xfers (s : State) (r : Region) (b : Binding) (f : Agn → Agn) : (s.updAgn r b f).xfers = s.xfers := rfl
@[simp] theorem State.updAgn_spaces (s : State) (r : Region) (b : Binding) (f : Agn → Agn) : (s.updAgn r b f).spaces = s.spaces := rfl
@[simp] theorem State.updAgn_outs (s : State) (r : Region) (b : Binding) (f : Agn → Agn) : (s.updAgn r b f).outs = s.outs := rfl
@[simp] theorem State.updAgn_ins (s : State) (r : Region) (b : Binding) (f : Agn → Agn) : (s.updAgn r b f).ins = s.ins := rfl
@[simp] theorem State.updAgn_swErr (s : State) (r : Region) (b : Binding) (f : Agn → Agn) : (s.updAgn r b f).swErr = s.swErr := rfl
@[simp] theorem State.updAgn_eps (s : State) (r : Region) (b : Binding) (f : Agn → Agn) : (s.updAgn r b f).eps = s.eps := rfl
@[simp] theorem State.updAgn_links (s : State) (r : Region) (b : Binding) (f : Agn → Agn) : (s.updAgn r b f).links = s.links := rfl
@[simp] theorem State.updAgn_lnkMod (s : State) (r : Region) (b : Binding) (f : Agn → Agn) : (s.updAgn r b f).lnkMod = s.lnkMod := rfl
@[simp] theorem State.updAgn_farDown (s : State) (r : Region) (b : Binding) (f : Agn → Agn) : (s.updAgn r b f).farDown = s.farDown := rfl
@[simp] theorem State.updAgn_acts (s : State) (r : Region) (b : Binding) (f : Agn → Agn) : (s.updAgn r b f).acts = s.acts := rfl
@[simp] theorem State.updAgn_colls (s : State) (r : Region) (b : Binding) (f : Agn → Agn) : (s.updAgn r b f).colls = s.colls := rfl
@[simp] theorem State.updAgn_rel (s : State) (r : Region) (b : Binding) (f : Agn → Agn) : (s.updAgn r b f).rel = s.rel := rfl
@[simp] theorem State.updAgn_mem (s : State) (r : Region) (b : Binding) (f : Agn → Agn) : (s.updAgn r b f).mem = s.mem := rfl
@[simp] theorem State.updAgn_lineOwner (s : State) (r : Region) (b : Binding) (f : Agn → Agn) : (s.updAgn r b f).lineOwner = s.lineOwner := rfl
@[simp] theorem State.updAgn_caches (s : State) (r : Region) (b : Binding) (f : Agn → Agn) : (s.updAgn r b f).caches = s.caches := rfl
@[simp] theorem State.updAgn_acks (s : State) (r : Region) (b : Binding) (f : Agn → Agn) : (s.updAgn r b f).acks = s.acks := rfl
@[simp] theorem State.updAgn_hostMem (s : State) (r : Region) (b : Binding) (f : Agn → Agn) : (s.updAgn r b f).hostMem = s.hostMem := rfl

/-! ## updIn -/

@[simp] theorem State.updIn_sch (s : State) (k w a : Nat) (f : InArc → InArc) : (s.updIn k w a f).sch = s.sch := rfl
@[simp] theorem State.updIn_hub (s : State) (k w a : Nat) (f : InArc → InArc) : (s.updIn k w a f).hub = s.hub := rfl
@[simp] theorem State.updIn_flash (s : State) (k w a : Nat) (f : InArc → InArc) : (s.updIn k w a f).flash = s.flash := rfl
@[simp] theorem State.updIn_dies (s : State) (k w a : Nat) (f : InArc → InArc) : (s.updIn k w a f).dies = s.dies := rfl
@[simp] theorem State.updIn_ports (s : State) (k w a : Nat) (f : InArc → InArc) : (s.updIn k w a f).ports = s.ports := rfl
@[simp] theorem State.updIn_regions (s : State) (k w a : Nat) (f : InArc → InArc) : (s.updIn k w a f).regions = s.regions := rfl
@[simp] theorem State.updIn_toks (s : State) (k w a : Nat) (f : InArc → InArc) : (s.updIn k w a f).toks = s.toks := rfl
@[simp] theorem State.updIn_notices (s : State) (k w a : Nat) (f : InArc → InArc) : (s.updIn k w a f).notices = s.notices := rfl
@[simp] theorem State.updIn_accesses (s : State) (k w a : Nat) (f : InArc → InArc) : (s.updIn k w a f).accesses = s.accesses := rfl
@[simp] theorem State.updIn_responses (s : State) (k w a : Nat) (f : InArc → InArc) : (s.updIn k w a f).responses = s.responses := rfl
@[simp] theorem State.updIn_xfers (s : State) (k w a : Nat) (f : InArc → InArc) : (s.updIn k w a f).xfers = s.xfers := rfl
@[simp] theorem State.updIn_spaces (s : State) (k w a : Nat) (f : InArc → InArc) : (s.updIn k w a f).spaces = s.spaces := rfl
@[simp] theorem State.updIn_outs (s : State) (k w a : Nat) (f : InArc → InArc) : (s.updIn k w a f).outs = s.outs := rfl
@[simp] theorem State.updIn_ins (s : State) (k w a : Nat) (f : InArc → InArc) : (s.updIn k w a f).ins = s.ins := rfl
@[simp] theorem State.updIn_swErr (s : State) (k w a : Nat) (f : InArc → InArc) : (s.updIn k w a f).swErr = s.swErr := rfl
@[simp] theorem State.updIn_eps (s : State) (k w a : Nat) (f : InArc → InArc) : (s.updIn k w a f).eps = s.eps := rfl
@[simp] theorem State.updIn_links (s : State) (k w a : Nat) (f : InArc → InArc) : (s.updIn k w a f).links = s.links := rfl
@[simp] theorem State.updIn_lnkMod (s : State) (k w a : Nat) (f : InArc → InArc) : (s.updIn k w a f).lnkMod = s.lnkMod := rfl
@[simp] theorem State.updIn_farDown (s : State) (k w a : Nat) (f : InArc → InArc) : (s.updIn k w a f).farDown = s.farDown := rfl
@[simp] theorem State.updIn_acts (s : State) (k w a : Nat) (f : InArc → InArc) : (s.updIn k w a f).acts = s.acts := rfl
@[simp] theorem State.updIn_colls (s : State) (k w a : Nat) (f : InArc → InArc) : (s.updIn k w a f).colls = s.colls := rfl
@[simp] theorem State.updIn_rel (s : State) (k w a : Nat) (f : InArc → InArc) : (s.updIn k w a f).rel = s.rel := rfl
@[simp] theorem State.updIn_mem (s : State) (k w a : Nat) (f : InArc → InArc) : (s.updIn k w a f).mem = s.mem := rfl
@[simp] theorem State.updIn_lineOwner (s : State) (k w a : Nat) (f : InArc → InArc) : (s.updIn k w a f).lineOwner = s.lineOwner := rfl
@[simp] theorem State.updIn_caches (s : State) (k w a : Nat) (f : InArc → InArc) : (s.updIn k w a f).caches = s.caches := rfl
@[simp] theorem State.updIn_acks (s : State) (k w a : Nat) (f : InArc → InArc) : (s.updIn k w a f).acks = s.acks := rfl
@[simp] theorem State.updIn_hostMem (s : State) (k w a : Nat) (f : InArc → InArc) : (s.updIn k w a f).hostMem = s.hostMem := rfl

/-! ## updOut -/

@[simp] theorem State.updOut_sch (s : State) (k w a : Nat) (f : OutArc → OutArc) : (s.updOut k w a f).sch = s.sch := rfl
@[simp] theorem State.updOut_hub (s : State) (k w a : Nat) (f : OutArc → OutArc) : (s.updOut k w a f).hub = s.hub := rfl
@[simp] theorem State.updOut_flash (s : State) (k w a : Nat) (f : OutArc → OutArc) : (s.updOut k w a f).flash = s.flash := rfl
@[simp] theorem State.updOut_dies (s : State) (k w a : Nat) (f : OutArc → OutArc) : (s.updOut k w a f).dies = s.dies := rfl
@[simp] theorem State.updOut_ports (s : State) (k w a : Nat) (f : OutArc → OutArc) : (s.updOut k w a f).ports = s.ports := rfl
@[simp] theorem State.updOut_regions (s : State) (k w a : Nat) (f : OutArc → OutArc) : (s.updOut k w a f).regions = s.regions := rfl
@[simp] theorem State.updOut_toks (s : State) (k w a : Nat) (f : OutArc → OutArc) : (s.updOut k w a f).toks = s.toks := rfl
@[simp] theorem State.updOut_notices (s : State) (k w a : Nat) (f : OutArc → OutArc) : (s.updOut k w a f).notices = s.notices := rfl
@[simp] theorem State.updOut_accesses (s : State) (k w a : Nat) (f : OutArc → OutArc) : (s.updOut k w a f).accesses = s.accesses := rfl
@[simp] theorem State.updOut_responses (s : State) (k w a : Nat) (f : OutArc → OutArc) : (s.updOut k w a f).responses = s.responses := rfl
@[simp] theorem State.updOut_xfers (s : State) (k w a : Nat) (f : OutArc → OutArc) : (s.updOut k w a f).xfers = s.xfers := rfl
@[simp] theorem State.updOut_spaces (s : State) (k w a : Nat) (f : OutArc → OutArc) : (s.updOut k w a f).spaces = s.spaces := rfl
@[simp] theorem State.updOut_outs (s : State) (k w a : Nat) (f : OutArc → OutArc) : (s.updOut k w a f).outs = s.outs := rfl
@[simp] theorem State.updOut_ins (s : State) (k w a : Nat) (f : OutArc → OutArc) : (s.updOut k w a f).ins = s.ins := rfl
@[simp] theorem State.updOut_swErr (s : State) (k w a : Nat) (f : OutArc → OutArc) : (s.updOut k w a f).swErr = s.swErr := rfl
@[simp] theorem State.updOut_eps (s : State) (k w a : Nat) (f : OutArc → OutArc) : (s.updOut k w a f).eps = s.eps := rfl
@[simp] theorem State.updOut_links (s : State) (k w a : Nat) (f : OutArc → OutArc) : (s.updOut k w a f).links = s.links := rfl
@[simp] theorem State.updOut_lnkMod (s : State) (k w a : Nat) (f : OutArc → OutArc) : (s.updOut k w a f).lnkMod = s.lnkMod := rfl
@[simp] theorem State.updOut_farDown (s : State) (k w a : Nat) (f : OutArc → OutArc) : (s.updOut k w a f).farDown = s.farDown := rfl
@[simp] theorem State.updOut_acts (s : State) (k w a : Nat) (f : OutArc → OutArc) : (s.updOut k w a f).acts = s.acts := rfl
@[simp] theorem State.updOut_colls (s : State) (k w a : Nat) (f : OutArc → OutArc) : (s.updOut k w a f).colls = s.colls := rfl
@[simp] theorem State.updOut_rel (s : State) (k w a : Nat) (f : OutArc → OutArc) : (s.updOut k w a f).rel = s.rel := rfl
@[simp] theorem State.updOut_mem (s : State) (k w a : Nat) (f : OutArc → OutArc) : (s.updOut k w a f).mem = s.mem := rfl
@[simp] theorem State.updOut_lineOwner (s : State) (k w a : Nat) (f : OutArc → OutArc) : (s.updOut k w a f).lineOwner = s.lineOwner := rfl
@[simp] theorem State.updOut_caches (s : State) (k w a : Nat) (f : OutArc → OutArc) : (s.updOut k w a f).caches = s.caches := rfl
@[simp] theorem State.updOut_acks (s : State) (k w a : Nat) (f : OutArc → OutArc) : (s.updOut k w a f).acks = s.acks := rfl
@[simp] theorem State.updOut_hostMem (s : State) (k w a : Nat) (f : OutArc → OutArc) : (s.updOut k w a f).hostMem = s.hostMem := rfl

/-! ## sendVector -/

@[simp] theorem State.sendVector_sch (s : State) (v : Nat) : (s.sendVector v).sch = s.sch := rfl
@[simp] theorem State.sendVector_hub (s : State) (v : Nat) : (s.sendVector v).hub = { s.hub with irqs := s.hub.irqs ++ [v] } := rfl
@[simp] theorem State.sendVector_flash (s : State) (v : Nat) : (s.sendVector v).flash = s.flash := rfl
@[simp] theorem State.sendVector_dies (s : State) (v : Nat) : (s.sendVector v).dies = s.dies := rfl
@[simp] theorem State.sendVector_cells (s : State) (v : Nat) : (s.sendVector v).cells = s.cells := rfl
@[simp] theorem State.sendVector_ports (s : State) (v : Nat) : (s.sendVector v).ports = s.ports := rfl
@[simp] theorem State.sendVector_regions (s : State) (v : Nat) : (s.sendVector v).regions = s.regions := rfl
@[simp] theorem State.sendVector_toks (s : State) (v : Nat) : (s.sendVector v).toks = s.toks := rfl
@[simp] theorem State.sendVector_notices (s : State) (v : Nat) : (s.sendVector v).notices = s.notices := rfl
@[simp] theorem State.sendVector_accesses (s : State) (v : Nat) : (s.sendVector v).accesses = s.accesses := rfl
@[simp] theorem State.sendVector_responses (s : State) (v : Nat) : (s.sendVector v).responses = s.responses := rfl
@[simp] theorem State.sendVector_xfers (s : State) (v : Nat) : (s.sendVector v).xfers = s.xfers := rfl
@[simp] theorem State.sendVector_spaces (s : State) (v : Nat) : (s.sendVector v).spaces = s.spaces := rfl
@[simp] theorem State.sendVector_outs (s : State) (v : Nat) : (s.sendVector v).outs = s.outs := rfl
@[simp] theorem State.sendVector_ins (s : State) (v : Nat) : (s.sendVector v).ins = s.ins := rfl
@[simp] theorem State.sendVector_swErr (s : State) (v : Nat) : (s.sendVector v).swErr = s.swErr := rfl
@[simp] theorem State.sendVector_eps (s : State) (v : Nat) : (s.sendVector v).eps = s.eps := rfl
@[simp] theorem State.sendVector_links (s : State) (v : Nat) : (s.sendVector v).links = s.links := rfl
@[simp] theorem State.sendVector_lnkMod (s : State) (v : Nat) : (s.sendVector v).lnkMod = s.lnkMod := rfl
@[simp] theorem State.sendVector_farDown (s : State) (v : Nat) : (s.sendVector v).farDown = s.farDown := rfl
@[simp] theorem State.sendVector_acts (s : State) (v : Nat) : (s.sendVector v).acts = s.acts := rfl
@[simp] theorem State.sendVector_colls (s : State) (v : Nat) : (s.sendVector v).colls = s.colls := rfl
@[simp] theorem State.sendVector_rel (s : State) (v : Nat) : (s.sendVector v).rel = s.rel := rfl
@[simp] theorem State.sendVector_mem (s : State) (v : Nat) : (s.sendVector v).mem = s.mem := rfl
@[simp] theorem State.sendVector_lineOwner (s : State) (v : Nat) : (s.sendVector v).lineOwner = s.lineOwner := rfl
@[simp] theorem State.sendVector_caches (s : State) (v : Nat) : (s.sendVector v).caches = s.caches := rfl
@[simp] theorem State.sendVector_acks (s : State) (v : Nat) : (s.sendVector v).acks = s.acks := rfl
@[simp] theorem State.sendVector_hostMem (s : State) (v : Nat) : (s.sendVector v).hostMem = s.hostMem := rfl

/-! ## hostWrite -/

@[simp] theorem State.hostWrite_sch (s : State) (a : Nat) (bs : List Byte) : (s.hostWrite a bs).sch = s.sch := rfl
@[simp] theorem State.hostWrite_hub (s : State) (a : Nat) (bs : List Byte) : (s.hostWrite a bs).hub = s.hub := rfl
@[simp] theorem State.hostWrite_flash (s : State) (a : Nat) (bs : List Byte) : (s.hostWrite a bs).flash = s.flash := rfl
@[simp] theorem State.hostWrite_dies (s : State) (a : Nat) (bs : List Byte) : (s.hostWrite a bs).dies = s.dies := rfl
@[simp] theorem State.hostWrite_cells (s : State) (a : Nat) (bs : List Byte) : (s.hostWrite a bs).cells = s.cells := rfl
@[simp] theorem State.hostWrite_ports (s : State) (a : Nat) (bs : List Byte) : (s.hostWrite a bs).ports = s.ports := rfl
@[simp] theorem State.hostWrite_regions (s : State) (a : Nat) (bs : List Byte) : (s.hostWrite a bs).regions = s.regions := rfl
@[simp] theorem State.hostWrite_toks (s : State) (a : Nat) (bs : List Byte) : (s.hostWrite a bs).toks = s.toks := rfl
@[simp] theorem State.hostWrite_notices (s : State) (a : Nat) (bs : List Byte) : (s.hostWrite a bs).notices = s.notices := rfl
@[simp] theorem State.hostWrite_accesses (s : State) (a : Nat) (bs : List Byte) : (s.hostWrite a bs).accesses = s.accesses := rfl
@[simp] theorem State.hostWrite_responses (s : State) (a : Nat) (bs : List Byte) : (s.hostWrite a bs).responses = s.responses := rfl
@[simp] theorem State.hostWrite_xfers (s : State) (a : Nat) (bs : List Byte) : (s.hostWrite a bs).xfers = s.xfers := rfl
@[simp] theorem State.hostWrite_spaces (s : State) (a : Nat) (bs : List Byte) : (s.hostWrite a bs).spaces = s.spaces := rfl
@[simp] theorem State.hostWrite_outs (s : State) (a : Nat) (bs : List Byte) : (s.hostWrite a bs).outs = s.outs := rfl
@[simp] theorem State.hostWrite_ins (s : State) (a : Nat) (bs : List Byte) : (s.hostWrite a bs).ins = s.ins := rfl
@[simp] theorem State.hostWrite_swErr (s : State) (a : Nat) (bs : List Byte) : (s.hostWrite a bs).swErr = s.swErr := rfl
@[simp] theorem State.hostWrite_eps (s : State) (a : Nat) (bs : List Byte) : (s.hostWrite a bs).eps = s.eps := rfl
@[simp] theorem State.hostWrite_links (s : State) (a : Nat) (bs : List Byte) : (s.hostWrite a bs).links = s.links := rfl
@[simp] theorem State.hostWrite_lnkMod (s : State) (a : Nat) (bs : List Byte) : (s.hostWrite a bs).lnkMod = s.lnkMod := rfl
@[simp] theorem State.hostWrite_farDown (s : State) (a : Nat) (bs : List Byte) : (s.hostWrite a bs).farDown = s.farDown := rfl
@[simp] theorem State.hostWrite_acts (s : State) (a : Nat) (bs : List Byte) : (s.hostWrite a bs).acts = s.acts := rfl
@[simp] theorem State.hostWrite_colls (s : State) (a : Nat) (bs : List Byte) : (s.hostWrite a bs).colls = s.colls := rfl
@[simp] theorem State.hostWrite_rel (s : State) (a : Nat) (bs : List Byte) : (s.hostWrite a bs).rel = s.rel := rfl
@[simp] theorem State.hostWrite_mem (s : State) (a : Nat) (bs : List Byte) : (s.hostWrite a bs).mem = s.mem := rfl
@[simp] theorem State.hostWrite_lineOwner (s : State) (a : Nat) (bs : List Byte) : (s.hostWrite a bs).lineOwner = s.lineOwner := rfl
@[simp] theorem State.hostWrite_acks (s : State) (a : Nat) (bs : List Byte) : (s.hostWrite a bs).acks = s.acks := rfl
@[simp] theorem State.hostWrite_hostMem (s : State) (a : Nat) (bs : List Byte) : (s.hostWrite a bs).hostMem = writeBytes a bs s.hostMem := rfl

/-! ## report -/

@[simp] theorem State.report_sch (s : State) (f : Firing) (b : Bool) (c : FaultClass) (n : Nat) : (s.report f b c n).sch = s.sch := rfl
@[simp] theorem State.report_hub (s : State) (f : Firing) (b : Bool) (c : FaultClass) (n : Nat) : (s.report f b c n).hub = s.hub := rfl
@[simp] theorem State.report_flash (s : State) (f : Firing) (b : Bool) (c : FaultClass) (n : Nat) : (s.report f b c n).flash = s.flash := rfl
@[simp] theorem State.report_cells (s : State) (f : Firing) (b : Bool) (c : FaultClass) (n : Nat) : (s.report f b c n).cells = s.cells := rfl
@[simp] theorem State.report_ports (s : State) (f : Firing) (b : Bool) (c : FaultClass) (n : Nat) : (s.report f b c n).ports = s.ports := rfl
@[simp] theorem State.report_regions (s : State) (f : Firing) (b : Bool) (c : FaultClass) (n : Nat) : (s.report f b c n).regions = s.regions := rfl
@[simp] theorem State.report_toks (s : State) (f : Firing) (b : Bool) (c : FaultClass) (n : Nat) : (s.report f b c n).toks = s.toks := rfl
@[simp] theorem State.report_notices (s : State) (f : Firing) (b : Bool) (c : FaultClass) (n : Nat) : (s.report f b c n).notices = s.notices := rfl
@[simp] theorem State.report_accesses (s : State) (f : Firing) (b : Bool) (c : FaultClass) (n : Nat) : (s.report f b c n).accesses = s.accesses := rfl
@[simp] theorem State.report_responses (s : State) (f : Firing) (b : Bool) (c : FaultClass) (n : Nat) : (s.report f b c n).responses = s.responses := rfl
@[simp] theorem State.report_xfers (s : State) (f : Firing) (b : Bool) (c : FaultClass) (n : Nat) : (s.report f b c n).xfers = s.xfers := rfl
@[simp] theorem State.report_spaces (s : State) (f : Firing) (b : Bool) (c : FaultClass) (n : Nat) : (s.report f b c n).spaces = s.spaces := rfl
@[simp] theorem State.report_outs (s : State) (f : Firing) (b : Bool) (c : FaultClass) (n : Nat) : (s.report f b c n).outs = s.outs := rfl
@[simp] theorem State.report_ins (s : State) (f : Firing) (b : Bool) (c : FaultClass) (n : Nat) : (s.report f b c n).ins = s.ins := rfl
@[simp] theorem State.report_swErr (s : State) (f : Firing) (b : Bool) (c : FaultClass) (n : Nat) : (s.report f b c n).swErr = s.swErr := rfl
@[simp] theorem State.report_eps (s : State) (f : Firing) (b : Bool) (c : FaultClass) (n : Nat) : (s.report f b c n).eps = s.eps := rfl
@[simp] theorem State.report_links (s : State) (f : Firing) (b : Bool) (c : FaultClass) (n : Nat) : (s.report f b c n).links = s.links := rfl
@[simp] theorem State.report_lnkMod (s : State) (f : Firing) (b : Bool) (c : FaultClass) (n : Nat) : (s.report f b c n).lnkMod = s.lnkMod := rfl
@[simp] theorem State.report_farDown (s : State) (f : Firing) (b : Bool) (c : FaultClass) (n : Nat) : (s.report f b c n).farDown = s.farDown := rfl
@[simp] theorem State.report_acts (s : State) (f : Firing) (b : Bool) (c : FaultClass) (n : Nat) : (s.report f b c n).acts = s.acts := rfl
@[simp] theorem State.report_colls (s : State) (f : Firing) (b : Bool) (c : FaultClass) (n : Nat) : (s.report f b c n).colls = s.colls := rfl
@[simp] theorem State.report_rel (s : State) (f : Firing) (b : Bool) (c : FaultClass) (n : Nat) : (s.report f b c n).rel = s.rel := rfl
@[simp] theorem State.report_mem (s : State) (f : Firing) (b : Bool) (c : FaultClass) (n : Nat) : (s.report f b c n).mem = s.mem := rfl
@[simp] theorem State.report_lineOwner (s : State) (f : Firing) (b : Bool) (c : FaultClass) (n : Nat) : (s.report f b c n).lineOwner = s.lineOwner := rfl
@[simp] theorem State.report_caches (s : State) (f : Firing) (b : Bool) (c : FaultClass) (n : Nat) : (s.report f b c n).caches = s.caches := rfl
@[simp] theorem State.report_acks (s : State) (f : Firing) (b : Bool) (c : FaultClass) (n : Nat) : (s.report f b c n).acks = s.acks := rfl
@[simp] theorem State.report_hostMem (s : State) (f : Firing) (b : Bool) (c : FaultClass) (n : Nat) : (s.report f b c n).hostMem = s.hostMem := rfl

/-! ## begin -/

@[simp] theorem State.begin_hub (s : State) (f : Firing) : (s.begin f).hub = s.hub := rfl
@[simp] theorem State.begin_flash (s : State) (f : Firing) : (s.begin f).flash = s.flash := rfl
@[simp] theorem State.begin_dies (s : State) (f : Firing) : (s.begin f).dies = s.dies := rfl
@[simp] theorem State.begin_cells (s : State) (f : Firing) : (s.begin f).cells = s.cells := rfl
@[simp] theorem State.begin_ports (s : State) (f : Firing) : (s.begin f).ports = s.ports := rfl
@[simp] theorem State.begin_regions (s : State) (f : Firing) : (s.begin f).regions = s.regions := rfl
@[simp] theorem State.begin_toks (s : State) (f : Firing) : (s.begin f).toks = s.toks := rfl
@[simp] theorem State.begin_notices (s : State) (f : Firing) : (s.begin f).notices = s.notices := rfl
@[simp] theorem State.begin_accesses (s : State) (f : Firing) : (s.begin f).accesses = s.accesses := rfl
@[simp] theorem State.begin_responses (s : State) (f : Firing) : (s.begin f).responses = s.responses := rfl
@[simp] theorem State.begin_xfers (s : State) (f : Firing) : (s.begin f).xfers = s.xfers := rfl
@[simp] theorem State.begin_spaces (s : State) (f : Firing) : (s.begin f).spaces = s.spaces := rfl
@[simp] theorem State.begin_outs (s : State) (f : Firing) : (s.begin f).outs = s.outs := rfl
@[simp] theorem State.begin_ins (s : State) (f : Firing) : (s.begin f).ins = s.ins := rfl
@[simp] theorem State.begin_swErr (s : State) (f : Firing) : (s.begin f).swErr = s.swErr := rfl
@[simp] theorem State.begin_eps (s : State) (f : Firing) : (s.begin f).eps = s.eps := rfl
@[simp] theorem State.begin_links (s : State) (f : Firing) : (s.begin f).links = s.links := rfl
@[simp] theorem State.begin_lnkMod (s : State) (f : Firing) : (s.begin f).lnkMod = s.lnkMod := rfl
@[simp] theorem State.begin_farDown (s : State) (f : Firing) : (s.begin f).farDown = s.farDown := rfl
@[simp] theorem State.begin_acts (s : State) (f : Firing) : (s.begin f).acts = s.acts := rfl
@[simp] theorem State.begin_colls (s : State) (f : Firing) : (s.begin f).colls = s.colls := rfl
@[simp] theorem State.begin_rel (s : State) (f : Firing) : (s.begin f).rel = s.rel := rfl
@[simp] theorem State.begin_mem (s : State) (f : Firing) : (s.begin f).mem = s.mem := rfl
@[simp] theorem State.begin_lineOwner (s : State) (f : Firing) : (s.begin f).lineOwner = s.lineOwner := rfl
@[simp] theorem State.begin_caches (s : State) (f : Firing) : (s.begin f).caches = s.caches := rfl
@[simp] theorem State.begin_acks (s : State) (f : Firing) : (s.begin f).acks = s.acks := rfl
@[simp] theorem State.begin_hostMem (s : State) (f : Firing) : (s.begin f).hostMem = s.hostMem := rfl

/-! ## take -/

@[simp] theorem State.take_hub (s : State) (a : Args) (t : List (Instr × Args)) : (s.take a t).hub = s.hub := rfl
@[simp] theorem State.take_flash (s : State) (a : Args) (t : List (Instr × Args)) : (s.take a t).flash = s.flash := rfl
@[simp] theorem State.take_dies (s : State) (a : Args) (t : List (Instr × Args)) : (s.take a t).dies = s.dies := rfl
@[simp] theorem State.take_cells (s : State) (a : Args) (t : List (Instr × Args)) : (s.take a t).cells = s.cells := rfl
@[simp] theorem State.take_ports (s : State) (a : Args) (t : List (Instr × Args)) : (s.take a t).ports = s.ports := rfl
@[simp] theorem State.take_regions (s : State) (a : Args) (t : List (Instr × Args)) : (s.take a t).regions = s.regions := rfl
@[simp] theorem State.take_toks (s : State) (a : Args) (t : List (Instr × Args)) : (s.take a t).toks = s.toks := rfl
@[simp] theorem State.take_notices (s : State) (a : Args) (t : List (Instr × Args)) : (s.take a t).notices = s.notices := rfl
@[simp] theorem State.take_accesses (s : State) (a : Args) (t : List (Instr × Args)) : (s.take a t).accesses = s.accesses := rfl
@[simp] theorem State.take_responses (s : State) (a : Args) (t : List (Instr × Args)) : (s.take a t).responses = s.responses := rfl
@[simp] theorem State.take_xfers (s : State) (a : Args) (t : List (Instr × Args)) : (s.take a t).xfers = s.xfers := rfl
@[simp] theorem State.take_spaces (s : State) (a : Args) (t : List (Instr × Args)) : (s.take a t).spaces = s.spaces := rfl
@[simp] theorem State.take_outs (s : State) (a : Args) (t : List (Instr × Args)) : (s.take a t).outs = s.outs := rfl
@[simp] theorem State.take_ins (s : State) (a : Args) (t : List (Instr × Args)) : (s.take a t).ins = s.ins := rfl
@[simp] theorem State.take_swErr (s : State) (a : Args) (t : List (Instr × Args)) : (s.take a t).swErr = s.swErr := rfl
@[simp] theorem State.take_eps (s : State) (a : Args) (t : List (Instr × Args)) : (s.take a t).eps = s.eps := rfl
@[simp] theorem State.take_links (s : State) (a : Args) (t : List (Instr × Args)) : (s.take a t).links = s.links := rfl
@[simp] theorem State.take_lnkMod (s : State) (a : Args) (t : List (Instr × Args)) : (s.take a t).lnkMod = s.lnkMod := rfl
@[simp] theorem State.take_farDown (s : State) (a : Args) (t : List (Instr × Args)) : (s.take a t).farDown = s.farDown := rfl
@[simp] theorem State.take_acts (s : State) (a : Args) (t : List (Instr × Args)) : (s.take a t).acts = s.acts := rfl
@[simp] theorem State.take_colls (s : State) (a : Args) (t : List (Instr × Args)) : (s.take a t).colls = s.colls := rfl
@[simp] theorem State.take_rel (s : State) (a : Args) (t : List (Instr × Args)) : (s.take a t).rel = s.rel := rfl
@[simp] theorem State.take_mem (s : State) (a : Args) (t : List (Instr × Args)) : (s.take a t).mem = s.mem := rfl
@[simp] theorem State.take_lineOwner (s : State) (a : Args) (t : List (Instr × Args)) : (s.take a t).lineOwner = s.lineOwner := rfl
@[simp] theorem State.take_caches (s : State) (a : Args) (t : List (Instr × Args)) : (s.take a t).caches = s.caches := rfl
@[simp] theorem State.take_acks (s : State) (a : Args) (t : List (Instr × Args)) : (s.take a t).acks = s.acks := rfl
@[simp] theorem State.take_hostMem (s : State) (a : Args) (t : List (Instr × Args)) : (s.take a t).hostMem = s.hostMem := rfl

/-! ## newId -/

@[simp] theorem State.newId_hub (s : State) : s.newId.2.hub = s.hub := rfl
@[simp] theorem State.newId_flash (s : State) : s.newId.2.flash = s.flash := rfl
@[simp] theorem State.newId_dies (s : State) : s.newId.2.dies = s.dies := rfl
@[simp] theorem State.newId_cells (s : State) : s.newId.2.cells = s.cells := rfl
@[simp] theorem State.newId_ports (s : State) : s.newId.2.ports = s.ports := rfl
@[simp] theorem State.newId_regions (s : State) : s.newId.2.regions = s.regions := rfl
@[simp] theorem State.newId_toks (s : State) : s.newId.2.toks = s.toks := rfl
@[simp] theorem State.newId_notices (s : State) : s.newId.2.notices = s.notices := rfl
@[simp] theorem State.newId_accesses (s : State) : s.newId.2.accesses = s.accesses := rfl
@[simp] theorem State.newId_responses (s : State) : s.newId.2.responses = s.responses := rfl
@[simp] theorem State.newId_xfers (s : State) : s.newId.2.xfers = s.xfers := rfl
@[simp] theorem State.newId_spaces (s : State) : s.newId.2.spaces = s.spaces := rfl
@[simp] theorem State.newId_outs (s : State) : s.newId.2.outs = s.outs := rfl
@[simp] theorem State.newId_ins (s : State) : s.newId.2.ins = s.ins := rfl
@[simp] theorem State.newId_swErr (s : State) : s.newId.2.swErr = s.swErr := rfl
@[simp] theorem State.newId_eps (s : State) : s.newId.2.eps = s.eps := rfl
@[simp] theorem State.newId_links (s : State) : s.newId.2.links = s.links := rfl
@[simp] theorem State.newId_lnkMod (s : State) : s.newId.2.lnkMod = s.lnkMod := rfl
@[simp] theorem State.newId_farDown (s : State) : s.newId.2.farDown = s.farDown := rfl
@[simp] theorem State.newId_acts (s : State) : s.newId.2.acts = s.acts := rfl
@[simp] theorem State.newId_colls (s : State) : s.newId.2.colls = s.colls := rfl
@[simp] theorem State.newId_rel (s : State) : s.newId.2.rel = s.rel := rfl
@[simp] theorem State.newId_mem (s : State) : s.newId.2.mem = s.mem := rfl
@[simp] theorem State.newId_lineOwner (s : State) : s.newId.2.lineOwner = s.lineOwner := rfl
@[simp] theorem State.newId_caches (s : State) : s.newId.2.caches = s.caches := rfl
@[simp] theorem State.newId_acks (s : State) : s.newId.2.acks = s.acks := rfl
@[simp] theorem State.newId_hostMem (s : State) : s.newId.2.hostMem = s.hostMem := rfl

/-! ## newStamp -/

@[simp] theorem State.newStamp_hub (s : State) : s.newStamp.2.hub = s.hub := rfl
@[simp] theorem State.newStamp_flash (s : State) : s.newStamp.2.flash = s.flash := rfl
@[simp] theorem State.newStamp_dies (s : State) : s.newStamp.2.dies = s.dies := rfl
@[simp] theorem State.newStamp_cells (s : State) : s.newStamp.2.cells = s.cells := rfl
@[simp] theorem State.newStamp_ports (s : State) : s.newStamp.2.ports = s.ports := rfl
@[simp] theorem State.newStamp_regions (s : State) : s.newStamp.2.regions = s.regions := rfl
@[simp] theorem State.newStamp_toks (s : State) : s.newStamp.2.toks = s.toks := rfl
@[simp] theorem State.newStamp_notices (s : State) : s.newStamp.2.notices = s.notices := rfl
@[simp] theorem State.newStamp_accesses (s : State) : s.newStamp.2.accesses = s.accesses := rfl
@[simp] theorem State.newStamp_responses (s : State) : s.newStamp.2.responses = s.responses := rfl
@[simp] theorem State.newStamp_xfers (s : State) : s.newStamp.2.xfers = s.xfers := rfl
@[simp] theorem State.newStamp_spaces (s : State) : s.newStamp.2.spaces = s.spaces := rfl
@[simp] theorem State.newStamp_outs (s : State) : s.newStamp.2.outs = s.outs := rfl
@[simp] theorem State.newStamp_ins (s : State) : s.newStamp.2.ins = s.ins := rfl
@[simp] theorem State.newStamp_swErr (s : State) : s.newStamp.2.swErr = s.swErr := rfl
@[simp] theorem State.newStamp_eps (s : State) : s.newStamp.2.eps = s.eps := rfl
@[simp] theorem State.newStamp_links (s : State) : s.newStamp.2.links = s.links := rfl
@[simp] theorem State.newStamp_lnkMod (s : State) : s.newStamp.2.lnkMod = s.lnkMod := rfl
@[simp] theorem State.newStamp_farDown (s : State) : s.newStamp.2.farDown = s.farDown := rfl
@[simp] theorem State.newStamp_acts (s : State) : s.newStamp.2.acts = s.acts := rfl
@[simp] theorem State.newStamp_colls (s : State) : s.newStamp.2.colls = s.colls := rfl
@[simp] theorem State.newStamp_rel (s : State) : s.newStamp.2.rel = s.rel := rfl
@[simp] theorem State.newStamp_mem (s : State) : s.newStamp.2.mem = s.mem := rfl
@[simp] theorem State.newStamp_lineOwner (s : State) : s.newStamp.2.lineOwner = s.lineOwner := rfl
@[simp] theorem State.newStamp_caches (s : State) : s.newStamp.2.caches = s.caches := rfl
@[simp] theorem State.newStamp_acks (s : State) : s.newStamp.2.acks = s.acks := rfl
@[simp] theorem State.newStamp_hostMem (s : State) : s.newStamp.2.hostMem = s.hostMem := rfl

end Sys2Proof.Machine
end

