-- ==== Sys2Proof/Tests/Slice0.lean ====
section
/-!
SUPPORT. Tests: the words of every instruction written field by field from the encoding tables of spec/15 and 16, words that are refused,
ill-formed terms, the results of single firings worked by hand from the rules (or given by the spec's worked programs), and for each
statement of Certificates/Slice0/Obligations.lean a concrete state and operands that meet its hypotheses (`witness_<statement>`, clause
by clause).
-/

namespace Sys2Proof.Tests

set_option Elab.async false

open Sys2Proof Sys2Proof.Machine Sys2Proof.Claims

/-! ## Words -/

/-- Whether a word decodes to an instruction. -/
def reads (w : BitVec 32) (i : Instr) : Bool :=
  match decode w with
  | .ok j => decide (j = i)
  | .error _ => false

/-- The words of the dataflow family. -/
theorem test_decode_dataflow : [
    reads (0x00#7 ++ 0#2 ++ 0#5 ++ 0x07F#9 ++ 0x07F#9) (.nop .always),
    reads (0x01#7 ++ 1#2 ++ 0#5 ++ 0x0A1#9 ++ 0x145#9) (.mov .ifTrue (.slot .l false 33) (.slot .r true 5)),
    reads (0x02#7 ++ 2#2 ++ 0x2ABC#14 ++ 0x145#9) (.lit .ifFalse 0x2ABC (.slot .r true 5)),
    reads (0x03#7 ++ 0#2 ++ 0#5 ++ 0x0A1#9 ++ 0x145#9) (.lit32 .always (.slot .l false 33) (.slot .r true 5)),
    reads (0x04#7 ++ 0#2 ++ 0#5 ++ 0x0A1#9 ++ 0x145#9) (.steer .always (.slot .l false 33) (.slot .r true 5)),
    reads (0x05#7 ++ 0#2 ++ 0#5 ++ 0x0A1#9 ++ 0x145#9) (.gate .always (.slot .l false 33) (.slot .r true 5)),
    reads (0x05#7 ++ 0#2 ++ 1#5 ++ 0x0A1#9 ++ 0x145#9) (.gaten .always (.slot .l false 33) (.slot .r true 5)),
    reads (0x06#7 ++ 0#2 ++ 0#5 ++ 0x0A1#9 ++ 0x145#9) (.merge (.slot .l false 33) (.slot .r true 5)),
    reads (0x07#7 ++ 0#2 ++ 0#5 ++ 0x0A1#9 ++ 0x145#9) (.sync .always (.slot .l false 33) (.slot .r true 5)),
    reads (0x08#7 ++ 0#2 ++ 0#5 ++ 0x0A1#9 ++ 0x145#9) (.iter .always (.slot .l false 33) (.slot .r true 5)),
    reads (0x08#7 ++ 0#2 ++ 1#5 ++ 0x0A1#9 ++ 0x145#9) (.nextIter .always (.slot .l false 33) (.slot .r true 5)),
    reads (0x08#7 ++ 0#2 ++ 2#5 ++ 0x0A1#9 ++ 0x145#9) (.retire .always (.slot .l false 33) (.slot .r true 5)),
    reads (0x09#7 ++ 0#2 ++ 0b00101#5 ++ 0x0A1#9 ++ 0x145#9) (.frame .always 5 (.slot .l false 33) (.slot .r true 5)),
    reads (0x09#7 ++ 0#2 ++ 0b10000#5 ++ 0x0A1#9 ++ 0x145#9) (.fret .always (.slot .l false 33) (.slot .r true 5)),
    reads (0x0A#7 ++ 0#2 ++ 0#5 ++ 0x07F#9 ++ 0x07F#9) (.send .always),
    reads (0x0A#7 ++ 0#2 ++ 1#5 ++ 0x07F#9 ++ 0x07F#9) (.sendm .always),
    reads (0x0C#7 ++ 0#2 ++ 0#5 ++ 0x0A1#9 ++ 0x145#9) (.cnt .always (.slot .l false 33) (.slot .r true 5)),
    reads (0x0C#7 ++ 0#2 ++ 1#5 ++ 0x0A1#9 ++ 0x145#9) (.bound .always (.slot .l false 33) (.slot .r true 5)),
    reads (0x0D#7 ++ 0#2 ++ 0#5 ++ 0x0A1#9 ++ 0x145#9) (.tagrd .always (.slot .l false 33) (.slot .r true 5)),
    reads (0x0D#7 ++ 0#2 ++ 1#5 ++ 0x0A1#9 ++ 0x145#9) (.qlvl .always (.slot .l false 33) (.slot .r true 5)),
    reads (0x0E#7 ++ 0#2 ++ 0b00#2 ++ 1#1 ++ 0#6 ++ 19#5 ++ 0x145#9) (.rdh .always true 19 (.slot .r true 5)),
    reads (0x0E#7 ++ 0#2 ++ 0b01#2 ++ 0#1 ++ 0#6 ++ 19#5 ++ 0x145#9) (.wrh .always 19 (.slot .r true 5)),
    reads (0x0E#7 ++ 0#2 ++ 0b10#2 ++ 0#1 ++ 0#6 ++ 19#5 ++ 0x145#9) (.clrh .always 19 (.slot .r true 5)),
    reads (0x0E#7 ++ 0#2 ++ 0b11#2 ++ 0#1 ++ 0#6 ++ 19#5 ++ 0x145#9) (.tsth .always 19 (.slot .r true 5))].all id = true := by decide

/-- The words of the dataflow family, part 2. -/
theorem test_decode_dataflow_2 : [
    reads (0x0F#7 ++ 0#2 ++ 0#5 ++ 0x07F#9 ++ 0x07F#9) (.endRegion .always)].all id = true := by decide

/-- The words of the integers family. -/
theorem test_decode_integers : [
    reads (0x10#7 ++ 0#2 ++ 0b00000#5 ++ 0x0A1#9 ++ 0x145#9) (.add .always false (.slot .l false 33) (.slot .r true 5)),
    reads (0x11#7 ++ 0#2 ++ 0b10000#5 ++ 0x0A1#9 ++ 0x145#9) (.sub .always true (.slot .l false 33) (.slot .r true 5)),
    reads (0x15#7 ++ 0#2 ++ 0b10000#5 ++ 0x0A1#9 ++ 0x145#9) (.and .always true (.slot .l false 33) (.slot .r true 5)),
    reads (0x16#7 ++ 0#2 ++ 0b00000#5 ++ 0x0A1#9 ++ 0x145#9) (.or .always false (.slot .l false 33) (.slot .r true 5)),
    reads (0x17#7 ++ 0#2 ++ 0b10000#5 ++ 0x0A1#9 ++ 0x145#9) (.xor .always true (.slot .l false 33) (.slot .r true 5)),
    reads (0x18#7 ++ 0#2 ++ 0b00000#5 ++ 0x0A1#9 ++ 0x145#9) (.andn .always false (.slot .l false 33) (.slot .r true 5)),
    reads (0x19#7 ++ 0#2 ++ 0b10000#5 ++ 0x0A1#9 ++ 0x145#9) (.shl .always true (.slot .l false 33) (.slot .r true 5)),
    reads (0x1A#7 ++ 0#2 ++ 0b00000#5 ++ 0x0A1#9 ++ 0x145#9) (.shr .always false (.slot .l false 33) (.slot .r true 5)),
    reads (0x1B#7 ++ 0#2 ++ 0b10000#5 ++ 0x0A1#9 ++ 0x145#9) (.sra .always true (.slot .l false 33) (.slot .r true 5)),
    reads (0x12#7 ++ 0#2 ++ 0b00000#5 ++ 0x0A1#9 ++ 0x145#9) (.mul .always false (.slot .l false 33) (.slot .r true 5)),
    reads (0x12#7 ++ 0#2 ++ 0b10001#5 ++ 0x0A1#9 ++ 0x145#9) (.mulh .always true (.slot .l false 33) (.slot .r true 5)),
    reads (0x12#7 ++ 0#2 ++ 0b00010#5 ++ 0x0A1#9 ++ 0x145#9) (.mulhu .always false (.slot .l false 33) (.slot .r true 5)),
    reads (0x13#7 ++ 0#2 ++ 0b10000#5 ++ 0x0A1#9 ++ 0x145#9) (.div .always true (.slot .l false 33) (.slot .r true 5)),
    reads (0x13#7 ++ 0#2 ++ 0b00001#5 ++ 0x0A1#9 ++ 0x145#9) (.divu .always false (.slot .l false 33) (.slot .r true 5)),
    reads (0x14#7 ++ 0#2 ++ 0b00000#5 ++ 0x0A1#9 ++ 0x145#9) (.rem .always false (.slot .l false 33) (.slot .r true 5)),
    reads (0x14#7 ++ 0#2 ++ 0b10001#5 ++ 0x0A1#9 ++ 0x145#9) (.remu .always true (.slot .l false 33) (.slot .r true 5)),
    reads (0x1C#7 ++ 0#2 ++ 0b00000#5 ++ 0x0A1#9 ++ 0x145#9) (.rol .always false (.slot .l false 33) (.slot .r true 5)),
    reads (0x1C#7 ++ 0#2 ++ 0b10001#5 ++ 0x0A1#9 ++ 0x145#9) (.ror .always true (.slot .l false 33) (.slot .r true 5)),
    reads (0x1E#7 ++ 0#2 ++ 0b00000#5 ++ 0x0A1#9 ++ 0x145#9) (.min .always false (.slot .l false 33) (.slot .r true 5)),
    reads (0x1E#7 ++ 0#2 ++ 0b10001#5 ++ 0x0A1#9 ++ 0x145#9) (.max .always true (.slot .l false 33) (.slot .r true 5)),
    reads (0x1E#7 ++ 0#2 ++ 0b00010#5 ++ 0x0A1#9 ++ 0x145#9) (.minu .always false (.slot .l false 33) (.slot .r true 5)),
    reads (0x1E#7 ++ 0#2 ++ 0b10011#5 ++ 0x0A1#9 ++ 0x145#9) (.maxu .always true (.slot .l false 33) (.slot .r true 5)),
    reads (0x1F#7 ++ 0#2 ++ 0b10000#5 ++ 0x0A1#9 ++ 0x145#9) (.bfxu .always true (.slot .l false 33) (.slot .r true 5)),
    reads (0x1F#7 ++ 0#2 ++ 0b00001#5 ++ 0x0A1#9 ++ 0x145#9) (.bfxs .always false (.slot .l false 33) (.slot .r true 5))].all id = true := by decide

/-- The words of the integers family, part 2. -/
theorem test_decode_integers_2 : [
    reads (0x21#7 ++ 0#2 ++ 0b10000#5 ++ 0x0A1#9 ++ 0x145#9) (.popc .always true (.slot .l false 33) (.slot .r true 5)),
    reads (0x21#7 ++ 0#2 ++ 0b00001#5 ++ 0x0A1#9 ++ 0x145#9) (.clz .always false (.slot .l false 33) (.slot .r true 5)),
    reads (0x21#7 ++ 0#2 ++ 0b10010#5 ++ 0x0A1#9 ++ 0x145#9) (.ctz .always true (.slot .l false 33) (.slot .r true 5)),
    reads (0x23#7 ++ 0#2 ++ 0b10000#5 ++ 0x0A1#9 ++ 0x145#9) (.neg .always true (.slot .l false 33) (.slot .r true 5)),
    reads (0x23#7 ++ 0#2 ++ 0b00001#5 ++ 0x0A1#9 ++ 0x145#9) (.abs .always false (.slot .l false 33) (.slot .r true 5)),
    reads (0x24#7 ++ 0#2 ++ 0b00000#5 ++ 0x0A1#9 ++ 0x145#9) (.sx8 .always false (.slot .l false 33) (.slot .r true 5)),
    reads (0x24#7 ++ 0#2 ++ 0b10001#5 ++ 0x0A1#9 ++ 0x145#9) (.sx16 .always true (.slot .l false 33) (.slot .r true 5)),
    reads (0x24#7 ++ 0#2 ++ 0b00100#5 ++ 0x0A1#9 ++ 0x145#9) (.zx8 .always false (.slot .l false 33) (.slot .r true 5)),
    reads (0x24#7 ++ 0#2 ++ 0b10101#5 ++ 0x0A1#9 ++ 0x145#9) (.zx16 .always true (.slot .l false 33) (.slot .r true 5)),
    reads (0x1D#7 ++ 0#2 ++ 0b10000#5 ++ 0x0A1#9 ++ 0x145#9) (.cmp .always true .eq (.slot .l false 33) (.slot .r true 5)),
    reads (0x1D#7 ++ 0#2 ++ 0b10001#5 ++ 0x0A1#9 ++ 0x145#9) (.cmp .always true .ne (.slot .l false 33) (.slot .r true 5)),
    reads (0x1D#7 ++ 0#2 ++ 0b10010#5 ++ 0x0A1#9 ++ 0x145#9) (.cmp .always true .lt (.slot .l false 33) (.slot .r true 5)),
    reads (0x1D#7 ++ 0#2 ++ 0b10011#5 ++ 0x0A1#9 ++ 0x145#9) (.cmp .always true .le (.slot .l false 33) (.slot .r true 5)),
    reads (0x1D#7 ++ 0#2 ++ 0b10100#5 ++ 0x0A1#9 ++ 0x145#9) (.cmp .always true .gt (.slot .l false 33) (.slot .r true 5)),
    reads (0x1D#7 ++ 0#2 ++ 0b10101#5 ++ 0x0A1#9 ++ 0x145#9) (.cmp .always true .ge (.slot .l false 33) (.slot .r true 5)),
    reads (0x1D#7 ++ 0#2 ++ 0b10110#5 ++ 0x0A1#9 ++ 0x145#9) (.cmp .always true .ltu (.slot .l false 33) (.slot .r true 5)),
    reads (0x1D#7 ++ 0#2 ++ 0b10111#5 ++ 0x0A1#9 ++ 0x145#9) (.cmp .always true .leu (.slot .l false 33) (.slot .r true 5)),
    reads (0x1D#7 ++ 0#2 ++ 0b11000#5 ++ 0x0A1#9 ++ 0x145#9) (.cmp .always true .gtu (.slot .l false 33) (.slot .r true 5)),
    reads (0x1D#7 ++ 0#2 ++ 0b11001#5 ++ 0x0A1#9 ++ 0x145#9) (.cmp .always true .geu (.slot .l false 33) (.slot .r true 5)),
    reads (0x20#7 ++ 3#2 ++ 0b10000#5 ++ 0x0A1#9 ++ 0x145#9) (.bfi true (.slot .l false 33) (.slot .r true 5)),
    reads (0x22#7 ++ 3#2 ++ 0#5 ++ 0x0A1#9 ++ 0x145#9) (.sel false (.slot .l false 33) (.slot .r true 5)),
    reads (0x24#7 ++ 0#2 ++ 2#5 ++ 0x0A1#9 ++ 0x145#9) (.sx32 .always (.slot .l false 33) (.slot .r true 5)),
    reads (0x24#7 ++ 0#2 ++ 6#5 ++ 0x0A1#9 ++ 0x145#9) (.zx32 .always (.slot .l false 33) (.slot .r true 5)),
    reads (0x25#7 ++ 0#2 ++ 0x3FFE#14 ++ 0x145#9) (.addi .always 0x3FFE (.slot .r true 5))].all id = true := by decide

/-- The words of the integers family, part 3. -/
theorem test_decode_integers_3 : [
    reads (0x26#7 ++ 0#2 ++ 0x3FFE#14 ++ 0x145#9) (.andi .always 0x3FFE (.slot .r true 5)),
    reads (0x27#7 ++ 0#2 ++ 0x3FFE#14 ++ 0x145#9) (.ori .always 0x3FFE (.slot .r true 5)),
    reads (0x28#7 ++ 0#2 ++ 0x3FFE#14 ++ 0x145#9) (.xori .always 0x3FFE (.slot .r true 5))].all id = true := by decide

/-- The words of the floats family. -/
theorem test_decode_floats : [
    reads (0x30#7 ++ 0#2 ++ 0b01000#5 ++ 0x0A1#9 ++ 0x145#9) (.fadd .always .h .rn (.slot .l false 33) (.slot .r true 5)),
    reads (0x31#7 ++ 0#2 ++ 0b10001#5 ++ 0x0A1#9 ++ 0x145#9) (.fsub .always .b .rz (.slot .l false 33) (.slot .r true 5)),
    reads (0x32#7 ++ 0#2 ++ 0b00010#5 ++ 0x0A1#9 ++ 0x145#9) (.fmul .always .s .ru (.slot .l false 33) (.slot .r true 5)),
    reads (0x34#7 ++ 0#2 ++ 0b01011#5 ++ 0x0A1#9 ++ 0x145#9) (.fdiv .always .h .rd (.slot .l false 33) (.slot .r true 5)),
    reads (0x35#7 ++ 0#2 ++ 0b10001#5 ++ 0x0A1#9 ++ 0x145#9) (.fsqrt .always .b .rz (.slot .l false 33) (.slot .r true 5)),
    reads (0x3F#7 ++ 0#2 ++ 0b00010#5 ++ 0x0A1#9 ++ 0x145#9) (.frnd .always .s .ru (.slot .l false 33) (.slot .r true 5)),
    reads (0x33#7 ++ 3#2 ++ 0b01011#5 ++ 0x0A1#9 ++ 0x145#9) (.ffma .h .rd (.slot .l false 33) (.slot .r true 5)),
    reads (0x36#7 ++ 0#2 ++ 0b10000#5 ++ 0x0A1#9 ++ 0x145#9) (.fmin .always .b (.slot .l false 33) (.slot .r true 5)),
    reads (0x36#7 ++ 0#2 ++ 0b00100#5 ++ 0x0A1#9 ++ 0x145#9) (.fmax .always .s (.slot .l false 33) (.slot .r true 5)),
    reads (0x37#7 ++ 0#2 ++ 0b01000#5 ++ 0x0A1#9 ++ 0x145#9) (.fminm .always .h (.slot .l false 33) (.slot .r true 5)),
    reads (0x37#7 ++ 0#2 ++ 0b10100#5 ++ 0x0A1#9 ++ 0x145#9) (.fmaxm .always .b (.slot .l false 33) (.slot .r true 5)),
    reads (0x38#7 ++ 0#2 ++ 0b00000#5 ++ 0x0A1#9 ++ 0x145#9) (.fabs .always .s (.slot .l false 33) (.slot .r true 5)),
    reads (0x38#7 ++ 0#2 ++ 0b01100#5 ++ 0x0A1#9 ++ 0x145#9) (.fneg .always .h (.slot .l false 33) (.slot .r true 5)),
    reads (0x3A#7 ++ 0#2 ++ 0b10000#5 ++ 0x0A1#9 ++ 0x145#9) (.frcp .always .b (.slot .l false 33) (.slot .r true 5)),
    reads (0x3B#7 ++ 0#2 ++ 0b00000#5 ++ 0x0A1#9 ++ 0x145#9) (.frsq .always .s (.slot .l false 33) (.slot .r true 5)),
    reads (0x3C#7 ++ 0#2 ++ 0b01000#5 ++ 0x0A1#9 ++ 0x145#9) (.fexp2 .always .h (.slot .l false 33) (.slot .r true 5)),
    reads (0x3D#7 ++ 0#2 ++ 0b10000#5 ++ 0x0A1#9 ++ 0x145#9) (.flog2 .always .b (.slot .l false 33) (.slot .r true 5)),
    reads (0x3E#7 ++ 0#2 ++ 0b00000#5 ++ 0x0A1#9 ++ 0x145#9) (.fsin .always .s (.slot .l false 33) (.slot .r true 5)),
    reads (0x3E#7 ++ 0#2 ++ 0b01100#5 ++ 0x0A1#9 ++ 0x145#9) (.fcos .always .h (.slot .l false 33) (.slot .r true 5)),
    reads (0x45#7 ++ 0#2 ++ 0b10000#5 ++ 0x0A1#9 ++ 0x145#9) (.cvt8 .always .b (.slot .l false 33) (.slot .r true 5)),
    reads (0x46#7 ++ 0#2 ++ 0b00000#5 ++ 0x0A1#9 ++ 0x145#9) (.cvf8 .always .s (.slot .l false 33) (.slot .r true 5)),
    reads (0x47#7 ++ 0#2 ++ 0b01000#5 ++ 0x0A1#9 ++ 0x145#9) (.fclass .always .h (.slot .l false 33) (.slot .r true 5)),
    reads (0x39#7 ++ 0#2 ++ 0b01000#5 ++ 0x0A1#9 ++ 0x145#9) (.fcmp .always .h .eq (.slot .l false 33) (.slot .r true 5)),
    reads (0x39#7 ++ 0#2 ++ 0b01001#5 ++ 0x0A1#9 ++ 0x145#9) (.fcmp .always .h .ne (.slot .l false 33) (.slot .r true 5))].all id = true := by decide

/-- The words of the floats family, part 2. -/
theorem test_decode_floats_2 : [
    reads (0x39#7 ++ 0#2 ++ 0b01010#5 ++ 0x0A1#9 ++ 0x145#9) (.fcmp .always .h .lt (.slot .l false 33) (.slot .r true 5)),
    reads (0x39#7 ++ 0#2 ++ 0b01011#5 ++ 0x0A1#9 ++ 0x145#9) (.fcmp .always .h .le (.slot .l false 33) (.slot .r true 5)),
    reads (0x39#7 ++ 0#2 ++ 0b01100#5 ++ 0x0A1#9 ++ 0x145#9) (.fcmp .always .h .gt (.slot .l false 33) (.slot .r true 5)),
    reads (0x39#7 ++ 0#2 ++ 0b01101#5 ++ 0x0A1#9 ++ 0x145#9) (.fcmp .always .h .ge (.slot .l false 33) (.slot .r true 5)),
    reads (0x39#7 ++ 0#2 ++ 0b01110#5 ++ 0x0A1#9 ++ 0x145#9) (.fcmp .always .h .un (.slot .l false 33) (.slot .r true 5)),
    reads (0x39#7 ++ 0#2 ++ 0b01111#5 ++ 0x0A1#9 ++ 0x145#9) (.fcmp .always .h .ord (.slot .l false 33) (.slot .r true 5)),
    reads (0x40#7 ++ 0#2 ++ 0b01001#5 ++ 0x0A1#9 ++ 0x145#9) (.cvtS .always .h .rz (.slot .l false 33) (.slot .r true 5)),
    reads (0x41#7 ++ 0#2 ++ 0b10010#5 ++ 0x0A1#9 ++ 0x145#9) (.cvtH .always .b .ru (.slot .l false 33) (.slot .r true 5)),
    reads (0x42#7 ++ 0#2 ++ 0b00011#5 ++ 0x0A1#9 ++ 0x145#9) (.cvtB .always .s .rd (.slot .l false 33) (.slot .r true 5)),
    reads (0x43#7 ++ 0#2 ++ 0b10001#5 ++ 0x0A1#9 ++ 0x145#9) (.cvtfi .always .b .rz (.slot .l false 33) (.slot .r true 5)),
    reads (0x44#7 ++ 0#2 ++ 0b00010#5 ++ 0x0A1#9 ++ 0x145#9) (.cvtif .always .s .ru (.slot .l false 33) (.slot .r true 5)),
    reads (0x44#7 ++ 0#2 ++ 0b01111#5 ++ 0x0A1#9 ++ 0x145#9) (.cvtifL .always .h .rd (.slot .l false 33) (.slot .r true 5))].all id = true := by decide

/-- The words of the memory family. -/
theorem test_decode_memory : [
    reads (0x50#7 ++ 0#2 ++ 17#5 ++ 2#2 ++ 1#2 ++ 9#5 ++ 0x145#9) (.ld .always 17 2 1 9 (.slot .r true 5)),
    reads (0x51#7 ++ 0#2 ++ 17#5 ++ 2#2 ++ 1#2 ++ 9#5 ++ 0x145#9) (.st .always 17 2 1 9 (.slot .r true 5)),
    reads (0x52#7 ++ 0#2 ++ 17#5 ++ 2#2 ++ 1#2 ++ 9#5 ++ 0x145#9) (.ldt .always 17 2 1 9 (.slot .r true 5)),
    reads (0x53#7 ++ 0#2 ++ 17#5 ++ 2#2 ++ 1#2 ++ 9#5 ++ 0x145#9) (.stt .always 17 2 1 9 (.slot .r true 5)),
    reads (0x55#7 ++ 0#2 ++ 17#5 ++ 2#2 ++ 1#2 ++ 9#5 ++ 0x145#9) (.pft .always 17 2 1 9 (.slot .r true 5)),
    reads (0x56#7 ++ 0#2 ++ 17#5 ++ 2#2 ++ 1#2 ++ 9#5 ++ 0x145#9) (.mnop .always 17 2 1 9 (.slot .r true 5)),
    reads (0x58#7 ++ 0#2 ++ 17#5 ++ 2#2 ++ 1#2 ++ 9#5 ++ 0x145#9) (.scas64 .always 17 2 1 9 (.slot .r true 5)),
    reads (0x59#7 ++ 0#2 ++ 17#5 ++ 2#2 ++ 1#2 ++ 9#5 ++ 0x145#9) (.scas128 .always 17 2 1 9 (.slot .r true 5)),
    reads (0x5A#7 ++ 0#2 ++ 17#5 ++ 2#2 ++ 1#2 ++ 9#5 ++ 0x145#9) (.sadd .always 17 2 1 9 (.slot .r true 5)),
    reads (0x5B#7 ++ 0#2 ++ 17#5 ++ 2#2 ++ 1#2 ++ 9#5 ++ 0x145#9) (.sswap .always 17 2 1 9 (.slot .r true 5)),
    reads (0x5D#7 ++ 0#2 ++ 17#5 ++ 2#2 ++ 1#2 ++ 9#5 ++ 0x145#9) (.amoadd .always 17 2 1 9 (.slot .r true 5)),
    reads (0x5E#7 ++ 0#2 ++ 17#5 ++ 2#2 ++ 1#2 ++ 9#5 ++ 0x145#9) (.amomin .always 17 2 1 9 (.slot .r true 5)),
    reads (0x5F#7 ++ 0#2 ++ 17#5 ++ 2#2 ++ 1#2 ++ 9#5 ++ 0x145#9) (.amomax .always 17 2 1 9 (.slot .r true 5)),
    reads (0x54#7 ++ 0#2 ++ 17#5 ++ 2#2 ++ 1#2 ++ 9#5 ++ 0x047#9) (.ldh .always 17 2 1 9 7),
    reads (0x57#7 ++ 0#2 ++ 0b01000#5 ++ 0x0A1#9 ++ 0x145#9) (.fenceAcq .always .cell (.slot .l false 33) (.slot .r true 5)),
    reads (0x57#7 ++ 0#2 ++ 0b10011#5 ++ 0x0A1#9 ++ 0x145#9) (.fenceRel .always .device (.slot .l false 33) (.slot .r true 5)),
    reads (0x57#7 ++ 0#2 ++ 0b11100#5 ++ 0x0A1#9 ++ 0x145#9) (.fenceFull .always .system (.slot .l false 33) (.slot .r true 5)),
    reads (0x5C#7 ++ 0#2 ++ 21#5 ++ 0#5 ++ 0#5 ++ 0b10#2 ++ 11#6) (.amot .always 21 .add (.slot .r 11)),
    reads (0x5C#7 ++ 0#2 ++ 21#5 ++ 1#5 ++ 0#5 ++ 0b10#2 ++ 11#6) (.amot .always 21 .add64 (.slot .r 11)),
    reads (0x5C#7 ++ 0#2 ++ 21#5 ++ 2#5 ++ 0#5 ++ 0b10#2 ++ 11#6) (.amot .always 21 .and (.slot .r 11)),
    reads (0x5C#7 ++ 0#2 ++ 21#5 ++ 3#5 ++ 0#5 ++ 0b10#2 ++ 11#6) (.amot .always 21 .or (.slot .r 11)),
    reads (0x5C#7 ++ 0#2 ++ 21#5 ++ 4#5 ++ 0#5 ++ 0b10#2 ++ 11#6) (.amot .always 21 .xor (.slot .r 11)),
    reads (0x5C#7 ++ 0#2 ++ 21#5 ++ 5#5 ++ 0#5 ++ 0b10#2 ++ 11#6) (.amot .always 21 .min (.slot .r 11)),
    reads (0x5C#7 ++ 0#2 ++ 21#5 ++ 6#5 ++ 0#5 ++ 0b10#2 ++ 11#6) (.amot .always 21 .max (.slot .r 11))].all id = true := by decide

/-- The words of the memory family, part 2. -/
theorem test_decode_memory_2 : [
    reads (0x5C#7 ++ 0#2 ++ 21#5 ++ 7#5 ++ 0#5 ++ 0b10#2 ++ 11#6) (.amot .always 21 .minu (.slot .r 11)),
    reads (0x5C#7 ++ 0#2 ++ 21#5 ++ 8#5 ++ 0#5 ++ 0b10#2 ++ 11#6) (.amot .always 21 .maxu (.slot .r 11)),
    reads (0x5C#7 ++ 0#2 ++ 21#5 ++ 9#5 ++ 0#5 ++ 0b10#2 ++ 11#6) (.amot .always 21 .fmin (.slot .r 11)),
    reads (0x5C#7 ++ 0#2 ++ 21#5 ++ 10#5 ++ 0#5 ++ 0b10#2 ++ 11#6) (.amot .always 21 .fmax (.slot .r 11)),
    reads (0x5C#7 ++ 0#2 ++ 21#5 ++ 11#5 ++ 0#5 ++ 0b10#2 ++ 11#6) (.amot .always 21 .swap (.slot .r 11)),
    reads (0x5C#7 ++ 0#2 ++ 21#5 ++ 12#5 ++ 0#5 ++ 0b10#2 ++ 11#6) (.amot .always 21 .fadd (.slot .r 11))].all id = true := by decide

/-- The words of the engines family. -/
theorem test_decode_engines : [
    reads (0x60#7 ++ 0#2 ++ 6#5 ++ 31#5 ++ 0#2 ++ 0#2 ++ 0x145#9) (.qpush .always 6 31 (.slot .r true 5)),
    reads (0x60#7 ++ 0#2 ++ 6#5 ++ 31#5 ++ 1#2 ++ 0#2 ++ 0x145#9) (.qpop .always 6 31 (.slot .r true 5)),
    reads (0x60#7 ++ 0#2 ++ 6#5 ++ 31#5 ++ 2#2 ++ 0#2 ++ 0x145#9) (.qpeek .always 6 31 (.slot .r true 5)),
    reads (0x61#7 ++ 0#2 ++ 0#6 ++ 0xAB#8 ++ 0x145#9) (.barr .always 0xAB (.slot .r true 5)),
    reads (0x62#7 ++ 0#2 ++ 1#4 ++ 0#2 ++ 0xCD#8 ++ 0x145#9) (.tree .always .fsum 0xCD (.slot .r true 5)),
    reads (0x62#7 ++ 0#2 ++ 2#4 ++ 0#2 ++ 0xCD#8 ++ 0x145#9) (.tree .always .fmin 0xCD (.slot .r true 5)),
    reads (0x62#7 ++ 0#2 ++ 3#4 ++ 0#2 ++ 0xCD#8 ++ 0x145#9) (.tree .always .fmax 0xCD (.slot .r true 5)),
    reads (0x62#7 ++ 0#2 ++ 4#4 ++ 0#2 ++ 0xCD#8 ++ 0x145#9) (.tree .always .isum 0xCD (.slot .r true 5)),
    reads (0x62#7 ++ 0#2 ++ 5#4 ++ 0#2 ++ 0xCD#8 ++ 0x145#9) (.tree .always .imin 0xCD (.slot .r true 5)),
    reads (0x62#7 ++ 0#2 ++ 6#4 ++ 0#2 ++ 0xCD#8 ++ 0x145#9) (.tree .always .imax 0xCD (.slot .r true 5)),
    reads (0x62#7 ++ 0#2 ++ 7#4 ++ 0#2 ++ 0xCD#8 ++ 0x145#9) (.tree .always .and 0xCD (.slot .r true 5)),
    reads (0x62#7 ++ 0#2 ++ 8#4 ++ 0#2 ++ 0xCD#8 ++ 0x145#9) (.tree .always .or 0xCD (.slot .r true 5)),
    reads (0x62#7 ++ 0#2 ++ 9#4 ++ 0#2 ++ 0xCD#8 ++ 0x145#9) (.tree .always .xor 0xCD (.slot .r true 5)),
    reads (0x63#7 ++ 0#2 ++ 0#8 ++ 0x2B#6 ++ 0x145#9) (.tailadv .always 0x2B (.slot .r true 5)),
    reads (0x64#7 ++ 0#2 ++ 0#8 ++ 0x2B#6 ++ 0x145#9) (.tlread .always 0x2B (.slot .r true 5)),
    reads (0x65#7 ++ 0#2 ++ 0#8 ++ 0x2B#6 ++ 0x145#9) (.tlwait .always 0x2B (.slot .r true 5)),
    reads (0x66#7 ++ 0#2 ++ 0#8 ++ 0x2B#6 ++ 0x145#9) (.collrec .always 0x2B (.slot .r true 5)),
    reads (0x67#7 ++ 0#2 ++ 0x1234#14 ++ 0x145#9) (.trap .always 0x1234 (.slot .r true 5)),
    reads (0x68#7 ++ 0#2 ++ 0#9 ++ 0b10011#5 ++ 0x145#9) (.trapf .always 0b10011 (.slot .r true 5)),
    reads (0x69#7 ++ 0#2 ++ 0#5 ++ 0x0A1#9 ++ 0x145#9) (.sysqHandle .always (.slot .l false 33) (.slot .r true 5)),
    reads (0x69#7 ++ 0#2 ++ 1#5 ++ 0x0A1#9 ++ 0x145#9) (.sysqDie .always (.slot .l false 33) (.slot .r true 5)),
    reads (0x69#7 ++ 0#2 ++ 2#5 ++ 0x0A1#9 ++ 0x145#9) (.sysqReplica .always (.slot .l false 33) (.slot .r true 5)),
    reads (0x69#7 ++ 0#2 ++ 3#5 ++ 0x0A1#9 ++ 0x145#9) (.sysqCtx .always (.slot .l false 33) (.slot .r true 5)),
    reads (0x6A#7 ++ 0#2 ++ 0#2 ++ 0x037#12 ++ 0x145#9) (.rdcfg .always 0x37 (.slot .r true 5))].all id = true := by decide

/-- The words of the engines family, part 2. -/
theorem test_decode_engines_2 : [
    reads (0x6B#7 ++ 0#2 ++ 0#2 ++ 0x040#12 ++ 0x145#9) (.wrcfg .always 0x40 (.slot .r true 5)),
    reads (0x6C#7 ++ 0#2 ++ 0#5 ++ 0x0A1#9 ++ 0x145#9) (.yield .always (.slot .l false 33) (.slot .r true 5)),
    reads (0x6D#7 ++ 0#2 ++ 0x155#10 ++ 9#4 ++ 0x145#9) (.bkpt .always 0x155 9 (.slot .r true 5)),
    reads (0x6E#7 ++ 0#2 ++ 0#5 ++ 0x0A1#9 ++ 0x145#9) (.cyc .always (.slot .l false 33) (.slot .r true 5))].all id = true := by decide

/-- The words of the vectors family. -/
theorem test_decode_vectors : [
    reads (0x70#7 ++ 0#2 ++ 0#5 ++ 0x0A1#9 ++ 0x145#9) (.vadd .always (.slot .l false 33) (.slot .r true 5)),
    reads (0x70#7 ++ 0#2 ++ 1#5 ++ 0x0A1#9 ++ 0x145#9) (.vsub .always (.slot .l false 33) (.slot .r true 5)),
    reads (0x70#7 ++ 0#2 ++ 2#5 ++ 0x0A1#9 ++ 0x145#9) (.vmul .always (.slot .l false 33) (.slot .r true 5)),
    reads (0x70#7 ++ 0#2 ++ 3#5 ++ 0x0A1#9 ++ 0x145#9) (.vmin .always (.slot .l false 33) (.slot .r true 5)),
    reads (0x70#7 ++ 0#2 ++ 4#5 ++ 0x0A1#9 ++ 0x145#9) (.vmax .always (.slot .l false 33) (.slot .r true 5)),
    reads (0x70#7 ++ 0#2 ++ 5#5 ++ 0x0A1#9 ++ 0x145#9) (.vscale .always (.slot .l false 33) (.slot .r true 5)),
    reads (0x70#7 ++ 0#2 ++ 8#5 ++ 0x0A1#9 ++ 0x145#9) (.vcmp .always .eq (.slot .l false 33) (.slot .r true 5)),
    reads (0x70#7 ++ 0#2 ++ 9#5 ++ 0x0A1#9 ++ 0x145#9) (.vcmp .always .ne (.slot .l false 33) (.slot .r true 5)),
    reads (0x70#7 ++ 0#2 ++ 10#5 ++ 0x0A1#9 ++ 0x145#9) (.vcmp .always .lt (.slot .l false 33) (.slot .r true 5)),
    reads (0x70#7 ++ 0#2 ++ 11#5 ++ 0x0A1#9 ++ 0x145#9) (.vcmp .always .le (.slot .l false 33) (.slot .r true 5)),
    reads (0x70#7 ++ 0#2 ++ 12#5 ++ 0x0A1#9 ++ 0x145#9) (.vcmp .always .gt (.slot .l false 33) (.slot .r true 5)),
    reads (0x70#7 ++ 0#2 ++ 13#5 ++ 0x0A1#9 ++ 0x145#9) (.vcmp .always .ge (.slot .l false 33) (.slot .r true 5)),
    reads (0x70#7 ++ 0#2 ++ 14#5 ++ 0x0A1#9 ++ 0x145#9) (.vcmp .always .un (.slot .l false 33) (.slot .r true 5)),
    reads (0x71#7 ++ 0#2 ++ 0#5 ++ 0x0A1#9 ++ 0x145#9) (.vabs .always (.slot .l false 33) (.slot .r true 5)),
    reads (0x71#7 ++ 0#2 ++ 1#5 ++ 0x0A1#9 ++ 0x145#9) (.vneg .always (.slot .l false 33) (.slot .r true 5)),
    reads (0x71#7 ++ 0#2 ++ 2#5 ++ 0x0A1#9 ++ 0x145#9) (.vrcp .always (.slot .l false 33) (.slot .r true 5)),
    reads (0x71#7 ++ 0#2 ++ 3#5 ++ 0x0A1#9 ++ 0x145#9) (.vrsq .always (.slot .l false 33) (.slot .r true 5)),
    reads (0x71#7 ++ 0#2 ++ 4#5 ++ 0x0A1#9 ++ 0x145#9) (.vexp2 .always (.slot .l false 33) (.slot .r true 5)),
    reads (0x71#7 ++ 0#2 ++ 5#5 ++ 0x0A1#9 ++ 0x145#9) (.vlog2 .always (.slot .l false 33) (.slot .r true 5)),
    reads (0x71#7 ++ 0#2 ++ 6#5 ++ 0x0A1#9 ++ 0x145#9) (.vbcast .always (.slot .l false 33) (.slot .r true 5)),
    reads (0x71#7 ++ 0#2 ++ 8#5 ++ 0x0A1#9 ++ 0x145#9) (.vredSum .always (.slot .l false 33) (.slot .r true 5)),
    reads (0x71#7 ++ 0#2 ++ 9#5 ++ 0x0A1#9 ++ 0x145#9) (.vredMin .always (.slot .l false 33) (.slot .r true 5)),
    reads (0x71#7 ++ 0#2 ++ 10#5 ++ 0x0A1#9 ++ 0x145#9) (.vredMax .always (.slot .l false 33) (.slot .r true 5)),
    reads (0x71#7 ++ 0#2 ++ 16#5 ++ 0x0A1#9 ++ 0x145#9) (.vcvt .always (.slot .l false 33) (.slot .r true 5))].all id = true := by decide

/-- The words of the vectors family, part 2. -/
theorem test_decode_vectors_2 : [
    reads (0x71#7 ++ 0#2 ++ 17#5 ++ 0x0A1#9 ++ 0x145#9) (.vquant .always (.slot .l false 33) (.slot .r true 5)),
    reads (0x72#7 ++ 3#2 ++ 0#5 ++ 0x0A1#9 ++ 0x145#9) (.vfma (.slot .l false 33) (.slot .r true 5)),
    reads (0x72#7 ++ 3#2 ++ 1#5 ++ 0x0A1#9 ++ 0x145#9) (.vsel (.slot .l false 33) (.slot .r true 5)),
    reads (0x72#7 ++ 3#2 ++ 2#5 ++ 0x0A1#9 ++ 0x145#9) (.vclamp (.slot .l false 33) (.slot .r true 5))].all id = true := by decide

/-- The words of the tiles family. -/
theorem test_decode_tiles : [
    reads (0x73#7 ++ 0#2 ++ 3#5 ++ 30#5 ++ 0#5 ++ 0b11#2 ++ 44#6) (.vtrans .always 3 30 (.slot .p 44)),
    reads (0x74#7 ++ 0#2 ++ 3#5 ++ 30#5 ++ 17#5 ++ 0b11#2 ++ 44#6) (.vpoolmax .always 3 30 17 (.slot .p 44)),
    reads (0x75#7 ++ 0#2 ++ 3#5 ++ 30#5 ++ 17#5 ++ 0b11#2 ++ 44#6) (.vpoolavg .always 3 30 17 (.slot .p 44)),
    reads (0x76#7 ++ 0#2 ++ 0b00#2 ++ 0#2 ++ 0#5 ++ 27#5 ++ 0x145#9) (.tdef .always 27 (.slot .r true 5)),
    reads (0x76#7 ++ 0#2 ++ 0b01#2 ++ 0#2 ++ 0#5 ++ 27#5 ++ 0x145#9) (.tset .always .empty 27 (.slot .r true 5)),
    reads (0x76#7 ++ 0#2 ++ 0b01#2 ++ 1#2 ++ 0#5 ++ 27#5 ++ 0x145#9) (.tset .always .filling 27 (.slot .r true 5)),
    reads (0x76#7 ++ 0#2 ++ 0b01#2 ++ 2#2 ++ 0#5 ++ 27#5 ++ 0x145#9) (.tset .always .ready 27 (.slot .r true 5)),
    reads (0x76#7 ++ 0#2 ++ 0b01#2 ++ 3#2 ++ 0#5 ++ 27#5 ++ 0x145#9) (.tset .always .draining 27 (.slot .r true 5)),
    reads (0x76#7 ++ 0#2 ++ 0b10#2 ++ 0#2 ++ 0#5 ++ 27#5 ++ 0x145#9) (.tstate .always 27 (.slot .r true 5)),
    reads (0x77#7 ++ 0#2 ++ 0b00#2 ++ 1#2 ++ 0#2 ++ 1#1 ++ 0#7 ++ 0x145#9) (.bmode .always 1 .scratchpad true (.slot .r true 5)),
    reads (0x77#7 ++ 0#2 ++ 0b00#2 ++ 1#2 ++ 1#2 ++ 1#1 ++ 0#7 ++ 0x145#9) (.bmode .always 1 .cache true (.slot .r true 5)),
    reads (0x77#7 ++ 0#2 ++ 0b00#2 ++ 1#2 ++ 2#2 ++ 1#1 ++ 0#7 ++ 0x145#9) (.bmode .always 1 .fifo true (.slot .r true 5)),
    reads (0x77#7 ++ 0#2 ++ 0b00#2 ++ 1#2 ++ 3#2 ++ 1#1 ++ 0#7 ++ 0x145#9) (.bmode .always 1 .compute true (.slot .r true 5)),
    reads (0x77#7 ++ 0#2 ++ 0b01#2 ++ 0#7 ++ 27#5 ++ 0x145#9) (.permit .always 27 (.slot .r true 5)),
    reads (0x77#7 ++ 0#2 ++ 0b10#2 ++ 0#7 ++ 27#5 ++ 0x145#9) (.binv .always 27 (.slot .r true 5)),
    reads (0x78#7 ++ 0#2 ++ 3#5 ++ 30#5 ++ 0#5 ++ 0b11#2 ++ 44#6) (.bload .always 3 30 (.slot .p 44)),
    reads (0x79#7 ++ 0#2 ++ 0#5 ++ 30#5 ++ 17#5 ++ 0b11#2 ++ 44#6) (.mma .always 30 17 (.slot .p 44)),
    reads (0x7A#7 ++ 0#2 ++ 0#5 ++ 30#5 ++ 17#5 ++ 0b11#2 ++ 44#6) (.mmaz .always 30 17 (.slot .p 44)),
    reads (0x7B#7 ++ 0#2 ++ 0#5 ++ 0x0A1#9 ++ 0x145#9) (.mzero .always (.slot .l false 33) (.slot .r true 5)),
    reads (0x7B#7 ++ 0#2 ++ 1#5 ++ 0x0A1#9 ++ 0x145#9) (.mrd .always (.slot .l false 33) (.slot .r true 5)),
    reads (0x7B#7 ++ 0#2 ++ 2#5 ++ 0x0A1#9 ++ 0x145#9) (.mrda .always (.slot .l false 33) (.slot .r true 5)),
    reads (0x7B#7 ++ 0#2 ++ 3#5 ++ 0x0A1#9 ++ 0x145#9) (.mstat .always (.slot .l false 33) (.slot .r true 5))].all id = true := by decide

/-- The words of the graphics family. -/
theorem test_decode_graphics : [
    reads (0x7C#7 ++ 0#2 ++ 0#5 ++ 0x0A1#9 ++ 0x145#9) (.rsetup .always (.slot .l false 33) (.slot .r true 5)),
    reads (0x7C#7 ++ 0#2 ++ 1#5 ++ 0x0A1#9 ++ 0x145#9) (.rstep .always (.slot .l false 33) (.slot .r true 5)),
    reads (0x7C#7 ++ 0#2 ++ 2#5 ++ 0x0A1#9 ++ 0x145#9) (.rbary .always (.slot .l false 33) (.slot .r true 5)),
    reads (0x7D#7 ++ 0#2 ++ 0#5 ++ 0x0A1#9 ++ 0x145#9) (.rayxf .always (.slot .l false 33) (.slot .r true 5)),
    reads (0x7D#7 ++ 0#2 ++ 1#5 ++ 0x0A1#9 ++ 0x145#9) (.raybox .always (.slot .l false 33) (.slot .r true 5)),
    reads (0x7D#7 ++ 0#2 ++ 2#5 ++ 0x0A1#9 ++ 0x145#9) (.raytri .always (.slot .l false 33) (.slot .r true 5)),
    reads (0x7E#7 ++ 0#2 ++ 0#5 ++ 0x0A1#9 ++ 0x145#9) (.seqget .always (.slot .l false 33) (.slot .r true 5)),
    reads (0x7E#7 ++ 0#2 ++ 1#5 ++ 0x0A1#9 ++ 0x145#9) (.seqwait .always (.slot .l false 33) (.slot .r true 5)),
    reads (0x7E#7 ++ 0#2 ++ 2#5 ++ 0x0A1#9 ++ 0x145#9) (.blend .always (.slot .l false 33) (.slot .r true 5)),
    reads (0x7D#7 ++ 0#2 ++ 3#5 ++ 0x07F#9 ++ 0x07F#9) (.migr .always)].all id = true := by decide

/-! ## Words and terms refused -/

/-- Whether a word is refused with a check of R298. -/
def refuses (w : BitVec 32) (c : WordCheck) : Bool :=
  match decode w with
  | .ok _ => false
  | .error d => decide (d = c)

/-- Words that R281 to R289 refuse: the unassigned opcodes at the ends of their ranges and TAGRD's sub-operations 2 and 31 (R282), pd 11,
WRH's target field, a reserved bit of CMP's class and target codes 0x60 and 0x7E (R276). -/
theorem test_words_refused : [
    refuses (0x29#7 ++ 0#25) .opcode, refuses (0x2F#7 ++ 0#25) .opcode, refuses (0x48#7 ++ 0#25) .opcode,
    refuses (0x4F#7 ++ 0#25) .opcode, refuses (0x6F#7 ++ 0#25) .opcode, refuses (0x7F#7 ++ 0#25) .opcode,
    refuses (0x0D#7 ++ 0#2 ++ 2#5 ++ 0x07F#9 ++ 0x07F#9) .subfield, refuses (0x0D#7 ++ 0#2 ++ 31#5 ++ 0x07F#9 ++ 0x07F#9) .subfield,
    refuses (0x02#7 ++ 3#2 ++ 0#14 ++ 0x001#9) .predicate, refuses (0x25#7 ++ 3#2 ++ 0#14 ++ 0x001#9) .predicate,
    refuses (0x02#7 ++ 0#2 ++ 0#14 ++ 0x060#9) .target, refuses (0x25#7 ++ 2#2 ++ 0#14 ++ 0x07E#9) .target].all id = true := by decide

/-- Terms that no word stands for: CVT within one format (R284), TRAP codes from 0x3FF0 (R396), indices that R400 does not assign or
write, and compute mode of K2 and K3 (R200). -/
theorem test_ill_formed_terms : [
    (Instr.cvtS .always .s .rn .discard .discard).wf, (Instr.cvtH .always .h .rn .discard .discard).wf,
    (Instr.cvtB .always .b .rn .discard .discard).wf, (Instr.trap .always 0x3FF0 .discard).wf,
    (Instr.rdcfg .always 0x004 .discard).wf, (Instr.wrcfg .always 0x000 .discard).wf,
    (Instr.bmode .always 2 .compute false .discard).wf, (Instr.bmode .always 3 .compute false .discard).wf].any id = false := by decide

/-- Their neighbours are well formed. -/
theorem test_well_formed_terms : [
    (Instr.cvtS .always .h .rn .discard .discard).wf, (Instr.cvtH .always .b .rn .discard .discard).wf,
    (Instr.cvtB .always .s .rn .discard .discard).wf, (Instr.trap .always 0x3FEF .discard).wf,
    (Instr.rdcfg .always 0x000 .discard).wf, (Instr.wrcfg .always 0x040 .discard).wf,
    (Instr.bmode .always 1 .compute false .discard).wf, (Instr.bmode .always 3 .fifo false .discard).wf].all id = true := by decide

/-- Whether the word that stands where a term's would is refused. -/
def wordRefused (i : Instr) : Bool :=
  match encode i with
  | none => false
  | some w => match decode w with
    | .ok _ => false
    | .error _ => true

/-- The words of ill-formed terms are refused: CVT.S of FP32, TRAP 0x3FF0, RDCFG 0x004, WRCFG 0x000, BMODE of K2 to compute mode. -/
theorem test_ill_formed_words : [
    Instr.cvtS .always .s .rn .discard .discard, .trap .always 0x3FF0 .discard, .rdcfg .always 0x004 .discard,
    .wrcfg .always 0x000 .discard, .bmode .always 2 .compute false .discard].all wordRefused = true := by decide

/-! ## Single firings -/

/-- A running region of one cell, three output arcs open, the firing's operands as told. -/
def desk (l r p : Option Val) : State :=
  let s := State.reset.withFetchWord 32 0
  let outs := (List.range 3).map fun n => (n, ({ carc := n, depth := 64, cred := 64 } : OutArc))
  let cells := s.cells.map fun (q : Nat × Cell) =>
    (q.1, { q.2 with windows := [(0, { region := 1, words := [0, 0x89ABCDEF, 0x2000FE00], outs := outs })] })
  { s with cells := cells, sch := { s.sch with chosen := none, cur := { region := 1, acc := { l := l, r := r, p := p } } } }

/-- A value of n bytes. -/
def v (n bits : Nat) : Option Val := some ⟨n, bits⟩

/-- `desk` on two operands of n bytes. -/
def two (n a b : Nat) : State := desk (v n a) (v n b) none

/-- `desk` on three operands of n bytes. -/
def three (n a b c : Nat) : State := desk (v n a) (v n b) (v n c)

/-- The tokens on the mesh, as (arc, length, bits). -/
def tokens : Result → Option (List (Nat × Nat × Nat))
  | .next t => some (t.toks.map fun k => ((match k.dest with | .arc _ a => a | .slot _ n _ => 100 + n), k.val.len, k.val.bits))
  | _ => none

/-- In `s`, the firing passes the predicate of `i`, the tokens of `out`, as (arc, length, bits), can leave, and they are what `i`
sends. -/
def gives (i : Instr) (s : State) (out : List (Nat × Nat × Nat)) : Bool :=
  s.sch.cur.passes i.pd && s.canSend s.sch.cur (out.map fun q => (.arc (BitVec.ofNat 6 q.1), ⟨q.2.1, q.2.2⟩)) &&
    decide (tokens (exec i s) = some out)

/-- As `gives`, one value sent on arc 0. -/
def gives1 (i : Instr) (s : State) (n b : Nat) : Bool := gives i s [(0, n, b)]

/-- `desk` with its bindings in an access class. -/
def deskOf (cls : AccClass) (s : State) : State :=
  s.updRegion 1 fun r => { r with image := { r.image with bindings := r.image.bindings.map fun b =>
    { b with shape := { b.shape with cls := cls } } } }

/-- Whether the binding p0 of the firing's region is there with an access class. -/
def bound (cls : AccClass) (s : State) : Bool := ((s.region s.sch.cur.region).binding? 0).any fun b => b.shape.cls = cls

/-- Whether the firing passes a predicate mode and can send what is told. -/
def meets (pd : Pd) (l : List (Target × Val)) (s : State) : Bool := s.sch.cur.passes pd && s.canSend s.sch.cur l

/-- `desk` with the record of frame 0 changed. -/
def inFrame (g : FrameRec → FrameRec) (s : State) : State := s.updRegion 1 fun r => r.updFrame 0 g

/-- `s` with a group of its die: the one cell of the region, owned by context 0. -/
def grouped (s : State) : State := s.updDie 0 fun d => { d with groups := [(3, { members := [(0, 0)] })] }

/-- Whether an input-queue entry can be taken for the firing (R127). -/
def entry (s : State) : Bool := (s.takeEntry s.sch.cur.cell s.sch.cur.region).isSome


/-! ## Words, steps and reset -/

theorem witness_DecodeAfterEncode : (Instr.bmode .ifFalse 1 .compute true (.arc 63)).unit.isSome = true ∧
    (Instr.bmode .ifFalse 1 .compute true (.arc 63)).wf = true ∧ Instr.coldReset.unit = none := by decide

theorem witness_EncodeAfterDecode : reads 0x18010E8A (.cnt .always (.slot .l false 7) (.slot .l false 10)) = true := by decide

theorem witness_ReservedWordsRefused :
    0x29 ≤ (0x52000000 : Word).toNat / 2 ^ 25 ∧ (0x5FFFFFFF : Word).toNat / 2 ^ 25 ≤ 0x2F ∧
    0x48 ≤ (0x90000000 : Word).toNat / 2 ^ 25 ∧ (0x9FFFFFFF : Word).toNat / 2 ^ 25 ≤ 0x4F ∧
    (0xDE000000 : Word).toNat / 2 ^ 25 = 0x6F ∧ (0xFFFFFFFF : Word).toNat / 2 ^ 25 = 0x7F ∧
    (0x05800000 : Word).toNat / 2 ^ 25 = 0x02 ∧ (0x05800000 : Word).toNat / 2 ^ 23 % 4 = 3 ∧
    (0x4B000060 : Word).toNat / 2 ^ 25 = 0x25 ∧ (0x4B000060 : Word).toNat / 2 ^ 23 % 4 < 3 ∧ 0x60 ≤ (0x4B000060 : Word).toNat % 2 ^ 9 ∧
    (0x0400007E : Word).toNat / 2 ^ 25 = 0x02 ∧ (0x0400007E : Word).toNat / 2 ^ 23 % 4 < 3 ∧ (0x0400007E : Word).toNat % 2 ^ 9 ≤ 0x7E := by
  decide

/-- A part that is up: `withFetchWord`'s region runs ADD, and nothing is chosen or put first. -/
def upPart : State :=
  let s := State.reset.withFetchWord 32 0x2000FE00
  let hub := { s.hub with ready := true, phase := 15, dieOk := 0xFF }
  { s with hub := hub, dies := [(0, { pwr := { step := 1 } })], sch := {} }

/-- `upPart` with a complete accord that waits, and with a matrix sequence in progress. -/
def upWith (w : List Accord) (q : List MatSeq) : State :=
  { upPart with cells := upPart.cells.map fun (c : Nat × Cell) => (c.1, { c.2 with waiting := w, seqs := q }) }

/-- The clauses of StepRunsTheDecoded in order: a chosen word; a step put first; a step that is due; a choice of the arbiters; a row of the
matrix unit; nothing but the next cycle. -/
theorem witness_StepRunsTheDecoded :
    (let s := State.reset.withFetchWord 32 0x2000FE00
     ∃ f, s.sch.chosen = some f ∧ ((s.cell (cellKey f.die f.x f.y)).window f.acc.win).words.getD f.acc.slot 0 = 0x2000FE00) ∧
    reads 0x2000FE00 (.add .always false .discard (.arc 0)) = true ∧
    (State.reset.due.map Prod.fst = some .bringupPhase ∧ State.reset.sch.chosen = none ∧ State.reset.sch.agenda = []) ∧
    (let s := upWith [fetchAccord 0] []; s.due = none ∧ (match s.nextChoice with | some (.fire _ _) => true | _ => false) = true) ∧
    (let s := upWith [] [{}]; s.due = none ∧ (match s.nextChoice with | some (.row 0) => true | _ => false) = true) ∧
    upPart.due = none ∧ upPart.nextChoice = none := by
  exact ⟨⟨_, rfl, by decide⟩, by decide, by decide, by decide, by decide, by decide⟩

theorem witness_PlacedWordRunsNext : 0x18010E8A < 2 ^ 32 ∧
    reads (BitVec.ofNat 32 0x18010E8A) (.cnt .always (.slot .l false 7) (.slot .l false 10)) = true := by decide

/-- The one stop of `step`: a chosen slot that holds no instruction. -/
theorem witness_NothingStops :
    (match step (State.reset.withFetchWord 32 0x52000000) with
      | .fault r => decide (r = .undecodable 0x10)
      | _ => false) = true := by decide

theorem witness_ResetRegisters : State.reset.regVal .pwrCap = 0x1068 ∧ ∀ i, Reg.pwrCap ≠ .msix i :=
  ⟨by decide, fun _ h => by cases h⟩

theorem witness_StepKeepsTheInvariant :
    Inv State.reset.flash State.reset ∧ (match step State.reset with | .next _ => true | _ => false) = true := by
  exact ⟨⟨by decide, by decide, by decide, rfl⟩, by decide⟩

/-! ## Firings, values and integers -/

theorem witness_FailedPredicateConsumes :
    ((three 4 1 1 0).sch.cur.passes (Instr.pd (.add .ifTrue false .discard (.arc 0))) = false ∧
      accessOf (.add .ifTrue false .discard (.arc 0)) = none) ∧
    (three 4 1 1 1).sch.cur.passes (Instr.pd (.ld .ifFalse 0 0 0 0 .discard)) = false ∧
    accessOf (.ld .ifFalse 0 0 0 0 .discard) = some (0, 0) ∧
    bound .random (three 4 1 1 1) = true ∧ bound .ordered (deskOf .ordered (three 4 1 1 1)) = true := by decide

/-- `desk` whose arc 2 has no credit at an extended consumer arc, and `desk` whose arc 2 an activation stream carries. -/
def spilling : State :=
  let s := (two 8 5 6).updOut 0 0 2 fun o => { o with cred := 0, carc := 2 }
  s.updIn 0 0 2 fun i => { i with extended := true }

def streaming : State := { two 8 5 6 with acts := [{ id := 5, arc := 2 }] }

/-- The clauses in order: a discard, a register, an arc with credit, one whose tokens spill, one that an activation stream carries. -/
theorem witness_SendsReachTheirTargets :
    let s := two 8 5 6
    s.sch.cur.passes .always = true ∧ s.canSend s.sch.cur (toBoth .discard .discard s.sch.cur.valL) = true ∧
    s.canSend s.sch.cur (toBoth (.hold 31) .discard s.sch.cur.valL) = true ∧
    ((s.cell s.sch.cur.cell).takeSlot s.sch.cur.region s.sch.cur.frm).isSome = true ∧
    (s.canSend s.sch.cur (toBoth (.arc 2) .discard s.sch.cur.valL) = true ∧ s.actFrom 1 0 0 0 2 = none ∧
      (look {} ((s.cell s.sch.cur.cell).window 0).outs 2 : OutArc).need 8 ≤ (look {} ((s.cell s.sch.cur.cell).window 0).outs 2 : OutArc).cred ∧
      s.consumer 1 (look {} ((s.cell s.sch.cur.cell).window 0).outs 2) = some (0, 0, 2) ∧ (s.inArc 0 0 2).spill = []) ∧
    (let s := spilling
     s.canSend s.sch.cur (toBoth (.arc 2) .discard s.sch.cur.valL) = true ∧ s.actFrom 1 0 0 0 2 = none ∧
      s.consumer 1 (look {} ((s.cell s.sch.cur.cell).window 0).outs 2) = some (0, 0, 2) ∧
      (look {} ((s.cell s.sch.cur.cell).window 0).outs 2 : OutArc).cred < (look {} ((s.cell s.sch.cur.cell).window 0).outs 2 : OutArc).need 8) ∧
    let s := streaming
    s.canSend s.sch.cur (toBoth (.arc 2) .discard s.sch.cur.valL) = true ∧ (s.actFrom 1 0 0 0 2).map ActStream.id = some 5 := by decide

/-- MOV of a token to an arc without credit joins the spill queue of its extended consumer arc (R170). -/
theorem test_spill : (match exec (.mov .always .discard (.arc 2)) spilling with
    | .next t => t.toks.isEmpty && ((t.inArc 0 0 2).spill.map fun k => k.val) == [⟨8, 5⟩]
    | _ => false) = true := by decide

/-- Arc 9 of `desk` has no credit. -/
theorem witness_UnreadyFiringWaits :
    let s := two 4 5 6
    s.sch.cur.passes .always = true ∧ resultsOf s (.add .always false .discard (.arc 9)) = some [(.arc 9, 4), (.discard, 4)] ∧
    s.canSend s.sch.cur [(.arc 9, Val.of 4 0), (.discard, Val.of 4 0)] = false := by decide

theorem test_put_back : (match exec (.add .always false .discard (.arc 9)) (two 4 5 6) with
    | .next t => t.sch.blocked && (t.cell 0).waiting == [(two 4 5 6).sch.cur.acc] | _ => false) = true := by decide

/-- LIT of -2, LIT32 of the constant after it, MOV to both targets. -/
theorem witness_MovesSendTheirValue : [
    gives (.nop .always) (two 4 1 2) [], gives (.mov .always (.arc 1) (.arc 0)) (two 4 7 2) [(0, 4, 7), (1, 4, 7)],
    gives1 (.lit .always 0x3FFE (.arc 0)) (two 4 1 2) 8 0xFFFFFFFFFFFFFFFE,
    gives1 (.lit32 .always .discard (.arc 0)) (two 4 1 2) 4 0x89ABCDEF].all id = true := by decide

theorem witness_ChoicesAndCounts : [
    gives (.steer .always (.arc 1) (.arc 0)) (two 4 7 1) [(0, 4, 7)], gives (.steer .always (.arc 1) (.arc 0)) (two 4 7 2) [(1, 4, 7)],
    gives (.gate .always (.arc 1) (.arc 0)) (two 4 7 1) [(0, 4, 7), (1, 4, 7)], gives (.gate .always (.arc 1) (.arc 0)) (two 4 7 0) [],
    gives (.gaten .always (.arc 1) (.arc 0)) (two 4 7 1) [],
    gives (.gaten .always (.arc 1) (.arc 0)) (two 4 7 0) [(0, 4, 7), (1, 4, 7)],
    gives (.sync .always (.arc 1) (.arc 0)) (two 4 7 9) [(0, 4, 7), (1, 4, 9)],
    gives (.cnt .always (.arc 1) (.arc 0)) (two 4 8 10) [(0, 4, 9), (1, 4, 1)],
    gives (.cnt .always (.arc 1) (.arc 0)) (two 4 9 10) [(0, 4, 10), (1, 4, 0)],
    gives (.bound .always (.arc 1) (.arc 0)) (two 4 9 10) [(0, 4, 9)],
    gives (.bound .always (.arc 1) (.arc 0)) (two 4 10 10) [(1, 4, 10)],
    gives (.merge (.arc 1) (.arc 0)) (desk (v 4 7) none none) [(0, 4, 7), (1, 4, 7)],
    gives (.merge (.arc 1) (.arc 0)) (desk none (v 4 8) none) [(0, 4, 8), (1, 4, 8)]].all id = true := by decide

theorem witness_IntegerResults : [
    gives1 (.add .always false .discard (.arc 0)) (two 4 0xFFFFFFFF 1) 4 0,
    gives1 (.sub .always true .discard (.arc 0)) (two 8 0 1) 8 0xFFFFFFFFFFFFFFFF,
    gives1 (.mul .always false .discard (.arc 0)) (two 4 0x10001 0x10001) 4 0x20001,
    gives1 (.mulh .always false .discard (.arc 0)) (two 4 0x80000000 2) 4 0xFFFFFFFF,
    gives1 (.mulhu .always false .discard (.arc 0)) (two 4 0x80000000 2) 4 1,
    gives1 (.and .always false .discard (.arc 0)) (two 4 0xF0F0 0xFF00) 4 0xF000,
    gives1 (.or .always false .discard (.arc 0)) (two 4 0xF0F0 0xFF00) 4 0xFFF0,
    gives1 (.xor .always false .discard (.arc 0)) (two 4 0xF0F0 0xFF00) 4 0x0FF0,
    gives1 (.andn .always false .discard (.arc 0)) (two 4 0xF0F0 0xFF00) 4 0x00F0,
    gives1 (.shl .always false .discard (.arc 0)) (two 4 1 33) 4 2,
    gives1 (.shr .always true .discard (.arc 0)) (two 8 0x8000000000000000 65) 8 0x4000000000000000,
    gives1 (.sra .always false .discard (.arc 0)) (two 4 0x80000000 31) 4 0xFFFFFFFF,
    gives1 (.rol .always false .discard (.arc 0)) (two 4 0x80000001 1) 4 3,
    gives1 (.ror .always false .discard (.arc 0)) (two 4 1 1) 4 0x80000000].all id = true := by decide

theorem witness_IntegerResults_signs : [
    gives1 (.neg .always false .discard (.arc 0)) (two 4 0x80000000 0) 4 0x80000000,
    gives1 (.abs .always false .discard (.arc 0)) (two 4 0xFFFFFFFF 0) 4 1,
    gives1 (.min .always false .discard (.arc 0)) (two 4 0xFFFFFFFF 1) 4 0xFFFFFFFF,
    gives1 (.max .always false .discard (.arc 0)) (two 4 0xFFFFFFFF 1) 4 1,
    gives1 (.minu .always false .discard (.arc 0)) (two 4 0xFFFFFFFF 1) 4 1,
    gives1 (.maxu .always false .discard (.arc 0)) (two 4 0xFFFFFFFF 1) 4 0xFFFFFFFF,
    gives1 (.cmp .always false .lt .discard (.arc 0)) (two 4 0xFFFFFFFF 1) 4 1,
    gives1 (.cmp .always false .ltu .discard (.arc 0)) (two 4 0xFFFFFFFF 1) 4 0].all id = true := by decide

theorem witness_DivisionResults : [
    gives1 (.div .always false .discard (.arc 0)) (two 4 0xFFFFFFF9 2) 4 0xFFFFFFFD,
    gives1 (.div .always false .discard (.arc 0)) (two 4 7 0) 4 0xFFFFFFFF,
    gives1 (.div .always false .discard (.arc 0)) (two 4 0x80000000 0xFFFFFFFF) 4 0x80000000,
    gives1 (.rem .always false .discard (.arc 0)) (two 4 0xFFFFFFF9 2) 4 0xFFFFFFFF,
    gives1 (.rem .always false .discard (.arc 0)) (two 4 0x80000000 0xFFFFFFFF) 4 0,
    gives1 (.divu .always true .discard (.arc 0)) (two 8 0xFFFFFFFFFFFFFFFF 2) 8 0x7FFFFFFFFFFFFFFF,
    gives1 (.divu .always false .discard (.arc 0)) (two 4 7 0) 4 0xFFFFFFFF,
    gives1 (.remu .always false .discard (.arc 0)) (two 4 7 0) 4 7,
    gives1 (.remu .always false .discard (.arc 0)) (two 4 7 4) 4 3].all id = true := by decide

/-- Descriptor 0x804: POS 4, LEN 8; 0x81C: POS 28 and LEN 8 clipped to 4 bits at 32. -/
theorem witness_BitFields : [
    gives1 (.bfxu .always false .discard (.arc 0)) (two 4 0xABCDEF01 0x804) 4 0xF0,
    gives1 (.bfxu .always false .discard (.arc 0)) (two 4 0xABCDEF01 0x81C) 4 0xA,
    gives1 (.bfxs .always false .discard (.arc 0)) (two 4 0xABCDEF01 0x804) 4 0xFFFFFFF0,
    gives1 (.bfi false .discard (.arc 0)) (three 4 0xFFFFFFFF 0 0x804) 4 0xFFFFF00F].all id = true := by decide

theorem witness_CountsSelectsExtensions : [
    gives1 (.popc .always false .discard (.arc 0)) (two 4 0xF0F0F0F0 0) 4 16,
    gives1 (.clz .always false .discard (.arc 0)) (two 4 1 0) 4 31, gives1 (.ctz .always true .discard (.arc 0)) (two 8 0 0) 8 64,
    gives1 (.sel false .discard (.arc 0)) (three 4 7 9 1) 4 7, gives1 (.sel false .discard (.arc 0)) (three 4 7 9 2) 4 9,
    gives1 (.sx8 .always false .discard (.arc 0)) (two 4 0x180 0) 4 0xFFFFFF80,
    gives1 (.sx16 .always true .discard (.arc 0)) (two 8 0x8000 0) 8 0xFFFFFFFFFFFF8000,
    gives1 (.sx32 .always .discard (.arc 0)) (two 4 0x80000000 0) 8 0xFFFFFFFF80000000,
    gives1 (.zx8 .always false .discard (.arc 0)) (two 4 0x180 0) 4 0x80,
    gives1 (.zx16 .always false .discard (.arc 0)) (two 4 0x18000 0) 4 0x8000,
    gives1 (.zx32 .always .discard (.arc 0)) (two 4 0x80000000 0) 8 0x80000000,
    gives1 (.addi .always 0x3FFF (.arc 0)) (two 4 5 0) 4 4, gives1 (.andi .always 0x3FFE (.arc 0)) (two 4 5 0) 4 4,
    gives1 (.ori .always 0x2000 (.arc 0)) (two 4 5 0) 4 0xFFFFE005,
    gives1 (.xori .always 0x0003 (.arc 0)) (two 4 5 0) 4 6].all id = true := by decide

/-! ## Floating point and vectors -/

/-- H31 of the firing's frame in the next state, where it is full. -/
def h31 : Result → Nat
  | .next t => let q := (t.cell 0).holdOf 1 0 31; if q.st = .full then q.val.toNat else 0
  | _ => 99

/-- As `gives1` on 4 bytes, with the flags that H31 holds afterwards. -/
def givesF (i : Instr) (s : State) (b fl : Nat) : Bool := gives1 i s 4 b && h31 (exec i s) == fl

/-- `desk` with a vector format, and block scales where told (R208). -/
def inFmt (code : BitVec 6) (bs : Bool) (s : State) : State :=
  s.updCell 0 fun c => { c with fmt := { c.fmt with set := true, vfmt := code, bs := bs } }

/-- 1 + 2^-24 upward is 1 + 2^-23; 1 - 1 downward is -0; 1 / 3 to nearest; 1 / 0 raises DZ; 2 * 3 + 1. -/
theorem witness_FloatArithmetic : [
    givesF (.fadd .always .s .rn .discard (.arc 0)) (two 4 0x3F800000 0x3F800000) 0x40000000 0,
    givesF (.fadd .always .s .ru .discard (.arc 0)) (two 4 0x3F800000 0x33800000) 0x3F800001 1,
    givesF (.fsub .always .s .rd .discard (.arc 0)) (two 4 0x3F800000 0x3F800000) 0x80000000 0,
    givesF (.fmul .always .h .rn .discard (.arc 0)) (two 4 0x4200 0x4000) 0x4600 0,
    givesF (.fdiv .always .s .rn .discard (.arc 0)) (two 4 0x3F800000 0x40400000) 0x3EAAAAAB 1,
    givesF (.fdiv .always .s .rn .discard (.arc 0)) (two 4 0x3F800000 0) 0x7F800000 8,
    givesF (.fsqrt .always .s .rn .discard (.arc 0)) (two 4 0x40800000 0) 0x40000000 0,
    givesF (.fsqrt .always .s .rn .discard (.arc 0)) (two 4 0xC0800000 0) 0x7FC00000 16,
    givesF (.ffma .s .rn .discard (.arc 0)) (three 4 0x40000000 0x40400000 0x3F800000) 0x40E00000 0,
    givesF (.frcp .always .s .discard (.arc 0)) (two 4 0x40800000 0) 0x3E800000 0,
    givesF (.frsq .always .s .discard (.arc 0)) (two 4 0x40800000 0) 0x3F000000 0,
    givesF (.fmin .always .s .discard (.arc 0)) (two 4 0 0x80000000) 0x80000000 0,
    givesF (.fmax .always .s .discard (.arc 0)) (two 4 0x3F800000 0x40000000) 0x40000000 0,
    givesF (.fminm .always .s .discard (.arc 0)) (two 4 0x7FC00000 0x3F800000) 0x3F800000 0,
    givesF (.fmaxm .always .s .discard (.arc 0)) (two 4 0x3F800000 0x7F800001) 0x3F800000 16,
    givesF (.frnd .always .s .rn .discard (.arc 0)) (two 4 0x40200000 0) 0x40000000 0].all id = true := by decide +kernel

/-- 2^3, log2 8, sin (pi / 2), cos pi, and the sign of sin 0. -/
theorem witness_FloatArithmetic_functions : [
    givesF (.fexp2 .always .s .discard (.arc 0)) (two 4 0x40400000 0) 0x41000000 0,
    givesF (.flog2 .always .s .discard (.arc 0)) (two 4 0x41000000 0) 0x40400000 0,
    givesF (.fsin .always .s .discard (.arc 0)) (two 4 0x3F000000 0) 0x3F800000 0,
    givesF (.fsin .always .s .discard (.arc 0)) (two 4 0x80000000 0) 0x80000000 0,
    givesF (.fcos .always .s .discard (.arc 0)) (two 4 0x3F800000 0) 0xBF800000 0].all id = true := by decide +kernel

theorem witness_FloatSpecialCases :
    (Machine.Num.fin true 0 3).isZero = true ∧ (Machine.Num.nan true).isNan = true ∧ (fp16.decode 0x7E00).isNan = true ∧
    (fp16.decode 0x3C00).isNan = false := by decide

theorem witness_RoundingTowardZero : let r := fp16.give .rz (.fin false 4097 0) 0
    (4097 : Nat) ≠ 0 ∧ r.code = 0x6C00 ∧ r.flags = 1 := by decide

theorem witness_SignsComparisonsClasses : [
    givesF (.fabs .always .s .discard (.arc 0)) (two 4 0xFF800001 0) 0x7F800001 0,
    givesF (.fabs .always .b .discard (.arc 0)) (two 4 0xBF80 0) 0x3F80 0,
    givesF (.fneg .always .s .discard (.arc 0)) (two 4 0x3F800000 0) 0xBF800000 0,
    givesF (.fcmp .always .s .lt .discard (.arc 0)) (two 4 0x3F800000 0x40000000) 1 0,
    givesF (.fcmp .always .s .lt .discard (.arc 0)) (two 4 0x7FC00000 0x40000000) 0 16,
    givesF (.fclass .always .s .discard (.arc 0)) (two 4 0x80000000 0) 8 0,
    givesF (.fclass .always .s .discard (.arc 0)) (two 4 0x7F800001 0) 0x100 0].all id = true ∧
    ((Machine.Num.nan true).isNan || (Machine.Num.inf true).isNan) = true ∧
    ((Machine.Num.inf false).isNan || (Machine.Num.fin true 0 0).isNan) = false := by decide

/-- 1.0 in B8SF4 (0x1B) is 0x40 (R258). -/
theorem witness_Conversions : [
    givesF (.cvtS .always .b .rn .discard (.arc 0)) (two 4 0x3F80 0) 0x3F800000 0,
    givesF (.cvtH .always .s .rn .discard (.arc 0)) (two 4 0x3F800000 0) 0x3C00 0,
    givesF (.cvtB .always .s .rn .discard (.arc 0)) (two 4 0x3F80FFFF 0) 0x3F81 1,
    givesF (.cvtfi .always .s .rz .discard (.arc 0)) (two 4 0x40300000 0) 2 1,
    givesF (.cvtfi .always .s .rz .discard (.arc 0)) (two 4 0x7FC00000 0) 0 16,
    givesF (.cvtif .always .s .rn .discard (.arc 0)) (two 4 0xFFFFFFFF 0) 0xBF800000 0,
    givesF (.cvtifL .always .s .rn .discard (.arc 0)) (two 8 0x10000000000 0) 0x53800000 0,
    givesF (.cvt8 .always .s .discard (.arc 0)) (inFmt 0x1B false (two 4 0x3F800000 0)) 0x40 0,
    givesF (.cvf8 .always .s .discard (.arc 0)) (inFmt 0x1B false (two 4 0x40 0)) 0x3F800000 0].all id = true ∧
    2147483647 < 2147483648 ∧ (-16777215 : Int).natAbs < 2 ^ 24 := by decide

/-- n lanes of k bits, each x. -/
def rep (n k x : Nat) : Nat := (List.range n).foldl (fun a i => a + x * 2 ^ (k * i)) 0

/-- INT8 (3): 127 + 1 and -128 - 1 saturate; the greater and the lesser; |-128| is 127. -/
theorem witness_VectorLaneArithmetic_integers : [
    gives1 (.vadd .always .discard (.arc 0)) (inFmt 3 false (two 64 0x017F 0x0101)) 64 0x027F,
    gives1 (.vsub .always .discard (.arc 0)) (inFmt 3 false (two 64 0x0180 0x0101)) 64 0x0080,
    gives1 (.vmul .always .discard (.arc 0)) (inFmt 3 false (two 64 0x0380 0x0280)) 64 0x067F,
    gives1 (.vfma .discard (.arc 0)) (inFmt 3 false (three 64 0x03 0x02 0x01)) 64 0x07,
    gives1 (.vmin .always .discard (.arc 0)) (inFmt 3 false (two 64 0x01FF 0x0201)) 64 0x01FF,
    gives1 (.vmax .always .discard (.arc 0)) (inFmt 3 false (two 64 0x01FF 0x0201)) 64 0x0201,
    gives1 (.vclamp .discard (.arc 0)) (inFmt 3 false (three 64 0x10FF 0x0000 0x0805)) 64 0x0800,
    gives1 (.vabs .always .discard (.arc 0)) (inFmt 3 false (two 64 0xFF80 0)) 64 0x017F,
    gives1 (.vneg .always .discard (.arc 0)) (inFmt 3 false (two 64 0x0180 0)) 64 0xFF7F].all id = true := by decide +kernel

/-- FP32 (0), 16 lanes of one value: 1 / 4, 1 / sqrt 4, 2^3, log2 8, and 1 scaled by 2^(128 - 127). -/
theorem witness_VectorLaneArithmetic : [
    gives1 (.vrcp .always .discard (.arc 0)) (inFmt 0 false (two 64 (rep 16 32 0x40800000) 0)) 64 (rep 16 32 0x3E800000),
    gives1 (.vrsq .always .discard (.arc 0)) (inFmt 0 false (two 64 (rep 16 32 0x40800000) 0)) 64 (rep 16 32 0x3F000000),
    gives1 (.vexp2 .always .discard (.arc 0)) (inFmt 0 false (two 64 (rep 16 32 0x40400000) 0)) 64 (rep 16 32 0x41000000),
    gives1 (.vlog2 .always .discard (.arc 0)) (inFmt 0 false (two 64 (rep 16 32 0x41000000) 0)) 64 (rep 16 32 0x40400000),
    gives1 (.vscale .always .discard (.arc 0)) (inFmt 0 false (two 64 (rep 16 32 0x3F800000) 128)) 64 (rep 16 32 0x40000000)].all id = true ∧
    15 < laneCount fp32 ∧ 0 < 8 ∧ 255 < 256 := by decide +kernel

theorem witness_VectorMasksReductionsConversions : [
    gives1 (.vcmp .always .lt .discard (.arc 0)) (inFmt 3 false (two 64 0x01FF 0x0201)) 8 3,
    gives1 (.vsel .discard (.arc 0)) (inFmt 3 false (three 64 0x0101 0x0202 1)) 64 0x0201,
    gives1 (.vbcast .always .discard (.arc 0)) (inFmt 0 false (two 8 0x8C0DE0001 0)) 64 (rep 16 32 0xC0DE0001),
    gives1 (.vredSum .always .discard (.arc 0)) (inFmt 3 false (two 64 0x7F7F7F 0)) 4 381,
    gives1 (.vredMin .always .discard (.arc 0)) (inFmt 3 false (two 64 0x8001 0)) 4 0xFFFFFF80,
    gives1 (.vredMax .always .discard (.arc 0)) (inFmt 3 false (two 64 0x8001 0)) 4 1,
    gives1 (.vcvt .always .discard (.arc 0)) (inFmt 3 false (two 64 0xFF01 0)) 256 0xBF8000003F800000,
    gives1 (.vcvt .always .discard (.arc 0)) (inFmt 0 false (two 64 (rep 16 32 0x7F800001) 0)) 64 (rep 16 32 0x7F800001)].all id = true ∧
    ((inFmt 3 false (two 64 0 0)).vfmt {} = .int 8 true ∧ ((inFmt 3 false (two 64 0 0)).cell 0).fmt.bs = false) ∧
    (inFmt 0 false (two 64 0 0)).vfmt {} = fp32 ∧
    ([Machine.Num.fin true 0 0, .inf true].any Machine.Num.isNan = false ∧
      ∀ x ∈ [Machine.Num.fin true 0 0, .inf true], x.isZero = true ∨ ∃ a, x = .inf a) := by
  refine ⟨by decide +kernel, by decide, by decide, by decide, fun x h => ?_⟩
  simp only [List.mem_cons, List.not_mem_nil, or_false] at h
  rcases h with rfl | rfl
  · exact .inl rfl
  · exact .inr ⟨true, rfl⟩

/-- The worked block of spec/16 after R352: VFMT 0x1B with BS = 1, lanes 3.0, -0.5, 100.0, 0.001 and zeros. -/
theorem test_vquant_worked_block :
    let s := inFmt 0x1B true (two 256 0x3A83126F42C80000BF00000040400000 0)
    gives1 (.vquant .always .discard (.arc 0)) s 68 (0x027CC054 + 0x7F7E * 2 ^ 512) = true ∧
    h31 (exec (.vquant .always .discard (.arc 0)) s) = 3 := by decide +kernel

/-- And back: 3.0, -0.5, 96.0 and 0x3A800000. -/
theorem test_vcvt_worked_block :
    gives1 (.vcvt .always .discard (.arc 0)) (inFmt 0x1B true (two 68 (0x027CC054 + 0x7F7E * 2 ^ 512) 0)) 256
      0x3A80000042C00000BF00000040400000 = true := by decide +kernel

/-! ## Tags, frames, hold registers, memory, queues and trees -/

/-- The clauses in order: ITER and NEXT, RETIRE, FRAME, FRET of a frame that is not there, returned, with no parent and with one, TAGRD, QLVL;
the fields of a tag; and NextTag where ITR wraps and where it does not. -/
theorem witness_TagsAndFrames :
    let s := two 8 5 6
    meets .always (toBoth (.arc 0) (.arc 1) (Val.of 8 0)) s = true ∧ meets .always [(.arc 0, s.sch.cur.valL), (.arc 1, Val.of 4 0)] s = true ∧
    (s.region s.sch.cur.region).frame? 5 = none ∧
    (((inFrame (fun g => { g with returned := true }) s).region 1).frame? 0).map FrameRec.returned = some true ∧
    ((s.region 1).frame? 0).map (fun g => (g.returned, g.parent)) = some (false, none) ∧
    (((inFrame (fun g => { g with parent := some 7 }) s).region 1).frame? 0).map (fun g => (g.returned, g.parent)) = some (false, some 7) ∧
    meets .always (toBoth (.arc 0) (.arc 1) (val ((0 : Tag) ++ s.sch.cur.acc.tag))) s = true ∧ entry s = true ∧
    (1023 < 1024 ∧ 255 < 256 ∧ 3 < 4 ∧ 4095 < 4096) ∧
    (nextTag 0xABCD7FFF = 0xABCD4000 ∧ nextTag 0xABCD7FFE = 0xABCD7FFF) := by decide

/-- The packed tag of context 1, FRM 2, GEN 3, ITR 4 is 1 * 2^22 + 2 * 2^14 + 3 * 2^12 + 4 (R6). -/
theorem test_tag_fields : mkTag 1 2 3 4 = 0x0040B004 := by decide

/-- SEND to slot 2, port L, of the own cell; the four faults of its descriptor; SENDM to group 3, and the faults of its descriptor. -/
theorem witness_SendsAcrossTheRegion :
    let s := two 8 5 0x90
    let r := s.region 1
    s.sch.cur.passes .always = true ∧ (portR 32 s).extractLsb' 28 4 = 0 ∧ (portR 32 s).extractLsb' 0 3 = 0 ∧ r.contains 0 0 = true ∧
    0 < r.image.wpc ∧ ((portR 32 s).extractLsb' 4 2).toNat = Port.l.code ∧ s.slotTakes 1 (cellKey 0 0 0) 0 2 .l = true ∧
    r.steer 0 0 0 s.sch.cur.acc.tag s.sch.cur.valL = (0, 0) ∧ (s.takeEntry (cellKey 0 0 0) 1).isSome = true ∧
    (portR 32 (two 8 5 0x10000090)).extractLsb' 28 4 ≠ 0 ∧ (portR 32 (two 8 5 0x91)).extractLsb' 0 3 ≠ 0 ∧ r.contains 1 0 = false ∧
    r.image.wpc ≤ 1 ∧
    (let t := grouped (two 8 5 0x30090)
     let g : Group := look {} (t.die 0).groups ((portR 32 t).extractLsb' 16 8).toNat
     (portR 32 t).extractLsb' 24 8 = 0 ∧ (portR 32 t).getLsbD 15 = false ∧ (portR 32 t).extractLsb' 0 3 = 0 ∧
     ((portR 32 t).extractLsb' 4 2).toNat = Port.l.code ∧ g.members ≠ [] ∧ g.ctx = tagCtx t.sch.cur.acc.tag ∧
     (∀ c ∈ g.members.filter fun c => (t.region 1).contains c.1 c.2, t.slotTakes 1 (cellKey 0 c.1 c.2) 0 2 .l = true) ∧
     (t.takeEntries 0 1 (g.members.filter fun c => (t.region 1).contains c.1 c.2)).isSome = true) ∧
    (portR 32 (two 8 5 0x1030090)).extractLsb' 24 8 ≠ 0 ∧ (portR 32 (two 8 5 0x38090)).getLsbD 15 = true ∧
    (portR 32 (two 8 5 0x30080)).extractLsb' 4 2 = 0 ∧
    (look {} ((grouped (two 8 5 0x30090)).die 0).groups 3 : Group).ctx ≠ tagCtx 0x00400000 := by decide

/-- `desk` with H2 of its frame in a state. -/
def holding (st : HoldState) (s : State) : State := s.updCell 0 fun c => { c with frames := [{ region := 1, regs := [(2, { st := st, val := 7 })] }] }

theorem witness_HoldRegistersAndEnd :
    let s := two 8 5 6
    s.sch.cur.passes .always = true ∧
    (∀ st ∈ [HoldState.full, .empty, .pending], ((holding st s).cell 0).takeSlot 1 0 = some (0, (holding st s).cell 0)) ∧
    (((holding .full s).cell 0).hold 0 2).st = .full ∧ (((holding .pending s).cell 0).hold 0 2).st = .pending ∧
    (((s.cell 0).takeSlot 1 0).isSome = true ∧ (s.cell 0).frames = []) ∧ (((holding .pending s).cell 0).hold 0 3).st = .empty ∧
    meets .always [(.arc 0, val (7 : Dword))] (holding .full s) = true ∧ (s.region 1).trapSet = [] ∧
    ((s.updRegion 1 fun r => { r with trapSet := [4] }).region 1).trapSet ≠ [] := by decide

theorem test_hold_registers : [
    gives1 (.rdh .always true 2 (.arc 0)) (holding .full (two 8 5 6)) 8 7, gives1 (.tsth .always 2 (.arc 0)) (holding .full (two 8 5 6)) 8 1,
    gives1 (.tsth .always 2 (.arc 0)) (holding .pending (two 8 5 6)) 8 0, gives1 (.wrh .always 2 (.arc 0)) (holding .full (two 8 5 6)) 8 5,
    gives1 (.clrh .always 2 (.arc 0)) (holding .full (two 4 5 6)) 4 5].all id = true := by decide

/-- `s` with bank K0 in a mode, and a BMODE of it under way whose accord waits (R202). -/
def changing (m : BankMode) (s : State) : State :=
  s.updCell 0 fun c => { c.updBank 0 (fun k => { k with mode := m }) with
    waiting := [{ stamp := 9 }], modeOps := [{ stamp := 9, banks := [0] }] }

/-- Whether the element accesses of the firing on p0 wait for a BMODE. -/
def waitsOnP0 (s : State) : Bool := s.cacheWaits s.sch.cur (((s.region s.sch.cur.region).binding? 0).getD {})

/-- A retry buffer with room and one that is full (R221), a bank about to change, a binding, an entry and room for results of 4, 8 and 16
bytes. -/
theorem witness_AccessesIssue :
    let s := two 8 5 6
    waitsOnP0 s = false ∧ waitsOnP0 (changing .cache s) = true ∧
    s.sch.cur.passes .always = true ∧ bound .random s = true ∧ s.retries s.sch.cur.cell < 32 ∧ entry s = true ∧
    ([4, 8, 16].all fun n => s.canSend s.sch.cur [(.arc 0, Val.of n 0)]) = true ∧
    32 ≤ ({ s with accesses := List.replicate 32 { firing := s.sch.cur, phase := .retry false } } : State).retries s.sch.cur.cell := by decide

theorem witness_PendingLoadsAndFences :
    let s := two 8 0x0100 6
    let w := deskOf .ordered s
    s.sch.cur.passes .always = true ∧ bound .random s = true ∧ s.retries s.sch.cur.cell < 32 ∧ waitsOnP0 s = false ∧
    (s.cell 0).holdReady 1 s.sch.cur.frm 2 = true ∧ entry s = true ∧ ((s.cell 0).takeSlot 1 s.sch.cur.frm).isSome = true ∧
    (portL 64 (two 8 0x40 6)).extractLsb' 6 2 ≠ 0 ∧ (portL 64 (two 8 0x4000 6)).extractLsb' 14 50 ≠ 0 ∧
    ((portL 64 (two 8 0x0001 6)).extractLsb' 8 6).toNat < ((portL 64 (two 8 0x0001 6)).extractLsb' 0 6).toNat ∧
    s.rankCount s.sch.cur 0 ≤ 1 ∧ ((portL 64 s).extractLsb' 6 2 = 0 ∧ (portL 64 s).extractLsb' 14 50 = 0) ∧
    meets .always (toBoth (.arc 0) (.arc 1) (Val.of s.sch.cur.valL.len 0)) s = true ∧ w.retries w.sch.cur.cell < 32 := by decide

/-- The window's first slot an LD of p0, the one access of its rank order. -/
def loads (s : State) : State := s.updCell 0 fun c => c.updWindow 0 fun w => { w with words := [(encode (.ld .always 0 0 0 0 .discard)).getD 0] }

theorem witness_PendingLoadsAndFences_mnop :
    let s := loads (two 8 0 6)
    s.sch.cur.passes .always = true ∧ bound .random s = true ∧ (portL 64 s).extractLsb' 6 2 = 0 ∧ (portL 64 s).extractLsb' 14 50 = 0 ∧
    ((portL 64 s).extractLsb' 8 6).toNat < s.rankCount s.sch.cur 0 ∧ s.retries s.sch.cur.cell < 32 ∧
    s.canSend s.sch.cur [(.arc 0, Val.of 4 0)] = true ∧ entry s = true := by decide

/-- `desk` with tile 4 of an INT32 format: 2 rows of 3 columns in K0, the word at row 1, column 2 holding 41. -/
def tiled (st : TileState) (s : State) : State :=
  let t : Tile := { defined := true, st := st, fmt := 8, base := 0, rows := 1, cols := 2, stride := 1 }
  s.updCell 0 fun c => { c with tiles := [(4, t)], bytes := put 0 (t.rowAddr 1 + 8) 41 c.bytes }

theorem witness_TileAtomics :
    let s := tiled .ready (two 8 0x1002 1)
    let t := (s.cell 0).tile 4
    s.sch.cur.passes .always = true ∧ (s.cell 0).tileReady 4 = true ∧ ((tiled .filling (two 8 0x1002 1)).cell 0).tileReady 4 = false ∧
    ((portL 64 s).extractLsb' 22 42 = 0 ∧ 1 < t.nrows ∧ 2 < t.ncols ∧ amotFmt .add t.fmt = true ∧ t.bs = false ∧
      ((s.cell 0).bank t.bank.toNat).mode = .scratchpad) ∧
    ¬ ((portL 64 (two 8 0x3002 1)).extractLsb' 12 10).toNat < t.nrows ∧
    s.canSend s.sch.cur [(.slot .l false 2, Val.of 4 41)] = true := by decide

theorem test_amot_add : (match exec (.amot .always 4 .add .none) (tiled .ready (two 8 0x1002 1)) with
    | .next t => (t.cell 0).bankRead 0 (((t.cell 0).tile 4).rowAddr 1 + 8) 4 == 42
    | _ => false) = true := by decide

/-- A chain of context 0 as the hub holds it. -/
def chained (kind : Nat) (tl : Dword) (s : State) : State :=
  s.updChain 0 5 fun c => { c with entry := some { kind := kind }, tl := tl }

theorem witness_QueueTreeTimelineRequests :
    let s := grouped (two 8 5 6)
    s.sch.cur.passes .always = true ∧ entry s = true ∧
    ([4, 8, 32].all fun n => s.canSend s.sch.cur [(.arc 0, Val.of n 0)]) = true ∧ s.inGroup s.sch.cur 3 = true ∧ s.inGroup s.sch.cur 2 = false ∧
    s.canSend s.sch.cur [(.arc 0, Val.of (treeVal s.sch.cur).len 0)] = true ∧
    (portL 64 s).toNat ≤ ((chained 0 5 s).chain 0 5).tl.toNat ∧ ((chained 0 4 s).chain 0 5).tl.toNat < (portL 64 s).toNat ∧
    (((chained 0 0 s).chain 0 5).entry.isSome = true ∧ ((chained 0 0 s).chain 0 5).kind ≠ 2) := by decide

/-- COLLREC at the first chunk of the record of ordinal 1. -/
theorem witness_QueueTreeTimelineRequests_collrec :
    let c : Coll := { ctx := 0, chain := 5, ordinal := 1, elems := 20, group := 3, dieMask := 1 }
    let s : State := { chained 2 0 (grouped (two 64 5 6)) with colls := [c] }
    s.sch.cur.passes .always = true ∧ s.colls = [c] ∧ c.ctx = tagCtx s.sch.cur.acc.tag ∧ 0 < c.ordinal ∧ look 0 (s.cell 0).collCount 5 = 0 ∧
    (s.chain 0 5).kind = 2 ∧ (s.chain 0 5).invalid = false ∧ bit c.dieMask s.sch.cur.die = true ∧ s.inGroup s.sch.cur c.group = true ∧
    s.canSend s.sch.cur [(.arc 0, Val.of 4 0)] = true ∧ entry s = true := by decide

/-! ## Traps, queries and configuration -/

/-- Breakpoint set 1 enabled for context 0 on die 0 (R398). -/
def breaks (s : State) : State := s.updDie 0 fun d => { d with bkpt := { mask := 2, ctx := 0 } }

/-- H31 of the frame in a state, its flags 0b10001. -/
def flagged (st : HoldState) (s : State) : State := s.updCell 0 fun c => { c with frames := [{ region := 1, regs := [(31, { st := st, val := 17 })] }] }

theorem witness_TrapsAndBreakpoints :
    let s := two 8 5 6
    s.sch.cur.passes .always = true ∧ s.sch.cur.acc.reissue = false ∧
    ((flagged .pending s).cell 0).holdOf 1 s.sch.cur.frm 31 = { st := .pending, val := 17 } ∧
    (((flagged .full s).cell 0).holdOf 1 s.sch.cur.frm 31).st ≠ .pending ∧ (17 : BitVec 5) &&& 1 ≠ 0 ∧ (17 : BitVec 5) &&& 2 = 0 ∧
    (((breaks s).die 0).bkpt.mask.getLsbD (1 : BitVec 4).toNat = true ∧ ((breaks s).die 0).bkpt.ctx.toNat = tagCtx s.sch.cur.acc.tag) ∧
    (s.die 0).bkpt.mask.getLsbD 1 = false ∧ meets .always [(.arc 0, s.sch.cur.valL)] s = true ∧
    (let t : State := { s with sch := { s.sch with cur := { s.sch.cur with acc := { s.sch.cur.acc with reissue := true } } } }
     t.sch.cur.acc.reissue = true ∧ meets .always [(.arc 0, t.sch.cur.valL)] t = true) := by decide

/-- TRAP 0x12 with L = 5 reports class TRAP with operands 0x12 and 5 (R395, R396). -/
theorem test_trap_reports : (match exec (.trap .always 0x12 .discard) (two 8 5 6) with
    | .next t => (t.die 0).reports.map (fun r => (r.rcd.cls, r.rcd.bodyA, r.frm)) == [(.trap, 0x500000012, 0)]
    | _ => false) = true := by decide

theorem witness_TrapReportsAndRecords : ({ ctx := 1023 } : FaultRec).ctx < 1024 := by decide

/-- The share and hang registers of a privileged region, the window 0x030, and a mask that is another context's. -/
theorem witness_SystemRegisters :
    let s := two 8 9 6
    let p := s.updRegion 1 fun r => { r with priv := true }
    s.sch.cur.passes .always = true ∧ (s.region 1).priv = false ∧ (p.region 1).priv = true ∧ meets .always [(.arc 0, p.sch.cur.valL)] p = true ∧
    ((p.updDie 0 fun d => { d with bkpt := { ctx := 3 } }).die 0).bkpt.ctx.toNat ≠ tagCtx p.sch.cur.acc.tag ∧
    (p.die 0).bkpt.ctx.toNat = tagCtx p.sch.cur.acc.tag ∧ 0x030 ≤ (0x030 : BitVec 12).toNat ∧ (0x037 : BitVec 12).toNat ≤ 0x037 ∧
    ((p.cell 0).findWin 1 (0x030 - 0x030)).isSome = true ∧
    [gives1 (.sysqHandle .always .discard (.arc 0)) s 8 0, gives1 (.sysqDie .always .discard (.arc 0)) s 4 0,
      gives1 (.sysqReplica .always .discard (.arc 0)) s 4 0, gives1 (.sysqCtx .always .discard (.arc 0)) s 4 0,
      gives1 (.cyc .always .discard (.arc 0)) s 8 0, gives1 (.rdcfg .always 0x020 (.arc 0)) s 8 0,
      gives1 (.yield .always .discard (.arc 0)) s 8 9].all id = true := by decide

/-! ## Tiles, the tile engine and the matrix unit -/

/-- `desk` with tile j as told. -/
def withTile (j : Nat) (t : Tile) (s : State) : State := s.updCell 0 fun c => { c with tiles := put {} j t c.tiles }

/-- An INT32 tile of one row of 4 columns in K0, in a state. -/
def small (st : TileState) : Tile := { defined := true, st := st, fmt := 8, cols := 3, stride := 1 }

/-- `s` with K2 not claimed for the region. -/
def unclaimed (s : State) : State := s.updCell 0 fun c => c.updBank 2 fun _ => {}

/-- `s` with tile 4 a destination of binding p0, in tile mode. -/
def destined (s : State) : State :=
  s.updRegion 1 fun r => { r with image := { r.image with bindings := [{ p := 0, mode := .tile, dests := [{ tile := 4 }] }] } }

/-- The descriptor of an INT32 tile of 1 row of 4 columns in bank b: its STRIDE of 1, COLS of 3 and FMT of 8 in R204's fields. -/
def descriptor (b : Nat) : Nat := b * 2 ^ 124 + 8 * 2 ^ 118 + 3 * 2 ^ 84 + 1 * 2 ^ 72

/-- TDEF: not EMPTY, a field that is not zero, a bank that is not the region's, a good entry; then the states of TSET and PERMIT. -/
theorem witness_TileEntries :
    let s := desk (v 16 (descriptor 0)) none none
    let e : Tile := { small .empty with tdef := true }
    s.sch.cur.passes .always = true ∧ s.canSend s.sch.cur [(.arc 0, Val.of 4 0)] = true ∧
    ((withTile 4 (small .ready) s).cell 0).tile 4 = small .ready ∧ ((withTile 4 {} s).cell 0).tile 4 = {} ∧
    ((portL 128 s).extractLsb' 126 2 = 0 ∧ (portL 128 s).extractLsb' 0 72 = 0 ∧ (portL 128 s).extractLsb' 118 6 = 8 ∧
      fmtBits 8 ≠ 0 ∧ (s.cell 0).tileValid e = true) ∧
    ¬ (portL 128 (desk (v 16 (descriptor 0 + 1)) none none)).extractLsb' 0 72 = 0 ∧
    ((s.cell 0).ownsTile e 1 = true ∧ ((unclaimed s).cell 0).ownsTile { e with bank := 2 } 1 = false) ∧
    ((s.cell 0).engineHolds 4 = false ∧ ((s.cell 0).bank 0).mode = .scratchpad) ∧
    (∀ st ∈ [TileState.empty, .filling, .ready, .draining], (((withTile 4 (small st) s).cell 0).tile 4).st = st) ∧
    (s.destsOf 1 0 0 4 = [] ∧ (destined s).destsOf 1 0 0 4 = [(0, 0)]) ∧
    (small .draining).opened = false ∧ ({ small .draining with opened := true } : Tile).opened = true ∧
    (let t := withTile 4 (small .ready) s
     (t.cell 0).tileBusy 4 = false ∧ ((changing .scratchpad t).cell 0).tileBusy 4 = true ∧
       ((changing .cache t).cell 0).bank 0 = { claimed := true, region := 1, mode := .cache } ∧
       ((t.updCell 0 fun c => { c with engine := some { td := 4 } }).cell 0).engineHolds 4 = true ∧
       ((t.updCell 0 fun c => c.updBank 0 fun _ => {}).cell 0).ownsTile (small .ready) 1 = false) := by decide

/-- TSTATE of a FILLING tile with 1 row in. -/
theorem test_tstate : gives1 (.tstate .always 4 (.arc 0)) (withTile 4 { small .filling with rowsIn := 1 } (two 8 5 6)) 4 0x10001 = true := by
  decide

/-- Tiles for the tile engine: an FP32 tile 1 of 2 rows of 3 and tile 2 of 3 rows of 2 (VTRANS); an FP16 tile 3 of 1 row of 4, its UINT8 mask 4
of 1 row of 1 and the FP32 tile 5 of 1 row of 8 (VPOOL). -/
def engineTiles (s : State) : State :=
  let put' := fun (j : Nat) (fmt : BitVec 6) (rows : BitVec 10) (cols : BitVec 12) (base : BitVec 11) (s : State) =>
    withTile j { defined := true, st := .ready, fmt := fmt, rows := rows, cols := cols, base := base, stride := 1 } s
  put' 1 0 1 2 0 (put' 2 0 2 1 8 (put' 3 1 0 3 16 (put' 4 4 0 0 24 (put' 5 0 0 7 32 s))))

/-- W_A = W_B = 8, BF16 A and INT8 B, FP16 readout; tile 6 a compute tile of one slot in K2, tile 2 an INT8 B tile and tile 3 the A tile of
spec/17's worked run, 2 rows of 4 BF16 values. -/
def matrixCell (s : State) : State :=
  s.updCell 0 fun c => { c with
    fmt := { set := true, vfmt := 1, afmt := 2, bfmt := 3, wa := 8, wb := 8 }
    banks := upd {} 2 (fun k => { k with mode := .compute }) c.banks
    tiles := [(2, { defined := true, st := .ready, fmt := 3, rows := 3, cols := 31, bank := 1, stride := 1 }),
      (3, { defined := true, st := .ready, fmt := 2, rows := 1, cols := 3, bank := 3, stride := 1 }),
      (6, { defined := true, st := .ready, fmt := 3, cols := 31, bank := 2, stride := 33 })]
    bytes := [(0x20000, 1), (0x20001, 0xFF), (0x20020, 2), (0x20040, 3), (0x20041, 5), (0x20060, 4), (0x20061, 100), (0x20800, 127),
      (0x20801, 127), (0x30000, 0xC0), (0x30001, 0x3F), (0x30003, 0x40), (0x30004, 0x80), (0x30005, 0xBE), (0x30040, 0x40),
      (0x30041, 0x40), (0x30042, 0x80), (0x30043, 0x3F), (0x30044, 0x80), (0x30045, 0x3F), (0x30047, 0x3C)] }

theorem witness_TileEngineStarts :
    let s := engineTiles (two 8 0x10100 6)
    let c := s.cell 0
    let m := (matrixCell (two 8 0 6)).cell 0
    s.sch.cur.passes .always = true ∧ ({ c with engine := some {} } : Cell).engine.isSome = true ∧ c.engine = none ∧
    ([1, 2, 3, 4, 5].all c.tileReady) = true ∧ [6, 2].all m.tileReady = true ∧
    ((c.tile 2).nrows = (c.tile 1).ncols ∧ (c.tile 2).ncols = (c.tile 1).nrows ∧ (c.tile 2).fmt = (c.tile 1).fmt ∧ (c.tile 2).bs = false ∧
      (c.tile 1).bs = false ∧ ¬ (c.tile 3).nrows = (c.tile 1).ncols) ∧
    (fmtBits (c.tile 3).fmt.toNat ≠ 0 ∧ (c.tile 3).fmt ≠ 8 ∧ (c.tile 4).fmt = 4 ∧ (c.tile 4).nrows = (c.tile 3).nrows ∧
      (c.tile 4).ncols = ((c.tile 3).ncols + 7) / 8 ∧ (c.tile 5).fmt = 0 ∧ (c.tile 5).bs = false ∧ (c.tile 5).nrows = (c.tile 3).nrows ∧
      (c.tile 5).ncols = 2 * (c.tile 3).ncols ∧ ¬ (c.tile 2).ncols = 2 * (c.tile 3).ncols) ∧
    (let w := portL 64 (two 8 0x3100 6)
     w.extractLsb' 16 48 = 0 ∧ w.extractLsb' 4 4 = 0 ∧ 1 ≤ (w.extractLsb' 8 8).toNat ∧ (w.extractLsb' 8 8).toNat ≤ 49) ∧
    ¬ 1 ≤ ((portL 64 (two 8 0 6)).extractLsb' 8 8).toNat ∧ ¬ ((portL 64 (two 8 0x3200 6)).extractLsb' 8 8).toNat ≤ 49 ∧
    (let u : Cell := { m with banks := m.banks.map fun q => (q.1, { q.2 with region := 9 }) }
     u.computeTile (u.tile 6) = true ∧ u.ownsTile (u.tile 6) 1 = false) ∧
    (m.computeTile (m.tile 6) = true ∧ m.computeTile (m.tile 2) = false ∧ m.sourceTile (m.tile 2) m.fmt.bfmt = true ∧ (m.tile 2).nrows ≤ 32 ∧
      m.ownsTile (m.tile 6) 1 = true ∧ m.ownsTile (m.tile 2) 1 = true ∧ (0 : BitVec 6).toNat < (m.tile 6).nrows ∧
      ¬ ((portL 64 (two 8 0x10000 6)).extractLsb' 16 6).toNat < (m.tile 6).nrows) ∧
    s.canSend s.sch.cur (later (ctTargets (.slot .l 2)) 4) = true ∧
    ((portL 32 (two 4 0x4000 0)).extractLsb' 14 18 ≠ 0 ∧ (c.bank 0).claimed = true ∧ (c.bank 0).region = 1 ∧
      (portL 32 (two 4 2 0)).extractLsb' 14 18 = 0 ∧ (portL 32 (two 4 2 0)).getLsbD 0 = false ∧
      (c.windows.any fun q => q.2.ins.any fun a => a.2.fifo = some 0) = false ∧ (c.bank 0).intlv = false ∧ c.bankQuiet 0 = true ∧
      s.canSend s.sch.cur [(.arc 0, val (2 : BitVec 32))] = true) := by decide +kernel

/-- BMODE of K0: owned with its pair, a region to give it to, one that is not there, a bank behind another BMODE, one with a FILLING tile,
not begun and begun; and a bank table in canonical form. -/
theorem witness_TileEngineStarts_modes :
    let s := two 4 1 0
    let b := withTile 4 (small .filling) s
    let goal := fun w : Nat => s.regionAt 0 ((portL 32 (two 4 w 0)).extractLsb' 7 7).toNat ((portL 32 (two 4 w 0)).extractLsb' 1 6).toNat
    s.sch.cur.passes .always = true ∧ ([0, 1].all fun n => ((s.cell 0).bank n).claimed && ((s.cell 0).bank n).region = 1) = true ∧
    ((goal 1).any fun r => r.ctx = tagCtx s.sch.cur.acc.tag && r.contains 0 0) = true ∧ (portL 32 s).getLsbD 0 = true ∧ (goal 0x81).isNone = true ∧
    ((s.cell 0).bankBusy 0 = false ∧ (s.cell 0).bankBusy 1 = false ∧ (s.cell 0).bankQuiet 0 = true ∧ (s.cell 0).bankQuiet 1 = true) ∧
    ((changing .scratchpad s).cell 0).bankBusy 0 = true ∧ ((b.cell 0).bankQuiet 0 = false ∧ (b.cell 0).bankBusy 0 = false) ∧
    ((b.cell 0).modeOps = [] ∧ ((b.beginMode b.sch.cur [0]).cell 0).modeOps.any (fun o => o.stamp = b.sch.cur.acc.stamp && o.win = 0 && o.slot = 0)) ∧
    s.canSend s.sch.cur [(.arc 0, val (1 : BitVec 32))] = true ∧ tableWf {} (s.cell 0).banks = true ∧
    ((s.cell 0).bank 0).mode = .scratchpad := by decide

/-- A bank that leaves scratchpad mode empties its READY tile, which sends its binding one space token (R201, R226). -/
theorem test_bmode_spaces : (match exec (.bmode .always 0 .fifo false .discard) (destined (withTile 4 (small .ready) (two 4 0 0))) with
    | .next t => ((t.cell 0).tile 4).st == .empty && t.spaces.map (fun q => (q.port, q.buffer)) == [(0, 0)] &&
      ((t.cell 0).bank 0).mode == .fifo
    | _ => false) = true := by decide +kernel

/-- L of spec/17's MMAZ (0x101), MRD (0x100) and MRDA (0x101); a sequence of the same note in progress; a row that the tile has not; NT with
bits beyond its field; CLR with MZERO. -/
theorem witness_MatrixInstructions :
    let s := matrixCell (two 8 0x101 0x7D)
    let c := s.cell 0
    s.sch.cur.passes .always = true ∧ c.seqs = [] ∧ (s.noteOf s.sch.cur).code ≤ (s.noteOf s.sch.cur).code ∧ c.tileReady 3 = true ∧
    c.tileReady 6 = true ∧ ((portL 64 s).extractLsb' 6 2 = 0 ∧ (portL 64 s).extractLsb' 13 3 = 0 ∧ (portL 64 s).extractLsb' 22 42 = 0 ∧
      ((portL 64 s).extractLsb' 0 6).toNat + 1 ≤ (c.tile 3).nrows ∧ ((portL 64 s).extractLsb' 16 6).toNat < (c.tile 6).nrows) ∧
    ¬ ((portL 64 (two 8 0x102 0)).extractLsb' 0 6).toNat + 1 ≤ (c.tile 3).nrows ∧
    (c.sourceTile (c.tile 3) c.fmt.afmt = true ∧ c.computeTile (c.tile 6) = true ∧ c.ownsTile (c.tile 3) 1 = true ∧
      c.ownsTile (c.tile 6) 1 = true) ∧ s.canSend s.sch.cur (later (ctTargets (.slot .l 2)) 4) = true ∧
    (portL 64 s).extractLsb' 17 47 = 0 ∧ (portL 64 s).getLsbD 16 = false ∧ ¬ (portL 64 (two 8 0x20000 0)).extractLsb' 17 47 = 0 ∧
    ¬ (portL 64 (two 8 0x10000 0)).getLsbD 16 = false ∧ s.canSend s.sch.cur (toBoth (.arc 0) (.arc 1) (Val.of 8 0)) = true ∧
    s.canSend s.sch.cur (toBoth (.arc 0) (.arc 1) (Val.of 4 0)) = true := by decide +kernel

/-- The accumulator that spec/17's worked run leaves. -/
def accumulated (s : State) : State :=
  s.updCell 0 fun c => { c with acc := [(0, { s := 152, e := -5 }), (1, { s := -88, e := -5 }), (32, { s := 256, e := -5 }), (33, { s := 64, e := -5 })] }

/-- The first row step of spec/17's MMAZ leaves (152, -5) and (-88, -5). -/
theorem test_mmaz_worked_row :
    let s := matrixCell (two 8 0 0)
    let q : MatSeq := { zero := true, ta := 3, tb := 6, mt := 2, nt := 2 }
    ((s.cell 0).rowStep q).acc = [(0, { s := 152, e := -5 }), (1, { s := -88, e := -5 })] := by decide +kernel

/-- MRD of row 0 and MRDA of row 1 with r = 0x7D (spec/17). -/
theorem test_mrd_worked_words : [
    gives1 (.mrd .always .discard (.arc 0)) (accumulated (matrixCell (two 8 0x100 0))) 4 0xC18044C0,
    gives1 (.mrda .always .discard (.arc 0)) (accumulated (matrixCell (two 8 0x101 0x7D))) 4 0x38004000].all id = true := by decide +kernel

theorem witness_RowStepsAndAccumulator :
    let s := matrixCell (two 8 0 0)
    let q : MatSeq := { zero := true, ta := 3, tb := 6, mt := 2, nt := 2 }
    (s.cell (cellKey 0 0 0)).engine = none ∧ (s.cell (cellKey 0 0 0)).seqs = [] ∧
    (∀ k ∈ [EngineKind.trans, .poolMax, .poolAvg, .bload, .binv], let e : EngineOp := { kind := k, td := 6, ta := 2, tb := 3 }
      ((s.updCell 0 fun c => { c with engine := some e }).cell 0).engine = some e) ∧
    ((s.updCell 0 fun c => { c with seqs := [q] }).cell 0).seqs = [q] ∧ q.row + 1 < q.mt ∧
    ({ q with row := 1 } : MatSeq).mt ≤ ({ q with row := 1 } : MatSeq).row + 1 ∧
    ({ s := 0, e := -512 } : AccEntry).isNan = true ∧ ({ s := 152, e := -5 } : AccEntry).isNan = false ∧
    (152 : BitVec 56).toInt + (-152 : BitVec 56).toInt = 0 ∧ (152 : BitVec 56).toInt + (-88 : BitVec 56).toInt ≠ 0 ∧
    (0x7FFFFFFFFFFFFF : BitVec 56).toInt < 2 ^ 55 ∧ -2 ^ 55 ≤ (0x80000000000000 : BitVec 56).toInt ∧ 0x7D ≠ 0xFF := by decide +kernel

/-! ## Rendering, rays and sequences -/

/-- Vertices (0, 0), (4, 0), (0, 4) and (4, 0), (4, 4), (0, 4) of spec/19, as RSETUP takes them. -/
def triangle (b : Bool) : Nat :=
  let w := fun i : Nat => 0x40800000 * 2 ^ (32 * i)
  if b then w 0 + w 2 + w 3 + w 5 else w 2 + w 5

/-- The records of spec/19's two triangles, in 1/256 pixels. -/
theorem test_setup_worked_records :
    (setupOf false false [some 0, some 1024, some 0] [some 0, some 0, some 1024]).edges =
      [(-1024, -1024, 1048576), (1024, 0, 0), (0, 1024, 0)] ∧
    (setupOf false false [some 1024, some 1024, some 0] [some 0, some 1024, some 1024]).edges =
      [(0, -1024, 1048576), (1024, 1024, -1048576), (-1024, 0, 1048576)] ∧
    (setupOf false false [some 0, some 1024, some 0] [some 0, some 0, some 1024]).area = 1048576 := by decide

/-- RSETUP's one token of 64 bytes. -/
def record (b : Bool) : Nat :=
  match tokens (exec (.rsetup .always .discard (.arc 0)) (desk (v 24 (triangle b)) (v 4 0) none)) with
  | some [q] => q.2.2
  | _ => 0

/-- Coverage 0x137 and 0xFEC8, and 0.375 twice (spec/19). -/
theorem test_coverage_worked_words : [
    gives1 (.rstep .always .discard (.arc 0)) (desk (v 64 (record false)) (v 4 0) none) 4 0x137,
    gives1 (.rstep .always .discard (.arc 0)) (desk (v 64 (record true)) (v 4 0) none) 4 0xFEC8,
    gives1 (.rbary .always .discard (.arc 0)) (desk (v 64 (record false)) (v 4 0x10001) none) 8 0x3EC000003EC00000].all id = true := by
  decide +kernel

/-- Every clause with a premise: R = 4 is reserved; an edge that is not zero; the area of a record that is zero. -/
theorem witness_TriangleSetupAndCoverage :
    let s := desk (v 24 (triangle false)) (v 4 0) none
    s.sch.cur.passes .always = true ∧ (portR 32 s).extractLsb' 2 30 = 0 ∧ (portR 32 (two 4 0 4)).extractLsb' 2 30 ≠ 0 ∧
    s.canSend s.sch.cur (toBoth (.arc 0) (.arc 1) (Val.of 64 0)) = true ∧ 0 < (setupOf false false [some 0, some 1024, some 0]
      [some 0, some 0, some 1024]).area ∧ ((-1024 : Int) ≠ 0 ∨ (-1024 : Int) ≠ 0) ∧ ({} : Setup).area = 0 := by decide

/-- A ray along x from the origin with TMAX 8 against the box from (1, -1, -1) to (2, 1, 1) enters at 1; the box whose MIN is past its MAX is
missed. -/
theorem test_raybox : [
    gives1 (.raybox .always .discard (.arc 0)) (desk (v 64 (0x3F800000 * 2 ^ 96 + 0x41000000 * 2 ^ 224))
      (v 24 (0x3F800000 + 0xBF800000 * 2 ^ 32 + 0xBF800000 * 2 ^ 64 + 0x40000000 * 2 ^ 96 + 0x3F800000 * 2 ^ 128 + 0x3F800000 * 2 ^ 160))
      none) 8 0x13F800000,
    gives1 (.raybox .always .discard (.arc 0)) (desk (v 64 (0x3F800000 * 2 ^ 96 + 0x41000000 * 2 ^ 224)) (v 24 0x3F800000) none) 8
      0x7F800000].all id = true := by decide +kernel

theorem witness_RaySteps :
    let s := desk (v 64 (0x3F800000 * 2 ^ 96 + 0x41000000 * 2 ^ 224)) (v 24 0x3F800000) none
    let n := desk (v 64 (0x7FC00000 * 2 ^ 224)) (v 24 (0x7FC00000 * 2 ^ 160)) none
    s.sch.cur.passes .always = true ∧ s.canSend s.sch.cur (toBoth (.arc 0) (.arc 1) (Val.of 64 0)) = true ∧
    s.canSend s.sch.cur (toBoth (.arc 0) (.arc 1) (Val.of 8 0)) = true ∧ (rayNum n 7).isNan = true ∧ (boxNum n 5).isNan = true ∧
    (boxNum s 3).lt (boxNum s 0) = true ∧ (num32 0x7F800000 0).isFin = false ∧ (num32 (0x7F800000 * 2 ^ 192) 24).isFin = false ∧
    (num32 (0x7F800000 * 2 ^ 256) 32).isFin = false ∧ (num32 (0x7FC00000 * 2 ^ 224) 28).isNan = true ∧
    (∃ p ∈ [(Machine.Num.nan false, Machine.Num.inf false)], p.1.isNan = true ∨ p.2.isNan = true) := by
  decide +kernel

/-- Tile 1 of INT32 counters, tile 2 of one tile buffer (R147) in K1, whose quad counters are all 5. -/
def blendCell (st : TileState) (s : State) : State :=
  let c1 : Tile := { defined := true, st := st, fmt := 8, cols := 3, stride := 1 }
  let c2 : Tile := { defined := true, st := st, fmt := 4, cols := 2111, stride := 33, bank := 1 }
  withTile 1 c1 (withTile 2 c2 (s.updCell 0 fun c => { c with bytes := put 0 4 9 ((List.range 16).map fun q => (0x10000 + 2048 + 4 * q, 5)) }))

/-- A locator in R at the place where BLEND takes it: tile 2, NB = 1. -/
def locator : Nat := 2 * 2 ^ 1024

/-- L: SEQ 5, quad 0, END, tile 0. -/
def quadToken : Nat := 5 * 2 ^ 40 + 2 ^ 19

theorem witness_SequenceStampsAndBlend :
    let s := blendCell .ready (desk (v 8 quadToken) (v 4 2) none)
    let w := blendCell .filling (desk (v 8 quadToken) (v 4 2) none)
    let c := s.cell 0
    let d := desk (v 8 quadToken) (v 136 locator) none
    s.sch.cur.passes .always = true ∧ c.seqAt 0x20 0 = none ∧ c.seqAt 1 4 = none ∧ (c.seqAt 1 1).isSome = true ∧ (c.seqAt 1 3).isSome = true ∧
    c.tileReady 1 = true ∧ c.tileReady 2 = true ∧ (w.cell 0).tileReady 1 = false ∧ (w.cell 0).tileReady 2 = false ∧
    c.bufferAt 0x10002 0 = none ∧ c.bufferAt 2 1 = none ∧ c.bufferAt 2 0 = some (2, 0) ∧
    c.quadCounter (c.tile 2).bank.toNat 0 0 = ((portL 64 s).extractLsb' 40 24).toNat ∧
    c.quadCounter (c.tile 2).bank.toNat 0 0 ≠ ((portL 64 (two 8 0x40000000000 2)).extractLsb' 40 24).toNat ∧
    ((portR 1088 d).extractLsb' 1024 32).toNat = 2 ∧ (portL 64 s).extractLsb' 20 16 = 0 ∧
    ([4, 8].all fun n => s.canSend s.sch.cur (toBoth (.arc 0) (.arc 1) (Val.of n 0))) = true ∧
    0x10002 / 65536 % 65536 ≠ 0 ∧ 0x22 / 32 % 8 ≠ 0 ∧ 8 < 0x902 / 256 % 256 := by decide +kernel

/-- SEQGET sends the counter 9 of element 1; SEQWAIT sends L while the counter is SEQ; an END token advances the counter: CREDIT of a quad among
fifteen that are one behind is 0. -/
theorem test_sequences : [
    gives1 (.seqget .always .discard (.arc 0)) (blendCell .ready (two 4 1 1)) 4 9,
    gives1 (.seqwait .always .discard (.arc 0)) (blendCell .ready (desk (v 8 quadToken) (v 4 2) none)) 8 quadToken,
    gives1 (.blend .always .discard (.arc 0)) (blendCell .ready (desk (v 8 quadToken) (v 136 locator) none)) 8 0].all id = true := by
  decide +kernel

/-- Tile 3 maps partition 0 to slot 2, port L, of the cell itself, partition 1 to die 1, partition 2 to a port code 0, partition 3 to die 8. -/
def migration (st : TileState) (r : Nat) : State :=
  let t : Tile := { defined := true, st := st, fmt := 8, cols := 3, stride := 1 }
  withTile 3 t ((desk (v 64 7) (v 4 r) none).updCell 0 fun c => { c with bytes := [(0, 0x90), (4, 0x90), (7, 0x10), (12, 0x90), (15, 0x80)] })

theorem witness_RayMigration :
    let s := migration .ready 0x3000
    let c := s.cell 0
    let entry := fun p : Nat => (BitVec.ofNat 32 (c.bankRead 0 (4 * p) 4) : BitVec 32)
    s.sch.cur.passes .always = true ∧ c.tileReady 3 = true ∧ ((migration .filling 0x3000).cell 0).tileReady 3 = false ∧
    (portR 32 (migration .ready 0x403000)).extractLsb' 22 10 ≠ 0 ∧ fmtBits (c.tile 3).fmt.toNat = 32 ∧ fmtBits (small .ready).fmt.toNat = 32 ∧
    (c.tile 3).nrows * (c.tile 3).ncols ≤ ((portR 32 (migration .ready 0x3004)).extractLsb' 0 12).toNat ∧
    ¬ (c.tile 3).nrows * (c.tile 3).ncols ≤ ((portR 32 (migration .ready 0x3003)).extractLsb' 0 12).toNat ∧
    portOf ((entry 2).extractLsb' 4 2).toNat = none ∧ 8 ≤ ((entry 3).extractLsb' 28 4).toNat ∧
    (portOf ((entry 0).extractLsb' 4 2).toNat = some .l ∧ (entry 0).extractLsb' 0 4 = 0 ∧ ((entry 0).extractLsb' 28 4).toNat = s.sch.cur.die ∧
      (s.region 1).contains 0 0 = true ∧ 0 < (s.region 1).image.wpc ∧ s.slotTakes 1 (cellKey 0 0 0) 0 2 .l = true ∧
      s.slotTakes 1 (cellKey 0 0 0) 0 1 .l = false ∧ (s.takeEntry (cellKey 0 0 0) 1).isSome = true) ∧
    ((s.updCell 0 fun c => { c with qextraUsed := [(1, 8)], sharedUsed := [(1, 512)] }).takeEntry (cellKey 0 0 0) 1).isNone = true ∧
    ((entry 1).extractLsb' 28 4).toNat ≠ s.sch.cur.die ∧ ((s.region 1).binding? 0).map Binding.mode = some .element ∧
    ((destined s).region 1).binding? 1 = none ∧ (((destined s).region 1).binding? 0).map Binding.mode = some .tile := by decide +kernel

/-! ## Frames of stores, power, switches, the release engine -/

/-- A part past bring-up with all its dies, and the operands of a step. -/
def running (a : Args) : State :=
  { State.reset with hub := { State.reset.hub with ready := true, phase := 7, dieOk := 0xFF, homes := 0xFF }, sch := { args := a } }

theorem witness_ResultFrame :
    let s := two 4 5 6
    tableWf {} s.cells = true ∧ targetsOf s (.add .always false (.hold 3) (.slot .l true 2)) = some [.slot .l true 2, .hold 3] ∧
    targetsOf s (.add .always false .discard (.arc 2)) = some [.arc 2, .discard] ∧ s.actFrom 1 0 0 0 2 = none ∧
    (tableWf {} (s.cell 0).windows = true ∧ tableWf {} ((s.cell 0).window 0).outs = true ∧ (s.inArc 0 0 2).extended = false ∧
      (s.inArc 0 0 2).spill = [] ∧ s.consumer 1 (look {} ((s.cell 0).window 0).outs 2) = some (0, 0, 2)) ∧
    (match exec (.add .always false .discard (.arc 2)) s with | .next _ => true | _ => false) = true ∧
    (s.region 1).admission 0 0 (nextTag s.sch.cur.acc.tag) = .accept ∧
    (match exec (.add .always false (.hold 3) (.slot .l true 2)) s with | .next _ => true | _ => false) = true := by decide

theorem witness_StoresAndTheirFrames :
    let s := tiled .ready (two 8 0x1002 1)
    let c := s.cell 0
    tableWf {} s.cells = true ∧ accessOf (.st .always 31 0 0 31 .discard) = some (31, 31) ∧ tableWf 0 c.bytes = true ∧ 3 < 4 ∧
    65528 + [1, 2, 3, 4, 5, 6, 7, 8].length ≤ 65536 ∧ s.sch.cur.passes .always = true ∧
    tableWf none (running {}).lineOwner = true ∧ 8 ≤ (running { offset := 8 }).hub.aper.target 8 ∧ (running {}).populated 8 = true ∧
    (running {}).reached 8 = true ∧ 2 ^ 41 - 1 < 2 ^ (running {}).hub.bar4 ∧ 2 ^ (running {}).hub.bar4 ≤ 2 ^ 41 := by decide

/-- The aperture stores 2 bytes of the value, little-endian, at its base (R76). -/
theorem test_aperture_write : (match exec .apertureWrite (running { offset := 8, size := 2, value := 0x4321 }) with
    | .next t => [t.aperByte 8, t.aperByte 9] == [0x21, 0x43]
    | _ => false) = true := by decide

/-- Each clause, at the ends of its range: the bands of R13 from 80 and 88 degrees, the trip at 92 (tenths), a die 7, a die that is down. -/
theorem witness_PowerAndResets :
    let s := running { die := 7, temp := 800, flag := true }
    let down := { s with hub := { s.hub with dieOk := 0x7F } }
    let busy := { down with hub := { down.hub with dieBusy := 0x80 } }
    tableWf {} s.dies = true ∧ 7 < 8 ∧ 150 * [(0, some 0), (1, some 1)].length ≤ 300 ∧ s.hub.waiting = [] ∧ s.live 7 = true ∧ down.live 7 = false ∧
    s.hub.hold = false ∧ ({ s with hub := { s.hub with hold := true } } : State).hub.hold = true ∧ s.hub.phase ≠ 0 ∧
    ¬ (State.reset.hub.kind = .moduleReset ∨ State.reset.hub.phase ≠ 0) ∧
    (800 ≤ 800 ∧ 879 < 880 ∧ (s.die 7).band ≠ 1 ∧ 880 ≤ 880 ∧ 919 < 920 ∧ (s.die 7).band ≠ 2 ∧ (s.die 7).moved = false ∧ 920 ≤ 920) ∧
    (∀ r ∈ s.regions, r.die ≠ 7) ∧ s.sch.args.flag = true ∧
    (State.reset.hub.ready = false ∧ State.reset.hub.halted = false ∧ State.reset.hub.phase.toNat < 7 ∧ State.reset.hub.kind = .cold ∧
      State.reset.flash.hostLink = true ∧ ({ stages := [] } : Flash).firmwareOk = false) ∧
    ([(1, 2), (2, 3), (6, 7)].all fun q => decide ((({ State.reset.hub with phase := BitVec.ofNat 4 q.1 } : Hub).phase.toNat + 1 = q.2))) = true ∧
    (s.hub.ready = true ∧ down.dieUp 7 = false ∧
      720 ≤ ((down.updDie 7 fun d => { d with pwr := { d.pwr with temp := 720 } }).die 7).pwr.temp.toNat) ∧
    (busy.hub.dieBusy.getLsbD 7 = true ∧ 719 < 720 ∧ busy.flash.enabled.getLsbD 7 = true ∧ busy.flash.dieFail.getLsbD 7 = false ∧
      busy.flash.network = true) := by decide

/-- PWR_CAP clamps to 1,500 to 4,200 W (R16). -/
theorem test_power_cap : [(0x1FFF, 4200), (0, 1500), (2000, 2000)].all (fun q =>
    match exec .hubPwrCapWrite (running { value := BitVec.ofNat 64 q.1 }) with
    | .next t => t.hub.cap.toNat == q.2
    | _ => false) = true := by decide

/-- A sealed 32-byte packet from endpoint 0 to endpoint 1 of die 0. -/
def packet : Pkt := ({ dst := 1, len := 32, payload := List.replicate 32 0 } : Pkt).seal

/-- Switch 0 with a packet at input 0, an output 1 with headers in its store from input 0 and a full BASE queue where told. -/
def switched (p : Pkt) (full : Bool) (store : List Pkt) : State :=
  let q := if full then List.replicate 32 (packet, 2) else []
  ((running { sw := 0, inp := 0, out := 1, link := 1, value := 2 }).updSwIn 0 0 fun i => { i with data := [p] }).updSwOut 0 1
    fun o => { o with qTop := q, qHeart := q, qBase := q, stores := put [] 0 store o.stores }

theorem witness_SwitchesAndLinks :
    let s := switched packet false []
    let o := s.swOut 0 1
    let f := (switched packet true []).swOut 0 1
    let n := Note.ofCode packet.cls
    (s.sch.args.flag = false ∧ (s.swIn 0 0).paused = none ∧ (s.swIn 0 0).data = [packet]) ∧ ({ packet with hcrc := 0 } : Pkt).hcrc ≠
      ({ packet with hcrc := 0 } : Pkt).crc ∧ packet.hcrc = packet.crc ∧ packet.malformed = false ∧
    (({ packet with rsvd := 1 } : Pkt).seal.hcrc = ({ packet with rsvd := 1 } : Pkt).seal.crc ∧ ({ packet with rsvd := 1 } : Pkt).seal.malformed = true) ∧
    s.route 0 packet = some 1 ∧ queueFlits (o.queue n) + 2 ≤ o.threshold n ∧ ¬ queueFlits (f.queue n) + 2 ≤ f.threshold n ∧
    (o.store 0).length < 4 ∧ 4 ≤ ((switched packet true (List.replicate 4 packet.trimmed)).swOut 0 1 |>.store 0).length ∧
    tableWf {} s.outs = true ∧
    ((s.updSwIn 0 0 fun i => { i with paused := some (1, packet.trimmed) }).swIn 0 0).paused = some (1, packet.trimmed) ∧
    (let h := packet.trimmed
     let t := s.updSwIn 0 0 fun i => { i with sil := [h] }
     (t.swIn 0 0).pausedFor 1 = none ∧ (t.swIn 0 0).sil.find? (fun p => t.headerFor 0 p 1) = some h ∧ h.hcrc = h.crc ∧ h.malformed = false ∧
       t.route 0 h = some 1 ∧ h.sillage = true ∧ (s.swIn 0 0).sil = []) ∧
    ((switched packet false [packet.trimmed]).silNext 0 1 = some (0, packet.trimmed)) ∧
    (s.silNext 0 1 = none ∧ s.dataNote 0 1 = none) ∧
    (({ s with sch := s.sch, outs := (switched packet true []).outs } : State).dataNote 0 1).isSome = true ∧
    (switched packet true []).silNext 0 1 = none ∧ hopOf 192 16 = .link 0 ∧
    (1 < 18 ∧ 1 < s.flash.linkPorts ∧ s.defect 6 255 1 0 = false ∧ s.linkUp 1 = false ∧ tableWf {} s.links = true) ∧
    (17 < s.flash.linkPorts ∧ ({ s.rel with ptpSrc := true } : Release).ptpSrc = true ∧ s.defect 6 255 17 0 = false ∧ s.linkUp 17 = false) ∧
    s.expectedPeer 1 = some (0, 2) ∧ s.expectedPeer 1 ≠ some (0, 3) := by decide +kernel

/-- CRC-16 of the packet header is not 0, and a header with a flipped bit is discarded at the switch and counted (R29, R48). -/
theorem test_bad_header_discarded : (match exec .switchPacketArrival (switched { packet with hcrc := packet.hcrc + 1 } false []) with
    | .next t => (t.swIn 0 0).data.isEmpty && ((look ({} : ErrCnt) t.swErr 0).hcrc.toNat == 1) && (t.swOut 0 1).qBase.isEmpty
    | _ => false) = true := by decide +kernel

theorem witness_ReleaseEngine :
    let s := running { flag := true, value := 2000000, size := 100, die := 0, link := 17 }
    let r := s.rel
    let at_ : Release → State := fun r => { s with rel := r }
    ((s.sch.args.ctx = r.domain.toNat ∧ (s.sch.args.link = 17 ↔ r.ptpSrc = false)) ∧ ¬ ((running {}).sch.args.link = 17 ↔ r.ptpSrc = false)) ∧
    (r.everLocked = false ∧ ({ r with everLocked := true } : Release).everLocked = true ∧ ({ r with lock := .acquiring } : Release).lock = .acquiring) ∧
    (tableWf {} s.eps = true ∧ (s.ep (8192 + 0x044)).sends = [] ∧ (s.ep (8192 + 0x044)).wants = []) ∧
    ofBytes ({ payload := [7] } : Pkt).payload = 7 ∧
    (r.reached = false ∧ ({ r with running := true } : Release).reached = true) ∧
    (running {}).sch.args.flag = false ∧ r.lock = .free ∧ s.sch.args.flag = true ∧ (at_ { r with lock := .locked }).rel.lock = .locked ∧
    (1000000 < ((s.sch.args.value.toNat : Int) - r.now).natAbs ∧ s.sch.args.value.toNat < 2 ^ 48 * 1000000000) ∧
    ((1000000 : Int) - r.now).natAbs ≤ 1000000 ∧ 6000000000 ≤ ((6000000000 : Dword) - r.heard).toNat ∧ r.en = false ∧
    ({ r with en := true } : Release).en = true ∧ ({ r with running := true } : Release).running = true ∧
    r.t0sec.toNat * 1000000000 + r.t0ns.toNat + 0 * r.period.toNat / 2 ^ 32 ≤ r.now ∧ r.done.toNat < 1 ∧ 0 ≤ r.done.toNat ∧
    tableWf [] r.tokens = true ∧ s.dieUp 0 = true ∧ (15 ≤ 15 ∧ r.phaseAt 0 0 ≤ r.now) ∧
    look [] [(0, [RelToken.deadline 1])] 0 = [.deadline 1] ∧ look [] [(0, [RelToken.phase 1 2])] 0 = [.phase 1 2] ∧
    ({ r with reports := [3] } : Release).reports = [3] := by decide

/-! ## Streams, registers, queues, protection -/

/-- Endpoint 1 of die 0 as told. -/
def atEndpoint (e : Endpoint) (a : Args) : State := { running { a with ep := 1 } with eps := [(1, e)] }

/-- A sealed control packet of stream 4 from endpoint 0 to endpoint 1. -/
def control (p : Pkt) : Pkt := ({ p with dst := 1, stream := 4 } : Pkt).seal

/-- An open stream with a window of 2 and one packet not acknowledged, sent at cycle 0. -/
def openStream : SendStream :=
  { stream := 4, dst := 2, st := .open, limit := 2, next := 1, feed := .tokens [(0, 0, ⟨8, 1⟩)] false, kept := [(packet, 0)], resend := [(0, 1)] }

theorem witness_StreamSource :
    let one := fun p : Pkt => (atEndpoint { inbox := [control p] } {}).ep 1
    let s := atEndpoint { sends := [openStream], wants := [{ cls := .heart }, { cls := .top }] } { stream := 4, seq := 0 }
    let e := s.ep 1
    freeIndex (e.sends.map fun t => t.index) = some 1 ∧
    (s.choosePath 2 5 = some none ∧ s.choosePath (netAddr 1 8 0) 5 = none ∧ ({ feed := .act 7 } : SendStream).feed = .act 7) ∧
    (sortBy (fun (a b : SendStream) => decide (a.cls.code ≤ b.cls.code)) e.wants).head? = some { cls := .top } ∧
    (one { kind := 6, addr := 3 }).inbox.find? (fun p => p.kind = 6 && p.addr = 3) = some (control { kind := 6, addr := 3 }) ∧
    (one { kind := 1 }).inbox.find? (fun p => p.kind = 1) = some (control { kind := 1 }) ∧
    (one { kind := 2 }).inbox.find? (fun p => p.kind = 2) = some (control { kind := 2 }) ∧
    (one { kind := 3 }).inbox.find? (fun p => p.kind = 3) = some (control { kind := 3 }) ∧
    (one { kind := 6, addr := 2 }).inbox.find? (fun p => p.kind = 6 && p.addr = 2) = some (control { kind := 6, addr := 2 }) ∧
    ([control { kind := 6, addr := 3 }, control { kind := 1 }, control { kind := 2 }, control { kind := 3 }, control { kind := 6, addr := 2 }].all
      fun p => decide (p.hcrc = p.crc) && !p.malformed) = true ∧
    ({ control { kind := 1 } with hcrc := 0 } : Pkt).hcrc ≠ ({ control { kind := 1 } with hcrc := 0 } : Pkt).crc ∧
    (e.send? 4 = some openStream ∧ openStream.st = .open ∧ openStream.sentLast = false ∧ openStream.next < openStream.limit ∧
      openStream.feed = .tokens [(0, 0, ⟨8, 1⟩)] false ∧ openStream.resend = [(0, 1)] ∧
      openStream.kept.find? (fun q => q.1.seq = 0) = some (packet, 0)) ∧
    ({ openStream with st := .refused } : SendStream).since + e.gap.toNat ≤ 64 ∧ ({ openStream with next := 2 } : SendStream).limit ≤ 2 ∧
    ({ openStream with feed := .copy 0 64 64 } : SendStream).feed = .copy 0 64 64 ∧ e.rto.toNat = 16 ∧
    s.epCycle 1 < 0 + 2 ^ openStream.rto.toNat ∧
    (let u := s.updDie 0 fun d => { d with netCycles := 65536 }
     0 + 2 ^ openStream.rto.toNat ≤ u.epCycle 1 ∧ 0 + (u.ep 1).gap.toNat ≤ u.epCycle 1) ∧
    (let t := { openStream with feed := .act 7 }
     let u := { s with acts := [{ id := 7, queue := [(0, ⟨8, 1⟩)] }] }
     ((u.chainTurn 1 t).acts.find? (fun q => q.id = 7)).map ActStream.queue = some [(0, ⟨8, 1⟩)]) ∧
    (openStream.dst = 2 ∧ (control { kind := 1 }).from ≠ openStream.dst) ∧
    (s.ep 1).send? 5 = none ∧ (∃ q ∈ openStream.kept, q.1.seq = 0) ∧ ∀ q ∈ openStream.kept, q.1.seq ≠ 1 := by decide +kernel

/-- A receive stream of window 16 from endpoint 0, SEQ 0 delivered and SEQ 1 held. -/
def receiveStream : RecvStream := { stream := 4, limit := 16, kmax := 8, cum := 1, held := [{ packet with seq := 1 }], unacked := true }

/-- A data packet of the stream with a SEQ. -/
def dataPacket (seq : Nat) : Pkt := ({ packet with stream := 4, seq := seq } : Pkt).seal

theorem witness_StreamReceiver_data :
    let p := dataPacket 1
    let q := dataPacket 2
    let x := control { kind := 7 }
    ((atEndpoint { inbox := [p, q] } {}).ep 1).inbox.find? (fun p => (p.dataKind && !p.trim) || p.unknown) = some p ∧
    ((atEndpoint { inbox := [q] } {}).ep 1).inbox.find? (fun p => (p.dataKind && !p.trim) || p.unknown) = some q ∧
    (((atEndpoint { inbox := [x] } {}).ep 1).inbox.find? (fun p => (p.dataKind && !p.trim) || p.unknown) = some x ∧ x.hcrc = x.crc ∧
      x.unknown = true ∧ ((atEndpoint {} {}).ep 1).recv? p.from p.stream = none) ∧
    (atEndpoint { recvs := [receiveStream] } {}).badAddr 1 p = false ∧ (atEndpoint { recvs := [receiveStream] } {}).badAddr 1 q = false ∧
    p.hcrc = p.crc ∧ q.hcrc = q.crc ∧ p.malformed = false ∧ q.malformed = false ∧ p.ord = receiveStream.ord ∧ q.ord = receiveStream.ord ∧
    absSeq receiveStream.cum 1 < receiveStream.limit ∧ absSeq receiveStream.cum 2 < receiveStream.limit := by decide +kernel

theorem witness_StreamReceiver_full : freeIndex (List.range 512) = none := by
  simp [freeIndex]

theorem witness_StreamReceiver :
    let one := fun p : Pkt => (atEndpoint { inbox := [p], recvs := [receiveStream] } {}).ep 1
    let hole : Hole := { seq := 2, tcnt := 1 }
    let holed := { receiveStream with holes := [hole] }
    let s := atEndpoint { recvs := [receiveStream] } { src := 0, stream := 4, link := 17 }
    let u := (s.updDie 0 fun d => { d with netCycles := 256 }).updEp 1 fun e => { e with recvs := [holed] }
    let opens := control { kind := 6, addr := 0 }
    let closes := control { kind := 6, addr := 1 }
    ((one opens).inbox.find? (fun p => p.kind = 6 && p.addr = 0) = some opens ∧ opens.hcrc = opens.crc ∧ opens.malformed = false) ∧
    ((one closes).inbox.find? (fun p => p.kind = 6 && p.addr = 1) = some closes ∧ closes.hcrc = closes.crc ∧ closes.malformed = false) ∧
    ((s.ep 1).recv? opens.from opens.stream = some receiveStream ∧ (s.ep 1).recv? 7 opens.stream = none) ∧
    freeIndex ((s.ep 1).recvs.map fun t => t.index) = some 1 ∧
    receiveStream.has 1 = true ∧ receiveStream.has 2 = false ∧ (dataPacket 1).retx = false ∧
    ((one (dataPacket 2).trimmed).inbox.find? (fun p => p.dataKind && p.trim) = some (dataPacket 2).trimmed ∧
      (dataPacket 2).trimmed.malformed = false ∧ (dataPacket 2).trimmed.tcnt < receiveStream.kmax.toNat ∧
      receiveStream.kmax.toNat ≤ ({ dataPacket 2 with tcnt := 8 } : Pkt).trimmed.tcnt) ∧ (∀ h ∈ holed.holes, h.starved = false) ∧
    (holed.nextRreq = some hole ∧ (holed.holes.filter fun q => q.sent).length < 8 ∧ hole.born + 1 ≤ u.epCycle 1 ∧
      look 0 (u.ep 1).paced 0 = 0 ∧ holed.pendingRreq = some hole ∧ (u.ep 1).recvs = [holed]) ∧
    ({ closes with ord := true } : Pkt).ord ≠ receiveStream.ord ∧ closes.ord = receiveStream.ord ∧
    (receiveStream.deliverable.isSome = true ∧ ({ receiveStream with held := [] } : RecvStream).deliverable = none) ∧
    (receiveStream.unacked = true ∧ receiveStream.since + 256 ≤ u.epCycle 1 ∧ s.epCycle 1 < receiveStream.since + 256) ∧
    ((0 : Dword).getLsbD 31 = false ∧ (s.ep 1).recvs.find? (fun t => t.index = ((0 : Dword).extractLsb' 0 9).toNat) = some receiveStream) ∧
    (s.ep 1).sel.getLsbD 31 = false ∧
    ([{ receiveStream with st := .starved }].find? (fun t => t.index = ((s.ep 1).sel.extractLsb' 0 9).toNat && t.st = .starved)).isSome = true ∧
    (s.sch.args.flag = false ∧ (running { flag := true }).sch.args.flag = true) ∧
    (17 < 18 ∧ tableWf {} s.links = true ∧ (look {} [(17, ({ st := .up } : Link))] 17).st ≠ .down) := by decide +kernel

/-- TAIL of chain 7 of context 1023; the aligned and the unaligned accesses; a queue operation and one behind it; a time that has run out. -/
theorem witness_RegistersAndQueues :
    let o : QOp := { id := 5, lim := 10 }
    let p : QOp := { id := 6, firing := { x := 1 } }
    let b : QOp := { id := 7 }
    let s := running { offset := 0x10, size := 8, ctx := 1023, chain := 7, queue := 31, id := 5 }
    let t : State := { s with hub := { s.hub with qreqs := [o, p, b] } }
    let w : State := (s.updHwq 1023 31 fun h => { h with pops := [o] })
    let e : QOp := { kind := .enginePush, chain := 7, ordinal := 0 }
    alignedAccess 0x10 8 = true ∧ alignedAccess 0x12 4 = false ∧ alignedAccess 0x10 4 = true ∧ alignedAccess 0x14 4 = true ∧ 0x14 % 8 = 4 ∧
    regAt (0x10 / 8 * 8) = some .pwrCap ∧ regAt 0x8FFFFF8 = none ∧ Reg.evtHead.wide = true ∧ 1023 < 1024 ∧ 7 < 8 ∧
    (s.sch.args.flag = false ∧ (running { flag := true }).sch.args.flag = true ∧ (running {}).sch.args.offset = 0 ∧
      (running { offset := 8 }).sch.args.offset ≠ 0) ∧
    (regAt 0x20 = some .ctxBase ∧ regAt 0x90 = some .ageLim) ∧
    (t.hub.qreqs.find? (fun o => o.id = 5) = some o ∧ t.hub.qreqs.find? (fun p => p.firing.cell = o.firing.cell && !t.queueHeld p) = some o) ∧
    (t.hub.qreqs.find? (fun o => o.id = 7) = some b ∧ t.hub.qreqs.find? (fun p => p.firing.cell = b.firing.cell && !t.queueHeld p) = some o ∧
      o.id ≠ b.id) ∧
    (let h := (w.hwq 1023 31)
     (h.pushes ++ h.pops).find? (fun o => o.id = 5 && o.kind ≠ .enginePush && decide (o.arrived + 2 ^ o.lim ≤ 1024)) = some o) ∧
    [e].find? (fun o => o.kind = .enginePush && o.chain = 7 && o.ordinal = 0 && decide (o.arrived + 2 ^ 20 ≤ 2 ^ 20)) = some e ∧
    ((s.hwq 1023 31).pushes = [] ∧ (s.hwq 1023 31).pops = [] ∧ (w.hwq 1023 31).pops ≠ []) := by decide +kernel

/-- A chain of a context that the hub holds: with a good entry and a TAIL, with an invalid one, and one whose entry is read at the first
offer: V and KIND 1 make a good entry, zeros a bad one (R91). -/
theorem witness_RegistersAndQueues_tail :
    let of : Chain → State := fun c => (running { ctx := 3, chain := 2, value := 5 }).updCtx 3 fun q => { q with desc := some {}, chains := [(2, c)] }
    let s := of { entry := some {}, tail := 4 }
    let entry := fun w : Nat => (List.range 32).map fun i => (0x40 + i, BitVec.ofNat 8 (w / 2 ^ (8 * i)))
    let w : State := { of {} with mem := entry (1 + 2 ^ 60) }
    let z : State := { of {} with mem := entry 0 }
    ((s.holdDesc 3).ctx 3).desc = some {} ∧ ({} : Desc).bad = false ∧ 3 < 1024 ∧ 2 < 8 ∧
    (((s.holdDesc 3).chain 3 2).entry.isSome = true ∧ ((s.holdDesc 3).chain 3 2).invalid = false ∧ 0 < ((s.holdDesc 3).chain 3 2).tail.toNat) ∧
    ((((of { entry := some {}, invalid := true }).holdDesc 3).chain 3 2).entry.isSome = true ∧
      (((of { entry := some {}, invalid := true }).holdDesc 3).chain 3 2).invalid = true) ∧
    (((w.holdDesc 3).chain 3 2).tail = 0 ∧ ((w.holdDesc 3).chain 3 2).invalid = false ∧ w.sch.args.value ≠ 0 ∧
      (((w.holdDesc 3).readEntry 3 2).chain 3 2).invalid = false ∧ (((z.holdDesc 3).readEntry 3 2).chain 3 2).invalid = true) := by
  decide +kernel

theorem witness_ProtectionSteps :
    let walks : List Walk := [{ ctx := 1, note := .heart }, { ctx := 2, note := .top }]
    let s := running { ctx := 4, flag := true }
    let e : TlbEntry := { ctx := 4 }
    nextWalk walks = some { ctx := 2, note := .top } ∧ (∃ v ∈ walks, v.note = .top) ∧ (∃ v ∈ [({ note := .heart } : Walk)], v.note = .heart) ∧
    (let r : AtsReq := { walk := { ctx := 4 } }
     let p : AtsReq := { r with pri := true }
     s.hub.walks = [] ∧ [r].find? (fun q => q.walk.ctx = 4 && q.pri = false) = some r ∧
     [p].find? (fun q => q.walk.ctx = 4 && q.pri = true) = some p ∧ ([r].filter fun q => q.pri).length < s.hub.priLimit ∧
     ({ s.hub with priLimit := 1 } : Hub).priLimit ≤ ([p, r].filter fun q => q.pri).length) ∧ s.sch.args.flag = true ∧
    (running {}).sch.args.flag = false ∧ s.acks = [] ∧ s.accesses = [] ∧ ({ busy := true } : InvReg).busy = true ∧
    ({ s with acks := [{}] } : State).acks ≠ [] ∧ (∃ r ∈ (two 8 0 0).regions, r.ctx = 0) ∧ s.keyHeld 0 = false ∧ s.hub.attest.busy = false ∧
    ({ busy := true } : AttestReg).busy = true ∧ (0xFFFFFFFFFF : BitVec 48).toNat < 0x10000000000 ∧
    (0, ({ off := true } : PortCore)) ∈ (({ s with ports := [(0, { off := true, tlb := [e] })] } : State).dropEntries (fun q => q.ctx = 4)).ports := by
  decide +kernel

/-! ## Memory of a running part -/

/-- The n low bytes of a number at addresses from a + 1 on. The matches have each address and each rest evaluated at once. -/
def cellsAt : Nat → Nat → Nat → List Host.Cell
  | 0, _, _ => []
  | n + 1, a, v =>
    match a + 1 with
    | 0 => []
    | b + 1 =>
      match v / 256 with
      | 0 => (b + 1, BitVec.ofNat 8 (v % 256)) :: cellsAt n (b + 1) 0
      | w + 1 => (b + 1, BitVec.ofNat 8 (v % 256)) :: cellsAt n (b + 1) (w + 1)

/-- An image of one cell and no section (R290): WIDTH, HEIGHT, WPC and BANKS 1, a park area of 64 bytes at 0x30000; the CRC-32C of its header
worked out apart. -/
def emptyImage : Nat :=
  0x149434C53 + 256 * 2 ^ 64 + 0x01010101 * 2 ^ 144 + 0x30000 * 2 ^ 512 + 64 * 2 ^ 576 + 0x58FD8181 * 2 ^ 2016

/-- The image's bytes from address 0 on. -/
def imageCells : List Host.Cell := (0, BitVec.ofNat 8 emptyImage) :: cellsAt 255 0 (emptyImage / 256)

/-- Tables that map the first GiB of context 0's virtual addresses by a leaf, A set (R78). -/
def tablesOf (leaf : Nat) : List Host.Cell := cellsAt 8 0xFFF 0x2045 ++ cellsAt 8 0x1FFF 0x3045 ++ cellsAt 16 0x2FFF leaf

/-- Tables that map it to DPA 0, in the clear. -/
def tables : List Host.Cell := tablesOf 0x67

/-- The tables, 64 bytes at 0x10000, the empty image at 0, and at DPA 0x80000 context 0's descriptor (R77, R153: FQN 4, FASZ 16). -/
def memory (rcd : Nat) : List Host.Cell :=
  imageCells ++ tables ++ cellsAt 64 0xFFFF rcd ++ cellsAt 64 0x7FFFF (0x1001 + 4 * 2 ^ 379 + 16 * 2 ^ 506)

/-- A part with that memory, context 0's descriptor and key held, and chain 1 of a kind with records. -/
def part (kind rcd : Nat) (recs : List CmdRec) (a : Args) : State :=
  let s := running { a with chain := 1 }
  let c : Chain := { entry := some { kind := kind }, tail := 1, nextVa := 0x10000, recs := recs, walked := BitVec.ofNat 64 recs.length }
  { s with mem := memory rcd
           hub := { s.hub with ctxBase := 8, keys := [(0, 1)], ctxs := [(0, { desc := some { root := 0x1000 }, chains := [(1, c)] })] } }

/-- A record of a type with the bits of its body from byte 16 on. -/
def rcd (type body : Nat) : Nat := type * 2 ^ 56 + body * 2 ^ 128

/-- A record fetched, not started. -/
def fetched (type body : Nat) : CmdRec := { ordinal := 1, va := 0x10000, bits := rcd type body }

/-- The part with the first GiB in host memory. -/
def hostPart (kind : Nat) (recs : List CmdRec) : State := { part kind 0 recs {} with mem := tablesOf 0x6F }

/-- Whether a record of a type is next to start on a chain of a kind. -/
def next (kind type body : Nat) : Bool := decide ((part kind 0 [fetched type body] {}).readyRec 0 1 type = some (fetched type body))

/-- A LAUNCH of the image at 0 on a 1 x 1 region of die 0, without tokens. -/
def launchBody : Nat := 2 ^ 144 + 2 ^ 152 + 2 ^ 160

theorem test_memory_form : memoryWf (memory 0) = true := by decide +kernel

/-- A record fetched that is accepted (NOP), and one that is refused (COPY on a launch chain); none where TAIL is not past WALKED. -/
theorem witness_RecordsFetchedAndRun_fetch :
    let s := part 0 (rcd 0 0) [] {}
    (let h := hostPart 2 []
     h.walks 0 1 = true ∧ (h.chain 0 1).walked.toNat < (h.chain 0 1).tail.toNat ∧ 2 ≤ (h.chain 0 1).kind ∧
     h.touchesHost 0 0x10000 64 false = true) ∧ (s.chain 0 1).kind < 2 ∧
    s.walks 0 1 = true ∧ (s.chain 0 1).walked.toNat < (s.chain 0 1).tail.toNat ∧
    (match s.vaNum 0 0x10000 64 with | .ok q => decide (q.1 = 0) | .error _ => false) = true ∧ (fetched 0 0).refused 0 = none ∧
    (fetched 2 0).refused 0 = some (0x8002, .cmdEngine) ∧ ((part 0 0 [fetched 0 0] {}).chain 0 1).tail.toNat ≤
      ((part 0 0 [fetched 0 0] {}).chain 0 1).walked.toNat := by decide +kernel

/-- NOP, JUMP, COPY (empty, overlapping, apart), FILL (empty and not), COLL of a member of the set at 0 (the image) and of none. -/
theorem witness_RecordsFetchedAndRun_run :
    [next 0 0 0, next 0 1 0, next 1 2 0, next 1 3 0, next 1 3 (64 * 2 ^ 64), next 2 0x20 0].all id = true ∧
    (fetched 2 0).field 32 8 = 0 ∧ (let r := fetched 2 (0x20000 + 0x20020 * 2 ^ 64 + 64 * 2 ^ 128)
      0 < r.field 32 8 ∧ r.field 16 8 < r.field 24 8 + r.field 32 8 ∧ r.field 24 8 < r.field 16 8 + r.field 32 8) ∧
    (let r := fetched 2 (0x20000 + 0x20040 * 2 ^ 64 + 64 * 2 ^ 128)
     0 < r.field 32 8 ∧ r.field 16 8 + r.field 32 8 ≤ r.field 24 8) ∧
    (fetched 3 0).field 24 8 = 0 ∧ 0 < (fetched 3 (64 * 2 ^ 64)).field 24 8 ∧
    (let s := part 2 0 [] {}
     (hostPart 2 [fetched 0x20 0]).touchesHost 0 0 32 false = true ∧ s.touchesHost 0 0 32 false = false ∧ s.touchesHost 0 0x10000 32 false = false ∧
     (match s.vaNum 0 0 32 with | .ok q => bit q.1 (16 * q.2.ownGroup + q.2.ownModule) | .error _ => false) = true ∧
     (match s.vaNum 0 0x10000 32 with | .ok q => !bit q.1 (16 * q.2.ownGroup + q.2.ownModule) | .error _ => false) = true) := by
  decide +kernel

/-- LAUNCH: an empty key slot refuses the context; with the key the image loads; the records and the chain of RETRY, SKIP and RESET. -/
theorem witness_RecordsFetchedAndRun_launch :
    let s := part 0 0 [fetched 0x10 launchBody] { ordinal := 1 }
    let d := s.rereadDesc 0
    let none_ := ({ s with hub := { s.hub with keys := [] } } : State).rereadDesc 0
    next 0 0x10 launchBody = true ∧ none_.descValid 0 = false ∧ none_.descReason 0 = some 2 ∧ d.descValid 0 = true ∧
    (fetched 0x10 launchBody).field 32 2 = 0 ∧
    (match (d.loadImage 0 { ctx := 0, width := 1, height := 1 }).1 with
      | .ok q => decide (q.2.parkVa = 0x30000) && decide (q.2.length = 256)
      | .error _ => false) = true := by decide +kernel

theorem witness_RecordsFetchedAndRun_chains :
    let done : CmdRec := { fetched 0 0 with started := true, work := 1 }
    let s := part 0 0 [done] { ordinal := 1 }
    (s.chain 0 1).rcd? 1 = some done ∧ done.running = true ∧ done.work ≠ 0 ∧ (s.chain 0 1).halted = none ∧
    (let h : Chain := { s.chain 0 1 with halted := some 1, recs := [fetched 0 0] }
     h.halted = some 1 ∧ h.rcd? 1 = some (fetched 0 0) ∧ (fetched 0 0).refused h.kind = none) ∧ 0 < (s.chain 0 1).inflight ∧ ((part 0 0 [] {}).chain 0 1).inflight = 0 ∧
    (∀ r, r ∈ ((part 0 0 [] {}).chain 0 1).recs → (part 0 0 [] {}).pushWaits 0 1 r.ordinal = false) ∧
    ((running {}).ctx 0).desc = none ∧ ((running {}).chain 0 1).inflight = 0 ∧ ((part 0 0 [] {}).ctx 0).desc.isSome = true ∧
    (let q := (two 8 5 6).updRegion 1 fun r => { r with inject := [(7, 0x4200, 0)] }
     ((q.region 1).st = .running ∧ (q.region 1).stop = .none ∧ (q.region 1).inject = [(7, 0x4200, 0)]) ∧
     portOf (bits 0x4200 15 14) = some .l ∧ (q.takeEntry (cellKey 0 0 0) 1).isSome = true ∧
     ((q.updCell 0 fun c => { c with qextraUsed := [(1, 8)], sharedUsed := [(1, 512)] }).takeEntry (cellKey 0 0 0) 1).isNone = true) := by
  decide +kernel

/-- The contributions of two cells to an operation of a tree, and a collective of two modules. -/
theorem witness_TreesAndCollectives :
    let c : Contribution := { x := 0, val := ⟨4, 1⟩ }
    let o : TreeOpn := { id := 5, members := [(0, 0), (1, 0)], contribs := [c] }
    let full : TreeOpn := { o with contribs := [c, { c with x := 1 }], active := true }
    let k : Coll := { members := [0, 1], rank := 0, elems := 4, incoming := [(0, [1, 2])] }
    let whole : Coll := { k with partials := [(0, [1, 2])] }
    16 ≤ ((List.replicate 16 full).filter fun o => o.active).length ∧ (∀ p, p ∈ [full] → p.active = true ∨ p.bad = true) ∧
    ([o].filter fun o => o.active).length < 16 ∧ (∃ p, p ∈ [o] ∧ p.active = false ∧ p.bad = false) ∧
    [o].find? (fun o => o.id = 5) = some o ∧ (∃ m, m ∈ o.members ∧ ∀ c, c ∈ o.contribs → (c.x, c.y) ≠ m) ∧
    (∀ m, m ∈ full.members → ∃ c, c ∈ full.contribs ∧ (c.x, c.y) = m) ∧ full.bad = false ∧ ({ full with bad := true } : TreeOpn).bad = true ∧
    full.active = true ∧ (({ running {} with colls := [k] } : State).coll? 0 0 0 = some k ∧ k.members.length ≤ 2 ∧ 0 ∉ k.have ∧
      1 ∉ k.have ∧ 0 ∈ whole.have ∧ ({ k with status := some 1 } : Coll).status ≠ none ∧ 1 < k.members.length ∧ k.status = none ∧
      k.combines 0 = true ∧ k.combines 1 = false ∧ k.waits 0 = some [1, 2] ∧ k.allowed 0 = some 2 ∧ k.allowed 1 = none ∧
      whole.allowed 1 = some 2) ∧
    (running { flag := true }).sch.args.flag = true ∧ (running {}).sch.args.flag = false := by decide +kernel

/-! ## Port cores, regions, tokens, traps, stops -/

/-- `desk` with an access of id 9 in a phase, and the operands of a step. -/
def access (p : Phase) (op : AccessOp) (wseq : Option Nat) (a : Args) : State :=
  let s := two 8 5 6
  let x : Access := { id := 9, firing := s.sch.cur, op := op, phase := p, wseq := wseq }
  { s with accesses := [x], hub := { s.hub with dieOk := 0xFF, homes := 0xFF }, sch := { s.sch with args := { a with id := 9, region := 1 } } }

/-- NEXTW of the access's stream is 0: position 0 performs, 1 to 31 are held, 32 is refused, 2^31 on are duplicates (R221). -/
theorem witness_PortCoresAndHomeSlices_waves :
    let at_ := fun w : Nat => access .travel .ld (some w) {}
    let one := fun w : Nat => (at_ w).accesses.getD 0 {}
    (∀ w ∈ [0, 31, 32, 2147483648], (at_ w).accessIn (· = .travel) = some (one w) ∧ ((at_ w).wave (one w)).nextw = 0) ∧
    ((access .travel .ld none {}).accessIn (· = .travel)).isSome = true ∧
    (∃ p, p ∈ (one 2147483648).positions ∧ (at_ 2147483648).taken (one 2147483648) p = true) ∧
    (∀ p, p ∈ (one 0).positions → (at_ 0).taken (one 0) p = false) ∧ (∀ p, p ∈ (one 32).positions → (at_ 32).taken (one 32) p = false) ∧
    ((31 + 2 ^ 32 - 0) % 2 ^ 32 < 32 ∧ (at_ 31).windowFree (one 31) = true ∧ 32 ≤ (32 + 2 ^ 32 - 0) % 2 ^ 32) ∧
    ((access .held .ld (some 0) {}).accessIn (· = .held)).isSome = true ∧ ((access .held .ld (some 1) {}).accessIn (· = .held)).isSome = true ∧
    ((access (.retry true) .ld (some 1) {}).accessIn (· = .retry true)).isSome = true ∧ (at_ 32).retries (one 32).firing.cell < 32 ∧
    (let a := { one 31 with phase := .held, id := 8 }
     let full := fun s : State => { s with accesses := s.accesses ++ (List.range 4).map fun n =>
       { a with firing := { a.firing with acc := { a.firing.acc with tag := mkTag 0 (n + 1) 0 0 } } } }
     (full (at_ 31)).windowFree (one 31) = false) ∧
    (let s := at_ 32
     32 ≤ ({ s with accesses := s.accesses ++ List.replicate 32 { one 32 with phase := .retry false } } : State).retries (one 32).firing.cell) := by
  decide +kernel

theorem witness_PortCoresAndHomeSlices_homes :
    let s := access .home .ld none {}
    let a := s.accesses.getD 0 {}
    s.accessIn (· = .home) = some a ∧ s.sch.args.flag = false ∧ (access .home .ld none { flag := true }).sch.args.flag = true ∧
    s.dieUp (s.homeDie a.entry (a.entry.target a.va)) = true ∧
    (let u : State := { s with hub := { s.hub with dieOk := 0 } }; u.dieUp (u.homeDie a.entry (a.entry.target a.va)) = false) ∧
    (let u := access .home (.sadd 1) none {}
     let k : Ack := { line := 1, die := 2, access := 9 }
     u.acks = [] ∧ (∃ q, q ∈ ({ u with acks := [k] } : State).acks ∧ q.access = 9) ∧
     (let c : CLine := { line := a.entry.lineOf (a.entry.target a.va), holder := 80, owner := u.tagOf a.entry, data := List.replicate 64 0 }
      let t := ({ u with caches := [c] } : State).takeHome a.entry (a.core / 80) (a.entry.target a.va) 9
      ∃ q, q ∈ t.acks ∧ q.access = 9) ∧
     (∀ q, q ∈ (u.takeHome a.entry (a.core / 80) (a.entry.target a.va) 9).acks → q.access ≠ 9)) ∧ AccessOp.ld.writes = false ∧ (AccessOp.st 1).writes = true ∧
    (AccessOp.st 1).isSystem = false ∧ (∀ k, k ∈ s.acks → k.access ≠ 9) ∧
    [({ line := 1, die := 2, access := 9 } : Ack)].find? (fun k => k.access = 9 && k.die = 2) = some { line := 1, die := 2, access := 9 } ∧
    ((access .host (.sadd 1) none {}).accessIn (· = .host)).isSome = true ∧ (AccessOp.sadd 1).isSystem = true ∧
    ((access .host .ld none {}).accessIn (· = .host)).isSome = true ∧ ((access .host (.st 1) none { flag := true }).accessIn (· = .host)).isSome = true ∧ AccessOp.ld.isSystem = false ∧
    [({ id := 9 } : Response)].find? (fun p => p.id = 9) = some { id := 9 } := by decide +kernel

/-- Binding p0 of the region, its AGN with a start waiting, with a round, with a PARAM waiting; transfers and a space token. -/
theorem witness_PortCoresAndHomeSlices_rounds :
    let s := access .travel .ld none { port := 0 }
    let r := s.region 1
    let b := (r.binding? 0).getD {}
    let with_ := fun (b : Binding) (g : Agn) => s.updAgn r b fun _ => { g with region := 1, port := b.p }
    let q : Round := { total := 4, tiles := 4 }
    s.bindingArg = some (r, b) ∧ (with_ b { starts := [{}] }).roundReady r b = true ∧ s.roundReady r b = false ∧
    (with_ b { round := some q }).aheadReady r { b with stg := 1, shape := { b.shape with cls := .streaming } } = true ∧
    s.aheadReady r b = false ∧ ((with_ b { params := [{}] }).agn r b).params = [{}] ∧ ((with_ b { params := [{}] }).agn r b).pending = none ∧
    ((with_ b { pending := some 1 }).agn r b).pending ≠ none ∧
    (with_ { b with mode := .tile } { round := some q }).tileReadyToStart r { b with mode := .tile } = true ∧
    ([] : List Xfer).find? (fun x => x.id = 9 && !x.begun) = none ∧ [({ id := 9 } : Xfer)].find? (fun x => x.id = 9 && !x.begun) = some { id := 9 } ∧
    [({ id := 9, begun := true } : Xfer)].find? (fun x => x.id = 9 && x.begun && !x.faulted && x.kind = .fill) = some { id := 9, begun := true } ∧
    [({ id := 9, begun := true, kind := .drain } : Xfer)].find? (fun x => x.id = 9 && x.begun && !x.faulted && x.kind = .drain) =
      some { id := 9, begun := true, kind := .drain } ∧
    ([({ id := 9, region := 1 } : Space)].find? (fun t => t.id = 9) = some { id := 9, region := 1 } ∧ (s.region 1).binding? 0 = some b) := by
  decide +kernel

/-- A part with an idle region of one cell on die 0 in the given state, SCH_REG_IMG and SCH_PRE_IMG as told, and the step's operands. -/
def hosted (st : RegionState) (img pre : Nat) : State :=
  let s := part 0 0 [] { region := 1 }
  let r : Region := { id := 1, st := st, image := { wpc := 1, banks := 15 } }
  { s with regions := [r]
           dies := [(0, { reg := { img := BitVec.ofNat 57 img }, pre := { img := BitVec.ofNat 57 pre, lim := 4096 * 64 } })] }

theorem witness_RegionsLoadedAndPlaced :
    let s := hosted .running 0 0
    let r := (s.region 1)
    s.regionAt 0 0 0 = some r ∧ s.regionAt 0 1 0 = none ∧ (s.die 0).reg.img.toNat / 64 * 64 = 0 ∧
    (r.st = .running ∧ r.stop = .none ∧ r.ended = false ∧ s.holdsTokens r = false) ∧
    ((s.updDie 0 fun d => { d with loading := some 1 }).die 0).loading.bind s.region? = some r ∧
    (∀ e, e ∈ (s.region 1).actors → e.cfg.elastic = false) := by decide +kernel

/-- The empty image loads in the region's place; a VA that nothing maps does not. -/
theorem witness_RegionsLoadedAndPlaced_loads :
    let s := hosted .running 0 0
    let r := s.region 1
    let q := s.loadImage 0 { ctx := 0, width := 1, height := 1, claims := some (1, 15) }
    (match q.1 with | .ok q' => decide (q.2.loadRefused r q'.2 = none) | .error _ => false) = true ∧
    (match (s.loadImage 0x40000000 { ctx := 0, width := 1, height := 1, claims := some (1, 15) }).1 with
      | .ok _ => false
      | .error _ => true) = true := by decide +kernel

/-- An elastic actor of window 0 with two replicas, its bucket 0 moving from the first to the second. -/
def elastic (m : List Move) (leaving : List Nat) : State :=
  let s := two 8 5 6
  let e : Actor := { cfg := { actor := 2, wins := 1, elastic := true, ssize := 1, sbank := 0 }, replicas := [(0, 0), (0, 1)], buckets := [0],
                     moves := m, leaving := leaving }
  { s.updRegion 1 (fun r => { r with h := 2, actors := [e] }) with sch := { s.sch with args := { region := 1, actor := 2 } } }

theorem witness_RegionsLoadedAndPlaced_moves :
    let m : Move := { bucket := 0, src := 0, dst := 1, step := 3 }
    let s := elastic [m] []
    let t := elastic [{ m with step := 4 }] []
    let f := elastic [] [1]
    let e := fun s : State => ((s.region 1).actors.getD 0 {})
    s.actorArg = some (s.region 1, e s) ∧ (e s).leaving = [] ∧ (e s).copyable.find? (s.moveReady (s.region 1) (e s)) = some m ∧
    ((e s).replicas[0]? = some (0, 0) ∧ (e s).replicas[1]? = some (0, 1)) ∧
    (e t).moves.find? (fun m => m.step = 4) = some { m with step := 4 } ∧
    f.actorArg = some (f.region 1, e f) ∧ f.freeable (f.region 1) (e f) = some (1, 0, 1) ∧
    (let h := elastic [{ m with src := 1, dst := 0 }] [1]
     h.actorArg = some (h.region 1, e h) ∧ ∀ n, n ∈ (e h).leaving → ∃ m, m ∈ (e h).moves ∧ m.src = n) ∧
    0 < ([(0, ({ depth := 2 } : InArc))].map fun i => i.2.depth).sum := by decide +kernel

/-- A token of id 9 for slot 2 of the region's cell, and one before it on its way. -/
def travelling (f : FrameRec → FrameRec) (trapped : List Nat) (ts : List Tok) : State :=
  let s := two 8 5 6
  let s := s.updRegion 1 fun r => { r.updFrame 0 f with trapSet := trapped }
  { s with toks := ts, sch := { s.sch with args := { id := 9, region := 1 } } }

/-- The token. -/
def nine : Tok := { id := 9, region := 1, dest := .slot 0 2 .l, val := ⟨8, 7⟩ }

theorem witness_TokensNoticesAndLaps :
    let s := travelling id [] [nine]
    let q := { s.updCell 0 (fun c => { c with queue := [nine] }) with toks := [] }
    let full := q.updCell 0 fun c => { c with heldEntries := [(1, 2048)] }
    (s.toks.find? (fun t => t.id = 9) = some nine ∧ s.toks.find? (fun u => s.sameWay nine u) = some nine ∧ s.arrives nine = true) ∧
    (travelling id [] [{ nine with id := 8 }, nine]).toks.find? (fun u => s.sameWay nine u) = some { nine with id := 8 } ∧
    ((s.region 1).frame? 0).map (fun f => (f.killed, f.returned, f.inWindow 0 0 (tagGen nine.tag))) = some (false, false, true) ∧
    (s.region 1).frame? 5 = none ∧ tagFrm nine.tag ∉ (s.region 1).trapSet ∧ tagFrm nine.tag ∈ ((travelling id [0] [nine]).region 1).trapSet ∧
    (((travelling (fun f => { f with killed := true }) [] [nine]).region 1).frame? 0).map FrameRec.killed = some true ∧
    ((s.region 1).stop = .none ∧ (s.region 1).st ≠ .frozen ∧ s.sch.args.flag = false) ∧
    ((q.cell 0).queue.find? (fun t => t.region = 1) = some nine ∧ (q.region 1).steerAt 0 0 0 nine.tag nine.val = .here ∧
      ((q.cell 0).findWin 1 0).isSome = true ∧ (q.region 1).admission 0 0 nine.tag = .accept ∧
      (let p := q.portOfDest 0 0 nine.dest
       q.roomFor 0 0 1 p.1 p.2 nine.tag nine.val false = true ∧ full.roomFor 0 0 1 p.1 p.2 nine.tag nine.val false = false)) ∧
    (∀ t, t ∈ (s.cell 0).queue → t.region ≠ 1) ∧
    (let e := elastic [] []
     ((e.updRegion 1 fun r => { r with actors := r.actors.map fun a => { a with buckets := [1] } }).region 1).steerAt 0 0 0 0 nine.val = .away 0 1) ∧
    ((elastic [{}] []).region 1).steerAt 0 0 0 0 nine.val = .hold 2 ∧
    ([({ id := 9, region := 1 } : Notice)].find? (fun n => n.id = 9) = some { id := 9, region := 1 } ∧ ((s.cell 0).findWin 1 0).isSome = true) := by
  decide +kernel

/-- A frame whose wrap waits for its cell, with a lap marker on its way on one arc; a token ahead of the marker. -/
theorem witness_TokensNoticesAndLaps_laps :
    let s := travelling id [] [nine]
    let w : Wrap := { cells := [(0, 0)], acks := [] }
    let l := s.updRegion 1 fun r => r.updFrame 0 fun f => { f with wrap := some w, markers := [(1, 3, [5])] }
    (((l.region 1).frame? 0).bind FrameRec.wrap = some w ∧ (0, 0) ∈ w.cells ∧ (0, 1) ∉ w.cells) ∧
    (((l.region 1).frame? 0).map fun f => f.markers.find? (fun m => m.2.2.contains 5)) = some (some (1, 3, [5])) ∧
    ({ l with toks := [{ nine with id := 2, dest := .arc 0 5 }] } : State).aheadOf 1 5 3 = true ∧
    (l.aheadOf 1 5 3 = false ∧ [5].filter (· ≠ 5) = [] ∧ [5, 6].filter (· ≠ 5) ≠ []) := by decide +kernel

/-- A token from a port core with and without room in its cell; a notice of an activation stream; 64 dequeues at once, 63 after 256 cycles
and after 255. -/
theorem witness_TokensNoticesAndLaps_entries :
    let port : Tok := { nine with sx := 80, dest := .slot 0 2 .r }
    let s := travelling id [] [port]
    let full := s.updCell 0 fun c => { c with qextraUsed := [(1, 8)], sharedUsed := [(1, 512)] }
    let n := fun (d f : Nat) => ((s.updCell 0 fun c => { c with dequeued := [(1, d)], unreported := [(1, 0)] }).updDie 0
      fun e => { e with fabCycles := BitVec.ofNat 64 f })
    (s.arrives port = true ∧ (s.entryFor (cellKey 0 0 0) port).isSome = true) ∧
    (full.toks.find? (fun t => t.id = 9) = some port ∧ full.toks.find? (fun u => full.sameWay port u) = some port ∧ full.arrives port = false) ∧
    ([({ id := 9, x := 80, arc := 3 } : Notice)].find? (fun n => n.id = 9) = some { id := 9, x := 80, arc := 3 } ∧
      80 ≤ ({ id := 9, x := 80, arc := 3 } : Notice).x) ∧
    64 ≤ look 0 ((n 64 0).cell 0).dequeued 1 ∧ look 0 ((n 63 256).cell 0).unreported 1 + 256 ≤ ((n 63 256).die 0).fabCycles.toNat ∧
    ((n 63 255).die 0).fabCycles.toNat < look 0 ((n 63 255).cell 0).unreported 1 + 256 := by decide +kernel

/-- A gate whose frame is behind its phase 8 (its progress below 8 / 16), one on time, at QL 1 and at QL 0. -/
theorem witness_TokensNoticesAndLaps_gates :
    let g : Gate := { firing := (two 8 5 6).sch.cur }
    let at_ := fun (disp : Bool) (count ql : Nat) (r : Region) =>
      { r with disp := disp, ql := ql, count := count, image := { r.image with ptotal := 100 } }
    let s := fun (disp : Bool) (count ql : Nat) =>
      ((two 8 5 6).updRegion 1 (at_ disp count ql)).updDie 0 fun d => { d with gates := [g], phases := [(0, 8)] }
    let late := fun s : State => let r := s.region 1; r.margin * r.image.ptotal + 256 * r.count < 16 * look 0 (s.die 0).phases r.frame.toNat * r.image.ptotal
    ((s true 0 1).die 0).gates = [g] ∧ ((s true 0 1).region 1).disp = true ∧ late (s true 0 1) ∧ ¬ late (s true 60 1) ∧ 0 < ((s true 0 1).region 1).ql ∧
    ((s true 0 0).region 1).ql = 0 ∧ ((s true 0 1).region 1).lowered ≠ some 8 ∧ ((s false 0 1).region 1).disp = false := by decide +kernel

/-- The frame 0 of the region trapped, named by SCH_TRAP_CTL, killed, resuming; its report. -/
theorem witness_TrapsStopsAndRestores_traps :
    let s := travelling id [0] []
    let t : TrapReport := { region := 1, frm := 0 }
    let r := s.region 1
    let idle := travelling id [] []
    let res := s.updRegion 1 fun r => { r with resuming := [0] }
    let kill := travelling (fun f => { f with killed := true }) [0] []
    ((s.updDie 0 fun d => { d with reports := [t] }).die 0).reports = [t] ∧
    (r.frame? 0).map (fun f => (f.killed, f.returned)) = some (false, false) ∧ r.st ≠ .frozen ∧ r.frame? 5 = none ∧
    s.trapNamed 0 = some (r, 0) ∧ idle.trapNamed 0 = none ∧ (∀ f, (kill.region 1).frame? 0 = some f → f.killed = true) ∧
    (0 ∉ r.resuming ∧ 0 ∈ (res.region 1).resuming ∧ r.st = .running ∧ r.stop = .none ∧ s.reported r 0 = false ∧ s.starves r 0 = false ∧
      (∀ p, p ∈ r.park → p.frm ≠ 0)) ∧ kill.frameBusy 1 0 = false ∧ kill.reported (kill.region 1) 0 = false := by
  decide +kernel

theorem witness_TrapsStopsAndRestores_stops :
    let s := hosted .running 0 0
    let u := travelling id [] [nine]
    let r := s.region 1
    let stopped := fun q : Stop => s.updRegion 1 fun r => { r with stop := q }
    s.isSilent r = true ∧ s.holdsTokens r = false ∧ u.holdsLoose (u.region 1) = true ∧ u.maySpill (u.region 1) = false ∧
    u.isSilent (u.region 1) = true ∧ (stopped .freeze).isSilent ((stopped .freeze).region 1) = false ∧
    (r.ended = false ∧ ({ r with ended := true } : Region).ended = true ∧ r.complete = false ∧ s.outstanding 1 = false ∧
      s.sendsOpen 1 = false ∧ (∀ x, x ∈ s.accesses → x.firing.region = 1 → s.canPerform x = false)) ∧
    ((stopped (.drydown [(0, 0)])).region 1).stop = .drydown [(0, 0)] ∧ (0, 0) ∈ [(0, 0)] ∧ (0, 0) ∉ ([] : List (Nat × Nat)) ∧
    r.contains 0 0 = true ∧ (∀ e, e ∈ r.actors → e.moves = [] ∧ e.leaving = []) ∧ (∀ c, c ∈ r.cells → c ∈ [(0, 0)]) ∧
    (∃ c, c ∈ r.cells ∧ c ∉ ([] : List (Nat × Nat))) ∧ s.canSettle r = true ∧ u.canSettle (u.region 1) = false ∧
    (({ r with lastUe := some 5 } : Region).lastUe = some 5 ∧ (s.die 0).netCycles.toNat < 5 + 2 ^ 20) ∧
    (s.preRegion 0 = some r ∧ (running {}).preRegion 0 = none) ∧ ((hosted .frozen 0 0).region 1).st = .frozen ∧
    ((s.updCell 0 fun c => { c with fences := [{ id := 9 }, { id := 8, firing := { region := 1 } }] }).cell 0).fences.find? (fun q => q.id = 9) =
      some { id := 9 } ∧ ({ id := 9 } : Fence).hostRead = false ∧ s.acks = [] := by decide +kernel

/-- A silent region whose park area alone holds a token; a fence behind another of its frame, one that an access holds up, one that other dies'
copies hold up, one that is to read host memory and one that is not. -/
theorem witness_TrapsStopsAndRestores_fences :
    let s := hosted .running 0 0
    let p := s.updRegion 1 fun r => { r with park := [.token nine] }
    let k := (s.cell 0).fences
    let q : Fence := { id := 9, firing := { region := 1 }, scope := .system, kind := .full }
    let put_ := fun (l : List Fence) (ks : List Ack) => { s.updCell 0 (fun c => { c with fences := l }) with acks := ks }
    let first := fun (s : State) => (s.cell 0).fences.find? (fun p => p.firing.region = q.firing.region && p.firing.frm = q.firing.frm)
    let host := (put_ [q] []).updRegion 1 fun r => { r with posted := true }
    (p.isSilent (p.region 1) = true ∧ p.holdsLoose (p.region 1) = false ∧ (p.region 1).holdsParked = true) ∧ k = [] ∧
    (first (put_ [{ q with id := 8 }, q] [])).map Fence.id = some 8 ∧ (first (put_ [q] [])).map Fence.id = some 9 ∧
    ({ access .travel .ld none {} with acks := [] } : State).fenceOwes { q with before := [9] } = true ∧ (put_ [q] []).fenceOwes q = false ∧
    ({ q with hostRead := true } : Fence).hostRead = true ∧ q.hostRead = false ∧ q.settled = false ∧ (put_ [q] [{}]).acks ≠ [] ∧
    (host.acks = [] ∧ q.kind ≠ .acq ∧ q.scope = .system ∧ q.readDone = false ∧ (host.region q.firing.region).posted = true) ∧
    ((put_ [q] []).acks = [] ∧ ((put_ [q] []).region 1).posted = false) := by decide +kernel

/-- A flacon image of the empty image's region: its header names context 0, the cell and LAUNCH record 1, and CONFIG alone (R176); the CRCs
worked out apart. -/
def flaconImage : Nat :=
  0x14C464C53 + 2 * 2 ^ 48 + 0x0101 * 2 ^ 80 + 2 ^ 192 + 0x100 * 2 ^ 512 + 0x100 * 2 ^ 576 + 0x48674BC7 * 2 ^ 1984 + 0x2A2AC372 * 2 ^ 2016 +
  emptyImage * 2 ^ 2048

/-- A part whose LAUNCH record 1 on chain 0 of context 0 has started and has no region, the image at 0. -/
def drained : State :=
  let s := part 0 0 [] {}
  let c : Chain := { entry := some {}, tail := 1, recs := [{ fetched 0x10 launchBody with started := true }], walked := 1 }
  let restore : RestoreReg := { img := 0, dieMask := 1 }
  { s with mem := (0, BitVec.ofNat 8 flaconImage) :: cellsAt 511 0 (flaconImage / 256) ++ tables, hub := { s.hub with ctxs := [(0, { desc := some { root := 0x1000 }, chains := [(0, c)] })], restore := restore } }

theorem witness_TrapsStopsAndRestores_restores :
    (match (drained.readFlacon 0 0).1 with | .ok q => decide (q.1.length = 512) | .error _ => false) = true := by decide +kernel

theorem witness_TrapsStopsAndRestores_refused :
    (match (drained.readFlacon 0x100 0).1 with | .ok _ => false | .error e => decide (e = 1)) = true := by decide +kernel

theorem witness_TrapsStopsAndRestores_placed :
    let w : Waiting := { dieMask := 1, image := { wpc := 1 }, flacon := some (toBytes 512 flaconImage) }
    let s : State := { drained with hub := { drained.hub with waiting := [w] } }
    (s.restorePlace (sortBy waitsBefore s.hub.waiting) []).isSome = true := by decide +kernel
end Sys2Proof.Tests
end

section
/-!
PROOF of O53. What the host's accesses of BAR0 and BAR2 do (R3, R16, R73, R74, R81), the TAIL offer (R91, R93, R94) and the hub's steps
on queue operations (R103 to R105, R107, R108): one lemma per case of each step, then the statement.
-/

namespace Sys2Proof.Machine

/-! ## Host reads of BAR0 and BAR2 (R3, R73, R74, R94) -/

/-- A naturally aligned access of 4 or 8 bytes (R74). -/
theorem alignedAccess_iff (offset size : Nat) :
    alignedAccess offset size = true ↔ (size = 4 ∨ size = 8) ∧ offset % size = 0 := by
  simp [alignedAccess]

/-- Slot 8n of block 64c of BAR2 is TAIL of chain n of context c (R94). -/
theorem State.tailAt_chain (s : State) {c n : Nat} (hc : c < 1024) (hn : n < 8) :
    s.tailAt (64 * c + 8 * n) = (s.chain c n).tail.toNat := by
  have hlt : 64 * c + 8 * n < 65536 := by omega
  have hctx : (64 * c + 8 * n) / 64 = c := by omega
  have hchain : (64 * c + 8 * n) % 64 / 8 = n := by omega
  rw [State.tailAt, if_pos hlt, hctx, hchain]

/-- An 8-byte read of BAR2 at a slot returns what stands there. -/
theorem State.readTail_whole (s : State) {offset : Nat} (h : offset % 8 = 0) : s.readTail offset 8 = s.tailAt offset := by
  simp [State.readTail, alignedAccess, h]

/-- A 4-byte read of BAR2 at a slot returns the low half of what stands there. -/
theorem State.readTail_low (s : State) {offset : Nat} (h : offset % 8 = 0) : s.readTail offset 4 = s.tailAt offset % 2 ^ 32 := by
  have h4 : offset % 4 = 0 := by omega
  simp [State.readTail, alignedAccess, h, h4]

/-- All ones of the access's bytes, for an access that is not aligned (R74). -/
theorem State.readValue_unaligned (s : State) {offset size : Nat} (h : alignedAccess offset size = false) :
    s.readValue offset size = 2 ^ (8 * min 8 size) - 1 := by
  simp [State.readValue, h]

/-- 0 where no register is (R74). -/
theorem State.readValue_reserved (s : State) {offset size : Nat} (h : alignedAccess offset size = true)
    (hr : regAt (offset / 8 * 8) = none) : s.readValue offset size = 0 := by
  simp [State.readValue, h, hr]

/-- An 8-byte read of a 64-bit register returns its value. -/
theorem State.readValue_whole (s : State) {offset : Nat} {r : Reg} (h : alignedAccess offset 8 = true)
    (hr : regAt (offset / 8 * 8) = some r) (hw : r.wide = true) : s.readValue offset 8 = s.regVal r % 2 ^ 64 := by
  simp [State.readValue, h, hr, hw]

/-- A 4-byte read at a slot returns the low half of its register, of 64 or of 32 bits. -/
theorem State.readValue_low (s : State) {offset : Nat} {r : Reg} (h : alignedAccess offset 4 = true)
    (hr : regAt (offset / 8 * 8) = some r) (h8 : offset % 8 = 0) : s.readValue offset 4 = s.regVal r % 2 ^ 32 := by
  cases hw : r.wide <;> simp [State.readValue, h, hr, h8, hw]

/-- A 4-byte read 4 bytes behind a slot returns the high half of its 64-bit register. -/
theorem State.readValue_high (s : State) {offset : Nat} {r : Reg} (h : alignedAccess offset 4 = true)
    (hr : regAt (offset / 8 * 8) = some r) (h4 : offset % 8 = 4) (hw : r.wide = true) :
    s.readValue offset 4 = s.regVal r % 2 ^ 64 / 2 ^ 32 := by
  simp [State.readValue, h, hr, h4, hw]

/-- The state in which a host read has returned a value. -/
def State.hostGot (s : State) (v : Nat) : State := { s with hub := { s.hub with hostRead := BitVec.ofNat 64 v } }

/-- READ_CLEAR of BAR2 returns what stands there and clears nothing (R73, R94). -/
theorem readClear_tail (s : State) (hf : s.sch.args.flag = true) :
    exec .readClear s = .next (s.hostGot (s.readTail s.sch.args.offset s.sch.args.size)) := by
  simp [exec, execReadClear, State.hostGot, hf]

/-- READ_CLEAR of an unaligned place of BAR0 clears nothing (R74). -/
theorem readClear_unaligned (s : State) (hf : s.sch.args.flag = false)
    (ha : alignedAccess s.sch.args.offset s.sch.args.size = false) :
    exec .readClear s = .next (s.hostGot (s.readValue s.sch.args.offset s.sch.args.size)) := by
  simp [exec, execReadClear, State.hostGot, hf, ha]

/-- READ_CLEAR of a place of BAR0 without a register clears nothing (R74). -/
theorem readClear_reserved (s : State) (hf : s.sch.args.flag = false) (hr : regAt (s.sch.args.offset / 8 * 8) = none) :
    exec .readClear s = .next (s.hostGot (s.readValue s.sch.args.offset s.sch.args.size)) := by
  simp [exec, execReadClear, State.hostGot, hf, hr]

/-- READ_CLEAR at a register's own offset clears its RC fields (R3). -/
theorem readClear_register (s : State) {r : Reg} (hf : s.sch.args.flag = false)
    (ha : alignedAccess s.sch.args.offset s.sch.args.size = true) (hr : regAt (s.sch.args.offset / 8 * 8) = some r)
    (h8 : s.sch.args.offset % 8 = 0) :
    exec .readClear s = .next ((s.hostGot (s.readValue s.sch.args.offset s.sch.args.size)).clearReg r) := by
  simp [exec, execReadClear, State.hostGot, hf, ha, hr, h8]

/-- READ_CLEAR of a register's high half clears nothing (R3). -/
theorem readClear_highHalf (s : State) {r : Reg} (hf : s.sch.args.flag = false) (hr : regAt (s.sch.args.offset / 8 * 8) = some r)
    (h4 : s.sch.args.offset % 8 = 4) :
    exec .readClear s = .next (s.hostGot (s.readValue s.sch.args.offset s.sch.args.size)) := by
  simp [exec, execReadClear, State.hostGot, hf, hr, h4]

/-! ## Host writes of BAR0 (R3, R16, R73, R74, R81) -/

/-- REGISTER_WRITE that configures the function sets the size of BAR4 at offset 0 (R73). -/
theorem registerWrite_bar4 (s : State) (hf : s.sch.args.flag = true) (h0 : s.sch.args.offset = 0) :
    exec .registerWrite s = .next { s with hub := { s.hub with bar4 := min 41 (max 28 s.sch.args.value.toNat) } } := by
  simp [exec, execRegisterWrite, hf, h0]

/-- REGISTER_WRITE that configures the function sets the Outstanding Page Request allocation elsewhere (R81). -/
theorem registerWrite_priLimit (s : State) (hf : s.sch.args.flag = true) (h0 : s.sch.args.offset ≠ 0) :
    exec .registerWrite s = .next { s with hub := { s.hub with priLimit := min 4096 s.sch.args.value.toNat } } := by
  simp [exec, execRegisterWrite, hf, h0]

/-- REGISTER_WRITE to an unaligned place changes nothing (R74). -/
theorem registerWrite_unaligned (s : State) (hf : s.sch.args.flag = false)
    (ha : alignedAccess s.sch.args.offset s.sch.args.size = false) : exec .registerWrite s = .next s := by
  simp [exec, execRegisterWrite, hf, ha]

/-- REGISTER_WRITE to a place without a register changes nothing (R74). -/
theorem registerWrite_reserved (s : State) (hf : s.sch.args.flag = false) (hr : regAt (s.sch.args.offset / 8 * 8) = none) :
    exec .registerWrite s = .next s := by
  simp [exec, execRegisterWrite, hf, hr]

/-- REGISTER_WRITE to a register writes it the value that its access gives (R74). -/
theorem registerWrite_register (s : State) {r : Reg} {v : Nat} (hf : s.sch.args.flag = false)
    (ha : alignedAccess s.sch.args.offset s.sch.args.size = true) (hr : regAt (s.sch.args.offset / 8 * 8) = some r)
    (hv : s.regWritten r s.sch.args.offset s.sch.args.size s.sch.args.value.toNat = some v) :
    exec .registerWrite s = .next (s.writeReg r v) := by
  simp [exec, execRegisterWrite, hf, ha, hr, hv]

/-- An 8-byte write gives a 64-bit register the whole value. -/
theorem State.regWritten_whole (s : State) {r : Reg} (offset : Nat) (v : Dword) (hw : r.wide = true) :
    s.regWritten r offset 8 v.toNat = some v.toNat := by
  simp [State.regWritten, hw, Nat.mod_eq_of_lt v.isLt]

/-- A write of either size at a slot gives a 32-bit register the low half of the value. -/
theorem State.regWritten_narrow (s : State) {r : Reg} {offset : Nat} (size v : Nat) (h8 : offset % 8 = 0) (hw : r.wide = false) :
    s.regWritten r offset size v = some (v % 2 ^ 32) := by
  simp [State.regWritten, h8, hw]

/-- HUB_CTX_BASE holds the base in 64 KiB units (R77). -/
theorem State.writeReg_ctxBase (s : State) (v : Dword) :
    s.writeReg .ctxBase v.toNat = { s with hub := { s.hub with ctxBase := v.extractLsb' 16 32 } } := by
  rw [State.writeReg, BitVec.extractLsb', Nat.shiftRight_eq_div_pow]

/-- SCH_AGE_LIM holds the low 16 bits, AGE_LIM. -/
theorem State.writeReg_ageLim (s : State) (v : Dword) :
    s.writeReg .ageLim v.toNat = { s with hub := { s.hub with ageLim := v.setWidth 16 } } := rfl

/-! ## The TAIL offer (R91, R93, R94) -/

/-- TAIL raised to an offer, never lowered (R94). -/
def Chain.raiseTail (v : Dword) (q : Chain) : Chain := if q.tail.toNat < v.toNat then { q with tail := v } else q

/-- TAIL_WRITE outside the chains of BAR2 changes nothing (R73). -/
theorem tailWrite_outside (s : State) (h : 1024 ≤ s.sch.args.ctx ∨ 8 ≤ s.sch.args.chain) : exec .tailWrite s = .next s := by
  have hout : ¬ (s.sch.args.chain < 8 ∧ s.sch.args.ctx < 1024) := by omega
  simp [exec, execTailWrite, hout]

/-- TAIL_WRITE inside them offers the tail. -/
theorem tailWrite_offers (s : State) (hctx : s.sch.args.ctx < 1024) (hchain : s.sch.args.chain < 8) :
    exec .tailWrite s = .next (s.offerTail s.sch.args.ctx s.sch.args.chain s.sch.args.value) := by
  simp [exec, execTailWrite, hctx, hchain]

section
variable (s : State) {ctx c : Nat} {v : Dword} {d : Desc}
  (hd : ((s.holdDesc ctx).ctx ctx).desc = some d) (hgood : d.bad = false)
include hd hgood

/-- An offer to a chain of a good descriptor, in the state `u` in which the entry has been read if the offer asks for it: CMD_FORMAT if
the chain is INVALID there, else TAIL raised. -/
theorem State.offerTail_read {u : State}
    (hu : (if (((s.holdDesc ctx).chain ctx c).entry.isNone || (((s.holdDesc ctx).chain ctx c).tail = 0 &&
      !((s.holdDesc ctx).chain ctx c).invalid)) && decide (0 < v.toNat) then (s.holdDesc ctx).readEntry ctx c else s.holdDesc ctx) = u) :
    s.offerTail ctx c v =
      if (u.chain ctx c).invalid then u.chainFault ctx c .cmdFormat 0 0 else u.updChain ctx c (Chain.raiseTail v) := by
  subst hu
  simp only [State.offerTail, hd, hgood, Bool.false_and, Bool.false_eq_true, if_false]
  rfl

/-- A chain whose good entry has been read takes an offer without reading it again: TAIL rises to the offer (R94). -/
theorem State.offerTail_entryHeld (he : ((s.holdDesc ctx).chain ctx c).entry.isSome = true)
    (hread : 0 < ((s.holdDesc ctx).chain ctx c).tail.toNat ∨ v = 0) (hi : ((s.holdDesc ctx).chain ctx c).invalid = false) :
    s.offerTail ctx c v = (s.holdDesc ctx).updChain ctx c (Chain.raiseTail v) := by
  have hskip : ((s.holdDesc ctx).chain ctx c).tail = 0 → v = 0 := fun ht => hread.resolve_left (by simp [ht])
  have he' : ((s.holdDesc ctx).chain ctx c).entry ≠ none := Option.isSome_iff_ne_none.mp he
  rw [s.offerTail_read hd hgood (u := s.holdDesc ctx), if_neg (by simp [hi])]
  refine if_neg fun hfirst => ?_
  simp only [Bool.and_eq_true, Bool.or_eq_true, Option.isNone_iff_eq_none, he', false_or, decide_eq_true_eq] at hfirst
  simp [hskip hfirst.1.1] at hfirst

/-- A chain whose entry has been read and is bad raises CMD_FORMAT and keeps TAIL (R93). -/
theorem State.offerTail_invalid (he : ((s.holdDesc ctx).chain ctx c).entry.isSome = true)
    (hi : ((s.holdDesc ctx).chain ctx c).invalid = true) :
    s.offerTail ctx c v = (s.holdDesc ctx).chainFault ctx c .cmdFormat 0 0 := by
  have he' : ((s.holdDesc ctx).chain ctx c).entry ≠ none := Option.isSome_iff_ne_none.mp he
  rw [s.offerTail_read hd hgood (u := s.holdDesc ctx), if_pos hi]
  simp [he', hi]

/-- The first offer above 0 to a chain reads its entry (R91, R93): TAIL rises to the offer if the entry is good, else CMD_FORMAT. -/
theorem State.offerTail_first (ht : ((s.holdDesc ctx).chain ctx c).tail = 0)
    (hi : ((s.holdDesc ctx).chain ctx c).invalid = false) (hv : v ≠ 0) :
    s.offerTail ctx c v =
      if (((s.holdDesc ctx).readEntry ctx c).chain ctx c).invalid then
        ((s.holdDesc ctx).readEntry ctx c).chainFault ctx c .cmdFormat 0 0
      else ((s.holdDesc ctx).readEntry ctx c).updChain ctx c (Chain.raiseTail v) := by
  have hpos : 0 < v.toNat := by bv_omega
  exact s.offerTail_read hd hgood (by simp [ht, hi, hpos])

end

/-! ## Queue operations at the hub (R103 to R105, R107, R108, R245) -/

/-- QUEUE_REQUEST of the first operation of its cell that no fence holds: off the mesh, arrived at its queue and served (R104, R105). -/
theorem queueRequest_first (s : State) {o : QOp} (ho : s.hub.qreqs.find? (fun o => o.id = s.sch.args.id) = some o)
    (hfirst : s.hub.qreqs.find? (fun p => p.firing.cell = o.firing.cell && !s.queueHeld p) = some o) :
    exec .queueRequest s = .next ((({ s with hub := { s.hub with
      qreqs := dropFirst (fun p => p.id = o.id) s.hub.qreqs } } : State).queueArrive o).settleChains o.ctx) := by
  simp only [exec, execQueueRequest, ho, hfirst, ne_eq, not_true_eq_false, if_false]

/-- QUEUE_REQUEST of an operation behind another of its cell changes nothing (R245). -/
theorem queueRequest_behind (s : State) {o p : QOp} (ho : s.hub.qreqs.find? (fun o => o.id = s.sch.args.id) = some o)
    (hp : s.hub.qreqs.find? (fun p => p.firing.cell = o.firing.cell && !s.queueHeld p) = some p) (hne : p.id ≠ o.id) :
    exec .queueRequest s = .next s := by
  simp only [exec, execQueueRequest, ho, hp, if_pos hne]

/-- QWAIT_EXPIRY of an operation that has waited 2^LIM cycles: out of its queue, and QWAIT with what it was and HEAD and TAIL
(R105, R107). -/
theorem qwaitExpiry_expired (s : State) {o : QOp}
    (ho : ((s.hwq s.sch.args.ctx s.sch.args.queue).pushes ++ (s.hwq s.sch.args.ctx s.sch.args.queue).pops).find?
      (fun o => o.id = s.sch.args.id && o.kind ≠ .enginePush && decide (o.arrived + 2 ^ o.lim ≤ s.hub.cycles.toNat)) = some o) :
    exec .qwaitExpiry s = .next ((s.updHwq s.sch.args.ctx s.sch.args.queue fun h =>
      h.without fun p => p.id = o.id && p.kind ≠ .enginePush).queueFault o .qwait
        (o.body o.lim (s.hwq s.sch.args.ctx s.sch.args.queue).head.toNat (s.hwq s.sch.args.ctx s.sch.args.queue).tail.toNat)) := by
  simp only [exec, execQwaitExpiry, ho]

/-- The state in which the push `o` of a record has waited out its bound (R105): out of its queue, QWAIT placed for it, and QFULL in the
record's STATUS where the chain still has the record. -/
def State.pushExpired (s : State) (a : Args) (o : QOp) : State :=
  let q := s.hwq a.ctx a.queue
  let t := (s.updHwq a.ctx a.queue fun h => h.without fun p => p.kind = .enginePush && p.chain = a.chain && p.ordinal = a.ordinal).queueFault
    o .qwait (o.body 20 q.head.toNat q.tail.toNat)
  match (t.chain a.ctx a.chain).rcd? a.ordinal with
  | some r => t.writeStatus a.ctx r.va 0x8007
  | none => t

/-- ENGINE_PUSH_EXPIRY of a push that has waited 2^20 cycles: its record is done with its push, and the timelines of its context go on
(R98, R105). -/
theorem enginePushExpiry_expired (s : State) {o : QOp}
    (ho : (s.hwq s.sch.args.ctx s.sch.args.queue).pushes.find? (fun o => o.kind = .enginePush && o.chain = s.sch.args.chain &&
      o.ordinal = s.sch.args.ordinal && decide (o.arrived + 2 ^ 20 ≤ s.hub.cycles.toNat)) = some o) :
    exec .enginePushExpiry s = .next (((s.pushExpired s.sch.args o).pushDone o).settleChains s.sch.args.ctx) := by
  simp only [exec, execEnginePushExpiry, ho]
  rfl

/-- HUB_Q_CTL with the queue that a step names, REFUSED or not (R108). -/
def Args.queueCtl (a : Args) (refused : Bool) : QCtl :=
  { refused := refused, ctx := BitVec.ofNat 10 a.ctx, queue := BitVec.ofNat 5 a.queue }

/-- QUEUE_SELECT latches HEAD and TAIL of the queue that it names (R108). -/
theorem queueSelect_latches (s : State) :
    exec .queueSelect s = .next { s with hub := { s.hub with
      qHead := (s.hwq (s.sch.args.ctx % 1024) (s.sch.args.queue % 32)).head,
      qTail := (s.hwq (s.sch.args.ctx % 1024) (s.sch.args.queue % 32)).tail,
      qCtl := s.sch.args.queueCtl s.hub.qCtl.refused } } := rfl

/-- QUEUE_RESET of a queue on which no operation waits: HEAD and TAIL 0, its entry to be read again (R108). -/
theorem queueReset_idle (s : State)
    (hpush : (s.hwq (s.sch.args.ctx % 1024) (s.sch.args.queue % 32)).pushes = [])
    (hpop : (s.hwq (s.sch.args.ctx % 1024) (s.sch.args.queue % 32)).pops = []) :
    exec .queueReset s = .next (({ s with hub := { s.hub with qCtl := s.sch.args.queueCtl false } } : State).updHwq
      (s.sch.args.ctx % 1024) (s.sch.args.queue % 32) fun h => { h with read := false, entry := none, head := 0, tail := 0 }) := by
  simp [exec, execQueueReset, Args.queueCtl, hpush, hpop]

/-- QUEUE_RESET of a queue on which an operation waits is REFUSED (R108). -/
theorem queueReset_refused (s : State)
    (hwait : (s.hwq (s.sch.args.ctx % 1024) (s.sch.args.queue % 32)).pushes ≠ [] ∨
      (s.hwq (s.sch.args.ctx % 1024) (s.sch.args.queue % 32)).pops ≠ []) :
    exec .queueReset s = .next { s with hub := { s.hub with qCtl := s.sch.args.queueCtl true } } := by
  have hbusy : (!(s.hwq (s.sch.args.ctx % 1024) (s.sch.args.queue % 32)).pushes.isEmpty ||
      !(s.hwq (s.sch.args.ctx % 1024) (s.sch.args.queue % 32)).pops.isEmpty) = true := by simpa using hwait
  simp only [exec, execQueueReset, hbusy, if_true]
  rfl

end Sys2Proof.Machine

section
open Sys2Proof Sys2Proof.Machine

/-- Settles O53: each clause is one of the rules above, of the reads, the writes, the TAIL offer and the queue steps. -/
theorem registersAndQueues : Obligations.RegistersAndQueues := by
  unfold Obligations.RegistersAndQueues
  have hgap : regAt 0x8FFFFF8 = none := rfl
  refine ⟨fun s => ?_, rfl, fun r => by simp [hgap], rfl, rfl, rfl, rfl⟩
  refine ⟨fun hf => ⟨readClear_tail s hf, registerWrite_bar4 s hf, registerWrite_priLimit s hf⟩, ?tails, ?unaligned, ?aligned, ?offers,
    tailWrite_outside s, fun o => queueRequest_first s, fun o p => queueRequest_behind s,
    ⟨fun o => qwaitExpiry_expired s, fun o ho => ⟨_, enginePushExpiry_expired s ho⟩⟩,
    queueSelect_latches s, queueReset_idle s, queueReset_refused s⟩
  case tails =>
    intro c n hc hn
    have h8 : (64 * c + 8 * n) % 8 = 0 := by omega
    rw [s.readTail_whole h8, s.readTail_low h8, s.tailAt_chain hc hn]
    exact ⟨rfl, rfl⟩
  case unaligned =>
    intro hf ha
    rw [readClear_unaligned s hf ha, s.readValue_unaligned ha]
    exact ⟨rfl, registerWrite_unaligned s hf ha⟩
  case aligned =>
    intro hf ha
    refine ⟨fun hr => ?_, fun r hr => ⟨fun h8 hw => ?_, fun h4 hlow => ?_, fun h4 hhigh hw => ?_, ?_, ?_, ?_⟩⟩
    · rw [readClear_reserved s hf hr, s.readValue_reserved ha hr]
      exact ⟨rfl, registerWrite_reserved s hf hr⟩
    · have hslot : s.sch.args.offset % 8 = 0 := h8 ▸ ((alignedAccess_iff _ _).mp ha).2
      rw [readClear_register s hf ha hr hslot, h8, s.readValue_whole (h8 ▸ ha) hr hw]; rfl
    · rw [readClear_register s hf ha hr hlow, h4, s.readValue_low (h4 ▸ ha) hr hlow]; rfl
    · rw [readClear_highHalf s hf hr hhigh, h4, s.readValue_high (h4 ▸ ha) hr hhigh hw]; rfl
    · rintro rfl hlow
      exact registerWrite_register s hf ha hr (s.regWritten_narrow _ _ hlow rfl)
    · rintro rfl h8
      rw [registerWrite_register s hf ha hr (h8 ▸ s.regWritten_whole _ _ rfl), s.writeReg_ageLim]
    · rintro rfl h8
      rw [registerWrite_register s hf ha hr (h8 ▸ s.regWritten_whole _ _ rfl), s.writeReg_ctxBase]
  case offers =>
    intro hctx hchain d hd hgood
    rw [tailWrite_offers s hctx hchain]
    refine ⟨fun he hread hi => ?_, fun he hi => ?_, fun ht hi hv => ⟨fun hu => ?_, fun hu => ?_⟩⟩
    · rw [s.offerTail_entryHeld hd hgood he hread hi]; rfl
    · rw [s.offerTail_invalid hd hgood he hi]
    · rw [s.offerTail_first hd hgood ht hi hv, if_neg (by simp [hu])]; rfl
    · rw [s.offerTail_first hd hgood ht hi hv, if_pos hu]
end
end

section
/-!
PROOF, shared. What memory, host memory and the hub take part in alone: a property of states that says nothing of them outlasts their
reads and writes, the fault records and the module events.
-/

namespace Sys2Proof.Machine

/-- A property of states that says nothing of the memories, the caches, and the hub. -/
structure IgnoresMemory (p : State → Prop) : Prop where
  memory : ∀ (s : State) m o c, p s → p { s with mem := m, lineOwner := o, caches := c }
  host : ∀ (s : State) m c, p s → p { s with hostMem := m, caches := c }
  hub : ∀ (s : State) h, p s → p { s with hub := h }

namespace IgnoresMemory

variable {p : State → Prop} (hp : IgnoresMemory p)
include hp

/-- A line taken over by an owner (R82). -/
theorem ownLine {s : State} (o : Owner) (line : Nat) (h : p s) : p (s.ownLine o line) := by
  unfold State.ownLine
  split
  · exact hp.memory s _ _ s.caches h
  · split
    · exact h
    · split
      · exact hp.memory s _ _ s.caches h
      · exact hp.memory s s.mem _ s.caches h

/-- Bytes stored within a line. -/
theorem devPut {s : State} (o : Owner) (dpa : Nat) (bs : List Byte) (h : p s) : p (s.devPut o dpa bs) := by
  unfold State.devPut
  split
  · exact hp.memory _ _ _ _ (hp.ownLine o (dpa / 64) h)
  · exact h

/-- Bytes written from a device physical address. -/
theorem devWrite {s : State} (o : Owner) (dpa : Nat) (bs : List Byte) (h : p s) : p (s.devWrite o dpa bs) :=
  foldl_keeps p _ (fun _ _ hs => hp.memory _ _ _ _ (hp.devPut o _ _ hs)) _ s h

/-- A bit set in a page table's entry (R79). -/
theorem setEntryBits {s : State} (dpa mask : Nat) (h : p s) : p (s.setEntryBits dpa mask) := by
  unfold State.setEntryBits
  dsimp only
  split
  · exact h
  · exact hp.devWrite _ _ _ h

/-- A and D written for a walk (R78). -/
theorem setAccessed {s : State} (path : List Nat) (write : Bool) (h : p s) : p (s.setAccessed path write) := by
  unfold State.setAccessed
  split
  · exact h
  · have hpath := foldl_keeps p (fun s a => s.setEntryBits a 0x40) (fun s a hs => hp.setEntryBits a _ hs) path s h
    dsimp only
    split
    · exact hp.setEntryBits _ _ hpath
    · exact hpath

/-- A read by VA within one line. -/
theorem vaReadLine {s : State} {ctx va n : Nat} {q : List Byte × State} (hq : s.vaReadLine ctx va n = .ok q) (h : p s) : p q.2 := by
  unfold State.vaReadLine at hq
  split at hq
  · cases hq
  · split at hq
    · cases hq
    · cases hq
      exact hp.setAccessed _ _ h

/-- A read by VA. -/
theorem vaReadParts (ctx : Nat) (l : List (Nat × Nat × Nat)) {s : State} {q : List Byte × State}
    (hq : s.vaReadParts ctx l = .ok q) (h : p s) : p q.2 := by
  induction l generalizing s q with
  | nil => cases hq; exact h
  | cons a t ih =>
    unfold State.vaReadParts at hq
    split at hq
    · cases hq
    · rename_i bs u hline
      have hu : p u := hp.vaReadLine hline h
      split at hq
      · cases hq
      · rename_i bs' v hrest
        cases hq
        exact ih (q := (bs', v)) hrest hu

/-- A write by VA within one line. -/
theorem vaWriteLine {s t : State} {ctx va : Nat} {bs : List Byte} (ht : s.vaWriteLine ctx va bs = .ok t) (h : p s) : p t := by
  unfold State.vaWriteLine at ht
  split at ht
  · cases ht
  · rename_i w _
    split at ht
    · cases ht
    · have hset := hp.setAccessed w.path true h
      simp only [Except.ok.injEq] at ht
      subst ht
      split
      · exact hp.host _ _ _ hset
      · exact hp.devWrite _ _ _ hset

/-- The pieces of a write by VA. -/
theorem vaWriteParts (ctx : Nat) (bs : List Byte) (l : List (Nat × Nat × Nat)) {s : State} (h : p s) :
    p (s.vaWriteParts ctx bs l).1 := by
  induction l generalizing s with
  | nil => exact h
  | cons a t ih =>
    unfold State.vaWriteParts
    split
    · exact h
    · rename_i hline
      exact ih (hp.vaWriteLine hline h)

/-- A write by VA, whether or not it faults. -/
theorem vaWrite {s : State} {ctx va : Nat} {bs : List Byte} {q : State × Option (FaultClass × Nat × Nat)}
    (hq : s.vaWrite ctx va bs = q) (h : p s) : p q.1 := hq ▸ hp.vaWriteParts ctx bs _ h

/-- The descriptor of a context read (R77). -/
theorem holdDesc {s : State} (ctx : Nat) (h : p s) : p (s.holdDesc ctx) := by
  unfold State.holdDesc
  split
  · exact h
  · exact hp.hub s _ h

/-- A fault record placed (R154). -/
theorem putFault {s : State} (r : FaultRec) (h : p s) : p (s.putFault r) := by
  have hheld := hp.holdDesc r.ctx h
  unfold State.putFault
  dsimp only
  split
  · exact hheld
  · split
    · exact hheld
    · split
      · exact hheld
      · rename_i ctl u hread
        have hu : p u := hp.vaReadParts _ _ hread hheld
        split
        · split
          · rename_i v e hwrite
            exact hp.vaWrite hwrite hu
          · rename_i v hwrite
            have hv : p v := hp.vaWrite hwrite hu
            exact hp.hub _ _ (hp.vaWrite rfl hv)
        · exact hp.vaWrite rfl hu

/-- A record of the event ring (R89). -/
theorem writeEvent {s : State} (code unit detail : Nat) (h : p s) : p (s.writeEvent code unit detail) :=
  hp.hub _ _ (hp.hub _ _ (hp.host s _ _ h))

/-- A module event, or its loss counted (R89). -/
theorem event {s : State} (code unit detail : Nat) (h : p s) : p (s.event code unit detail) := by
  have hlost : p { s.writeEvent 0x0006 8 s.hub.evtLost.toNat with
      hub := { (s.writeEvent 0x0006 8 s.hub.evtLost.toNat).hub with evtOver := false } } := hp.hub _ _ (hp.writeEvent _ _ _ h)
  unfold State.event
  dsimp only
  split
  · split
    · exact hp.hub _ _ hlost
    · exact hp.writeEvent _ _ _ hlost
  · split
    · exact hp.hub _ _ h
    · exact hp.writeEvent _ _ _ h

end IgnoresMemory

end Sys2Proof.Machine
end

section
/-!
PROOF of O49. Switches and link ports (R29 to R34, R53 to R55): what a switch does with the packet at the head of an input and with the
headers of the SILLAGE lane, what an output sends next, and how a link port ends its training.
-/

namespace Sys2Proof.Machine

/-! ## Packets checked at a switch (R29) -/

/-- The header that HCRC covers does not hold HCRC (R27). -/
theorem Pkt.header_of_hcrc (p : Pkt) (c : Nat) : ({ p with hcrc := c } : Pkt).header = p.header := rfl

/-- So a packet's HCRC is the same whatever HCRC it came with. -/
theorem Pkt.crc_of_hcrc (p : Pkt) (c : Nat) : ({ p with hcrc := c } : Pkt).crc = p.crc :=
  congrArg (fun h => crc16 (toBytes 30 h)) (p.header_of_hcrc c)

/-- A sealed packet's HCRC is good. -/
theorem Pkt.seal_hcrc (p : Pkt) : p.seal.hcrc = p.seal.crc := (p.crc_of_hcrc p.crc).symm

/-- A packet's path does not depend on what stands at a switch input. -/
@[simp] theorem State.updSwIn_route (s : State) (sw inp : Nat) (f : SwIn → SwIn) (sw' : Nat) (p : Pkt) :
    (s.updSwIn sw inp f).route sw' p = s.route sw' p := rfl

/-- Nor does what a switch output holds. -/
@[simp] theorem State.updSwIn_swOut (s : State) (sw inp : Nat) (f : SwIn → SwIn) (sw' out : Nat) :
    (s.updSwIn sw inp f).swOut sw' out = s.swOut sw' out := rfl

/-- Two changes that agree on what a switch input holds are one. -/
theorem State.updSwIn_congr (s : State) (sw inp : Nat) {f g : SwIn → SwIn} (h : f (s.swIn sw inp) = g (s.swIn sw inp)) :
    s.updSwIn sw inp f = s.updSwIn sw inp g :=
  congrArg (fun v => { s with ins := put {} (swKey sw inp) v s.ins }) h

section
variable (s : State) (sw : Nat) {p : Pkt} (go : State → Nat → State)

/-- A header with a bad HCRC is discarded. -/
theorem State.checkPkt_badCrc (hcrc : p.hcrc ≠ p.crc) : s.checkPkt sw p go = s.discardAtSwitch sw true := if_pos hcrc

/-- A malformed header is discarded. -/
theorem State.checkPkt_malformed (hcrc : p.hcrc = p.crc) (hm : p.malformed = true) :
    s.checkPkt sw p go = s.discardAtSwitch sw false := by
  rw [State.checkPkt, if_neg (not_not_intro hcrc), if_pos hm]

/-- A good header goes on to its output. -/
theorem State.checkPkt_routed {out : Nat} (hcrc : p.hcrc = p.crc) (hm : p.malformed = false) (hr : s.route sw p = some out) :
    s.checkPkt sw p go = go s out := by
  simp [State.checkPkt, hcrc, hm, hr]

end

/-! ## A packet that reaches an output (R31 to R33) -/

/-- A header put in the store of an output for an input. -/
def State.storeHeader (s : State) (sw inp out : Nat) (p : Pkt) : State :=
  s.updSwOut sw out fun o => { o with stores := upd [] inp (· ++ [p]) o.stores }

section
variable (s : State) (sw inp out : Nat) (p : Pkt)

/-- Within the threshold of its note a packet joins the output's queue whole. -/
theorem State.reachOutput_fits
    (h : queueFlits ((s.swOut sw out).queue (Note.ofCode p.cls)) + p.flits ≤ (s.swOut sw out).threshold (Note.ofCode p.cls)) :
    s.reachOutput sw inp out p = s.updSwOut sw out fun o =>
      o.setQueue (Note.ofCode p.cls) (o.queue (Note.ofCode p.cls) ++ [(p, p.flits)]) := if_pos h

/-- Beyond it the trim is counted, and its header enters the input's store where a place is free. -/
theorem State.reachOutput_trims
    (h : ¬ queueFlits ((s.swOut sw out).queue (Note.ofCode p.cls)) + p.flits ≤ (s.swOut sw out).threshold (Note.ofCode p.cls))
    (hroom : ((s.swOut sw out).store inp).length < 4) :
    s.reachOutput sw inp out p = (s.updSwOut sw out fun o => o.countTrim (Note.ofCode p.cls)).storeHeader sw inp out p.trimmed := by
  simp only [State.reachOutput, if_neg h, if_pos hroom, State.storeHeader]

/-- Else the header pauses the input. -/
theorem State.reachOutput_pauses
    (h : ¬ queueFlits ((s.swOut sw out).queue (Note.ofCode p.cls)) + p.flits ≤ (s.swOut sw out).threshold (Note.ofCode p.cls))
    (hfull : 4 ≤ ((s.swOut sw out).store inp).length) :
    s.reachOutput sw inp out p = (s.updSwOut sw out fun o => o.countTrim (Note.ofCode p.cls)).updSwIn sw inp fun i =>
      { i with paused := some (out, p.trimmed) } := by
  simp only [State.reachOutput, if_neg h, if_neg (Nat.not_lt.mpr hfull)]

end

/-- SWITCH_PACKET_ARRIVAL takes the head of an input that is not paused, and checks it. -/
theorem switchPacketArrival_head (s : State) {p : Pkt} {rest : List Pkt} (hf : s.sch.args.flag = false)
    (hp : (s.swIn s.sch.args.sw s.sch.args.inp).paused = none) (hd : (s.swIn s.sch.args.sw s.sch.args.inp).data = p :: rest) :
    exec .switchPacketArrival s = .next ((s.updSwIn s.sch.args.sw s.sch.args.inp fun i => { i with data := rest }).checkPkt
      s.sch.args.sw p fun s' out => s'.reachOutput s.sch.args.sw s.sch.args.inp out p) := by
  simp [exec, execSwitchPacketArrival, hf, hp, hd]

/-! ## The header store (R33) -/

/-- HEADER_STORE_ENTRY with a full store changes nothing. -/
theorem headerStoreEntry_full (s : State)
    (h : 4 ≤ ((s.swOut s.sch.args.sw s.sch.args.out).store s.sch.args.inp).length) : exec .headerStoreEntry s = .next s := by
  simp [exec, execHeaderStoreEntry, h]

section
variable (s : State) (hroom : ((s.swOut s.sch.args.sw s.sch.args.out).store s.sch.args.inp).length < 4)
include hroom

/-- With room, the header that pauses the input for the output goes in first. -/
theorem headerStoreEntry_paused {p : Pkt} (hp : (s.swIn s.sch.args.sw s.sch.args.inp).paused = some (s.sch.args.out, p)) :
    exec .headerStoreEntry s = .next ((s.updSwIn s.sch.args.sw s.sch.args.inp fun i => { i with paused := none }).storeHeader
      s.sch.args.sw s.sch.args.inp s.sch.args.out p) := by
  have hfor : (s.swIn s.sch.args.sw s.sch.args.inp).pausedFor s.sch.args.out = some p := by simp [SwIn.pausedFor, hp, Option.filter]
  simp only [exec, execHeaderStoreEntry, hfor, if_neg (Nat.not_le.mpr hroom), State.storeHeader]

/-- With no header that pauses the input and none of its SILLAGE slots for the output, nothing changes. -/
theorem headerStoreEntry_none (hp : (s.swIn s.sch.args.sw s.sch.args.inp).pausedFor s.sch.args.out = none)
    (hsil : (s.swIn s.sch.args.sw s.sch.args.inp).sil.find? (fun p => s.headerFor s.sch.args.sw p s.sch.args.out) = none) :
    exec .headerStoreEntry s = .next s := by
  simp only [exec, execHeaderStoreEntry, hp, hsil, if_neg (Nat.not_le.mpr hroom)]

/-- Else the input's first SILLAGE header for the output goes in, and the next that waits takes its slot. -/
theorem headerStoreEntry_sillage {p : Pkt} (hp : (s.swIn s.sch.args.sw s.sch.args.inp).pausedFor s.sch.args.out = none)
    (hsil : (s.swIn s.sch.args.sw s.sch.args.inp).sil.find? (fun p => s.headerFor s.sch.args.sw p s.sch.args.out) = some p)
    (hcrc : p.hcrc = p.crc) (hm : p.malformed = false) (hr : s.route s.sch.args.sw p = some s.sch.args.out) :
    exec .headerStoreEntry s = .next ((s.updSwIn s.sch.args.sw s.sch.args.inp fun i => i.takeHeader p).storeHeader
      s.sch.args.sw s.sch.args.inp s.sch.args.out p) := by
  simp only [exec, execHeaderStoreEntry, hp, hsil, if_neg (Nat.not_le.mpr hroom)]
  exact congrArg _ (State.checkPkt_routed _ _ _ hcrc hm (by rw [State.updSwIn_route, hr]))

end

/-- A SILLAGE header takes one of the input's 8 receive slots, or waits behind them. -/
theorem State.intoSwitch_sillage (s : State) (sw inp : Nat) {p : Pkt} (hp : p.sillage = true) :
    s.intoSwitch sw inp p = s.updSwIn sw inp fun i =>
      if (s.swIn sw inp).sil.length < 8 ∧ (s.swIn sw inp).wait = [] then { i with sil := (s.swIn sw inp).sil ++ [p] }
      else { i with wait := (s.swIn sw inp).wait ++ [p] } := by
  refine s.updSwIn_congr sw inp ?_
  by_cases h : (s.swIn sw inp).sil.length < 8 ∧ (s.swIn sw inp).wait = [] <;> simp [hp, h]

/-! ## Departure (R24, R34, R53) -/

/-- FLIT_DEPART sends the next SILLAGE header where there is one. -/
theorem flitDepart_sillage (s : State) {j : Nat} {p : Pkt} (h : s.silNext s.sch.args.sw s.sch.args.out = some (j, p)) :
    exec .flitDepart s = .next ((s.passHop s.sch.args.sw s.sch.args.out p).updSwOut s.sch.args.sw s.sch.args.out fun o =>
      { o with stores := upd [] j List.tail o.stores, rr := j, lastSil := true }) := by
  simp only [exec, execFlitDepart, h]

/-- Else the next data flit of the note chosen. -/
theorem flitDepart_data (s : State) {n : Note} (h : s.silNext s.sch.args.sw s.sch.args.out = none)
    (hn : s.dataNote s.sch.args.sw s.sch.args.out = some n) :
    exec .flitDepart s = .next (s.dataFlit s.sch.args.sw s.sch.args.out n) := by
  simp only [exec, execFlitDepart, h, hn]

/-- Else nothing, and the slot counts as one without a SILLAGE header. -/
theorem flitDepart_none (s : State) (h : s.silNext s.sch.args.sw s.sch.args.out = none)
    (hn : s.dataNote s.sch.args.sw s.sch.args.out = none) :
    exec .flitDepart s = .next (s.updSwOut s.sch.args.sw s.sch.args.out fun o => { o with lastSil := false }) := by
  simp only [exec, execFlitDepart, h, hn]

/-- FLIT_REPLAY counts on a link port. -/
theorem flitReplay_link (s : State) {l : Nat} (h : hopOf s.sch.args.sw s.sch.args.out = .link l) :
    exec .flitReplay s = .next { s with links := upd {} l (fun q => { q with replays := satInc q.replays }) s.links } := by
  simp only [exec, execFlitReplay, h]

/-! ## Link ports (R54, R55, R89) -/

/-- A module event is the hub's and host memory's, and leaves the link ports. -/
@[simp] theorem State.event_links (s : State) (code unit detail : Nat) : (s.event code unit detail).links = s.links :=
  IgnoresMemory.event (p := fun t => t.links = s.links) ⟨fun _ _ _ _ h => h, fun _ _ _ h => h, fun _ _ h => h⟩ code unit detail rfl

/-- What a peer's LNK_MOD makes of a port that ends its training (R54): UP where the peer is the expected one, else MISWIRE. -/
def State.trainedAs (s : State) (l : Nat) (peer : BitVec 8) : LinkState :=
  if s.expectedPeer l = some (peer.toNat / 16, peer.toNat % 16) then .up else .miswire

/-- Bits [7:4] and [3:0] of LNK_MOD are the peer's group and module. -/
theorem State.trainedAs_of_value (s : State) (l : Nat) (v : Dword) :
    s.trainedAs l (v.setWidth 8) =
      if s.expectedPeer l = some ((v.extractLsb' 4 4).toNat, (v.extractLsb' 0 4).toNat) then .up else .miswire := by
  have hgroup : (v.setWidth 8).toNat / 16 = (v.extractLsb' 4 4).toNat := by
    rw [BitVec.toNat_setWidth, BitVec.extractLsb'_toNat, Nat.shiftRight_eq_div_pow]; omega
  have hmodule : (v.setWidth 8).toNat % 16 = (v.extractLsb' 0 4).toNat := by
    rw [BitVec.toNat_setWidth, BitVec.extractLsb'_toNat, Nat.shiftRight_zero]; omega
  rw [State.trainedAs, hgroup, hmodule]

/-- An event raised or not leaves the link ports. -/
theorem State.links_of_event_if {c : Prop} [Decidable c] (s : State) (code unit detail : Nat) :
    (if c then s else s.event code unit detail).links = s.links := by
  split
  · rfl
  · exact s.event_links code unit detail

/-- LINK_TRAINED of a port that trains and is not UP leaves the port with its peer and in the state that the peer makes of it. -/
theorem linkTrained_links (s : State) (htrains : s.trains s.sch.args.link = true) (hdown : s.linkUp s.sch.args.link = false) :
    ∃ t, exec .linkTrained s = .next t ∧ t.links = upd {} s.sch.args.link (fun l =>
      { l with st := s.trainedAs s.sch.args.link (s.sch.args.value.setWidth 8), peer := s.sch.args.value.setWidth 8 }) s.links := by
  have hgo : ¬ ((!s.trains s.sch.args.link || s.linkUp s.sch.args.link) = true) := by simp [htrains, hdown]
  have hpeer : BitVec.ofNat 8 (s.sch.args.value.toNat % 256) = s.sch.args.value.setWidth 8 := by
    apply BitVec.eq_of_toNat_eq; simp
  simp only [exec, execLinkTrained, if_neg hgo]
  exact ⟨_, rfl, by rw [State.links_of_event_if, hpeer]; rfl⟩

end Sys2Proof.Machine

section
open Sys2Proof Sys2Proof.Machine

/-- Settles O49: each clause is one of the rules above, of the packet checked and passed on, the header store, the next flit and the
link port trained. -/
theorem switchesAndLinks : Obligations.SwitchesAndLinks := by
  unfold Obligations.SwitchesAndLinks
  refine ⟨fun s => ⟨?arrival, fun p hp hroom => headerStoreEntry_paused s hroom hp, headerStoreEntry_full s,
    fun hp hroom => ⟨headerStoreEntry_none s hroom hp, fun p => headerStoreEntry_sillage s hroom hp⟩,
    fun j p => flitDepart_sillage s, fun n => flitDepart_data s, flitDepart_none s, fun l => flitReplay_link s,
    fun sw inp p => s.intoSwitch_sillage sw inp, ?trained⟩, fun p => ⟨rfl, rfl, rfl, rfl, Pkt.seal_hcrc _, rfl, rfl⟩⟩
  case arrival =>
    intro hf hpaused p rest hd
    rw [switchPacketArrival_head s hf hpaused hd]
    refine ⟨fun hcrc => by rw [State.checkPkt_badCrc _ _ _ hcrc], fun hcrc hm => by rw [State.checkPkt_malformed _ _ _ hcrc hm],
      fun out hcrc hm hr => ?_⟩
    rw [State.checkPkt_routed _ _ _ hcrc hm (by rw [State.updSwIn_route, hr])]
    exact ⟨fun hfits => congrArg _ (State.reachOutput_fits _ _ _ _ _ hfits),
      fun hover hroom => congrArg _ (State.reachOutput_trims _ _ _ _ _ hover hroom),
      fun hover => ⟨_, rfl, fun hfull _ => State.reachOutput_pauses _ _ _ _ _ hover hfull⟩⟩
  case trained =>
    intro hlink hports hdefect heth hdown hw
    have htrains : s.trains s.sch.args.link = true := by
      simpa [State.trains, hlink, hports, hdefect] using heth
    obtain ⟨t, ht, hlinks⟩ := linkTrained_links s htrains hdown
    refine ⟨t, ht, ?_⟩
    rw [State.linkUp, hlinks, look_upd_same _ _ _ _ hw]
    refine ⟨BitVec.eq_of_toNat_eq (by simp), fun hexp => ?_, fun hother => ?_⟩
    · rw [State.trainedAs_of_value, if_pos hexp]; rfl
    · rw [State.trainedAs_of_value, if_neg hother]

end
end

section
/-!
PROOF of O51. The source's side of a stream (R35, R36, R38, R40): how an endpoint takes a packet from its inbox, the order in which
waiting operations open, and one lemma per case of each step of a send-table entry.
-/

namespace Sys2Proof.Machine

/-! ## The order of waiting operations (R35) -/

section
variable {α : Type} (le : α → α → Bool)

/-- Insertion adds its element and no other. -/
theorem mem_insertBy (x v : α) (l : List α) : v ∈ insertBy le x l ↔ v = x ∨ v ∈ l := by
  induction l with
  | nil => simp [insertBy]
  | cons y t ih =>
    rw [insertBy]
    split
    · rw [List.mem_cons, ih, List.mem_cons, or_left_comm]
    · exact List.mem_cons

/-- A list put in order has the elements it had. -/
theorem mem_sortBy (v : α) (l : List α) : v ∈ sortBy le l ↔ v ∈ l := by
  suffices h : ∀ acc : List α, v ∈ l.foldl (fun acc x => insertBy le x acc) acc ↔ v ∈ acc ∨ v ∈ l by
    simpa [sortBy] using h []
  induction l with
  | nil => simp
  | cons x t ih =>
    intro acc
    rw [List.foldl_cons, ih, mem_insertBy, List.mem_cons, or_assoc, or_left_comm]

end

/-- No element of a list comes before its first by a key. -/
def HeadLeast {α : Type} (key : α → Nat) (l : List α) : Prop := ∀ w, l.head? = some w → ∀ v ∈ l, key w ≤ key v

/-- Insertion by a key keeps the least element first. -/
theorem HeadLeast.insertBy {α : Type} {key : α → Nat} {l : List α} (h : HeadLeast key l) (x : α) :
    HeadLeast key (insertBy (fun a b => decide (key a ≤ key b)) x l) := by
  cases l with
  | nil => simp [HeadLeast, Machine.insertBy]
  | cons y t =>
    have hy : ∀ v ∈ y :: t, key y ≤ key v := h y rfl
    rw [Machine.insertBy]
    split
    case isTrue hle =>
      rintro w ⟨⟩ v hv
      rcases List.mem_cons.mp hv with rfl | hv
      · exact Nat.le_refl _
      · rcases (mem_insertBy _ x v t).mp hv with rfl | hv
        · exact of_decide_eq_true hle
        · exact hy v (List.mem_cons_of_mem _ hv)
    case isFalse hle =>
      have hlt : key x ≤ key y := Nat.le_of_lt (Nat.not_le.mp fun h => hle (decide_eq_true h))
      rintro w ⟨⟩ v hv
      rcases List.mem_cons.mp hv with rfl | hv
      · exact Nat.le_refl _
      · exact Nat.le_trans hlt (hy v hv)

/-- A list put in order by a key begins with an element of least key. -/
theorem headLeast_sortBy {α : Type} (key : α → Nat) (l : List α) :
    HeadLeast key (sortBy (fun a b => decide (key a ≤ key b)) l) :=
  foldl_keeps (HeadLeast key) _ (fun _ x h => h.insertBy x) l [] (by simp [HeadLeast])

/-! ## Opening (R35, R56) -/

/-- The number of a new stream has 16 bits; an activation stream brings its own. -/
theorem State.newStream_lt (s : State) (k : Nat) {w : SendStream} (h : ∀ id, w.feed ≠ .act id) : s.newStream k w < 65536 := by
  unfold State.newStream
  split
  case h_1 id hact => exact absurd hact (h id)
  case h_2 => exact Nat.mod_lt _ (by decide)

theorem State.newStream_act (s : State) (k : Nat) {w : SendStream} {id : Nat} (h : w.feed = .act id) : s.newStream k w = w.stream := by
  rw [State.newStream, h]

/-- The send-table entry that an operation takes. -/
def State.sendEntry (s : State) (k i : Nat) (w : SendStream) : SendStream :=
  { w with index := i, stream := s.newStream k w, st := .opening, rto := (s.ep k).rto,
           via := (s.choosePath w.dst (s.newStream k w)).getD none }

/-- An endpoint whose operation `w` has taken the entry `t`. -/
def Endpoint.opened (w t : SendStream) (e : Endpoint) : Endpoint :=
  { e with wants := dropFirst (fun q => q = w) e.wants, sends := e.sends ++ [t], nextStream := (t.stream + 1) % 65536 }

/-- STREAM_OPEN of the first operation in note order, with a free entry: its OPEN sent, or its end where no path is left. -/
theorem streamOpen_first (s : State) {i : Nat} {w : SendStream}
    (hi : freeIndex ((s.ep s.sch.args.ep).sends.map fun t => t.index) = some i)
    (hw : (sortBy (fun (a b : SendStream) => decide (a.cls.code ≤ b.cls.code)) (s.ep s.sch.args.ep).wants).head? = some w) :
    exec .streamOpen s = .next (
      if (s.choosePath w.dst (s.newStream s.sch.args.ep w)).isNone then
        (s.updEp s.sch.args.ep (Endpoint.opened w (s.sendEntry s.sch.args.ep i w))).losePath s.sch.args.ep (s.sendEntry s.sch.args.ep i w)
      else
        (s.updEp s.sch.args.ep (Endpoint.opened w (s.sendEntry s.sch.args.ep i w))).sendOpen s.sch.args.ep
          (s.sendEntry s.sch.args.ep i w)) := by
  simp only [exec, execStreamOpen, hi, hw]
  rfl

/-! ## A packet taken from the inbox (R29) -/

/-- An endpoint whose inbox has given up a packet. -/
def State.withoutPkt (s : State) (k : Nat) (p : Pkt) : State :=
  s.updEp k fun e => { e with inbox := dropFirst (fun r => r = p) e.inbox }

section
variable (s : State) (k : Nat) {q : Pkt → Bool} (m : Pkt → State → State) {p : Pkt} (hp : (s.ep k).inbox.find? q = some p)
include hp

/-- A header that fails its HCRC is discarded. -/
theorem State.takePkt_badCrc (hcrc : p.hcrc ≠ p.crc) : s.takePkt k q m = (s.withoutPkt k p).discardAtEp k true := by
  simp only [State.takePkt, hp, if_pos hcrc]
  rfl

/-- A malformed header is discarded. -/
theorem State.takePkt_malformed (hcrc : p.hcrc = p.crc) (hm : p.malformed = true) :
    s.takePkt k q m = (s.withoutPkt k p).discardAtEp k false := by
  simp only [State.takePkt, hp, if_neg (not_not_intro hcrc), if_pos hm]
  rfl

/-- A good header is given on. -/
theorem State.takePkt_good (hcrc : p.hcrc = p.crc) (hm : p.malformed = false) : s.takePkt k q m = m p (s.withoutPkt k p) := by
  simp only [State.takePkt, hp, if_neg (not_not_intro hcrc), hm, Bool.false_eq_true, if_false]
  rfl

end

/-! ## Answers to an OPEN (R35) -/

/-- REFUSE_RECEIVE of a bad header discards it. -/
theorem refuseReceive_badCrc (s : State) {p : Pkt}
    (hp : (s.ep s.sch.args.ep).inbox.find? (fun p => p.kind = 6 && p.addr = 3) = some p) (hcrc : p.hcrc ≠ p.crc) :
    exec .refuseReceive s = .next ((s.withoutPkt s.sch.args.ep p).discardAtEp s.sch.args.ep true) :=
  congrArg _ (s.takePkt_badCrc _ _ hp hcrc)

/-- REFUSE_RECEIVE makes an opening stream wait from now. -/
theorem refuseReceive_good (s : State) {p : Pkt}
    (hp : (s.ep s.sch.args.ep).inbox.find? (fun p => p.kind = 6 && p.addr = 3) = some p) (hcrc : p.hcrc = p.crc)
    (hm : p.malformed = false) :
    exec .refuseReceive s = .next ((s.withoutPkt s.sch.args.ep p).updSend s.sch.args.ep p.stream fun t =>
      if t.st = .opening then { t with st := .refused, since := s.epCycle s.sch.args.ep } else t) :=
  congrArg _ (s.takePkt_good _ _ hp hcrc hm)

/-- OPEN_RETRY of a refused stream sends its OPEN again after GAP cycles. -/
theorem openRetry_due (s : State) {t : SendStream} (ht : (s.ep s.sch.args.ep).send? s.sch.args.stream = some t)
    (hst : t.st = .refused) (hgap : t.since + (s.ep s.sch.args.ep).gap.toNat ≤ s.epCycle s.sch.args.ep) :
    exec .openRetry s = .next ((s.updSend s.sch.args.ep s.sch.args.stream fun t => { t with st := .opening }).sendOpen
      s.sch.args.ep t) := by
  simp [exec, execOpenRetry, ht, hst, hgap]

/-- GRANT_RECEIVE for no stream of the endpoint changes nothing more. -/
theorem grantReceive_none (s : State) {p : Pkt} (hp : (s.ep s.sch.args.ep).inbox.find? (fun p => p.kind = 1) = some p)
    (hcrc : p.hcrc = p.crc) (hm : p.malformed = false)
    (ht : ((s.withoutPkt s.sch.args.ep p).ep s.sch.args.ep).send? p.stream = none) :
    exec .grantReceive s = .next (s.withoutPkt s.sch.args.ep p) := by
  refine congrArg _ ((s.takePkt_good _ _ hp hcrc hm).trans ?_)
  simp only [ht]

/-- A stream whose limit a GRANT with a SEQ raises, and which it opens. -/
def SendStream.granted (seq : Nat) (t : SendStream) : SendStream :=
  { t with limit := max t.limit (absSeq t.limit seq), st := if t.st = .opening then .open else t.st }

/-- GRANT_RECEIVE grants the stream where its receiver now is. -/
theorem grantReceive_stream (s : State) {p : Pkt} {t : SendStream}
    (hp : (s.ep s.sch.args.ep).inbox.find? (fun p => p.kind = 1) = some p)
    (hcrc : p.hcrc = p.crc) (hm : p.malformed = false)
    (ht : ((s.withoutPkt s.sch.args.ep p).ep s.sch.args.ep).send? p.stream = some t) :
    exec .grantReceive s = .next (((s.withoutPkt s.sch.args.ep p).moveGoal s.sch.args.ep t p.from).updSend s.sch.args.ep p.stream
      (SendStream.granted p.seq)) := by
  refine congrArg _ ((s.takePkt_good _ _ hp hcrc hm).trans ?_)
  simp only [ht]
  rfl

/-! ## Sending below the limit (R35, R151) -/

section
variable (s : State) {t : SendStream} (ht : (s.ep s.sch.args.ep).send? s.sch.args.stream = some t)
include ht

/-- PACKET_SEND sends nothing of a stream that is not open, that has sent its last packet, or that is at its limit. -/
theorem packetSend_held (h : t.st ≠ .open ∨ t.sentLast = true ∨ t.limit ≤ t.next) : exec .packetSend s = .next s := by
  have hheld : (t.st ≠ .open || t.sentLast || t.limit ≤ t.next) = true := by simpa [or_assoc] using h
  simp only [exec, execPacketSend, ht, if_pos hheld]

section
variable (hopen : t.st = .open) (hlast : t.sentLast = false) (hlimit : t.next < t.limit)
include hopen hlast hlimit

omit ht in
/-- A stream that is open, has not sent its last packet and is below its limit may send. -/
theorem SendStream.maySend : ¬ (t.st ≠ .open || t.sentLast || t.limit ≤ t.next) = true := by
  have hbelow : decide (t.limit ≤ t.next) = false := decide_eq_false (Nat.not_le.mpr hlimit)
  simp only [hopen, hlast, hbelow, ne_eq, not_true_eq_false, decide_false, Bool.or_self, Bool.false_eq_true, not_false_eq_true]

/-- PACKET_SEND of token values sends the first of them. -/
theorem packetSend_tokens {q : Nat × Nat × Val} {rest : List (Nat × Nat × Val)} {final : Bool}
    (hfeed : t.feed = .tokens (q :: rest) final) : exec .packetSend s = .next ((s.chainTurn s.sch.args.ep t).sendData s.sch.args.ep t
      (Claims.tokenPkt q (final && rest.isEmpty)) (.tokens rest final)) := by
  simp only [exec, execPacketSend, ht, if_neg (SendStream.maySend hopen hlast hlimit), hfeed]
  rfl

/-- PACKET_SEND of an activation stream sends its first waiting token, whose slot of the producer's arc is free again. -/
theorem packetSend_act {id : Nat} {q : ActStream} {tag : Tag} {v : Val} {rest : List (Tag × Val)} (hfeed : t.feed = .act id)
    (hq : (s.chainTurn s.sch.args.ep t).acts.find? (fun q => q.id = id) = some q) (hqueue : q.queue = (tag, v) :: rest) :
    exec .packetSend s = .next (((((s.chainTurn s.sch.args.ep t).updAct id fun q => { q with queue := rest }).actSent q v.len)).sendData
      s.sch.args.ep t (Claims.tokenPkt (tag.toNat, 0, v) false) t.feed) := by
  simp only [exec, execPacketSend, ht, if_neg (SendStream.maySend hopen hlast hlimit), hfeed, hq, hqueue, Option.map_some]
  rfl

/-- PACKET_SEND of a copy sends its next chunk. -/
theorem packetSend_copy {src dst left : Nat} (hfeed : t.feed = .copy src dst left) :
    exec .packetSend s = .next ((s.chainTurn s.sch.args.ep t).sendChunk s.sch.args.ep t (some src) dst left 0 0) := by
  simp only [exec, execPacketSend, ht, if_neg (SendStream.maySend hopen hlast hlimit), hfeed]

end

/-! ## Sent again (R36, R38) -/

/-- RETRANSMIT answers the oldest re-request. -/
theorem retransmit_oldest {q : Nat × Nat} {l : List (Nat × Nat)} (hl : t.resend = q :: l) :
    exec .retransmit s = .next ((s.updSend s.sch.args.ep s.sch.args.stream fun t => { t with resend := t.resend.tail }).resendPkt
      s.sch.args.ep s.sch.args.stream q.1 q.2) := by
  simp [exec, execRetransmit, ht, hl]

/-- RETRANSMISSION_TIMEOUT of a kept packet sends it again once 2^RTO cycles have passed. -/
theorem retransmissionTimeout_kept {q : Pkt × Nat} (hq : t.kept.find? (fun q => q.1.seq = s.sch.args.seq) = some q) :
    exec .retransmissionTimeout s = .next (if q.2 + 2 ^ t.rto.toNat ≤ s.epCycle s.sch.args.ep then
      s.resendPkt s.sch.args.ep s.sch.args.stream s.sch.args.seq 0 else s) := by
  simp [exec, execRetransmissionTimeout, ht, hq]

end

/-! ## Re-requests, acknowledgements and the end (R36, R38, R40) -/

/-- A stream asked at a cycle for the packet of a SEQ: queued where it is kept, whose timer begins again, else a duplicate. -/
def SendStream.askedFor (seq tcnt now : Nat) (t : SendStream) : SendStream :=
  if t.kept.any (fun q => q.1.seq = seq) then
    { t with trims := satInc t.trims, resend := t.resend ++ [(seq, tcnt)],
             kept := t.kept.map fun q => if q.1.seq = seq then (q.1, now) else q }
  else { t with trims := satInc t.trims, dups := satInc t.dups }

/-- A re-request counts a trim and changes neither the next SEQ nor the limit. -/
theorem SendStream.askedFor_counts (seq tcnt now : Nat) (t : SendStream) :
    (t.askedFor seq tcnt now).trims = satInc t.trims ∧ (t.askedFor seq tcnt now).next = t.next ∧
      (t.askedFor seq tcnt now).limit = t.limit := by
  unfold SendStream.askedFor
  split <;> exact ⟨rfl, rfl, rfl⟩

/-- Of a kept packet it is queued. -/
theorem SendStream.askedFor_kept {seq : Nat} (tcnt now : Nat) {t : SendStream} (h : ∃ q ∈ t.kept, q.1.seq = seq) :
    (t.askedFor seq tcnt now).resend = t.resend ++ [(seq, tcnt)] ∧ (t.askedFor seq tcnt now).dups = t.dups := by
  have hany : t.kept.any (fun q => q.1.seq = seq) = true := by simpa using h
  simp only [SendStream.askedFor, if_pos hany, and_self]

/-- Of any other it is a duplicate. -/
theorem SendStream.askedFor_notKept {seq : Nat} (tcnt now : Nat) {t : SendStream} (h : ∀ q ∈ t.kept, q.1.seq ≠ seq) :
    (t.askedFor seq tcnt now).resend = t.resend ∧ (t.askedFor seq tcnt now).dups = satInc t.dups := by
  have hany : ¬ t.kept.any (fun q => q.1.seq = seq) = true := by simpa using h
  simp only [SendStream.askedFor, if_neg hany, and_self]

/-- RREQ_RECEIVE asks the stream for the packet. -/
theorem rreqReceive_good (s : State) {p : Pkt} (hp : (s.ep s.sch.args.ep).inbox.find? (fun p => p.kind = 2) = some p)
    (hcrc : p.hcrc = p.crc) (hm : p.malformed = false) :
    exec .rreqReceive s = .next ((s.withoutPkt s.sch.args.ep p).updSend s.sch.args.ep p.stream
      (SendStream.askedFor p.seq p.tcnt (s.epCycle s.sch.args.ep))) :=
  congrArg _ (s.takePkt_good _ _ hp hcrc hm)

/-- Whether an ACK with a SEQ and a bitmap covers a packet of a stream whose next SEQ is `next`: below the cumulative point, or in the
bitmap above it. -/
def ackCovers (next seq map : Nat) (q : Pkt) : Bool :=
  decide (absSeq next q.seq < absSeq next seq) || (decide (absSeq next seq < absSeq next q.seq) &&
    decide (absSeq next q.seq ≤ absSeq next seq + 32) && bit map (absSeq next q.seq - absSeq next seq - 1))

/-- What an ACK does not cover stands at its cumulative point or above. -/
theorem le_of_not_ackCovers {next seq map : Nat} {q : Pkt} (h : ackCovers next seq map q = false) :
    absSeq next seq ≤ absSeq next q.seq := by
  simp only [ackCovers, Bool.or_eq_false_iff, decide_eq_false_iff_not] at h
  omega

/-- An ACK covers neither the packet at its cumulative point nor one past its bitmap. -/
theorem not_ackCovers {next seq : Nat} (map : Nat) {q : Pkt}
    (h : absSeq next q.seq = absSeq next seq ∨ absSeq next seq + 32 < absSeq next q.seq) : ackCovers next seq map q = false := by
  have hbelow : ¬ absSeq next q.seq < absSeq next seq := by omega
  have hmap : ¬ (absSeq next seq < absSeq next q.seq ∧ absSeq next q.seq ≤ absSeq next seq + 32) := by omega
  simp only [ackCovers, hbelow, decide_false, Bool.false_or, ← Bool.decide_and, hmap, Bool.false_and]

/-- A stream that has forgotten what an ACK covers. -/
def SendStream.acknowledged (seq map : Nat) (t : SendStream) : SendStream :=
  { t with kept := t.kept.filter fun q => !ackCovers t.next seq map q.1 }

/-- ACK_RECEIVE forgets what the ACK covers. -/
theorem ackReceive_good (s : State) {p : Pkt} (hp : (s.ep s.sch.args.ep).inbox.find? (fun p => p.kind = 3) = some p)
    (hcrc : p.hcrc = p.crc) (hm : p.malformed = false) :
    exec .ackReceive s = .next ((s.withoutPkt s.sch.args.ep p).updSend s.sch.args.ep p.stream
      (SendStream.acknowledged p.seq p.addr)) :=
  congrArg _ (s.takePkt_good _ _ hp hcrc hm)

/-- CLOSED_RECEIVE frees the stream's entry and tells its operation how it ended. -/
theorem closedReceive_stream (s : State) {p : Pkt} {t : SendStream}
    (hp : (s.ep s.sch.args.ep).inbox.find? (fun p => p.kind = 6 && p.addr = 2) = some p)
    (hcrc : p.hcrc = p.crc) (hm : p.malformed = false)
    (ht : ((s.withoutPkt s.sch.args.ep p).ep s.sch.args.ep).send? p.stream = some t) :
    exec .closedReceive s = .next (((s.withoutPkt s.sch.args.ep p).dropSend s.sch.args.ep p.stream).streamEnded t
      (t.st = .closing && p.tcnt = 0 && !p.last)) := by
  refine congrArg _ ((s.takePkt_good _ _ hp hcrc hm).trans ?_)
  simp only [ht]

/-- CLOSED_RECEIVE for no stream of the endpoint changes nothing more. -/
theorem closedReceive_none (s : State) {p : Pkt}
    (hp : (s.ep s.sch.args.ep).inbox.find? (fun p => p.kind = 6 && p.addr = 2) = some p)
    (hcrc : p.hcrc = p.crc) (hm : p.malformed = false)
    (ht : ((s.withoutPkt s.sch.args.ep p).ep s.sch.args.ep).send? p.stream = none) :
    exec .closedReceive s = .next (s.withoutPkt s.sch.args.ep p) := by
  refine congrArg _ ((s.takePkt_good _ _ hp hcrc hm).trans ?_)
  simp only [ht]

end Sys2Proof.Machine

section
open Sys2Proof Sys2Proof.Machine

/-- Settles O51: the first operation to open is of the most urgent note, since a list put in order begins with its least element; the
other clauses are the rules above, one per case of each step. -/
theorem streamSource : Obligations.StreamSource := by
  unfold Obligations.StreamSource
  intro s
  refine ⟨?opens, fun p hp => ⟨refuseReceive_badCrc s hp, refuseReceive_good s hp⟩, ?sends, ?grants, ?asks, ?acks, ?closes⟩
  case opens =>
    intro i w hi hw
    have hfirst := headLeast_sortBy (fun t : SendStream => t.cls.code) (s.ep s.sch.args.ep).wants w hw
    refine ⟨s.sendEntry s.sch.args.ep i w, s.choosePath w.dst (s.newStream s.sch.args.ep w), rfl, fun hnone => ?_, fun hsome => ?_,
      rfl, fun id => s.newStream_act _, s.newStream_lt _, (mem_sortBy _ _ _).mp (List.mem_of_head? hw),
      fun v hv => hfirst v ((mem_sortBy _ _ _).mpr hv)⟩
    · rw [streamOpen_first s hi hw, if_pos (by simp [hnone])]; rfl
    · rw [streamOpen_first s hi hw, if_neg (by simpa using hsome)]; rfl
  case sends =>
    intro t ht
    refine ⟨openRetry_due s ht, packetSend_held s ht, fun q rest final ho hl hn => packetSend_tokens s ht ho hl hn,
      fun id q tag v rest ho hl hn => packetSend_act s ht ho hl hn, fun src dst left ho hl hn => packetSend_copy s ht ho hl hn,
      fun q l => retransmit_oldest s ht, fun q hq => ?_⟩
    rw [retransmissionTimeout_kept s ht hq]
    exact ⟨fun hdue => by rw [if_pos hdue], fun hearly => by rw [if_neg (Nat.not_le.mpr hearly)]⟩
  case grants =>
    intro p hp hcrc hm
    refine ⟨grantReceive_none s hp hcrc hm, fun t ht =>
      ⟨fun hdst => if_pos hdst, _, grantReceive_stream s hp hcrc hm ht, fun t => ?_⟩⟩
    exact ⟨Nat.le_max_left _ _, rfl, fun hst => if_pos hst, rfl, rfl⟩
  case asks =>
    intro p hp hcrc hm
    refine ⟨_, rreqReceive_good s hp hcrc hm, fun t => ?_⟩
    obtain ⟨htrims, hnext, hlimit⟩ := t.askedFor_counts p.seq p.tcnt (s.epCycle s.sch.args.ep)
    exact ⟨htrims, hnext, hlimit, SendStream.askedFor_kept _ _, SendStream.askedFor_notKept _ _⟩
  case acks =>
    intro p hp hcrc hm
    refine ⟨_, ackReceive_good s hp hcrc hm, fun t => ⟨fun q hq => ?_, rfl, fun q hq hout => ?_⟩⟩
    · obtain ⟨hmem, hcov⟩ := List.mem_filter.mp hq
      exact ⟨hmem, le_of_not_ackCovers (by simpa using hcov)⟩
    · exact List.mem_filter.mpr ⟨hq, by simp [not_ackCovers _ hout]⟩
  case closes =>
    intro p hp hcrc hm
    exact ⟨fun t => closedReceive_stream s hp hcrc hm, closedReceive_none s hp hcrc hm⟩

end
end

section
/-!
PROOF of O52. The receiver's side of a stream (R35 to R37, R39 to R42, R47) and a link that goes down (R55, R56): one lemma per case of
each step of a receive-table entry, what the stream registers latch, and that neither the new paths nor the records of those lost touch
a link port.
-/

namespace Sys2Proof.Machine

/-! ## The OPEN of a stream (R35) -/

section
variable (s : State) {p : Pkt} (hp : (s.ep s.sch.args.ep).inbox.find? (fun p => p.kind = 6 && p.addr = 0) = some p)
  (hcrc : p.hcrc = p.crc) (hm : p.malformed = false)
include hp hcrc hm

/-- OPEN_RECEIVE of a stream that has an entry grants it again. -/
theorem openReceive_again {r : RecvStream}
    (hr : ((s.withoutPkt s.sch.args.ep p).ep s.sch.args.ep).recv? p.from p.stream = some r) :
    exec .openReceive s = .next ((s.withoutPkt s.sch.args.ep p).sendGrant s.sch.args.ep p.from p.stream) := by
  refine congrArg _ ((s.takePkt_good _ _ hp hcrc hm).trans ?_)
  simp only [hr]

/-- OPEN_RECEIVE with a full table refuses. -/
theorem openReceive_full (hr : ((s.withoutPkt s.sch.args.ep p).ep s.sch.args.ep).recv? p.from p.stream = none)
    (hi : freeIndex (((s.withoutPkt s.sch.args.ep p).ep s.sch.args.ep).recvs.map fun t => t.index) = none) :
    exec .openReceive s = .next ((s.withoutPkt s.sch.args.ep p).sendPkt s.sch.args.ep p.from
      { kind := 6, addr := 3, cls := p.cls, ord := p.ord, ctx := p.ctx, stream := p.stream }) := by
  refine congrArg _ ((s.takePkt_good _ _ hp hcrc hm).trans ?_)
  simp only [hr, hi]

/-- The entry that an endpoint makes of an OPEN: its own window and KMAX, nothing delivered. -/
def State.recvEntry (s : State) (k i : Nat) (p : Pkt) : RecvStream :=
  { index := i, src := p.from, stream := p.stream, cls := Note.ofCode p.cls, ord := p.ord, ctx := p.ctx,
    win := (s.ep k).win.toNat, kmax := (s.ep k).kmax, via := (s.choosePath p.from p.stream).getD none }

/-- OPEN_RECEIVE with a free entry makes the stream's and grants it. -/
theorem openReceive_new {i : Nat} (hr : ((s.withoutPkt s.sch.args.ep p).ep s.sch.args.ep).recv? p.from p.stream = none)
    (hi : freeIndex (((s.withoutPkt s.sch.args.ep p).ep s.sch.args.ep).recvs.map fun t => t.index) = some i) :
    exec .openReceive s = .next (((s.withoutPkt s.sch.args.ep p).updEp s.sch.args.ep fun e =>
      { e with recvs := e.recvs ++ [(s.withoutPkt s.sch.args.ep p).recvEntry s.sch.args.ep i p] }).sendGrant
        s.sch.args.ep p.from p.stream) := by
  refine congrArg _ ((s.takePkt_good _ _ hp hcrc hm).trans ?_)
  simp only [hr, hi]
  rfl

end

/-! ## Whole packets (R29, R35, R39, R41) -/

/-- A header of no kind that R27 and R28 define is malformed. -/
theorem Pkt.malformed_of_unknown {p : Pkt} (h : p.unknown = true) : p.malformed = true := by
  simp only [Pkt.unknown, Bool.or_eq_true, Bool.and_eq_true, decide_eq_true_eq] at h
  rcases h with hkind | ⟨hkind, haddr⟩
  · simp [Pkt.malformed, hkind]
  · simp [Pkt.malformed, hkind, haddr]

/-- A data packet of no stream here is discarded. -/
theorem State.checkAtEp_none (s : State) (k : Nat) {p : Pkt} (go : RecvStream → Nat → State)
    (hr : (s.ep k).recv? p.from p.stream = none) : s.checkAtEp k p go = s.discardAtEp k false := by
  simp only [State.checkAtEp, hr]

/-- One of the stream's ORD, below its limit, whose ADDR is right goes on. -/
theorem State.checkAtEp_good (s : State) (k : Nat) {p : Pkt} {r : RecvStream} (go : RecvStream → Nat → State)
    (hr : (s.ep k).recv? p.from p.stream = some r) (hord : p.ord = r.ord) (hlimit : absSeq r.cum p.seq < r.limit)
    (haddr : s.badAddr k p = false) : s.checkAtEp k p go = go r (absSeq r.cum p.seq) := by
  have hgood : ¬ (p.ord ≠ r.ord || r.limit ≤ absSeq r.cum p.seq || s.badAddr k p) = true := by
    have hbelow : decide (r.limit ≤ absSeq r.cum p.seq) = false := decide_eq_false (Nat.not_le.mpr hlimit)
    simp only [hord, hbelow, haddr, ne_eq, not_true_eq_false, decide_false, Bool.or_self, Bool.false_eq_true, not_false_eq_true]
  simp only [State.checkAtEp, hr, if_neg hgood]

section
variable (s : State) {p : Pkt}
  (hp : (s.ep s.sch.args.ep).inbox.find? (fun p => (p.dataKind && !p.trim) || p.unknown) = some p) (hcrc : p.hcrc = p.crc)
include hp hcrc

/-- DATA_PACKET_RECEIVE discards a header of no kind. -/
theorem dataPacketReceive_unknown (hu : p.unknown = true) :
    exec .dataPacketReceive s = .next ((s.withoutPkt s.sch.args.ep p).discardAtEp s.sch.args.ep false) :=
  congrArg _ (s.takePkt_malformed _ _ hp hcrc (Pkt.malformed_of_unknown hu))

variable (hm : p.malformed = false)
include hm

/-- DATA_PACKET_RECEIVE discards a packet of a stream not open here. -/
theorem dataPacketReceive_noStream (hr : ((s.withoutPkt s.sch.args.ep p).ep s.sch.args.ep).recv? p.from p.stream = none) :
    exec .dataPacketReceive s = .next ((s.withoutPkt s.sch.args.ep p).discardAtEp s.sch.args.ep false) :=
  congrArg _ ((s.takePkt_good _ _ hp hcrc hm).trans (State.checkAtEp_none _ _ _ hr))

section
variable {r : RecvStream} (hr : ((s.withoutPkt s.sch.args.ep p).ep s.sch.args.ep).recv? p.from p.stream = some r)
  (hord : p.ord = r.ord) (hlimit : absSeq r.cum p.seq < r.limit)
  (haddr : (s.withoutPkt s.sch.args.ep p).badAddr s.sch.args.ep p = false)
include hr hord hlimit haddr

/-- DATA_PACKET_RECEIVE of a SEQ already received counts a duplicate. -/
theorem dataPacketReceive_duplicate (hhas : r.has (absSeq r.cum p.seq) = true) (hretx : p.retx = false) :
    exec .dataPacketReceive s = .next ((s.withoutPkt s.sch.args.ep p).updRecv s.sch.args.ep p.from p.stream fun r =>
      { r with dups := satInc r.dups }) := by
  refine congrArg _ ((s.takePkt_good _ _ hp hcrc hm).trans ((State.checkAtEp_good _ _ _ hr hord hlimit haddr).trans ?_))
  simp only [hhas, hretx, if_true, Bool.false_eq_true, if_false]

/-- A stream that counts a packet sent again. -/
def RecvStream.countRetx (p : Pkt) (r : RecvStream) : RecvStream := if p.retx then { r with retx := satInc r.retx } else r

/-- A stream that holds a new packet `p` of SEQ `n` from cycle `now` on. -/
def RecvStream.hold (p : Pkt) (n now : Nat) (r : RecvStream) : RecvStream :=
  let r := (r.countRetx p).fillHole n
  { r with held := r.held ++ [p], last := if p.last then some n else r.last, since := if r.unacked then r.since else now, unacked := true }

/-- DATA_PACKET_RECEIVE of a new SEQ holds the packet. -/
theorem dataPacketReceive_new (hhas : r.has (absSeq r.cum p.seq) = false) :
    exec .dataPacketReceive s = .next (((s.withoutPkt s.sch.args.ep p).updRecv s.sch.args.ep p.from p.stream
      (RecvStream.hold p (absSeq r.cum p.seq) (s.epCycle s.sch.args.ep))).ackIfDue s.sch.args.ep p.from p.stream) := by
  refine congrArg _ ((s.takePkt_good _ _ hp hcrc hm).trans ((State.checkAtEp_good _ _ _ hr hord hlimit haddr).trans ?_))
  simp only [hhas, Bool.false_eq_true, if_false]
  rfl

end
end

/-- A stream that holds a new packet keeps its point and its limit. -/
theorem RecvStream.hold_keeps (p : Pkt) (n now : Nat) (r : RecvStream) :
    (r.hold p n now).held = r.held ++ [p] ∧ (r.hold p n now).cum = r.cum ∧ (r.hold p n now).limit = r.limit ∧
      (r.hold p n now).unacked = true := by
  unfold RecvStream.hold RecvStream.countRetx RecvStream.fillHole
  cases p.retx <;> exact ⟨rfl, rfl, rfl, rfl⟩

/-! ## Holes and re-requests (R37, R41, R42) -/

/-- The hole of a trimmed header that came at a cycle, starved at TCNT of KMAX or more. -/
def RecvStream.holeOf (r : RecvStream) (p : Pkt) (now : Nat) : Hole :=
  { seq := absSeq r.cum p.seq, tcnt := p.tcnt, tag := p.tag, addr := p.addr, kind := p.kind, born := now,
    starved := decide (r.kmax.toNat ≤ p.tcnt) }

/-- A stream that counts the trim of a header and takes its hole in. -/
def RecvStream.addHole (p : Pkt) (h : Hole) (r : RecvStream) : RecvStream :=
  { r.countRetx p with trims := satInc (r.countRetx p).trims, holes := (r.countRetx p).holes.filter (fun q => q.seq ≠ h.seq) ++ [h],
                       st := if h.starved then .starved else (r.countRetx p).st }

/-- A stream that takes a hole in counts the trim, keeps what it holds, and is starved by a starved hole. -/
theorem RecvStream.addHole_fields (p : Pkt) (h : Hole) (r : RecvStream) :
    (r.addHole p h).trims = satInc r.trims ∧ (r.addHole p h).held = r.held ∧ (h.starved = true → (r.addHole p h).st = .starved) ∧
      (r.addHole p h).holes = (r.holes.filter fun q => q.seq ≠ h.seq) ++ [h] := by
  unfold RecvStream.addHole RecvStream.countRetx
  cases p.retx <;> exact ⟨rfl, rfl, fun hs => if_pos hs, rfl⟩

/-- TRIMMED_HEADER_RECEIVE of a SEQ not received records its hole, with LINK_STARVE at TCNT of KMAX or more. -/
theorem trimmedHeaderReceive_hole (s : State) {p : Pkt} {r : RecvStream}
    (hp : (s.ep s.sch.args.ep).inbox.find? (fun p => p.dataKind && p.trim) = some p) (hcrc : p.hcrc = p.crc) (hm : p.malformed = false)
    (hr : ((s.withoutPkt s.sch.args.ep p).ep s.sch.args.ep).recv? p.from p.stream = some r)
    (hord : p.ord = r.ord) (hlimit : absSeq r.cum p.seq < r.limit)
    (haddr : (s.withoutPkt s.sch.args.ep p).badAddr s.sch.args.ep p = false) (hhas : r.has (absSeq r.cum p.seq) = false)
    (hfed : ∀ h ∈ r.holes, h.starved = false) :
    exec .trimmedHeaderReceive s = .next (
      let u := (s.withoutPkt s.sch.args.ep p).updRecv s.sch.args.ep p.from p.stream
        (RecvStream.addHole p (r.holeOf p (s.epCycle s.sch.args.ep)))
      if r.kmax.toNat ≤ p.tcnt then u.linkStarve s.sch.args.ep r p else u) := by
  have hany : r.holes.any (fun h => h.seq = absSeq r.cum p.seq && h.starved) = false := by simpa using fun h hh _ => hfed h hh
  refine congrArg _ ((s.takePkt_good _ _ hp hcrc hm).trans ((State.checkAtEp_good _ _ _ hr hord hlimit haddr).trans ?_))
  refine (if_neg (by rw [hhas]; decide)).trans ((if_neg (by rw [hany]; decide)).trans ?_)
  by_cases hk : r.kmax.toNat ≤ p.tcnt
  · exact (if_pos (decide_eq_true hk)).trans (if_pos hk).symm
  · exact (if_neg (by simp [hk])).trans (if_neg hk).symm

/-- The pacer may send the RREQ of a stream's oldest hole: fewer than 8 are out, its header came a cycle ago, the gap to its source has
passed, and no hole of that source is older. -/
theorem State.rreqReady_oldest (s : State) (k : Nat) {r : RecvStream} {h : Hole} (hnext : r.nextRreq = some h)
    (hout : (r.holes.filter fun q => q.sent).length < 8)
    (hold : ∀ q ∈ (s.ep k).recvs, q.src = r.src → ∀ g, q.pendingRreq = some g → h.born ≤ g.born)
    (hborn : h.born + 1 ≤ s.epCycle k)
    (hgap : look 0 (s.ep k).paced r.src = 0 ∨
      look 0 (s.ep k).paced r.src - 1 + (s.ep k).gap.toNat * 2 ^ (h.tcnt - 1) ≤ s.epCycle k) : s.rreqReady k r = some h := by
  have hpending : r.pendingRreq = some h := by rw [RecvStream.pendingRreq, if_neg (Nat.not_le.mpr hout), hnext]
  have hfirst : (s.ep k).recvs.all (fun q => q.src ≠ r.src ||
      (q.pendingRreq.map (fun g => decide (h.born ≤ g.born))).getD true) = true := by
    refine List.all_eq_true.mpr fun q hq => ?_
    by_cases hsrc : q.src = r.src
    · cases hg : q.pendingRreq with
      | none => simp
      | some g => simp [hold q hq hsrc g hg]
    · simp [hsrc]
  simp only [State.rreqReady, hpending, Option.filter, hborn, hfirst]
  simp [hgap]

/-- RREQ_SEND sends the RREQ that the pacer may send, and marks its hole. -/
theorem rreqSend_ready (s : State) {r : RecvStream} {h : Hole}
    (hr : (s.ep s.sch.args.ep).recv? s.sch.args.src s.sch.args.stream = some r) (hh : s.rreqReady s.sch.args.ep r = some h) :
    exec .rreqSend s = .next (((s.updRecv s.sch.args.ep s.sch.args.src s.sch.args.stream fun r => { r with
      holes := changeFirst (fun q => q.seq = h.seq) (fun q => { q with sent := true }) r.holes }).updEp s.sch.args.ep fun e =>
        { e with paced := put 0 s.sch.args.src (s.epCycle s.sch.args.ep + 1) e.paced }).sendPkt s.sch.args.ep s.sch.args.src
          { kind := 2, cls := r.cls.code, ord := r.ord, ctx := r.ctx, stream := s.sch.args.stream, seq := h.seq % 2 ^ 24,
            tcnt := h.tcnt }) := by
  simp only [exec, execRreqSend, hr, hh]

/-! ## Delivery, acknowledgement and closing (R36, R39, R40) -/

section
variable (s : State) {r : RecvStream} (hr : (s.ep s.sch.args.ep).recv? s.sch.args.src s.sch.args.stream = some r)
include hr

/-- PACKET_DELIVER with nothing to deliver changes nothing. -/
theorem packetDeliver_nothing (hp : r.deliverable = none) : exec .packetDeliver s = .next s := by
  simp only [exec, execPacketDeliver, hr, hp]

/-- Nor with a packet that must wait. -/
theorem packetDeliver_waits {p : Pkt} (hp : r.deliverable = some p) (hw : s.deliver s.sch.args.ep p = none) :
    exec .packetDeliver s = .next s := by
  simp only [exec, execPacketDeliver, hr, hp, hw]

/-- The regions into which a packet of a MIGR stream is delivered (R177). -/
def State.migrRegion (s : State) (p : Pkt) : List Nat :=
  if p.kind = 5 && p.addr ≠ 0 then ((s.migrOwner p.ctx p.addr).map fun g => g.id).toList else []

/-- A stream that has delivered a packet of SEQ `n`: no longer held, and counted towards the cumulative point. -/
def RecvStream.delivered (p : Pkt) (n : Nat) (fed : List Nat) (r : RecvStream) : RecvStream :=
  ({ r with held := dropFirst (fun q => q = p) r.held, fed := distinct (r.fed ++ fed) } : RecvStream).count n

/-- What an endpoint sends once a packet is delivered: a GRANT 4 SEQs past the last, an ACK of the last packet, CLOSED where all is
done. -/
def State.answerDelivery (s : State) (k src stream granted : Nat) (last : Bool) : State :=
  let c := (((s.ep k).recv? src stream).map RecvStream.cum).getD 0
  let s := if granted + 4 ≤ c then s.sendGrant k src stream else s
  let s := if last then s.sendAck k src stream else s
  s.closeIfDone k src stream

/-- PACKET_DELIVER of a packet whose delivery leaves `u`: the stream counts it and, unless local, answers. -/
theorem packetDeliver_delivers {p : Pkt} {u : State} (hp : r.deliverable = some p) (hu : s.deliver s.sch.args.ep p = some u) :
    exec .packetDeliver s = .next (
      let v := u.updRecv s.sch.args.ep s.sch.args.src s.sch.args.stream
        (RecvStream.delivered p (absSeq r.cum p.seq) (s.migrRegion p))
      if 65536 ≤ s.sch.args.stream then v
      else v.answerDelivery s.sch.args.ep s.sch.args.src s.sch.args.stream r.granted p.last) := by
  simp only [exec, execPacketDeliver, hr, hp, hu]
  split <;> rfl

/-- ACK_TIMER acknowledges what has waited 256 cycles. -/
theorem ackTimer_due (hu : r.unacked = true) (hd : r.since + 256 ≤ s.epCycle s.sch.args.ep) :
    exec .ackTimer s = .next (s.sendAck s.sch.args.ep s.sch.args.src s.sch.args.stream) := by
  simp [exec, execAckTimer, hr, hu, hd]

/-- ACK_TIMER before that changes nothing. -/
theorem ackTimer_early (hd : s.epCycle s.sch.args.ep < r.since + 256) : exec .ackTimer s = .next s := by
  have hearly : decide (r.since + 256 ≤ s.epCycle s.sch.args.ep) = false := decide_eq_false (Nat.not_le.mpr hd)
  simp only [exec, execAckTimer, hr, hearly, Bool.and_false, Bool.false_eq_true, if_false]

end

section
variable (s : State) {p : Pkt} (hp : (s.ep s.sch.args.ep).inbox.find? (fun p => p.kind = 6 && p.addr = 1) = some p)
  (hcrc : p.hcrc = p.crc) (hm : p.malformed = false)
include hp hcrc hm

/-- CLOSE_RECEIVE of a stream not open here discards it. -/
theorem closeReceive_noStream (hr : ((s.withoutPkt s.sch.args.ep p).ep s.sch.args.ep).recv? p.from p.stream = none) :
    exec .closeReceive s = .next ((s.withoutPkt s.sch.args.ep p).discardAtEp s.sch.args.ep false) := by
  refine congrArg _ ((s.takePkt_good _ _ hp hcrc hm).trans ?_)
  simp only [hr]

/-- CLOSE_RECEIVE of an open stream: discarded with another ORD, else noted, and answered where every SEQ is delivered. -/
theorem closeReceive_stream {r : RecvStream}
    (hr : ((s.withoutPkt s.sch.args.ep p).ep s.sch.args.ep).recv? p.from p.stream = some r) :
    exec .closeReceive s = .next (
      if p.ord ≠ r.ord then (s.withoutPkt s.sch.args.ep p).discardAtEp s.sch.args.ep false
      else ((s.withoutPkt s.sch.args.ep p).updRecv s.sch.args.ep p.from p.stream fun r => { r with closeAsked := true }).closeIfDone
        s.sch.args.ep p.from p.stream) := by
  refine congrArg _ ((s.takePkt_good _ _ hp hcrc hm).trans ?_)
  simp only [hr]

end

/-! ## The cumulative point (R36) -/

/-- The point never goes back. -/
theorem le_advanceCum (seen : List Nat) (n c : Nat) : c ≤ advanceCum seen n c := by
  induction n generalizing c with
  | zero => exact Nat.le_refl c
  | succ n ih =>
    rw [advanceCum]
    split
    · exact Nat.le_trans (Nat.le_succ c) (ih (c + 1))
    · exact Nat.le_refl c

/-- It passes a SEQ that has been seen. -/
theorem lt_advanceCum {seen : List Nat} {c : Nat} (h : c ∈ seen) : c < advanceCum seen seen.length c := by
  obtain ⟨n, hn⟩ := Nat.exists_eq_succ_of_ne_zero (Nat.ne_of_gt (List.length_pos_of_mem h))
  rw [hn, advanceCum, if_pos (List.contains_iff_mem.mpr h)]
  exact le_advanceCum seen n (c + 1)

/-! ## The stream registers (R42, R47) -/

/-- A bit of a word is the bit of its number. -/
theorem bit_toNat {w : Nat} (v : BitVec w) (i : Nat) : bit v.toNat i = v.getLsbD i := by
  rw [bit, BitVec.getLsbD, Nat.testBit_eq_decide_div_mod_eq]
  rfl

/-- The low bits of a word are those of its number. -/
theorem bits_toNat_low {w : Nat} (v : BitVec w) (n : Nat) : bits v.toNat n 0 = (v.extractLsb' 0 (n + 1)).toNat := by
  simp [bits]

/-- Bit `i` of a number in its place. -/
theorem and_bit (x i : Nat) : x &&& 2 ^ i = bitOf (bit x i) * 2 ^ i := by
  have hbit : bit x i = x.testBit i := by
    rw [Nat.testBit_eq_decide_div_mod_eq]
    rfl
  apply Nat.eq_of_testBit_eq
  intro j
  rw [Nat.testBit_and, Nat.testBit_two_pow, hbit]
  by_cases hj : i = j
  · subst hj
    cases x.testBit i
    · simp only [bitOf, Bool.false_and, Bool.false_eq_true, if_false, Nat.zero_mul, Nat.zero_testBit]
    · simp only [bitOf, decide_true, Bool.and_self, if_true, Nat.one_mul, Nat.testBit_two_pow]
  · cases x.testBit i
    · simp only [bitOf, hj, decide_false, Bool.and_false, Bool.false_eq_true, if_false, Nat.zero_mul, Nat.zero_testBit]
    · simp only [bitOf, hj, decide_false, Bool.and_false, if_true, Nat.one_mul, Nat.testBit_two_pow]

/-- Bit 31 and bits [8:0] of a number are what the mask of NET_STREAM_SEL keeps. -/
theorem and_streamSel (x : Nat) : x &&& 0x800001FF = bitOf (bit x 31) * 2 ^ 31 + bits x 8 0 := by
  have hmask : 0x800001FF = 2 ^ 31 ||| (2 ^ 9 - 1) := by decide
  have hlow : x % 2 ^ 9 < 2 ^ 31 := Nat.lt_trans (Nat.mod_lt _ (by decide)) (by decide)
  rw [hmask, Nat.and_or_distrib_left, and_bit, Nat.and_two_pow_sub_one_eq_mod, Nat.mul_comm, ← Nat.two_pow_add_eq_or_of_lt hlow, bits,
    Nat.pow_zero, Nat.div_one]

/-- NET_STREAM_SEL holds the table and the index that a write selects. -/
theorem streamSel_written (v : Dword) :
    BitVec.ofNat 32 (bitOf (bit v.toNat 31) * 2 ^ 31 + bits v.toNat 8 0) = v.setWidth 32 &&& 0x800001FF := by
  apply BitVec.eq_of_toNat_eq
  rw [← and_streamSel]
  simp

section
variable (r : RecvStream)

/-- The words of a receive entry whose fields the rules below read. -/
theorem RecvStream.stats_state : r.stats.getD 0 0 =
    r.stateCode * 2 ^ 30 + bitOf r.ord * 2 ^ 29 + r.cls.code * 2 ^ 27 + r.holes.length * 2 ^ 18 + r.stream := rfl

theorem RecvStream.stats_trims : r.stats.getD 1 0 = r.trims.toNat * 2 ^ 16 + r.retx.toNat := rfl

theorem RecvStream.stats_dups : r.stats.getD 3 0 = r.dups.toNat := rfl

/-- STAT0 [15:0] of a receive entry is its STREAM. -/
theorem RecvStream.stat0_stream : (BitVec.ofNat 32 (r.stats.getD 0 0)).extractLsb' 0 16 = BitVec.ofNat 16 r.stream := by
  apply BitVec.eq_of_toNat_eq
  rw [r.stats_state, BitVec.extractLsb'_toNat, BitVec.toNat_ofNat, BitVec.toNat_ofNat, Nat.shiftRight_zero]
  omega

/-- STAT1 of a receive entry is its count of trims above that of packets sent again. -/
theorem RecvStream.stat1_counts : BitVec.ofNat 32 (r.stats.getD 1 0) = r.trims ++ r.retx := by
  apply BitVec.eq_of_toNat_eq
  have htrims := r.trims.isLt
  have hretx := r.retx.isLt
  rw [r.stats_trims, BitVec.toNat_append, BitVec.toNat_ofNat, Nat.shiftLeft_eq, Nat.mod_eq_of_lt (by omega), Nat.mul_comm,
    Nat.two_pow_add_eq_or_of_lt hretx]

end

/-- The words that a write of NET_STREAM_SEL latches (R47). -/
def State.latchedStats (s : State) (k : Nat) (v : Dword) : List Nat :=
  if v.getLsbD 31 then (((s.ep k).sends.find? (fun t => t.index = (v.extractLsb' 0 9).toNat)).map SendStream.stats).getD []
  else (((s.ep k).recvs.find? (fun t => t.index = (v.extractLsb' 0 9).toNat)).map RecvStream.stats).getD []

/-- A write of NET_STREAM_SEL that selects a receive entry latches its words. -/
theorem State.latchedStats_recv (s : State) (k : Nat) {v : Dword} {r : RecvStream} (h : v.getLsbD 31 = false)
    (hr : (s.ep k).recvs.find? (fun t => t.index = (v.extractLsb' 0 9).toNat) = some r) : s.latchedStats k v = r.stats := by
  simp only [State.latchedStats, h, hr, Bool.false_eq_true, if_false, Option.map_some, Option.getD_some]

/-- STREAM_SELECT latches the words of the entry selected. -/
theorem streamSelect_latches (s : State) :
    exec .streamSelect s = .next (s.updEp s.sch.args.ep fun e => { e with
      sel := s.sch.args.value.setWidth 32 &&& 0x800001FF
      stat0 := BitVec.ofNat 32 ((s.latchedStats s.sch.args.ep s.sch.args.value).getD 0 0)
      stat1 := BitVec.ofNat 32 ((s.latchedStats s.sch.args.ep s.sch.args.value).getD 1 0)
      stat2 := BitVec.ofNat 32 ((s.latchedStats s.sch.args.ep s.sch.args.value).getD 2 0)
      stat3 := BitVec.ofNat 32 ((s.latchedStats s.sch.args.ep s.sch.args.value).getD 3 0) }) := by
  rw [← streamSel_written]
  simp only [exec, execStreamSelect, State.selectStream, State.latchedStats, bit_toNat, bits_toNat_low]

/-- The STARVED receive entry that NET_STREAM_SEL selects. -/
theorem State.selectedStarved_recv (s : State) (k : Nat) (h : (s.ep k).sel.getLsbD 31 = false) :
    s.selectedStarved k = (s.ep k).recvs.find? fun t => t.index = ((s.ep k).sel.extractLsb' 0 9).toNat && t.st = .starved := by
  simp only [State.selectedStarved, bit_toNat, h, bits_toNat_low, Bool.false_eq_true, if_false]

/-- STREAM_RESUME reopens the selected entry, each starved hole to be asked for again with TCNT 0. -/
theorem streamResume_selected (s : State) {r : RecvStream} (hr : s.selectedStarved s.sch.args.ep = some r) :
    exec .streamResume s = .next (s.updRecv s.sch.args.ep r.src r.stream fun r => { r with st := .open, holes := r.holes.map fun h =>
      if h.starved then { h with starved := false, sent := false, tcnt := 0 } else h }) := by
  simp only [exec, execStreamResume, hr]

/-- STREAM_ABORT frees the selected entry. -/
theorem streamAbort_selected (s : State) {r : RecvStream} (hr : s.selectedStarved s.sch.args.ep = some r) :
    exec .streamAbort s = .next (s.abortRecv s.sch.args.ep r) := by
  simp only [exec, execStreamAbort, hr]

/-! ## What a link that goes down leaves of the link ports (R55, R56, R62) -/

/-- The link ports of a state, and what the hubs have told of other modules' links. -/
def State.linksAre (links : Assoc Link) (far : List (Nat × Nat)) (s : State) : Prop := s.links = links ∧ s.farDown = far

/-- What a state's link ports are does not depend on memory or the hub. -/
theorem ignoresMemory_linksAre (links : Assoc Link) (far : List (Nat × Nat)) : IgnoresMemory (State.linksAre links far) :=
  ⟨fun _ _ _ _ h => h, fun _ _ _ h => h, fun _ _ h => h⟩

section
variable {links : Assoc Link} {far : List (Nat × Nat)} {s : State} (h : s.linksAre links far)
include h

/-- A stream's end tells its operation, and no link port. -/
theorem State.streamEnded_linksAre (t : SendStream) (ok : Bool) : (s.streamEnded t ok).linksAre links far := by
  unfold State.streamEnded
  split
  case h_2 => split <;> exact h
  all_goals exact h

/-- The record of a stream with no path left, and its end. -/
theorem State.losePath_linksAre (k : Nat) (t : SendStream) : (s.losePath k t).linksAre links far :=
  State.streamEnded_linksAre (s := (s.linkDown t.ctx k t.dst t.stream t.next).dropSend k t.stream)
    ((ignoresMemory_linksAre links far).putFault _ h) t false

/-- A send stream put on its new path. -/
theorem State.rerouteSend_linksAre (k : Nat) (t : SendStream) : (s.rerouteSend k t).linksAre links far := by
  unfold State.rerouteSend
  split
  · exact h
  · split
    · exact h
    · exact State.losePath_linksAre h k t

/-- The send streams of an endpoint put on their new paths. -/
theorem State.rerouteSends_linksAre (k : Nat) (l : List SendStream) :
    (l.foldl (fun s t => s.rerouteSend k t) s).linksAre links far :=
  foldl_keeps (State.linksAre links far) _ (fun _ t hs => State.rerouteSend_linksAre hs k t) l s h

/-- A receive stream put on its new path. -/
theorem State.rerouteRecv_linksAre (k : Nat) (r : RecvStream) : (s.rerouteRecv k r).linksAre links far := by
  unfold State.rerouteRecv
  split
  · exact h
  · split <;> exact h

/-- The receive streams of an endpoint put on their new paths. -/
theorem State.rerouteRecvs_linksAre (k : Nat) (l : List RecvStream) :
    (l.foldl (fun s r => s.rerouteRecv k r) s).linksAre links far :=
  foldl_keeps (State.linksAre links far) _ (fun _ r hs => State.rerouteRecv_linksAre hs k r) l s h

/-- A collective that has lost a member. -/
theorem State.loseColl_linksAre (c : Coll) : (s.loseColl c).linksAre links far := by
  unfold State.loseColl
  split
  · exact h
  · split
    · exact h
    · exact (ignoresMemory_linksAre links far).putFault _ h

/-- What waited at a link's output put back into the hub switch. -/
theorem State.requeue_linksAre (link : Nat) : (s.requeue link).linksAre links far :=
  foldl_keeps (State.linksAre links far) (fun s p => s.intoSwitch 192 (16 + link) p) (fun _ _ hs => hs) _ _ h

end

/-- Every stream and collective of the module put on the path that it has now (R56, R62). -/
def State.newPaths (s : State) : State :=
  let s := s.eps.foldl (fun s q => q.2.sends.foldl (fun s t => s.rerouteSend q.1 t) s) s
  let s := s.eps.foldl (fun s q => q.2.recvs.foldl (fun s r => s.rerouteRecv q.1 r) s) s
  s.colls.foldl State.loseColl s

/-- New paths leave the link ports. -/
theorem State.newPaths_linksAre {links : Assoc Link} {far : List (Nat × Nat)} {s : State} (h : s.linksAre links far) :
    s.newPaths.linksAre links far := by
  refine foldl_keeps (State.linksAre links far) _ (fun _ c hs => State.loseColl_linksAre hs c) _ _ ?_
  refine foldl_keeps (State.linksAre links far) _ (fun _ q hs => State.rerouteRecvs_linksAre hs q.1 q.2.recvs) _ _ ?_
  exact foldl_keeps (State.linksAre links far) _ (fun _ q hs => State.rerouteSends_linksAre hs q.1 q.2.sends) _ _ h

/-- LINK_DOWN with `flag` takes what the hubs tell of other modules' links, and finds the paths anew. -/
theorem linkDown_far (s : State) (hf : s.sch.args.flag = true) :
    exec .linkDown s = .next ({ s with farDown := farPairs s.sch.args.list } : State).newPaths := by
  simp only [exec, execLinkDown, hf, if_true]
  rfl

/-- The state in which a link port has gone DOWN, its peer's slots free and the far links as told, before the paths are found anew. -/
def State.portDown (s : State) (link : Nat) (far : List (Nat × Nat)) : State :=
  { s with links := upd {} link (fun l => { l with st := .down, slots := 0 }) s.links, farDown := far }

/-- LINK_DOWN of a port that is not DOWN puts it DOWN with its event, puts back what waited for it, and finds the paths anew. -/
theorem linkDown_port (s : State) (hf : s.sch.args.flag = false) (hlink : s.sch.args.link < 18)
    (hst : (look {} s.links s.sch.args.link).st ≠ .down) :
    exec .linkDown s = .next (((s.portDown s.sch.args.link (farPairs s.sch.args.list)).event 0x0003 s.sch.args.link
      ((s.portDown s.sch.args.link (farPairs s.sch.args.list)).lnkStatus s.sch.args.link)).requeue s.sch.args.link).newPaths := by
  have hgo : ¬ (18 ≤ s.sch.args.link || (look {} s.links s.sch.args.link).st = .down) = true := by
    simp only [Bool.or_eq_true, decide_eq_true_eq]
    exact not_or.mpr ⟨Nat.not_le.mpr hlink, hst⟩
  simp only [exec, execLinkDown, hf, Bool.false_eq_true, if_false, if_neg hgo]
  rfl

/-- It leaves the other ports, and the port DOWN. -/
theorem linkDown_links (s : State) (hf : s.sch.args.flag = false) (hlink : s.sch.args.link < 18)
    (hst : (look {} s.links s.sch.args.link).st ≠ .down) :
    ∃ t, exec .linkDown s = .next t ∧ t.linksAre
      (upd {} s.sch.args.link (fun l => { l with st := .down, slots := 0 }) s.links) (farPairs s.sch.args.list) := by
  refine ⟨_, linkDown_port s hf hlink hst, State.newPaths_linksAre (State.requeue_linksAre ?_ _)⟩
  exact (ignoresMemory_linksAre _ _).event _ _ _ ⟨rfl, rfl⟩

end Sys2Proof.Machine

section
open Sys2Proof Sys2Proof.Machine

/-- Settles O52: each clause is one of the rules above; LINK_DOWN leaves the link ports but the one that goes DOWN, because the new paths
and the records of what is lost write no link port. -/
theorem streamReceiver : Obligations.StreamReceiver := by
  unfold Obligations.StreamReceiver
  refine ⟨fun s => ⟨?opens, ?discards, ?whole, ?trimmed, ?asks, ?delivers, ?closes, ?selects, ?resumes, ?far, ?down⟩,
    fun r n => ?counts⟩
  case opens =>
    intro p hp hcrc hm
    exact ⟨fun r => openReceive_again s hp hcrc hm, fun hr => ⟨openReceive_full s hp hcrc hm hr, fun i hi =>
      ⟨_, rfl, rfl, rfl, rfl, rfl, rfl, rfl, rfl, openReceive_new s hp hcrc hm hr hi⟩⟩⟩
  case discards =>
    intro p hp hcrc
    exact ⟨dataPacketReceive_unknown s hp hcrc, dataPacketReceive_noStream s hp hcrc⟩
  case whole =>
    intro p r hp hcrc hm hr hord hlimit haddr
    exact ⟨dataPacketReceive_duplicate s hp hcrc hm hr hord hlimit haddr, fun hhas =>
      ⟨_, dataPacketReceive_new s hp hcrc hm hr hord hlimit haddr hhas, RecvStream.hold_keeps p _ _⟩⟩
  case trimmed =>
    intro p r hp hcrc hm hr hord hlimit haddr hhas hfed
    refine ⟨_, r.holeOf p (s.epCycle s.sch.args.ep), trimmedHeaderReceive_hole s hp hcrc hm hr hord hlimit haddr hhas hfed,
      rfl, rfl, rfl, rfl, fun q => ?_⟩
    obtain ⟨htrims, hheld, hstarved, hholes⟩ := q.addHole_fields p (r.holeOf p (s.epCycle s.sch.args.ep))
    exact ⟨htrims, hheld, fun hk => hstarved (decide_eq_true hk), hholes⟩
  case asks =>
    intro r h hr hnext hout hold hborn hgap
    exact rreqSend_ready s hr (s.rreqReady_oldest _ hnext hout hold hborn hgap)
  case delivers =>
    intro r hr
    exact ⟨packetDeliver_nothing s hr, fun p => packetDeliver_waits s hr, fun p u hp hu => ⟨_, packetDeliver_delivers s hr hp hu⟩,
      ackTimer_due s hr, ackTimer_early s hr⟩
  case closes =>
    intro p hp hcrc hm
    refine ⟨closeReceive_noStream s hp hcrc hm, fun r hr => ?_⟩
    rw [closeReceive_stream s hp hcrc hm hr]
    exact ⟨fun hord => by rw [if_pos hord]; rfl, fun hord => by rw [if_neg (not_not_intro hord)]; rfl⟩
  case selects =>
    refine ⟨_, _, _, _, streamSelect_latches s, fun r hbit hr => ?_⟩
    rw [s.latchedStats_recv _ hbit hr]
    exact ⟨r.stat0_stream, r.stat1_counts, by rw [r.stats_dups]⟩
  case resumes =>
    intro r hsel hr
    have hstarved : s.selectedStarved s.sch.args.ep = some r := (s.selectedStarved_recv _ hsel).trans hr
    exact ⟨streamResume_selected s hstarved, streamAbort_selected s hstarved⟩
  case far =>
    intro hf
    exact ⟨_, linkDown_far s hf, State.newPaths_linksAre ⟨rfl, rfl⟩⟩
  case down =>
    intro hf hlink hst hw
    obtain ⟨t, ht, hlinks, -⟩ := linkDown_links s hf hlink hst
    have hdown : (look {} t.links s.sch.args.link).st = .down := by rw [hlinks, look_upd_same _ _ _ _ hw]
    exact ⟨t, ht, hdown, by rw [State.linkUp, hdown]; rfl⟩
  case counts =>
    exact ⟨le_advanceCum _ _ _, fun heq => heq ▸ lt_advanceCum (by simp)⟩

end
end

section
/-!
PROOF of O50. The release engine (R66 to R71) and the phase counts of the die schedulers (R134): what a PTP message makes of the
disciplined time, what an instant and a phase time send, and one lemma per case of each step.
-/

namespace Sys2Proof.Machine

/-! ## Disciplined time (R66, R69) -/

/-- The disciplined time reads as it was set, within its 48 bits of seconds. -/
theorem Release.now_setTime (r : Release) {t : Nat} (h : t < 2 ^ 48 * 1000000000) : (r.setTime t).now = t := by
  have hsec : t / second < 2 ^ 48 := by rw [second]; omega
  rw [Release.now, Release.setTime, Nat.mod_eq_of_lt hsec, Nat.mul_comm, Nat.div_add_mod]

/-- An offset left to slew is no part of the time. -/
theorem Release.now_slew (r : Release) (n : Int) : ({ r with slew := n } : Release).now = r.now := rfl

section
variable (r : Release) (time bound : Nat) (cycle : Dword)

/-- The offset of the disciplined time that a message finds. -/
def Release.offset : Int := (time : Int) - r.now

/-- The engine locked, with a bound and an offset to slew. -/
def Release.slewing : Release :=
  { r with lock := .locked, everLocked := true, heard := cycle, ebound := BitVec.ofNat 14 (min bound 0x3FFF), slew := r.offset time }

/-- A message taken by a servo that is not locked makes a free engine acquire. -/
theorem Release.discipline_acquires (h : r.lock = .free) :
    r.discipline time bound false cycle = { r with heard := cycle, lock := .acquiring } := by
  simp [Release.discipline, h]

/-- A locked servo slews every offset but one beyond 1 ms at its first lock. -/
theorem Release.discipline_slews (h : r.everLocked = true ∨ (r.offset time).natAbs ≤ 1000000) :
    r.discipline time bound true cycle = r.slewing time bound cycle := by
  have hslew : ¬ (!r.everLocked && decide (1000000 < (r.offset time).natAbs)) = true := by
    intro hstep
    simp only [Bool.and_eq_true, Bool.not_eq_true', decide_eq_true_eq] at hstep
    obtain ⟨hfirst, hoff⟩ := hstep
    rcases h with hlocked | hsmall
    · exact Bool.false_ne_true (hfirst.symm.trans hlocked)
    · exact Nat.not_le.mpr hoff hsmall
  exact if_neg hslew

/-- At the first lock an offset beyond 1 ms steps the time. -/
theorem Release.discipline_steps (hfirst : r.everLocked = false) (hoff : 1000000 < (r.offset time).natAbs) :
    r.discipline time bound true cycle = { (r.slewing time bound cycle).setTime time with slew := 0 } := by
  have hstep : (!r.everLocked && decide (1000000 < (r.offset time).natAbs)) = true := by simp [hfirst, hoff]
  exact if_pos hstep

end

/-- Whether a PTP message is of the engine's domain and on its selected source. -/
def State.hearsPtp (s : State) : Prop :=
  s.sch.args.ctx = s.rel.domain.toNat ∧ (s.sch.args.link = 17 ↔ s.rel.ptpSrc = false)

/-- The step's own test turns away every other message. -/
theorem State.hearsPtp_iff (s : State) :
    s.hearsPtp ↔ ¬ (s.sch.args.ctx ≠ s.rel.domain.toNat || (s.sch.args.link = 17) = s.rel.ptpSrc) = true := by
  have hsource : (s.sch.args.link = 17 ↔ s.rel.ptpSrc = false) ↔ ¬ (s.sch.args.link = 17) = (s.rel.ptpSrc = true) := by
    cases s.rel.ptpSrc <;> by_cases hlink : s.sch.args.link = 17 <;> simp [hlink]
  simp only [State.hearsPtp, hsource, Bool.or_eq_true, decide_eq_true_eq, not_or, ne_eq, Decidable.not_not]

/-- The bound that a message gives, within the limit of R69 where the network is one that R69 describes. -/
def State.ptpBound (s : State) : Nat :=
  if s.sch.args.seq = 0 then s.sch.args.size else min s.sch.args.size s.rel.boundLimit

/-- A message of another domain or source does nothing. -/
theorem ptpMessage_other (s : State) (h : ¬ s.hearsPtp) : exec .ptpMessage s = .next s := by
  exact congrArg _ (if_pos (Decidable.not_not.mp (mt s.hearsPtp_iff.mpr h)))

/-- One of the engine's own disciplines it. -/
theorem ptpMessage_heard (s : State) (h : s.hearsPtp) :
    exec .ptpMessage s = .next { s with
      rel := s.rel.discipline s.sch.args.value.toNat s.ptpBound s.sch.args.flag s.hub.cycles } := by
  exact congrArg _ (if_neg (s.hearsPtp_iff.mp h))

/-- HOLDOVER_ENTER after 3 s without a message: HOLDOVER, and its module event. -/
theorem holdoverEnter_silent (s : State) (hlock : s.rel.lock = .locked ∨ s.rel.lock = .acquiring)
    (hsilent : 6000000000 ≤ (s.hub.cycles - s.rel.heard).toNat) :
    exec .holdoverEnter s = .next (({ s with rel := { s.rel with lock := .holdover, slew := 0 } } : State).event 0x0004 8
      ({ s.rel with lock := .holdover, slew := 0 } : Release).status) := by
  have hgo : ((s.rel.lock = .locked || s.rel.lock = .acquiring) && decide (6000000000 ≤ (s.hub.cycles - s.rel.heard).toNat)) = true := by
    simpa only [decide_eq_true hsilent, Bool.and_true, Bool.or_eq_true, decide_eq_true_eq] using hlock
  simp only [exec, execHoldoverEnter, if_pos hgo]

/-- A module event leaves the release engine, the regions and the cells. -/
theorem State.event_release (s : State) (code unit detail : Nat) :
    (s.event code unit detail).rel = s.rel ∧ (s.event code unit detail).regions = s.regions ∧
      (s.event code unit detail).cells = s.cells :=
  IgnoresMemory.event (p := fun t => t.rel = s.rel ∧ t.regions = s.regions ∧ t.cells = s.cells)
    ⟨fun _ _ _ _ h => h, fun _ _ _ h => h, fun _ _ h => h⟩ code unit detail ⟨rfl, rfl, rfl⟩

/-! ## Enabling, instants and phase times (R67, R68, R71, R134) -/

/-- The engine enabled: it runs from the first instant after now, with DONE, MISS and LASTMISS cleared. -/
def Release.enabled (r : Release) : Release :=
  { r with en := true, running := true, done := 0, miss := 0, lastMiss := 0, instant := r.firstAfter r.now, phase := 16 }

/-- REL_ENABLE from 0. -/
theorem relEnable_off (s : State) (h : s.rel.en = false) : exec .relEnable s = .next { s with rel := s.rel.enabled } := by
  simp [exec, execRelEnable, Release.enable, Release.enabled, h]

/-- REL_ENABLE while enabled. -/
theorem relEnable_on (s : State) (h : s.rel.en = true) : exec .relEnable s = .next s := by
  simp [exec, execRelEnable, Release.enable, h]

/-- The engine after instant k: the outputs flipped to frame min(DONE, k), a miss counted where DONE is below k, and k + 1 next. -/
def Release.passInstant (r : Release) : Release :=
  let missed := decide (min r.done.toNat r.instant < r.instant)
  { r with
    outs := (List.range 4).foldl (fun m i => upd {} i (fun o => o.show r.nsurf.toNat (min r.done.toNat r.instant)) m) r.outs
    miss := if missed then r.miss + 1 else r.miss
    lastMiss := if missed then BitVec.ofNat 64 r.instant else r.lastMiss
    instant := r.instant + 1
    phase := 1 }

/-- An instant that DONE has not come up to is a miss. -/
theorem Release.passInstant_missed (r : Release) (h : r.done.toNat < r.instant) :
    r.passInstant.miss = r.miss + 1 ∧ r.passInstant.lastMiss = BitVec.ofNat 64 r.instant := by
  have hmiss : min r.done.toNat r.instant < r.instant := by omega
  exact ⟨if_pos (decide_eq_true hmiss), if_pos (decide_eq_true hmiss)⟩

/-- One that it has come up to is none. -/
theorem Release.passInstant_met (r : Release) (h : r.instant ≤ r.done.toNat) :
    r.passInstant.miss = r.miss ∧ r.passInstant.lastMiss = r.lastMiss := by
  have hmet : ¬ decide (min r.done.toNat r.instant < r.instant) = true := by
    rw [decide_eq_true_eq]
    omega
  exact ⟨if_neg hmet, if_neg hmet⟩

/-- RELEASE_INSTANT at an instant that has come: the deadline token of the next frame is sent. -/
theorem releaseInstant_due (s : State) (h : s.rel.reached = true) :
    exec .releaseInstant s = .next (({ s with rel := s.rel.passInstant } : State).sendRel (.deadline (s.rel.instant + 1))) := by
  have hgo : ¬ (!s.rel.reached) = true := by simp [h]
  exact if_neg hgo

/-- PHASE_TOKEN at a phase time that has come. -/
theorem phaseToken_due (s : State) (hrun : s.rel.running = true) (hlast : s.rel.phase ≤ 15)
    (hdue : s.rel.phaseAt s.rel.instant s.rel.phase ≤ s.rel.now) :
    exec .phaseToken s = .next (({ s with rel := { s.rel with phase := s.rel.phase + 1 } } : State).sendRel
      (.phase s.rel.instant s.rel.phase)) := by
  simp [exec, execPhaseToken, hrun, hlast, hdue]

/-! ## The packets of the tokens (R67, R134) -/

/-- The stream from endpoint 0x044 to a die scheduler. -/
def State.relStream (s : State) (d : Nat) : SendStream :=
  { dst := s.epAddr (1024 * d + 0x070), cls := .top, ord := true, ctx := s.rel.ctx.toNat, owner := .release }

/-- A token put on the stream to a die scheduler. -/
def State.feedRel (t : RelToken) (s : State) (d : Nat) : State :=
  s.feedStream (8192 + 0x044) (s.relStream d) [t.item] false

/-- A token is put on the stream of every die scheduler that is up. -/
theorem State.sendRel_eq (s : State) (t : RelToken) : s.sendRel t = ((List.range 8).filter s.dieUp).foldl (State.feedRel t) s := rfl

/-- A stream fed changes its endpoint alone. -/
theorem State.feedStream_rel (s : State) (k : Nat) (t : SendStream) (items : List (Nat × Nat × Val)) (final : Bool) :
    (s.feedStream k t items final).rel = s.rel := by
  unfold State.feedStream
  dsimp only
  split
  · rfl
  · split <;> rfl

/-- The tokens sent leave the engine. -/
theorem State.sendRel_rel (s : State) (t : RelToken) : (s.sendRel t).rel = s.rel :=
  foldl_keeps (fun u => u.rel = s.rel) (State.feedRel t) (fun u _ h => (u.feedStream_rel _ _ _ _).trans h) _ s rfl

/-- Values for which an endpoint has no stream yet make a new operation wait there. -/
theorem State.feedStream_new (s : State) (k : Nat) (t : SendStream) (items : List (Nat × Nat × Val)) (final : Bool)
    (hsends : (s.ep k).sends = []) (hwants : ∀ q ∈ (s.ep k).wants, q.dst ≠ t.dst) :
    s.feedStream k t items final = s.wantStream k { t with feed := .tokens items final } := by
  have hs : ¬ (s.ep k).sends.any (fun q => q.owner = t.owner && q.dst = t.dst) = true := by simp [hsends]
  have hw : ¬ (s.ep k).wants.any (fun q => q.owner = t.owner && q.dst = t.dst) = true := by
    simpa using fun q hq _ => hwants q hq
  exact (if_neg hs).trans (if_neg hw)

/-- An endpoint reads as it was changed. -/
theorem State.ep_updEp (s : State) (k : Nat) (f : Endpoint → Endpoint) (h : tableWf {} s.eps = true) :
    (s.updEp k f).ep k = f (s.ep k) := look_upd_same _ _ _ _ h

/-- A change of an endpoint keeps the table's form. -/
theorem State.updEp_tableWf (s : State) (k : Nat) (f : Endpoint → Endpoint) (h : tableWf {} s.eps = true) :
    tableWf {} (s.updEp k f).eps = true := tableWf_upd _ _ _ _ h

/-- The die schedulers' addresses differ. -/
theorem State.relStream_dst_inj (s : State) {d e : Nat} (h : (s.relStream d).dst = (s.relStream e).dst) : d = e := by
  simp only [State.relStream, State.epAddr, netAddr] at h
  omega

/-- Tokens for die schedulers that have no stream yet make one operation wait for each of them. -/
theorem State.foldl_feedRel_wants (t : RelToken) (l : List Nat) (hl : l.Nodup) (s : State) (hw : tableWf {} s.eps = true)
    (hsends : (s.ep (8192 + 0x044)).sends = [])
    (hnew : ∀ q ∈ (s.ep (8192 + 0x044)).wants, ∀ d ∈ l, q.dst ≠ (s.relStream d).dst) :
    ((l.foldl (State.feedRel t) s).ep (8192 + 0x044)).wants =
      (s.ep (8192 + 0x044)).wants ++ l.map fun d => { s.relStream d with feed := .tokens [t.item] false } := by
  induction l generalizing s with
  | nil => simp
  | cons d l ih =>
    obtain ⟨hd, hl⟩ := List.nodup_cons.mp hl
    have hfeed := s.feedStream_new _ (s.relStream d) [t.item] false hsends fun q hq => hnew q hq d (List.mem_cons_self ..)
    rw [State.wantStream] at hfeed
    rw [List.foldl_cons, State.feedRel, hfeed, ih hl _ (s.updEp_tableWf _ _ hw) (by rw [s.ep_updEp _ _ hw]; exact hsends),
      s.ep_updEp _ _ hw]
    · simp only [List.append_assoc, List.map_cons, List.singleton_append]
      rfl
    · rw [s.ep_updEp _ _ hw]
      intro q hq e he hdst
      rcases List.mem_append.mp hq with hq | hq
      · exact hnew q hq e (List.mem_cons_of_mem _ he) hdst
      · rw [List.mem_singleton.mp hq] at hdst
        exact hd (s.relStream_dst_inj hdst ▸ he)

/-- From an endpoint with no stream, one operation waits for each die scheduler that is up. -/
theorem State.sendRel_wants (s : State) (t : RelToken) (hw : tableWf {} s.eps = true) (hsends : (s.ep (8192 + 0x044)).sends = [])
    (hwants : (s.ep (8192 + 0x044)).wants = []) :
    ((s.sendRel t).ep (8192 + 0x044)).wants =
      ((List.range 8).filter s.dieUp).map fun d => { s.relStream d with feed := .tokens [t.item] false } := by
  have hnodup : ((List.range 8).filter s.dieUp).Nodup := List.nodup_range.filter _
  rw [State.sendRel_eq, State.foldl_feedRel_wants t _ hnodup s hw hsends (by simp [hwants]), hwants, List.nil_append]

/-! ## The die schedulers (R134) and the completions (R68) -/

/-- A packet of the engine adds its token to those of its die scheduler. -/
theorem State.deliverRel_tokens (s : State) (d : Nat) (p : Pkt) (h : tableWf [] s.rel.tokens = true) :
    look [] (s.deliverRel d p).rel.tokens d =
      look [] s.rel.tokens d ++ [if p.tag = 0 then .deadline (ofBytes p.payload) else .phase (ofBytes p.payload) p.tag] :=
  look_upd_same [] d (fun l => l ++ [if p.tag = 0 then RelToken.deadline (ofBytes p.payload) else .phase (ofBytes p.payload) p.tag])
    s.rel.tokens h

/-- A deadline token taken. -/
theorem deadlineTokenReceive_first (s : State) {f : Nat} {l : List RelToken}
    (h : look [] s.rel.tokens s.sch.args.die = .deadline f :: l) :
    exec .deadlineTokenReceive s = .next ((s.dropRel s.sch.args.die).updDie s.sch.args.die fun q =>
      { q with phases := put 0 (f - 1) 16 (put 0 f 0 q.phases) }) := by
  simp only [exec, execDeadlineTokenReceive, h]

/-- A phase token taken. -/
theorem phaseTokenReceive_first (s : State) {f n : Nat} {l : List RelToken}
    (h : look [] s.rel.tokens s.sch.args.die = .phase f n :: l) :
    exec .phaseTokenReceive s = .next ((s.dropRel s.sch.args.die).updDie s.sch.args.die fun q =>
      { q with phases := put 0 f n q.phases }) := by
  simp only [exec, execPhaseTokenReceive, h]

/-- A completion waits while an instant has come. -/
theorem frameCompletionReport_waits (s : State) {j : Nat} {l : List Nat} (h : s.rel.reports = j :: l) (hr : s.rel.reached = true) :
    exec .frameCompletionReport s = .next s := by
  simp only [exec, execFrameCompletionReport, h, if_pos hr]

/-- Else it raises DONE to its frame. -/
theorem frameCompletionReport_raises (s : State) {j : Nat} {l : List Nat} (h : s.rel.reports = j :: l)
    (hr : s.rel.reached = false) :
    exec .frameCompletionReport s = .next { s with rel := { s.rel with
      reports := l, done := if s.rel.done.toNat < j then BitVec.ofNat 64 j else s.rel.done } } := by
  simp [exec, execFrameCompletionReport, h, hr]

end Sys2Proof.Machine

section
open Sys2Proof Sys2Proof.Machine

/-- Settles O50: each clause is one of the rules above; the tokens reach distinct addresses, so that each die scheduler that is up gets
an operation of its own. -/
theorem releaseEngine : Obligations.ReleaseEngine := by
  unfold Obligations.ReleaseEngine
  intro s a r k off bound mine on slewed
  refine ⟨ptpMessage_other s, ?acquires, ?slews, ?steps, ?holdover, relEnable_off s, relEnable_on s, ?instant,
    fun hrun hlast hdue => phaseToken_due s hrun hlast hdue, fun t => ⟨s.sendRel_rel t, s.sendRel_wants t⟩, ?delivers,
    fun f l h => deadlineTokenReceive_first s h, fun f n l h => phaseTokenReceive_first s h,
    fun j l h hr => frameCompletionReport_waits s h hr,
    fun j l h hr => ⟨_, frameCompletionReport_raises s h hr, rfl, rfl, rfl⟩⟩
  case acquires =>
    intro hmine hflag hfree
    rw [ptpMessage_heard s hmine, show s.sch.args.flag = false from hflag, Release.discipline_acquires _ _ _ _ hfree]
  case slews =>
    intro hmine hflag hoff
    rw [ptpMessage_heard s hmine, show s.sch.args.flag = true from hflag, Release.discipline_slews _ _ _ _ hoff]
    rfl
  case steps =>
    intro hmine hflag hfirst hoff
    rw [ptpMessage_heard s hmine, show s.sch.args.flag = true from hflag, Release.discipline_steps _ _ _ _ hfirst hoff]
    exact ⟨_, rfl, rfl, rfl, rfl, fun htime =>
      (Release.now_slew _ 0).trans (Release.now_setTime _ htime)⟩
  case holdover =>
    intro hlock hsilent
    exact ⟨_, holdoverEnter_silent s hlock hsilent, State.event_release _ _ _ _⟩
  case instant =>
    intro hrun hcome
    have hreached : s.rel.reached = true := by
      rw [Release.reached, show s.rel.running = true from hrun, Bool.true_and]
      exact decide_eq_true hcome
    exact ⟨_, releaseInstant_due s hreached, rfl, rfl, rfl, s.rel.passInstant_missed, s.rel.passInstant_met⟩
  case delivers =>
    intro d f p hw hf
    rw [s.deliverRel_tokens d p hw, hf]

end
end

section
/-!
PROOF of O57. The dies' reduction trees (R58 to R60, R118) and the owner's part of a collective (R61, R62, R99): which operation starts
next, when a result leaves, how Reduce splits its list, and how far a rank's partial is combined.
-/

namespace Sys2Proof.Machine

/-! ## Operations of a tree (R60, R118) -/

/-- The operations of a die's tree that wait for a place. -/
def Die.waiting (d : Die) : List TreeOpn := d.tree.filter fun o => !o.active && !o.bad

/-- The operations of a die's tree that have one. -/
def Die.inProgress (d : Die) : List TreeOpn := d.tree.filter fun o => o.active

/-- Waiting operations in note order, and in order of arrival within a note. -/
def Die.queue (d : Die) : List TreeOpn := sortBy (fun a b => decide (a.note.code ≤ b.note.code)) d.waiting

/-- A waiting operation is neither in progress nor failed. -/
theorem Die.mem_waiting (d : Die) (o : TreeOpn) : o ∈ d.waiting ↔ o ∈ d.tree ∧ o.active = false ∧ o.bad = false := by
  simp [Die.waiting]

/-- A die where nothing waits has no next operation. -/
theorem Die.queue_head_none {d : Die} (h : ∀ o, o ∈ d.tree → o.active = true ∨ o.bad = true) : d.queue.head? = none := by
  have hnone : d.waiting = [] := by
    rw [List.eq_nil_iff_forall_not_mem]
    intro o ho
    obtain ⟨hmem, hactive, hbad⟩ := (d.mem_waiting o).mp ho
    simpa [hactive, hbad] using h o hmem
  rw [Die.queue, hnone]
  rfl

/-- Where one waits, the next is a waiting operation that no other precedes in note order. -/
theorem Die.queue_head_some {d : Die} (h : ∃ o, o ∈ d.tree ∧ o.active = false ∧ o.bad = false) :
    ∃ o, d.queue.head? = some o ∧ o ∈ d.waiting ∧ ∀ p ∈ d.waiting, o.note.code ≤ p.note.code := by
  obtain ⟨w, hw⟩ := h
  have hmem : w ∈ d.queue := (mem_sortBy _ w _).mpr ((d.mem_waiting w).mpr hw)
  obtain ⟨o, ho⟩ := Option.isSome_iff_exists.mp (List.isSome_head?.mpr (List.ne_nil_of_mem hmem))
  refine ⟨o, ho, (mem_sortBy _ o _).mp (List.mem_of_mem_head? ho), fun p hp => ?_⟩
  exact headLeast_sortBy (fun o : TreeOpn => o.note.code) d.waiting o ho p ((mem_sortBy _ p _).mpr hp)

/-- TREE_OP_START where nothing waits. -/
theorem treeOpStart_none (s : State) (h : (s.die s.sch.args.die).queue.head? = none) : exec .treeOpStart s = .next s := by
  have h' : (sortBy (fun (a b : TreeOpn) => decide (a.note.code ≤ b.note.code))
    ((s.die s.sch.args.die).tree.filter fun o => !o.active && !o.bad)).head? = none := h
  simp only [exec, execTreeOpStart, h']

/-- With 16 operations in their places none starts. -/
theorem treeOpStart_full (s : State) (h : 16 ≤ (s.die s.sch.args.die).inProgress.length) : exec .treeOpStart s = .next s := by
  simp only [exec, execTreeOpStart]
  split
  · rfl
  · exact if_pos h

/-- With fewer the next waiting operation takes a place, and its chunk indices are sent. -/
theorem treeOpStart_starts (s : State) {o : TreeOpn} (h : (s.die s.sch.args.die).queue.head? = some o)
    (hroom : (s.die s.sch.args.die).inProgress.length < 16) :
    exec .treeOpStart s = .next (o.contribs.foldl (fun s c => if c.targets.isEmpty then s else s.sendEntered c)
      (s.updTree s.sch.args.die o.id fun o => { o with active := true, contribs := o.contribs.map Contribution.entered })) := by
  have h' : (sortBy (fun (a b : TreeOpn) => decide (a.note.code ≤ b.note.code))
    ((s.die s.sch.args.die).tree.filter fun o => !o.active && !o.bad)).head? = some o := h
  simp only [exec, execTreeOpStart, h']
  exact if_neg (Nat.not_le.mpr hroom)

/-- An operation is full when every member has contributed. -/
theorem TreeOpn.full_iff (o : TreeOpn) : o.full = true ↔ ∀ m, m ∈ o.members → ∃ c, c ∈ o.contribs ∧ (c.x, c.y) = m := by
  simp [TreeOpn.full, Prod.ext_iff]

/-- TREE_RESULT of an operation that is not full. -/
theorem treeResult_stays (s : State) {o : TreeOpn}
    (ho : (s.die s.sch.args.die).tree.find? (fun o => o.id = s.sch.args.id) = some o) (hfull : o.full = false) :
    exec .treeResult s = .next s := by
  simp [exec, execTreeResult, ho, hfull]

/-- One that is full leaves the tree, and unless it failed its result is delivered. -/
theorem treeResult_leaves (s : State) {o : TreeOpn}
    (ho : (s.die s.sch.args.die).tree.find? (fun o => o.id = s.sch.args.id) = some o) (hfull : o.full = true)
    (hdone : o.active = true ∨ o.bad = true) :
    exec .treeResult s = .next (
      if o.bad then s.updDie s.sch.args.die fun d => { d with tree := dropFirst (fun q => q.id = o.id) d.tree }
      else (s.updDie s.sch.args.die fun d => { d with tree := dropFirst (fun q => q.id = o.id) d.tree }).treeDeliver
        s.sch.args.die o) := by
  have hended : (o.active || o.bad) = true := (Bool.or_eq_true _ _).mpr hdone
  have hgo : ¬ (!o.full || !(o.active || o.bad)) = true := by
    rw [hfull, hended]
    decide
  simp only [exec, execTreeResult, ho, if_neg hgo]

/-! ## Reduce (R59) -/

/-- Reduce of one value is that value. -/
theorem reduceVals_one (op e fuel v : Nat) : reduceVals op e fuel [v] = v := by
  cases fuel <;> rfl

/-- Reduce of two or more values splits their list after its first half, rounded up. -/
theorem reduceVals_split (op e fuel : Nat) (l : List Nat) (h : 2 ≤ l.length) :
    reduceVals op e (fuel + 1) l =
      combineVal op e (reduceVals op e fuel (l.take ((l.length + 1) / 2))) (reduceVals op e fuel (l.drop ((l.length + 1) / 2))) :=
  match l, h with
  | _ :: _ :: _, _ => rfl

/-- Reduce of two lists, the first as long as the second or one longer, combines those of the two. -/
theorem reduceVals_append (op e fuel : Nat) (xs ys : List Nat) (hpos : 0 < ys.length)
    (hlen : xs.length = ys.length ∨ xs.length = ys.length + 1) :
    reduceVals op e (fuel + 1) (xs ++ ys) = combineVal op e (reduceVals op e fuel xs) (reduceVals op e fuel ys) := by
  have hhalf : ((xs ++ ys).length + 1) / 2 = xs.length := by rw [List.length_append]; omega
  rw [reduceVals_split _ _ _ _ (by rw [List.length_append]; omega), hhalf, List.take_left, List.drop_left]

/-- Reduce of two values. -/
theorem reduceVals_two (op e fuel v w : Nat) : reduceVals op e (fuel + 1) [v, w] = combineVal op e v w :=
  (reduceVals_append op e fuel [v] [w] Nat.one_pos (.inl rfl)).trans (by rw [reduceVals_one, reduceVals_one])

/-- Reduce of three values: the first two, and then the third. -/
theorem reduceVals_three (op e fuel v w x : Nat) :
    reduceVals op e (fuel + 2) [v, w, x] = combineVal op e (combineVal op e v w) x :=
  (reduceVals_append op e (fuel + 1) [v, w] [x] Nat.one_pos (.inr rfl)).trans (by rw [reduceVals_two, reduceVals_one])

/-- Reduce of four values: the first two, and the last two. -/
theorem reduceVals_four (op e fuel v w x y : Nat) :
    reduceVals op e (fuel + 2) [v, w, x, y] = combineVal op e (combineVal op e v w) (combineVal op e x y) :=
  (reduceVals_append op e (fuel + 1) [v, w] [x, y] Nat.two_pos (.inl rfl)).trans (by rw [reduceVals_two, reduceVals_two])

/-! ## The partials of the own shard (R61, R62, R99) -/

/-- What the owner's engine may combine of a rank is as much as the rank before it has given. -/
theorem Coll.allowed_succ (c : Coll) (rank : Nat) : c.allowed (rank + 1) = (c.taken rank).map List.length := rfl

/-- The entry of a rank that is replaced at the end of a list is found there. -/
theorem find_replaced {α : Type} (l : List (Nat × α)) (rank : Nat) (v : α) :
    (l.filter (fun q => q.1 ≠ rank) ++ [(rank, v)]).find? (fun q => q.1 = rank) = some (rank, v) := by
  have hnone : (l.filter fun q => q.1 ≠ rank).find? (fun q => q.1 = rank) = none := by simp
  rw [List.find?_append, hnone]
  simp

/-- The entry of a rank that is changed in its place is found changed. -/
theorem find_changed {α : Type} (l : List (Nat × α)) (rank : Nat) (v : α) (h : (l.find? fun q => q.1 = rank).isSome) :
    (l.map (fun q => if q.1 = rank then (rank, v) else q)).find? (fun q => q.1 = rank) = some (rank, v) := by
  induction l with
  | nil => simp at h
  | cons q t ih =>
    rw [List.map_cons]
    by_cases hq : q.1 = rank
    · simp [hq]
    · rw [if_neg hq, List.find?_cons_of_neg (by simpa using hq)]
      exact ih (by simpa [List.find?_cons_of_neg, hq] using h)

section
variable {c : Coll} {rank n : Nat} {ws : List Word} (hw : c.waits rank = some ws) (hn : c.allowed rank = some n)
include hw hn

/-- Combining moves to what is taken of a rank as many of its waiting elements as are allowed beyond what is taken. -/
theorem Coll.combine_eq : c.combine rank = { c with
    partials := c.partials.filter (fun q => q.1 ≠ rank) ++
      [(rank, (c.taken rank).getD [] ++ ws.take (n - ((c.taken rank).getD []).length))]
    incoming := c.incoming.map (fun q => if q.1 = rank then (rank, ws.drop (n - ((c.taken rank).getD []).length)) else q) } := by
  simp only [Coll.combine, hw, hn]

/-- What is then taken of the rank. -/
theorem Coll.combine_taken : (c.combine rank).taken rank =
    some ((c.taken rank).getD [] ++ ws.take (n - ((c.taken rank).getD []).length)) := by
  rw [Coll.combine_eq hw hn, Coll.taken, find_replaced]
  rfl

/-- What then still waits of it. -/
theorem Coll.combine_waits : (c.combine rank).waits rank = some (ws.drop (n - ((c.taken rank).getD []).length)) := by
  have hsome : (c.incoming.find? fun q => q.1 = rank).isSome := by
    rw [Coll.waits] at hw
    rw [← Option.isSome_map, hw]
    rfl
  rw [Coll.combine_eq hw hn, Coll.waits, find_changed _ _ _ hsome]
  rfl

end

/-- Whether a partial of a rank changes nothing: a rank beyond MEMBERS or combined whole, or a collective that has ended. -/
def Coll.ignores (c : Coll) (rank : Nat) : Prop := c.members.length ≤ rank ∨ rank ∈ c.have ∨ c.status ≠ none

section
variable {s : State} {c : Coll} (hc : s.coll? s.sch.args.ctx s.sch.args.chain s.sch.args.ordinal = some c)
include hc

/-- COLL_PARTIAL_RECEIVE of a rank whose partial changes nothing. -/
theorem collPartialReceive_ignored (h : c.ignores s.sch.args.value.toNat) : exec .collPartialReceive s = .next s := by
  have hskip : (c.members.length ≤ s.sch.args.value.toNat || c.have.contains s.sch.args.value.toNat || c.status.isSome) = true := by
    simpa [Coll.ignores, or_assoc, Option.isSome_iff_ne_none] using h
  simp only [exec, execCollPartialReceive, hc, if_pos hskip]

/-- One of another rank is a differing record, waits for earlier ranks, or is combined. -/
theorem collPartialReceive_taken (hrank : s.sch.args.value.toNat < c.members.length) (hhave : s.sch.args.value.toNat ∉ c.have)
    (hst : c.status = none) : exec .collPartialReceive s = .next (
    if s.sch.args.flag then
      s.updColl s.sch.args.ctx s.sch.args.chain s.sch.args.ordinal fun c => { c with status := some 0x8009 }
    else if !c.combines s.sch.args.value.toNat then s
    else (s.updColl s.sch.args.ctx s.sch.args.chain s.sch.args.ordinal fun _ => c.combine s.sch.args.value.toNat).finishColl
      (c.combine s.sch.args.value.toNat) (c.combine s.sch.args.value.toNat).have) := by
  have htake : ¬ (c.members.length ≤ s.sch.args.value.toNat || c.have.contains s.sch.args.value.toNat || c.status.isSome) = true := by
    simp [hst, hhave, hrank]
  simp only [exec, execCollPartialReceive, hc, if_neg htake]
  split
  · rfl
  · split <;> rfl

end

end Sys2Proof.Machine

section
open Sys2Proof Sys2Proof.Machine

/-- Settles O57: the operation that starts is the head of the waiting ones in note order, Reduce is unfolded by its split, and each
clause on partials is one of the rules above. -/
theorem treesAndCollectives : Obligations.TreesAndCollectives := by
  unfold Obligations.TreesAndCollectives
  refine ⟨fun s => ⟨treeOpStart_full s, fun h => treeOpStart_none s (Die.queue_head_none h), ?starts, ?results, ?partials⟩,
    fun c rank ws n hw hn => ⟨Coll.combine_taken hw hn, Coll.combine_waits hw hn⟩, fun c => ⟨rfl, c.allowed_succ⟩,
    reduceVals_one, fun op e => reduceVals_two op e 1, fun op e => reduceVals_three op e 1, fun op e => reduceVals_four op e 2⟩
  case starts =>
    intro hroom hwaits
    obtain ⟨o, hhead, ho, hleast⟩ := Die.queue_head_some hwaits
    obtain ⟨hmem, hactive, hbad⟩ := (Die.mem_waiting _ o).mp ho
    exact ⟨o, hmem, hactive, hbad, fun p hp hpa hpb => hleast p ((Die.mem_waiting _ p).mpr ⟨hp, hpa, hpb⟩),
      treeOpStart_starts s hhead hroom⟩
  case results =>
    intro o ho
    refine ⟨fun ⟨m, hm, hlacks⟩ => treeResult_stays s ho ?_, fun hall => ⟨fun hbad => ?_, fun hgood hactive => ?_⟩⟩
    · refine Bool.eq_false_iff.mpr fun hfull => ?_
      obtain ⟨c, hc, hcm⟩ := o.full_iff.mp hfull m hm
      exact hlacks c hc hcm
    · rw [treeResult_leaves s ho (o.full_iff.mpr hall) (.inr hbad), if_pos hbad]
    · rw [treeResult_leaves s ho (o.full_iff.mpr hall) (.inl hactive), if_neg (Bool.eq_false_iff.mp hgood)]
  case partials =>
    intro c hc
    refine ⟨collPartialReceive_ignored hc, fun hrank hhave hst => ?_⟩
    rw [collPartialReceive_taken hc hrank hhave hst]
    refine ⟨fun hf => ?_, fun hf hwait => ?_, fun hf hgo => ?_⟩
    · rw [if_pos hf]
    · rw [if_neg (Bool.eq_false_iff.mp hf), if_pos (by simpa using hwait)]
    · rw [if_neg (Bool.eq_false_iff.mp hf), if_neg (by simpa using hgo)]

end
end

section
/-!
PROOF, shared. What a write of the hub or an engine to device memory changes (R82, R83, R237): the memory, the owners of its lines and
the copies in the dies' caches, and nothing else.
-/

namespace Sys2Proof.Machine

/-- The second state is the first but for device memory, the owners of its lines and the copies in the dies' caches. -/
def State.OnlyMemory (s t : State) : Prop := ∃ m o c, t = { s with mem := m, lineOwner := o, caches := c }

theorem State.OnlyMemory.refl (s : State) : s.OnlyMemory s := ⟨s.mem, s.lineOwner, s.caches, rfl⟩

theorem State.OnlyMemory.trans {s t u : State} (h : s.OnlyMemory t) (k : t.OnlyMemory u) : s.OnlyMemory u := by
  obtain ⟨m, o, c, rfl⟩ := h
  obtain ⟨m', o', c', rfl⟩ := k
  exact ⟨m', o', c', rfl⟩

/-- What does not depend on the three is as before. -/
theorem State.OnlyMemory.eq {α : Type} {s t : State} (h : s.OnlyMemory t) (p : State → α)
    (hp : ∀ m o c, p { s with mem := m, lineOwner := o, caches := c } = p s) : p t = p s := by
  obtain ⟨m, o, c, rfl⟩ := h
  exact hp m o c

theorem State.ownLine_onlyMemory (s : State) (o : Owner) (line : Nat) : s.OnlyMemory (s.ownLine o line) := by
  unfold ownLine
  split
  · exact ⟨_, _, s.caches, rfl⟩
  · split
    · exact .refl s
    · split
      · exact ⟨_, _, s.caches, rfl⟩
      · exact ⟨s.mem, _, s.caches, rfl⟩

theorem State.devWriteLine_onlyMemory (s : State) (o : Owner) (dpa : Nat) (bs : List Byte) :
    s.OnlyMemory (s.devWriteLine o dpa bs) := by
  unfold devWriteLine devPut
  dsimp only
  split
  · exact (s.ownLine_onlyMemory o (dpa / 64)).trans ⟨_, _, _, rfl⟩
  · exact ⟨s.mem, s.lineOwner, _, rfl⟩

theorem State.devWrite_onlyMemory (s : State) (o : Owner) (dpa : Nat) (bs : List Byte) : s.OnlyMemory (s.devWrite o dpa bs) :=
  foldl_keeps s.OnlyMemory _ (fun t _ h => h.trans (t.devWriteLine_onlyMemory o _ _)) _ s (.refl s)

section
variable (s : State) (o : Owner) (dpa : Nat) (bs : List Byte)

@[simp] theorem State.devWrite_hub : (s.devWrite o dpa bs).hub = s.hub :=
  (s.devWrite_onlyMemory o dpa bs).eq State.hub fun _ _ _ => rfl

@[simp] theorem State.devWrite_regions : (s.devWrite o dpa bs).regions = s.regions :=
  (s.devWrite_onlyMemory o dpa bs).eq State.regions fun _ _ _ => rfl

@[simp] theorem State.devWrite_cells : (s.devWrite o dpa bs).cells = s.cells :=
  (s.devWrite_onlyMemory o dpa bs).eq State.cells fun _ _ _ => rfl

@[simp] theorem State.devWrite_hostMem : (s.devWrite o dpa bs).hostMem = s.hostMem :=
  (s.devWrite_onlyMemory o dpa bs).eq State.hostMem fun _ _ _ => rfl

end

end Sys2Proof.Machine
end

section
/-!
PROOF of O54. The next page walk (R78, R79), the host's answers on its pages (R81), invalidations (R80, R81), key commands (R85) and
attestation (R88): one lemma per case of each step, then the statement. That an invalidation drops entries both as it starts and as it
completes is the model's choice (log 29).
-/

namespace Sys2Proof.Machine

/-! ## Page walks (R78, R79) -/

/-- The next walk is TOP where one waits, else HEART where one waits, else the oldest. -/
theorem nextWalk_cases {l : List Walk} {w : Walk} (h : nextWalk l = some w) :
    l.find? (fun v => v.note = .top) = some w ∨
    (∀ v ∈ l, v.note ≠ .top) ∧ (l.find? (fun v => v.note = .heart) = some w ∨ (∀ v ∈ l, v.note ≠ .heart) ∧ l.head? = some w) := by
  unfold nextWalk at h
  split at h
  case h_1 v hv => exact .inl (hv.trans h)
  case h_2 htop =>
    refine .inr ⟨by simpa using htop, ?_⟩
    split at h
    case h_1 v hv => exact .inl (hv.trans h)
    case h_2 hheart => exact .inr ⟨by simpa using hheart, h⟩

/-- A walk found by its note has it. -/
theorem note_of_find {l : List Walk} {w : Walk} {n : Note} (h : l.find? (fun v => v.note = n) = some w) : w.note = n := by
  simpa using List.find?_some h

/-- The next walk is one that waits. -/
theorem nextWalk_mem {l : List Walk} {w : Walk} (h : nextWalk l = some w) : w ∈ l := by
  obtain htop | ⟨-, hheart | ⟨-, hhead⟩⟩ := nextWalk_cases h
  · exact List.mem_of_find?_eq_some htop
  · exact List.mem_of_find?_eq_some hheart
  · exact List.mem_of_mem_head? hhead

/-- Where a TOP walk waits, the next one is TOP. -/
theorem nextWalk_top {l : List Walk} {w : Walk} (h : nextWalk l = some w) (htop : ∃ v ∈ l, v.note = .top) : w.note = .top := by
  obtain hfound | ⟨hnone, -⟩ := nextWalk_cases h
  · exact note_of_find hfound
  · obtain ⟨v, hv, hn⟩ := htop
    exact absurd hn (hnone v hv)

/-- Where a HEART walk waits, the next one is not BASE. -/
theorem nextWalk_heart {l : List Walk} {w : Walk} (h : nextWalk l = some w) (hheart : ∃ v ∈ l, v.note = .heart) : w.note ≠ .base := by
  obtain hfound | ⟨-, hfound | ⟨hnone, -⟩⟩ := nextWalk_cases h
  · simp [note_of_find hfound]
  · simp [note_of_find hfound]
  · obtain ⟨v, hv, hn⟩ := hheart
    exact absurd hn (hnone v hv)

/-- The hub without the walks of a page, the walks that waited for room taken. -/
def Hub.walkTaken (h : Hub) (w : Walk) : Hub :=
  ({ h with walks := h.walks.filter fun q => !(q.ctx = w.ctx && q.vpn = w.vpn) } : Hub).takeWaiting

/-- PAGE_WALK makes the next walk. -/
theorem pageWalk_next (s : State) {w : Walk} (h : nextWalk s.hub.walks = some w) :
    exec .pageWalk s = .next (({ s with hub := s.hub.walkTaken w } : State).endWalk w) := by
  simp only [exec, execPageWalk, h, Hub.walkTaken]

/-- PAGE_WALK with no walk queued. -/
theorem pageWalk_none (s : State) (h : s.hub.walks = []) : exec .pageWalk s = .next s := by
  simp [exec, execPageWalk, h, nextWalk]

/-! ## Host pages (R81) -/

section
variable (s : State) {r : AtsReq}

/-- A granted translation is cached, and the accesses that wait for it issue again. -/
theorem atsTranslationCompletion_granted (hr : s.atsArg false = some r) (hf : s.sch.args.flag = true) :
    exec .atsTranslationCompletion s = .next (((s.updAts r fun _ => none).fillWaiting r.walk.ctx r.walk.vpn
      r.leaf).retryWalk r.walk.ctx r.walk.vpn) := by
  simp [exec, execAtsTranslationCompletion, hr, hf]

/-- A denied one sends a Page Request, within the host's allocation. -/
theorem atsTranslationCompletion_asks (hr : s.atsArg false = some r) (hf : s.sch.args.flag = false)
    (hroom : (s.hub.ats.filter fun q => q.pri).length < s.hub.priLimit) :
    exec .atsTranslationCompletion s = .next (s.updAts r fun q => some { q with pri := true }) := by
  simp only [exec, execAtsTranslationCompletion, hr, hf, if_neg (Nat.not_le.mpr hroom)]
  rfl

/-- Beyond the allocation a denied request stands. -/
theorem atsTranslationCompletion_stands (hr : s.atsArg false = some r) (hf : s.sch.args.flag = false)
    (hfull : s.hub.priLimit ≤ (s.hub.ats.filter fun q => q.pri).length) : exec .atsTranslationCompletion s = .next s := by
  simp only [exec, execAtsTranslationCompletion, hr, hf, if_pos hfull]
  rfl

/-- Success repeats the translation. -/
theorem priResponse_success (hr : s.atsArg true = some r) (hf : s.sch.args.flag = true) :
    exec .priResponse s = .next (s.updAts r fun q => some { q with pri := false }) := by
  simp [exec, execPriResponse, hr, hf]

/-- A failure faults the accesses that wait for it. -/
theorem priResponse_failure (hr : s.atsArg true = some r) (hf : s.sch.args.flag = false) :
    exec .priResponse s = .next (((s.updAts r fun _ => none).waitingWalk r.walk.ctx r.walk.vpn).foldl
      (fun s a => s.memFault a .hostPage a.va (sizeLevel r.leaf.size)) (s.updAts r fun _ => none)) := by
  simp [exec, execPriResponse, hr, hf]

end

/-! ## Invalidation (R80, R81) -/

/-- No port core keeps a translation that was dropped. -/
theorem State.dropEntries_ports (s : State) (p : TlbEntry → Bool) {q : Nat × PortCore} (hq : q ∈ (s.dropEntries p).ports)
    {e : TlbEntry} (he : e ∈ q.2.tlb) : p e = false := by
  obtain ⟨q', -, hkept⟩ := List.mem_filterMap.mp hq
  dsimp only at hkept
  split at hkept
  · cases hkept
  · cases hkept
    simpa using (List.mem_filter.mp he).2

/-- No die's translation cache keeps one. -/
theorem State.dropEntries_dies (s : State) (p : TlbEntry → Bool) {q : Nat × Die} (hq : q ∈ (s.dropEntries p).dies)
    {e : TlbEntry} (he : e ∈ q.2.tcache) : p e = false := by
  obtain ⟨q', -, hkept⟩ := List.mem_filterMap.mp hq
  dsimp only at hkept
  split at hkept
  · cases hkept
  · cases hkept
    simpa using (List.mem_filter.mp he).2

/-- Nothing is on its way where no acknowledgement and no access is outstanding. -/
theorem State.invSettled_quiet (s : State) (p : TlbEntry → Bool) (hacks : s.acks = []) (hacc : s.accesses = []) :
    s.invSettled p = true := by
  simp [invSettled, hacks, hacc]

/-- An outstanding acknowledgement keeps an invalidation unsettled. -/
theorem State.invSettled_acks (s : State) (p : TlbEntry → Bool) (hacks : s.acks ≠ []) : s.invSettled p = false := by
  simp [invSettled, hacks]

/-- BUSY clears once the invalidation has settled. -/
theorem invalidationComplete_settled (s : State) (hb : s.hub.inv.busy = true) (hq : s.invSettled s.hub.inv.matches = true) :
    exec .invalidationComplete s = .next (({ s with hub := { s.hub with inv := { s.hub.inv with busy := false } } } : State).dropEntries
      s.hub.inv.matches) := by
  simp [exec, execInvalidationComplete, hb, hq]

/-- Until then nothing changes. -/
theorem invalidationComplete_waits (s : State) (hq : s.invSettled s.hub.inv.matches = false) :
    exec .invalidationComplete s = .next s := by
  simp [exec, execInvalidationComplete, hq]

/-- The host's oldest invalidation ends once it has settled. -/
theorem atsInvalidationComplete_settled (s : State) {q : Nat × Nat} {l : List (Nat × Nat)} (hl : s.hub.atsInv = q :: l)
    (hq : s.invSettled (inRange q) = true) :
    exec .atsInvalidationComplete s = .next (({ s with hub := { s.hub with atsInv := l } } : State).dropEntries (inRange q)) := by
  simp [exec, execAtsInvalidationComplete, hl, hq]

/-! ## Keys (R85) -/

/-- A context that holds a region holds its key. -/
theorem State.keyHeld_region (s : State) {ctx : Nat} (h : ∃ r ∈ s.regions, r.ctx = ctx) : s.keyHeld ctx = true := by
  have hany : s.regions.any (fun r => r.ctx = ctx) = true := by simpa using h
  rw [keyHeld, hany, Bool.true_or, Bool.true_or]

/-- A key command on a slot whose context holds its key is refused. -/
theorem State.keyCommand_refused (s : State) (f : Nat → State → State) (h : s.keyHeld s.hub.keyCmd.ctx.toNat = true) :
    s.keyCommand f = { s with hub := { s.hub with keyCmd := { s.hub.keyCmd with busy := true, refused := true } } } := by
  simp [keyCommand, h]

/-- On any other slot it is carried out. -/
theorem State.keyCommand_done (s : State) (f : Nat → State → State) (h : s.keyHeld s.hub.keyCmd.ctx.toNat = false) :
    s.keyCommand f = f s.hub.keyCmd.ctx.toNat
      { s with hub := { s.hub with keyCmd := { s.hub.keyCmd with busy := true, refused := false } } } := by
  simp [keyCommand, h]

/-! ## Attestation (R88) -/

/-- An attestation command ended: BUSY clear, and a fresh value drawn. -/
def State.attested (s : State) : State :=
  { s with hub := { s.hub with attest := { s.hub.attest with busy := false } }, sch := { s.sch with fresh := s.sch.fresh + 1 } }

/-- ATTEST_DONE with no command begun. -/
theorem attestDone_idle (s : State) (h : s.hub.attest.busy = false) : exec .attestDone s = .next s := by
  simp [exec, execAttestDone, h]

/-- ATTEST_DONE of a command begun writes a buffer in LPDDR6 in the clear, and leaves any other unwritten. -/
theorem attestDone_busy (s : State) (h : s.hub.attest.busy = true) :
    ∃ bs, exec .attestDone s = .next (if !s.attested.bufferOk s.hub.attest.buf.toNat then s.attested
      else s.attested.devWrite none s.hub.attest.buf.toNat bs) := by
  have hbusy : ¬ (!s.hub.attest.busy) = true := by simp [h]
  exact ⟨_, if_neg hbusy⟩

/-- No buffer below the first address of LPDDR6 lies in it. -/
theorem State.bufferOk_below (s : State) {buf : Nat} (h : buf < 0x10000000000) : s.bufferOk buf = false := by
  have hle : ¬ 0x10000000000 ≤ buf := Nat.not_le.mpr h
  simp [bufferOk, hle]

end Sys2Proof.Machine

section
open Sys2Proof Sys2Proof.Machine

/-- Settles O54: each clause is one of the rules above; an attestation's buffer is device memory, so that its write leaves host memory,
cells and regions. -/
theorem protectionSteps : Obligations.ProtectionSteps := by
  unfold Obligations.ProtectionSteps
  intro s a h inv idle ctx key att hubOf rest
  refine ⟨fun w hw => pageWalk_next s hw, fun w hw => ⟨nextWalk_mem hw, nextWalk_top hw, nextWalk_heart hw⟩, pageWalk_none s,
    fun r hr => ⟨atsTranslationCompletion_granted s hr, atsTranslationCompletion_asks s hr, atsTranslationCompletion_stands s hr⟩,
    fun r hr => ⟨priResponse_success s hr, priResponse_failure s hr⟩, rfl, rfl, rfl,
    fun p q hq e he => s.dropEntries_ports p hq he, fun p q hq e he => s.dropEntries_dies p hq he,
    fun hb hacks hacc => invalidationComplete_settled s hb (s.invSettled_quiet _ hacks hacc),
    fun _ hacks => invalidationComplete_waits s (s.invSettled_acks _ hacks), rfl,
    fun q l hl hacks hacc => atsInvalidationComplete_settled s hl (s.invSettled_quiet _ hacks hacc),
    ?refused, ?carriedOut, ⟨_, rfl, rfl, rfl, rfl, rfl⟩, rfl, rfl, attestDone_idle s, ?attested⟩
  case refused =>
    intro hregion
    have hheld := s.keyHeld_region hregion
    exact ⟨congrArg _ (s.keyCommand_refused _ hheld), congrArg _ (s.keyCommand_refused _ hheld)⟩
  case carriedOut =>
    intro hfree
    exact ⟨congrArg _ (s.keyCommand_done _ hfree), congrArg _ (s.keyCommand_done _ hfree)⟩
  case attested =>
    intro hbusy
    obtain ⟨bs, hdone⟩ := attestDone_busy s hbusy
    refine ⟨_, hdone, ?_⟩
    split
    · exact ⟨rfl, rfl, rfl, rfl, fun _ => rfl⟩
    · rename_i hbuf
      refine ⟨?_, s.attested.devWrite_hostMem _ _ _, s.attested.devWrite_cells _ _ _, s.attested.devWrite_regions _ _ _, fun hlow => ?_⟩
      · rw [State.devWrite_hub]
        rfl
      · rw [State.bufferOk_below _ hlow] at hbuf
        exact absurd rfl hbuf

end
end

section
/-!
PROOF, shared. Bytes of device memory as an owner finds them, after the hub or an engine has written under that owner (R75, R76, R82,
R83, R237): the bytes written read back, and every other populated byte reads as before, although the line changes its owner.
-/

namespace Sys2Proof.Machine

/-! ## What the bytes of a line share -/

/-- A field above the offset in a line is that of the line. -/
theorem bits_of_line {x y : Nat} (h : x / 64 = y / 64) {hi lo : Nat} (hlo : 6 ≤ lo) : bits x hi lo = bits y hi lo := by
  obtain ⟨m, rfl⟩ := Nat.exists_eq_add_of_le hlo
  simp only [bits, Nat.pow_add, ← Nat.div_div_eq_div_mul]
  rw [show (2 : Nat) ^ 6 = 64 from rfl, h]

/-- Memory is populated by whole lines (R75). -/
theorem State.populated_of_line (s : State) {x y : Nat} (h : x / 64 = y / 64) : s.populated x = s.populated y := by
  have hunit : x / 0x1000000000 = y / 0x1000000000 := by omega
  have hoff : ∀ n, (x % 0x1000000000 < 64 * n) = (y % 0x1000000000 < 64 * n) := fun n => propext (by omega)
  have hgddr : ∀ c, 0x1DCD65000 * c = 64 * (0x7735940 * c) := fun c => by omega
  have hlpddr : 0xEE6B28000 = 64 * 0x3B9ACA00 := by decide
  simp only [populated, hunit, hgddr, hlpddr, hoff]

/-- A line has one home die (R237). -/
theorem State.homeDieOf_of_line (s : State) (host : Bool) {x y : Nat} (h : x / 64 = y / 64) :
    s.homeDieOf host x = s.homeDieOf host y := by
  have hlow : (x < 0x8000000000) = (y < 0x8000000000) := propext (by omega)
  have hb : ∀ hi lo, 6 ≤ lo → bits x hi lo = bits y hi lo := fun hi lo => bits_of_line h
  simp only [homeDieOf, hlow, hb 38 36 (by decide), hb 8 6 (by decide), hb 11 9 (by decide), hb 14 12 (by decide),
    hb 17 15 (by decide)]

/-- A line is reached as a whole. -/
theorem State.reached_of_line (s : State) {x y : Nat} (h : x / 64 = y / 64) : s.reached x = s.reached y := by
  rw [reached, reached, s.homeDieOf_of_line false h]

/-! ## A line taken over by the owner that writes (R82, R83) -/

/-- The byte that an owner finds where its home die is up: in a copy of its own, else in memory. -/
def State.foundByte (s : State) (o : Owner) (x : Nat) : Byte :=
  match s.freshCopy o (x / 64) with
  | some c => c.data.getD (x % 64) 0
  | none => s.memByte o x

theorem State.devByte_reached (s : State) (o : Owner) {x : Nat} (h : s.reached x = true) : s.devByte o x = s.foundByte o x := by
  rw [devByte, h]
  rfl

theorem State.devByte_unreached (s : State) (o : Owner) {x : Nat} (h : s.reached x = false) : s.devByte o x = Config.lostByte x := by
  rw [devByte, h]
  rfl

theorem State.foundByte_cached (s : State) {o : Owner} {x : Nat} {c : CLine} (h : s.freshCopy o (x / 64) = some c) :
    s.foundByte o x = c.data.getD (x % 64) 0 := by
  rw [foundByte, h]

theorem State.foundByte_uncached (s : State) {o : Owner} {x : Nat} (h : s.freshCopy o (x / 64) = none) :
    s.foundByte o x = s.memByte o x := by
  rw [foundByte, h]

/-- A line's owner reads what memory holds of it. -/
theorem State.memByte_owned (s : State) {o : Owner} {x : Nat} (h : look none s.lineOwner (x / 64) = o) :
    s.memByte o x = s.ownedByte x := if_pos h

/-- Another owner deciphers the stored line under its own key. -/
theorem State.memByte_foreign (s : State) {o : Owner} {x : Nat} (h : look none s.lineOwner (x / 64) ≠ o) :
    s.memByte o x = (openLine o (x / 64) (sealLine (look none s.lineOwner (x / 64)) (x / 64) (s.ownedLine (x / 64)))).getD (x % 64) 0 :=
  if_neg h

theorem State.ownedByte_of_read (s : State) {x : Nat} {b : Byte} (h : readByte s.mem x = some b) : s.ownedByte x = b := by
  rw [ownedByte, h]

theorem State.ownedByte_cold (s : State) {x : Nat} (h : readByte s.mem x = none) :
    s.ownedByte x = (openLine (look none s.lineOwner (x / 64)) (x / 64) (coldLine (x / 64))).getD (x % 64) 0 := by
  rw [ownedByte, h]

/-- Which byte of memory a state holds, and under which owner, is all that its reader sees. -/
theorem State.memByte_congr {s t : State} (o : Owner) {x : Nat} (hmem : ∀ y, y / 64 = x / 64 → readByte t.mem y = readByte s.mem y)
    (hown : look none t.lineOwner (x / 64) = look none s.lineOwner (x / 64)) : t.memByte o x = s.memByte o x := by
  have hbyte : ∀ y, y / 64 = x / 64 → t.ownedByte y = s.ownedByte y := by
    intro y hy
    rw [ownedByte, ownedByte, hmem y hy, hy, hown]
  have hline : t.ownedLine (x / 64) = s.ownedLine (x / 64) :=
    List.map_congr_left fun i hi => hbyte _ (by have := List.mem_range.mp hi; omega)
  rw [memByte, memByte, hown, hbyte x rfl, hline]

/-- A line written back holds its data, under its own tag. -/
theorem State.memByte_writeBack (s : State) (c : CLine) {x : Nat} (hx : x / 64 = c.line) (hw : tableWf none s.lineOwner = true) :
    (s.writeBack c).memByte c.owner x = c.data.getD (x % 64) 0 := by
  have hlen : c.bytes.length = 64 := by simp [CLine.bytes]
  have hi : x % 64 < c.bytes.length := by omega
  have hat : 64 * c.line + x % 64 = x := by omega
  have hread : readByte (s.writeBack c).mem x = some (c.bytes[x % 64]'hi) := by
    have hin := readByte_writeBytes_same (64 * c.line) (x % 64) c.bytes s.mem hi
    rwa [hat] at hin
  have hdata : c.bytes[x % 64]'hi = c.data.getD (x % 64) 0 := by
    simp only [CLine.bytes, List.getElem_take, List.getElem_append]
    split
    · rename_i hin
      rw [List.getD_eq_getElem?_getD, List.getElem?_eq_getElem hin, Option.getD_some]
    · rename_i hout
      rw [List.getElem_replicate, List.getD_eq_getElem?_getD, List.getElem?_eq_none (Nat.not_lt.mp hout), Option.getD_none]
  rw [memByte_owned, ownedByte_of_read _ hread, hdata]
  rw [hx]
  exact look_put_same _ _ _ _ hw

/-- A byte of a line that nothing has written. -/
theorem State.readByte_unwritten (s : State) {x : Nat} (h : s.written (x / 64) = false) : readByte s.mem x = none := by
  have hnone := List.any_eq_false.mp h (x % 64) (List.mem_range.mpr (Nat.mod_lt _ (by decide)))
  rw [Nat.div_add_mod] at hnone
  simpa using hnone

/-- A line in the clear that nothing has written holds its cold bits. -/
theorem State.ownedLine_cold (s : State) (line : Nat) (h : s.written line = false) (ho : look none s.lineOwner line = none) :
    s.ownedLine line = coldLine line := by
  refine List.map_congr_left fun i hi => ?_
  have hi := List.mem_range.mp hi
  have hl : (64 * line + i) / 64 = line := by omega
  have hm : (64 * line + i) % 64 = i := by omega
  rw [s.ownedByte_cold (s.readByte_unwritten (by rw [hl]; exact h)), hl, hm, ho]
  simp [openLine, coldLine, hi]

/-- What an owner finds in a line is what memory holds for it once it has taken the line over. -/
theorem State.memByte_ownLine (s : State) (o : Owner) {x line : Nat} (hx : x / 64 = line) (hw : tableWf none s.lineOwner = true) :
    (s.ownLine o line).memByte o x = s.foundByte o x := by
  subst hx
  cases hfresh : s.freshCopy o (x / 64) with
  | some c =>
    obtain ⟨hl, ho⟩ := s.freshCopy_owner o _ c hfresh
    rw [s.foundByte_cached hfresh, ← s.memByte_writeBack c hl.symm hw, ho]
    simp only [ownLine, hfresh]
  | none =>
    rw [s.foundByte_uncached hfresh]
    simp only [ownLine, hfresh]
    split
    · rfl
    · rename_i hforeign
      split
      · have hdata := s.memByte_writeBack { line := x / 64, owner := o, data := s.memLine o (x / 64) } (x := x) rfl hw
        refine hdata.trans ?_
        have hlt : x % 64 < 64 := Nat.mod_lt _ (by decide)
        simp [memLine, hlt, Nat.div_add_mod]
      · rename_i hcold
        obtain ⟨hun, hnone⟩ : s.written (x / 64) = false ∧ look none s.lineOwner (x / 64) = none := by
          simpa using hcold
        have hown : look none (put none (x / 64) o s.lineOwner) (x / 64) = o := look_put_same _ _ _ _ hw
        rw [memByte_owned _ hown, s.memByte_foreign hforeign, hnone, s.ownedLine_cold _ hun hnone]
        refine Eq.trans (ownedByte_cold _ ?_) ?_
        · exact s.readByte_unwritten hun
        · exact congrArg (fun w => (openLine w (x / 64) (coldLine (x / 64))).getD (x % 64) 0) hown

theorem State.ownLine_ownerWf (s : State) (o : Owner) (line : Nat) (hw : tableWf none s.lineOwner = true) :
    tableWf none (s.ownLine o line).lineOwner = true := by
  unfold ownLine
  split
  · exact tableWf_put _ _ _ _ hw
  · split
    · exact hw
    · split
      · exact tableWf_put _ _ _ _ hw
      · exact tableWf_put _ _ _ _ hw

/-! ## A write within one line -/

section
variable (s : State) (o : Owner) {dpa : Nat} {bs : List Byte}

theorem State.devWriteLine_ownerWf (hw : tableWf none s.lineOwner = true) :
    tableWf none (s.devWriteLine o dpa bs).lineOwner = true := by
  unfold devWriteLine devPut
  dsimp only
  split
  · exact s.ownLine_ownerWf o _ hw
  · exact hw

/-- No copy of the line stays in the dies' caches. -/
theorem State.freshCopy_devWriteLine_same {x : Nat} (hx : x / 64 = dpa / 64) :
    (s.devWriteLine o dpa bs).freshCopy o (x / 64) = none := by
  rw [hx, freshCopy, List.find?_eq_none]
  intro c hc
  have hline := (List.mem_filter.mp hc).2
  simp_all

/-- The copies of the other lines stay. -/
theorem State.freshCopy_devWriteLine_other {x : Nat} (hx : x / 64 ≠ dpa / 64) :
    (s.devWriteLine o dpa bs).freshCopy o (x / 64) = s.freshCopy o (x / 64) := by
  have hcaches : (s.devPut o dpa bs).caches = s.caches := by
    unfold devPut
    split
    · exact s.ownLine_caches o _
    · rfl
  simp only [freshCopy, devWriteLine, hcaches, List.find?_filter]
  congr 1
  funext c
  by_cases hc : c.line = x / 64 <;> simp [hc, hx]

/-- Another line holds for every reader what it held. -/
theorem State.foundByte_devWriteLine_otherLine {x : Nat} (hl : dpa % 64 + bs.length ≤ 64) (hx : x / 64 ≠ dpa / 64) :
    (s.devWriteLine o dpa bs).foundByte o x = s.foundByte o x := by
  have hmem : (s.devWriteLine o dpa bs).memByte o x = s.memByte o x := by
    refine memByte_congr o (fun y hy => s.readByte_devPut_other o dpa y bs hl (by rw [hy]; exact hx)) ?_
    unfold devWriteLine devPut
    dsimp only
    split
    · exact s.ownLine_owner_other o _ _ hx
    · rfl
  rw [foundByte, foundByte, s.freshCopy_devWriteLine_other o hx, hmem]

/-- A byte beside those written in a line of populated memory is the byte that its writer found there. -/
theorem State.foundByte_devWriteLine_beside {x : Nat} (hw : tableWf none s.lineOwner = true) (hx : x / 64 = dpa / 64)
    (hout : x < dpa ∨ dpa + bs.length ≤ x) (hp : s.populated dpa = true) (hr : s.reached dpa = true) :
    (s.devWriteLine o dpa bs).foundByte o x = s.foundByte o x := by
  have hput : s.devPut o dpa bs = { s.ownLine o (dpa / 64) with mem := writeBytes dpa bs (s.ownLine o (dpa / 64)).mem } := by
    rw [devPut, hp, hr]
    rfl
  have howner : look none (s.ownLine o (dpa / 64)).lineOwner (x / 64) = o := by
    rw [hx]
    exact s.ownLine_owner o _ hw
  have howner' : look none (s.devWriteLine o dpa bs).lineOwner (x / 64) = o := by
    simpa only [devWriteLine, hput] using howner
  have hread : readByte (s.devWriteLine o dpa bs).mem x = readByte (s.ownLine o (dpa / 64)).mem x := by
    simpa only [devWriteLine, hput] using readByte_writeBytes_other dpa x bs _ hout
  rw [foundByte_uncached _ (s.freshCopy_devWriteLine_same o hx), ← s.memByte_ownLine o hx hw, memByte_owned _ howner',
    memByte_owned _ howner, ownedByte, ownedByte, hread, howner', howner]

/-- A write within one line leaves every populated byte outside it as its writer reads it. -/
theorem State.devByte_devWriteLine_other {x : Nat} (hw : tableWf none s.lineOwner = true) (hl : dpa % 64 + bs.length ≤ 64)
    (hout : x < dpa ∨ dpa + bs.length ≤ x) (hp : s.populated x = true) :
    (s.devWriteLine o dpa bs).devByte o x = s.devByte o x := by
  have hreach : (s.devWriteLine o dpa bs).reached x = s.reached x := s.reached_of_hub _ _ (s.devWriteLine_hub o dpa bs)
  cases hr : s.reached x with
  | false => rw [devByte_unreached _ o (hreach.trans hr), s.devByte_unreached o hr]
  | true =>
    rw [devByte_reached _ o (hreach.trans hr), s.devByte_reached o hr]
    by_cases hx : x / 64 = dpa / 64
    · exact s.foundByte_devWriteLine_beside o hw hx hout ((s.populated_of_line hx).symm.trans hp) ((s.reached_of_line hx).symm.trans hr)
    · exact s.foundByte_devWriteLine_otherLine o hl hx

end

/-! ## A write over several lines -/

/-- A piece (address, offset, length) of `n` bytes at `a`: within them, and within one line. -/
structure IsPiece (a n : Nat) (q : Nat × Nat × Nat) : Prop where
  address : q.1 = a + q.2.1
  within : q.2.1 + q.2.2 ≤ n
  oneLine : q.1 % 64 + q.2.2 ≤ 64

/-- Whether a piece has the byte at an address. -/
def covers (q : Nat × Nat × Nat) (x : Nat) : Prop := q.1 ≤ x ∧ x < q.1 + q.2.2

theorem isPiece_of_mem {a n : Nat} {q : Nat × Nat × Nat} (h : q ∈ lineParts a n) : IsPiece a n q := by
  obtain ⟨i, -, hq⟩ := List.mem_filterMap.mp h
  dsimp only at hq
  split at hq
  · cases hq
    constructor <;> dsimp only <;> omega
  · cases hq

/-- Every byte lies in a piece. -/
theorem lineParts_cover {a n j : Nat} (h : j < n) : ∃ q ∈ lineParts a n, covers q (a + j) := by
  let i := (a + j) / 64 - a / 64
  have hlo : max a (64 * (a / 64 + i)) ≤ a + j := by omega
  have hhi : a + j < min (a + n) (64 * (a / 64 + i + 1)) := by omega
  refine ⟨_, List.mem_filterMap.mpr ⟨i, List.mem_range.mpr (by omega), if_pos (Nat.lt_of_le_of_lt hlo hhi)⟩, ?_, ?_⟩
  · exact hlo
  · dsimp only
    omega

/-- The bytes of a piece. -/
def pieceOf (bs : List Byte) (q : Nat × Nat × Nat) : List Byte := (bs.drop q.2.1).take q.2.2

theorem pieceOf_length {a : Nat} {bs : List Byte} {q : Nat × Nat × Nat} (h : IsPiece a bs.length q) : (pieceOf bs q).length = q.2.2 := by
  have hin := h.within
  simp only [pieceOf, List.length_take, List.length_drop]
  omega

/-- Pieces of a write, one after another. -/
def State.devWriteParts (s : State) (o : Owner) (bs : List Byte) (l : List (Nat × Nat × Nat)) : State :=
  l.foldl (fun s q => s.devWriteLine o q.1 (pieceOf bs q)) s

theorem State.devWrite_eq_parts (s : State) (o : Owner) (dpa : Nat) (bs : List Byte) :
    s.devWrite o dpa bs = s.devWriteParts o bs (lineParts dpa bs.length) := rfl

theorem State.devWriteParts_cons (s : State) (o : Owner) (bs : List Byte) (q : Nat × Nat × Nat) (l : List (Nat × Nat × Nat)) :
    s.devWriteParts o bs (q :: l) = (s.devWriteLine o q.1 (pieceOf bs q)).devWriteParts o bs l := rfl

/-- Writing device memory leaves which of its bytes are populated. -/
theorem State.OnlyMemory.populated {s t : State} (h : s.OnlyMemory t) : t.populated = s.populated := h.eq State.populated fun _ _ _ => rfl

theorem State.OnlyMemory.reached {s t : State} (h : s.OnlyMemory t) : t.reached = s.reached := h.eq State.reached fun _ _ _ => rfl

section
variable {o : Owner} {a : Nat} {bs : List Byte} {l : List (Nat × Nat × Nat)}

/-- A populated byte outside the pieces reads as before. -/
theorem State.devByte_devWriteParts_other (s : State) {x : Nat} (hw : tableWf none s.lineOwner = true)
    (hl : ∀ q ∈ l, IsPiece a bs.length q) (hout : ∀ q ∈ l, ¬ covers q x) (hp : s.populated x = true) :
    (s.devWriteParts o bs l).devByte o x = s.devByte o x := by
  induction l generalizing s with
  | nil => rfl
  | cons q l ih =>
    obtain ⟨hq, hl⟩ := List.forall_mem_cons.mp hl
    obtain ⟨hx, hout⟩ := List.forall_mem_cons.mp hout
    have hlen := pieceOf_length hq
    have hone := hq.oneLine
    rw [devWriteParts_cons, ih _ (s.devWriteLine_ownerWf o hw) hl hout (by rw [(s.devWriteLine_onlyMemory o _ _).populated, hp]),
      s.devByte_devWriteLine_other o hw (by omega) (by rw [hlen]; unfold covers at hx; omega) hp]

/-- A populated byte of a piece whose die is up reads as the byte written there. -/
theorem State.devByte_devWriteParts_same (s : State) {j : Nat} (hj : j < bs.length) (hw : tableWf none s.lineOwner = true)
    (hl : ∀ q ∈ l, IsPiece a bs.length q) (hin : ∃ q ∈ l, covers q (a + j)) (hp : s.populated (a + j) = true)
    (hr : s.reached (a + j) = true) : (s.devWriteParts o bs l).devByte o (a + j) = bs[j]'hj := by
  induction l generalizing s with
  | nil => simp at hin
  | cons q l ih =>
    obtain ⟨hq, hl⟩ := List.forall_mem_cons.mp hl
    have honly := s.devWriteLine_onlyMemory o q.1 (pieceOf bs q)
    have hw' := s.devWriteLine_ownerWf o (dpa := q.1) (bs := pieceOf bs q) hw
    rw [devWriteParts_cons]
    by_cases hrest : ∃ q ∈ l, covers q (a + j)
    · exact ih _ hw' hl hrest (by rw [honly.populated, hp]) (by rw [honly.reached, hr])
    · have hnone : ∀ q ∈ l, ¬ covers q (a + j) := fun q hq hc => hrest ⟨q, hq, hc⟩
      obtain ⟨hfrom, hto⟩ : covers q (a + j) := by
        obtain ⟨r, hr, hc⟩ := hin
        obtain rfl | hr := List.mem_cons.mp hr
        · exact hc
        · exact absurd hc (hnone r hr)
      have hlen := pieceOf_length hq
      have hone := hq.oneLine
      have haddr := hq.address
      have hline : (a + j) / 64 = q.1 / 64 := by omega
      have hat : q.1 + (a + j - q.1) = a + j := by omega
      rw [devByte_devWriteParts_other _ hw' hl hnone (by rw [honly.populated, hp])]
      have hsame := s.devByte_devWriteLine_same o q.1 (a + j - q.1) (pieceOf bs q) ((s.populated_of_line hline).symm.trans hp)
        ((s.reached_of_line hline).symm.trans hr) (by rw [hat]; exact hr) hw (by omega) (by omega)
      rw [hat] at hsame
      rw [hsame]
      simp only [pieceOf, List.getElem_take, List.getElem_drop]
      congr 1
      omega

end

section
variable (s : State) {o : Owner} {dpa : Nat} {bs : List Byte}

/-- R76, R82: a write of device memory leaves every populated byte outside it as its writer reads it. -/
theorem State.devByte_devWrite_other {x : Nat} (hw : tableWf none s.lineOwner = true) (hout : x < dpa ∨ dpa + bs.length ≤ x)
    (hp : s.populated x = true) : (s.devWrite o dpa bs).devByte o x = s.devByte o x := by
  rw [devWrite_eq_parts]
  refine s.devByte_devWriteParts_other hw (fun q => isPiece_of_mem) (fun q hq hc => ?_) hp
  have haddr := (isPiece_of_mem hq).address
  have hin := (isPiece_of_mem hq).within
  unfold covers at hc
  omega

/-- R75, R82, R237: the bytes written at populated addresses of dies that are up read back under their owner. -/
theorem State.devByte_devWrite_same {j : Nat} (hj : j < bs.length) (hw : tableWf none s.lineOwner = true)
    (hp : s.populated (dpa + j) = true) (hr : s.reached (dpa + j) = true) : (s.devWrite o dpa bs).devByte o (dpa + j) = bs[j]'hj := by
  rw [devWrite_eq_parts]
  exact s.devByte_devWriteParts_same hj hw (fun q => isPiece_of_mem) (lineParts_cover hj) hp hr

end

/-- The bytes of a number, one by one. -/
theorem getElem_toBytes (n v j : Nat) (h : j < (toBytes n v).length) : (toBytes n v)[j] = BitVec.ofNat 8 (v / 256 ^ j) := by
  induction n generalizing v j with
  | zero => simp [toBytes] at h
  | succ n ih =>
    cases j with
    | zero => simp [toBytes]
    | succ j =>
      have hj : j < (toBytes n (v / 256)).length := by simpa [toBytes] using h
      simp only [toBytes, List.getElem_cons_succ, ih _ _ hj, Nat.div_div_eq_div_mul, Nat.pow_succ, Nat.mul_comm]

end Sys2Proof.Machine
end

section
/-!
PROOF of O47. What the firing of an access leaves as it was (R375 to R380), the bytes of a bank after a write (R200), the bank bytes that
AMOT and SEQGET store (R384, R412), and the host's accesses through the aperture (R73, R76): their rules, then the statement.
-/

namespace Sys2Proof.Machine

/-! ## What a firing leaves of the memories and the cells -/

/-- The second cell has the banks, bank bytes, tiles and accumulator entries of the first. -/
structure Cell.SameStorage (c d : Cell) : Prop where
  banks : d.banks = c.banks
  bytes : d.bytes = c.bytes
  tiles : d.tiles = c.tiles
  acc : d.acc = c.acc

theorem Cell.SameStorage.refl (c : Cell) : c.SameStorage c := ⟨rfl, rfl, rfl, rfl⟩

theorem Cell.SameStorage.trans {c d e : Cell} (h : c.SameStorage d) (k : d.SameStorage e) : c.SameStorage e :=
  ⟨k.banks.trans h.banks, k.bytes.trans h.bytes, k.tiles.trans h.tiles, k.acc.trans h.acc⟩

/-- A frame slot taken is none of the storage. -/
theorem Cell.takeSlot_sameStorage {c : Cell} {region frm : Nat} {q : Nat × Cell} (h : c.takeSlot region frm = some q) :
    c.SameStorage q.2 := by
  unfold Cell.takeSlot at h
  split at h
  · cases h; exact .refl c
  · split at h
    · cases h; exact ⟨rfl, rfl, rfl, rfl⟩
    · split at h
      · cases h; exact ⟨rfl, rfl, rfl, rfl⟩
      · cases h

/-- A line of the cell cache used moves to the front, and nothing else of the cell moves. -/
theorem Cell.cacheUse_sameStorage {c : Cell} {ctx va : Nat} {q : CacheLine × Cell} (h : c.cacheUse ctx va = some q) :
    c.SameStorage q.2 := by
  obtain ⟨l, -, hq⟩ := Option.map_eq_some_iff.mp h
  cases hq
  exact ⟨rfl, rfl, rfl, rfl⟩

/-- The memories with their lines' owners and cached copies, the hub, the regions and the dies. -/
def State.outside (s : State) : (List Host.Cell × Assoc Owner × List CLine × List Host.Cell) × Hub × List Region × Assoc Die :=
  ((s.mem, s.lineOwner, s.caches, s.hostMem), s.hub, s.regions, s.dies)

/-- The second state has the memories, the hub, the regions, the dies and the cells' storage of the first. -/
structure State.KeepsStorage (s t : State) : Prop where
  outside : t.outside = s.outside
  cells : tableWf {} s.cells = true → tableWf {} t.cells = true ∧ ∀ k, (s.cell k).SameStorage (t.cell k)

theorem State.KeepsStorage.refl (s : State) : s.KeepsStorage s := ⟨rfl, fun hw => ⟨hw, fun _ => .refl _⟩⟩

/-- A cell after it was changed. -/
theorem State.cell_updCell_same (s : State) (k : Nat) (f : Cell → Cell) (hw : tableWf {} s.cells = true) :
    (s.updCell k f).cell k = f (s.cell k) := by
  simp only [updCell, cell]
  exact look_upd_same _ _ _ _ hw

/-- The other cells. -/
theorem State.cell_updCell_other (s : State) {j k : Nat} (f : Cell → Cell) (h : j ≠ k) : (s.updCell k f).cell j = s.cell j := by
  simp only [updCell, cell]
  exact look_upd_other _ _ _ _ _ h

namespace State.KeepsStorage

variable {s t u : State} (h : s.KeepsStorage t)
include h

/-- A change of other fields. -/
theorem others (hout : u.outside = t.outside) (hcells : u.cells = t.cells) : s.KeepsStorage u where
  outside := hout.trans h.outside
  cells hw := by
    obtain ⟨ht, hst⟩ := h.cells hw
    have hcell : u.cell = t.cell := funext fun k => by simp only [State.cell, hcells]
    exact ⟨hcells ▸ ht, fun k => hcell ▸ hst k⟩

/-- A cell changed outside its storage. -/
theorem updCell (k : Nat) (f : Cell → Cell) (hf : (t.cell k).SameStorage (f (t.cell k))) : s.KeepsStorage (t.updCell k f) where
  outside := h.outside
  cells hw := by
    obtain ⟨ht, hst⟩ := h.cells hw
    refine ⟨tableWf_upd _ _ _ _ ht, fun j => ?_⟩
    by_cases hj : j = k
    · subst hj
      rw [t.cell_updCell_same j f ht]
      exact (hst j).trans hf
    · rw [t.cell_updCell_other f hj]
      exact hst j

/-! ## The firing of an access (R127, R190, R221, R375 to R380) -/

theorem putBack (f : Firing) : s.KeepsStorage (t.putBack f) :=
  (h.updCell f.cell (fun c => { c with waiting := f.acc :: c.waiting }) ⟨rfl, rfl, rfl, rfl⟩).others rfl rfl

theorem takeEntry {k region : Nat} {p : Pool} (ht : t.takeEntry k region = some (p, u)) : s.KeepsStorage u := by
  unfold State.takeEntry at ht
  dsimp only at ht
  split at ht
  · cases ht; exact h.updCell k _ ⟨rfl, rfl, rfl, rfl⟩
  · split at ht
    · cases ht; exact h.updCell k _ ⟨rfl, rfl, rfl, rfl⟩
    · cases ht

theorem updOut (k w a : Nat) (f : OutArc → OutArc) : s.KeepsStorage (t.updOut k w a f) := h.updCell k _ ⟨rfl, rfl, rfl, rfl⟩

theorem updIn (k w a : Nat) (f : InArc → InArc) : s.KeepsStorage (t.updIn k w a f) := h.updCell k _ ⟨rfl, rfl, rfl, rfl⟩

theorem takeArc (f : Firing) (a len : Nat) : s.KeepsStorage (t.takeArc f a len) := by
  unfold State.takeArc
  dsimp only
  split
  · exact h.updOut _ _ _ _
  · split
    · exact h
    · exact (h.updOut _ _ _ _).updIn _ _ _ _

theorem reserve (f : Firing) (targets : List Target) (len : Nat) : s.KeepsStorage (t.reserve f targets len) := by
  refine updCell (foldl_keeps s.KeepsStorage _ (fun v q hv => ?_) _ t h) _ _ ⟨rfl, rfl, rfl, rfl⟩
  split
  · exact hv.takeArc f _ len
  · refine hv.updCell _ _ ?_
    split
    · rename_i hslot
      exact Cell.takeSlot_sameStorage hslot
    · exact .refl _
  · exact hv

theorem sendEnd (r : Region) (b : Binding) (tag : Tag) (empty : Bool) (tiles : Nat) :
    s.KeepsStorage (t.sendEnd r b tag empty tiles) := by
  unfold State.sendEnd State.sendInto
  split
  · exact h.others rfl rfl
  · exact h

theorem countRound (a : Access) : s.KeepsStorage (t.countRound a) := by
  unfold State.countRound
  dsimp only
  split
  · exact h
  · split
    · exact h
    · split
      · exact sendEnd (h.others (u := t.updAgn _ _ _) rfl rfl) _ _ _ _ _
      · exact h.others rfl rfl

theorem advance (a : Access) : s.KeepsStorage (t.advance a) := by
  unfold State.advance
  split
  · exact h
  · exact h.others rfl rfl

theorem respond (a : Access) (v : Nat) (line : Option CacheLine) : s.KeepsStorage (t.respond a v line) :=
  (((h.others (u := t.dropAccess a.id) rfl rfl).advance a).countRound a).others rfl rfl

/-- A store issued changes accesses, responses, and the lines of its cell's cache. -/
theorem storeIssued (cell ctx va : Nat) : s.KeepsStorage (t.storeIssued cell ctx va) := h.others rfl rfl

theorem updAccess (id : Nat) (f : Access → Access) : s.KeepsStorage (t.updAccess id f) := h.others rfl rfl

/-- An access issued updates or reads the cell cache and leaves for its port core, or is answered. -/
theorem issue (a : Access) : s.KeepsStorage (t.issue a) := by
  unfold State.issue
  dsimp only
  split
  · exact h.updAccess _ _
  · split
    · exact h.updAccess _ _
    · split
      · exact ((h.storeIssued _ _ _).updCell _ _ ⟨rfl, rfl, rfl, rfl⟩).updAccess _ _
      · split
        · exact h.updAccess _ _
        · split
          · exact (h.updAccess _ _).updAccess _ _
          · rename_i huse
            have hused := h.updCell a.firing.cell (fun _ => _) (Cell.cacheUse_sameStorage huse)
            exact respond (hused.updCell _ _ ⟨rfl, rfl, rfl, rfl⟩) _ _ _

theorem sendAccess (f : Firing) (b : Binding) (rank : Nat) (target : Target) (op : AccessOp) (pos : Nat) (pool : Pool) :
    s.KeepsStorage (t.sendAccess f b rank target op pos pool) := by
  refine issue ?_ _
  exact h.others rfl rfl

theorem startLate {f : Firing} {targets : List Target} {len : Nat} {mesh : Bool} {eff : Pool → State → State}
    (heff : ∀ (p : Pool) (v : State), s.KeepsStorage v → s.KeepsStorage (eff p v))
    (ht : t.startLate f targets len mesh eff = .next u) : s.KeepsStorage u := by
  unfold State.startLate at ht
  split at ht
  · split at ht
    · split at ht
      · cases ht; exact h.putBack f
      · rename_i hentry
        cases ht
        exact heff _ _ ((h.takeEntry hentry).reserve _ _ _)
    · cases ht; exact heff _ _ (h.reserve _ _ _)
  · cases ht; exact h.putBack f

theorem accessForm {pd : Pd} {seq port : BitVec 5} {t0 : Target} {op : Firing → AccessOp} {pos : Firing → Nat}
    (ht : t.accessForm pd seq port t0 op pos = .next u) : s.KeepsStorage u := by
  unfold State.accessForm at ht
  dsimp only at ht
  split at ht
  · cases ht; exact h
  · split at ht
    · split at ht
      · cases ht; exact h
      · cases ht; exact h.sendAccess _ _ _ _ _ _ _
    · split at ht
      · cases ht; exact h.putBack _
      · exact h.startLate (fun p v hv => hv.sendAccess _ _ _ _ _ _ p) ht

/-- A hold register set PENDING as its load issues (R199). -/
theorem setPending (f : Firing) (r : BitVec 5) :
    s.KeepsStorage (t.updCell f.cell fun c =>
      match c.takeSlot f.region f.frm with
      | none => c
      | some (i, c) => c.setHold i r.toNat { st := .pending }) := by
  refine h.updCell _ _ ?_
  split
  · exact .refl _
  · rename_i hslot
    exact (Cell.takeSlot_sameStorage hslot).trans ⟨rfl, rfl, rfl, rfl⟩

theorem ldh {pd : Pd} {seq port r : BitVec 5} {prevD nextD : BitVec 2} (ht : execLdh pd seq prevD nextD port r t = .next u) :
    s.KeepsStorage u := by
  unfold execLdh at ht
  dsimp only at ht
  split at ht
  · cases ht; exact h
  · split at ht
    · split at ht
      · cases ht; exact h
      · cases ht; exact h.sendAccess _ _ _ _ _ _ _
    · split at ht
      · cases ht; exact h.putBack _
      · split at ht
        · cases ht; exact h.putBack _
        · rename_i hentry
          cases ht
          exact ((h.takeEntry hentry).setPending _ r).sendAccess _ _ _ _ _ _ _

end State.KeepsStorage

/-- The accesses through a binding are LDH and the instructions of one form (R375). -/
theorem exec_accessOf {i : Instr} {q : BitVec 5 × BitVec 5} (h : Claims.accessOf i = some q) (s : State) :
    (∃ pd seq port t op pos, exec i s = s.accessForm pd seq port t op pos) ∨
    ∃ pd seq prevD nextD port r, exec i s = execLdh pd seq prevD nextD port r s := by
  unfold Claims.accessOf at h
  split at h
  case h_5 pd seq prevD nextD port r => exact .inr ⟨pd, seq, prevD, nextD, port, r, rfl⟩
  case h_14 => cases h
  all_goals
    simp only [exec, execLd, execSt, execLdt, execStt, execPft, execScas64, execScas128, execSadd, execSswap, execAmoadd, execAmomin,
      execAmomax]
    exact .inl ⟨_, _, _, _, _, _, rfl⟩

/-- R375: whatever an access through a binding does as it fires, it leaves the memories and the cells' storage. -/
theorem exec_access_keepsStorage {i : Instr} {s t : State} {q : BitVec 5 × BitVec 5} (hi : Claims.accessOf i = some q)
    (h : exec i s = .next t) : s.KeepsStorage t := by
  obtain ⟨pd, seq, port, t0, op, pos, he⟩ | ⟨pd, seq, prevD, nextD, port, r, he⟩ := exec_accessOf hi s
  · exact (State.KeepsStorage.refl s).accessForm (he.symm.trans h)
  · exact (State.KeepsStorage.refl s).ldh (he.symm.trans h)

/-! ## The bytes of a bank (R200) -/

/-- In a bank of its own, or in a pair, no two offsets below 64 KiB have one byte. -/
theorem bankKey_inj {bank a b : Nat} {intlv : Bool} (ha : a < 65536) (hb : b < 65536) (h : bankKey bank intlv a = bankKey bank intlv b) :
    a = b := by
  cases intlv
  · simp only [bankKey, Bool.false_eq_true, if_false] at h
    omega
  · simp only [bankKey, if_true] at h
    omega

/-- One byte of a bank written. -/
def Cell.bankPut (c : Cell) (bank a : Nat) (b : Byte) : Cell :=
  { c with bytes := put 0 (bankKey bank (c.bank bank).intlv a) b c.bytes }

theorem Cell.bankWrite_nil (c : Cell) (bank a : Nat) : c.bankWrite bank a [] = c := rfl

theorem Cell.bankWrite_cons (c : Cell) (bank a : Nat) (b : Byte) (bs : List Byte) :
    c.bankWrite bank a (b :: bs) = (c.bankPut bank a b).bankWrite bank (a + 1) bs := rfl

theorem Cell.bankByte_bankPut_same (c : Cell) (bank a : Nat) (b : Byte) (h : tableWf 0 c.bytes = true) :
    (c.bankPut bank a b).bankByte bank a = b := look_put_same _ _ _ _ h

theorem Cell.bankByte_bankPut_other (c : Cell) {bank a x : Nat} (b : Byte) (ha : a < 65536) (hx : x < 65536) (hne : x ≠ a) :
    (c.bankPut bank a b).bankByte bank x = c.bankByte bank x :=
  look_put_other _ _ _ _ _ fun hkey => hne (bankKey_inj hx ha hkey)

/-- A write to a bank leaves every byte of it outside the write. -/
theorem Cell.bankByte_bankWrite_other (c : Cell) {bank a x : Nat} {bs : List Byte} (hlen : a + bs.length ≤ 65536) (hx : x < 65536)
    (hout : x < a ∨ a + bs.length ≤ x) : (c.bankWrite bank a bs).bankByte bank x = c.bankByte bank x := by
  induction bs generalizing c a with
  | nil => rfl
  | cons b bs ih =>
    rw [List.length_cons] at hlen hout
    rw [bankWrite_cons, ih _ (by omega) (by omega), c.bankByte_bankPut_other b (by omega) hx (by omega)]

/-- The bytes written read back. -/
theorem Cell.bankByte_bankWrite_same (c : Cell) {bank a j : Nat} {bs : List Byte} (hw : tableWf 0 c.bytes = true)
    (hlen : a + bs.length ≤ 65536) (hj : j < bs.length) : (c.bankWrite bank a bs).bankByte bank (a + j) = bs.getD j 0 := by
  induction bs generalizing c a j with
  | nil => cases hj
  | cons b bs ih =>
    rw [List.length_cons] at hlen hj
    rw [bankWrite_cons]
    cases j with
    | zero =>
      rw [bankByte_bankWrite_other _ (by omega) (by omega) (by omega)]
      exact c.bankByte_bankPut_same bank a b hw
    | succ j =>
      have hrest := ih (c.bankPut bank a b) (a := a + 1) (j := j) (tableWf_put _ _ _ _ hw) (by omega) (by omega)
      rw [show a + (j + 1) = a + 1 + j by omega, hrest]
      rfl

/-! ## AMOT and SEQGET (R384, R412) -/

/-- The second state has stored bytes at an address of a bank of a cell, and has the memories, the hub, the regions and the other cells
of the first. -/
structure State.StoresInBank (s t : State) (k bank a : Nat) (bs : List Byte) : Prop where
  mem : t.mem = s.mem
  hostMem : t.hostMem = s.hostMem
  hub : t.hub = s.hub
  regions : t.regions = s.regions
  others : ∀ j, j ≠ k → t.cell j = s.cell j
  banks : (t.cell k).banks = (s.cell k).banks
  bytes : (t.cell k).bytes = ((s.cell k).bankWrite bank a bs).bytes

theorem State.putBack_storesNothing (s : State) (f : Firing) (bank a : Nat) (hw : tableWf {} s.cells = true) :
    s.StoresInBank (s.putBack f) f.cell bank a [] := by
  have hcell : (s.putBack f).cell f.cell = { s.cell f.cell with waiting := f.acc :: (s.cell f.cell).waiting } :=
    s.cell_updCell_same f.cell (fun c => { c with waiting := f.acc :: c.waiting }) hw
  exact ⟨rfl, rfl, rfl, rfl, fun j hj => s.putBack_otherCell f j hj, by rw [hcell], by rw [hcell]; rfl⟩

theorem State.report_storesNothing (s : State) (f : Firing) (accord : Bool) (cls : FaultClass) (bodyA k bank a : Nat) :
    s.StoresInBank (s.report f accord cls bodyA) k bank a [] := ⟨rfl, rfl, rfl, rfl, fun _ _ => rfl, rfl, rfl⟩

theorem State.updCell_storesInBank (s : State) (k bank a : Nat) (bs : List Byte) (hw : tableWf {} s.cells = true) :
    s.StoresInBank (s.updCell k fun c => c.bankWrite bank a bs) k bank a bs := by
  have hcell := s.cell_updCell_same k (fun c => c.bankWrite bank a bs) hw
  exact ⟨rfl, rfl, rfl, rfl, fun j hj => s.cell_updCell_other _ hj, by rw [hcell]; rfl, by rw [hcell]⟩

/-- A firing that sends nothing on and writes a bank stores its bytes, or waits. -/
theorem State.finish_storesInBank {s t : State} {f : Firing} {l : List (Target × Val)} {bank a : Nat} {bs : List Byte}
    (hw : tableWf {} s.cells = true) (hl : ∀ u : State, u.sendAll f f.acc.tag false l = u)
    (h : s.finish f l 0 (fun s => s.updCell f.cell fun c => c.bankWrite bank a bs) = .next t) :
    s.StoresInBank t f.cell bank a bs ∨ s.StoresInBank t f.cell bank a [] := by
  obtain ⟨-, rfl⟩ | ⟨-, rfl⟩ := State.finish_cases s t f l 0 _ h
  · rw [State.raise_none, hl]
    exact .inl (s.updCell_storesInBank f.cell bank a bs hw)
  · exact .inr (s.putBack_storesNothing f bank a hw)

/-- The fields of a word are those of its number. -/
theorem bits_toNat {w : Nat} (v : BitVec w) {hi lo n : Nat} (h : hi + 1 - lo = n) : bits v.toNat hi lo = (v.extractLsb' lo n).toNat := by
  rw [bits, h, BitVec.extractLsb'_toNat, Nat.shiftRight_eq_div_pow]

theorem amotLen_le (op : AmotOp) : (amotLen op).1 ≤ 8 := by
  cases op <;> decide

/-- AMOT without a completion stores at most 8 bytes, at the element that its tile, row and column name. -/
theorem amot_storesInBank {s t : State} {pd : Pd} {td : BitVec 5} {op : AmotOp} (hw : tableWf {} s.cells = true)
    (hp : s.sch.cur.passes pd = true) (h : exec (.amot pd td op .none) s = .next t) :
    ∃ bs : List Byte, bs.length ≤ 8 ∧
      s.StoresInBank t s.sch.cur.cell ((s.cell s.sch.cur.cell).tile td.toNat).bank.toNat
        (((s.cell s.sch.cur.cell).tile td.toNat).rowAddr ((Claims.portL 64 s).extractLsb' 12 10).toNat +
          4 * ((Claims.portL 64 s).extractLsb' 0 12).toNat) bs := by
  rw [← bits_toNat (Claims.portL 64 s) (hi := 21) (lo := 12) rfl, ← bits_toNat (Claims.portL 64 s) (hi := 11) (lo := 0) rfl]
  have hfire : execAmot pd td op .none s = .next t := h
  rw [execAmot, State.fire_passed _ _ _ hp] at hfire
  dsimp only at hfire
  split at hfire
  · cases hfire
    exact ⟨[], Nat.zero_le _, s.putBack_storesNothing _ _ _ hw⟩
  · split at hfire
    · cases hfire
      exact ⟨[], Nat.zero_le _, s.report_storesNothing _ _ _ _ _ _ _⟩
    · obtain hstored | hwaits := State.finish_storesInBank hw (fun _ => rfl) hfire
      · exact ⟨_, by rw [toBytes_length]; exact amotLen_le op, hstored⟩
      · exact ⟨[], Nat.zero_le _, hwaits⟩

/-- SEQGET whose results are discarded stores the next count at its counter, or nothing. -/
theorem seqget_storesInBank {s t : State} {pd : Pd} (hw : tableWf {} s.cells = true) (hp : s.sch.cur.passes pd = true)
    (h : exec (.seqget pd .discard .discard) s = .next t) :
    (∃ bank a, s.StoresInBank t s.sch.cur.cell bank a []) ∨
    ∃ j a, (s.cell s.sch.cur.cell).seqAt (Claims.portR 32 s).toNat ((Claims.portL 32 s).extractLsb' 0 19).toNat = some (j, a) ∧
      s.StoresInBank t s.sch.cur.cell ((s.cell s.sch.cur.cell).tile j).bank.toNat a
        (toBytes 3 (((s.cell s.sch.cur.cell).bankRead ((s.cell s.sch.cur.cell).tile j).bank.toNat a 4 % 2 ^ 24 + 1) % 2 ^ 24)) := by
  rw [← bits_toNat (Claims.portL 32 s) (hi := 18) (lo := 0) rfl]
  have hfire : execSeqget pd .discard .discard s = .next t := h
  rw [execSeqget, State.fire_passed _ _ _ hp] at hfire
  dsimp only at hfire
  split at hfire
  · cases hfire
    exact .inl ⟨0, 0, s.report_storesNothing _ _ _ _ _ _ _⟩
  · rename_i j a hat
    split at hfire
    · cases hfire
      exact .inl ⟨0, 0, s.putBack_storesNothing _ _ _ hw⟩
    · obtain hstored | hwaits := State.finish_storesInBank hw (fun _ => rfl) hfire
      · rw [← Nat.mod_add_mod] at hstored
        exact .inr ⟨j, a, hat, hstored⟩
      · exact .inl ⟨_, _, hwaits⟩

/-! ## The aperture (R73, R76) -/

/-- The bytes that an access through the aperture moves (R73). -/
def Args.aperLen (a : Args) : Nat := min 8 a.size

theorem State.inBar4_iff (s : State) (offset : Nat) : s.inBar4 offset = true ↔ offset < 2 ^ s.hub.bar4 := by
  simp [inBar4]

theorem apertureWrite_outside (s : State) (h : s.inBar4 s.sch.args.offset = false) : exec .apertureWrite s = .next s := by
  simp [exec, execApertureWrite, h]

theorem apertureRead_outside (s : State) (h : s.inBar4 s.sch.args.offset = false) : exec .apertureRead s = .next s := by
  simp [exec, execApertureRead, h]

/-- The state in which the host has written through the aperture. -/
def State.aperWritten (s : State) : State :=
  s.devWrite s.aperOwner (s.hub.aper.target s.sch.args.offset) (toBytes s.sch.args.aperLen s.sch.args.value.toNat)

theorem apertureWrite_inside (s : State) (h : s.inBar4 s.sch.args.offset = true) : exec .apertureWrite s = .next s.aperWritten := by
  simp [exec, execApertureWrite, h, State.aperWritten, Args.aperLen]

theorem apertureRead_inside (s : State) (h : s.inBar4 s.sch.args.offset = true) :
    exec .apertureRead s = .next { s with hub := { s.hub with hostRead := BitVec.ofNat 64 (ofBytes
      ((List.range s.sch.args.aperLen).map fun j => s.aperByte (s.hub.aper.target s.sch.args.offset + j))) } } := by
  simp [exec, execApertureRead, h, Args.aperLen]

theorem State.aperWritten_onlyMemory (s : State) : s.OnlyMemory s.aperWritten := s.devWrite_onlyMemory _ _ _

/-- The aperture's owner and what is populated are the hub's and flash's to say. -/
theorem State.aperByte_aperWritten (s : State) (x : Nat) :
    s.aperWritten.aperByte x = if s.populated x then s.aperWritten.devByte s.aperOwner x else 0xFF := by
  have howner : s.aperWritten.aperOwner = s.aperOwner := s.aperWritten_onlyMemory.eq State.aperOwner fun _ _ _ => rfl
  rw [aperByte, s.aperWritten_onlyMemory.populated, howner]

section
variable (s : State) (hw : tableWf none s.lineOwner = true)
include hw

/-- Outside the write the aperture reads what it read. -/
theorem State.aperWritten_other {x : Nat} (hout : x < s.hub.aper.target s.sch.args.offset ∨
    s.hub.aper.target s.sch.args.offset + s.sch.args.aperLen ≤ x) : s.aperWritten.aperByte x = s.aperByte x := by
  rw [aperByte_aperWritten, aperByte]
  cases hp : s.populated x with
  | false => rfl
  | true => exact s.devByte_devWrite_other hw (by rwa [toBytes_length]) hp

/-- Byte `j` written reads back as byte `j` of the value. -/
theorem State.aperWritten_same {j : Nat} (hj : j < s.sch.args.aperLen)
    (hp : s.populated (s.hub.aper.target s.sch.args.offset + j) = true) (hr : s.reached (s.hub.aper.target s.sch.args.offset + j) = true) :
    s.aperWritten.aperByte (s.hub.aper.target s.sch.args.offset + j) = s.sch.args.value.extractLsb' (8 * j) 8 := by
  have hlen : j < (toBytes s.sch.args.aperLen s.sch.args.value.toNat).length := by rwa [toBytes_length]
  rw [aperByte_aperWritten, if_pos hp]
  refine (s.devByte_devWrite_same hlen hw hp hr).trans ?_
  rw [getElem_toBytes, BitVec.extractLsb', Nat.shiftRight_eq_div_pow, Nat.pow_mul]

end

end Sys2Proof.Machine

section
open Sys2Proof Sys2Proof.Machine

/-- Settles O47: an access that fires keeps the storage in every case of its form; a bank's bytes are of distinct keys; AMOT and SEQGET
store or leave the bytes of one bank; the aperture's write takes its lines over with the bytes that its owner found in them. -/
theorem storesAndTheirFrames : Obligations.StoresAndTheirFrames := by
  unfold Obligations.StoresAndTheirFrames
  refine ⟨?access, ?bank, ?amot, ?seqget, ?aperture⟩
  case access =>
    intro i s t q hw hi hexec
    obtain ⟨hout, hcells⟩ := exec_access_keepsStorage hi hexec
    obtain ⟨⟨hmem, howner, hcaches, hhost⟩, hhub, hregions, hdies⟩ : (t.mem = s.mem ∧ t.lineOwner = s.lineOwner ∧ t.caches = s.caches ∧
        t.hostMem = s.hostMem) ∧ t.hub = s.hub ∧ t.regions = s.regions ∧ t.dies = s.dies := by
      simpa [State.outside] using hout
    exact ⟨hmem, howner, hcaches, hhost, hhub, hregions, hdies, fun k =>
      have hk := (hcells hw).2 k
      ⟨hk.banks, hk.bytes, hk.tiles, hk.acc⟩⟩
  case bank =>
    intro c bank a x bs hw _ hlen hx d
    exact ⟨rfl, fun hout => c.bankByte_bankWrite_other hlen hx hout, fun j hj => c.bankByte_bankWrite_same hw hlen hj⟩
  case amot =>
    intro pd td op s t hw hp hexec f tile at_
    obtain ⟨bs, hlen, h⟩ := amot_storesInBank hw hp hexec
    exact ⟨h.mem, h.hostMem, h.hub, h.regions, h.others, h.banks, bs, hlen, h.bytes⟩
  case seqget =>
    intro pd s t hw hp hexec f c
    obtain ⟨bank, a, h⟩ | ⟨j, a, hat, h⟩ := seqget_storesInBank hw hp hexec
    · exact ⟨h.mem, h.hostMem, h.others, .inl h.bytes⟩
    · exact ⟨h.mem, h.hostMem, h.others, .inr ⟨j, a, hat, h.bytes⟩⟩
  case aperture =>
    intro s hw a n
    refine ⟨fun hout => ?_, fun hin => ?_⟩
    · have hbar : s.inBar4 s.sch.args.offset = false := by simpa [State.inBar4] using hout
      exact ⟨apertureWrite_outside s hbar, apertureRead_outside s hbar⟩
    · have hbar := (s.inBar4_iff _).mpr hin
      exact ⟨_, apertureWrite_inside s hbar, fun x hx => s.aperWritten_other hw hx, fun j hj hp hr => s.aperWritten_same hw hj hp hr,
        s.devWrite_hostMem _ _ _, s.devWrite_regions _ _ _, s.devWrite_cells _ _ _, s.devWrite_hub _ _ _,
        apertureRead_inside s hbar⟩

end
end

section
/-!
PROOF of O32. The instructions that send a request off their cell: to the hub's queues (R387), to a group's tree (R389), to a chain's
tail and timeline (R391 to R393) and to a running collective (R394); one lemma per form and outcome, then the statement.
-/

namespace Sys2Proof.Machine

/-- Port L of the firing at whole bytes. -/
theorem portL_toNat (s : State) (n : Nat) : (Claims.portL (8 * n) s).toNat = s.sch.cur.l n := by
  simp [Claims.portL, Claims.low, Firing.l, Val.low]

/-- A word of 64 bits is a value of 8 bytes. -/
theorem val_dword (v : Dword) : Claims.val v = Val.of 8 v.toNat := by
  rw [Claims.val, Val.of, Nat.mod_eq_of_lt v.isLt]

theorem State.takeTrap_firing (s : State) (f : Firing) (cls : FaultClass) {code operand : Nat} (hc : code < 2 ^ 32)
    (ho : operand < 2 ^ 64) : s.takeTrap f cls code operand = .next (s.report f true cls (code + operand * 2 ^ 32)) := by
  rw [State.takeTrap_next, Nat.mod_eq_of_lt hc, Nat.mod_eq_of_lt ho]

section
variable {s q : State} {pd : Pd} {t0 : Target} {pool : Pool}
  (hp : s.sch.cur.passes pd = true) (hentry : s.takeEntry s.sch.cur.cell s.sch.cur.region = some (pool, q))

/-! ## Queues (R387) -/

include hp hentry in
/-- With room and an entry a queue operation sets out for the hub. -/
theorem State.queueForm_asks (kind : QKind) (k lim : Nat) (rcd : Firing → Nat)
    (hroom : s.canSend s.sch.cur [(t0, Val.of kind.resultLen 0)] = true) :
    s.queueForm pd kind k lim t0 rcd =
      .next (Claims.asksQueue (q.reserve s.sch.cur [t0] kind.resultLen) s.sch.cur kind k lim (rcd s.sch.cur) t0 pool) := by
  rw [State.queueForm, State.fire_passed _ _ _ hp, State.startLate_entry _ _ _ _ _ _ _ hroom hentry]
  rfl

/-! ## Trees (R389) -/

include hp in
/-- The tree of a group that the context does not own, or of which the cell is no member, traps. -/
theorem State.treeForm_traps {group : BitVec 8} (op len : Nat) (val : Firing → Val)
    (hg : s.inGroup s.sch.cur group.toNat = false) :
    s.treeForm pd op group.toNat len t0 val = .next (s.report s.sch.cur true .trap (0x3FF8 + group.toNat * 2 ^ 32)) := by
  rw [State.treeForm, State.fire_passed _ _ _ hp, hg]
  exact s.takeTrap_firing _ _ (by decide) (by omega)

include hp hentry in
/-- With room and an entry a cell of the group contributes. -/
theorem State.treeForm_contributes {group : Nat} (op len : Nat) (val : Firing → Val) (hg : s.inGroup s.sch.cur group = true)
    (hroom : s.canSend s.sch.cur [(t0, Val.of len 0)] = true) :
    s.treeForm pd op group len t0 val = .next ((q.reserve s.sch.cur [t0] len).contribute s.sch.cur.die group
      ((q.reserve s.sch.cur [t0] len).noteOf s.sch.cur)
      { x := s.sch.cur.x, y := s.sch.cur.y, op := op, val := val s.sch.cur, targets := [t0], firing := s.sch.cur, pool := pool }) := by
  rw [State.treeForm, State.fire_passed _ _ _ hp, hg]
  exact (if_neg (by decide)).trans (s.startLate_entry q _ [t0] len _ _ hroom hentry)

/-! ## Chains and timelines (R391 to R393) -/

include hp hentry in
/-- TAILADV puts up the fence that ends with the offer of L. -/
theorem tailadv_fences (ch : BitVec 6) (hroom : s.canSend s.sch.cur [(t0, Val.of 8 0)] = true) :
    exec (.tailadv pd ch t0) s = .next ((q.reserve s.sch.cur [t0] 8).putFence s.sch.cur .rel .device [t0]
      (.tail ch.toNat (Claims.portL 64 s)) pool) := by
  have hexec : exec (.tailadv pd ch t0) s = execTailadv pd ch t0 s := rfl
  rw [hexec, execTailadv, State.fire_passed _ _ _ hp, State.startLate_entry _ _ _ _ _ _ _ hroom hentry, ← portL_toNat,
    BitVec.ofNat_toNat, BitVec.setWidth_eq]

include hp hentry in
/-- TLREAD lands TL. -/
theorem tlread_lands (ch : BitVec 6) (hroom : s.canSend s.sch.cur [(t0, Val.of 8 0)] = true) :
    exec (.tlread pd ch t0) s = .next ((q.reserve s.sch.cur [t0] 8).land s.sch.cur s.sch.cur.acc.tag pool
      [(t0, Claims.val ((q.reserve s.sch.cur [t0] 8).chain (tagCtx s.sch.cur.acc.tag) ch.toNat).tl)]) := by
  have hexec : exec (.tlread pd ch t0) s = execTlread pd ch t0 s := rfl
  rw [hexec, execTlread, State.fire_passed _ _ _ hp, State.startLate_entry _ _ _ _ _ _ _ hroom hentry, val_dword]

include hp in
/-- TLWAIT waits while TL is below L. -/
theorem tlwait_waits (ch : BitVec 6)
    (htl : (s.chain (tagCtx s.sch.cur.acc.tag) ch.toNat).tl.toNat < (Claims.portL 64 s).toNat) :
    exec (.tlwait pd ch t0) s = .next (s.putBack s.sch.cur) := by
  have hexec : exec (.tlwait pd ch t0) s = execTlwait pd ch t0 s := rfl
  rw [portL_toNat s 8] at htl
  rw [hexec, execTlwait, State.fire_passed _ _ _ hp]
  exact if_neg (by simpa [State.tlReached] using htl)

include hp hentry in
/-- TLWAIT whose L is reached puts up the acquiring fence of the chain's engine. -/
theorem tlwait_fences (ch : BitVec 6)
    (htl : (Claims.portL 64 s).toNat ≤ (s.chain (tagCtx s.sch.cur.acc.tag) ch.toNat).tl.toNat)
    (hroom : s.canSend s.sch.cur [(t0, Val.of 8 0)] = true) :
    exec (.tlwait pd ch t0) s = .next ((q.reserve s.sch.cur [t0] 8).putFence
      (s.sch.cur.withL (Claims.val (Claims.portL 64 s))) .acq
      (if ((q.reserve s.sch.cur [t0] 8).chain (tagCtx s.sch.cur.acc.tag) ch.toNat).systemScope then .system else .device)
      [t0] .send pool) := by
  have hexec : exec (.tlwait pd ch t0) s = execTlwait pd ch t0 s := rfl
  rw [val_dword, portL_toNat s 8]
  rw [portL_toNat s 8] at htl
  rw [hexec, execTlwait, State.fire_passed _ _ _ hp]
  exact (if_pos (by simpa [State.tlReached] using htl)).trans (State.startLate_entry _ _ _ _ _ _ _ hroom hentry)

/-! ## Collectives (R394) -/

include hp in
/-- COLLREC on a chain of another KIND than 2 traps. -/
theorem collrec_traps (ch : BitVec 6) (he : (s.chain (tagCtx s.sch.cur.acc.tag) ch.toNat).entry.isSome = true)
    (hk : (s.chain (tagCtx s.sch.cur.acc.tag) ch.toNat).kind ≠ 2) :
    exec (.collrec pd ch t0) s = .next (s.report s.sch.cur true .trap (0x3FF9 + ch.toNat * 2 ^ 32)) := by
  have hexec : exec (.collrec pd ch t0) s = execCollrec pd ch t0 s := rfl
  rw [hexec, execCollrec, State.fire_passed _ _ _ hp]
  exact (if_pos (by simp [he, hk])).trans (s.takeTrap_firing _ _ (by decide) (by omega))

/-- A list of one element that a filter keeps stays as it is when it is put in order. -/
theorem sortBy_filter_one {α : Type} {le : α → α → Bool} {p : α → Bool} {x : α} (hx : p x = true) :
    sortBy le ([x].filter p) = [x] := by
  simp [sortBy, insertBy, hx]

include hp hentry in
/-- COLLREC at chunk 0 of its chain's one collective, of a group of its cell, contributes the first elements of L. -/
theorem collrec_contributes (ch : BitVec 6) {c : Coll} (hcolls : s.colls = [c]) (hctx : c.ctx = tagCtx s.sch.cur.acc.tag)
    (hchain : c.chain = ch.toNat) (hord : 0 < c.ordinal)
    (hcount : look 0 (s.cell s.sch.cur.cell).collCount (64 * tagCtx s.sch.cur.acc.tag + ch.toNat) = 0)
    (hk : (s.chain (tagCtx s.sch.cur.acc.tag) ch.toNat).kind = 2)
    (hi : (s.chain (tagCtx s.sch.cur.acc.tag) ch.toNat).invalid = false)
    (hdie : bit c.dieMask s.sch.cur.die = true) (hg : s.inGroup s.sch.cur c.group = true)
    (hroom : s.canSend s.sch.cur [(t0, Val.of 4 0)] = true) :
    let counted := (q.reserve s.sch.cur [t0] 4).updCell s.sch.cur.cell fun cell => { cell with
      collCount := put 0 (64 * tagCtx s.sch.cur.acc.tag + ch.toNat)
        (c.ordinal * 2 ^ 32 + if 1 = c.chunkCount then 0 else 1) cell.collCount }
    exec (.collrec pd ch t0) s = .next (counted.contribute s.sch.cur.die c.group (counted.noteOf s.sch.cur)
      { x := s.sch.cur.x, y := s.sch.cur.y, op := c.op, val := Val.of (4 * min 16 c.elems) (s.sch.cur.l 64), targets := [t0],
        firing := s.sch.cur, pool := pool, coll := some (ch.toNat, c.ordinal, 0) }) := by
  have hexec : exec (.collrec pd ch t0) s = execCollrec pd ch t0 s := rfl
  have hval : Val.of (4 * min 16 c.elems) (s.sch.cur.l 64 % 2 ^ (32 * min 16 c.elems)) =
      Val.of (4 * min 16 c.elems) (s.sch.cur.l 64) := by
    rw [Val.of, Val.of, show 8 * (4 * min 16 c.elems) = 32 * min 16 c.elems by omega, Nat.mod_mod]
  rw [hexec, execCollrec, State.fire_passed _ _ _ hp]
  simp only [hcount, Nat.zero_div, Nat.zero_mod, hcolls, ne_eq, not_true_eq_false, if_false]
  have hnext : sortBy (fun a b : Coll => decide (a.ordinal ≤ b.ordinal)) ([c].filter fun c =>
      c.ctx = tagCtx s.sch.cur.acc.tag && c.chain = ch.toNat && decide (0 < c.ordinal)) = [c] :=
    sortBy_filter_one (by simp [hctx, hchain, hord])
  rw [if_neg (by simp [hk, hi]), hnext]
  rw [← hval]
  cases s.coll? (tagCtx s.sch.cur.acc.tag) ch.toNat 0 <;>
    exact (if_neg (by simp [hdie, hg])).trans (s.startLate_entry q _ [t0] 4 _ _ hroom hentry)
end

end Sys2Proof.Machine

section
open Sys2Proof Sys2Proof.Machine

/-- Settles O32: each clause is the rule above of its instruction's form. -/
theorem queueTreeTimelineRequests : Obligations.QueueTreeTimelineRequests := by
  unfold Obligations.QueueTreeTimelineRequests
  refine ⟨fun pd k lim g op ch t0 s hp => ⟨fun pool q hentry => ⟨?word, ?record, ?barr, ?tree, ?wait⟩, fun hg => ?other,
    tlwait_waits hp ch, collrec_traps hp ch⟩, ?collrec⟩
  case word =>
    intro hroom
    refine ⟨?_, tailadv_fences hp hentry ch hroom, tlread_lands hp hentry ch hroom⟩
    rw [portL_toNat s 32]
    exact State.queueForm_asks hp hentry .push k.toNat lim.toNat (fun f => f.l 32) hroom
  case record =>
    intro hroom
    exact ⟨State.queueForm_asks hp hentry .pop k.toNat lim.toNat (fun _ => 0) hroom,
      State.queueForm_asks hp hentry .peek k.toNat lim.toNat (fun _ => 0) hroom⟩
  case barr => exact State.treeForm_contributes hp hentry 0 _ _
  case tree => exact State.treeForm_contributes hp hentry op.code _ _
  case wait => exact tlwait_fences hp hentry ch
  case other => exact ⟨State.treeForm_traps hp _ _ _ hg, State.treeForm_traps hp _ _ _ hg⟩
  case collrec =>
    intro pd ch t0 s c pool q hp f ctx key e held hcolls hctx hchain hord hcount hk hi hdie hg hroom hentry
    exact collrec_contributes hp hentry ch hcolls hctx hchain hord hcount hk hi hdie hg hroom

end
end

section
/-!
PROOF of O56. Records fetched and checked (R93, R95, R96, R99), started (R97), moved, combined and launched (R61, R77, R101), completed,
their initial tokens (R102), and the operations on a chain (R100): one lemma per case of each step, then the statement. That a record on a
host page is passed over 64 bytes behind is the model's choice (log 52), and so are the order of a record's checks and that RESET waits for
the pushes of a chain (log 16).
-/

namespace Sys2Proof.Machine

/-! ## What the steps mean -/

theorem exec_recordFetch (s : State) : exec .recordFetch s = execRecordFetch s := rfl
theorem exec_nopRecord (s : State) : exec .nopRecord s = execNopRecord s := rfl
theorem exec_jumpRecord (s : State) : exec .jumpRecord s = execJumpRecord s := rfl
theorem exec_copyRecord (s : State) : exec .copyRecord s = execCopyRecord s := rfl
theorem exec_fillRecord (s : State) : exec .fillRecord s = execFillRecord s := rfl
theorem exec_collRecord (s : State) : exec .collRecord s = execCollRecord s := rfl
theorem exec_launchRecord (s : State) : exec .launchRecord s = execLaunchRecord s := rfl
theorem exec_recordComplete (s : State) : exec .recordComplete s = execRecordComplete s := rfl
theorem exec_tokenInject (s : State) : exec .tokenInject s = execTokenInject s := rfl

/-- The chain that a step names. -/
abbrev State.namedChain (s : State) : Chain := s.chain s.sch.args.ctx s.sch.args.chain

/-- A change of the chain that the step of a state names, in a later state. -/
abbrev State.updNamed (s t : State) (f : Chain → Chain) : State := t.updChain s.sch.args.ctx s.sch.args.chain f

/-! ## Fetching (R93, R95, R96, R99) -/

/-- Record WALKED + 1 of a chain, of the bits read at its position. -/
def Chain.fetched (q : Chain) (v : Nat) : CmdRec := { ordinal := q.walked.toNat + 1, va := q.nextVa, bits := v }

/-- Record WALKED + 1 of a chain that is passed over unread: done with HOSTPAGE (R99). -/
def Chain.passedOver (q : Chain) : CmdRec := { q.fetched 0 with started := true, work := 0x8008 }

/-- A chain walked past a record to a next position. -/
def Chain.walkPast (r : CmdRec) (next : Nat) (q : Chain) : Chain :=
  { q with walked := q.walked + 1, nextVa := next, recs := q.recs ++ [r] }

/-- Where the walk goes on behind an accepted record (R93): at a JUMP's target, else at the next 64 bytes. -/
def CmdRec.behind (r : CmdRec) : Nat := if r.type = 0x01 then r.field 16 8 else r.va + 64

/-- Whether the next record of the chain lies on a host page that its engine does not read (R99). -/
def State.fetchesHost (s : State) : Prop :=
  2 ≤ s.namedChain.kind ∧ s.touchesHost s.sch.args.ctx s.namedChain.nextVa 64 false = true

/-- A chain whose TAIL is not beyond WALKED fetches nothing. -/
theorem recordFetch_caughtUp (s : State) (h : s.namedChain.tail.toNat ≤ s.namedChain.walked.toNat) :
    exec .recordFetch s = .next s := by
  rw [exec_recordFetch, execRecordFetch]
  exact if_pos (by simp [h])

section
variable {s t : State} {v : Nat} (hwalks : s.walks s.sch.args.ctx s.sch.args.chain = true)
  (htail : s.namedChain.walked.toNat < s.namedChain.tail.toNat)
include hwalks htail

/-- A record on a host page is passed over. -/
theorem recordFetch_host (hhost : s.fetchesHost) :
    exec .recordFetch s = .next (s.updNamed s (Chain.walkPast s.namedChain.passedOver (s.namedChain.nextVa + 64))) := by
  rw [exec_recordFetch, execRecordFetch]
  refine (if_neg ?_).trans (if_pos ?_)
  · simp [hwalks, htail]
  · simpa [State.fetchesHost] using hhost

variable (hhost : ¬ s.fetchesHost) (hread : s.vaNum s.sch.args.ctx s.namedChain.nextVa 64 = .ok (v, t))
include hhost hread

/-- A record that is read and accepted is added, and the walk goes on behind it. -/
theorem recordFetch_accepted (hok : (s.namedChain.fetched v).refused s.namedChain.kind = none) :
    exec .recordFetch s = .next (s.updNamed t (Chain.walkPast (s.namedChain.fetched v) (s.namedChain.fetched v).behind)) := by
  rw [exec_recordFetch, execRecordFetch]
  refine (if_neg (by simp [hwalks, htail])).trans ((if_neg (by simpa [State.fetchesHost] using hhost)).trans ?_)
  simp only [Chain.fetched] at hok
  simp only [hread, hok, Option.isNone_none, Bool.and_true, decide_eq_true_eq]
  rfl

/-- A record that is read and refused is added, and the chain halts at it. -/
theorem recordFetch_refused {st : Nat} {cls : FaultClass}
    (hbad : (s.namedChain.fetched v).refused s.namedChain.kind = some (st, cls)) :
    exec .recordFetch s = .next ((s.updNamed t (Chain.walkPast (s.namedChain.fetched v) (s.namedChain.nextVa + 64))).halt
      s.sch.args.ctx s.sch.args.chain (s.namedChain.walked.toNat + 1) (some s.namedChain.nextVa) st cls (statusBody st)) := by
  rw [exec_recordFetch, execRecordFetch]
  refine (if_neg (by simp [hwalks, htail])).trans ((if_neg (by simpa [State.fetchesHost] using hhost)).trans ?_)
  simp only [Chain.fetched] at hbad
  simp only [hread, hbad, Option.isNone_some, Bool.and_false]
  rfl

end

/-! ## Starting (R97) -/

/-- The record of a type that is ready to start on the chain that a step names. -/
abbrev State.ready (s : State) (type : Nat) : Option CmdRec := s.readyRec s.sch.args.ctx s.sch.args.chain type

/-- The state in which a record of the chain that a step names has been started. -/
def State.starting (s : State) (r : CmdRec) : State :=
  s.updRcd s.sch.args.ctx s.sch.args.chain r.ordinal fun r => { r with started := true, stamp := s.hub.cycles.toNat }

/-- The step of a record's type starts the record that is ready. -/
theorem State.startRec_ready {s : State} {r : CmdRec} {type : Nat} (hr : s.ready type = some r)
    (m : Nat → Nat → CmdRec → State → State) :
    s.startRec type m = .next (m s.sch.args.ctx s.sch.args.chain r (s.starting r)) := by
  simp only [State.startRec, hr]
  rfl

theorem nopRecord_completes {s : State} {r : CmdRec} (hr : s.ready 0x00 = some r) :
    exec .nopRecord s = .next ((s.starting r).completeRec s.sch.args.ctx s.sch.args.chain r.ordinal 1) := by
  rw [exec_nopRecord, execNopRecord, State.startRec_ready hr]

theorem jumpRecord_completes {s : State} {r : CmdRec} (hr : s.ready 0x01 = some r) :
    exec .jumpRecord s = .next ((s.starting r).completeRec s.sch.args.ctx s.sch.args.chain r.ordinal 1) := by
  rw [exec_jumpRecord, execJumpRecord, State.startRec_ready hr]

/-! ## Moves (R96, R97, R99) -/

section
variable {s : State} {r : CmdRec} (hr : s.ready 0x02 = some r)
include hr

/-- A COPY of no bytes is done. -/
theorem copyRecord_empty (h : r.field 32 8 = 0) :
    exec .copyRecord s = .next ((s.starting r).recordDone s.sch.args.ctx s.sch.args.chain r.ordinal 1) := by
  rw [exec_copyRecord, execCopyRecord, State.startRec_ready hr]
  exact congrArg _ (if_pos h)

/-- A COPY whose ranges overlap is done with OVERLAP. -/
theorem copyRecord_overlaps (h : 0 < r.field 32 8)
    (hover : r.field 16 8 < r.field 24 8 + r.field 32 8 ∧ r.field 24 8 < r.field 16 8 + r.field 32 8) :
    exec .copyRecord s = .next ((s.starting r).recordDone s.sch.args.ctx s.sch.args.chain r.ordinal 0x800A) := by
  rw [exec_copyRecord, execCopyRecord, State.startRec_ready hr]
  exact congrArg _ ((if_neg (Nat.ne_of_gt h)).trans (if_pos (by simpa using hover)))

/-- A COPY whose ranges lie apart asks for its stream. -/
theorem copyRecord_moves (h : 0 < r.field 32 8)
    (hapart : r.field 24 8 + r.field 32 8 ≤ r.field 16 8 ∨ r.field 16 8 + r.field 32 8 ≤ r.field 24 8) :
    exec .copyRecord s = .next ((s.starting r).startMove s.sch.args.ctx s.sch.args.chain r (r.field 24 8)
      (.copy (r.field 16 8) (r.field 24 8) (r.field 32 8))) := by
  have hover : ¬ (r.field 16 8 < r.field 24 8 + r.field 32 8 ∧ r.field 24 8 < r.field 16 8 + r.field 32 8) := by omega
  rw [exec_copyRecord, execCopyRecord, State.startRec_ready hr]
  exact congrArg _ ((if_neg (Nat.ne_of_gt h)).trans (if_neg (by simpa using hover)))

end

section
variable {s : State} {r : CmdRec} (hr : s.ready 0x03 = some r)
include hr

/-- A FILL of no bytes is done. -/
theorem fillRecord_empty (h : r.field 24 8 = 0) :
    exec .fillRecord s = .next ((s.starting r).recordDone s.sch.args.ctx s.sch.args.chain r.ordinal 1) := by
  rw [exec_fillRecord, execFillRecord, State.startRec_ready hr]
  exact congrArg _ (if_pos h)

/-- A FILL of some bytes asks for its stream. -/
theorem fillRecord_moves (h : 0 < r.field 24 8) :
    exec .fillRecord s = .next ((s.starting r).startMove s.sch.args.ctx s.sch.args.chain r (r.field 16 8)
      (.fill (r.field 16 8) (r.field 24 8) (r.field 32 8) 0)) := by
  rw [exec_fillRecord, execFillRecord, State.startRec_ready hr]
  exact congrArg _ (if_neg (Nat.ne_of_gt h))

end

/-! ## Collectives (R61, R96, R99) -/

/-- The place of an element in a list, where the list has it. -/
theorem getElem_findIdx {α : Type} [DecidableEq α] {x : α} {l : List α} (h : x ∈ l) :
    l[(findIdx (fun y => decide (y = x)) l).getD 0]? = some x := by
  have hfound : ∀ l : List α, x ∈ l → ∃ i, findIdx (fun y => decide (y = x)) l = some i ∧ l[i]? = some x := by
    intro l hl
    induction l with
    | nil => cases hl
    | cons y t ih =>
      by_cases hy : y = x
      · exact ⟨0, by simp [findIdx, hy], by simp [hy]⟩
      · obtain ⟨i, hi, hget⟩ := ih (by simpa [Ne.symm hy] using hl)
        exact ⟨i + 1, by simp [findIdx, hy, hi], by simpa using hget⟩
  obtain ⟨i, hi, hget⟩ := hfound l h
  rw [hi]
  exact hget

/-- The number of the own module among the 256 of the group of groups (R55). -/
theorem State.ownNumber_lt (s : State) : 16 * s.ownGroup + s.ownModule < 256 := by
  have hg : s.ownGroup < 16 := Nat.mod_lt _ (by decide)
  have hm : s.ownModule < 16 := Nat.mod_lt _ (by decide)
  omega

/-- The modules of a MEMBERS bitmap. -/
def membersOf (v : Nat) : List Nat := (List.range 256).filter (bit v)

theorem mem_membersOf (v m : Nat) : m ∈ membersOf v ↔ m < 256 ∧ bit v m = true := by
  simp [membersOf]

/-- The collective that a COLL record of a chain begins, of a MEMBERS bitmap (R61, R96). -/
def State.collOf (s : State) (ctx c : Nat) (r : CmdRec) (v : Nat) : Coll :=
  { ctx := ctx, chain := c, ordinal := r.ordinal, op := r.field 28 1, elems := if r.field 28 1 = 0 then 0 else r.field 24 4,
    group := r.field 29 1, dieMask := r.field 30 1, dst := r.field 16 8, cid := r.field 40 4,
    engine := ((s.chain ctx c).entry.map ChainEntry.index).getD 0, members := membersOf v,
    rank := (findIdx (fun m => decide (m = 16 * s.ownGroup + s.ownModule)) (membersOf v)).getD 0 }

section
variable {s t : State} {r : CmdRec} {v : Nat} (hr : s.ready 0x20 = some r)
include hr

/-- A COLL whose MEMBERS lie in host memory is done with HOSTPAGE. -/
theorem collRecord_host (hhost : (s.starting r).touchesHost s.sch.args.ctx (r.field 32 8) 32 false = true) :
    exec .collRecord s = .next ((s.starting r).recordDone s.sch.args.ctx s.sch.args.chain r.ordinal 0x8008) := by
  rw [exec_collRecord, execCollRecord, State.startRec_ready hr]
  exact congrArg _ (if_pos hhost)

variable (hhost : (s.starting r).touchesHost s.sch.args.ctx (r.field 32 8) 32 false = false)
  (hread : (s.starting r).vaNum s.sch.args.ctx (r.field 32 8) 32 = .ok (v, t))
include hhost hread

/-- A COLL of which the module is no member halts its chain. -/
theorem collRecord_stranger (hme : bit v (16 * t.ownGroup + t.ownModule) = false) :
    exec .collRecord s = .next (t.halt s.sch.args.ctx s.sch.args.chain r.ordinal (some r.va) 0x8001 .cmdFormat (statusBody 0x8001)) := by
  rw [exec_collRecord, execCollRecord, State.startRec_ready hr]
  simp only [hhost, hread, hme]
  rfl

/-- A COLL of which the module is a member begins its collective. -/
theorem collRecord_begins (hme : bit v (16 * t.ownGroup + t.ownModule) = true) :
    exec .collRecord s = .next (({ t with colls := t.colls ++ [t.collOf s.sch.args.ctx s.sch.args.chain r v] } : State).moveColl
      s.sch.args.ctx s.sch.args.chain r.ordinal) := by
  rw [exec_collRecord, execCollRecord, State.startRec_ready hr]
  simp only [hhost, hread, hme]
  rfl

end

/-! ## Launches (R77, R101, R102, R112) -/

theorem CmdRec.field_lt (r : CmdRec) (o n : Nat) : r.field o n < 2 ^ (8 * n) := Nat.mod_lt _ (Nat.two_pow_pos _)

/-- The launch of a record without initial tokens as the module scheduler takes it, of the state and image that its load gave. -/
def State.launchOf (s : State) (ctx c : Nat) (r : CmdRec) (bs : List Byte) (img : Image) : Waiting :=
  { ctx := ctx, ordinal := r.ordinal, note := ((s.chain ctx c).entry.getD {}).note, stamp := s.hub.cycles.toNat,
    dieMask := r.field 36 1, image := img, imageBytes := bs, disp := bit (r.field 37 1) 7, ql := bits (r.field 37 1) 2 0,
    frame := BitVec.ofNat 64 (r.field 40 8), cfgVa := r.field 16 8, hndl := r.field 48 8 }

section
variable {s : State} {r : CmdRec} (hr : s.ready 0x10 = some r)
include hr

/-- A LAUNCH under an invalid descriptor is refused with the event of its reason. -/
theorem launchRecord_refused {why : Nat}
    (hd : ((s.starting r).rereadDesc s.sch.args.ctx).descValid s.sch.args.ctx = false)
    (hwhy : ((s.starting r).rereadDesc s.sch.args.ctx).descReason s.sch.args.ctx = some why) :
    exec .launchRecord s = .next ((((s.starting r).rereadDesc s.sch.args.ctx).event 0x0007 8 (s.sch.args.ctx + 1024 * why)).completeRec
      s.sch.args.ctx s.sch.args.chain r.ordinal 0x8005) := by
  rw [exec_launchRecord, execLaunchRecord, State.startRec_ready hr]
  simp only [hd, State.refuseCtx, hwhy]
  rfl

/-- A LAUNCH without initial tokens whose image loads waits for its place. -/
theorem launchRecord_waits (hd : ((s.starting r).rereadDesc s.sch.args.ctx).descValid s.sch.args.ctx = true) (htok : r.field 32 2 = 0)
    {bs : List Byte} {img : Image} {u : State}
    (hload : ((s.starting r).rereadDesc s.sch.args.ctx).loadImage (r.field 16 8)
      { ctx := s.sch.args.ctx, width := r.field 34 1, height := r.field 35 1 } = (.ok (bs, img), u)) :
    exec .launchRecord s = .next (({ u with hub := { u.hub with
      waiting := u.hub.waiting ++ [u.launchOf s.sch.args.ctx s.sch.args.chain r bs img] } } : State).placeWaiting) := by
  rw [exec_launchRecord, execLaunchRecord, State.startRec_ready hr]
  simp only [hd, htok, State.readTokens, hload, findIdx]
  rfl

end

/-! ## Completion (R97) -/

/-- A running record whose work has ended completes with the STATUS of its work. -/
theorem recordComplete_done {s : State} {r : CmdRec} (hr : s.namedChain.rcd? s.sch.args.ordinal = some r)
    (hrun : r.running = true) (hwork : r.work ≠ 0) :
    exec .recordComplete s = .next (s.completeRec s.sch.args.ctx s.sch.args.chain s.sch.args.ordinal r.work) := by
  simp only [State.namedChain] at hr
  simp only [exec_recordComplete, execRecordComplete, hr, hrun]
  exact congrArg _ (if_pos hwork)

/-! ## Initial tokens (R101, R102) -/

/-- The tag of an initial token in its region's context. -/
def Region.injectTag (r : Region) (e : Nat × Nat × Nat) : Tag := mkTag r.ctx (bits e.2.2 21 14) (bits e.2.2 13 12) (bits e.2.2 11 0)

/-- The value of an initial token. -/
def Region.injectVal (r : Region) (e : Nat × Nat × Nat) : Val := Val.of (r.image.tokenLen e.2.1) e.1

/-- The cell that an initial token of a region goes to. -/
def Region.injectGoal (r : Region) (e : Nat × Nat × Nat) : Nat × Nat :=
  r.steer (r.x0 + bits e.2.1 31 25) (r.y0 + bits e.2.1 24 19) (bits e.2.1 18 16) (r.injectTag e) (r.injectVal e)

/-- A region's initial tokens but the first are left. -/
def State.injected (s : State) (r : Region) (l : List (Nat × Nat × Nat)) : State := s.updRegion r.id fun r => { r with inject := l }

/-- The initial token for a slot, as it enters its cell with an entry from a pool. -/
def State.injectTok (s : State) (r : Region) (e : Nat × Nat × Nat) (port : Port) (pool : Pool) : Tok :=
  { id := s.sch.nextId, region := r.id, sx := (r.injectGoal e).1, sy := (r.injectGoal e).2, x := (r.injectGoal e).1,
    y := (r.injectGoal e).2, dest := .slot (bits e.2.1 18 16) (bits e.2.1 13 8) port, tag := r.injectTag e, val := r.injectVal e,
    kind := .injected, note := s.blockNote r (r.injectGoal e).1 (r.injectGoal e).2 (bits e.2.1 18 16), pool := pool }

section
variable {s : State} {r : Region} {e : Nat × Nat × Nat} {l : List (Nat × Nat × Nat)} {port : Port}
  (hr : s.region? s.sch.args.region = some r) (hlist : r.inject = e :: l) (hst : r.st = .running) (hstop : r.stop = .none)
  (hport : portOf (bits e.2.1 15 14) = some port)
include hr hlist hst hstop hport

/-- Without an entry at its cell the token waits. -/
theorem tokenInject_waits
    (hfull : (s.injected r l).takeEntry (cellKey r.die (r.injectGoal e).1 (r.injectGoal e).2) r.id = none) :
    exec .tokenInject s = .next s := by
  simp only [State.injected, Region.injectGoal, Region.injectTag, Region.injectVal] at hfull
  simp only [exec_tokenInject, execTokenInject, hr, hlist, hst, hstop, hport, hfull, ne_eq, not_true_eq_false, decide_false,
    Bool.or_self, Bool.false_eq_true, if_false]

/-- With an entry of its cell the token is sent. -/
theorem tokenInject_enters {pool : Pool} {u : State}
    (hentry : (s.injected r l).takeEntry (cellKey r.die (r.injectGoal e).1 (r.injectGoal e).2) r.id = some (pool, u)) :
    exec .tokenInject s = .next { u.newId.2 with toks := u.toks ++ [u.injectTok r e port pool] } := by
  simp only [State.injected, Region.injectGoal, Region.injectTag, Region.injectVal] at hentry
  simp only [exec_tokenInject, execTokenInject, hr, hlist, hst, hstop, hport, hentry, ne_eq, not_true_eq_false, decide_false,
    Bool.or_self, Bool.false_eq_true, if_false]
  rfl

end

/-! ## Operations on a chain (R100) -/

/-- The state in which RETRY or SKIP has taken the halt of record `m` off a chain, and ended its collective. -/
def State.unhalted (s : State) (ctx c m : Nat) : State :=
  let u := s.chainOp ctx c false
  ({ u with colls := u.colls.filter fun k => !(k.ctx = ctx && k.chain = c && k.ordinal = m) } : State).updChain ctx c
    fun q => { q with halted := (s.chain ctx c).restHalt m }

/-- The state in which RESET has emptied a chain, and ended its collectives. -/
def State.emptied (s : State) (ctx c : Nat) : State :=
  let u := s.chainOp ctx c false
  ({ u with colls := u.colls.filter fun k => !(k.ctx = ctx && k.chain = c) } : State).updChain ctx c
    fun q => { q with walked := q.tail, tl := q.tail, recs := [], halted := none }

section
variable {s : State} {ctx c : Nat}

/-- RETRY of a chain without a halt is REFUSED. -/
theorem State.retryChain_refused (h : (s.chain ctx c).halted = none) : s.retryChain ctx c = s.chainOp ctx c true := by
  simp only [State.retryChain, h]

/-- SKIP of a chain without a halt is REFUSED. -/
theorem State.skipChain_refused (h : (s.chain ctx c).halted = none) : s.skipChain ctx c = s.chainOp ctx c true := by
  simp only [State.skipChain, h]

/-- RETRY of a halted record that is not refused puts it back before its start. -/
theorem State.retryChain_retries {m : Nat} {r : CmdRec} (h : (s.chain ctx c).halted = some m) (hr : (s.chain ctx c).rcd? m = some r)
    (hok : r.refused (s.chain ctx c).kind = none) :
    s.retryChain ctx c = (s.unhalted ctx c m).updRcd ctx c m fun r =>
      { r with status := 0, started := false, complete := false, work := 0, pushed := false } := by
  simp only [State.retryChain, h, hr, hok]
  rfl

/-- SKIP of a halted record completes it. -/
theorem State.skipChain_completes {m : Nat} {r : CmdRec} (h : (s.chain ctx c).halted = some m) (hr : (s.chain ctx c).rcd? m = some r) :
    s.skipChain ctx c = ((s.unhalted ctx c m).updRcd ctx c m fun r =>
      { r with started := true, pushed := r.pushed || r.complete, complete := true }).settleChains ctx := by
  simp only [State.skipChain, h, hr]
  rfl

/-- RESET of a chain with records in progress is REFUSED. -/
theorem State.resetChain_refused (h : 0 < (s.chain ctx c).inflight) : s.resetChain ctx c = s.chainOp ctx c true := by
  simp [State.resetChain, h]

section
variable (hidle : (s.chain ctx c).inflight = 0) (hpush : ∀ r, r ∈ (s.chain ctx c).recs → s.pushWaits ctx c r.ordinal = false)
include hidle hpush

/-- RESET of an idle chain of a context without a descriptor empties it. -/
theorem State.resetChain_noDesc (hd : ((s.emptied ctx c).ctx ctx).desc = none) :
    s.resetChain ctx c = (s.emptied ctx c).settleChains ctx := by
  have hread : (s.emptied ctx c).readEntry ctx c = s.emptied ctx c := by simp only [State.readEntry, hd]
  rw [State.resetChain]
  refine (if_neg (by simpa [hidle] using hpush)).trans ?_
  rw [← hread]
  simp only [State.emptied] at hd
  simp only [hd]
  rfl

/-- RESET of an idle chain empties it, writes its TL counter and reads its entry again. -/
theorem State.resetChain_reads {d : Desc} (hd : ((s.emptied ctx c).ctx ctx).desc = some d) :
    s.resetChain ctx c = ((((s.emptied ctx c).vaWrite ctx (d.tlbase + 8 * c) (toBytes 8 (s.chain ctx c).tail.toNat)).1).readEntry
      ctx c).settleChains ctx := by
  rw [State.resetChain]
  refine (if_neg (by simpa [hidle] using hpush)).trans ?_
  simp only [State.emptied] at hd
  simp only [hd]
  rfl

end
end

end Sys2Proof.Machine

section
open Sys2Proof Sys2Proof.Machine

/-- Settles O56: each clause is one of the rules above, of the fetch, the starts, the completion, the initial tokens and the operations on
a chain. -/
theorem recordsFetchedAndRun : Obligations.RecordsFetchedAndRun := by
  unfold Obligations.RecordsFetchedAndRun
  intro s a q n started ctx chain host
  have hretry : exec .chainRetry s = .next (s.retryChain ctx chain) := rfl
  have hskip : exec .chainSkip s = .next (s.skipChain ctx chain) := rfl
  have hreset : exec .chainReset s = .next (s.resetChain ctx chain) := rfl
  refine ⟨recordFetch_host, ?read, recordFetch_caughtUp s, fun r => nopRecord_completes, fun r => jumpRecord_completes,
    fun r hr => ⟨copyRecord_empty hr, copyRecord_overlaps hr, copyRecord_moves hr⟩,
    fun r hr => ⟨fillRecord_empty hr, fillRecord_moves hr⟩, ?coll, ?launch, fun r => recordComplete_done, ?token, ?_⟩
  case read =>
    intro hwalks htail hhost v t hread r behind
    exact ⟨recordFetch_accepted hwalks htail hhost hread, fun st cls => recordFetch_refused hwalks htail hhost hread⟩
  case coll =>
    intro r hr
    refine ⟨collRecord_host hr, fun hhost v t hread => ⟨collRecord_stranger hr hhost hread, fun hme => ?_⟩⟩
    exact ⟨_, collRecord_begins hr hhost hread hme, rfl, rfl, rfl, rfl, rfl, rfl, rfl, mem_membersOf v,
      getElem_findIdx ((mem_membersOf v _).mpr ⟨t.ownNumber_lt, hme⟩)⟩
  case launch =>
    intro r hr d
    refine ⟨fun why => launchRecord_refused hr, ?_⟩
    intro hd htok im bs img hload
    exact ⟨im.2.launchOf a.ctx a.chain r bs img, rfl, rfl, rfl, rfl, rfl, rfl, Nat.mod_eq_of_lt (r.field_lt 40 8), rfl, rfl, rfl,
      launchRecord_waits hr hd htok (Prod.ext hload rfl)⟩
  case token =>
    intro r e l port hr hlist hst hstop hport tag v goal u
    refine ⟨tokenInject_waits hr hlist hst hstop hport, fun pool u' hentry => ?_⟩
    exact ⟨_, _, tokenInject_enters hr hlist hst hstop hport hentry, rfl, rfl, rfl, rfl, rfl, rfl, rfl, rfl, rfl, rfl, rfl, rfl⟩
  rw [hretry, hskip, hreset]
  refine ⟨fun h => ⟨congrArg _ (State.retryChain_refused h), congrArg _ (State.skipChain_refused h)⟩, ?halted,
    fun h => congrArg _ (State.resetChain_refused h), ?reset⟩
  case halted =>
    intro m h u w r hr
    exact ⟨fun hok => congrArg _ (State.retryChain_retries h hr hok), congrArg _ (State.skipChain_completes h hr)⟩
  case reset =>
    intro hidle hpush u w
    exact ⟨fun hd => congrArg _ (State.resetChain_noDesc hidle hpush hd),
      fun d hd => congrArg _ (State.resetChain_reads hidle hpush hd)⟩

end
end

section
/-!
PROOF of O5. A step of the model's own order that is a row of a matrix array, and a state in which it is not what the statement says
(R128, log 3).
-/

namespace Sys2Proof.Machine

/-- Without a choice and an agenda the model's own order goes on. -/
theorem step_goOn {s : State} (hf : s.sch.chosen = none) (ha : s.sch.agenda = []) : step s = s.goOn := by
  simp only [step, hf, ha]

/-- The arbiters' choice of a row spends the matrix unit of its cell. -/
theorem State.goOn_row {s : State} {k : Nat} (hd : s.due = none) (hc : s.nextChoice = some (.row k)) :
    s.goOn = exec .matrixRowStep
      ({ s with sch := s.sch.spend k Unit4.matrix.num }.take { die := k / 3200, x := k % 80, y := k % 3200 / 80 } []) := by
  simp only [State.goOn, hd, hc]

/-- The units that a cell has used in this cycle, in the state that a step answers. -/
def unitsUsed : Result → Option Nat
  | .next s => some s.sch.turn
  | _ => none

/-- A part whose die 0 is up and whose cell 0 is in row 0 of a matrix sequence of two; nothing else is under way. -/
def rowPart : State :=
  { State.reset with
    hub := { State.reset.hub with ready := true, phase := 15, dieOk := 0xFF }
    dies := [(0, { pwr := { step := 1 } })]
    cells := [(0, { seqs := [{ mt := 2 }] })]
    sch := {} }

/-- The step of that part is the row, which spends unit 2. -/
theorem unitsUsed_step_rowPart : unitsUsed (step rowPart) = some (2 ^ 2) := by
  rw [step_goOn rfl rfl, State.goOn_row (k := 0) (by decide) (by decide)]
  rfl

end Sys2Proof.Machine

section
open Sys2Proof Sys2Proof.Machine

/-- Refutes O5: where the step is a row of a matrix array, the statement has it spend unit 3 of the cell, which is the memory unit; it
spends unit 2, the matrix unit. -/
theorem not_stepRunsTheDecoded : ¬ Obligations.StepRunsTheDecoded := by
  unfold Obligations.StepRunsTheDecoded
  rintro ⟨-, -, hgo⟩
  obtain ⟨-, -, hrow, -⟩ := hgo rowPart rfl rfl
  have hused : unitsUsed (step rowPart) = some (2 ^ 3) := (congrArg unitsUsed (hrow (by decide) 0 (by decide))).trans rfl
  exact absurd (unitsUsed_step_rowPart.symm.trans hused) (by decide)

end
end

section
/-!
PROOF of O29. An instruction of Format M on a binding of its region issues one access or waits (R127, R221, R377, R379, R380, R385, R386):
the form that the twelve instructions share, and the operands of each.
-/

namespace Sys2Proof.Machine

open Claims

/-- Port R of the firing at whole bytes. -/
theorem portR_toNat (s : State) (n : Nat) : (portR (8 * n) s).toNat = s.sch.cur.r n := by
  simp [portR, low, Firing.r, Val.low]

/-! ## The form (R375) -/

section
variable {s : State} {pd : Pd} {seq port : BitVec 5} {t0 : Target} {op : Firing → AccessOp} {pos : Firing → Nat} {b : Binding}
  (hp : s.sch.cur.passes pd = true) (hb : (s.region s.sch.cur.region).binding? port.toNat = some b)
include hp hb

/-- R221, R202: with a full retry buffer, or a cache bank about to change its mode, the accord waits. -/
theorem State.accessForm_waits (h : 32 ≤ s.retries s.sch.cur.cell ∨ s.cacheWaits s.sch.cur b = true) :
    s.accessForm pd seq port t0 op pos = .next (s.putBack s.sch.cur) := by
  have hwait : (32 ≤ s.retries s.sch.cur.cell || s.cacheWaits s.sch.cur b) = true := by simpa using h
  simp only [State.accessForm, hb, hp, Bool.not_true, Bool.false_eq_true, if_false, if_pos hwait]

/-- R127, R377: otherwise, with room for the result and an input-queue entry, it sends its access. -/
theorem State.accessForm_issues {pool : Pool} {q : State} (hretry : s.retries s.sch.cur.cell < 32)
    (hcache : s.cacheWaits s.sch.cur b = false) (hroom : s.canSend s.sch.cur [(t0, Val.of (op s.sch.cur).resultLen 0)] = true)
    (hentry : s.takeEntry s.sch.cur.cell s.sch.cur.region = some (pool, q)) :
    s.accessForm pd seq port t0 op pos = .next ((q.reserve s.sch.cur [t0] (op s.sch.cur).resultLen).sendAccess s.sch.cur b
      (s.rankOf s.sch.cur b.p seq.toNat) t0 (op s.sch.cur) (pos s.sch.cur) pool) := by
  have hgo : ¬ (32 ≤ s.retries s.sch.cur.cell || s.cacheWaits s.sch.cur b) = true := by simp [hcache, hretry]
  simp only [State.accessForm, hb, hp, Bool.not_true, Bool.false_eq_true, if_false, if_neg hgo]
  exact s.startLate_entry q _ _ _ _ _ hroom hentry

end

/-- An instruction that is the form at its position in L issues its accesses: its operation reads the ports, and is of one result length. -/
theorem accesses_of_form {i : Instr} {port seq : BitVec 5} {t0 : Target} {len : Nat} {op : State → AccessOp} (o : Firing → AccessOp)
    (hi : ∀ s, exec i s = s.accessForm i.pd seq port t0 o positionL) (hop : ∀ s, o s.sch.cur = op s)
    (hlen : ∀ s, (op s).resultLen = len) : Accesses i port seq t0 len op := by
  intro s b hp hb
  rw [hi]
  refine ⟨fun pool q hretry hcache hroom hentry => ?_, State.accessForm_waits hp hb⟩
  rw [← hlen s, ← hop] at hroom
  rw [State.accessForm_issues hp hb hretry hcache hroom hentry, hop, hlen, positionL, ← portL_toNat s 8]

/-! ## The operands (R380, R386) -/

/-- A word is the sum of what a mask keeps of it and of what the mask takes away. -/
theorem toNat_split {n : Nat} (v m : BitVec n) : v.toNat = (v &&& ~~~m).toNat + (v &&& m).toNat := by
  have hapart : (v &&& ~~~m) &&& (v &&& m) = 0#n := by
    ext i hi
    rw [BitVec.getElem_and, BitVec.getElem_and, BitVec.getElem_and, BitVec.getElem_not, BitVec.getElem_zero]
    cases v[i] <;> cases m[i] <;> rfl
  have hjoin : (v &&& ~~~m) ||| (v &&& m) = v := by
    ext i hi
    rw [BitVec.getElem_or, BitVec.getElem_and, BitVec.getElem_and, BitVec.getElem_not]
    cases v[i] <;> cases m[i] <;> rfl
  rw [← BitVec.toNat_add_of_and_eq_zero hapart, BitVec.add_eq_or_of_and_eq_zero _ _ hapart, hjoin]

/-- A word without one of its bits. -/
theorem toNat_and_not_twoPow {n i : Nat} (v : BitVec n) (hi : i < n) :
    (v &&& ~~~BitVec.twoPow n i).toNat = v.toNat - bitOf (bit v.toNat i) * 2 ^ i := by
  have hbit : (v &&& BitVec.twoPow n i).toNat = bitOf (bit v.toNat i) * 2 ^ i := by
    rw [BitVec.toNat_and, BitVec.toNat_twoPow_of_lt hi, and_bit]
  have hsplit := toNat_split v (BitVec.twoPow n i)
  omega

/-- STT: L without RETAIN names its tile. -/
theorem sttTile_toNat (s : State) :
    (portL 64 s &&& 0xFFFFFFFEFFFFFFFF).toNat = s.sch.cur.l 8 - bitOf (bit (s.sch.cur.l 8) 32) * 2 ^ 32 := by
  rw [← portL_toNat s 8]
  exact toNat_and_not_twoPow (i := 32) (portL 64 s) (by decide)

/-- SCAS64, SCAS128: the upper half of R is the new value. -/
theorem newValue_toNat (s : State) (n : Nat) :
    ((portR (8 * (2 * n)) s).extractLsb' (8 * n) (8 * n)).toNat = s.sch.cur.r (2 * n) / 2 ^ (8 * n) := by
  rw [BitVec.extractLsb'_toNat, portR_toNat, Nat.shiftRight_eq_div_pow, Nat.mod_eq_of_lt]
  rw [Nat.div_lt_iff_lt_mul (Nat.two_pow_pos _), ← Nat.pow_add, ← portR_toNat]
  exact Nat.lt_of_lt_of_eq (portR (8 * (2 * n)) s).isLt (congrArg (2 ^ ·) (by omega))

end Sys2Proof.Machine

section
open Sys2Proof Sys2Proof.Machine Sys2Proof.Claims

/-- Settles O29: each instruction is the form of R375 with its operand. -/
theorem accessesIssue : Obligations.AccessesIssue := by
  unfold Obligations.AccessesIssue
  intro pd seq pv nx port t0
  refine ⟨accesses_of_form (fun _ => .ld) (fun _ => rfl) (fun _ => rfl) (fun _ => rfl),
    accesses_of_form (fun f => .st (f.r 4)) (fun _ => rfl) (fun s => ?st) (fun _ => rfl),
    accesses_of_form (fun f => .ldt (f.l 8)) (fun _ => rfl) (fun s => ?ldt) (fun _ => rfl),
    accesses_of_form (fun f => .stt (f.l 8 - bitOf (bit (f.l 8) 32) * 2 ^ 32) (bit (f.l 8) 32)) (fun _ => rfl) (fun s => ?stt)
      (fun _ => rfl),
    accesses_of_form (fun _ => .pft) (fun _ => rfl) (fun _ => rfl) (fun _ => rfl),
    accesses_of_form (fun f => .amoadd (f.r 4)) (fun _ => rfl) (fun s => ?amoadd) (fun _ => rfl),
    accesses_of_form (fun f => .amomin (f.r 4)) (fun _ => rfl) (fun s => ?amomin) (fun _ => rfl),
    accesses_of_form (fun f => .amomax (f.r 4)) (fun _ => rfl) (fun s => ?amomax) (fun _ => rfl),
    accesses_of_form (fun f => .scas64 (f.r 8) (f.r 16 / 2 ^ 64)) (fun _ => rfl) (fun s => ?scas64) (fun _ => rfl),
    accesses_of_form (fun f => .scas128 (f.r 16) (f.r 32 / 2 ^ 128)) (fun _ => rfl) (fun s => ?scas128) (fun _ => rfl),
    accesses_of_form (fun f => .sadd (f.r 8)) (fun _ => rfl) (fun s => ?sadd) (fun _ => rfl),
    accesses_of_form (fun f => .sswap (f.r 8)) (fun _ => rfl) (fun s => ?sswap) (fun _ => rfl)⟩
  case ldt => exact congrArg _ (portL_toNat s 8).symm
  case stt =>
    exact congr (congrArg AccessOp.stt (sttTile_toNat s).symm) ((congrArg (bit · 32) (portL_toNat s 8).symm).trans (bit_toNat _ 32))
  case scas64 => exact congr (congrArg AccessOp.scas64 (portR_toNat s 8).symm) (newValue_toNat s 8).symm
  case scas128 => exact congr (congrArg AccessOp.scas128 (portR_toNat s 16).symm) (newValue_toNat s 16).symm
  case sadd | sswap => exact congrArg _ (portR_toNat s 8).symm
  all_goals exact congrArg _ (portR_toNat s 4).symm

end
end

section
/-!
PROOF of O27. SEND and SENDM (R127, R317, R318): the entry that a token takes, the descriptor's checks, and the tokens that leave; one
lemma per outcome, then the statement.
-/

namespace Sys2Proof.Machine

open Claims

/-! ## Entries and ports (R127, R276) -/

/-- R127: an input-queue entry taken changes its cell alone. -/
theorem State.takeEntry_updCell {s q : State} {k region : Nat} {pool : Pool} (h : s.takeEntry k region = some (pool, q)) :
    ∃ g, q = s.updCell k g := by
  unfold State.takeEntry at h
  dsimp only at h
  split at h
  · cases h; exact ⟨_, rfl⟩
  · split at h
    · cases h; exact ⟨_, rfl⟩
    · cases h

/-- The entries of a multicast are those of its goals, in order, and leave the mesh as it is. -/
theorem State.takeEntries_goals (die region : Nat) (goal : List (Nat × Nat)) {s q : State} {l : List (Nat × Nat × Pool)}
    (h : s.takeEntries die region goal = some (l, q)) : l.map (fun e => (e.1, e.2.1)) = goal ∧ q.toks = s.toks := by
  induction goal generalizing s l with
  | nil => cases h; exact ⟨rfl, rfl⟩
  | cons c t ih =>
    unfold State.takeEntries at h
    split at h
    · cases h
    · rename_i hentry
      obtain ⟨g, rfl⟩ := State.takeEntry_updCell hentry
      split at h
      · cases h
      · rename_i hrest
        cases h
        obtain ⟨hgoals, htoks⟩ := ih hrest
        exact ⟨congrArg (c :: ·) hgoals, htoks⟩

/-- A port is read from its code. -/
theorem portOf_code (p : Port) : portOf p.code = some p := by cases p <;> rfl

/-! ## The descriptor in R -/

/-- A field of the descriptor is that of its number. -/
theorem bits_descriptor (s : State) (hi lo n : Nat) (h : hi + 1 - lo = n) :
    bits (s.sch.cur.r 4) hi lo = ((portR 32 s).extractLsb' lo n).toNat := by
  rw [← portR_toNat s 4]
  exact bits_toNat _ h

/-- A bit of it. -/
theorem bit_descriptor (s : State) (i : Nat) : bit (s.sch.cur.r 4) i = (portR 32 s).getLsbD i := by
  rw [← portR_toNat s 4]
  exact bit_toNat _ i

/-- A field is 0 where its number is. -/
theorem toNat_eq_zero_iff {n : Nat} (v : BitVec n) : v.toNat = 0 ↔ v = 0 := by
  rw [← BitVec.toNat_inj]
  simp

/-- A descriptor refused is the operand of its trap. -/
theorem State.takeTrap_descriptor (s : State) {code : Nat} (hc : code < 2 ^ 32) :
    s.takeTrap s.sch.cur .trap code (s.sch.cur.r 4) =
      .next (s.report s.sch.cur true .trap (code + (portR 32 s).toNat * 2 ^ 32)) := by
  rw [← portR_toNat s 4]
  exact s.takeTrap_firing _ _ hc (by omega)

/-- The tag that a descriptor asks for (R317). -/
def Firing.sendTag (f : Firing) (d : Word) : Tag := if d.getLsbD 3 then nextTag f.acc.tag else f.acc.tag

/-- The cell that a descriptor of SEND names. -/
def Region.sendCell (r : Region) (d : Word) : Nat × Nat := (r.x0 + (d.extractLsb' 21 7).toNat, r.y0 + (d.extractLsb' 15 6).toNat)

/-- Whether a descriptor of SEND is refused before its slot is looked at (R317). -/
def Region.refusesSend (r : Region) (d : Word) : Prop :=
  d.extractLsb' 28 4 ≠ 0 ∨ d.extractLsb' 0 3 ≠ 0 ∨ r.contains (r.sendCell d).1 (r.sendCell d).2 = false ∨
    r.image.wpc ≤ (d.extractLsb' 12 3).toNat

/-- What SEND checks of its descriptor first. -/
theorem refusesSend_iff (s : State) (r : Region) :
    (bits (s.sch.cur.r 4) 31 28 ≠ 0 || bits (s.sch.cur.r 4) 2 0 ≠ 0 ||
      !r.contains (r.x0 + bits (s.sch.cur.r 4) 27 21) (r.y0 + bits (s.sch.cur.r 4) 20 15) ||
      r.image.wpc ≤ bits (s.sch.cur.r 4) 14 12) = true ↔ r.refusesSend (portR 32 s) := by
  simp only [bits_descriptor s 31 28 4 rfl, bits_descriptor s 2 0 3 rfl, bits_descriptor s 27 21 7 rfl,
    bits_descriptor s 20 15 6 rfl, bits_descriptor s 14 12 3 rfl, Region.refusesSend, Region.sendCell, ne_eq, ← toNat_eq_zero_iff,
    Bool.or_eq_true, decide_eq_true_eq, Bool.not_eq_true', or_assoc]

/-- Whether a descriptor of SENDM is refused for a reserved bit, PORT 00 or its group (R318). -/
def State.refusesSendm (s : State) (d : Word) : Prop :=
  d.extractLsb' 24 8 ≠ 0 ∨ d.getLsbD 15 = true ∨ d.extractLsb' 0 3 ≠ 0 ∨ d.extractLsb' 4 2 = 0 ∨
    (look {} (s.die s.sch.cur.die).groups (d.extractLsb' 16 8).toNat : Group).ctx ≠ tagCtx s.sch.cur.acc.tag

/-! ## SEND (R317) -/

section
variable {s : State} {pd : Pd} (hp : s.sch.cur.passes pd = true)
include hp

/-- A descriptor that R317 refuses traps. -/
theorem send_traps (h : (s.region s.sch.cur.region).refusesSend (portR 32 s)) :
    exec (.send pd) s = .next (s.report s.sch.cur true .trap (0x3FF1 + (portR 32 s).toNat * 2 ^ 32)) := by
  have hexec : exec (.send pd) s = execSend pd s := rfl
  rw [hexec, execSend, State.fire_passed _ _ _ hp, ← s.takeTrap_descriptor (by decide)]
  exact if_pos ((refusesSend_iff s _).mpr h)

/-- A slot that uses the port, reached without steering, is sent one token against an entry of its cell. -/
theorem send_slot {p : Port} {pool : Pool} {q : State} {x y w slot : Nat} {tag : Tag}
    (hok : ¬ (s.region s.sch.cur.region).refusesSend (portR 32 s)) (hcell : (s.region s.sch.cur.region).sendCell (portR 32 s) = (x, y))
    (hw : ((portR 32 s).extractLsb' 12 3).toNat = w) (hslot : ((portR 32 s).extractLsb' 6 6).toNat = slot)
    (hport : ((portR 32 s).extractLsb' 4 2).toNat = p.code) (htag : s.sch.cur.sendTag (portR 32 s) = tag)
    (htakes : s.slotTakes s.sch.cur.region (cellKey s.sch.cur.die x y) w slot p = true)
    (hsteer : (s.region s.sch.cur.region).steer x y w tag s.sch.cur.valL = (x, y))
    (hentry : s.takeEntry (cellKey s.sch.cur.die x y) s.sch.cur.region = some (pool, q)) :
    exec (.send pd) s = .next (q.sendSlot s.sch.cur x y w slot p tag pool s.sch.cur.valL) := by
  have hexec : exec (.send pd) s = execSend pd s := rfl
  obtain ⟨rfl, rfl⟩ := Prod.mk.inj hcell
  rw [hexec, execSend, State.fire_passed _ _ _ hp]
  refine (if_neg (mt (refusesSend_iff s _).mp hok)).trans ?_
  simp only [bits_descriptor s 27 21 7 rfl, bits_descriptor s 20 15 6 rfl,
    bits_descriptor s 14 12 3 rfl, bits_descriptor s 11 6 6 rfl,
    bits_descriptor s 5 4 2 rfl, bit_descriptor, hport, portOf_code, hw, hslot]
  rw [Firing.sendTag] at htag
  simp only [htag, htakes, hsteer, hentry, Bool.not_true, Bool.false_eq_true, if_false]

/-! ## SENDM (R318) -/

/-- A descriptor that R318 refuses traps. -/
theorem sendm_traps (h : s.refusesSendm (portR 32 s)) :
    exec (.sendm pd) s = .next (s.report s.sch.cur true .trap (0x3FF2 + (portR 32 s).toNat * 2 ^ 32)) := by
  have hexec : exec (.sendm pd) s = execSendm pd s := rfl
  rw [hexec, execSendm, State.fire_passed _ _ _ hp, ← s.takeTrap_descriptor (by decide)]
  simp only [bits_descriptor s 31 24 8 rfl, bits_descriptor s 2 0 3 rfl,
    bits_descriptor s 23 16 8 rfl, bits_descriptor s 5 4 2 rfl, bit_descriptor]
  split
  · rfl
  · rename_i p hport
    have hcode : (portR 32 s).extractLsb' 4 2 ≠ 0 := fun h0 => by simp [h0, portOf] at hport
    simp only [State.refusesSendm, ne_eq, ← toNat_eq_zero_iff] at h hcode
    refine if_pos ?_
    simp only [Bool.or_eq_true, decide_eq_true_eq, ne_eq]
    obtain h | h | h | h | h := h
    · exact .inl (.inl (.inl (.inl h)))
    · exact .inl (.inl (.inl (.inr h)))
    · exact .inl (.inl (.inr h))
    · exact absurd h hcode
    · exact .inr h

/-- A group of the accord's context whose members in the region all take the token is sent one token each, in order. -/
theorem sendm_group {p : Port} {l : List (Nat × Nat × Pool)} {q : State} {w slot : Nat} {tag : Tag} {g : Group} {goal : List (Nat × Nat)}
    (hg : (look {} (s.die s.sch.cur.die).groups ((portR 32 s).extractLsb' 16 8).toNat : Group) = g)
    (hgoal : (g.members.filter fun c => (s.region s.sch.cur.region).contains c.1 c.2) = goal)
    (hok : ¬ s.refusesSendm (portR 32 s)) (hmembers : g.members ≠ [])
    (hw : ((portR 32 s).extractLsb' 12 3).toNat = w) (hslot : ((portR 32 s).extractLsb' 6 6).toNat = slot)
    (hport : ((portR 32 s).extractLsb' 4 2).toNat = p.code) (htag : s.sch.cur.sendTag (portR 32 s) = tag)
    (hwpc : w < (s.region s.sch.cur.region).image.wpc)
    (htakes : ∀ c ∈ goal, s.slotTakes s.sch.cur.region (cellKey s.sch.cur.die c.1 c.2) w slot p = true)
    (hentries : s.takeEntries s.sch.cur.die s.sch.cur.region goal = some (l, q)) :
    exec (.sendm pd) s =
      .next (l.foldl (fun u e => u.sendSlot s.sch.cur e.1 e.2.1 w slot p tag e.2.2 s.sch.cur.valL) q) := by
  have hexec : exec (.sendm pd) s = execSendm pd s := rfl
  subst hg hgoal
  obtain ⟨hhigh, hbit, hlow, -, hctx⟩ : (portR 32 s).extractLsb' 24 8 = 0 ∧ (portR 32 s).getLsbD 15 = false ∧
      (portR 32 s).extractLsb' 0 3 = 0 ∧ _ ∧ (look {} (s.die s.sch.cur.die).groups ((portR 32 s).extractLsb' 16 8).toNat : Group).ctx =
      tagCtx s.sch.cur.acc.tag := by
    simpa only [State.refusesSendm, not_or, ne_eq, Decidable.not_not, Bool.not_eq_true] using hok
  rw [hexec, execSendm, State.fire_passed _ _ _ hp]
  simp only [bits_descriptor s 31 24 8 rfl, bits_descriptor s 2 0 3 rfl,
    bits_descriptor s 23 16 8 rfl, bits_descriptor s 14 12 3 rfl,
    bits_descriptor s 11 6 6 rfl, bits_descriptor s 5 4 2 rfl, bit_descriptor, hport, portOf_code, hw, hslot]
  rw [Firing.sendTag] at htag
  have hsome := List.isEmpty_eq_false_iff.mpr hmembers
  refine (if_neg ?_).trans ((if_neg ?_).trans ?_)
  · simp only [hhigh, hbit, hlow, hctx, hsome]
    simp
  · simpa [hwpc] using htakes
  · simp only [hentries, htag]

end

/-! ## The tokens on the mesh -/

/-- The tokens sent to slots of some cells are behind the others of the mesh, one for each cell in order, and alike but for their cell. -/
theorem State.sendSlots_toks (f : Firing) (w slot : Nat) (p : Port) (tag : Tag) (v : Val) (l : List (Nat × Nat × Pool)) (s : State) :
    ∃ ks, (l.foldl (fun u e => u.sendSlot f e.1 e.2.1 w slot p tag e.2.2 v) s).toks = s.toks ++ ks ∧
      ks.map (fun k => (k.x, k.y)) = l.map (fun e => (e.1, e.2.1)) ∧
      ∀ k ∈ ks, k.tag = tag ∧ k.val = v ∧ k.dest = .slot w slot p ∧ k.region = f.region := by
  induction l generalizing s with
  | nil => exact ⟨[], (List.append_nil _).symm, rfl, by simp⟩
  | cons e t ih =>
    obtain ⟨ks, htoks, hcells, hall⟩ := ih (s.sendSlot f e.1 e.2.1 w slot p tag e.2.2 v)
    refine ⟨_ :: ks, htoks.trans (List.append_assoc _ _ _), ?_, List.forall_mem_cons.mpr ⟨⟨rfl, rfl, rfl, rfl⟩, hall⟩⟩
    rw [List.map_cons, List.map_cons, hcells]

end Sys2Proof.Machine

section
open Sys2Proof Sys2Proof.Machine Sys2Proof.Claims

/-- Settles O27: the outcomes of SEND and SENDM are the rules above; what they send is behind the other tokens of the mesh, which taking the
entries leaves as it is. -/
theorem sendsAcrossTheRegion : Obligations.SendsAcrossTheRegion := by
  unfold Obligations.SendsAcrossTheRegion
  intro pd s hp f d r x y w slot tag
  refine ⟨?send, send_traps hp, ?sendm, sendm_traps hp⟩
  case send =>
    intro p pool q hhigh hlow hcell hw hport htakes hsteer hentry
    have hok : ¬ r.refusesSend d := by
      rintro (h | h | h | h)
      · exact h hhigh
      · exact h hlow
      · exact Bool.false_ne_true (h.symm.trans hcell)
      · exact Nat.not_le.mpr hw h
    have hexec := send_slot hp hok rfl rfl rfl hport rfl htakes hsteer hentry
    obtain ⟨g, rfl⟩ := State.takeEntry_updCell hentry
    exact ⟨_, _, hexec, rfl, rfl, rfl, rfl, rfl, rfl, rfl, rfl, rfl, rfl⟩
  case sendm =>
    intro p l q g goal hhigh hbit hlow hport hmembers hctx hw htakes hentries
    have hok : ¬ s.refusesSendm d := by
      rintro (h | h | h | h | h)
      · exact h hhigh
      · exact Bool.false_ne_true (hbit.symm.trans h)
      · exact h hlow
      · rw [h] at hport
        cases p <;> cases hport
      · exact h hctx
    obtain ⟨hgoals, htoks⟩ := State.takeEntries_goals _ _ _ hentries
    obtain ⟨ks, hks, hcells, hall⟩ := State.sendSlots_toks f w slot p tag f.valL l q
    exact ⟨_, ks, sendm_group hp rfl rfl hok hmembers rfl rfl hport rfl hw htakes hentries, htoks ▸ hks, hcells.trans hgoals, hall⟩

end
end

section
/-!
PROOF of O58. Loads and the region registers (R114, R115, R168), the placement controller's moves (R119 to R124) and the shares (R129):
one lemma per outcome of each step, then the statement.
-/

namespace Sys2Proof.Machine

theorem exec_regionLoad (s : State) : exec .regionLoad s = execRegionLoad s := rfl
theorem exec_loadComplete (s : State) : exec .loadComplete s = execLoadComplete s := rfl
theorem exec_regionSelect (s : State) : exec .regionSelect s = execRegionSelect s := rfl
theorem exec_hangSet (s : State) : exec .hangSet s = execHangSet s := rfl
theorem exec_bucketStateCopy (s : State) : exec .bucketStateCopy s = execBucketStateCopy s := rfl
theorem exec_bucketRelease (s : State) : exec .bucketRelease s = execBucketRelease s := rfl
theorem exec_replicaFree (s : State) : exec .replicaFree s = execReplicaFree s := rfl

/-! ## Loads (R114, R115, R297) -/

/-- The region that SCH_REG_CTL of the step's die names. -/
def State.namedRegion (s : State) : Option Region :=
  s.regionAt s.sch.args.die (s.die s.sch.args.die).reg.x0.toNat (s.die s.sch.args.die).reg.y0.toNat

/-- The image's address that SCH_REG_IMG of the step's die gives. -/
def State.namedImage (s : State) : Nat := (s.die s.sch.args.die).reg.img.toNat / 64 * 64

/-- The image read for a region (R115). -/
def State.imageFor (s : State) (r : Region) : Check (List Byte × Image) × State :=
  s.loadImage s.namedImage { ctx := r.ctx, width := r.w, height := r.h, claims := some (r.image.wpc, r.image.banks) }

section
variable {s : State}

/-- REGION_LOAD where no region has its corner. -/
theorem regionLoad_none (h : s.namedRegion = none) : exec .regionLoad s = .next (s.loadResult s.sch.args.die 2) := by
  rw [State.namedRegion] at h
  simp only [exec_regionLoad, execRegionLoad, h]

section
variable {r : Region} (hr : s.namedRegion = some r) (hst : r.st = .running) (hstop : r.stop = .none) (hend : r.ended = false)
  (hempty : s.holdsTokens r = false)
include hr hst hstop hend hempty

/-- REGION_LOAD of a region that runs and holds nothing, with an image that loads and that the die can give, begins the load. -/
theorem regionLoad_begins {bs : List Byte} {img : Image} (hload : (s.imageFor r).1 = .ok (bs, img))
    (hok : (s.imageFor r).2.loadRefused r img = none) :
    exec .regionLoad s = .next ((s.imageFor r).2.beginLoad r s.namedImage bs img) := by
  rw [State.namedRegion] at hr
  rw [State.imageFor, State.namedImage] at hload hok
  simp only [exec_regionLoad, execRegionLoad, hr]
  refine (if_neg (by simp [hst, hstop, hend, hempty])).trans ?_
  simp only [hload, hok]
  rfl

/-- With an image that does not load it ends with CODE 3 and a record of what was wrong. -/
theorem regionLoad_refused {b : BadImage} (hload : (s.imageFor r).1 = .error b) :
    exec .regionLoad s = .next (((s.imageFor r).2.loadFault r.ctx s.namedImage (loadWhere s.sch.args.die r.x0 r.y0 b) r.handle
      ((s.imageFor r).2.die s.sch.args.die).netCycles b).loadResult s.sch.args.die 3) := by
  rw [State.namedRegion] at hr
  rw [State.imageFor, State.namedImage] at hload
  simp only [exec_regionLoad, execRegionLoad, hr]
  refine (if_neg (by simp [hst, hstop, hend, hempty])).trans ?_
  simp only [hload]
  rfl

end

/-- LOAD_COMPLETE of a die's loading region. -/
theorem loadComplete_runs {r : Region} (hr : (s.die s.sch.args.die).loading.bind s.region? = some r) :
    exec .loadComplete s = .next
      (((((s.eachCell r fun rx ry c => c.reload r rx ry).updRegion r.id fun r => { r with st := .running }).sendPrimes r.id).updDie
        s.sch.args.die fun d => { d with loading := none }).loadResult s.sch.args.die 0) := by
  simp only [exec_loadComplete, execLoadComplete, hr]

/-! ## The region registers (R115, R168) -/

/-- REGION_SELECT of a region latches its word. -/
theorem regionSelect_some {r : Region} (hr : s.namedRegion = some r) :
    exec .regionSelect s = .next (s.updDie s.sch.args.die fun d =>
      { d with reg := { d.reg with stat := BitVec.ofNat 64 r.statWord, code := 0 } }) := by
  rw [State.namedRegion] at hr
  simp only [exec_regionSelect, execRegionSelect, hr, Option.isSome_some, if_true]

/-- Without a region it latches 0, with CODE 2. -/
theorem regionSelect_none (hr : s.namedRegion = none) :
    exec .regionSelect s = .next (s.updDie s.sch.args.die fun d => { d with reg := { d.reg with stat := 0, code := 2 } }) := by
  rw [State.namedRegion] at hr
  simp only [exec_regionSelect, execRegionSelect, hr, Option.isSome_none, Bool.false_eq_true, if_false]
  rfl

/-- HANG_SET of a region. -/
theorem hangSet_some {r : Region} (hr : s.regionAt s.sch.args.die (s.die s.sch.args.die).hangReg.x0.toNat
    (s.die s.sch.args.die).hangReg.y0.toNat = some r) :
    exec .hangSet s = .next (s.updRegion r.id fun r => { r with hang := clampHang (s.die s.sch.args.die).hangReg.hang.toNat }) := by
  simp only [exec_hangSet, execHangSet, hr]

/-! ## The placement controller (R120 to R124) -/

/-- The state in which the windows of an actor in a cell are free (R122). -/
def State.windowsFreed (s : State) (r : Region) (e : Actor) (x : Nat × Nat) : State :=
  s.updCell (cellKey r.die x.1 x.2) fun c => { c with windows := c.windows.map fun (w : Nat × Window) =>
    (w.1, if w.2.region = r.id && bit e.cfg.wins w.2.rwin then { region := r.id, rwin := w.2.rwin } else w.2) }

/-- What the pool gains by a cell: the cell itself where no window of the region holds words in it (R122). -/
def State.poolGain (s : State) (r : Region) (x : Nat × Nat) : List (Nat × Nat) :=
  if !((s.cell (cellKey r.die x.1 x.2)).windows.any fun w => w.2.region = r.id && !w.2.words.isEmpty) then [x] else []

theorem State.poolGain_cases (s : State) (r : Region) (x : Nat × Nat) : s.poolGain r x = [x] ∨ s.poolGain r x = [] := by
  unfold State.poolGain
  split
  · exact .inl rfl
  · exact .inr rfl

theorem State.poolGain_iff (s : State) (r : Region) (x : Nat × Nat) : s.poolGain r x = [x] ↔
    ∀ w, w ∈ (s.cell (cellKey r.die x.1 x.2)).windows → w.2.region = r.id → w.2.words = [] := by
  simp [State.poolGain]

/-- A region without elastic actors has nothing to sample. -/
theorem State.sampleRegion_fixed (s : State) {id : Nat} (h : ∀ e, e ∈ (s.region id).actors → e.cfg.elastic = false) :
    s.sampleRegion id = s := by
  have hnone : (s.region id).actors.filter (fun a => a.cfg.elastic) = [] := by simpa using h
  rw [State.sampleRegion, hnone]
  exact ite_self s

section
variable {r : Region} {e : Actor} (harg : s.actorArg = some (r, e))
include harg

/-- BUCKET_STATE_COPY of the first move that can be copied (R124 step 3). -/
theorem bucketStateCopy_copies {m : Move} {x y : Nat × Nat} (hm : e.copyable.find? (s.moveReady r e) = some m)
    (hx : e.replicas[m.src]? = some x) (hy : e.replicas[m.dst]? = some y) :
    exec .bucketStateCopy s = .next ((s.updRegion r.id fun r => r.updActor e.cfg.actor fun e =>
        { e with moves := changeFirst (fun q => q = m) (fun q => { q with step := 4 }) e.moves }).updCell
      (cellKey r.die y.1 y.2) fun c => c.bankWrite e.cfg.sbank (64 * (e.cfg.sbase + m.bucket * e.cfg.ssize))
        ((List.range (64 * e.cfg.ssize)).map fun i => (s.cell (cellKey r.die x.1 x.2)).bankByte e.cfg.sbank
          (64 * (e.cfg.sbase + m.bucket * e.cfg.ssize) + i))) := by
  simp only [exec_bucketStateCopy, execBucketStateCopy, harg, hm, hx, hy, Nat.mul_comm 64]
  rfl

/-- BUCKET_RELEASE of the first move whose state is in place (R124 step 4). -/
theorem bucketRelease_releases {m : Move} {y : Nat × Nat} (hm : e.moves.find? (fun m => m.step = 4) = some m)
    (hy : e.replicas[m.dst]? = some y) :
    exec .bucketRelease s = .next (((s.updRegion r.id fun r => r.updActor e.cfg.actor fun a => { a with
        moves := dropFirst (fun q => q = m) a.moves
        held := a.held.filter fun t => !decide (e.cfg.bucket t.tag t.val = m.bucket) }).beginMoves r.id e.cfg.actor).updCell
      (cellKey r.die y.1 y.2) fun c => { c with queue :=
        (e.held.filter fun t => e.cfg.bucket t.tag t.val = m.bucket).filter (fun t => t.kind = .forwarded) ++
        (e.held.filter fun t => e.cfg.bucket t.tag t.val = m.bucket).filter (fun t => t.kind ≠ .forwarded) ++ c.queue }) := by
  simp only [exec_bucketRelease, execBucketRelease, harg, hm, hy]

/-- REPLICA_FREE while every leaving replica has a move left. -/
theorem replicaFree_waits (h : ∀ n, n ∈ e.leaving → ∃ m, m ∈ e.moves ∧ m.src = n) : exec .replicaFree s = .next s := by
  have hnone : s.freeable r e = none := by
    rw [State.freeable, List.find?_eq_none]
    intro q hq
    obtain ⟨n, hn, hq⟩ := List.mem_filterMap.mp hq
    obtain ⟨x, -, rfl⟩ := Option.map_eq_some_iff.mp hq
    obtain ⟨m, hm, hsrc⟩ := h n hn
    simp only [Bool.and_eq_true, Bool.not_eq_true', List.any_eq_false, not_and]
    exact fun hall => absurd (by simpa using hsrc) (hall m hm)
  simp only [exec_replicaFree, execReplicaFree, harg, hnone]

/-- REPLICA_FREE of the replica that can be freed. -/
theorem replicaFree_frees {n : Nat} {x : Nat × Nat} (h : s.freeable r e = some (n, x)) :
    exec .replicaFree s = .next ((s.windowsFreed r e x).updRegion r.id fun q =>
      { q.updActor e.cfg.actor (fun e => { e with leaving := e.leaving.filter (· ≠ n), freed := e.freed ++ [n] }) with
        pool := q.pool ++ (s.windowsFreed r e x).poolGain r x }) := by
  have hgain : ∀ q : Region, q.pool ++ (s.windowsFreed r e x).poolGain r x =
      if !(((s.windowsFreed r e x).cell (cellKey r.die x.1 x.2)).windows.any fun w => w.2.region = r.id && !w.2.words.isEmpty) then
        q.pool ++ [x] else q.pool := by
    intro q
    unfold State.poolGain
    split
    · rfl
    · exact List.append_nil _
  simp only [exec_replicaFree, execReplicaFree, harg, h, hgain]
  rfl

end

/-- The replica that can be freed leaves, its moves are done, and it holds nothing of the actor (R122). -/
theorem State.freeable_spec {r : Region} {e : Actor} {n : Nat} {x : Nat × Nat} (h : s.freeable r e = some (n, x)) :
    n ∈ e.leaving ∧ e.replicas[n]? = some x ∧ (∀ m, m ∈ e.moves → m.src ≠ n) ∧ s.actorHolds r e x (fun _ _ => true) = false := by
  obtain ⟨m, hm, hq⟩ := List.mem_filterMap.mp (List.mem_of_find?_eq_some h)
  obtain ⟨y, hy, hpair⟩ := Option.map_eq_some_iff.mp hq
  obtain ⟨rfl, rfl⟩ := Prod.mk.inj hpair
  have hfree := List.find?_some h
  simp only [Bool.and_eq_true, Bool.not_eq_true', List.any_eq_false, decide_eq_true_eq] at hfree
  exact ⟨hm, hy, hfree⟩

end

/-! ## Shares (R129) -/

/-- The model adds a list up as the library does. -/
theorem sumOf_eq_sum (l : List Nat) : sumOf l = l.sum := List.sum_eq_foldl.symm

/-- The share of a window with slots grows by up to its whole in quarters of its occupancy. -/
theorem Window.reweighted_eff (w : Window) (h : 0 < (w.ins.map fun i => i.2.depth).sum) :
    w.reweighted.eff =
      w.share.toNat + w.share.toNat * min 4 (4 * w.occSum / (1024 * (w.ins.map fun i => i.2.depth).sum)) / 4 := by
  simp only [Window.reweighted, sumOf_eq_sum, if_neg (Nat.ne_of_gt h)]

/-- Without slots it is SHARE. -/
theorem Window.reweighted_eff_noSlots (w : Window) (h : (w.ins.map fun i => i.2.depth).sum = 0) :
    w.reweighted.eff = w.share.toNat := by
  simp [Window.reweighted, sumOf_eq_sum, h]

end Sys2Proof.Machine

section
open Sys2Proof Sys2Proof.Machine

/-- Settles O58: each clause is one of the rules above; a sample is of the die's regions one after the other, and the shares are those of
the cell's windows. -/
theorem regionsLoadedAndPlaced : Obligations.RegionsLoadedAndPlaced := by
  unfold Obligations.RegionsLoadedAndPlaced
  refine ⟨fun s => ⟨regionLoad_none, ?load, fun r => loadComplete_runs, fun r => regionSelect_some, regionSelect_none,
    fun r => hangSet_some, rfl, fun id => s.sampleRegion_fixed, ?actor, rfl⟩,
    fun w => ⟨rfl, rfl, rfl, rfl, w.reweighted_eff, w.reweighted_eff_noSlots⟩⟩
  case load =>
    intro r hr hst hstop hend hempty q
    exact ⟨fun bs img hload hok => regionLoad_begins hr hst hstop hend hempty hload hok,
      fun b hload => regionLoad_refused hr hst hstop hend hempty hload⟩
  case actor =>
    intro r e harg to_
    refine ⟨fun m x y => bucketStateCopy_copies harg, fun m y => bucketRelease_releases harg, replicaFree_waits harg,
      fun n x hfree => ?_⟩
    obtain ⟨hleaves, hx, hdone, hempty⟩ := State.freeable_spec hfree
    exact ⟨hleaves, hx, hdone, hempty, s.windowsFreed r e x, _, rfl, State.poolGain_cases _ r x, State.poolGain_iff _ r x,
      replicaFree_frees harg hfree⟩

end
end

section
/-!
PROOF of O59. Tokens that arrive and match (R123, R124, R159, R163, R185, R188, R189, R193, R196), notices, progress and gates (R135 to
R137, R186, R192), and the laps of a frame (R194, R195): one lemma per outcome of each step, then the statement.
-/

namespace Sys2Proof.Machine

theorem exec_tokenArrival (s : State) : exec .tokenArrival s = execTokenArrival s := rfl
theorem exec_tokenMatch (s : State) : exec .tokenMatch s = execTokenMatch s := rfl
theorem exec_creditNotice (s : State) : exec .creditNotice s = execCreditNotice s := rfl
theorem exec_progressReport (s : State) : exec .progressReport s = execProgressReport s := rfl
theorem exec_qualityGate (s : State) : exec .qualityGate s = execQualityGate s := rfl
theorem exec_markerReport (s : State) : exec .markerReport s = execMarkerReport s := rfl
theorem exec_lapUpdate (s : State) : exec .lapUpdate s = execLapUpdate s := rfl
theorem exec_lapAck (s : State) : exec .lapAck s = execLapAck s := rfl

/-! ## Admission (R159, R163, R196) -/

section
variable {r : Region} {x y : Nat} {tag : Tag}

/-- A token of a frame that is not allocated is dropped. -/
theorem Region.admission_noFrame (h : r.frame? (tagFrm tag) = none) : r.admission x y tag = .drop := by
  simp only [Region.admission, h]

variable {f : FrameRec} (hf : r.frame? (tagFrm tag) = some f)
include hf

/-- One of a frame killed or returned is dropped. -/
theorem Region.admission_ended (h : f.killed = true ∨ f.returned = true) : r.admission x y tag = .drop := by
  simp only [Region.admission, hf]
  exact if_pos (by simpa using h)

variable (hk : f.killed = false) (hr : f.returned = false)
include hk hr

/-- One of a trapped frame is parked. -/
theorem Region.admission_trapped (h : tagFrm tag ∈ r.trapSet) : r.admission x y tag = .park := by
  simp [Region.admission, hf, hk, hr, h]

/-- One of a generation outside the lap window is stale. -/
theorem Region.admission_stale (h : tagFrm tag ∉ r.trapSet) (hw : f.inWindow x y (tagGen tag) = false) :
    r.admission x y tag = .stale (f.lapAt x y).2 := by
  simp [Region.admission, hf, hk, hr, h, hw]

/-- Any other is accepted. -/
theorem Region.admission_accept (h : tagFrm tag ∉ r.trapSet) (hw : f.inWindow x y (tagGen tag) = true) :
    r.admission x y tag = .accept := by
  simp [Region.admission, hf, hk, hr, h, hw]

end

/-! ## Arrival (R185) -/

/-- The state in which a token has left the mesh, which ends its region's silence (R168). -/
def State.offMesh (s : State) (t : Tok) : State := { s with toks := dropFirst (fun u => u.id = t.id) s.toks }.stir t.region

/-- The key of the cell that a token is bound for. -/
def State.goalOf (s : State) (t : Tok) : Nat := cellKey (s.region t.region).die t.x t.y

section
variable {s : State} {t u : Tok}

/-- R185: a token behind another of its way does not arrive. -/
theorem State.arrives_behind (hu : s.toks.find? (fun u => s.sameWay t u) = some u) (hid : u.id ≠ t.id) : s.arrives t = false := by
  simp [State.arrives, hu, hid]

/-- The first of its way arrives where its cell does not accept it. -/
theorem State.arrives_turnedAway (hu : s.toks.find? (fun u => s.sameWay t u) = some u) (hid : u.id = t.id) {a : Admission}
    (ha : (s.region t.region).admission t.x t.y t.tag = a) (hne : a ≠ .accept) : s.arrives t = true := by
  simp [State.arrives, hu, hid, ha, hne]

variable (ht : s.toks.find? (fun t => t.id = s.sch.args.id) = some t)
include ht

/-- TOKEN_ARRIVAL of a token that cannot arrive. -/
theorem tokenArrival_waits (ha : s.arrives t = false) : exec .tokenArrival s = .next s := by
  simp [exec_tokenArrival, execTokenArrival, ht, ha]

variable (ha : s.arrives t = true)
include ha

/-- A token dropped gives back what it holds. -/
theorem tokenArrival_drop (h : (s.region t.region).admission t.x t.y t.tag = .drop) :
    exec .tokenArrival s = .next ((s.offMesh t).turnAway (s.goalOf t) t) := by
  simp only [exec_tokenArrival, execTokenArrival, ht, ha, h]
  rfl

/-- One parked joins its region's park area. -/
theorem tokenArrival_park (h : (s.region t.region).admission t.x t.y t.tag = .park) :
    exec .tokenArrival s = .next (((s.offMesh t).turnAway (s.goalOf t) t).park (s.region t.region).id (.token t)) := by
  simp only [exec_tokenArrival, execTokenArrival, ht, ha, h]
  rfl

/-- One that is stale is reported. -/
theorem tokenArrival_stale {lap : Nat} (h : (s.region t.region).admission t.x t.y t.tag = .stale lap) :
    exec .tokenArrival s = .next (((s.offMesh t).turnAway (s.goalOf t) t).stale_ (s.region t.region).die t.x t.y (s.region t.region).id
      t.dest.win t.dest.slotOf t.tag lap) := by
  simp only [exec_tokenArrival, execTokenArrival, ht, ha, h]
  rfl

/-- One accepted with an entry enters its cell. -/
theorem tokenArrival_accept {pool : Pool} {v : State} (h : (s.region t.region).admission t.x t.y t.tag = .accept)
    (hentry : (s.offMesh t).entryFor (s.goalOf t) t = some (pool, v)) :
    exec .tokenArrival s = .next (v.acceptTok (s.goalOf t) { t with pool := pool } ((s.region t.region).cut t.x t.y)) := by
  rw [State.offMesh, State.goalOf] at hentry
  simp only [exec_tokenArrival, execTokenArrival, ht, ha, h, hentry]
  rfl

end

/-! ## Matching (R123, R124, R188, R189) -/

section
variable {s : State} {r : Region}

/-- The state in which a token has left the queue of a cell. -/
def State.offQueue (s : State) (k : Nat) (t : Tok) : State :=
  s.updCell k fun c => { c with queue := dropFirst (fun u => u.id = t.id) c.queue }

/-- The state in which it has also given back what it held, which ends its region's silence. -/
def State.gone (s : State) (r : Region) (k : Nat) (t : Tok) : State := ((s.offQueue k t).leaveQueue k t).stir r.id

section
variable {k : Nat} {t : Tok}

/-- A queued token that left a trap, or whose frame accepts it, is admitted (R162). -/
theorem Region.admits_queued (h : t.kind = .unparked ∨ r.admission t.x t.y t.tag = .accept) :
    (if t.kind = .unparked then Admission.accept else r.admission t.x t.y t.tag) = .accept :=
  ite_eq_left_iff.mpr (h.resolve_left ·)

/-- R124: a token whose bucket is elsewhere is forwarded. -/
theorem State.matchQueue_away {x y : Nat} (h : r.steerAt t.x t.y t.dest.win t.tag t.val = .away x y) :
    s.matchQueue r k t = s.forward r.die t x y fun s => s.gone r k t := by
  simp only [State.matchQueue, h]
  rfl

/-- One whose bucket moves here is held. -/
theorem State.matchQueue_hold {n : Nat} (h : r.steerAt t.x t.y t.dest.win t.tag t.val = .hold n) :
    s.matchQueue r k t = (s.offQueue k t).holdTok r.id n t := by
  simp only [State.matchQueue, h]
  rfl

section
variable {w : Nat} {win : Window} (hhere : r.steerAt t.x t.y t.dest.win t.tag t.val = .here)
  (hwin : (s.cell k).findWin r.id t.dest.win = some (w, win)) (hok : t.kind = .unparked ∨ r.admission t.x t.y t.tag = .accept)
include hhere hwin hok

/-- R188: any other waits for room. -/
theorem State.matchQueue_noRoom
    (hroom : s.roomFor k w r.id (s.portOfDest k w t.dest).1 (s.portOfDest k w t.dest).2 t.tag t.val t.held = false) :
    s.matchQueue r k t = s := by
  simp only [State.matchQueue, hhere, hwin, Region.admits_queued hok, hroom, Bool.not_false, if_true]

/-- R189: with room it enters the matching store, and its dequeue is counted. -/
theorem State.matchQueue_enters
    (hroom : s.roomFor k w r.id (s.portOfDest k w t.dest).1 (s.portOfDest k w t.dest).2 t.tag t.val t.held = true) :
    s.matchQueue r k t = ((s.gone r k t).countProgress k w r.id t.dest).matchToken k w (s.portOfDest k w t.dest).1
      (s.portOfDest k w t.dest).2 t.tag t.val := by
  simp only [State.matchQueue, hhere, hwin, Region.admits_queued hok, hroom, Bool.not_true, Bool.false_eq_true, if_false]
  rfl

end

end

/-- A region that is neither stopped nor frozen matches in each of its cells. -/
theorem Region.matches_running {x y : Nat} (hstop : r.stop = .none) (hst : r.st ≠ .frozen) :
    ¬ (r.stop = .freeze || r.st = .frozen || r.cut x y) = true := by
  simp [Region.cut, hstop, hst]

variable (hr : s.region? s.sch.args.region = some r)
include hr

/-- TOKEN_MATCH in a region that freezes or is frozen. -/
theorem tokenMatch_frozen (h : r.stop = .freeze ∨ r.st = .frozen) : exec .tokenMatch s = .next s := by
  simp only [exec_tokenMatch, execTokenMatch, hr]
  exact if_pos (by obtain h | h := h <;> simp [h])

variable (hstop : r.stop = .none) (hst : r.st ≠ .frozen)
include hstop hst

/-- In any other it takes the ring that it names. -/
theorem tokenMatch_ring (hf : s.sch.args.flag = true) : exec .tokenMatch s =
    .next (s.matchRing r (cellKey r.die s.sch.args.x s.sch.args.y) s.sch.args.x s.sch.args.y s.sch.args.port s.sch.args.arc) := by
  simp only [exec_tokenMatch, execTokenMatch, hr, hf]
  exact if_neg (Region.matches_running hstop hst)

/-- Or the queue of the cell, where no token of the region may wait. -/
theorem tokenMatch_noToken (hf : s.sch.args.flag = false)
    (h : ∀ t, t ∈ (s.cell (cellKey r.die s.sch.args.x s.sch.args.y)).queue → t.region ≠ r.id) : exec .tokenMatch s = .next s := by
  have hnone : (s.cell (cellKey r.die s.sch.args.x s.sch.args.y)).queue.find? (fun t => t.region = r.id) = none := by simpa using h
  simp only [exec_tokenMatch, execTokenMatch, hr, hf, hnone]
  exact if_neg (Region.matches_running hstop hst)

/-- And the region's first token there otherwise. -/
theorem tokenMatch_queue {t : Tok} (hf : s.sch.args.flag = false)
    (ht : (s.cell (cellKey r.die s.sch.args.x s.sch.args.y)).queue.find? (fun t => t.region = r.id) = some t) :
    exec .tokenMatch s = .next (s.matchQueue r (cellKey r.die s.sch.args.x s.sch.args.y) t) := by
  simp only [exec_tokenMatch, execTokenMatch, hr, hf, ht]
  exact if_neg (Region.matches_running hstop hst)

end

/-! ## Notices (R151, R186, R192) -/

/-- The state in which a notice has been taken. -/
def State.noticeTaken (s : State) (n : Notice) : State := { s with notices := dropFirst (fun m => m.id = n.id) s.notices }

section
variable {s : State} {n : Notice} (hn : s.notices.find? (fun n => n.id = s.sch.args.id) = some n)
include hn

/-- CREDIT_NOTICE for the port core of an activation stream. -/
theorem creditNotice_stream (hx : 80 ≤ n.x) :
    exec .creditNotice s = .next ((s.noticeTaken n).updAct n.arc fun q => { q with cred := q.cred + n.count }) := by
  simp only [exec_creditNotice, execCreditNotice, hn]
  exact if_pos hx

/-- CREDIT_NOTICE for an output arc, whose spill queue may then go on (R170). -/
theorem creditNotice_arc {w : Nat} {win : Window} (hx : n.x < 80)
    (hwin : (s.cell (cellKey (s.region n.region).die n.x n.y)).findWin n.region n.rwin = some (w, win)) :
    exec .creditNotice s = .next (((s.noticeTaken n).updOut (cellKey (s.region n.region).die n.x n.y) w n.arc fun o =>
      { o with cred := o.cred + n.count }).drawSpill n.region (cellKey (s.region n.region).die n.x n.y) w n.arc) := by
  have hwin' : ((s.noticeTaken n).cell (cellKey ((s.noticeTaken n).region n.region).die n.x n.y)).findWin n.region n.rwin =
    some (w, win) := hwin
  rw [State.noticeTaken] at hwin'
  simp only [exec_creditNotice, execCreditNotice, hn, hwin']
  exact if_neg (Nat.not_le.mpr hx)

end

/-! ## Progress and gates (R135 to R137) -/

/-- R135: a cell reports after 64 dequeues, or 256 cycles after the first. -/
theorem Cell.reports_iff (c : Cell) (region cycle : Nat) : c.reports region cycle = true ↔
    64 ≤ look 0 c.dequeued region ∨ (0 < look 0 c.dequeued region ∧ look 0 c.unreported region + 256 ≤ cycle) := by
  simp [Cell.reports]

section
variable {s : State} {r : Region} (hr : s.region? s.sch.args.region = some r)
include hr

/-- PROGRESS_REPORT of a cell that reports. -/
theorem progressReport_moves
    (h : (s.cell (cellKey r.die s.sch.args.x s.sch.args.y)).reports r.id (s.die r.die).fabCycles.toNat = true) :
    exec .progressReport s = .next ((s.updRegion r.id fun q =>
        { q with count := q.count + look 0 (s.cell (cellKey r.die s.sch.args.x s.sch.args.y)).dequeued r.id }).updCell
      (cellKey r.die s.sch.args.x s.sch.args.y) fun c =>
        { c with dequeued := put 0 r.id 0 c.dequeued, unreported := put 0 r.id 0 c.unreported }) := by
  simp only [exec_progressReport, execProgressReport, hr, h, Bool.not_true, Bool.false_eq_true, if_false]

/-- Of one that does not. -/
theorem progressReport_waits
    (h : (s.cell (cellKey r.die s.sch.args.x s.sch.args.y)).reports r.id (s.die r.die).fabCycles.toNat = false) :
    exec .progressReport s = .next s := by
  simp only [exec_progressReport, execProgressReport, hr, h, Bool.not_false, if_true]

end

/-- The phase that a region has reached at a die (R134). -/
def State.phaseOf (s : State) (die : Nat) (r : Region) : Nat := look 0 (s.die die).phases r.frame.toNat

/-- Whether a gate lowers its region's level (R136, R137): a DISP region, behind, above 0 and not lowered in this phase. -/
def Region.lowers (r : Region) (phase : Nat) : Bool := r.disp && r.behind phase && 0 < r.ql && r.lowered ≠ some phase

theorem Region.lowers_of {r : Region} {phase : Nat} (hdisp : r.disp = true)
    (hbehind : r.margin * r.image.ptotal + 256 * r.count < 16 * phase * r.image.ptotal) (hql : 0 < r.ql)
    (hlow : r.lowered ≠ some phase) : r.lowers phase = true := by
  simp [Region.lowers, Region.behind, hdisp, hbehind, hql, hlow]

theorem Region.not_lowers_of {r : Region} {phase : Nat} (h : r.disp = false ∨
    16 * phase * r.image.ptotal ≤ r.margin * r.image.ptotal + 256 * r.count ∨ r.ql = 0 ∨ r.lowered = some phase) :
    r.lowers phase = false := by
  refine Bool.eq_false_iff.mpr fun hlowers => ?_
  simp only [Region.lowers, Region.behind, Bool.and_eq_true, decide_eq_true_eq] at hlowers
  obtain ⟨⟨⟨hdisp, hbehind⟩, hql⟩, hlow⟩ := hlowers
  obtain h | h | h | h := h
  · exact Bool.false_ne_true (h.symm.trans hdisp)
  · exact Nat.not_lt.mpr h hbehind
  · exact Nat.ne_of_gt hql h
  · exact hlow h

/-- The state in which the first gate of the step's die has been taken. -/
def State.gateTaken (s : State) (l : List Gate) : State := s.updDie s.sch.args.die fun d => { d with gates := l }

section
variable {s : State} {g : Gate} {l : List Gate} (hg : (s.die s.sch.args.die).gates = g :: l)
include hg

/-- QUALITY_GATE that lowers the level, and sends the lower one. -/
theorem qualityGate_lowers {u : State} {r : Region} {phase : Nat} (hu : s.gateTaken l = u) (hr : u.region g.firing.region = r)
    (hphase : u.phaseOf s.sch.args.die r = phase) (h : r.lowers phase = true) :
    exec .qualityGate s = .next ((u.updRegion r.id fun r => { r with ql := r.ql - 1, lowered := some phase }).landEach g.firing
      g.firing.acc.tag g.pools (g.targets.map fun x => (x, Val.of 4 (r.ql - 1)))) := by
  subst hu hr hphase
  rw [Region.lowers, State.phaseOf, State.gateTaken] at h
  simp only [exec_qualityGate, execQualityGate, hg, h]
  rfl

/-- One that leaves it, and sends it. -/
theorem qualityGate_keeps {u : State} {r : Region} {phase : Nat} (hu : s.gateTaken l = u) (hr : u.region g.firing.region = r)
    (hphase : u.phaseOf s.sch.args.die r = phase) (h : r.lowers phase = false) :
    exec .qualityGate s = .next (u.landEach g.firing g.firing.acc.tag g.pools (g.targets.map fun x => (x, Val.of 4 r.ql))) := by
  subst hu hr hphase
  rw [Region.lowers, State.phaseOf, State.gateTaken] at h
  simp only [exec_qualityGate, execQualityGate, hg, h]
  rfl

end

/-! ## Laps (R192, R194, R195) -/

section
variable {s : State} {f : FrameRec} {m : Nat × Nat × List Nat}
  (hf : (s.region s.sch.args.region).frame? s.sch.args.frm = some f)
  (hm : f.markers.find? (fun m => m.2.2.contains s.sch.args.arc) = some m)
include hf hm

/-- MARKER_REPORT while an older token is on the arc. -/
theorem markerReport_behind (h : s.aheadOf s.sch.args.region s.sch.args.arc m.2.1 = true) : exec .markerReport s = .next s := by
  simp only [exec_markerReport, execMarkerReport, hf, hm, h, if_true]

variable (h : s.aheadOf s.sch.args.region s.sch.args.arc m.2.1 = false)
include h

/-- With its last arc the marker ends, and its lap is marked. -/
theorem markerReport_last (hleft : m.2.2.filter (· ≠ s.sch.args.arc) = []) :
    exec .markerReport s = .next ((s.updRegion s.sch.args.region fun r => r.updFrame s.sch.args.frm fun f =>
      { f with markers := f.markers.filter (fun q => q.1 ≠ m.1), marked := f.marked ++ [m.1] }).serveAsks s.sch.args.region) := by
  simp only [exec_markerReport, execMarkerReport, hf, hm, h, hleft, List.isEmpty_nil, if_true, Bool.false_eq_true, if_false]

/-- With another the arc is taken off it. -/
theorem markerReport_passed (hleft : m.2.2.filter (· ≠ s.sch.args.arc) ≠ []) :
    exec .markerReport s = .next ((s.updRegion s.sch.args.region fun r => r.updFrame s.sch.args.frm fun f =>
      { f with markers := changeFirst (fun q => q.1 = m.1) (fun q => (q.1, q.2.1, m.2.2.filter (· ≠ s.sch.args.arc))) f.markers
        }).serveAsks s.sch.args.region) := by
  simp only [exec_markerReport, execMarkerReport, hf, hm, h, List.isEmpty_eq_false_iff.mpr hleft, Bool.false_eq_true, if_false]

end

section
variable {s : State} {w : Wrap} (hw : ((s.region s.sch.args.region).frame? s.sch.args.frm).bind FrameRec.wrap = some w)
include hw

/-- The state in which the wrap of the step's frame is `w`. -/
def State.setWrap (s : State) (w : Wrap) : State :=
  s.updRegion s.sch.args.region fun r => r.updFrame s.sch.args.frm fun f => { f with wrap := some w }

/-- LAP_UPDATE of a cell that has taken the lap. -/
theorem lapUpdate_taken (hc : (s.sch.args.x, s.sch.args.y) ∉ w.cells) : exec .lapUpdate s = .next s := by
  simp [exec_lapUpdate, execLapUpdate, hw, hc]

/-- Of one that has not. -/
theorem lapUpdate_takes (hc : (s.sch.args.x, s.sch.args.y) ∈ w.cells) :
    exec .lapUpdate s = .next ((s.setWrap { w with
      cells := w.cells.filter (· ≠ (s.sch.args.x, s.sch.args.y)), acks := w.acks ++ [(s.sch.args.x, s.sch.args.y)] }).sweepStale
        s.sch.args.region s.sch.args.frm [(s.sch.args.x, s.sch.args.y)]) := by
  simp only [exec_lapUpdate, execLapUpdate, hw, List.contains_iff_mem.mpr hc, Bool.not_true, Bool.false_eq_true, if_false]
  rfl

/-- LAP_ACK takes the next acknowledgement. -/
theorem lapAck_takes :
    exec .lapAck s = .next ((s.setWrap { w with acks := w.acks.tail }).serveAsks s.sch.args.region) := by
  simp only [exec_lapAck, execLapAck, hw]
  rfl

end

end Sys2Proof.Machine

section
open Sys2Proof Sys2Proof.Machine

/-- Settles O59: each clause is one of the rules above; what becomes of a token that arrives is the admission of its frame. -/
theorem tokensNoticesAndLaps : Obligations.TokensNoticesAndLaps := by
  unfold Obligations.TokensNoticesAndLaps
  intro s a
  refine ⟨fun t u ht hu hid => tokenArrival_waits ht (State.arrives_behind hu hid), ?arrival, ?matching,
    fun n hn hx => creditNotice_stream hn hx, fun n w win hn hx => creditNotice_arc hn hx, ?progress, ?gate, ?marker, ?lap⟩
  case arrival =>
    intro t u ht hu hid r k q
    refine ⟨tokenArrival_waits ht, fun hnone => ?_, fun f hf => ⟨fun hend => ?_, fun hk hret htrap => ?_,
      fun hk hret hfree hwin => ?_, fun hk hret hfree hwin harr pool v hentry => ?_⟩⟩
    · have hadm := Region.admission_noFrame (x := t.x) (y := t.y) hnone
      exact tokenArrival_drop ht (State.arrives_turnedAway hu hid hadm nofun) hadm
    · have hadm := Region.admission_ended (x := t.x) (y := t.y) hf hend
      exact tokenArrival_drop ht (State.arrives_turnedAway hu hid hadm nofun) hadm
    · have hadm := Region.admission_trapped (x := t.x) (y := t.y) hf hk hret htrap
      exact tokenArrival_park ht (State.arrives_turnedAway hu hid hadm nofun) hadm
    · have hadm := Region.admission_stale hf hk hret hfree hwin
      exact tokenArrival_stale ht (State.arrives_turnedAway hu hid hadm nofun) hadm
    · exact tokenArrival_accept ht harr (Region.admission_accept hf hk hret hfree hwin) hentry
  case matching =>
    intro r hr k
    refine ⟨tokenMatch_frozen hr, fun hstop hst => ⟨tokenMatch_ring hr hstop hst, tokenMatch_noToken hr hstop hst, ?_⟩⟩
    intro t hf ht u gone
    rw [tokenMatch_queue hr hstop hst hf ht]
    refine ⟨fun x y h => congrArg _ (State.matchQueue_away h), fun n h => congrArg _ (State.matchQueue_hold h), ?_⟩
    intro w win hhere hwin hok p
    exact ⟨fun hroom => congrArg _ (State.matchQueue_noRoom hhere hwin hok hroom),
      fun hroom => congrArg _ (State.matchQueue_enters hhere hwin hok hroom)⟩
  case progress =>
    intro r hr k n cycle
    refine ⟨fun h => progressReport_moves hr ((Cell.reports_iff _ _ _).mpr h), fun hfew hlate => progressReport_waits hr ?_⟩
    refine Bool.eq_false_iff.mpr fun hrep => ?_
    obtain hmany | ⟨hpos, hdue⟩ := (Cell.reports_iff _ _ _).mp hrep
    · exact Nat.not_le.mpr hfew hmany
    · exact hlate.elim (Nat.ne_of_gt hpos) fun hearly => Nat.not_le.mpr hearly hdue
  case gate =>
    intro g l hg u r phase given
    exact ⟨fun hdisp hbehind hql hlow => qualityGate_lowers hg rfl rfl rfl (Region.lowers_of hdisp hbehind hql hlow),
      fun h => qualityGate_keeps hg rfl rfl rfl (Region.not_lowers_of h)⟩
  case marker =>
    intro f m hf hm
    exact ⟨markerReport_behind hf hm, fun h => ⟨markerReport_last hf hm h, markerReport_passed hf hm h⟩⟩
  case lap =>
    intro w hw set
    exact ⟨lapUpdate_taken hw, lapUpdate_takes hw, lapAck_takes hw⟩

end
end

section
/-!
PROOF of O12. Where a send goes (R151, R170, R191, R192, R199): MOV to one target is one send; one lemma for a hold register that takes a
value, and one for each way of a token on an arc.
-/

namespace Sys2Proof.Machine

open Claims

/-- A table changed by two functions that agree on what it holds at the key. -/
theorem upd_congr {α : Type} [DecidableEq α] {d : α} {k : Nat} {f g : α → α} {l : Assoc α} (h : f (look d l k) = g (look d l k)) :
    upd d k f l = upd d k g l := by
  rw [upd, upd, h]

/-- A cell changed by two functions that agree on it. -/
theorem State.updCell_congr (s : State) (k : Nat) {f g : Cell → Cell} (h : f (s.cell k) = g (s.cell k)) :
    s.updCell k f = s.updCell k g := by
  rw [updCell, updCell, upd_congr h]

/-- An output arc changed by two functions that agree on it. -/
theorem State.updOut_congr (s : State) (k w a : Nat) {f g : OutArc → OutArc}
    (h : f (look {} ((s.cell k).window w).outs a) = g (look {} ((s.cell k).window w).outs a)) : s.updOut k w a f = s.updOut k w a g := by
  refine s.updCell_congr k ?_
  rw [Cell.updWindow, Cell.updWindow]
  refine congrArg (fun t => { s.cell k with windows := t }) (upd_congr ?_)
  exact congrArg (fun t => { (s.cell k).window w with outs := t }) (upd_congr h)

/-- MOV to one target is one send under the accord's tag (R191, R304). -/
theorem mov_sends {s : State} {pd : Pd} {t0 : Target} (hp : s.sch.cur.passes pd = true)
    (hr : s.canSend s.sch.cur (toBoth t0 .discard s.sch.cur.valL) = true) :
    exec (.mov pd .discard t0) s = .next (s.send1 s.sch.cur s.sch.cur.acc.tag false t0 s.sch.cur.valL) := by
  have hfinish := State.finish_ready s s.sch.cur (both t0 .discard s.sch.cur.valL) 0 id hr
  rw [State.raise_none] at hfinish
  exact (State.fire_passed s pd (fun f s => s.finish f (both t0 .discard f.valL) 0 id) hp).trans hfinish

/-! ## Hold registers (R198, R199) -/

/-- A register of the slot that a frame takes is the frame's register, EMPTY in a slot taken anew. -/
theorem Cell.hold_takeSlot {c d : Cell} {region frm i : Nat} (h : c.takeSlot region frm = some (i, d)) (n : Nat) :
    d.hold i n = c.holdOf region frm n := by
  unfold Cell.takeSlot at h
  unfold Cell.holdOf
  split at h
  case h_1 => cases h; rfl
  case h_2 =>
    split at h
    · cases h
      by_cases hi : i < c.frames.length <;> simp [Cell.hold, hi, look]
    · split at h
      · cases h
        simp [Cell.hold, look]
      · cases h

/-- A value lands in a register that is not PENDING. -/
theorem Cell.writeHold_ready {c d : Cell} {region frm i : Nat} {h : BitVec 5} (v : Dword) (hs : c.takeSlot region frm = some (i, d))
    (hr : c.holdReady region frm h.toNat = true) : c.writeHold region frm h v = d.setHold i h.toNat { st := .full, val := v } := by
  obtain ⟨-, hst⟩ := (Bool.and_eq_true _ _).mp hr
  have hfree : ¬ (d.hold i h.toNat).st = .pending := by
    rw [Cell.hold_takeSlot hs]
    exact of_decide_eq_true hst
  simp only [Cell.writeHold, hs, if_neg hfree]

/-- Sends that are ready find the register ready. -/
theorem State.holdReady_of_canSend {s : State} {f : Firing} {h : BitVec 5} {v : Val}
    (hr : s.canSend f (toBoth (.hold h) .discard v) = true) : (s.cell f.cell).holdReady f.region f.frm h.toNat = true := by
  obtain ⟨hall, -⟩ := (Bool.and_eq_true _ _).mp hr
  obtain ⟨-, hholds⟩ := (Bool.and_eq_true _ _).mp hall
  exact List.all_eq_true.mp hholds h.toNat (List.mem_singleton.mpr rfl)

/-! ## Arcs (R151, R170, R192) -/

/-- The output arc of a firing's window. -/
def State.outArc (s : State) (f : Firing) (a : Nat) : OutArc := look {} ((s.cell f.cell).window f.acc.win).outs a

/-- The activation stream that leaves by an output arc of a firing. -/
def State.actOf (s : State) (f : Firing) (a : Nat) : Option ActStream :=
  s.actFrom f.region f.x f.y ((s.cell f.cell).window f.acc.win).rwin a

/-- The token that a firing puts on an output arc. -/
def State.arcTok (s : State) (f : Firing) (a : Nat) (tag : Tag) (v : Val) : Tok :=
  let o := s.outArc f a
  let goal := (s.region f.region).steer o.cx o.cy o.cwin tag v
  { id := s.sch.nextId, region := f.region, sx := f.x, sy := f.y, x := goal.1, y := goal.2, dest := .arc o.cwin o.carc, tag := tag,
    val := v, kind := .arc, note := s.noteOf f, pool := .arc, pwin := ((s.cell f.cell).window f.acc.win).rwin, parc := a }

/-- The state in which a firing has paid for a token of a length on an output arc. -/
def State.payArc (s : State) (f : Firing) (a len : Nat) : State :=
  s.updOut f.cell f.acc.win a fun o => { o with cred := o.cred - o.need len }

/-- The input arc that a token of a length must queue behind: one with tokens spilled, or an arc whose credit does not cover it. -/
def State.behind (s : State) (f : Firing) (a len : Nat) : Option (Nat × Nat × Nat) :=
  (s.consumer f.region (s.outArc f a)).filter fun q =>
    !(s.inArc q.1 q.2.1 q.2.2).spill.isEmpty || decide ((s.outArc f a).cred < (s.outArc f a).need len)

section
variable {s : State} {f : Firing} {a len : Nat}

/-- Nothing is queued behind an arc whose credit covers the token and whose spill queue is empty. -/
theorem State.behind_none (hc : (s.outArc f a).need len ≤ (s.outArc f a).cred)
    (hq : ∀ q, s.consumer f.region (s.outArc f a) = some q → (s.inArc q.1 q.2.1 q.2.2).spill = []) : s.behind f a len = none := by
  rw [State.behind, Option.filter_eq_none_iff]
  intro q hq'
  simp [hq q hq', hc]

/-- A token is queued behind a consumer with tokens spilled, or that its credit does not reach. -/
theorem State.behind_some {q : Nat × Nat × Nat} (hq : s.consumer f.region (s.outArc f a) = some q)
    (h : (s.inArc q.1 q.2.1 q.2.2).spill ≠ [] ∨ (s.outArc f a).cred < (s.outArc f a).need len) : s.behind f a len = some q := by
  rw [State.behind, hq, Option.filter_some, if_pos (by simpa using h)]

end

section
variable {s : State} {f : Firing} {n : BitVec 6} (tag : Tag) (v : Val)

/-- A token on an arc that an activation stream carries is paid for and handed to the stream's port core (R151). -/
theorem State.sendArc_act {q : ActStream} (ha : s.actOf f n.toNat = some q) :
    s.send1 f tag false (.arc n) v = (s.payArc f n.toNat v.len).feedAct q tag v := by
  unfold State.actOf Firing.cell at ha
  simp only [State.send1, State.emitArc, ha]
  exact congrArg (fun u : State => u.feedAct q tag v) (s.updOut_congr _ _ _ rfl)

variable (ha : s.actOf f n.toNat = none)
include ha

/-- A token with nothing to queue behind is paid for and goes onto the mesh (R192). -/
theorem State.sendArc_mesh (hb : s.behind f n.toNat v.len = none) :
    s.send1 f tag false (.arc n) v =
      { s.newId.2.payArc f n.toNat v.len with toks := s.toks ++ [s.arcTok f n.toNat tag v] } := by
  unfold State.actOf Firing.cell at ha
  simp only [State.send1, State.emitArc, ha]
  split
  case h_1 =>
    exact congrArg (fun u : State => { u with toks := s.toks ++ [s.arcTok f n.toNat tag v] }) (s.newId.2.updOut_congr _ _ _ rfl)
  case h_2 hsome => cases hb.symm.trans hsome

/-- A token with an arc to queue behind joins its spill queue, which the arc's credit then draws down (R170). -/
theorem State.sendArc_spills {k w a : Nat} (hb : s.behind f n.toNat v.len = some (k, w, a)) :
    s.send1 f tag false (.arc n) v =
      ((s.newId.2.updOut f.cell f.acc.win n.toNat fun q => { q with cred := (s.outArc f n.toNat).cred }).appendSpill k w a
        (s.arcTok f n.toNat tag v)).drawSpill f.region f.cell f.acc.win n.toNat := by
  unfold State.actOf Firing.cell at ha
  simp only [State.send1, State.emitArc, ha]
  split
  case h_1 hnone => cases hb.symm.trans hnone
  case h_2 hsome =>
    cases hb.symm.trans hsome
    rfl

end

end Sys2Proof.Machine

section
open Sys2Proof Sys2Proof.Machine Sys2Proof.Claims

/-- Settles O12: MOV with one target is one send; what it does with a register and with an arc are the rules above. -/
theorem sendsReachTheirTargets : Obligations.SendsReachTheirTargets := by
  unfold Obligations.SendsReachTheirTargets
  refine ⟨fun pd s hp hr => mov_sends hp hr, ?hold, ?arc⟩
  case hold =>
    intro pd h s c i hp hr hslot
    have hland := Cell.writeHold_ready (BitVec.ofNat 64 s.sch.cur.valL.bits) hslot (State.holdReady_of_canSend hr)
    rw [mov_sends hp hr]
    exact congrArg _ (s.updCell_congr _ hland)
  case arc =>
    intro pd n s hp hr f win o paid act
    rw [mov_sends hp hr]
    refine ⟨fun hact hcred hspill => ?mesh, fun k w a hact hcon hbehind => ?spill, fun q hact => ?act⟩
    case mesh =>
      rw [State.sendArc_mesh f.acc.tag f.valL hact (State.behind_none hcred hspill)]
      exact ⟨_, _, rfl, rfl, rfl, rfl, rfl, rfl, rfl, rfl, rfl, rfl⟩
    case spill =>
      rw [State.sendArc_spills f.acc.tag f.valL hact (State.behind_some hcon hbehind)]
      exact ⟨s.newId.2.updOut f.cell f.acc.win n.toNat fun q => { q with cred := o.cred }, s.arcTok f n.toNat f.acc.tag f.valL,
        rfl, rfl, rfl, rfl, rfl, rfl, rfl, rfl, rfl⟩
    case act => rw [State.sendArc_act f.acc.tag f.valL hact]; rfl

end
end

section
/-!
PROOF of O46. A state in which a firing that sends to two arcs, neither of which an activation stream carries, feeds an activation stream
(R151): its cell's table of windows lists one key twice.
-/

namespace Sys2Proof.Machine

open Claims

/-- A part in which MOV to arcs 0 and 1 fires in window 0 of cell 0, whose table of windows lists key 0 twice: first a window of which
nothing is set but one credit of arc 0, behind it one numbered 7, whose arc 1 an activation stream carries. The arcs end on die 1, in an
extended arc that takes the token for which arc 1 has no credit. -/
def twiceListed : State :=
  { State.reset with
    regions := [{ die := 1 }]
    acts := [{ rwin := 7, arc := 1 }]
    cells := [(cellKey 0 0 0, { windows := [(0, { outs := [(0, { cred := 1 })] }), (0, { rwin := 7 })] }),
              (cellKey 1 0 0, { windows := [(0, { ins := [(0, { extended := true })] })] })] }

/-- The state after it has sent to arc 0, which takes the credit and with it the first window out of the table, and then to arc 1. -/
def twiceListedSent : State :=
  twiceListed.sendAll twiceListed.sch.cur twiceListed.sch.cur.acc.tag false (both (.arc 0) (.arc 1) twiceListed.sch.cur.valL)

theorem exec_twiceListed : exec (.mov .always (.arc 1) (.arc 0)) twiceListed = .next twiceListedSent :=
  State.finish_ready twiceListed twiceListed.sch.cur (both (.arc 0) (.arc 1) twiceListed.sch.cur.valL) 0 id (by decide)

/-- No activation stream leaves by an arc of the window that fires. -/
theorem twiceListed_actFrom (n : BitVec 6) (h : Target.arc n ∈ [Target.arc 0, Target.arc 1]) :
    twiceListed.actFrom 0 0 0 ((twiceListed.cell 0).window 0).rwin n.toNat = none := by
  obtain rfl | rfl : n = 0 ∨ n = 1 := by simpa using h
  · decide
  · decide

/-- The token for arc 1 is queued at the activation stream of the other window. -/
theorem twiceListedSent_acts : twiceListedSent.acts ≠ twiceListed.acts := by decide

end Sys2Proof.Machine

section
open Sys2Proof Sys2Proof.Machine

/-- Refutes O46: its clause on activation streams, unlike that on the memories, does not ask for a canonical table of windows. Where the
table lists the window's key twice, the first of two sends can leave nothing in the first entry, which leaves the table, and the second
send then goes by the arcs of the second entry, which an activation stream may carry. -/
theorem not_resultFrame : ¬ Obligations.ResultFrame := by
  unfold Obligations.ResultFrame
  intro h
  obtain ⟨-, -, hacts, -⟩ := h (.mov .always (.arc 1) (.arc 0)) twiceListed twiceListedSent [.arc 0, .arc 1] (by decide) rfl
    (fun _ _ _ hslot => by simp at hslot) exec_twiceListed
  exact twiceListedSent_acts (hacts twiceListed_actFrom).1

end
end

section
/-!
PROOF of O34. The report of a trap (R158 step 1) and the layout of a fault record (R155): where each field of the 64 bytes begins, and
that its bytes read back as the field.
-/

namespace Sys2Proof.Machine

/-! ## Numbers in bytes (R2) -/

/-- Behind the bytes of a number there is nothing. -/
theorem drop_toBytes {n k : Nat} (v : Nat) (h : n ≤ k) : (toBytes n v).drop k = [] :=
  List.drop_of_length_le ((toBytes_length n v).trans_le h)

/-- A number that its bytes hold whole is read back. -/
theorem ofBytes_toBytes_of_lt {n v : Nat} (h : v < 2 ^ (8 * n)) : ofBytes (toBytes n v) = v := by
  rw [ofBytes_toBytes, Nat.mod_eq_of_lt h]

/-! ## The record (R155, R156) -/

/-- The class codes fit their two bytes. -/
theorem FaultClass.code_lt (c : FaultClass) : c.code < 2 ^ (8 * 2) := by cases c <;> decide

namespace FaultRec

variable (r : FaultRec)

theorem bytes_length : r.bytes.length = 64 := by simp [bytes]

theorem bytes_cls : r.bytes.take 2 = toBytes 2 r.cls.code := by simp [bytes]

theorem bytes_ctx : (r.bytes.drop 2).take 2 = toBytes 2 (r.ctx % 1024) := by simp [bytes]

theorem bytes_tag : (r.bytes.drop 4).take 4 = toBytes 4 r.tag.toNat := by
  simp [bytes, List.drop_append, drop_toBytes]

theorem bytes_loc : (r.bytes.drop 8).take 4 = toBytes 4 r.loc.toNat := by
  simp [bytes, List.drop_append, drop_toBytes]

theorem bytes_bodyA : (r.bytes.drop 12).take 20 = toBytes 20 r.bodyA := by
  simp [bytes, List.drop_append, drop_toBytes]

theorem bytes_cycle : (r.bytes.drop 32).take 8 = toBytes 8 r.cycle.toNat := by
  simp [bytes, List.drop_append, drop_toBytes]

theorem bytes_bodyB : r.bytes.drop 40 = toBytes 24 r.bodyB := by
  simp [bytes, List.drop_append, drop_toBytes]

end FaultRec

end Sys2Proof.Machine

section
open Sys2Proof Sys2Proof.Machine

/-- Settles O34: a report changes the reports of the firing's die alone, and each field of a record reads back from its own bytes. -/
theorem trapReportsAndRecords : Obligations.TrapReportsAndRecords := by
  unfold Obligations.TrapReportsAndRecords
  refine ⟨fun s f accord cls body => rfl, fun r hctx => ?_⟩
  rw [r.bytes_cls, r.bytes_ctx, r.bytes_tag, r.bytes_loc, r.bytes_bodyA, r.bytes_cycle, r.bytes_bodyB, Nat.mod_eq_of_lt hctx]
  exact ⟨r.bytes_length, ofBytes_toBytes_of_lt r.cls.code_lt, ofBytes_toBytes_of_lt (by omega), ofBytes_toBytes_of_lt r.tag.isLt,
    ofBytes_toBytes_of_lt r.loc.isLt, ofBytes_toBytes 20 _, ofBytes_toBytes_of_lt r.cycle.isLt, ofBytes_toBytes 24 _⟩

end
end

section
/-!
PROOF of O7. Nothing stops the machine (R154, R158, R281, R297): every form of firing answers a next state, so does every branch of every
step without a word, and a step stops only at a chosen slot whose word does not decode.
-/

namespace Sys2Proof.Machine

/-! ## Choices -/

/-- A choice between two answers that are next states. -/
theorem ite_next {c : Prop} [Decidable c] {a b : Result} (ha : ∃ t, a = .next t) (hb : ∃ t, b = .next t) :
    ∃ t, (if c then a else b) = .next t := by
  split
  · exact ha
  · exact hb

/-! ## The forms of firing (R190, R191) -/

section
variable (s : State) (pd : Pd)

theorem State.finish_next (f : Firing) (l : List (Target × Val)) (fl : BitVec 5) (eff : State → State) :
    ∃ t, s.finish f l fl eff = .next t :=
  ite_next ⟨_, rfl⟩ ⟨_, rfl⟩

theorem State.intForm_next (wide : Bool) (t1 t0 : Target) (o : Nat → Nat → Nat → Nat → Nat) :
    ∃ t, s.intForm pd wide t1 t0 o = .next t :=
  s.fire_next pd _ fun f s => s.finish_next f _ _ _

theorem State.immForm_next (imm : BitVec 14) (t0 : Target) (o : Nat → Nat → Nat) : ∃ t, s.immForm pd imm t0 o = .next t :=
  s.fire_next pd _ fun f s => s.finish_next f _ _ _

theorem State.floatForm_next (t1 t0 : Target) (o : Nat → Nat → Nat → Nat × Flags) : ∃ t, s.floatForm pd t1 t0 o = .next t :=
  s.fire_next pd _ fun f s => s.finish_next f _ _ _

theorem State.vectorForm_next (t1 t0 : Target) (o : Fmt → Word → Nat → Nat → Nat → Rounded) :
    ∃ t, s.vectorForm pd t1 t0 o = .next t :=
  s.fire_next pd _ fun f s => s.finish_next f _ _ _

theorem State.reduceForm_next (t1 t0 : Target) (o : Fmt → Word → List Nat → Rounded) : ∃ t, s.reduceForm pd t1 t0 o = .next t :=
  s.fire_next pd _ fun f s => s.finish_next f _ _ _

theorem State.fenceForm_next (kind : FenceKind) (scope : Scope) (t1 t0 : Target) : ∃ t, s.fenceForm pd kind scope t1 t0 = .next t :=
  s.fire_next pd _ fun f s => s.startLate_next f _ _ _ _

theorem State.queueForm_next (kind : QKind) (k lim : Nat) (t0 : Target) (rcd : Firing → Nat) :
    ∃ t, s.queueForm pd kind k lim t0 rcd = .next t :=
  s.fire_next pd _ fun f s => s.startLate_next f _ _ _ _

theorem State.treeForm_next (op group len : Nat) (t0 : Target) (val : Firing → Val) :
    ∃ t, s.treeForm pd op group len t0 val = .next t :=
  s.fire_next pd _ fun f s => ite_next ⟨_, rfl⟩ (s.startLate_next f _ _ _ _)

/-- A firing that uses the frame's slot of hold registers. -/
theorem State.withSlot_next (f : Firing) (m : Nat → State → Result) (h : ∀ i s, ∃ t, m i s = .next t) :
    ∃ t, s.withSlot f m = .next t := by
  unfold State.withSlot
  split
  · exact ⟨_, rfl⟩
  · exact h _ _

theorem State.accessForm_next (seq port : BitVec 5) (t0 : Target) (op : Firing → AccessOp) (pos : Firing → Nat) :
    ∃ t, s.accessForm pd seq port t0 op pos = .next t := by
  unfold State.accessForm
  dsimp only
  split
  · exact ⟨_, rfl⟩
  · exact ite_next (ite_next ⟨_, rfl⟩ ⟨_, rfl⟩) (ite_next ⟨_, rfl⟩ (s.startLate_next _ _ _ _ _))

theorem State.startEngine_next (f : Firing) (op : EngineOp) : ∃ t, s.startEngine f op = .next t :=
  s.startLate_next f _ _ _ _

theorem State.poolForm_next (td ta tb : BitVec 5) (ct : Completion) (kind : EngineKind) :
    ∃ t, s.poolForm pd td ta tb ct kind = .next t :=
  s.fire_next pd _ fun f s => ite_next ⟨_, rfl⟩ (ite_next ⟨_, rfl⟩ (ite_next ⟨_, rfl⟩ (s.startEngine_next f _)))

theorem State.sequenceForm_next (zero : Bool) (ta tb : BitVec 5) (ct : Completion) : ∃ t, s.sequenceForm zero pd ta tb ct = .next t :=
  s.fire_next pd _ fun f s =>
    ite_next ⟨_, rfl⟩ (ite_next ⟨_, rfl⟩ (ite_next ⟨_, rfl⟩ (ite_next ⟨_, rfl⟩ (s.startLate_next f _ _ _ _))))

theorem State.arrayForm_next (zr : Bool) (m : Firing → Nat → State → Result) (h : ∀ f v s, ∃ t, m f v s = .next t) :
    ∃ t, s.arrayForm zr pd m = .next t :=
  s.fire_next pd _ fun f s => ite_next ⟨_, rfl⟩ (ite_next ⟨_, rfl⟩ (h f _ s))

theorem State.readoutForm_next (t1 t0 : Target) (r : Firing → Nat) : ∃ t, s.readoutForm pd t1 t0 r = .next t :=
  s.arrayForm_next pd true _ fun f _ s => s.finish_next f _ _ _

theorem State.startRec_next (type : Nat) (m : Nat → Nat → CmdRec → State → State) : ∃ t, s.startRec type m = .next t := by
  fun_cases State.startRec s type m <;> exact ⟨_, rfl⟩

/-! ## Firings with checks of their own: every check ends in a next state, and where all pass the form answers one -/

theorem execFrame_next (level : BitVec 3) (t1 t0 : Target) : ∃ t, execFrame pd level t1 t0 s = .next t :=
  s.fire_next pd _ fun _ _ => ite_next ⟨_, rfl⟩ ⟨_, rfl⟩

theorem execFret_next (t1 t0 : Target) : ∃ t, execFret pd t1 t0 s = .next t := by
  refine s.fire_next pd _ fun f s => ?_
  dsimp only
  split
  · exact ⟨_, rfl⟩
  · refine ite_next ⟨_, rfl⟩ ?_
    split
    · exact ⟨_, rfl⟩
    · exact ite_next ⟨_, rfl⟩ ⟨_, rfl⟩

theorem execSend_next : ∃ t, execSend pd s = .next t := by
  refine s.fire_next pd _ fun f s => ite_next ⟨_, rfl⟩ ?_
  split
  · split
    · exact ⟨_, rfl⟩
    · exact ite_next ⟨_, rfl⟩ ⟨_, rfl⟩
  · refine ite_next ⟨_, rfl⟩ ?_
    dsimp only
    repeat' split
    all_goals exact ⟨_, rfl⟩

theorem execSendm_next : ∃ t, execSendm pd s = .next t := by
  refine s.fire_next pd _ fun f s => ?_
  dsimp only
  split
  · exact ⟨_, rfl⟩
  · refine ite_next ⟨_, rfl⟩ (ite_next ⟨_, rfl⟩ ?_)
    split
    · exact ⟨_, rfl⟩
    · exact ⟨_, rfl⟩

theorem execQlvl_next (t1 t0 : Target) : ∃ t, execQlvl pd t1 t0 s = .next t := by
  refine s.fire_next pd _ fun f s => ite_next ⟨_, rfl⟩ ?_
  split
  · exact ⟨_, rfl⟩
  · exact ⟨_, rfl⟩

theorem execRdh_next (trapE : Bool) (h : BitVec 5) (t0 : Target) : ∃ t, execRdh pd trapE h t0 s = .next t :=
  s.fire_next pd _ fun f s => s.withSlot_next f _ fun _ _ =>
    ite_next (ite_next ⟨_, rfl⟩ ⟨_, rfl⟩) (ite_next ⟨_, rfl⟩ ⟨_, rfl⟩)

theorem execTsth_next (h : BitVec 5) (t0 : Target) : ∃ t, execTsth pd h t0 s = .next t :=
  s.fire_next pd _ fun f s => s.withSlot_next f _ fun _ _ => ite_next ⟨_, rfl⟩ ⟨_, rfl⟩

theorem execWrh_next (h : BitVec 5) (t0 : Target) : ∃ t, execWrh pd h t0 s = .next t :=
  s.fire_next pd _ fun f s => ite_next (s.finish_next f _ _ _) ⟨_, rfl⟩

theorem execClrh_next (h : BitVec 5) (t0 : Target) : ∃ t, execClrh pd h t0 s = .next t :=
  s.fire_next pd _ fun f s => ite_next (s.finish_next f _ _ _) ⟨_, rfl⟩

theorem execEndRegion_next : ∃ t, execEndRegion pd s = .next t :=
  s.fire_next pd _ fun _ _ => ite_next ⟨_, rfl⟩ ⟨_, rfl⟩

theorem execLdh_next (seq : BitVec 5) (prevD nextD : BitVec 2) (port h : BitVec 5) :
    ∃ t, execLdh pd seq prevD nextD port h s = .next t := by
  unfold execLdh
  dsimp only
  split
  · exact ⟨_, rfl⟩
  · refine ite_next (ite_next ⟨_, rfl⟩ ⟨_, rfl⟩) (ite_next ⟨_, rfl⟩ ?_)
    split
    · exact ⟨_, rfl⟩
    · exact ⟨_, rfl⟩

theorem execMnop_next (seq : BitVec 5) (prevD nextD : BitVec 2) (port : BitVec 5) (t0 : Target) :
    ∃ t, execMnop pd seq prevD nextD port t0 s = .next t := by
  refine s.fire_next pd _ fun f s => ?_
  dsimp only
  split
  · exact ⟨_, rfl⟩
  · exact ite_next ⟨_, rfl⟩ (ite_next ⟨_, rfl⟩ (s.startLate_next f _ _ _ _))

theorem execAmot_next (td : BitVec 5) (op : AmotOp) (ct : Completion) : ∃ t, execAmot pd td op ct s = .next t :=
  s.fire_next pd _ fun f s => ite_next ⟨_, rfl⟩ (ite_next ⟨_, rfl⟩ (s.finish_next f _ _ _))

theorem execTlwait_next (chain : BitVec 6) (t0 : Target) : ∃ t, execTlwait pd chain t0 s = .next t :=
  s.fire_next pd _ fun f s => ite_next (s.startLate_next f _ _ _ _) ⟨_, rfl⟩

theorem execCollrec_next (chain : BitVec 6) (t0 : Target) : ∃ t, execCollrec pd chain t0 s = .next t := by
  refine s.fire_next pd _ fun f s => ite_next ⟨_, rfl⟩ ?_
  split
  · exact ⟨_, rfl⟩
  · exact ite_next ⟨_, rfl⟩ (s.startLate_next f _ _ _ _)

theorem execTrap_next (imm : BitVec 14) (t0 : Target) : ∃ t, execTrap pd imm t0 s = .next t :=
  s.fire_next pd _ fun f s => ite_next (s.finish_next f _ _ _) ⟨_, rfl⟩

theorem execTrapf_next (mask : BitVec 5) (t0 : Target) : ∃ t, execTrapf pd mask t0 s = .next t :=
  s.fire_next pd _ fun f s =>
    ite_next (s.finish_next f _ _ _) (ite_next ⟨_, rfl⟩ (ite_next ⟨_, rfl⟩ (s.finish_next f _ _ _)))

theorem execBkpt_next (code : BitVec 10) (set : BitVec 4) (t0 : Target) : ∃ t, execBkpt pd code set t0 s = .next t :=
  s.fire_next pd _ fun f s => ite_next ⟨_, rfl⟩ (s.finish_next f _ _ _)

theorem execWrcfg_next (index : BitVec 12) (t0 : Target) : ∃ t, execWrcfg pd index t0 s = .next t :=
  s.fire_next pd _ fun f s => ite_next ⟨_, rfl⟩ (s.finish_next f _ _ _)

theorem execVcvt_next (t1 t0 : Target) : ∃ t, execVcvt pd t1 t0 s = .next t :=
  s.fire_next pd _ fun f s => ite_next (s.finish_next f _ _ _) (s.finish_next f _ _ _)

theorem execVtrans_next (td ta : BitVec 5) (ct : Completion) : ∃ t, execVtrans pd td ta ct s = .next t :=
  s.fire_next pd _ fun f s => ite_next ⟨_, rfl⟩ (ite_next ⟨_, rfl⟩ (s.startEngine_next f _))

theorem execTdef_next (tile : BitVec 5) (t0 : Target) : ∃ t, execTdef pd tile t0 s = .next t :=
  s.fire_next pd _ fun f s => ite_next ⟨_, rfl⟩ (ite_next ⟨_, rfl⟩ (ite_next ⟨_, rfl⟩ (s.finish_next f _ _ _)))

theorem execTset_next (state : TileState) (tile : BitVec 5) (t0 : Target) : ∃ t, execTset pd state tile t0 s = .next t := by
  refine s.fire_next pd _ fun f s => ite_next ⟨_, rfl⟩ (ite_next ⟨_, rfl⟩ (ite_next ⟨_, rfl⟩ ?_))
  split
  · exact ⟨_, rfl⟩
  · exact s.finish_next f _ _ _

theorem execBmode_next (bank : BitVec 2) (mode : BankMode) (intlv : Bool) (t0 : Target) :
    ∃ t, execBmode pd bank mode intlv t0 s = .next t :=
  s.fire_next pd _ fun f s => ite_next ⟨_, rfl⟩ (ite_next ⟨_, rfl⟩ (ite_next ⟨_, rfl⟩ (s.finish_next f _ _ _)))

theorem execPermit_next (tile : BitVec 5) (t0 : Target) : ∃ t, execPermit pd tile t0 s = .next t := by
  refine s.fire_next pd _ fun f s => ite_next ⟨_, rfl⟩ (ite_next ⟨_, rfl⟩ ?_)
  dsimp only
  split
  · exact s.finish_next f _ _ _
  · exact s.startLate_next f _ _ _ _

theorem execBload_next (td ta : BitVec 5) (ct : Completion) : ∃ t, execBload pd td ta ct s = .next t :=
  s.fire_next pd _ fun f s =>
    ite_next ⟨_, rfl⟩ (ite_next ⟨_, rfl⟩ (ite_next ⟨_, rfl⟩ (ite_next ⟨_, rfl⟩ (s.startEngine_next f _))))

theorem execBinv_next (tile : BitVec 5) (t0 : Target) : ∃ t, execBinv pd tile t0 s = .next t :=
  s.fire_next pd _ fun f s => ite_next ⟨_, rfl⟩ (ite_next ⟨_, rfl⟩ (ite_next ⟨_, rfl⟩ (s.startEngine_next f _)))

theorem execMzero_next (t1 t0 : Target) : ∃ t, execMzero pd t1 t0 s = .next t :=
  s.arrayForm_next pd false _ fun f _ s => s.finish_next f _ _ _

theorem execMstat_next (t1 t0 : Target) : ∃ t, execMstat pd t1 t0 s = .next t :=
  s.arrayForm_next pd false _ fun f _ s => s.finish_next f _ _ _

theorem execRsetup_next (t1 t0 : Target) : ∃ t, execRsetup pd t1 t0 s = .next t :=
  s.fire_next pd _ fun f s => ite_next ⟨_, rfl⟩ (s.finish_next f _ _ _)

theorem execMigr_next : ∃ t, execMigr pd s = .next t := by
  refine s.fire_next pd _ fun f s => ite_next ⟨_, rfl⟩ (ite_next ⟨_, rfl⟩ ?_)
  dsimp only
  split
  · exact ⟨_, rfl⟩
  · refine ite_next ⟨_, rfl⟩ (ite_next (ite_next ⟨_, rfl⟩ ?_) ?_)
    · split
      · exact ⟨_, rfl⟩
      · exact ⟨_, rfl⟩
    · split
      · exact ⟨_, rfl⟩
      · exact ite_next ⟨_, rfl⟩ ⟨_, rfl⟩

theorem execSeqget_next (t1 t0 : Target) : ∃ t, execSeqget pd t1 t0 s = .next t := by
  refine s.fire_next pd _ fun f s => ?_
  dsimp only
  split
  · exact ⟨_, rfl⟩
  · exact ite_next ⟨_, rfl⟩ (s.finish_next f _ _ _)

theorem execSeqwait_next (t1 t0 : Target) : ∃ t, execSeqwait pd t1 t0 s = .next t := by
  refine s.fire_next pd _ fun f s => ?_
  dsimp only
  split
  · exact ⟨_, rfl⟩
  · exact ite_next ⟨_, rfl⟩ (s.finish_next f _ _ _)

theorem execBlend_next (t1 t0 : Target) : ∃ t, execBlend pd t1 t0 s = .next t := by
  refine s.fire_next pd _ fun f s => ?_
  dsimp only
  split
  · exact ⟨_, rfl⟩
  · exact ite_next ⟨_, rfl⟩ (ite_next ⟨_, rfl⟩ (s.finish_next f _ _ _))

end

/-! ## The steps without a word: every branch of a meaning is a next state -/

section
variable (s : State)

theorem execTokenArrival_next : ∃ t, execTokenArrival s = .next t := by
  fun_cases execTokenArrival s <;> exact ⟨_, rfl⟩
theorem execTokenMatch_next : ∃ t, execTokenMatch s = .next t := by
  fun_cases execTokenMatch s <;> exact ⟨_, rfl⟩
theorem execCreditNotice_next : ∃ t, execCreditNotice s = .next t := by
  fun_cases execCreditNotice s <;> exact ⟨_, rfl⟩
theorem execQualityGate_next : ∃ t, execQualityGate s = .next t := by
  fun_cases execQualityGate s <;> exact ⟨_, rfl⟩
theorem execProgressReport_next : ∃ t, execProgressReport s = .next t := by
  fun_cases execProgressReport s <;> exact ⟨_, rfl⟩
theorem execMarkerReport_next : ∃ t, execMarkerReport s = .next t := by
  fun_cases execMarkerReport s <;> exact ⟨_, rfl⟩
theorem execLapUpdate_next : ∃ t, execLapUpdate s = .next t := by
  fun_cases execLapUpdate s <;> exact ⟨_, rfl⟩
theorem execLapAck_next : ∃ t, execLapAck s = .next t := by
  fun_cases execLapAck s <;> exact ⟨_, rfl⟩
theorem execTileRowLand_next : ∃ t, execTileRowLand s = .next t := by
  fun_cases execTileRowLand s <;> exact ⟨_, rfl⟩
theorem execTileDrainComplete_next : ∃ t, execTileDrainComplete s = .next t := by
  fun_cases execTileDrainComplete s <;> exact ⟨_, rfl⟩
theorem execRoundStart_next : ∃ t, execRoundStart s = .next t := by
  fun_cases execRoundStart s <;> exact ⟨_, rfl⟩
theorem execParamOverwrite_next : ∃ t, execParamOverwrite s = .next t := by
  fun_cases execParamOverwrite s <;> exact ⟨_, rfl⟩
theorem execReadAhead_next : ∃ t, execReadAhead s = .next t := by
  fun_cases execReadAhead s <;> exact ⟨_, rfl⟩
theorem execTileFillStart_next : ∃ t, execTileFillStart s = .next t := by
  fun_cases execTileFillStart s <;> exact ⟨_, rfl⟩
theorem execSpaceToken_next : ∃ t, execSpaceToken s = .next t := by
  fun_cases execSpaceToken s <;> exact ⟨_, rfl⟩
theorem execMemoryAccessArrival_next : ∃ t, execMemoryAccessArrival s = .next t := by
  fun_cases execMemoryAccessArrival s <;> exact ⟨_, rfl⟩
theorem execHeldAccessPerform_next : ∃ t, execHeldAccessPerform s = .next t := by
  fun_cases execHeldAccessPerform s <;> exact ⟨_, rfl⟩
theorem execRetryReissue_next : ∃ t, execRetryReissue s = .next t := by
  fun_cases execRetryReissue s <;> exact ⟨_, rfl⟩
theorem execMemoryResponse_next : ∃ t, execMemoryResponse s = .next t := by
  fun_cases execMemoryResponse s <;> exact ⟨_, rfl⟩
theorem execHomeSliceRequest_next : ∃ t, execHomeSliceRequest s = .next t := by
  fun_cases execHomeSliceRequest s <;> exact ⟨_, rfl⟩
theorem execInvalidationAck_next : ∃ t, execInvalidationAck s = .next t := by
  fun_cases execInvalidationAck s <;> exact ⟨_, rfl⟩
theorem execAtomicopCompletion_next : ∃ t, execAtomicopCompletion s = .next t := by
  fun_cases execAtomicopCompletion s <;> exact ⟨_, rfl⟩
theorem execHostReadCompletion_next : ∃ t, execHostReadCompletion s = .next t := by
  fun_cases execHostReadCompletion s <;> exact ⟨_, rfl⟩
theorem execFenceComplete_next : ∃ t, execFenceComplete s = .next t := by
  fun_cases execFenceComplete s <;> exact ⟨_, rfl⟩
theorem execTileEngineDone_next : ∃ t, execTileEngineDone s = .next t := by
  fun_cases execTileEngineDone s <;> exact ⟨_, rfl⟩
theorem execMatrixRowStep_next : ∃ t, execMatrixRowStep s = .next t := by
  fun_cases execMatrixRowStep s <;> exact ⟨_, rfl⟩
theorem execSwitchPacketArrival_next : ∃ t, execSwitchPacketArrival s = .next t := by
  fun_cases execSwitchPacketArrival s <;> exact ⟨_, rfl⟩
theorem execHeaderStoreEntry_next : ∃ t, execHeaderStoreEntry s = .next t := by
  fun_cases execHeaderStoreEntry s <;> exact ⟨_, rfl⟩
theorem execFlitDepart_next : ∃ t, execFlitDepart s = .next t := by
  fun_cases execFlitDepart s <;> exact ⟨_, rfl⟩
theorem execFlitReplay_next : ∃ t, execFlitReplay s = .next t := by
  fun_cases execFlitReplay s <;> exact ⟨_, rfl⟩
theorem execLinkTrained_next : ∃ t, execLinkTrained s = .next t := by
  fun_cases execLinkTrained s <;> exact ⟨_, rfl⟩
theorem execOpenRetry_next : ∃ t, execOpenRetry s = .next t := by
  fun_cases execOpenRetry s <;> exact ⟨_, rfl⟩
theorem execPacketSend_next : ∃ t, execPacketSend s = .next t := by
  fun_cases execPacketSend s <;> exact ⟨_, rfl⟩
theorem execRetransmit_next : ∃ t, execRetransmit s = .next t := by
  fun_cases execRetransmit s <;> exact ⟨_, rfl⟩
theorem execRetransmissionTimeout_next : ∃ t, execRetransmissionTimeout s = .next t := by
  fun_cases execRetransmissionTimeout s <;> exact ⟨_, rfl⟩
theorem execRreqSend_next : ∃ t, execRreqSend s = .next t := by
  fun_cases execRreqSend s <;> exact ⟨_, rfl⟩
theorem execPacketDeliver_next : ∃ t, execPacketDeliver s = .next t := by
  fun_cases execPacketDeliver s <;> exact ⟨_, rfl⟩
theorem execAckTimer_next : ∃ t, execAckTimer s = .next t := by
  fun_cases execAckTimer s <;> exact ⟨_, rfl⟩
theorem execStreamResume_next : ∃ t, execStreamResume s = .next t := by
  fun_cases execStreamResume s <;> exact ⟨_, rfl⟩
theorem execStreamAbort_next : ∃ t, execStreamAbort s = .next t := by
  fun_cases execStreamAbort s <;> exact ⟨_, rfl⟩
theorem execLinkDown_next : ∃ t, execLinkDown s = .next t := by
  fun_cases execLinkDown s <;> exact ⟨_, rfl⟩

theorem execStreamOpen_next : ∃ t, execStreamOpen s = .next t := by
  unfold execStreamOpen
  dsimp only
  split
  · exact ⟨_, rfl⟩
  · exact ⟨_, rfl⟩

theorem execTreeOpStart_next : ∃ t, execTreeOpStart s = .next t := by
  fun_cases execTreeOpStart s <;> exact ⟨_, rfl⟩
theorem execTreeResult_next : ∃ t, execTreeResult s = .next t := by
  fun_cases execTreeResult s <;> exact ⟨_, rfl⟩
theorem execCollPartialReceive_next : ∃ t, execCollPartialReceive s = .next t := by
  fun_cases execCollPartialReceive s <;> exact ⟨_, rfl⟩
theorem execQueueRequest_next : ∃ t, execQueueRequest s = .next t := by
  fun_cases execQueueRequest s <;> exact ⟨_, rfl⟩
theorem execQwaitExpiry_next : ∃ t, execQwaitExpiry s = .next t := by
  fun_cases execQwaitExpiry s <;> exact ⟨_, rfl⟩
theorem execEnginePushExpiry_next : ∃ t, execEnginePushExpiry s = .next t := by
  fun_cases execEnginePushExpiry s <;> exact ⟨_, rfl⟩
theorem execRecordFetch_next : ∃ t, execRecordFetch s = .next t := by
  fun_cases execRecordFetch s <;> exact ⟨_, rfl⟩
theorem execRecordComplete_next : ∃ t, execRecordComplete s = .next t := by
  fun_cases execRecordComplete s <;> exact ⟨_, rfl⟩
theorem execTokenInject_next : ∃ t, execTokenInject s = .next t := by
  fun_cases execTokenInject s <;> exact ⟨_, rfl⟩
theorem execRegionLoad_next : ∃ t, execRegionLoad s = .next t := by
  fun_cases execRegionLoad s <;> exact ⟨_, rfl⟩
theorem execHangSet_next : ∃ t, execHangSet s = .next t := by
  fun_cases execHangSet s <;> exact ⟨_, rfl⟩
theorem execBucketStateCopy_next : ∃ t, execBucketStateCopy s = .next t := by
  fun_cases execBucketStateCopy s <;> exact ⟨_, rfl⟩
theorem execBucketRelease_next : ∃ t, execBucketRelease s = .next t := by
  fun_cases execBucketRelease s <;> exact ⟨_, rfl⟩
theorem execReplicaFree_next : ∃ t, execReplicaFree s = .next t := by
  fun_cases execReplicaFree s <;> exact ⟨_, rfl⟩
theorem execLoadComplete_next : ∃ t, execLoadComplete s = .next t := by
  fun_cases execLoadComplete s <;> exact ⟨_, rfl⟩
theorem execFrameTrap_next : ∃ t, execFrameTrap s = .next t := by
  fun_cases execFrameTrap s <;> exact ⟨_, rfl⟩
theorem execTrapResume_next : ∃ t, execTrapResume s = .next t := by
  fun_cases execTrapResume s <;> exact ⟨_, rfl⟩
theorem execParkReinject_next : ∃ t, execParkReinject s = .next t := by
  fun_cases execParkReinject s <;> exact ⟨_, rfl⟩
theorem execTrapKill_next : ∃ t, execTrapKill s = .next t := by
  fun_cases execTrapKill s <;> exact ⟨_, rfl⟩
theorem execKillTagsFree_next : ∃ t, execKillTagsFree s = .next t := by
  fun_cases execKillTagsFree s <;> exact ⟨_, rfl⟩
theorem execRegionSilent_next : ∃ t, execRegionSilent s = .next t := by
  fun_cases execRegionSilent s <;> exact ⟨_, rfl⟩
theorem execEndComplete_next : ∃ t, execEndComplete s = .next t := by
  fun_cases execEndComplete s <;> exact ⟨_, rfl⟩
theorem execDrydown_next : ∃ t, execDrydown s = .next t := by
  fun_cases execDrydown s <;> exact ⟨_, rfl⟩
theorem execMarkerArrival_next : ∃ t, execMarkerArrival s = .next t := by
  fun_cases execMarkerArrival s <;> exact ⟨_, rfl⟩
theorem execCutComplete_next : ∃ t, execCutComplete s = .next t := by
  fun_cases execCutComplete s <;> exact ⟨_, rfl⟩
theorem execFreeze_next : ∃ t, execFreeze s = .next t := by
  fun_cases execFreeze s <;> exact ⟨_, rfl⟩
theorem execFreezeComplete_next : ∃ t, execFreezeComplete s = .next t := by
  fun_cases execFreezeComplete s <;> exact ⟨_, rfl⟩
theorem execSave_next : ∃ t, execSave s = .next t := by
  fun_cases execSave s <;> exact ⟨_, rfl⟩
theorem execRegionRelease_next : ∃ t, execRegionRelease s = .next t := by
  fun_cases execRegionRelease s <;> exact ⟨_, rfl⟩
theorem execConfigUe_next : ∃ t, execConfigUe s = .next t := by
  fun_cases execConfigUe s <;> exact ⟨_, rfl⟩
theorem execRestore_next : ∃ t, execRestore s = .next t := by
  fun_cases execRestore s <;> exact ⟨_, rfl⟩
theorem execRestorePlacement_next : ∃ t, execRestorePlacement s = .next t := by
  fun_cases execRestorePlacement s <;> exact ⟨_, rfl⟩
theorem execApertureRead_next : ∃ t, execApertureRead s = .next t := by
  fun_cases execApertureRead s <;> exact ⟨_, rfl⟩
theorem execInvalidationComplete_next : ∃ t, execInvalidationComplete s = .next t := by
  fun_cases execInvalidationComplete s <;> exact ⟨_, rfl⟩
theorem execPageWalk_next : ∃ t, execPageWalk s = .next t := by
  fun_cases execPageWalk s <;> exact ⟨_, rfl⟩
theorem execAtsTranslationCompletion_next : ∃ t, execAtsTranslationCompletion s = .next t := by
  fun_cases execAtsTranslationCompletion s <;> exact ⟨_, rfl⟩
theorem execPriResponse_next : ∃ t, execPriResponse s = .next t := by
  fun_cases execPriResponse s <;> exact ⟨_, rfl⟩
theorem execAtsInvalidationComplete_next : ∃ t, execAtsInvalidationComplete s = .next t := by
  fun_cases execAtsInvalidationComplete s <;> exact ⟨_, rfl⟩
theorem execAttestDone_next : ∃ t, execAttestDone s = .next t := by
  fun_cases execAttestDone s <;> exact ⟨_, rfl⟩
theorem execDieReset_next : ∃ t, execDieReset s = .next t := by
  fun_cases execDieReset s <;> exact ⟨_, rfl⟩
theorem execBringupPhase_next : ∃ t, execBringupPhase s = .next t := by
  fun_cases execBringupPhase s <;> exact ⟨_, rfl⟩
theorem execThermalBandEntered_next : ∃ t, execThermalBandEntered s = .next t := by
  fun_cases execThermalBandEntered s <;> exact ⟨_, rfl⟩
theorem execThermalTrip_next : ∃ t, execThermalTrip s = .next t := by
  fun_cases execThermalTrip s <;> exact ⟨_, rfl⟩
theorem execDieResetRelease_next : ∃ t, execDieResetRelease s = .next t := by
  fun_cases execDieResetRelease s <;> exact ⟨_, rfl⟩
theorem execReadClear_next : ∃ t, execReadClear s = .next t := by
  fun_cases execReadClear s <;> exact ⟨_, rfl⟩
theorem execReleaseInstant_next : ∃ t, execReleaseInstant s = .next t := by
  fun_cases execReleaseInstant s <;> exact ⟨_, rfl⟩
theorem execPhaseToken_next : ∃ t, execPhaseToken s = .next t := by
  fun_cases execPhaseToken s <;> exact ⟨_, rfl⟩
theorem execDeadlineTokenReceive_next : ∃ t, execDeadlineTokenReceive s = .next t := by
  fun_cases execDeadlineTokenReceive s <;> exact ⟨_, rfl⟩
theorem execPhaseTokenReceive_next : ∃ t, execPhaseTokenReceive s = .next t := by
  fun_cases execPhaseTokenReceive s <;> exact ⟨_, rfl⟩
theorem execFrameCompletionReport_next : ∃ t, execFrameCompletionReport s = .next t := by
  fun_cases execFrameCompletionReport s <;> exact ⟨_, rfl⟩
theorem execHoldoverEnter_next : ∃ t, execHoldoverEnter s = .next t := by
  fun_cases execHoldoverEnter s <;> exact ⟨_, rfl⟩

end

/-! ## All instructions and steps -/

/-- R154, R158: every instruction and every step without a word answers a next state, a fault of the spec included. -/
theorem exec_next (i : Instr) (s : State) : ∃ t, exec i s = .next t := by
  cases i with
  | nop | mov | lit | lit32 | steer | gate | gaten | merge | sync | retire | cnt | bound | tagrd | cmp | sx32 | zx32 | cvtifL | cvt8 |
    cvf8 | sysqHandle | sysqDie | sysqReplica | sysqCtx | rdcfg | yield | cyc | vscale | vcmp | vbcast | vquant | vsel | tstate | rstep |
    rbary | rayxf | raybox | raytri =>
    simp only [exec]
    exact s.fire_next _ _ fun f s => s.finish_next f _ _ _
  | iter | nextIter | tailadv | tlread =>
    simp only [exec]
    exact s.fire_next _ _ fun f s => s.startLate_next f _ _ _ _
  | nopRecord | jumpRecord | copyRecord | fillRecord | launchRecord | collRecord =>
    simp only [exec]
    exact s.startRec_next _ _
  | add | sub | mul | mulh | mulhu | div | divu | rem | remu | and | or | xor | andn | shl | shr | sra | rol | ror | min | max | minu |
    maxu | bfxu | bfxs | bfi | popc | clz | ctz | sel | neg | abs | sx8 | sx16 | zx8 | zx16 =>
    simp only [exec]
    exact s.intForm_next _ _ _ _ _
  | addi | andi | ori | xori =>
    simp only [exec]
    exact s.immForm_next _ _ _ _
  | fadd | fsub | fmul | ffma | fdiv | fsqrt | fmin | fmax | fminm | fmaxm | fabs | fneg | fcmp | frcp | frsq | fexp2 | flog2 | fsin |
    fcos | frnd | cvtS | cvtH | cvtB | cvtfi | cvtif | fclass =>
    simp only [exec]
    exact s.floatForm_next _ _ _ _
  | ld | st | ldt | stt | pft | scas64 | scas128 | sadd | sswap | amoadd | amomin | amomax =>
    simp only [exec]
    exact s.accessForm_next _ _ _ _ _ _
  | fenceAcq | fenceRel | fenceFull =>
    simp only [exec]
    exact s.fenceForm_next _ _ _ _ _
  | qpush | qpop | qpeek =>
    simp only [exec]
    exact s.queueForm_next _ _ _ _ _ _
  | barr | tree =>
    simp only [exec]
    exact s.treeForm_next _ _ _ _ _ _
  | vadd | vsub | vmul | vmin | vmax | vabs | vneg | vrcp | vrsq | vexp2 | vlog2 | vfma | vclamp =>
    simp only [exec]
    exact s.vectorForm_next _ _ _ _
  | vredSum | vredMin | vredMax =>
    simp only [exec]
    exact s.reduceForm_next _ _ _ _
  | vpoolmax | vpoolavg =>
    simp only [exec]
    exact s.poolForm_next _ _ _ _ _ _
  | mma | mmaz =>
    simp only [exec]
    exact s.sequenceForm_next _ _ _ _ _
  | mrd | mrda =>
    simp only [exec]
    exact s.readoutForm_next _ _ _ _
  | coldReset | moduleReset | governorInterval | stepTransitionEnd | hubPwrCapWrite | emergencyHoldSet | emergencyHoldRelease |
    openReceive | refuseReceive | grantReceive | rreqReceive | ackReceive | trimmedHeaderReceive | dataPacketReceive | closeReceive |
    closedReceive | streamSelect | registerWrite | ptpMessage | relEnable | apertureWrite | tailWrite | hubInvPage | hubInvContext |
    hubInvAll | atsInvalidationRequest | hostSnoop | keyGenerate | keyDestroy | keyCommandDone | attestReport | attestCertificate |
    chainRetry | chainSkip | chainReset | queueSelect | queueReset | regionSelect | placementSample | shareReweight |
    configSingleBitError =>
    simp only [exec]
    exact ⟨_, rfl⟩
  | dieReset => exact execDieReset_next s
  | bringupPhase => exact execBringupPhase_next s
  | thermalBandEntered => exact execThermalBandEntered_next s
  | thermalTrip => exact execThermalTrip_next s
  | switchPacketArrival => exact execSwitchPacketArrival_next s
  | headerStoreEntry => exact execHeaderStoreEntry_next s
  | flitDepart => exact execFlitDepart_next s
  | flitReplay => exact execFlitReplay_next s
  | streamOpen => exact execStreamOpen_next s
  | openRetry => exact execOpenRetry_next s
  | packetSend => exact execPacketSend_next s
  | retransmit => exact execRetransmit_next s
  | retransmissionTimeout => exact execRetransmissionTimeout_next s
  | rreqSend => exact execRreqSend_next s
  | packetDeliver => exact execPacketDeliver_next s
  | ackTimer => exact execAckTimer_next s
  | streamResume => exact execStreamResume_next s
  | streamAbort => exact execStreamAbort_next s
  | linkDown => exact execLinkDown_next s
  | linkTrained => exact execLinkTrained_next s
  | readClear => exact execReadClear_next s
  | treeOpStart => exact execTreeOpStart_next s
  | treeResult => exact execTreeResult_next s
  | collPartialReceive => exact execCollPartialReceive_next s
  | releaseInstant => exact execReleaseInstant_next s
  | phaseToken => exact execPhaseToken_next s
  | deadlineTokenReceive => exact execDeadlineTokenReceive_next s
  | phaseTokenReceive => exact execPhaseTokenReceive_next s
  | frameCompletionReport => exact execFrameCompletionReport_next s
  | holdoverEnter => exact execHoldoverEnter_next s
  | apertureRead => exact execApertureRead_next s
  | invalidationComplete => exact execInvalidationComplete_next s
  | pageWalk => exact execPageWalk_next s
  | atsTranslationCompletion => exact execAtsTranslationCompletion_next s
  | priResponse => exact execPriResponse_next s
  | atsInvalidationComplete => exact execAtsInvalidationComplete_next s
  | attestDone => exact execAttestDone_next s
  | recordFetch => exact execRecordFetch_next s
  | recordComplete => exact execRecordComplete_next s
  | tokenInject => exact execTokenInject_next s
  | queueRequest => exact execQueueRequest_next s
  | qwaitExpiry => exact execQwaitExpiry_next s
  | enginePushExpiry => exact execEnginePushExpiry_next s
  | regionLoad => exact execRegionLoad_next s
  | hangSet => exact execHangSet_next s
  | bucketStateCopy => exact execBucketStateCopy_next s
  | bucketRelease => exact execBucketRelease_next s
  | replicaFree => exact execReplicaFree_next s
  | tokenArrival => exact execTokenArrival_next s
  | tokenMatch => exact execTokenMatch_next s
  | creditNotice => exact execCreditNotice_next s
  | qualityGate => exact execQualityGate_next s
  | progressReport => exact execProgressReport_next s
  | markerReport => exact execMarkerReport_next s
  | lapUpdate => exact execLapUpdate_next s
  | lapAck => exact execLapAck_next s
  | frameTrap => exact execFrameTrap_next s
  | trapResume => exact execTrapResume_next s
  | parkReinject => exact execParkReinject_next s
  | trapKill => exact execTrapKill_next s
  | killTagsFree => exact execKillTagsFree_next s
  | regionSilent => exact execRegionSilent_next s
  | drydown => exact execDrydown_next s
  | markerArrival => exact execMarkerArrival_next s
  | cutComplete => exact execCutComplete_next s
  | freeze => exact execFreeze_next s
  | freezeComplete => exact execFreezeComplete_next s
  | save => exact execSave_next s
  | regionRelease => exact execRegionRelease_next s
  | restore => exact execRestore_next s
  | restorePlacement => exact execRestorePlacement_next s
  | configUe => exact execConfigUe_next s
  | tileRowLand => exact execTileRowLand_next s
  | tileDrainComplete => exact execTileDrainComplete_next s
  | roundStart => exact execRoundStart_next s
  | paramOverwrite => exact execParamOverwrite_next s
  | readAhead => exact execReadAhead_next s
  | tileFillStart => exact execTileFillStart_next s
  | spaceToken => exact execSpaceToken_next s
  | memoryAccessArrival => exact execMemoryAccessArrival_next s
  | heldAccessPerform => exact execHeldAccessPerform_next s
  | retryReissue => exact execRetryReissue_next s
  | memoryResponse => exact execMemoryResponse_next s
  | homeSliceRequest => exact execHomeSliceRequest_next s
  | invalidationAck => exact execInvalidationAck_next s
  | atomicopCompletion => exact execAtomicopCompletion_next s
  | hostReadCompletion => exact execHostReadCompletion_next s
  | fenceComplete => exact execFenceComplete_next s
  | endComplete => exact execEndComplete_next s
  | tileEngineDone => exact execTileEngineDone_next s
  | matrixRowStep => exact execMatrixRowStep_next s
  | frame => exact execFrame_next s _ _ _ _
  | fret => exact execFret_next s _ _ _
  | send => exact execSend_next s _
  | sendm => exact execSendm_next s _
  | qlvl => exact execQlvl_next s _ _ _
  | rdh => exact execRdh_next s _ _ _ _
  | wrh => exact execWrh_next s _ _ _
  | clrh => exact execClrh_next s _ _ _
  | tsth => exact execTsth_next s _ _ _
  | endRegion => exact execEndRegion_next s _
  | ldh pd seq prevD nextD port h => exact execLdh_next s pd seq prevD nextD port h
  | mnop pd seq prevD nextD port t0 => exact execMnop_next s pd seq prevD nextD port t0
  | amot => exact execAmot_next s _ _ _ _
  | tlwait => exact execTlwait_next s _ _ _
  | collrec => exact execCollrec_next s _ _ _
  | trap => exact execTrap_next s _ _ _
  | trapf => exact execTrapf_next s _ _ _
  | wrcfg => exact execWrcfg_next s _ _ _
  | bkpt => exact execBkpt_next s _ _ _ _
  | vcvt => exact execVcvt_next s _ _ _
  | vtrans => exact execVtrans_next s _ _ _ _
  | tdef => exact execTdef_next s _ _ _
  | tset => exact execTset_next s _ _ _ _
  | bmode => exact execBmode_next s _ _ _ _ _
  | permit => exact execPermit_next s _ _ _
  | binv => exact execBinv_next s _ _ _
  | bload => exact execBload_next s _ _ _ _
  | mzero => exact execMzero_next s _ _ _
  | mstat => exact execMstat_next s _ _ _
  | rsetup => exact execRsetup_next s _ _ _
  | migr => exact execMigr_next s _
  | seqget => exact execSeqget_next s _ _ _
  | seqwait => exact execSeqwait_next s _ _ _
  | blend => exact execBlend_next s _ _ _
  | loadComplete => exact execLoadComplete_next s
  | dieResetRelease => exact execDieResetRelease_next s

/-- The model's own order answers a next state. -/
theorem State.goOn_next (s : State) : ∃ t, s.goOn = .next t := by
  unfold State.goOn
  split
  · exact exec_next _ _
  · split
    · exact ⟨_, rfl⟩
    · exact exec_next _ _
    · exact ⟨_, rfl⟩

/-- A step answers a next state, or stops at the chosen slot whose word it cannot decode (R281). -/
theorem step_cases (s : State) : (∃ t, step s = .next t) ∨
    ∃ f c, s.sch.chosen = some f ∧ decode (s.fetch f) = .error c ∧ step s = .fault (.undecodable c.code) := by
  cases hf : s.sch.chosen with
  | some f =>
    cases hd : decode (s.fetch f) with
    | ok i =>
      refine .inl ?_
      simpa only [step, hf, State.fireChosen, hd] using exec_next i (s.begin f)
    | error c => exact .inr ⟨f, c, rfl, hd, by simp only [step, hf, State.fireChosen, hd]⟩
  | none =>
    refine .inl ?_
    cases ha : s.sch.agenda with
    | cons q t => simpa only [step, hf, ha] using exec_next q.1 (s.take q.2 t)
    | nil =>
      rw [step_goOn hf ha]
      exact s.goOn_next

end Sys2Proof.Machine

section
open Sys2Proof Sys2Proof.Machine

/-- Settles O7: `exec` answers a next state in each case of the instruction, and a step that does not answer one has stopped at a word that
does not decode. -/
theorem nothingStops : Obligations.NothingStops := by
  unfold Obligations.NothingStops
  refine ⟨exec_next, fun s r h => ?_, fun s r h => ?_⟩
  · obtain ⟨t, ht⟩ | ⟨f, c, hf, hd, hstop⟩ := step_cases s
    · exact nomatch ht.symm.trans h
    · rw [hstop] at h
      cases h
      exact ⟨f, c, hf, hd, rfl⟩
  · obtain ⟨t, ht⟩ | ⟨f, c, hf, hd, hstop⟩ := step_cases s
    · exact nomatch ht.symm.trans h
    · exact nomatch hstop.symm.trans h

end
end

section
/-!
PROOF of O60. Frame traps (R158, R161 to R163), silence and the end of a region (R168, R169, R322), stops (R172 to R174), configuration
errors (R182), fences (R241, R244) and restores (R181): one lemma per outcome of each step, then the statement.
-/

namespace Sys2Proof.Machine

theorem exec_frameTrap (s : State) : exec .frameTrap s = execFrameTrap s := rfl
theorem exec_trapResume (s : State) : exec .trapResume s = execTrapResume s := rfl
theorem exec_trapKill (s : State) : exec .trapKill s = execTrapKill s := rfl
theorem exec_parkReinject (s : State) : exec .parkReinject s = execParkReinject s := rfl
theorem exec_killTagsFree (s : State) : exec .killTagsFree s = execKillTagsFree s := rfl
theorem exec_regionSilent (s : State) : exec .regionSilent s = execRegionSilent s := rfl
theorem exec_endComplete (s : State) : exec .endComplete s = execEndComplete s := rfl
theorem exec_drydown (s : State) : exec .drydown s = execDrydown s := rfl
theorem exec_markerArrival (s : State) : exec .markerArrival s = execMarkerArrival s := rfl
theorem exec_cutComplete (s : State) : exec .cutComplete s = execCutComplete s := rfl
theorem exec_freeze (s : State) : exec .freeze s = execFreeze s := rfl
theorem exec_freezeComplete (s : State) : exec .freezeComplete s = execFreezeComplete s := rfl
theorem exec_save (s : State) : exec .save s = execSave s := rfl
theorem exec_regionRelease (s : State) : exec .regionRelease s = execRegionRelease s := rfl
theorem exec_configUe (s : State) : exec .configUe s = execConfigUe s := rfl
theorem exec_fenceComplete (s : State) : exec .fenceComplete s = execFenceComplete s := rfl
theorem exec_restore (s : State) : exec .restore s = execRestore s := rfl
theorem exec_restorePlacement (s : State) : exec .restorePlacement s = execRestorePlacement s := rfl

/-! ## FRAME_TRAP (R158) -/

/-- The state in which the step's die has handled all its reports but `l`. -/
def State.reportTaken (s : State) (l : List TrapReport) : State := s.updDie s.sch.args.die fun d => { d with reports := l }

section
variable {s : State} {t : TrapReport} {l : List TrapReport} (hd : (s.die s.sch.args.die).reports = t :: l)
include hd

/-- A frame that can be trapped stops, and the record is sent. -/
theorem frameTrap_stops {f : FrameRec} (hf : ((s.reportTaken l).region t.region).frame? t.frm = some f) (hk : f.killed = false)
    (hr : f.returned = false) (hst : ((s.reportTaken l).region t.region).st ≠ .frozen) :
    exec .frameTrap s = .next (((s.reportTaken l).stopFrame t.region t.frm t.accord).putFault t.rcd) := by
  rw [State.reportTaken] at hf hst
  simp only [exec_frameTrap, execFrameTrap, hd, hf, hk, hr, hst]
  rfl

/-- Of a frame that is no more, the record alone is sent. -/
theorem frameTrap_noFrame (hf : ((s.reportTaken l).region t.region).frame? t.frm = none) :
    exec .frameTrap s = .next ((s.reportTaken l).putFault t.rcd) := by
  rw [State.reportTaken] at hf
  simp only [exec_frameTrap, execFrameTrap, hd, hf]
  rfl

end

/-! ## RESUME and KILL (R161 to R163) -/

/-- A frame of a region marked killed, and nothing of it parked or resuming. -/
def State.killFrame (s : State) (r : Region) (frm : Nat) : State :=
  s.updRegion r.id fun r => { r.updFrame frm (fun f => { f with killed := true }) with
    park := r.park.filter fun p => p.frm ≠ frm
    resuming := r.resuming.filter (· ≠ frm) }

/-- The transfers of a frame that its faults stopped or that have not begun abandoned. -/
def State.killXfers (s : State) (r : Region) (frm : Nat) : State :=
  (s.xfers.filter fun x => x.region = r.id && tagFrm x.tag = frm && (x.faulted || !x.begun)).foldl (fun s x => s.abandonXfer x) s

/-- The rounds of a frame at its region's AGNs ended. -/
def State.killRounds (s : State) (r : Region) (frm : Nat) : State :=
  r.image.bindings.foldl (fun s b => if (s.agn r b).region ≠ r.id || (s.agn r b).port ≠ b.p then s
    else s.updAgn r b fun g => { g with round := g.round.filter fun q => tagFrm q.tag ≠ frm }) s

/-- The fences of a frame gone from its region's cells. -/
def State.killFences (s : State) (r : Region) (frm : Nat) : State :=
  r.cells.foldl (fun s p => s.updCell (cellKey r.die p.1 p.2) fun c =>
    { c with fences := c.fences.filter fun f => !(f.firing.region = r.id && f.firing.frm = frm) }) s

/-- RESUME is refused where SCH_TRAP_CTL names no trapped frame. -/
theorem trapResume_unnamed {s : State} (h : s.trapNamed s.sch.args.die = none) :
    exec .trapResume s = .next (s.trapResult s.sch.args.die false true) := by
  simp only [exec_trapResume, execTrapResume, h]

/-- So is KILL. -/
theorem trapKill_unnamed {s : State} (h : s.trapNamed s.sch.args.die = none) :
    exec .trapKill s = .next (s.trapResult s.sch.args.die false true) := by
  simp only [exec_trapKill, execTrapKill, h]

section
variable {s : State} {r : Region} {frm : Nat} (h : s.trapNamed s.sch.args.die = some (r, frm))
include h

/-- RESUME of a frame that is killed or no more is refused. -/
theorem trapResume_killed (hk : ∀ f, r.frame? frm = some f → f.killed = true) :
    exec .trapResume s = .next (s.trapResult s.sch.args.die false true) := by
  have hall : ((r.frame? frm).map FrameRec.killed).getD true = true := by
    cases hf : r.frame? frm with
    | none => rfl
    | some f => exact hk f hf
  simp only [exec_trapResume, execTrapResume, h, hall, if_true]

/-- RESUME of any other begins. -/
theorem trapResume_begins {f : FrameRec} (hf : r.frame? frm = some f) (hk : f.killed = false) :
    exec .trapResume s = .next ((s.trapResult s.sch.args.die true false).updRegion r.id fun r =>
      { r with resuming := r.resuming.filter (· ≠ frm) ++ [frm] }) := by
  simp only [exec_trapResume, execTrapResume, h, hf, Option.map_some, Option.getD_some, hk, Bool.false_eq_true, if_false]

/-- KILL marks the frame, and discards what it has parked, its accesses and transfers not begun, its rounds and its fences. -/
theorem trapKill_kills :
    exec .trapKill s = .next ((((((s.trapResult s.sch.args.die true false).killFrame r frm).rewritePark r.id).discardAccesses fun a =>
      a.firing.region = r.id && a.firing.frm = frm).killXfers r frm).killRounds r frm |>.killFences r frm) := by
  simp only [exec_trapKill, execTrapKill, h]
  rfl

end

/-! ## What END leaves (R322) -/

/-- A cell without the accords, tokens and fences of a region. -/
def Cell.withoutRegion (c : Cell) (id : Nat) : Cell :=
  { c with
    matching := c.matching.filter fun a => (c.window a.win).region ≠ id
    waiting := c.waiting.filter fun a => (c.window a.win).region ≠ id
    queue := c.queue.filter fun t => t.region ≠ id
    fences := c.fences.filter fun f => f.firing.region ≠ id }

/-- The state without what the meshes and port cores hold of a region. -/
def State.withoutRegion (s : State) (id : Nat) : State :=
  { s with
    toks := s.toks.filter fun t => t.region ≠ id
    notices := s.notices.filter fun n => n.region ≠ id
    accesses := s.accesses.filter fun x => x.firing.region ≠ id
    xfers := s.xfers.filter fun x => x.region ≠ id }

/-- The state in which END has completed for a region: its waits withdrawn, its tokens discarded (R322). -/
def State.regionEnded (s : State) (r : Region) : State :=
  let e := ((s.withdrawQueue fun f => f.region = r.id).2.withoutRegion r.id).updRegion r.id fun r =>
    { r with complete := true, asks := [], inject := [], inflight := [] }
  (e.regionCells r.id).foldl (fun s k => s.updCell k fun c => c.withoutRegion r.id) e

/-! ## The end of a RESUME and of a KILL (R162, R163) -/

section
variable {s : State} {r : Region} (hr : s.region? s.sch.args.region = some r)
include hr

/-- PARK_REINJECT of a frame that does not resume. -/
theorem parkReinject_idle (h : s.sch.args.frm ∉ r.resuming) : exec .parkReinject s = .next s := by
  simp [exec_parkReinject, execParkReinject, hr, h]

/-- With nothing parked the frame leaves the trap set (R162 step 4). -/
theorem parkReinject_ends (hin : s.sch.args.frm ∈ r.resuming) (hst : r.st = .running) (hstop : r.stop = .none)
    (hrep : s.reported r s.sch.args.frm = false) (hstarve : s.starves r s.sch.args.frm = false)
    (hpark : ∀ p, p ∈ r.park → p.frm ≠ s.sch.args.frm) :
    exec .parkReinject s = .next (((s.resumePorts r s.sch.args.frm).stir r.id).leaveTrap r s.sch.args.frm) := by
  simp only [exec_parkReinject, execParkReinject, hr]
  refine (if_neg (by simp [hin, hst, hstop, hrep, hstarve])).trans ((if_neg ?accords).trans ?tokens)
  case accords =>
    simp only [Bool.not_eq_true', Bool.not_eq_false, List.isEmpty_iff, List.filterMap_eq_nil_iff]
    intro p hp
    cases p with
    | accord f => exact if_neg (hpark _ hp)
    | token t => rfl
  case tokens =>
    split
    case h_1 => rfl
    case h_2 t ht =>
      obtain ⟨p, hp, hpt⟩ := List.exists_of_findSome?_eq_some ht
      cases p with
      | accord f => exact nomatch hpt
      | token u => exact nomatch (if_neg (hpark _ hp)).symm.trans hpt

section
variable {f : FrameRec} (hf : r.frame? s.sch.args.frm = some f)
include hf

/-- KILL_TAGS_FREE of a frame that is not killed. -/
theorem killTagsFree_live (hk : f.killed = false) : exec .killTagsFree s = .next s := by
  simp [exec_killTagsFree, execKillTagsFree, hr, hf, hk]

/-- A killed frame without work is freed, and leaves the trap set. -/
theorem killTagsFree_frees (hk : f.killed = true) (hbusy : s.frameBusy r.id s.sch.args.frm = false)
    (hrep : s.reported r s.sch.args.frm = false) :
    exec .killTagsFree s = .next ((s.returnFrame r.id s.sch.args.frm).leaveTrap r s.sch.args.frm) := by
  simp [exec_killTagsFree, execKillTagsFree, hr, hf, hk, hbusy, hrep]

end

/-! ## Silence and the end of a region (R168, R169, R322) -/

/-- REGION_SILENT of a region that is not silent. -/
theorem regionSilent_stirs (h : s.isSilent r = false) : exec .regionSilent s = .next s := by
  simp [exec_regionSilent, execRegionSilent, hr, h]

/-- A silent region that holds tokens nowhere but in its park area rests where it holds some there. -/
theorem regionSilent_parked (h : s.isSilent r = true) (hloose : s.holdsLoose r = false) (hpark : r.holdsParked = true) :
    exec .regionSilent s = .next s := by
  simp [exec_regionSilent, execRegionSilent, hr, h, hloose, hpark]

/-- One without tokens is complete. -/
theorem regionSilent_completes (h : s.isSilent r = true) (htoks : s.holdsTokens r = false) :
    exec .regionSilent s = .next (s.updRegion r.id fun r => { r with complete := true }) := by
  obtain ⟨hloose, hpark⟩ := Bool.or_eq_false_iff.mp htoks
  simp [exec_regionSilent, execRegionSilent, hr, h, hloose, hpark]

/-- One with tokens that may not spill freezes. -/
theorem regionSilent_freezes (h : s.isSilent r = true) (hloose : s.holdsLoose r = true) (hspill : s.maySpill r = false) :
    exec .regionSilent s = .next (s.freezeSilent r) := by
  simp [exec_regionSilent, execRegionSilent, hr, h, hloose, hspill]

/-- END_COMPLETE of a region that has not ended. -/
theorem endComplete_notEnded (h : r.ended = false) : exec .endComplete s = .next s := by
  simp [exec_endComplete, execEndComplete, hr, h]

/-- END_COMPLETE of an ended region of which nothing is outstanding. -/
theorem endComplete_ends (hend : r.ended = true) (hcomp : r.complete = false) (hout : s.outstanding r.id = false)
    (hsends : s.sendsOpen r.id = false) (hacc : ∀ x, x ∈ s.accesses → x.firing.region = r.id → s.canPerform x = false) :
    exec .endComplete s = .next (s.regionEnded r) := by
  have hany : s.accesses.any (fun a => a.firing.region = r.id && s.canPerform a) = false := by simpa using hacc
  simp only [exec_endComplete, execEndComplete, hr, hend, hcomp, hout, hsends, hany]
  rfl

/-! ## Markers and the cut (R125, R172, R173) -/

section
variable {cells : List (Nat × Nat)} (hstop : r.stop = .drydown cells)
include hstop

/-- MARKER_ARRIVAL at a cell that has had its marker. -/
theorem markerArrival_again (h : (s.sch.args.x, s.sch.args.y) ∈ cells) : exec .markerArrival s = .next s := by
  simp [exec_markerArrival, execMarkerArrival, hr, hstop, h]

/-- At any other of the region's. -/
theorem markerArrival_takes (h : (s.sch.args.x, s.sch.args.y) ∉ cells) (hin : r.contains s.sch.args.x s.sch.args.y = true)
    (hact : ∀ e, e ∈ r.actors → e.moves = [] ∧ e.leaving = []) :
    exec .markerArrival s = .next ((s.updRegion r.id fun r =>
      { r with stop := .drydown (cells ++ [(s.sch.args.x, s.sch.args.y)]) }).dropAhead r fun _ => true) := by
  have hun : r.unmoving = true := by simpa [Region.unmoving] using hact
  simp [exec_markerArrival, execMarkerArrival, hr, hstop, h, hin, hun]

/-- CUT_COMPLETE before every cell has had its marker. -/
theorem cutComplete_early (h : ∃ c, c ∈ r.cells ∧ c ∉ cells) : exec .cutComplete s = .next s := by
  have hall : r.cells.all cells.contains = false := by simpa using h
  simp [exec_cutComplete, execCutComplete, hr, hstop, hall]

/-- With all of them and nothing outstanding the region freezes and is saved. -/
theorem cutComplete_saves (h : ∀ c, c ∈ r.cells → c ∈ cells) (hsettle : s.canSettle r = true) :
    exec .cutComplete s = .next (((s.freezeNow r).endBusy r).saveRegion ((s.freezeNow r).region r.id)) := by
  have hall : r.cells.all cells.contains = true := by simpa using h
  simp only [exec_cutComplete, execCutComplete, hr, hstop, hall, hsettle]
  rfl

end

/-- FREEZE_COMPLETE of a region with everything settled. -/
theorem freezeComplete_freezes (hstop : r.stop = .freeze) (hsettle : s.canSettle r = true) :
    exec .freezeComplete s = .next ((s.freezeNow r).endBusy r) := by
  simp [exec_freezeComplete, execFreezeComplete, hr, hstop, hsettle]

/-- Before everything is settled. -/
theorem freezeComplete_waits (hsettle : s.canSettle r = false) : exec .freezeComplete s = .next s := by
  simp [exec_freezeComplete, execFreezeComplete, hr, hsettle]

/-! ## Configuration errors (R182) -/

/-- The record of an uncorrectable error in a region's configuration (R155, R157). -/
def State.ueRecord (s : State) (r : Region) : FaultRec :=
  { cls := .cfgUe, ctx := r.ctx, loc := whereC r.die s.sch.args.x s.sch.args.y 0 0, cycle := (s.die r.die).netCycles, bodyB := r.handle
    bodyA := r.imageVa % 2 ^ 64 * 2 ^ 32 + s.sch.args.offset % 2 ^ 64 * 2 ^ 96 }

/-- The state in which such an error is counted, and its time noted. -/
def State.ueCounted (s : State) (r : Region) : State :=
  (s.updCell (cellKey r.die s.sch.args.x s.sch.args.y) fun c =>
    { c with ecc := { c.ecc with uncorr := satInc c.ecc.uncorr } }).updRegion r.id fun q =>
      { q with lastUe := some (s.die r.die).netCycles.toNat }

/-- A second error within 2^20 cycles freezes the region. -/
theorem configUe_again {n : Nat} (hin : r.contains s.sch.args.x s.sch.args.y = true) (hlast : r.lastUe = some n)
    (hnow : (s.die r.die).netCycles.toNat < n + 2 ^ 20) (hst : r.st ≠ .frozen) :
    exec .configUe s = .next (((s.ueCounted r).putFault (s.ueRecord r)).startFreeze r.id .configUe) := by
  simp only [exec_configUe, execConfigUe, hr]
  refine (if_neg (by simp [hin])).trans ((if_pos (by simpa [hlast] using hnow)).trans (congrArg _ ((if_neg hst).trans ?_)))
  rw [BitVec.ofNat_toNat, BitVec.setWidth_eq]
  rfl

end

/-! ## What SCH_PRE_CTL asks (R172 to R174) -/

section
variable {s : State}

section
variable (h : s.preRegion s.sch.args.die = none)
include h

/-- Where SCH_PRE_CTL names no region, each operation ends with CODE 1. -/
theorem drydown_unnamed : exec .drydown s = .next (s.preResult s.sch.args.die 1) := by
  simp only [exec_drydown, execDrydown, h]

theorem freeze_unnamed : exec .freeze s = .next (s.preResult s.sch.args.die 1) := by
  simp only [exec_freeze, execFreeze, h]

theorem save_unnamed : exec .save s = .next (s.preResult s.sch.args.die 1) := by
  simp only [exec_save, execSave, h]

theorem regionRelease_unnamed : exec .regionRelease s = .next (s.preResult s.sch.args.die 1) := by
  simp only [exec_regionRelease, execRegionRelease, h]

end

/-- The state in which a stop that SCH_PRE_CTL of the step's die asked is under way. -/
def State.preBusy (u : State) (die : Nat) : State := u.updDie die fun d => { d with pre := { d.pre with busy := true } }

variable {r : Region} (h : s.preRegion s.sch.args.die = some r)
include h

/-- DRYDOWN of a region that has stopped or is over ends with CODE 2. -/
theorem drydown_stopped (hr : r.stop ≠ .none ∨ r.ended = true ∨ r.complete = true) :
    exec .drydown s = .next (s.preResult s.sch.args.die 2) := by
  simp only [exec_drydown, execDrydown, h]
  exact if_pos (by simp only [Bool.or_eq_true, decide_eq_true_eq]; tauto)

/-- Of any other it begins. -/
theorem drydown_begins (hst : r.st = .running) (hstop : r.stop = .none) (hend : r.ended = false) (hcomp : r.complete = false) :
    exec .drydown s = .next ((s.updRegion r.id fun r =>
      { r with st := .draining, stop := .drydown [], cause := .drydown }).preBusy s.sch.args.die) := by
  simp only [exec_drydown, execDrydown, h]
  exact if_neg (by simp [hst, hstop, hend, hcomp])

/-- FREEZE of a region that freezes or is over ends with CODE 2. -/
theorem freeze_stopped (hr : r.stop = .freeze ∨ r.ended = true ∨ r.complete = true) :
    exec .freeze s = .next (s.preResult s.sch.args.die 2) := by
  simp only [exec_freeze, execFreeze, h]
  obtain hstop | hend | hcomp := hr
  · simp [hstop]
  · simp [hend]
  · simp [hcomp]

/-- Of any other it begins, and a drydown gives way to it (R175). -/
theorem freeze_begins (hst : r.st = .running ∨ r.st = .draining) (hstop : r.stop ≠ .freeze) (hend : r.ended = false)
    (hcomp : r.complete = false) :
    exec .freeze s = .next ((s.startFreeze r.id .request).preBusy s.sch.args.die) := by
  simp only [exec_freeze, execFreeze, h]
  refine if_neg ?_
  cases hq : r.stop with
  | freeze => exact absurd hq hstop
  | none => simpa [hend, hcomp] using hst.resolve_left
  | drydown cells => simpa [hend, hcomp] using hst.resolve_left

/-- SAVE of a frozen region writes its image. -/
theorem save_frozen (hst : r.st = .frozen) : exec .save s = .next (s.saveRegion r) := by
  simp only [exec_save, execSave, h, hst, if_true]

/-- RELEASE of a frozen region ends its launch with REFUSED. -/
theorem regionRelease_frozen (hst : r.st = .frozen) :
    exec .regionRelease s = .next (((s.leaveTree r).endLaunch r 0x8005).preResult s.sch.args.die 0) := by
  simp only [exec_regionRelease, execRegionRelease, h, hst, if_true]

/-- Both end with CODE 2 for a region that is not frozen. -/
theorem save_notFrozen (hst : r.st ≠ .frozen) : exec .save s = .next (s.preResult s.sch.args.die 2) := by
  simp only [exec_save, execSave, h, hst, if_false]

theorem regionRelease_notFrozen (hst : r.st ≠ .frozen) : exec .regionRelease s = .next (s.preResult s.sch.args.die 2) := by
  simp only [exec_regionRelease, execRegionRelease, h, hst, if_false]

end

/-! ## Fences (R241, R244, R255) -/

section
variable {α : Type} [DecidableEq α]

/-- An element joins those seen where it is not among them. -/
theorem mem_foldl_distinct (a : α) (l acc : List α) :
    a ∈ l.foldl (fun acc x => if acc.contains x then acc else acc ++ [x]) acc ↔ a ∈ acc ∨ a ∈ l := by
  induction l generalizing acc with
  | nil => simp
  | cons x t ih =>
    rw [List.foldl_cons, ih]
    by_cases hx : x ∈ acc
    · rw [if_pos (List.contains_iff_mem.mpr hx)]
      grind
    · rw [if_neg (by simpa using hx)]
      grind

/-- The elements of a list without its repeats are its elements. -/
theorem mem_distinct (a : α) (l : List α) : a ∈ distinct l ↔ a ∈ l := by
  rw [distinct, mem_foldl_distinct, or_iff_right List.not_mem_nil]

theorem distinct_eq_nil_iff (l : List α) : distinct l = [] ↔ l = [] := by
  simp only [List.eq_nil_iff_forall_not_mem, mem_distinct]

end

section
variable {s : State} {q : Fence}

/-- The state in which a fence of its cell is changed. -/
def State.updFence (s : State) (q : Fence) (h : Fence → Fence) : State :=
  s.updCell q.firing.cell fun c => { c with fences := changeFirst (fun p => p.id = q.id) h c.fences }

/-- A fence that its die still owes something, or that reads host memory, waits. -/
theorem State.tryFence_owed (h : s.fenceOwes q = true ∨ q.hostRead = true) : s.tryFence q = s :=
  if_pos (by simpa using h)

variable (howes : s.fenceOwes q = false) (hread : q.hostRead = false)
include howes hread

/-- One wider than its die waits for the stores of its die that are still to be seen elsewhere. -/
theorem State.tryFence_settles (hscope : q.scope = .device ∨ q.scope = .system) (hset : q.settled = false) (hacks : s.acks ≠ []) :
    s.tryFence q = s.updFence q fun p => { p with settled := true, before := distinct (s.acks.map Ack.access) } := by
  have hwide : wideScope q.scope = true := by
    obtain h | h := hscope
    · rw [h]; rfl
    · rw [h]; rfl
  have howed : (distinct (s.acks.map Ack.access)).isEmpty = false := by
    simpa [List.isEmpty_eq_false_iff, distinct_eq_nil_iff] using hacks
  simp only [State.tryFence, howes, hread, hwide, hset, howed]
  rfl

variable (hacks : s.acks = [])
include hacks

/-- With nothing to be seen elsewhere, one that host memory may still hold writes for issues its read. -/
theorem State.tryFence_reads
    (h : q.kind ≠ .acq ∧ q.scope = .system ∧ q.readDone = false ∧ (s.region q.firing.region).posted = true) :
    s.tryFence q = s.updFence q fun p => { p with hostRead := true } := by
  obtain ⟨hkind, hscope, hdone, hposted⟩ := h
  simp [State.tryFence, State.updFence, howes, hread, hacks, distinct, hkind, hscope, hdone, hposted]

/-- Any other ends. -/
theorem State.tryFence_ends
    (h : ¬ (q.kind ≠ .acq ∧ q.scope = .system ∧ q.readDone = false ∧ (s.region q.firing.region).posted = true)) :
    s.tryFence q = s.endFence q := by
  have hasks : (q.kind ≠ .acq && q.scope = .system && !q.readDone && (s.region q.firing.region).posted) = false := by
    simpa [and_assoc] using h
  simp only [State.tryFence, howes, hread, hacks, hasks]
  simp [distinct]

end

section
variable {s : State} {p q : Fence}
  (hq : (s.cell (cellKey s.sch.args.die s.sch.args.x s.sch.args.y)).fences.find? (fun q => q.id = s.sch.args.id) = some q)
  (hp : (s.cell (cellKey s.sch.args.die s.sch.args.x s.sch.args.y)).fences.find? (fun p =>
    p.firing.region = q.firing.region && p.firing.frm = q.firing.frm) = some p)
include hq hp

/-- FENCE_COMPLETE of a fence behind another of its frame. -/
theorem fenceComplete_behind (h : p.id ≠ q.id) : exec .fenceComplete s = .next s := by
  simp only [exec_fenceComplete, execFenceComplete, hq, hp, h, if_false]

/-- Of the first of its frame. -/
theorem fenceComplete_first (h : p.id = q.id) : exec .fenceComplete s = .next (s.tryFence q) := by
  simp only [exec_fenceComplete, execFenceComplete, hq, hp, h, if_true]

end

/-! ## Restores (R180, R181) -/

/-- The address of the image that HUB_RESTORE_CTL names. -/
def State.restoreVa (s : State) : Nat := s.hub.restore.img.toNat / 64 * 64

/-- The launch that a good image puts before the module scheduler, in the state in which the image has been read (R176, R181). -/
def State.restoreWaiting (s t : State) (bs : List Byte) (img : Image) : Waiting :=
  { ctx := s.hub.restore.ctx.toNat, ordinal := rd bs 0x18 8, note := Note.ofCode (rd bs 7 1)
    stamp := (((t.chain s.hub.restore.ctx.toNat 0).rcd? (rd bs 0x18 8)).map fun r => r.stamp).getD t.hub.cycles.toNat
    dieMask := s.hub.restore.dieMask.toNat, image := img, imageBytes := flaconPart bs 0, disp := bit (rd bs 0x0D 1) 0
    ql := rd bs 0x0C 1 % 8, frame := BitVec.ofNat 64 (rd bs 0x10 8), cfgVa := s.restoreVa + (flaconSection bs 0).1
    hndl := rd bs 0x20 8, flacon := some bs }

section
variable {s : State} {t : Except Nat (List Byte × Image) × State} (ht : s.readFlacon s.restoreVa s.hub.restore.ctx.toNat = t)
include ht

/-- A bad image is refused with its reason. -/
theorem restore_refused {reason : Nat} (h : t.1 = .error reason) :
    exec .restore s = .next (t.2.refuseRestore s.hub.restore.ctx.toNat s.restoreVa reason) := by
  rw [State.restoreVa] at ht
  simp only [exec_restore, execRestore, ht, h]
  rfl

/-- A good one waits for its place. -/
theorem restore_waits {bs : List Byte} {img : Image} (h : t.1 = .ok (bs, img)) :
    exec .restore s = .next ({ t.2 with hub := { t.2.hub with
      waiting := t.2.hub.waiting ++ [s.restoreWaiting t.2 bs img]
      restore := { s.hub.restore with busy := true, refused := false } } }.placeWaiting) := by
  rw [State.restoreVa] at ht
  simp only [exec_restore, execRestore, ht, h]
  rfl

end

/-- RESTORE_PLACEMENT of the first restore that has a place. -/
theorem restorePlacement_places {s : State} {w : Waiting} {bs : List Byte} {p : Nat × Nat × Nat}
    (h : s.restorePlace (sortBy waitsBefore s.hub.waiting) [] = some (w, bs, p)) :
    exec .restorePlacement s = .next ((s.placeRestore w bs p.1 p.2.1 p.2.2).placeWaiting) := by
  simp only [exec_restorePlacement, execRestorePlacement, h]

end Sys2Proof.Machine

section
open Sys2Proof Sys2Proof.Machine

/-- Settles O60: each clause is one of the rules above, for the region, frame or fence that the step names. That a fence waits for every
acknowledgement outstanding is the model's reading of R241 (log 39), and so are the details of RESUME and KILL (log 40). -/
theorem trapsStopsAndRestores : Obligations.TrapsStopsAndRestores := by
  unfold Obligations.TrapsStopsAndRestores
  intro s a d freed coded busy
  refine ⟨fun t l hd => ⟨fun f => frameTrap_stops hd, frameTrap_noFrame hd⟩, fun h => ⟨trapResume_unnamed h, trapKill_unnamed h⟩,
    fun r frm h => ⟨trapResume_killed h, fun f => trapResume_begins h, trapKill_kills h⟩, ?region,
    fun h => ⟨drydown_unnamed h, freeze_unnamed h, save_unnamed h, regionRelease_unnamed h⟩, ?stops, rfl, ?fences,
    ?restores, fun w bs p => restorePlacement_places⟩
  case region =>
    intro r hr
    refine ⟨parkReinject_idle hr, parkReinject_ends hr, fun f hf => ⟨killTagsFree_live hr hf, killTagsFree_frees hr hf⟩,
      regionSilent_stirs hr, regionSilent_completes hr, regionSilent_parked hr, regionSilent_freezes hr, endComplete_notEnded hr,
      endComplete_ends hr, fun cells hstop => ⟨markerArrival_again hr hstop, markerArrival_takes hr hstop, cutComplete_early hr hstop,
        cutComplete_saves hr hstop⟩, freezeComplete_freezes hr, fun _ => freezeComplete_waits hr, fun t => configUe_again hr⟩
  case stops =>
    intro r h
    exact ⟨drydown_stopped h, drydown_begins h, freeze_stopped h, freeze_begins h,
      fun hst => ⟨save_frozen h hst, regionRelease_frozen h hst⟩,
      fun hst => ⟨save_notFrozen h hst, regionRelease_notFrozen h hst⟩⟩
  case restores =>
    intro ctx va t
    have ht : s.readFlacon s.restoreVa s.hub.restore.ctx.toNat = t := rfl
    clear_value t
    exact ⟨fun reason => restore_refused ht,
      fun bs img h => ⟨s.restoreWaiting t.2 bs img, rfl, rfl, rfl, rfl, rfl, restore_waits ht h⟩⟩
  case fences =>
    intro q p hq hp
    refine ⟨fenceComplete_behind hq hp, fun hid h => ?_, fun hid howes hread => ?_⟩
    · rw [fenceComplete_first hq hp hid, State.tryFence_owed h]
    · rw [fenceComplete_first hq hp hid]
      exact ⟨fun hscope hset hacks => congrArg _ (State.tryFence_settles howes hread hscope hset hacks),
        fun hacks h => congrArg _ (State.tryFence_reads howes hread hacks h),
        fun hacks h => congrArg _ (State.tryFence_ends howes hread hacks h)⟩

end
end

section
/-!
PROOF of O11. An accord that its predicate turns away (R190, R302, R378): every instruction with a predicate is `fire` or an access
through a binding, and both leave the accord without effect, but that an access on a wave-ordered binding fills its position. That a
random binding has no positions is R221 and R377 (log 37).
-/

namespace Sys2Proof.Machine

open Claims

/-! ## The forms of firing, turned away (R190) -/

section
variable {s : State} {pd : Pd} (hp : s.sch.cur.passes pd = false)
include hp

theorem State.intForm_failed (wide : Bool) (t1 t0 : Target) (o : Nat → Nat → Nat → Nat → Nat) : s.intForm pd wide t1 t0 o = .next s :=
  s.fire_failed pd _ hp

theorem State.immForm_failed (imm : BitVec 14) (t0 : Target) (o : Nat → Nat → Nat) : s.immForm pd imm t0 o = .next s :=
  s.fire_failed pd _ hp

theorem State.floatForm_failed (t1 t0 : Target) (o : Nat → Nat → Nat → Nat × Flags) : s.floatForm pd t1 t0 o = .next s :=
  s.fire_failed pd _ hp

theorem State.vectorForm_failed (t1 t0 : Target) (o : Fmt → Word → Nat → Nat → Nat → Rounded) : s.vectorForm pd t1 t0 o = .next s :=
  s.fire_failed pd _ hp

theorem State.reduceForm_failed (t1 t0 : Target) (o : Fmt → Word → List Nat → Rounded) : s.reduceForm pd t1 t0 o = .next s :=
  s.fire_failed pd _ hp

theorem State.fenceForm_failed (kind : FenceKind) (scope : Scope) (t1 t0 : Target) : s.fenceForm pd kind scope t1 t0 = .next s :=
  s.fire_failed pd _ hp

theorem State.queueForm_failed (kind : QKind) (k lim : Nat) (t0 : Target) (rcd : Firing → Nat) :
    s.queueForm pd kind k lim t0 rcd = .next s :=
  s.fire_failed pd _ hp

theorem State.treeForm_failed (op group len : Nat) (t0 : Target) (val : Firing → Val) : s.treeForm pd op group len t0 val = .next s :=
  s.fire_failed pd _ hp

theorem State.poolForm_failed (td ta tb : BitVec 5) (ct : Completion) (kind : EngineKind) : s.poolForm pd td ta tb ct kind = .next s :=
  s.fire_failed pd _ hp

theorem State.sequenceForm_failed (zero : Bool) (ta tb : BitVec 5) (ct : Completion) : s.sequenceForm zero pd ta tb ct = .next s :=
  s.fire_failed pd _ hp

theorem State.arrayForm_failed (zr : Bool) (m : Firing → Nat → State → Result) : s.arrayForm zr pd m = .next s :=
  s.fire_failed pd _ hp

theorem State.readoutForm_failed (t1 t0 : Target) (r : Firing → Nat) : s.readoutForm pd t1 t0 r = .next s :=
  State.arrayForm_failed hp true _

end

/-- R190: an instruction that is no access through a binding, turned away by its predicate, leaves the state. Those without a predicate
always pass. -/
theorem exec_failed {i : Instr} {s : State} (hp : s.sch.cur.passes i.pd = false) (hi : accessOf i = none) : exec i s = .next s := by
  cases i with
  | ld | st | ldt | stt | ldh | pft | scas64 | scas128 | sadd | sswap | amoadd | amomin | amomax => cases hi
  | nop | mov | lit | lit32 | steer | gate | gaten | sync | iter | nextIter | retire | frame | fret | send | sendm | cnt | bound |
    tagrd | qlvl | rdh | wrh | clrh | tsth | endRegion | cmp | sx32 | zx32 | cvtifL | cvt8 | cvf8 | mnop | amot | tailadv | tlread |
    tlwait | collrec | trap | trapf | sysqHandle | sysqDie | sysqReplica | sysqCtx | rdcfg | wrcfg | yield | bkpt | cyc | vscale |
    vcmp | vbcast | vcvt | vquant | vtrans | tdef | tset | tstate | bmode | permit | binv | bload | rsetup | rstep | rbary | rayxf |
    raybox | raytri | migr | seqget | seqwait | blend =>
    simp only [exec]
    exact s.fire_failed _ _ hp
  | add | sub | mul | mulh | mulhu | div | divu | rem | remu | and | or | xor | andn | shl | shr | sra | rol | ror | min | max | minu |
    maxu | bfxu | bfxs | popc | clz | ctz | neg | abs | sx8 | sx16 | zx8 | zx16 =>
    simp only [exec]
    exact State.intForm_failed hp _ _ _ _
  | addi | andi | ori | xori =>
    simp only [exec]
    exact State.immForm_failed hp _ _ _
  | fadd | fsub | fmul | fdiv | fsqrt | fmin | fmax | fminm | fmaxm | fabs | fneg | fcmp | frcp | frsq | fexp2 | flog2 | fsin | fcos |
    frnd | cvtS | cvtH | cvtB | cvtfi | cvtif | fclass =>
    simp only [exec]
    exact State.floatForm_failed hp _ _ _
  | vadd | vsub | vmul | vmin | vmax | vabs | vneg | vrcp | vrsq | vexp2 | vlog2 =>
    simp only [exec]
    exact State.vectorForm_failed hp _ _ _
  | vredSum | vredMin | vredMax =>
    simp only [exec]
    exact State.reduceForm_failed hp _ _ _
  | fenceAcq | fenceRel | fenceFull =>
    simp only [exec]
    exact State.fenceForm_failed hp _ _ _ _
  | qpush | qpop | qpeek =>
    simp only [exec]
    exact State.queueForm_failed hp _ _ _ _ _
  | barr | tree =>
    simp only [exec]
    exact State.treeForm_failed hp _ _ _ _ _
  | vpoolmax | vpoolavg =>
    simp only [exec]
    exact State.poolForm_failed hp _ _ _ _ _
  | mma | mmaz =>
    simp only [exec]
    exact State.sequenceForm_failed hp _ _ _ _
  | mrd | mrda =>
    simp only [exec]
    exact State.readoutForm_failed hp _ _ _
  | mzero | mstat =>
    simp only [exec]
    exact State.arrayForm_failed hp _ _
  | _ => cases hp

/-! ## Accesses through a binding (R375, R378) -/

/-- What becomes of an access through a binding whose predicate fails: nothing on a random one, else its position is filled (R378). -/
def State.skipAccess (s : State) (f : Firing) (b : Binding) (seq : Nat) : Result :=
  if b.shape.cls = .random then .next s else .next (s.sendAccess f b (s.rankOf f b.p seq) .discard .skip 0 .none)

/-- R375: an instruction of Format M turned away by its predicate. -/
theorem State.accessForm_failed {s : State} {pd : Pd} {seq port : BitVec 5} {t0 : Target} {op : Firing → AccessOp} {pos : Firing → Nat}
    {b : Binding} (hp : s.sch.cur.passes pd = false) (hb : (s.region s.sch.cur.region).binding? port.toNat = some b) :
    s.accessForm pd seq port t0 op pos = s.skipAccess s.sch.cur b seq.toNat := by
  simp only [State.accessForm, hb, hp, Bool.not_false, if_true, State.skipAccess]

/-- LDH turned away by its predicate. -/
theorem ldh_failed {s : State} {pd : Pd} {seq port h : BitVec 5} {pv nx : BitVec 2} {b : Binding} (hp : s.sch.cur.passes pd = false)
    (hb : (s.region s.sch.cur.region).binding? port.toNat = some b) :
    exec (.ldh pd seq pv nx port h) s = s.skipAccess s.sch.cur b seq.toNat := by
  have hexec : exec (.ldh pd seq pv nx port h) s = execLdh pd seq pv nx port h s := rfl
  simp only [hexec, execLdh, hb, hp, Bool.not_false, if_true, State.skipAccess]

/-- Every access through a binding turned away by its predicate. -/
theorem exec_access_failed {i : Instr} {port seq : BitVec 5} {s : State} {b : Binding} (hi : accessOf i = some (port, seq))
    (hp : s.sch.cur.passes i.pd = false) (hb : (s.region s.sch.cur.region).binding? port.toNat = some b) :
    exec i s = s.skipAccess s.sch.cur b seq.toNat := by
  cases i with
  | ld | st | ldt | stt | pft | scas64 | scas128 | sadd | sswap | amoadd | amomin | amomax =>
    cases hi
    simp only [exec]
    exact State.accessForm_failed hp hb
  | ldh =>
    cases hi
    exact ldh_failed hp hb
  | _ => cases hi

end Sys2Proof.Machine

section
open Sys2Proof Sys2Proof.Machine Sys2Proof.Claims

/-- Settles O11: an instruction that is `fire` leaves the state, and an access sends at most the access that fills its position. -/
theorem failedPredicateConsumes : Obligations.FailedPredicateConsumes := by
  unfold Obligations.FailedPredicateConsumes
  refine ⟨fun i s hp hi => ?_, fun i s port seq hp hi => ⟨fun b hb hcls => ?_, fun b hb hcls => ?_⟩⟩
  · exact exec_failed hp hi
  · rw [exec_access_failed hi hp hb, State.skipAccess, if_pos hcls]
  · rw [exec_access_failed hi hp hb, State.skipAccess, if_neg hcls]

end
end

section
/-!
PROOF of O13. An accord whose targets are not ready waits (R190, R192): readiness depends on the lengths of the values alone, and each of
the instructions sends values of the lengths that `resultsOf` names.
-/

namespace Sys2Proof.Machine

open Claims

/-! ## Readiness depends on the lengths alone -/

/-- A list of sends with zeros for its values. -/
def zeroedSends (l : List (Target × Val)) : List (Target × Val) := l.map fun q => (q.1, Val.of q.2.len 0)

@[simp] theorem slotSends_zeroed (l : List (Target × Val)) : (slotSends (zeroedSends l)).map Val.lines = (slotSends l).map Val.lines := by
  simp only [slotSends, zeroedSends, List.filterMap_map, List.map_filterMap]
  refine congrArg (List.filterMap · l) (funext fun q => ?_)
  obtain ⟨target, v⟩ := q
  cases target <;> rfl

@[simp] theorem slotSends_zeroed_length (l : List (Target × Val)) : (slotSends (zeroedSends l)).length = (slotSends l).length := by
  rw [← List.length_map (f := Val.lines), slotSends_zeroed, List.length_map]

@[simp] theorem holdSends_zeroed (l : List (Target × Val)) : holdSends (zeroedSends l) = holdSends l := by
  rw [holdSends, zeroedSends, List.filterMap_map]
  rfl

@[simp] theorem arcSends_zeroed (l : List (Target × Val)) : arcSends (zeroedSends l) = arcSends l := by
  rw [arcSends, zeroedSends, List.filterMap_map]
  rfl

@[simp] theorem arcLens_zeroed (l : List (Target × Val)) (a : Nat) : arcLens (zeroedSends l) a = arcLens l a := by
  rw [arcLens, zeroedSends, List.filterMap_map]
  rfl

/-- R190, R192: whether sends are ready is a matter of their targets and lengths. -/
theorem State.canSend_zeroed (s : State) (f : Firing) (l : List (Target × Val)) : s.canSend f (zeroedSends l) = s.canSend f l := by
  simp [State.canSend]

/-! ## The instructions that send at once -/

/-- The form of an instruction that sends its results at once (R190, R191). -/
def State.sendsForm (s : State) (pd : Pd) (r : Firing → State → List (Target × Val)) (fl : Firing → State → Flags)
    (eff : Firing → State → State → State) : Result :=
  s.fire pd fun f s => s.finish f (r f s) (fl f s) (eff f s)

/-- With a target that is not ready its accord waits. -/
theorem State.sendsForm_waits {s : State} {pd : Pd} {r : Firing → State → List (Target × Val)} {fl : Firing → State → Flags}
    {eff : Firing → State → State → State} (hp : s.sch.cur.passes pd = true) (h : s.canSend s.sch.cur (r s.sch.cur s) = false) :
    s.sendsForm pd r fl eff = .next (s.putBack s.sch.cur) := by
  rw [State.sendsForm, State.fire_passed _ _ _ hp, State.finish_waits _ _ _ _ _ h]

/-- Whether a meaning is of that form with results of the lengths `l`. -/
def State.SendsLens (s : State) (pd : Pd) (l : List (Target × Nat)) (m : Result) : Prop :=
  ∃ r fl eff, m = s.sendsForm pd r fl eff ∧ zeroedSends (r s.sch.cur s) = l.map fun q => (q.1, Val.of q.2 0)

theorem State.intForm_sendsLens (s : State) (pd : Pd) (wide : Bool) (t1 t0 : Target) (o : Nat → Nat → Nat → Nat → Nat) :
    s.SendsLens pd [(t0, width wide / 8), (t1, width wide / 8)] (s.intForm pd wide t1 t0 o) :=
  ⟨_, _, _, rfl, rfl⟩

theorem State.immForm_sendsLens (s : State) (pd : Pd) (imm : BitVec 14) (t0 : Target) (o : Nat → Nat → Nat) :
    s.SendsLens pd [(t0, 4)] (s.immForm pd imm t0 o) :=
  ⟨_, _, _, rfl, rfl⟩

theorem State.floatForm_sendsLens (s : State) (pd : Pd) (t1 t0 : Target) (o : Nat → Nat → Nat → Nat × Flags) :
    s.SendsLens pd [(t0, 4), (t1, 4)] (s.floatForm pd t1 t0 o) :=
  ⟨_, _, _, rfl, rfl⟩

/-- An instruction with results of the lengths `l` is of that form, and its results have these lengths. -/
theorem exec_sendsLens {i : Instr} {s : State} {l : List (Target × Nat)} (h : resultsOf s i = some l) :
    s.SendsLens i.pd l (exec i s) := by
  cases i with
  | nop | mov | lit | lit32 | cmp | cvtifL | sysqDie | sysqReplica | sysqCtx | sx32 | zx32 | tagrd | sysqHandle | cyc =>
    cases h
    simp only [exec]
    exact ⟨_, _, _, rfl, rfl⟩
  | addi | andi | ori | xori =>
    cases h
    simp only [exec]
    exact s.immForm_sendsLens _ _ _ _
  | fadd | fsub | fmul | fdiv | fsqrt | ffma | fmin | fmax | fminm | fmaxm | fabs | fneg | fcmp | frcp | frsq | fexp2 | flog2 | fsin |
    fcos | frnd | cvtS | cvtH | cvtB | cvtfi | cvtif | fclass =>
    cases h
    simp only [exec]
    exact s.floatForm_sendsLens _ _ _ _
  | add | sub | mul | mulh | mulhu | div | divu | rem | remu | and | or | xor | andn | shl | shr | sra | rol | ror | min | max | minu |
    maxu | bfxu | bfxs | bfi | popc | clz | ctz | sel | neg | abs | sx8 | sx16 | zx8 | zx16 =>
    cases h
    simp only [exec]
    exact s.intForm_sendsLens _ _ _ _ _
  | _ => cases h

end Sys2Proof.Machine

section
open Sys2Proof Sys2Proof.Machine Sys2Proof.Claims

/-- Settles O13: the instruction sends at once, and what it sends is as unready as zeros of its lengths. -/
theorem unreadyFiringWaits : Obligations.UnreadyFiringWaits := by
  unfold Obligations.UnreadyFiringWaits
  intro i s l hp hl hready
  obtain ⟨r, fl, eff, hexec, hlens⟩ := exec_sendsLens hl
  rw [← hlens, State.canSend_zeroed] at hready
  rw [hexec, State.sendsForm_waits hp hready]
  rfl

end
end

section
/-!
PROOF of O28. The instructions on hold registers (R198, R199, R321) and END (R322): one lemma per outcome, then the statement.
-/

namespace Sys2Proof.Machine

open Claims

/-- A value of 8 bytes of the port is a word of 64 bits of it. -/
theorem ofNat_portL (s : State) : BitVec.ofNat 64 (s.sch.cur.l 8) = portL 64 s := by
  rw [← portL_toNat s 8]
  rw [BitVec.ofNat_toNat, BitVec.setWidth_eq]

/-! ## The instructions, by name -/

theorem exec_rdh (pd : Pd) (trap : Bool) (h : BitVec 5) (t0 : Target) (s : State) :
    exec (.rdh pd trap h t0) s = execRdh pd trap h t0 s := rfl

theorem exec_wrh (pd : Pd) (h : BitVec 5) (t0 : Target) (s : State) : exec (.wrh pd h t0) s = execWrh pd h t0 s := rfl

theorem exec_clrh (pd : Pd) (h : BitVec 5) (t0 : Target) (s : State) : exec (.clrh pd h t0) s = execClrh pd h t0 s := rfl

/-! ## The frame's slot -/

section
variable {s : State} {f : Firing} {i : Nat} {c : Cell} (hs : (s.cell f.cell).takeSlot f.region f.frm = some (i, c))
include hs

/-- A frame with a slot to take goes on in the state that has it taken. -/
theorem State.withSlot_taken (m : Nat → State → Result) : s.withSlot f m = m i (s.updCell f.cell fun _ => c) := by
  simp only [State.withSlot, hs]

/-- R199: a register of the frame can be written where it is not PENDING. -/
theorem State.holdReady_iff (h : Nat) : (s.cell f.cell).holdReady f.region f.frm h = true ↔ (c.hold i h).st ≠ .pending := by
  simp [Cell.holdReady, Cell.slotFree, hs, Cell.hold_takeSlot hs]

end

section
variable {s : State} {pd : Pd} {h : BitVec 5} {t0 : Target} {i : Nat} {c : Cell} (hp : s.sch.cur.passes pd = true)
  (hs : (s.cell s.sch.cur.cell).takeSlot s.sch.cur.region s.sch.cur.frm = some (i, c))
include hp hs

/-! ## RDH and TSTH -/

/-- A FULL register is read. -/
theorem rdh_full {trap : Bool} {q : HoldReg} (hq : ((s.updCell s.sch.cur.cell fun _ => c).cell s.sch.cur.cell).hold i h.toNat = q)
    (hst : q.st = .full) (hr : s.canSend s.sch.cur [(t0, val q.val)] = true) :
    exec (.rdh pd trap h t0) s =
      .next ((s.updCell s.sch.cur.cell fun _ => c).sendAll s.sch.cur s.sch.cur.acc.tag false [(t0, val q.val)]) := by
  rw [val_dword] at hr ⊢
  rw [exec_rdh, execRdh, State.fire_passed _ _ _ hp, State.withSlot_taken hs]
  simp only [hq, hst, if_true, hr]

/-- A register that is not FULL traps the frame, or its accord waits. -/
theorem rdh_notFull {trap : Bool} (hst : (((s.updCell s.sch.cur.cell fun _ => c).cell s.sch.cur.cell).hold i h.toNat).st ≠ .full) :
    exec (.rdh pd trap h t0) s = .next (if trap
      then (s.updCell s.sch.cur.cell fun _ => c).report s.sch.cur true .hempty (h.toNat + i * 256) else s.putBack s.sch.cur) := by
  rw [exec_rdh, execRdh, State.fire_passed _ _ _ hp, State.withSlot_taken hs]
  cases trap <;> simp only [if_neg hst, if_true, Bool.false_eq_true, if_false]

/-- Whether a register is FULL is sent, 1 or 0. -/
theorem tsth_sends {v : Dword}
    (hv : v = if (((s.updCell s.sch.cur.cell fun _ => c).cell s.sch.cur.cell).hold i h.toNat).st = .full then 1 else 0)
    (hr : s.canSend s.sch.cur [(t0, val v)] = true) :
    exec (.tsth pd h t0) s =
      .next ((s.updCell s.sch.cur.cell fun _ => c).sendAll s.sch.cur s.sch.cur.acc.tag false [(t0, val v)]) := by
  have hexec : exec (.tsth pd h t0) s = execTsth pd h t0 s := rfl
  have hbit : val v = Val.of 8
      (bitOf (decide ((((s.updCell s.sch.cur.cell fun _ => c).cell s.sch.cur.cell).hold i h.toNat).st = .full))) := by
    rw [hv, val_dword]
    split
    case isTrue hst => simp only [bitOf, hst, decide_true]; rfl
    case isFalse hst => simp only [bitOf, hst, decide_false]; rfl
  rw [hbit] at hr ⊢
  rw [hexec, execTsth, State.fire_passed _ _ _ hp, State.withSlot_taken hs]
  exact if_pos hr

/-! ## WRH and CLRH -/

/-- A register that is not PENDING becomes FULL with L, which is then sent. -/
theorem wrh_writes (hst : (c.hold i h.toNat).st ≠ .pending) (hr : s.canSend s.sch.cur [(t0, val (portL 64 s))] = true) :
    exec (.wrh pd h t0) s = .next ((s.updCell s.sch.cur.cell fun _ => c.setHold i h.toNat { st := .full, val := portL 64 s }).sendAll
      s.sch.cur s.sch.cur.acc.tag false [(t0, val (portL 64 s))]) := by
  have hready := (State.holdReady_iff hs h.toNat).mpr hst
  rw [val_dword, portL_toNat s 8] at hr ⊢
  rw [exec_wrh, execWrh, State.fire_passed _ _ _ hp, if_pos hready, State.finish_ready _ _ _ _ _ hr, State.raise_none, ofNat_portL]
  exact congrArg (fun u : State => Host.Outcome.next (u.sendAll _ _ _ _))
    (s.updCell_congr _ (Cell.writeHold_ready (portL 64 s) hs hready))

/-- A register that is not PENDING becomes EMPTY, and L is then sent. -/
theorem clrh_clears (hst : (c.hold i h.toNat).st ≠ .pending) (hr : s.canSend s.sch.cur [(t0, s.sch.cur.valL)] = true) :
    exec (.clrh pd h t0) s = .next ((s.updCell s.sch.cur.cell fun _ => c.setHold i h.toNat {}).sendAll
      s.sch.cur s.sch.cur.acc.tag false [(t0, s.sch.cur.valL)]) := by
  have hready := (State.holdReady_iff hs h.toNat).mpr hst
  rw [exec_clrh, execClrh, State.fire_passed _ _ _ hp, if_pos hready, State.finish_ready _ _ _ _ _ hr, State.raise_none]
  refine congrArg (fun u : State => Host.Outcome.next (u.sendAll _ _ _ _)) (s.updCell_congr _ ?_)
  simp only [hs]

/-- While the register is PENDING both wait. -/
theorem wrh_clrh_wait (hst : (c.hold i h.toNat).st = .pending) :
    exec (.wrh pd h t0) s = .next (s.putBack s.sch.cur) ∧ exec (.clrh pd h t0) s = .next (s.putBack s.sch.cur) := by
  have hready : ¬ (s.cell s.sch.cur.cell).holdReady s.sch.cur.region s.sch.cur.frm h.toNat = true :=
    fun hready => (State.holdReady_iff hs h.toNat).mp hready hst
  rw [exec_wrh, exec_clrh, execWrh, execClrh, State.fire_passed _ _ _ hp, State.fire_passed _ _ _ hp]
  exact ⟨if_neg hready, if_neg hready⟩

end

/-! ## END -/

/-- R322: END stops firing in its region while the region's trap set is empty, and otherwise waits. -/
theorem endRegion_stops {s : State} {pd : Pd} (hp : s.sch.cur.passes pd = true) :
    ((s.region s.sch.cur.region).trapSet = [] →
      exec (.endRegion pd) s = .next (s.updRegion s.sch.cur.region fun r => { r with ended := true })) ∧
    ((s.region s.sch.cur.region).trapSet ≠ [] → exec (.endRegion pd) s = .next (s.putBack s.sch.cur)) := by
  have hexec : exec (.endRegion pd) s = execEndRegion pd s := rfl
  rw [hexec, execEndRegion, State.fire_passed _ _ _ hp]
  exact ⟨fun h => if_pos (List.isEmpty_iff.mpr h), fun h => if_neg (mt List.isEmpty_iff.mp h)⟩

end Sys2Proof.Machine

section
open Sys2Proof Sys2Proof.Machine

/-- Settles O28: each clause is one of the rules above, on the frame's slot or the region's trap set. -/
theorem holdRegistersAndEnd : Obligations.HoldRegistersAndEnd := by
  unfold Obligations.HoldRegistersAndEnd
  intro pd trap h t0 s hp f
  refine ⟨?slot, endRegion_stops hp⟩
  case slot =>
    intro i c hs held q
    exact ⟨rdh_full hp hs rfl, fun hst => ⟨rdh_notFull hp hs hst, rdh_notFull hp hs hst⟩, fun v => tsth_sends hp hs,
      wrh_writes hp hs, clrh_clears hp hs, wrh_clrh_wait hp hs⟩

end
end

section
/-!
PROOF of O30. LDH (R199, R379), MNOP (R378) and the fences (R241, R244, R245, R382): one lemma per outcome, then the statement. That MNOP's
trap records L is the model's choice (log 35); that a fence waits for the cell's own stores whose values its frame has read from the cell
cache (R246), and for its contributions to trees (R389), is log 39.
-/

namespace Sys2Proof.Machine

open Claims

section
variable {s : State} {pd : Pd} {seq port h : BitVec 5} {pv nx : BitVec 2} {sc : Scope} {t1 t0 : Target} {b : Binding}
  (hp : s.sch.cur.passes pd = true)
include hp

/-- LDH makes its register PENDING and sends its access. -/
theorem ldh_issues {pool : Pool} {q : State} {i : Nat} {c : Cell} (hb : (s.region s.sch.cur.region).binding? port.toNat = some b)
    (hretry : s.retries s.sch.cur.cell < 32) (hcache : s.cacheWaits s.sch.cur b = false)
    (hready : (s.cell s.sch.cur.cell).holdReady s.sch.cur.region s.sch.cur.frm h.toNat = true)
    (hentry : s.takeEntry s.sch.cur.cell s.sch.cur.region = some (pool, q))
    (hslot : (q.cell s.sch.cur.cell).takeSlot s.sch.cur.region s.sch.cur.frm = some (i, c)) :
    exec (.ldh pd seq pv nx port h) s = .next ((q.updCell s.sch.cur.cell fun _ =>
      c.setHold i h.toNat { st := .pending }).sendAccess s.sch.cur b (s.rankOf s.sch.cur b.p seq.toNat) .discard (.ldh h)
      (portL 64 s).toNat pool) := by
  have hexec : exec (.ldh pd seq pv nx port h) s = execLdh pd seq pv nx port h s := rfl
  have hgo : ¬ (32 ≤ s.retries s.sch.cur.cell || s.cacheWaits s.sch.cur b ||
      !(s.cell s.sch.cur.cell).holdReady s.sch.cur.region s.sch.cur.frm h.toNat) = true := by
    simp [hcache, hready, hretry]
  rw [portL_toNat s 8]
  simp only [hexec, execLdh, hb, hp, Bool.not_true, Bool.false_eq_true, if_false, if_neg hgo, hentry]
  refine congrArg (fun u : State => Host.Outcome.next (u.sendAccess _ _ _ _ _ _ _)) (q.updCell_congr _ ?_)
  simp only [hslot]

/-! ## MNOP (R378) -/

omit hp in
theorem exec_mnop (pd : Pd) (seq : BitVec 5) (pv nx : BitVec 2) (port : BitVec 5) (t0 : Target) (s : State) :
    exec (.mnop pd seq pv nx port t0) s = execMnop pd seq pv nx port t0 s := rfl

/-- Whether MNOP refuses an operand: a reserved bit, no rank, or a rank that its binding of `count` ranks does not have. -/
def refusesMnop (v : Dword) (count : Nat) : Prop :=
  v.extractLsb' 6 2 ≠ 0 ∨ v.extractLsb' 14 50 ≠ 0 ∨ (v.extractLsb' 8 6).toNat < (v.extractLsb' 0 6).toNat ∨
    count ≤ (v.extractLsb' 8 6).toNat

omit hp in
/-- A field of L at 8 bytes is that of its number. -/
theorem bits_portL (s : State) (hi lo k : Nat) (h : hi + 1 - lo = k) :
    bits (s.sch.cur.l 8) hi lo = ((portL 64 s).extractLsb' lo k).toNat := by
  rw [← portL_toNat s 8]
  exact bits_toNat _ h

omit hp in
/-- What MNOP checks of L. -/
theorem refusesMnop_iff (s : State) (count : Nat) :
    (bits (s.sch.cur.l 8) 7 6 ≠ 0 || bits (s.sch.cur.l 8) 63 14 ≠ 0 || bits (s.sch.cur.l 8) 13 8 < bits (s.sch.cur.l 8) 5 0 ||
      count ≤ bits (s.sch.cur.l 8) 13 8) = true ↔ refusesMnop (portL 64 s) count := by
  simp only [bits_portL s 7 6 2 rfl, bits_portL s 63 14 50 rfl, bits_portL s 13 8 6 rfl, bits_portL s 5 0 6 rfl, refusesMnop,
    ne_eq, ← toNat_eq_zero_iff, Bool.or_eq_true, decide_eq_true_eq, or_assoc]

/-- An operand that R378 refuses traps. -/
theorem mnop_traps (hb : (s.region s.sch.cur.region).binding? port.toNat = some b)
    (h : refusesMnop (portL 64 s) (s.rankCount s.sch.cur b.p)) :
    exec (.mnop pd seq pv nx port t0) s = .next (s.report s.sch.cur true .trap (0x3FF7 + (portL 64 s).toNat * 2 ^ 32)) := by
  rw [exec_mnop, execMnop, State.fire_passed _ _ _ hp]
  simp only [hb, if_pos ((refusesMnop_iff s _).mpr h)]
  rw [← State.takeTrap_firing _ _ _ (by decide) (portL 64 s).isLt, portL_toNat s 8]

/-- MNOP sends one access that fills its ranks. -/
theorem mnop_issues {pool : Pool} {q : State} (hb : (s.region s.sch.cur.region).binding? port.toNat = some b)
    (hok : ¬ refusesMnop (portL 64 s) (s.rankCount s.sch.cur b.p)) (hretry : s.retries s.sch.cur.cell < 32)
    (hroom : s.canSend s.sch.cur [(t0, Val.of 4 0)] = true) (hentry : s.takeEntry s.sch.cur.cell s.sch.cur.region = some (pool, q)) :
    exec (.mnop pd seq pv nx port t0) s = .next ((q.reserve s.sch.cur [t0] 4).sendAccess s.sch.cur b
      ((portL 64 s).extractLsb' 0 6).toNat t0 (.mnop ((portL 64 s).extractLsb' 8 6).toNat) ((portL 64 s).extractLsb' 0 6).toNat
      pool) := by
  rw [exec_mnop, execMnop, State.fire_passed _ _ _ hp]
  simp only [hb, if_neg (mt (refusesMnop_iff s _).mp hok), if_neg (Nat.not_le.mpr hretry)]
  rw [s.startLate_entry q _ _ _ _ _ hroom hentry, bits_portL s 5 0 6 rfl, bits_portL s 13 8 6 rfl]

/-! ## Fences (R244, R382) -/

/-- A fence with ready targets holds the room of L's tokens and is put up. -/
theorem State.fenceForm_puts (k : FenceKind) (hr : s.canSend s.sch.cur (toBoth t0 t1 (Val.of s.sch.cur.valL.len 0)) = true) :
    s.fenceForm pd k sc t1 t0 =
      .next ((s.reserve s.sch.cur [t0, t1] s.sch.cur.valL.len).putFence s.sch.cur k sc [t0, t1] .send .none) := by
  rw [State.fenceForm, State.fire_passed _ _ _ hp]
  exact s.startLate_ready _ _ _ _ hr

end

end Sys2Proof.Machine

section
open Sys2Proof Sys2Proof.Machine

/-- Settles O30: the instructions' clauses are the rules above, and a fence's Before set is what R244 to R246 name. -/
theorem pendingLoadsAndFences : Obligations.PendingLoadsAndFences := by
  unfold Obligations.PendingLoadsAndFences
  intro pd seq pv nx port h sc t1 t0 s hp f
  refine ⟨fun b pool q i c hb hretry hcache hready hentry hslot => ldh_issues hp hb hretry hcache hready hentry hslot,
    fun b hb => ⟨mnop_traps hp hb, fun pool q hlow hhigh hle hlt hretry hroom hentry => ?mnop⟩,
    fun hr => ⟨State.fenceForm_puts hp .acq hr, State.fenceForm_puts hp .rel hr, State.fenceForm_puts hp .full hr⟩,
    fun k u l => ?before⟩
  case mnop =>
    refine mnop_issues hp hb (fun hno => ?_) hretry hroom hentry
    obtain hno | hno | hno | hno := hno
    · exact hno hlow
    · exact hno hhigh
    · exact absurd hno (Nat.not_lt.mpr hle)
    · exact absurd hno (Nat.not_le.mpr hlt)
  case before =>
    cases k <;> rfl

end
end

section
/-!
PROOF of O6. The word that `withFetchWord` places stands in slot 0 of the one window of the one cell, whose accord is chosen (log 8).
-/

namespace Sys2Proof.Machine

/-- The chosen firing's slot holds the word placed. -/
theorem fetch_withFetchWord (n w : Nat) (f : Firing) (hf : (State.reset.withFetchWord n w).sch.chosen = some f) :
    (State.reset.withFetchWord n w).fetch f = BitVec.ofNat 32 w := by
  cases hf
  have hcell : ((State.reset.withFetchWord n w).cell 0).windows = [(0, fetchWindow w)] := by
    dsimp only [State.cell, State.withFetchWord]
    rw [look_put_same]
    rfl
  rw [State.fetch]
  exact congrArg (fun l => (look {} l 0 : Window).words.getD 0 0) hcell

/-- A step carries out the chosen firing's word. -/
theorem step_chosen {s : State} {f : Firing} {i : Instr} (hf : s.sch.chosen = some f) (hd : decode (s.fetch f) = .ok i) :
    step s = exec i (s.begin f) := by
  simp only [step, hf, State.fireChosen, hd]

end Sys2Proof.Machine

section
open Sys2Proof Sys2Proof.Machine

/-- Settles O6: the word fetched is the word placed, and the step carries it out. -/
theorem placedWordRunsNext : Obligations.PlacedWordRunsNext := by
  unfold Obligations.PlacedWordRunsNext
  intro w i _ hd s
  exact ⟨_, rfl, rfl, step_chosen rfl ((congrArg decode (fetch_withFetchWord 32 w _ rfl)).trans hd)⟩

end
end

section
/-!
PROOF of O55. The steps of the port cores, home slices and host port (R203, R205, R218 to R221, R224, R226, R237, R238, R241, R253, R255,
R379): one lemma per outcome of each step, then the statement. That a refusal waits on its way while the retry buffer is full is the
model's choice (log 51), and so is that a store is the value of its line from its service at the home slice on (log 11).
-/

namespace Sys2Proof.Machine

theorem exec_memoryAccessArrival (s : State) : exec .memoryAccessArrival s = execMemoryAccessArrival s := rfl
theorem exec_heldAccessPerform (s : State) : exec .heldAccessPerform s = execHeldAccessPerform s := rfl
theorem exec_retryReissue (s : State) : exec .retryReissue s = execRetryReissue s := rfl
theorem exec_memoryResponse (s : State) : exec .memoryResponse s = execMemoryResponse s := rfl
theorem exec_homeSliceRequest (s : State) : exec .homeSliceRequest s = execHomeSliceRequest s := rfl
theorem exec_invalidationAck (s : State) : exec .invalidationAck s = execInvalidationAck s := rfl
theorem exec_atomicopCompletion (s : State) : exec .atomicopCompletion s = execAtomicopCompletion s := rfl
theorem exec_hostReadCompletion (s : State) : exec .hostReadCompletion s = execHostReadCompletion s := rfl
theorem exec_roundStart (s : State) : exec .roundStart s = execRoundStart s := rfl
theorem exec_readAhead (s : State) : exec .readAhead s = execReadAhead s := rfl
theorem exec_paramOverwrite (s : State) : exec .paramOverwrite s = execParamOverwrite s := rfl
theorem exec_tileFillStart (s : State) : exec .tileFillStart s = execTileFillStart s := rfl
theorem exec_tileRowLand (s : State) : exec .tileRowLand s = execTileRowLand s := rfl
theorem exec_tileDrainComplete (s : State) : exec .tileDrainComplete s = execTileDrainComplete s := rfl
theorem exec_spaceToken (s : State) : exec .spaceToken s = execSpaceToken s := rfl

/-! ## Arrival (R221) -/

section
variable {s : State} {a : Access} {w : Nat}

/-- An access without a position performs. -/
theorem State.arrival_free (h : a.wseq = none) : s.arrival a = .perform := by
  simp only [State.arrival, h]

/-- An access one of whose positions is taken is a duplicate. -/
theorem State.arrival_taken (hw : a.wseq = some w) (h : ∃ p, p ∈ a.positions ∧ s.taken a p = true) : s.arrival a = .duplicate := by
  simp only [State.arrival, hw, if_pos (List.any_eq_true.mpr h)]

section
variable (hw : a.wseq = some w) (h : ∀ p, p ∈ a.positions → s.taken a p = false)
include hw h

/-- An access with a position that is not taken performs at NEXTW, else is held where it can be, else refused. -/
theorem State.arrival_fresh : s.arrival a =
    if w = (s.wave a).nextw.toNat then .perform
    else if (w + 2 ^ 32 - (s.wave a).nextw.toNat) % 2 ^ 32 < 32 && s.windowFree a then .hold else .refuse := by
  have hfree : ¬ a.positions.any (s.taken a) = true := by simpa using h
  simp only [State.arrival, hw, if_neg hfree]

theorem State.arrival_next (hn : w = (s.wave a).nextw.toNat) : s.arrival a = .perform := by
  rw [State.arrival_fresh hw h, if_pos hn]

theorem State.arrival_held (hn : w ≠ (s.wave a).nextw.toNat) (hnear : (w + 2 ^ 32 - (s.wave a).nextw.toNat) % 2 ^ 32 < 32)
    (hfree : s.windowFree a = true) : s.arrival a = .hold := by
  rw [State.arrival_fresh hw h, if_neg hn, if_pos (by simp only [hnear, hfree, decide_true, Bool.and_self])]

theorem State.arrival_refused (hn : w ≠ (s.wave a).nextw.toNat)
    (hfar : 32 ≤ (w + 2 ^ 32 - (s.wave a).nextw.toNat) % 2 ^ 32 ∨ s.windowFree a = false) : s.arrival a = .refuse := by
  have hno : ¬ ((w + 2 ^ 32 - (s.wave a).nextw.toNat) % 2 ^ 32 < 32 && s.windowFree a) = true := by
    rw [Bool.and_eq_true, decide_eq_true_eq]
    rintro ⟨hnear, hfree⟩
    obtain hfar | hfar := hfar
    · exact Nat.not_lt.mpr hfar hnear
    · exact Bool.false_ne_true (hfar.symm.trans hfree)
  rw [State.arrival_fresh hw h, if_neg hn, if_neg hno]

end
end

section
variable {s : State} {a : Access} (ha : s.accessIn (· = .travel) = some a)
include ha

theorem memoryAccessArrival_arrives : exec .memoryAccessArrival s = .next (s.arrive a s.sch.args.flag) := by
  simp only [exec_memoryAccessArrival, execMemoryAccessArrival, ha]

theorem memoryAccessArrival_performs (h : s.arrival a = .perform) :
    exec .memoryAccessArrival s = .next (s.performAccess a s.sch.args.flag) := by
  simp only [memoryAccessArrival_arrives ha, State.arrive, h]

theorem memoryAccessArrival_duplicate (h : s.arrival a = .duplicate) : exec .memoryAccessArrival s = .next (s.duplicate a) := by
  simp only [memoryAccessArrival_arrives ha, State.arrive, h]

theorem memoryAccessArrival_holds (h : s.arrival a = .hold) :
    exec .memoryAccessArrival s = .next (s.updAccess a.id fun b => { b with phase := .held }) := by
  simp only [memoryAccessArrival_arrives ha, State.arrive, h]

/-- A refused access enters its cell's retry buffer where that has room. -/
theorem memoryAccessArrival_refused (h : s.arrival a = .refuse) (hroom : s.retries a.firing.cell < 32) :
    exec .memoryAccessArrival s = .next (s.updAccess a.id fun b => { b with phase := .retry false }) := by
  have hgo : ¬ s.refusalWaits a = true := by simp [State.refusalWaits, hroom]
  simp only [memoryAccessArrival_arrives ha, State.arrive, h, if_neg hgo]

/-- A refusal waits on its way while the retry buffer is full. -/
theorem memoryAccessArrival_waits (h : s.arrival a = .refuse) (hfull : 32 ≤ s.retries a.firing.cell) :
    exec .memoryAccessArrival s = .next s := by
  have hwait : s.refusalWaits a = true := by simp [State.refusalWaits, h, hfull]
  simp only [memoryAccessArrival_arrives ha, State.arrive, h, if_pos hwait]

end

/-! ## Held accesses, retries and responses -/

/-- A held access performs at NEXTW only. -/
theorem heldAccessPerform_held {s : State} {a : Access} (ha : s.accessIn (· = .held) = some a) :
    (a.wseq = some (s.wave a).nextw.toNat → exec .heldAccessPerform s = .next (s.performAccess a s.sch.args.flag)) ∧
    (a.wseq ≠ some (s.wave a).nextw.toNat → exec .heldAccessPerform s = .next s) := by
  simp only [exec_heldAccessPerform, execHeldAccessPerform, ha]
  exact ⟨fun h => by rw [if_pos h], fun h => by rw [if_neg h]⟩

theorem retryReissue_travels {s : State} {a : Access} (ha : s.accessIn (· = .retry true) = some a) :
    exec .retryReissue s = .next (s.updAccess a.id fun b => { b with phase := .travel }) := by
  simp only [exec_retryReissue, execRetryReissue, ha]

theorem memoryResponse_lands {s : State} {p : Response} (hf : s.sch.args.flag = false)
    (hp : s.responses.find? (fun p => p.id = s.sch.args.id) = some p) : exec .memoryResponse s = .next (s.landResponse p) := by
  simp only [exec_memoryResponse, execMemoryResponse, hf, Bool.false_eq_true, if_false, hp]

/-! ## Home slices and copies (R237, R241, R253) -/

/-- A system atomic writes. -/
theorem AccessOp.writes_of_isSystem {o : AccessOp} (h : o.isSystem = true) : o.writes = true := by
  cases o with
  | scas64 | scas128 | sadd | sswap => rfl
  | _ => cases h

/-- Whether an acknowledgement is outstanding for an access. -/
theorem any_access_iff {l : List Ack} {n : Nat} : l.any (fun k => k.access = n) = true ↔ ∃ k, k ∈ l ∧ k.access = n := by
  simp

section
variable {s : State} {a : Access} (ha : s.accessIn (· = .home) = some a)
include ha

/-- A line that proves uncorrectable, or whose home die is lost, faults the access. -/
theorem homeSliceRequest_faults (h : s.sch.args.flag = true ∨ s.dieUp (s.homeDie a.entry (a.entry.target a.va)) = false) :
    exec .homeSliceRequest s = .next (s.memFault a .memUe a.va 0xFF) := by
  have hue : (!s.dieUp (s.homeDie a.entry (a.entry.target a.va)) || s.sch.args.flag) = true := by
    rw [Bool.or_eq_true, Bool.not_eq_true']
    exact h.symm
  simp only [exec_homeSliceRequest, execHomeSliceRequest, ha, State.atHome, if_pos hue]

section
variable (hflag : s.sch.args.flag = false) (hup : s.dieUp (s.homeDie a.entry (a.entry.target a.va)) = true)
include hflag hup

/-- A load takes a copy. -/
theorem homeSliceRequest_loads (hr : a.op.writes = false) : exec .homeSliceRequest s = .next (s.performLoad a (a.core / 80)) := by
  simp only [exec_homeSliceRequest, execHomeSliceRequest, ha, State.atHome, hflag, hup, hr, Bool.not_true, Bool.or_self,
    Bool.false_eq_true, if_false, Bool.not_false, if_true]

/-- A write waits for the acknowledgements of its line. -/
theorem homeSliceRequest_waits (hw : a.op.writes = true) (hk : ∃ k, k ∈ s.acks ∧ k.access = a.id) :
    exec .homeSliceRequest s = .next s := by
  simp only [exec_homeSliceRequest, execHomeSliceRequest, ha, State.atHome, hflag, hup, hw, Bool.not_true, Bool.or_self,
    Bool.false_eq_true, if_false, if_pos (any_access_iff.mpr hk)]

/-- A store or an atomic of its cell takes the line and is performed. -/
theorem homeSliceRequest_writes (hw : a.op.writes = true) (hs : a.op.isSystem = false) (hk : ∀ k, k ∈ s.acks → k.access ≠ a.id) :
    let t := s.takeLine a.entry a.core (a.entry.target a.va) a.id
    let q := t.effect a (t.homeBytes a.entry (a.entry.target a.va) a.size)
    exec .homeSliceRequest s = .next (q.1.respond a q.2 none) := by
  have hnone : ¬ s.acks.any (fun k => k.access = a.id) = true := by simpa using hk
  simp only [exec_homeSliceRequest, execHomeSliceRequest, ha, State.atHome, hflag, hup, hw, hs, Bool.not_true, Bool.or_self,
    Bool.false_eq_true, if_false, if_neg hnone]

/-- A system atomic takes the home line and is performed once no other die holds a copy. -/
theorem homeSliceRequest_system (hs : a.op.isSystem = true) (hk : ∀ k, k ∈ s.acks → k.access ≠ a.id) :
    let t := s.takeHome a.entry (a.core / 80) (a.entry.target a.va) a.id
    let q := t.effect a (t.homeBytes a.entry (a.entry.target a.va) a.size)
    ((∃ k, k ∈ t.acks ∧ k.access = a.id) → exec .homeSliceRequest s = .next t) ∧
    ((∀ k, k ∈ t.acks → k.access ≠ a.id) → exec .homeSliceRequest s = .next (q.1.respond a q.2 none)) := by
  have hnone : ¬ s.acks.any (fun k => k.access = a.id) = true := by simpa using hk
  simp only [exec_homeSliceRequest, execHomeSliceRequest, ha, State.atHome, hflag, hup, AccessOp.writes_of_isSystem hs, hs,
    Bool.not_true, Bool.or_self, Bool.false_eq_true, if_false, if_true, if_neg hnone]
  refine ⟨fun h => by rw [if_pos (any_access_iff.mpr h)], fun h => ?_⟩
  rw [if_neg (mt any_access_iff.mp fun ⟨k, hmem, hid⟩ => h k hmem hid)]

end
end

/-- A list is one shorter without an element that it has. -/
theorem length_dropFirst {α : Type} {p : α → Bool} {l : List α} {x : α} (hx : x ∈ l) (hp : p x = true) :
    (dropFirst p l).length + 1 = l.length := by
  induction l with
  | nil => cases hx
  | cons y t ih =>
    cases hy : p y with
    | true => simp only [dropFirst, hy, if_true, List.length_cons]
    | false =>
      obtain rfl | hmem := List.mem_cons.mp hx
      · exact absurd hp (Bool.eq_false_iff.mp hy)
      · simp only [dropFirst, hy, Bool.false_eq_true, if_false, List.length_cons, ih hmem]

/-- An acknowledgement ends the stale copies of its line on its die. -/
theorem invalidationAck_ends {s : State} {k : Ack}
    (hk : s.acks.find? (fun k => k.access = s.sch.args.id && k.die = s.sch.args.die) = some k) :
    ∃ t, exec .invalidationAck s = .next t ∧ t.acks.length + 1 = s.acks.length ∧ t.mem = s.mem ∧ t.cells = s.cells ∧
      ∀ c, c ∈ t.caches ↔ c ∈ s.caches ∧ ¬ (c.line = k.line ∧ c.stale = true ∧ holderDie c.holder = k.die) := by
  have hexec : exec .invalidationAck s = .next { s with
      acks := dropFirst (fun q => q = k) s.acks
      caches := s.caches.filter (fun c => !(c.line = k.line && c.stale && holderDie c.holder = k.die)) } := by
    simp only [exec_invalidationAck, execInvalidationAck, hk]
  exact ⟨_, hexec, length_dropFirst (List.mem_of_find?_eq_some hk) (decide_eq_true rfl), rfl, rfl,
    fun c => by
      simp only [List.mem_filter, Bool.not_eq_true', ← Bool.not_eq_true, Bool.and_eq_true, decide_eq_true_eq, and_assoc]⟩

/-! ## The host port (R238, R253 to R255) -/

/-- The completer's answer to a system atomic. -/
theorem atomicopCompletion_answers {s : State} {a : Access} (ha : s.accessIn (· = .host) = some a) (hs : a.op.isSystem = true) :
    let q := s.effect a (s.hostRead (a.entry.target a.va) a.size)
    (s.sch.args.flag = true → exec .atomicopCompletion s = .next (s.memFault a .sysAtomicUnsup a.va 0xFF)) ∧
    (s.sch.args.flag = false → exec .atomicopCompletion s = .next (q.1.respond a q.2 none)) := by
  simp only [exec_atomicopCompletion, execAtomicopCompletion, ha, hs, Bool.not_true, Bool.false_eq_true, if_false]
  exact ⟨fun h => by rw [if_pos h], fun h => by rw [if_neg (Bool.eq_false_iff.mp h)]⟩

/-- The completion of another access on the host port; a store is posted in its region. -/
theorem hostReadCompletion_answers {s : State} {a : Access} (ha : s.accessIn (· = .host) = some a) (hs : a.op.isSystem = false) :
    let q := s.effect a (s.hostRead (a.entry.target a.va) a.size)
    let u := if a.op.writes then q.1.updRegion a.firing.region fun r => { r with posted := true } else q.1
    (s.sch.args.flag = true → exec .hostReadCompletion s = .next (s.memFault a .memUe a.va 0xFF)) ∧
    (s.sch.args.flag = false → exec .hostReadCompletion s = .next (u.respond a q.2 (u.lineFor a (a.core / 80)))) := by
  simp only [exec_hostReadCompletion, execHostReadCompletion, ha, hs, Bool.false_eq_true, if_false]
  exact ⟨fun h => by rw [if_pos h], fun h => by rw [if_neg (Bool.eq_false_iff.mp h)]⟩

/-- A snoop ends the copies of its host line, and leaves both memories. -/
theorem hostSnoop_ends (s : State) : ∃ t, exec .hostSnoop s = .next t ∧ t.mem = s.mem ∧ t.hostMem = s.hostMem ∧
    ∀ c, c ∈ t.caches ↔ c ∈ s.caches ∧ c.line ≠ 2 ^ 60 + s.sch.args.offset / 64 :=
  ⟨_, rfl, rfl, rfl, fun c => by simp [List.mem_filter]⟩

/-! ## Rounds and read-ahead (R218 to R220) -/

section
variable {s : State} {r : Region} {b : Binding} (hb : s.bindingArg = some (r, b))
include hb

/-- The next start token of an AGN that can start its round. -/
theorem roundStart_starts : (s.roundReady r b = true → exec .roundStart s = .next (s.startRound r b)) ∧
    (s.roundReady r b = false → exec .roundStart s = .next s) := by
  simp only [exec_roundStart, execRoundStart, hb]
  exact ⟨fun h => by rw [if_pos h], fun h => by rw [if_neg (Bool.eq_false_iff.mp h)]⟩

/-- The next element of an AGN that can read ahead. -/
theorem readAhead_reads : (s.aheadReady r b = true → exec .readAhead s = .next (s.readAheadOne r b s.sch.args.flag)) ∧
    (s.aheadReady r b = false → exec .readAhead s = .next s) := by
  simp only [exec_readAhead, execReadAhead, hb]
  exact ⟨fun h => by rw [if_pos h], fun h => by rw [if_neg (Bool.eq_false_iff.mp h)]⟩

/-- The next PARAM token of an AGN without a pending overwrite. -/
theorem paramOverwrite_takes {a : Accord} {t : List Accord} (hp : (s.agn r b).params = a :: t) :
    let v := BitVec.ofNat 64 ((a.l.getD {}).low 8)
    ((s.agn r b).pending = none → exec .paramOverwrite s = .next (s.updAgn r b fun g => { g with params := t, pending := some v })) ∧
    ((s.agn r b).pending ≠ none → exec .paramOverwrite s = .next s) := by
  simp only [exec_paramOverwrite, execParamOverwrite, hb, hp]
  exact ⟨fun h => by rw [h]; rfl, fun h => by rw [if_pos (Option.isSome_iff_ne_none.mpr h)]⟩

/-! ## Tile transfers (R203, R205, R224) -/

/-- With no waiting transfer of the number, the next tile of a round that can start it. -/
theorem tileFillStart_startsTile (hx : s.xfers.find? (fun x => x.id = s.sch.args.id && !x.begun) = none)
    (hr : s.tileReadyToStart r b = true) : exec .tileFillStart s = .next (s.startTile r b s.sch.args.flag) := by
  simp only [exec_tileFillStart, execTileFillStart, hx, hb, hr, if_true]

end

/-- The state in which the turn of a transfer's port core is its AGN's. -/
def State.turnTo (s : State) (x : Xfer) : State := s.updPort (s.xferCore x) fun c => { c with turn := (s.xferOf x).2.agn }

section
variable {s : State} {x : Xfer}

theorem tileFillStart_begins (hx : s.xfers.find? (fun x => x.id = s.sch.args.id && !x.begun) = some x) :
    exec .tileFillStart s = .next (s.beginXfer x) := by
  simp only [exec_tileFillStart, execTileFillStart, hx]

theorem tileRowLand_lands (hx : s.xfers.find? (fun x => x.id = s.sch.args.id && x.begun && !x.faulted && x.kind = .fill) = some x) :
    exec .tileRowLand s = .next ((s.turnTo x).landRow x s.sch.args.flag) := by
  simp only [exec_tileRowLand, execTileRowLand, hx, State.turnTo]

theorem tileDrainComplete_ends
    (hx : s.xfers.find? (fun x => x.id = s.sch.args.id && x.begun && !x.faulted && x.kind = .drain) = some x) :
    exec .tileDrainComplete s = .next ((s.turnTo x).endDrain x) := by
  simp only [exec_tileDrainComplete, execTileDrainComplete, hx, State.turnTo]

end

/-! ## The join unit (R226) -/

/-- What a join unit makes of a space token of a buffer with `goals` destinations: the last one frees the buffer. -/
def Agn.join (g : Agn) (buffer goals : Nat) : Agn :=
  let n := look 0 g.joins buffer + 1
  if goals ≤ n then { g with joins := put 0 buffer 0 g.joins, busyBufs := g.busyBufs.filter (· ≠ buffer) }
  else { g with joins := put 0 buffer n g.joins }

/-- A space token without a reply is counted by its binding's join unit. -/
theorem spaceToken_joins {s : State} {t : Space} {b : Binding} (ht : s.spaces.find? (fun t => t.id = s.sch.args.id) = some t)
    (hb : (s.region t.region).binding? t.port = some b) (hr : t.reply = none) :
    exec .spaceToken s = .next (({ s with spaces := dropFirst (fun q => q.id = t.id) s.spaces } : State).updAgn (s.region t.region) b
      fun g => g.join t.buffer b.dests.length) := by
  have hregion : (({ s with spaces := dropFirst (fun q => q.id = t.id) s.spaces } : State).region t.region).binding? t.port = some b := hb
  simp only [exec_spaceToken, execSpaceToken, ht, hregion, hr]
  rfl

end Sys2Proof.Machine

section
open Sys2Proof Sys2Proof.Machine

/-- Settles O55: each clause is one of the rules above, for the access, response, acknowledgement, binding, transfer or space token that the
step names. That a refusal waits while the retry buffer is full is log 51, and that a store takes effect at its home service log 11. -/
theorem portCoresAndHomeSlices : Obligations.PortCoresAndHomeSlices := by
  unfold Obligations.PortCoresAndHomeSlices
  intro s g
  refine ⟨fun a ha => ⟨fun hw => memoryAccessArrival_performs ha (State.arrival_free hw), fun w hw => ?arrival⟩,
    fun a => heldAccessPerform_held, fun a => retryReissue_travels, fun p => memoryResponse_lands, fun a ha => ?home,
    fun k => invalidationAck_ends, fun a => atomicopCompletion_answers, fun a => hostReadCompletion_answers, hostSnoop_ends s,
    fun r b hb => ?rounds, fun x => tileFillStart_begins, fun x => tileRowLand_lands, fun x => tileDrainComplete_ends,
    fun t b => spaceToken_joins⟩
  case arrival =>
    exact ⟨fun h => memoryAccessArrival_duplicate ha (State.arrival_taken hw h), fun h =>
      ⟨fun hn => memoryAccessArrival_performs ha (State.arrival_next hw h hn),
        fun hn hnear hfree => memoryAccessArrival_holds ha (State.arrival_held hw h hn hnear hfree), fun hn hfar =>
        ⟨memoryAccessArrival_refused ha (State.arrival_refused hw h hn hfar),
          memoryAccessArrival_waits ha (State.arrival_refused hw h hn hfar)⟩⟩⟩
  case home =>
    exact ⟨homeSliceRequest_faults ha, homeSliceRequest_loads ha, homeSliceRequest_writes ha, fun hflag hup hs =>
      ⟨homeSliceRequest_waits ha hflag hup (AccessOp.writes_of_isSystem hs), homeSliceRequest_system ha hflag hup hs⟩⟩
  case rounds =>
    obtain ⟨hstart, hnoStart⟩ := roundStart_starts hb
    obtain ⟨hahead, hnoAhead⟩ := readAhead_reads hb
    exact ⟨hstart, hnoStart, hahead, hnoAhead, fun a t => paramOverwrite_takes hb, tileFillStart_startsTile hb⟩

end
end

section
/-!
PROOF of O38. The entries of the tile table (R202, R204, R353 to R356) and the space tokens of a tile released (R226): one lemma per
outcome of each instruction, then the statement. That the trap of a bad entry or of a bank not owned carries field code 0xC0 or 0xC2 of
section 0 is the model's choice (log 36).
-/

namespace Sys2Proof.Machine

open Claims

/-! ## Operands and traps -/

/-- A field of a word from its number. -/
theorem ofNat_bits {w : Nat} (v : BitVec w) {hi lo n : Nat} (h : hi + 1 - lo = n) :
    BitVec.ofNat n (bits v.toNat hi lo) = v.extractLsb' lo n := by
  rw [bits_toNat v h, BitVec.ofNat_toNat, BitVec.setWidth_eq]

/-- A number in a word of 32 bits is a value of 4 bytes. -/
theorem val_word (n : Nat) : val (BitVec.ofNat 32 n) = Val.of 4 n := by
  rw [val, Val.of, BitVec.toNat_ofNat]

/-- R205: a shape trap of the firing without an offset. -/
theorem State.takeShape_firing (s : State) (kind : Nat) : s.takeShape s.sch.cur kind 0 = .next (shapeTrap s kind) := by
  simp [State.takeShape, shapeTrap]

/-- The entry that TDEF makes of L (R204, R353). -/
def tdefEntry (v : BitVec 128) : Tile :=
  { defined := true, tdef := true, bank := v.extractLsb' 124 2, fmt := v.extractLsb' 118 6, bs := v.getLsbD 117,
    base := v.extractLsb' 106 11, rows := v.extractLsb' 96 10, cols := v.extractLsb' 84 12, stride := v.extractLsb' 72 12 }

theorem tdefEntry_portL (s : State) : { Tile.ofWord (s.sch.cur.l 16) with tdef := true } = tdefEntry (portL 128 s) := by
  rw [← portL_toNat s 16]
  simp only [Tile.ofWord, tdefEntry, ofNat_bits (portL 128 s) (hi := 125) (lo := 124) rfl,
    ofNat_bits (portL 128 s) (hi := 123) (lo := 118) rfl, ofNat_bits (portL 128 s) (hi := 116) (lo := 106) rfl,
    ofNat_bits (portL 128 s) (hi := 105) (lo := 96) rfl, ofNat_bits (portL 128 s) (hi := 95) (lo := 84) rfl,
    ofNat_bits (portL 128 s) (hi := 83) (lo := 72) rfl, bit_toNat]

/-- Whether L is an entry that TDEF writes: its reserved bits and state 0, its format assigned, and the entry valid (R204, R353). -/
def Cell.takesTdef (c : Cell) (v : BitVec 128) : Prop :=
  v.extractLsb' 126 2 = 0 ∧ v.extractLsb' 0 72 = 0 ∧ fmtBits (tdefEntry v).fmt.toNat ≠ 0 ∧ c.tileValid (tdefEntry v) = true

/-- The low 72 bits are 0 where their two fields are. -/
theorem lowFields_zero (v : BitVec 128) : v.extractLsb' 0 72 = 0 ↔ v.extractLsb' 32 40 = 0 ∧ v.extractLsb' 0 32 = 0 := by
  simp only [← toNat_eq_zero_iff, BitVec.extractLsb'_toNat, Nat.shiftRight_eq_div_pow]
  omega

/-- What TDEF checks of L. -/
theorem takesTdef_iff (s : State) (c : Cell) :
    (bits (s.sch.cur.l 16) 127 126 ≠ 0 || bits (s.sch.cur.l 16) 71 32 ≠ 0 || bits (s.sch.cur.l 16) 31 0 ≠ 0 ||
      fmtBits (bits (s.sch.cur.l 16) 123 118) = 0 || !c.tileValid { Tile.ofWord (s.sch.cur.l 16) with tdef := true }) = true ↔
    ¬ c.takesTdef (portL 128 s) := by
  rw [tdefEntry_portL, Cell.takesTdef, lowFields_zero, ← portL_toNat s 16]
  simp only [bits_toNat (portL 128 s) (hi := 127) (lo := 126) rfl, bits_toNat (portL 128 s) (hi := 71) (lo := 32) rfl,
    bits_toNat (portL 128 s) (hi := 31) (lo := 0) rfl, bits_toNat (portL 128 s) (hi := 123) (lo := 118) rfl, tdefEntry, ne_eq,
    Bool.or_eq_true, decide_eq_true_eq, Bool.not_eq_true', ← toNat_eq_zero_iff]
  grind

/-! ## The table of R354 -/

/-- Whether TSET begins a transfer. -/
def goalMoves (goal : TileState) : Prop := goal = .filling ∨ goal = .draining

/-- Whether the mode of a tile's bank bars TSET (R354). -/
def Cell.barsTset (c : Cell) (t : Tile) (goal : TileState) : Prop :=
  (c.bank t.bank.toNat).mode = .cache ∨ (c.bank t.bank.toNat).mode = .fifo ∨ ((c.bank t.bank.toNat).mode = .compute ∧ goalMoves goal)

theorem barsTset_iff {c : Cell} {t : Tile} {goal : TileState} :
    ((c.bank t.bank.toNat).mode = .cache || (c.bank t.bank.toNat).mode = .fifo ||
      ((c.bank t.bank.toNat).mode = .compute && (goal = .filling || goal = .draining))) = true ↔ c.barsTset t goal := by
  simp [Cell.barsTset, goalMoves, or_assoc]

/-- Whether a tile is held from TSET: by an operation, or for a transfer by a BMODE of its bank (R202, R354). -/
def Cell.holdsTset (c : Cell) (j : Nat) (goal : TileState) : Prop :=
  c.engineHolds j = true ∨ (goalMoves goal ∧ c.tileBusy j = true)

theorem holdsTset_iff {c : Cell} {j : Nat} {goal : TileState} :
    (c.engineHolds j || ((goal = .filling || goal = .draining) && c.tileBusy j)) = true ↔ c.holdsTset j goal := by
  simp [Cell.holdsTset, goalMoves]

/-- A tile as TSET leaves it. -/
def State.tsetTile (s : State) (f : Firing) (j : Nat) (n : TileState) : State :=
  s.updCell f.cell fun c => c.updTile j fun t =>
    if n = .filling then { t with st := n, opened := true, otag := f.acc.tag, rowsIn := 0 }
    else { t with st := n, opened := decide (n = .draining) }

/-- A tile as PERMIT leaves it. -/
def State.emptyTile (s : State) (f : Firing) (j : Nat) : State :=
  s.updCell f.cell fun c => c.updTile j fun t => { t with st := .empty }

section
variable {goal st : TileState} {opened : Bool}

/-- TSET waits on FILLING and DRAINING tiles, but that EMPTY ends a drain that TSET began; it drains and fills no tile that is EMPTY or
READY already. -/
theorem tsetTo_none (h : st = .filling ∨ (st = .draining ∧ (goal ≠ .empty ∨ opened = false)) ∨ (st = .empty ∧ goal = .draining) ∨
    (st = .ready ∧ goal = .filling)) : tsetTo opened goal st = none := by
  obtain rfl | ⟨rfl, hgoal | rfl⟩ | ⟨rfl, rfl⟩ | ⟨rfl, rfl⟩ := h
  · cases goal <;> rfl
  · cases goal with
    | empty => exact absurd rfl hgoal
    | _ => rfl
  · cases goal <;> rfl
  · rfl
  · rfl

theorem tsetTo_empty (h : goal ≠ .draining) : tsetTo opened goal .empty = some goal := by
  cases goal with
  | draining => exact absurd rfl h
  | _ => rfl

theorem tsetTo_ends (hst : st = .draining) (hgoal : goal = .empty) (hopen : opened = true) : tsetTo opened goal st = some .empty := by
  rw [hst, hgoal, hopen]
  rfl

theorem tsetTo_ready (h : goal = .ready ∨ goal = .draining) : tsetTo opened goal .ready = some goal := by
  obtain rfl | rfl := h <;> rfl

end

/-! ## The instructions, by name -/

theorem exec_tdef (pd : Pd) (tile : BitVec 5) (t0 : Target) (s : State) : exec (.tdef pd tile t0) s = execTdef pd tile t0 s := rfl

theorem exec_tstate (pd : Pd) (tile : BitVec 5) (t0 : Target) (s : State) : exec (.tstate pd tile t0) s = execTstate pd tile t0 s := rfl

theorem exec_tset (pd : Pd) (goal : TileState) (tile : BitVec 5) (t0 : Target) (s : State) :
    exec (.tset pd goal tile t0) s = execTset pd goal tile t0 s := rfl

theorem exec_permit (pd : Pd) (tile : BitVec 5) (t0 : Target) (s : State) : exec (.permit pd tile t0) s = execPermit pd tile t0 s := rfl

section
variable {s : State} {pd : Pd} {tile : BitVec 5} {t0 : Target} (hp : s.sch.cur.passes pd = true)
include hp

/-! ## TDEF (R353) -/

/-- TDEF waits until its entry is EMPTY. -/
theorem tdef_waits (hst : ((s.cell s.sch.cur.cell).tile tile.toNat).st ≠ .empty) :
    exec (.tdef pd tile t0) s = .next (s.putBack s.sch.cur) := by
  rw [exec_tdef, execTdef, State.fire_passed _ _ _ hp]
  exact if_pos hst

section
variable (hst : ((s.cell s.sch.cur.cell).tile tile.toNat).st = .empty)
include hst

/-- A bad entry traps. -/
theorem tdef_bad (h : ¬ (s.cell s.sch.cur.cell).takesTdef (portL 128 s)) :
    exec (.tdef pd tile t0) s = .next (shapeTrap s 0xC0) := by
  rw [exec_tdef, execTdef, State.fire_passed _ _ _ hp, ← State.takeShape_firing]
  exact (if_neg (not_not.mpr hst)).trans (if_pos ((takesTdef_iff s _).mpr h))

section
variable (hv : (s.cell s.sch.cur.cell).takesTdef (portL 128 s))
include hv

/-- A good entry goes on to the check of its bank. -/
theorem tdef_good : exec (.tdef pd tile t0) s =
    if !(s.cell s.sch.cur.cell).ownsTile (tdefEntry (portL 128 s)) s.sch.cur.region then s.takeShape s.sch.cur 0xC2 0
    else s.finish s.sch.cur [(t0, Val.of 4 0)] 0 fun s' =>
      s'.updCell s.sch.cur.cell fun c => c.updTile tile.toNat fun _ => tdefEntry (portL 128 s) := by
  rw [exec_tdef, execTdef, State.fire_passed _ _ _ hp, ← tdefEntry_portL]
  exact (if_neg (not_not.mpr hst)).trans (if_neg (mt (takesTdef_iff s _).mp (not_not.mpr hv)))

/-- An entry on a bank not owned traps. -/
theorem tdef_notOwned (ho : (s.cell s.sch.cur.cell).ownsTile (tdefEntry (portL 128 s)) s.sch.cur.region = false) :
    exec (.tdef pd tile t0) s = .next (shapeTrap s 0xC2) := by
  rw [tdef_good hp hst hv, ho, State.takeShape_firing]
  rfl

/-- A good entry on a bank owned is written, and 0 is sent. -/
theorem tdef_writes (ho : (s.cell s.sch.cur.cell).ownsTile (tdefEntry (portL 128 s)) s.sch.cur.region = true)
    (hr : s.canSend s.sch.cur [(t0, Val.of 4 0)] = true) :
    exec (.tdef pd tile t0) s = .next ((s.updCell s.sch.cur.cell fun c => c.updTile tile.toNat fun _ => tdefEntry (portL 128 s)).sendAll
      s.sch.cur s.sch.cur.acc.tag false [(t0, Val.of 4 0)]) := by
  rw [tdef_good hp hst hv, ho, Bool.not_true, if_neg Bool.false_ne_true, State.finish_ready _ _ _ _ _ hr, State.raise_none]

end
end

/-! ## TSTATE (R355) -/

/-- TSTATE sends STATE and ROWSIN. -/
theorem tstate_sends {v : Val} {t : Tile} (ht : (s.cell s.sch.cur.cell).tile tile.toNat = t)
    (hv : v = Val.of 4 (tileCode t.st + t.rowsIn.toNat * 2 ^ 16)) (hr : s.canSend s.sch.cur [(t0, Val.of 4 0)] = true) :
    exec (.tstate pd tile t0) s = .next (s.sendAll s.sch.cur s.sch.cur.acc.tag false [(t0, v)]) := by
  subst ht hv
  rw [exec_tstate, execTstate, State.fire_passed _ _ _ hp]
  refine (State.finish_ready _ _ _ _ _ ?_).trans (by rw [State.raise_none]; rfl)
  rw [← State.canSend_zeroed]
  exact hr

/-! ## TSET (R354) -/

section
variable {goal : TileState} (ho : (s.cell s.sch.cur.cell).ownsTile ((s.cell s.sch.cur.cell).tile tile.toNat) s.sch.cur.region = true)
include ho

/-- A tile on a bank in a mode that bars the move traps. -/
theorem tset_barred (hm : (s.cell s.sch.cur.cell).barsTset ((s.cell s.sch.cur.cell).tile tile.toNat) goal) :
    exec (.tset pd goal tile t0) s = .next (shapeTrap s 0x40) := by
  rw [exec_tset, execTset, State.fire_passed _ _ _ hp, ← State.takeShape_firing]
  exact (if_neg (by simp [ho])).trans (if_pos (barsTset_iff.mpr hm))

section
variable (hm : ¬ (s.cell s.sch.cur.cell).barsTset ((s.cell s.sch.cur.cell).tile tile.toNat) goal)
include hm

/-- A tile that is held waits. -/
theorem tset_held (hh : (s.cell s.sch.cur.cell).holdsTset tile.toNat goal) :
    exec (.tset pd goal tile t0) s = .next (s.putBack s.sch.cur) := by
  rw [exec_tset, execTset, State.fire_passed _ _ _ hp]
  exact (if_neg (by simp [ho])).trans ((if_neg (mt barsTset_iff.mp hm)).trans (if_pos (holdsTset_iff.mpr hh)))

section
variable (hh : ¬ (s.cell s.sch.cur.cell).holdsTset tile.toNat goal)
include hh

/-- A state from which the table of R354 has no way waits. -/
theorem tset_waits
    (hn : tsetTo ((s.cell s.sch.cur.cell).tile tile.toNat).opened goal ((s.cell s.sch.cur.cell).tile tile.toNat).st = none) :
    exec (.tset pd goal tile t0) s = .next (s.putBack s.sch.cur) := by
  rw [exec_tset, execTset, State.fire_passed _ _ _ hp]
  refine (if_neg (by simp [ho])).trans ((if_neg (mt barsTset_iff.mp hm)).trans ((if_neg (mt holdsTset_iff.mp hh)).trans ?_))
  simp only [hn]

/-- Otherwise the tile moves, and leaves its space tokens where it was READY and becomes EMPTY (R226); 0 is sent. -/
theorem tset_done {n : TileState}
    (hn : tsetTo ((s.cell s.sch.cur.cell).tile tile.toNat).opened goal ((s.cell s.sch.cur.cell).tile tile.toNat).st = some n)
    (hr : s.canSend s.sch.cur [(t0, Val.of 4 0)] = true) :
    exec (.tset pd goal tile t0) s = .next ((if ((s.cell s.sch.cur.cell).tile tile.toNat).st = .ready && n = .empty
      then (s.tsetTile s.sch.cur tile.toNat n).sendSpaces s.sch.cur none (s.destsOf s.sch.cur.region s.sch.cur.x s.sch.cur.y tile.toNat)
      else s.tsetTile s.sch.cur tile.toNat n).sendAll s.sch.cur s.sch.cur.acc.tag false [(t0, Val.of 4 0)]) := by
  rw [exec_tset, execTset, State.fire_passed _ _ _ hp]
  refine (if_neg (by simp [ho])).trans ((if_neg (mt barsTset_iff.mp hm)).trans ((if_neg (mt holdsTset_iff.mp hh)).trans ?_))
  simp only [hn]
  rw [State.finish_ready _ _ _ _ _ hr, State.raise_none]
  rfl

/-- A tile that was not READY, or does not become EMPTY, moves alone. -/
theorem tset_moves {n : TileState}
    (hn : tsetTo ((s.cell s.sch.cur.cell).tile tile.toNat).opened goal ((s.cell s.sch.cur.cell).tile tile.toNat).st = some n)
    (hstay : ((s.cell s.sch.cur.cell).tile tile.toNat).st ≠ .ready ∨ n ≠ .empty) (hr : s.canSend s.sch.cur [(t0, Val.of 4 0)] = true) :
    exec (.tset pd goal tile t0) s =
      .next ((s.tsetTile s.sch.cur tile.toNat n).sendAll s.sch.cur s.sch.cur.acc.tag false [(t0, Val.of 4 0)]) := by
  rw [tset_done hp ho hm hh hn hr, if_neg (by simpa [imp_iff_not_or] using hstay)]

/-- A READY tile becomes EMPTY. -/
theorem tset_empties (hst : ((s.cell s.sch.cur.cell).tile tile.toNat).st = .ready) (hgoal : goal = .empty)
    (hr : s.canSend s.sch.cur [(t0, Val.of 4 0)] = true) :
    exec (.tset pd goal tile t0) s = .next (((s.tsetTile s.sch.cur tile.toNat .empty).sendSpaces s.sch.cur none
      (s.destsOf s.sch.cur.region s.sch.cur.x s.sch.cur.y tile.toNat)).sendAll s.sch.cur s.sch.cur.acc.tag false
      [(t0, Val.of 4 0)]) := by
  have hn : tsetTo ((s.cell s.sch.cur.cell).tile tile.toNat).opened goal ((s.cell s.sch.cur.cell).tile tile.toNat).st = some .empty := by
    rw [hst, hgoal]
    rfl
  rw [tset_done hp ho hm hh hn hr, if_pos (by simp [hst])]

end
end

/-! ## PERMIT (R356) -/

omit goal in
/-- PERMIT waits until its tile is READY and held by nothing. -/
theorem permit_waits (h : ((s.cell s.sch.cur.cell).tile tile.toNat).st ≠ .ready ∨ (s.cell s.sch.cur.cell).engineHolds tile.toNat = true) :
    exec (.permit pd tile t0) s = .next (s.putBack s.sch.cur) := by
  have hfree : (!(s.cell s.sch.cur.cell).tileFree tile.toNat) = true := by
    rw [Bool.not_eq_true', Cell.tileFree, Bool.and_eq_false_iff, Bool.not_eq_false', decide_eq_false_iff_not]
    exact h
  rw [exec_permit, execPermit, State.fire_passed _ _ _ hp]
  exact (if_neg (by simp [ho])).trans (if_pos hfree)

section
variable (hheld : (s.cell s.sch.cur.cell).engineHolds tile.toNat = false) (hst : ((s.cell s.sch.cur.cell).tile tile.toNat).st = .ready)
  (hr : s.canSend s.sch.cur [(t0, Val.of 4 0)] = true)
include hheld hst hr

/-- A tile that is no destination becomes EMPTY, and 0 is sent at once. -/
theorem permit_sends (hd : s.destsOf s.sch.cur.region s.sch.cur.x s.sch.cur.y tile.toNat = []) :
    exec (.permit pd tile t0) s =
      .next ((s.emptyTile s.sch.cur tile.toNat).sendAll s.sch.cur s.sch.cur.acc.tag false [(t0, Val.of 4 0)]) := by
  rw [exec_permit, execPermit, State.fire_passed _ _ _ hp]
  refine (if_neg (by simp [ho])).trans ((if_neg (by simp [Cell.tileFree, hheld, hst])).trans ?_)
  simp only [hd]
  rw [State.finish_ready _ _ _ _ _ hr, State.raise_none]
  rfl

/-- A destination tile becomes EMPTY and leaves its space tokens, of which the last one replies (R226). -/
theorem permit_asks (hd : s.destsOf s.sch.cur.region s.sch.cur.x s.sch.cur.y tile.toNat ≠ []) :
    exec (.permit pd tile t0) s = .next (((s.reserve s.sch.cur [t0] 4).emptyTile s.sch.cur tile.toNat).sendSpaces s.sch.cur
      (some (s.sch.cur, [t0])) (s.destsOf s.sch.cur.region s.sch.cur.x s.sch.cur.y tile.toNat)) := by
  rw [exec_permit, execPermit, State.fire_passed _ _ _ hp]
  refine (if_neg (by simp [ho])).trans ((if_neg (by simp [Cell.tileFree, hheld, hst])).trans ?_)
  dsimp only
  split
  case h_1 hnil => exact absurd hnil hd
  case h_2 => exact State.startLate_ready _ _ [t0] 4 _ hr

end
end

/-- TSET and PERMIT of a tile on a bank not owned trap. -/
theorem tset_permit_notOwned {goal : TileState}
    (ho : (s.cell s.sch.cur.cell).ownsTile ((s.cell s.sch.cur.cell).tile tile.toNat) s.sch.cur.region = false) :
    exec (.tset pd goal tile t0) s = .next (shapeTrap s 0xC2) ∧ exec (.permit pd tile t0) s = .next (shapeTrap s 0xC2) := by
  rw [exec_tset, exec_permit, execTset, execPermit, State.fire_passed _ _ _ hp, State.fire_passed _ _ _ hp, ← State.takeShape_firing]
  exact ⟨if_pos (by simp [ho]), if_pos (by simp [ho])⟩

end

/-! ## Space tokens (R226) -/

/-- Space tokens put on their way under the next numbers. -/
def State.withSpaces (s : State) (ts : List Space) : State :=
  { s with spaces := s.spaces ++ ts, sch := { s.sch with nextId := s.sch.nextId + ts.length } }

theorem State.withSpaces_append (s : State) (l m : List Space) : (s.withSpaces l).withSpaces m = s.withSpaces (l ++ m) := by
  simp only [State.withSpaces, List.append_assoc, List.length_append, Nat.add_assoc]

/-- The space tokens of a tile: one to each binding's join unit, under the firing's tag, the last with the reply. -/
theorem State.sendSpaces_tokens (f : Firing) (reply : Option (Firing × List Target)) (l : List (Nat × Nat)) (s : State) :
    ∃ ts, s.sendSpaces f reply l = s.withSpaces ts ∧ ts.map (fun q => (q.port, q.buffer)) = l ∧
      ts.map (fun q => q.reply) = (l.drop 1).map (fun _ => none) ++ (l.take 1).map (fun _ => reply) ∧
      ∀ q ∈ ts, q.region = f.region ∧ q.tag = f.acc.tag := by
  induction l generalizing s with
  | nil => exact ⟨[], by simp [State.sendSpaces, State.withSpaces], rfl, rfl, by simp⟩
  | cons p t ih =>
    let one : Option (Firing × List Target) → Space := fun r =>
      { id := s.sch.nextId, region := f.region, port := p.1, buffer := p.2, tag := f.acc.tag, reply := r }
    have hone : ∀ r, s.sendSpace f p.1 p.2 r = s.withSpaces [one r] := fun _ => rfl
    cases t with
    | nil => exact ⟨[one reply], hone reply, rfl, rfl, by simp [one]⟩
    | cons q u =>
      obtain ⟨ts, hts, hplaces, hreplies, hall⟩ := ih (s.sendSpace f p.1 p.2 none)
      refine ⟨one none :: ts, ?_, congrArg (p :: ·) hplaces, ?_, List.forall_mem_cons.mpr ⟨⟨rfl, rfl⟩, hall⟩⟩
      · rw [State.sendSpaces, hts, hone, State.withSpaces_append, List.singleton_append]
        simp
      · rw [List.map_cons, hreplies]
        rfl

end Sys2Proof.Machine

section
open Sys2Proof Sys2Proof.Machine

/-- Settles O38: each clause is one of the rules above. The field codes of the traps rest on log 36. -/
theorem tileEntries : Obligations.TileEntries := by
  unfold Obligations.TileEntries
  refine ⟨fun pd goal tile t0 s hp => ?instructions, fun s f reply l => ?spaces⟩
  case instructions =>
    intro f c j t v e good set zero goals m moves barred held waits
    refine ⟨tdef_waits hp, tdef_bad hp, tdef_notOwned hp, fun hr => ⟨fun hst hv ho => tdef_writes hp hst hv ho hr, ?tstate,
      fun ho hm hh => ?tset, fun ho hheld hst => ⟨permit_sends hp ho hheld hst hr, permit_asks hp ho hheld hst hr⟩⟩,
      fun ho => ⟨tset_barred hp ho, fun hm h => ?wait, permit_waits hp ho⟩, tset_permit_notOwned hp⟩
    case tstate =>
      refine tstate_sends hp rfl ?_ hr
      rw [val_word, Nat.mul_comm 65536]
      rfl
    case tset =>
      exact ⟨fun hst hgoal => tset_moves hp ho hm hh (hst ▸ tsetTo_empty hgoal) (.inl (hst.trans_ne (by decide))) hr,
        fun hst hgoal => tset_moves hp ho hm hh (hst ▸ tsetTo_ready hgoal) (.inr (by rintro rfl; simp at hgoal)) hr,
        fun hst hgoal => tset_empties hp ho hm hh hst hgoal hr,
        fun hst hgoal hopen => tset_moves hp ho hm hh (tsetTo_ends hst hgoal hopen) (.inl (hst.trans_ne (by decide))) hr⟩
    case wait =>
      by_cases hh : held
      · exact tset_held hp ho hm hh
      · exact tset_waits hp ho hm hh (tsetTo_none (h.resolve_left hh))
  case spaces =>
    obtain ⟨ts, hts, hplaces, hreplies, hall⟩ := State.sendSpaces_tokens f reply l s
    have hlen : l.length = ts.length := by rw [← hplaces, List.length_map]
    exact ⟨ts, hlen ▸ hts, hplaces, hreplies, hall⟩

end
end

section
/-!
PROOF of O39. The tile engine's operations as they start (R357 to R359, R364, R365, R373) and BMODE (R201, R202, R360): one lemma per
outcome, the shapes and operands that each asks for, and what the change of a map does to banks and tiles. The order of the checks is the
model's choice (log 35), and so are that BMODE begins once (log 31) and the section of a shape trap (log 36).
-/

namespace Sys2Proof.Machine

open Claims

/-! ## Starting the engine (R357) -/

/-- The state in which an operation is in the tile engine, with room held for its completion token. -/
def State.engineStarted (s : State) (f : Firing) (op : EngineOp) : State :=
  (s.reserve f op.targets 4).updCell f.cell fun c => { c with engine := some op }

theorem State.startEngine_ready {s : State} {f : Firing} {op : EngineOp} (hr : s.canSend f (later op.targets 4) = true) :
    s.startEngine f op = .next (s.engineStarted f op) :=
  s.startLate_ready f _ _ _ hr

/-- A trap of the firing with a code and a 64-bit operand. -/
theorem State.takeTrap_with (s : State) {code operand : Nat} (hc : code < 2 ^ 32) (ho : operand < 2 ^ 64) :
    s.takeTrap s.sch.cur .trap code operand = .next (trapWith s code operand) :=
  s.takeTrap_firing _ _ hc ho

/-- Port L as the operand of a trap. -/
theorem State.takeTrap_portL (s : State) {code : Nat} (hc : code < 2 ^ 32) :
    s.takeTrap s.sch.cur .trap code (s.sch.cur.l 8) = .next (trapWith s code (portL 64 s).toNat) := by
  rw [portL_toNat s 8]
  exact s.takeTrap_with hc (portL_toNat s 8 ▸ (portL 64 s).isLt)

/-! ## Shapes and operands -/

/-- R358. -/
theorem transShape_iff {d a : Tile} {same : Prop} [Decidable same] : transShape d a same = true ↔
    d.nrows = a.ncols ∧ d.ncols = a.nrows ∧ d.fmt = a.fmt ∧ d.bs = false ∧ a.bs = false ∧ (same → a.nrows = a.ncols) := by
  simp [transShape, and_assoc, or_iff_not_imp_left]

/-- R359: the shapes of a pooling instruction. -/
def poolsTiles (td ta tb : BitVec 5) (d a b : Tile) : Prop :=
  td ≠ ta ∧ td ≠ tb ∧ fmtBits a.fmt.toNat ≠ 0 ∧ a.fmt ≠ 8 ∧ b.fmt = 4 ∧ b.nrows = a.nrows ∧ b.ncols = (a.ncols + 7) / 8 ∧
  d.fmt = 0 ∧ d.bs = false ∧ d.nrows = a.nrows ∧ d.ncols = 2 * a.ncols

theorem poolsTiles_iff {td ta tb : BitVec 5} {d a b : Tile} :
    (td = ta || td = tb || !poolShape d a b) = true ↔ ¬ poolsTiles td ta tb d a b := by
  have hshape : poolShape d a b = true ↔ fmtBits a.fmt.toNat ≠ 0 ∧ a.fmt ≠ 8 ∧ b.fmt = 4 ∧ b.nrows = a.nrows ∧
      b.ncols = (a.ncols + 7) / 8 ∧ d.fmt = 0 ∧ d.bs = false ∧ d.nrows = a.nrows ∧ d.ncols = 2 * a.ncols := by
    have hcols : ceilDiv a.ncols 8 = (a.ncols + 7) / 8 := rfl
    simp [poolShape, hcols, and_assoc]
  rw [poolsTiles, ← hshape]
  simp only [Bool.or_eq_true, decide_eq_true_eq, Bool.not_eq_true', ne_eq, not_and_or, not_not, Bool.not_eq_true, or_assoc]

/-- R359: whether a pooling instruction takes L. -/
def poolsArg (v : Dword) : Prop :=
  v.extractLsb' 16 48 = 0 ∧ v.extractLsb' 4 4 = 0 ∧ 1 ≤ (v.extractLsb' 8 8).toNat ∧ (v.extractLsb' 8 8).toNat ≤ 49

theorem poolsArg_iff (s : State) :
    (bits (s.sch.cur.l 8) 63 16 ≠ 0 || bits (s.sch.cur.l 8) 7 4 ≠ 0 || bits (s.sch.cur.l 8) 15 8 = 0 || 49 < bits (s.sch.cur.l 8) 15 8)
      = true ↔ ¬ poolsArg (portL 64 s) := by
  simp only [bits_portL s 63 16 48 rfl, bits_portL s 7 4 4 rfl, bits_portL s 15 8 8 rfl, poolsArg, ne_eq, ← toNat_eq_zero_iff,
    Bool.or_eq_true, decide_eq_true_eq]
  omega

/-- R364: whether BLOAD takes L for a tile. -/
def loadsArg (v : Dword) (d : Tile) : Prop :=
  v.extractLsb' 0 16 = 0 ∧ v.extractLsb' 22 42 = 0 ∧ (v.extractLsb' 16 6).toNat < d.nrows

theorem loadsArg_iff (s : State) (d : Tile) :
    (s.sch.cur.l 8 % 2 ^ 16 ≠ 0 || bits (s.sch.cur.l 8) 63 22 ≠ 0 || d.nrows ≤ bits (s.sch.cur.l 8) 21 16) = true ↔
      ¬ loadsArg (portL 64 s) d := by
  have hlow : s.sch.cur.l 8 % 2 ^ 16 = bits (s.sch.cur.l 8) 15 0 := by simp [bits]
  simp only [hlow, bits_portL s 15 0 16 rfl, bits_portL s 63 22 42 rfl, bits_portL s 21 16 6 rfl, loadsArg, ne_eq,
    ← toNat_eq_zero_iff, Bool.or_eq_true, decide_eq_true_eq]
  omega

/-- R364: whether the tiles suit BLOAD. -/
def Cell.suitsBload (c : Cell) (d a : Tile) : Prop := c.computeTile d = true ∧ c.sourceTile a c.fmt.bfmt = true ∧ a.nrows ≤ 32

theorem suitsBload_iff {c : Cell} {d a : Tile} :
    (!c.computeTile d || !c.sourceTile a c.fmt.bfmt || 32 < a.nrows) = true ↔ ¬ c.suitsBload d a := by
  simp only [Cell.suitsBload, Bool.or_eq_true, Bool.not_eq_true', decide_eq_true_eq, not_and_or, Bool.not_eq_true, not_le, or_assoc]

/-- R373: a tile that is READY, or on a bank no longer owned, lets its accord go on. -/
theorem Cell.tileGo_of_ready {c : Cell} {region j : Nat} (h : c.tileReady j = true) : c.tileGo region j = true := by
  simp [Cell.tileGo, h]

theorem Cell.tileGo_of_owned {c : Cell} {region j : Nat} (ho : c.ownsTile (c.tile j) region = true) (h : c.tileReady j = false) :
    c.tileGo region j = false := by
  simp [Cell.tileGo, ho, h]

/-! ## The instructions, by name -/

theorem exec_vtrans (pd : Pd) (td ta : BitVec 5) (ct : Completion) (s : State) :
    exec (.vtrans pd td ta ct) s = execVtrans pd td ta ct s := rfl

theorem exec_bload (pd : Pd) (td ta : BitVec 5) (ct : Completion) (s : State) :
    exec (.bload pd td ta ct) s = execBload pd td ta ct s := rfl

theorem exec_binv (pd : Pd) (td : BitVec 5) (t0 : Target) (s : State) : exec (.binv pd td t0) s = execBinv pd td t0 s := rfl

theorem exec_bmode (pd : Pd) (bank : BitVec 2) (m : BankMode) (intlv : Bool) (t0 : Target) (s : State) :
    exec (.bmode pd bank m intlv t0) s = execBmode pd bank m intlv t0 s := rfl

section
variable {s : State} {pd : Pd} {td ta tb : BitVec 5} {ct : Completion} {t0 : Target} (hp : s.sch.cur.passes pd = true)
include hp

/-! ## VTRANS (R358) -/

theorem vtrans_waits (h : (s.cell s.sch.cur.cell).engine.isSome = true ∨ (s.cell s.sch.cur.cell).tileReady td.toNat = false ∨
      (s.cell s.sch.cur.cell).tileReady ta.toNat = false) :
    exec (.vtrans pd td ta ct) s = .next (s.putBack s.sch.cur) := by
  rw [exec_vtrans, execVtrans, State.fire_passed _ _ _ hp]
  exact if_pos (by simpa [or_assoc] using h)

section
variable (he : (s.cell s.sch.cur.cell).engine = none) (hd : (s.cell s.sch.cur.cell).tileReady td.toNat = true)
include he hd

section
variable (ha : (s.cell s.sch.cur.cell).tileReady ta.toNat = true)
include ha

theorem vtrans_traps (h : ¬ transShape ((s.cell s.sch.cur.cell).tile td.toNat) ((s.cell s.sch.cur.cell).tile ta.toNat) (td = ta) = true) :
    exec (.vtrans pd td ta ct) s = .next (shapeTrap s 0xC1) := by
  rw [exec_vtrans, execVtrans, State.fire_passed _ _ _ hp, ← State.takeShape_firing]
  exact (if_neg (by simp [he, hd, ha])).trans (if_pos (by simpa using h))

theorem vtrans_starts (h : transShape ((s.cell s.sch.cur.cell).tile td.toNat) ((s.cell s.sch.cur.cell).tile ta.toNat) (td = ta) = true)
    (hr : s.canSend s.sch.cur (later (ctTargets ct) 4) = true) :
    exec (.vtrans pd td ta ct) s = .next (s.engineStarted s.sch.cur
      { kind := .trans, td := td.toNat, ta := ta.toNat, targets := ctTargets ct, firing := s.sch.cur }) := by
  rw [exec_vtrans, execVtrans, State.fire_passed _ _ _ hp]
  exact (if_neg (by simp [he, hd, ha])).trans ((if_neg (by simp [h])).trans (State.startEngine_ready hr))

end
end

/-! ## Pooling (R359) -/

theorem State.poolForm_waits (k : EngineKind) (h : (s.cell s.sch.cur.cell).engine.isSome = true ∨
      (s.cell s.sch.cur.cell).tileReady td.toNat = false ∨ (s.cell s.sch.cur.cell).tileReady ta.toNat = false ∨
      (s.cell s.sch.cur.cell).tileReady tb.toNat = false) :
    s.poolForm pd td ta tb ct k = .next (s.putBack s.sch.cur) := by
  rw [State.poolForm, State.fire_passed _ _ _ hp]
  exact if_pos (by simpa [or_assoc] using h)

section
variable (k : EngineKind) (he : (s.cell s.sch.cur.cell).engine = none) (hd : (s.cell s.sch.cur.cell).tileReady td.toNat = true)
  (ha : (s.cell s.sch.cur.cell).tileReady ta.toNat = true) (hb : (s.cell s.sch.cur.cell).tileReady tb.toNat = true)
include he hd ha hb

/-- An operand that R359 refuses traps. -/
theorem State.poolForm_badArg (h : ¬ poolsArg (portL 64 s)) :
    s.poolForm pd td ta tb ct k = .next (trapWith s 0x3FF4 (portL 64 s).toNat) := by
  rw [State.poolForm, State.fire_passed _ _ _ hp, ← s.takeTrap_portL (by decide)]
  exact (if_neg (by simp [he, hd, ha, hb])).trans (if_pos ((poolsArg_iff s).mpr h))

section
variable (hv : poolsArg (portL 64 s))
include hv

/-- Tiles that do not suit trap. -/
theorem State.poolForm_badShape (h : ¬ poolsTiles td ta tb ((s.cell s.sch.cur.cell).tile td.toNat)
      ((s.cell s.sch.cur.cell).tile ta.toNat) ((s.cell s.sch.cur.cell).tile tb.toNat)) :
    s.poolForm pd td ta tb ct k = .next (shapeTrap s 0xC1) := by
  rw [State.poolForm, State.fire_passed _ _ _ hp, ← State.takeShape_firing]
  exact (if_neg (by simp [he, hd, ha, hb])).trans ((if_neg (mt (poolsArg_iff s).mp (not_not.mpr hv))).trans
    (if_pos (poolsTiles_iff.mpr h)))

/-- A pooling step starts. -/
theorem State.poolForm_starts (h : poolsTiles td ta tb ((s.cell s.sch.cur.cell).tile td.toNat)
      ((s.cell s.sch.cur.cell).tile ta.toNat) ((s.cell s.sch.cur.cell).tile tb.toNat))
    (hr : s.canSend s.sch.cur (later (ctTargets ct) 4) = true) :
    s.poolForm pd td ta tb ct k = .next (s.engineStarted s.sch.cur
      { kind := k, td := td.toNat, ta := ta.toNat, tb := tb.toNat, l := (portL 64 s).toNat, targets := ctTargets ct,
        firing := s.sch.cur }) := by
  rw [State.poolForm, State.fire_passed _ _ _ hp, portL_toNat s 8]
  exact (if_neg (by simp [he, hd, ha, hb])).trans ((if_neg (mt (poolsArg_iff s).mp (not_not.mpr hv))).trans
    ((if_neg (mt poolsTiles_iff.mp (not_not.mpr h))).trans (State.startEngine_ready hr)))

end
end

/-! ## BLOAD and BINV (R364, R365, R373) -/

theorem bload_waits (h : (s.cell s.sch.cur.cell).engine.isSome = true ∨ (s.cell s.sch.cur.cell).tileGo s.sch.cur.region td.toNat = false ∨
      (s.cell s.sch.cur.cell).tileGo s.sch.cur.region ta.toNat = false) :
    exec (.bload pd td ta ct) s = .next (s.putBack s.sch.cur) := by
  rw [exec_bload, execBload, State.fire_passed _ _ _ hp]
  exact if_pos (by simpa [or_assoc] using h)

theorem binv_waits (h : (s.cell s.sch.cur.cell).engine.isSome = true ∨ (s.cell s.sch.cur.cell).tileGo s.sch.cur.region td.toNat = false) :
    exec (.binv pd td t0) s = .next (s.putBack s.sch.cur) := by
  rw [exec_binv, execBinv, State.fire_passed _ _ _ hp]
  exact if_pos (by simpa using h)

section
variable (he : (s.cell s.sch.cur.cell).engine = none) (hd : (s.cell s.sch.cur.cell).tileGo s.sch.cur.region td.toNat = true)
include he hd

section
variable (ha : (s.cell s.sch.cur.cell).tileGo s.sch.cur.region ta.toNat = true)
include ha

/-- A locator that R364 refuses traps. -/
theorem bload_badArg (h : ¬ loadsArg (portL 64 s) ((s.cell s.sch.cur.cell).tile td.toNat)) :
    exec (.bload pd td ta ct) s = .next (trapWith s 0x3FF5 (portL 64 s).toNat) := by
  rw [exec_bload, execBload, State.fire_passed _ _ _ hp, ← s.takeTrap_portL (by decide)]
  exact (if_neg (by simp [he, hd, ha])).trans (if_pos ((loadsArg_iff s _).mpr h))

section
variable (hv : loadsArg (portL 64 s) ((s.cell s.sch.cur.cell).tile td.toNat))
include hv

/-- Tiles that do not suit trap. -/
theorem bload_badShape (h : ¬ (s.cell s.sch.cur.cell).suitsBload ((s.cell s.sch.cur.cell).tile td.toNat)
      ((s.cell s.sch.cur.cell).tile ta.toNat)) :
    exec (.bload pd td ta ct) s = .next (shapeTrap s 0xC3) := by
  rw [exec_bload, execBload, State.fire_passed _ _ _ hp, ← State.takeShape_firing]
  exact (if_neg (by simp [he, hd, ha])).trans ((if_neg (mt (loadsArg_iff s _).mp (not_not.mpr hv))).trans (if_pos (suitsBload_iff.mpr h)))

section
variable (h : (s.cell s.sch.cur.cell).suitsBload ((s.cell s.sch.cur.cell).tile td.toNat) ((s.cell s.sch.cur.cell).tile ta.toNat))
include h

/-- A bank that is not owned traps. -/
theorem bload_notOwned
    (ho : (s.cell s.sch.cur.cell).ownsTile ((s.cell s.sch.cur.cell).tile td.toNat) s.sch.cur.region = false ∨
      (s.cell s.sch.cur.cell).ownsTile ((s.cell s.sch.cur.cell).tile ta.toNat) s.sch.cur.region = false) :
    exec (.bload pd td ta ct) s = .next (shapeTrap s 0xC2) := by
  rw [exec_bload, execBload, State.fire_passed _ _ _ hp, ← State.takeShape_firing]
  exact (if_neg (by simp [he, hd, ha])).trans ((if_neg (mt (loadsArg_iff s _).mp (not_not.mpr hv))).trans
    ((if_neg (mt suitsBload_iff.mp (not_not.mpr h))).trans (if_pos (by simpa using ho))))

/-- A B block is loaded. -/
theorem bload_starts (hod : (s.cell s.sch.cur.cell).ownsTile ((s.cell s.sch.cur.cell).tile td.toNat) s.sch.cur.region = true)
    (hoa : (s.cell s.sch.cur.cell).ownsTile ((s.cell s.sch.cur.cell).tile ta.toNat) s.sch.cur.region = true)
    (hr : s.canSend s.sch.cur (later (ctTargets ct) 4) = true) :
    exec (.bload pd td ta ct) s = .next (s.engineStarted s.sch.cur
      { kind := .bload, td := td.toNat, ta := ta.toNat, l := ((portL 64 s).extractLsb' 16 6).toNat, targets := ctTargets ct,
        firing := s.sch.cur }) := by
  rw [exec_bload, execBload, State.fire_passed _ _ _ hp, ← bits_portL s 21 16 6 rfl]
  exact (if_neg (by simp [he, hd, ha])).trans ((if_neg (mt (loadsArg_iff s _).mp (not_not.mpr hv))).trans
    ((if_neg (mt suitsBload_iff.mp (not_not.mpr h))).trans ((if_neg (by simp [hod, hoa])).trans (State.startEngine_ready hr))))

end
end
end

/-- BINV of a tile that is no compute tile traps. -/
theorem binv_badShape (h : (s.cell s.sch.cur.cell).computeTile ((s.cell s.sch.cur.cell).tile td.toNat) = false) :
    exec (.binv pd td t0) s = .next (shapeTrap s 0xC3) := by
  rw [exec_binv, execBinv, State.fire_passed _ _ _ hp, ← State.takeShape_firing]
  exact (if_neg (by simp [he, hd])).trans (if_pos (by simp [h]))

section
variable (h : (s.cell s.sch.cur.cell).computeTile ((s.cell s.sch.cur.cell).tile td.toNat) = true)
include h

theorem binv_notOwned (ho : (s.cell s.sch.cur.cell).ownsTile ((s.cell s.sch.cur.cell).tile td.toNat) s.sch.cur.region = false) :
    exec (.binv pd td t0) s = .next (shapeTrap s 0xC2) := by
  rw [exec_binv, execBinv, State.fire_passed _ _ _ hp, ← State.takeShape_firing]
  exact (if_neg (by simp [he, hd])).trans ((if_neg (by simp [h])).trans (if_pos (by simp [ho])))

theorem binv_starts (ho : (s.cell s.sch.cur.cell).ownsTile ((s.cell s.sch.cur.cell).tile td.toNat) s.sch.cur.region = true)
    (hr : s.canSend s.sch.cur (later [t0] 4) = true) :
    exec (.binv pd td t0) s =
      .next (s.engineStarted s.sch.cur { kind := .binv, td := td.toNat, targets := [t0], firing := s.sch.cur }) := by
  rw [exec_binv, execBinv, State.fire_passed _ _ _ hp]
  exact (if_neg (by simp [he, hd])).trans ((if_neg (by simp [h])).trans ((if_neg (by simp [ho])).trans (State.startEngine_ready hr)))

end
end
end

/-! ## BMODE's checks (R360) -/

/-- The region that the operand of BMODE names (R360). -/
def State.bmodeGoal (s : State) (w : Word) : Option Region :=
  s.regionAt s.sch.cur.die (w.extractLsb' 7 7).toNat (w.extractLsb' 1 6).toNat

/-- Whether BMODE accepts its bank and operand (R360). -/
def State.takesBmode (s : State) (k : Nat) (m : BankMode) (intlv : Bool) (w : Word) : Prop :=
  let f := s.sch.cur
  let c := s.cell f.cell
  let owns : Nat → Prop := fun n => (c.bank n).claimed = true ∧ (c.bank n).region = f.region
  owns k ∧ (intlv = true → owns (pairOf k) ∧ m = .scratchpad) ∧ w.extractLsb' 14 18 = 0 ∧
  (w.getLsbD 0 = true → ∃ r, s.bmodeGoal w = some r ∧ r.ctx = tagCtx f.acc.tag ∧ r.contains f.x f.y = true) ∧
  ((c.windows.any fun q => q.2.ins.any fun a => a.2.fifo = some k) = true → m = .fifo)

/-- What BMODE asks of the region that it gives to. -/
def Region.takesBank (f : Firing) : Option Region → Bool
  | none => false
  | some r => r.ctx = tagCtx f.acc.tag && r.contains f.x f.y

theorem Region.takesBank_iff (f : Firing) (goal : Option Region) :
    Region.takesBank f goal = true ↔ ∃ r, goal = some r ∧ r.ctx = tagCtx f.acc.tag ∧ r.contains f.x f.y = true := by
  cases goal <;> simp [Region.takesBank]

/-- Whether a mode operation is a firing's own. -/
def ModeOp.ofFiring (f : Firing) (o : ModeOp) : Bool := o.stamp = f.acc.stamp && o.win = f.acc.win && o.slot = f.acc.slot

/-- A field of L at 4 bytes is that of its number. -/
theorem bits_wordL (s : State) (hi lo k : Nat) (h : hi + 1 - lo = k) :
    bits (s.sch.cur.l 4) hi lo = ((portL 32 s).extractLsb' lo k).toNat := by
  rw [← portL_toNat s 4]
  exact bits_toNat _ h

/-- A bit of L at 4 bytes. -/
theorem bit_wordL (s : State) (i : Nat) : bit (s.sch.cur.l 4) i = (portL 32 s).getLsbD i := by
  rw [← portL_toNat s 4]
  exact bit_toNat _ i

/-- L at 4 bytes as a value. -/
theorem val_wordL (s : State) : val (portL 32 s) = Val.of 4 (s.sch.cur.l 4) := by
  rw [← portL_toNat s 4, val, Val.of, Nat.mod_eq_of_lt (portL 32 s).isLt]

/-- The region that BMODE reads from its operand. -/
theorem State.bmodeGoal_operand (s : State) :
    s.regionAt s.sch.cur.die (bits (s.sch.cur.l 4) 13 7) (bits (s.sch.cur.l 4) 6 1) = s.bmodeGoal (portL 32 s) := by
  rw [bits_wordL s 13 7 7 rfl, bits_wordL s 6 1 6 rfl]
  rfl

/-- The model's check of a BMODE. -/
def State.refusesBmode (s : State) (k : Nat) (m : BankMode) (intlv : Bool) (w : Nat) (goal : Option Region) : Bool :=
  let f := s.sch.cur
  let c := s.cell f.cell
  let owns := fun k => (c.bank k).claimed && (c.bank k).region = f.region
  !owns k || (intlv && !owns (pairOf k)) || (intlv && m ≠ .scratchpad) || bits w 31 14 ≠ 0 || (bit w 0 && !Region.takesBank f goal) ||
    ((c.windows.any fun q => q.2.ins.any fun a => a.2.fifo = some k) && m ≠ .fifo)

theorem State.refusesBmode_iff (s : State) (k : Nat) (m : BankMode) (intlv : Bool) :
    s.refusesBmode k m intlv (s.sch.cur.l 4) (s.bmodeGoal (portL 32 s)) = true ↔ ¬ s.takesBmode k m intlv (portL 32 s) := by
  simp only [State.refusesBmode, State.takesBmode, bits_wordL s 31 14 18 rfl, bit_wordL, ← Region.takesBank_iff,
    ← toNat_eq_zero_iff, Bool.or_eq_true, Bool.and_eq_true, Bool.not_eq_true', Bool.and_eq_false_iff, decide_eq_true_eq,
    decide_eq_false_iff_not, ne_eq, not_and_or, Classical.not_imp, and_or_left, or_assoc, Bool.not_eq_true]

section
variable {s : State} {pd : Pd} {bank : BitVec 2} {m : BankMode} {intlv : Bool} {t0 : Target} (hp : s.sch.cur.passes pd = true)
include hp

/-- BMODE behind its predicate. -/
theorem bmode_eq : exec (.bmode pd bank m intlv t0) s =
    let f := s.sch.cur
    let c := s.cell f.cell
    let w := portL 32 s
    let banks := c.bmodeBanks bank.toNat intlv
    if s.refusesBmode bank.toNat m intlv (f.l 4) (s.bmodeGoal w) then s.takeTrap f .trap 0x3FF3 (f.l 4)
    else if banks.any c.bankBusy then .next (s.putBack f)
    else if !banks.all c.bankQuiet then .next (if c.modeOps.any (ModeOp.ofFiring f) then s.putBack f else s.beginMode f banks)
    else s.finish f [(t0, val w)] 0 fun s' =>
      s'.changeMap f bank.toNat m intlv (if w.getLsbD 0 then (s.bmodeGoal w).map Region.id else none) := by
  rw [exec_bmode, execBmode, State.fire_passed _ _ _ hp]
  dsimp only
  rw [← bit_wordL, ← State.bmodeGoal_operand, val_wordL]
  rfl

theorem bmode_traps (h : ¬ s.takesBmode bank.toNat m intlv (portL 32 s)) :
    exec (.bmode pd bank m intlv t0) s = .next (trapWith s 0x3FF3 (portL 32 s).toNat) := by
  have hlt : s.sch.cur.l 4 < 2 ^ 64 := portL_toNat s 4 ▸ (portL 32 s).isLt.trans (by decide)
  rw [bmode_eq hp, portL_toNat s 4, ← s.takeTrap_with (by decide) hlt]
  exact if_pos ((s.refusesBmode_iff _ _ _).mpr h)

section
variable (h : s.takesBmode bank.toNat m intlv (portL 32 s))
include h

/-- Behind another BMODE of its banks it waits. -/
theorem bmode_queues (hb : ∃ n ∈ (s.cell s.sch.cur.cell).bmodeBanks bank.toNat intlv, (s.cell s.sch.cur.cell).bankBusy n = true) :
    exec (.bmode pd bank m intlv t0) s = .next (s.putBack s.sch.cur) := by
  rw [bmode_eq hp]
  exact (if_neg (mt (s.refusesBmode_iff _ _ _).mp (not_not.mpr h))).trans (if_pos (List.any_eq_true.mpr hb))

section
variable (hb : ∀ n ∈ (s.cell s.sch.cur.cell).bmodeBanks bank.toNat intlv, (s.cell s.sch.cur.cell).bankBusy n = false)
include hb

/-- On banks that are not quiet it begins, once (log 31). -/
theorem bmode_begins (hq : ∃ n ∈ (s.cell s.sch.cur.cell).bmodeBanks bank.toNat intlv, (s.cell s.sch.cur.cell).bankQuiet n = false) :
    exec (.bmode pd bank m intlv t0) s = .next (if (s.cell s.sch.cur.cell).modeOps.any (ModeOp.ofFiring s.sch.cur)
      then s.putBack s.sch.cur else s.beginMode s.sch.cur ((s.cell s.sch.cur.cell).bmodeBanks bank.toNat intlv)) := by
  rw [bmode_eq hp]
  exact (if_neg (mt (s.refusesBmode_iff _ _ _).mp (not_not.mpr h))).trans ((if_neg (by simpa using hb)).trans
    (if_pos (by simpa using hq)))

/-- On quiet banks it changes them and sends L. -/
theorem bmode_changes (hq : ∀ n ∈ (s.cell s.sch.cur.cell).bmodeBanks bank.toNat intlv, (s.cell s.sch.cur.cell).bankQuiet n = true)
    (hr : s.canSend s.sch.cur [(t0, val (portL 32 s))] = true) :
    exec (.bmode pd bank m intlv t0) s = .next ((s.changeMap s.sch.cur bank.toNat m intlv
      (if (portL 32 s).getLsbD 0 then (s.bmodeGoal (portL 32 s)).map Region.id else none)).sendAll s.sch.cur s.sch.cur.acc.tag false
        [(t0, val (portL 32 s))]) := by
  rw [bmode_eq hp]
  refine (if_neg (mt (s.refusesBmode_iff _ _ _).mp (not_not.mpr h))).trans ((if_neg (by simpa using hb)).trans
    ((if_neg (by simpa using hq)).trans ?_))
  rw [State.finish_ready _ _ _ _ _ hr, State.raise_none]

end
end
end

/-! ## The space tokens of a change of map (R226) -/

/-- The space tokens of several tiles, tile by tile. -/
theorem State.sendSpaces_tiles (f : Firing) (l : List Nat) (s : State) :
    ∃ ts, l.foldl (fun s j => s.sendSpaces f none (s.destsOf f.region f.x f.y j)) s = s.withSpaces ts ∧
      ts.map (fun q => (q.port, q.buffer)) = l.flatMap fun j => s.destsOf f.region f.x f.y j := by
  induction l generalizing s with
  | nil => exact ⟨[], by simp [State.withSpaces], rfl⟩
  | cons j t ih =>
    obtain ⟨us, hus, hplace, -⟩ := State.sendSpaces_tokens f none (s.destsOf f.region f.x f.y j) s
    obtain ⟨vs, hvs, hplaces⟩ := ih (s.withSpaces us)
    refine ⟨us ++ vs, ?_, ?_⟩
    · rw [List.foldl_cons, hus, hvs, State.withSpaces_append]
    · rw [List.map_append, hplace, hplaces, List.flatMap_cons]
      rfl

/-! ## Banks (R201) -/

section
variable {c : Cell} {k j : Nat} {g : Bank → Bank}

theorem Cell.bank_updBank_same (h : tableWf {} c.banks = true) : (c.updBank k g).bank k = g (c.bank k) := look_upd_same _ _ _ _ h

theorem Cell.bank_updBank_other (hj : j ≠ k) : (c.updBank k g).bank j = c.bank j := look_upd_other _ _ _ _ _ hj

theorem pairOf_ne (k : Nat) : pairOf k ≠ k := by
  unfold pairOf
  split <;> omega

/-! ## Putting a bank into a mode (R201) -/

/-- A bank as a change of mode leaves it. -/
def Bank.inMode (m : BankMode) (intlv : Bool) (b : Bank) : Bank :=
  if b.mode = m then { b with intlv := intlv } else { b with mode := m, intlv := intlv, fifoHead := 0, fifoCount := 0 }

@[simp] theorem Bank.inMode_mode (m : BankMode) (i : Bool) (b : Bank) : (b.inMode m i).mode = m := by
  unfold Bank.inMode
  split
  case isTrue h => exact h
  case isFalse => rfl

@[simp] theorem Bank.inMode_intlv (m : BankMode) (i : Bool) (b : Bank) : (b.inMode m i).intlv = i := by
  unfold Bank.inMode
  split <;> rfl

@[simp] theorem Bank.inMode_region (m : BankMode) (i : Bool) (b : Bank) : (b.inMode m i).region = b.region := by
  unfold Bank.inMode
  split <;> rfl

theorem Cell.setMode_banks (c : Cell) (k : Nat) (m : BankMode) (i : Bool) :
    (c.setMode k m i).banks = upd {} k (Bank.inMode m i) c.banks := by
  have hmode : (c.setMode k m i).banks = upd {} k (fun b => if (c.bank k).mode = m then { b with intlv := i }
      else { b with mode := m, intlv := i, fifoHead := 0, fifoCount := 0 }) c.banks := by
    unfold Cell.setMode
    dsimp only
    split <;> split <;> rfl
  rw [hmode]
  exact upd_congr rfl

theorem Cell.setMode_wf (m : BankMode) (i : Bool) (h : tableWf {} c.banks = true) : tableWf {} (c.setMode k m i).banks = true := by
  rw [Cell.setMode_banks]
  exact tableWf_upd _ _ _ _ h

theorem Cell.setMode_bank (m : BankMode) (i : Bool) (h : tableWf {} c.banks = true) :
    (c.setMode k m i).bank k = (c.bank k).inMode m i := by
  rw [Cell.bank, Cell.setMode_banks]
  exact look_upd_same _ _ _ _ h

theorem Cell.setMode_bank_other (m : BankMode) (i : Bool) (hj : j ≠ k) : (c.setMode k m i).bank j = c.bank j := by
  rw [Cell.bank, Cell.setMode_banks]
  exact look_upd_other _ _ _ _ _ hj

theorem Cell.applyMode_interleaves (c : Cell) (k : Nat) (m : BankMode) :
    c.applyMode k m true = (c.setMode k m true).setMode (pairOf k) m true := rfl

theorem Cell.applyMode_paired (m : BankMode) (hi : (c.bank k).intlv = true) :
    c.applyMode k m false = (c.setMode k m false).updBank (pairOf k) fun b => { b with intlv := false } := if_pos hi

theorem Cell.applyMode_alone (m : BankMode) (hi : (c.bank k).intlv = false) : c.applyMode k m false = c.setMode k m false :=
  if_neg (Bool.eq_false_iff.mp hi)

/-- BMODE's bank afterwards, interleaved or not. -/
theorem Cell.applyMode_bank (m : BankMode) (i : Bool) (h : tableWf {} c.banks = true) :
    (c.applyMode k m i).bank k = (c.bank k).inMode m i := by
  have hk : k ≠ pairOf k := (pairOf_ne k).symm
  cases i
  case true => rw [Cell.applyMode_interleaves, Cell.setMode_bank_other m true hk, Cell.setMode_bank m true h]
  case false =>
    cases hi : (c.bank k).intlv
    · rw [Cell.applyMode_alone m hi, Cell.setMode_bank m false h]
    · rw [Cell.applyMode_paired m hi, Cell.bank_updBank_other hk, Cell.setMode_bank m false h]

/-- Its pair, interleaved with it. -/
theorem Cell.applyMode_pair (m : BankMode) (h : tableWf {} c.banks = true) :
    (c.applyMode k m true).bank (pairOf k) = (c.bank (pairOf k)).inMode m true := by
  rw [Cell.applyMode_interleaves, Cell.setMode_bank m true (Cell.setMode_wf m true h), Cell.setMode_bank_other m true (pairOf_ne k)]

/-- The interleave of a pair ends in both banks. -/
theorem Cell.applyMode_unpaired (m : BankMode) (h : tableWf {} c.banks = true) (hi : (c.bank k).intlv = true) :
    ((c.applyMode k m false).bank (pairOf k)).intlv = false := by
  rw [Cell.applyMode_paired m hi, Cell.bank_updBank_same (Cell.setMode_wf m false h)]

/-! ## Giving a bank (R360) -/

/-- The cell after the giving that precedes a change of mode. -/
def Cell.given (c : Cell) (k : Nat) (intlv : Bool) (goal : Option Nat) : Cell :=
  match goal with
  | some r => (if intlv then [k, pairOf k] else [k]).foldl (fun (c : Cell) k => c.giveBank k r) c
  | none => c

theorem Cell.remap_eq (c : Cell) (k : Nat) (m : BankMode) (intlv : Bool) (goal : Option Nat) :
    c.remap k m intlv goal = (c.given k intlv goal).applyMode k m intlv := rfl

theorem Cell.giveBank_banks (c : Cell) (k g : Nat) : (c.giveBank k g).banks = upd {} k (fun b => { b with region := g }) c.banks := rfl

theorem Cell.giveBank_wf (g : Nat) (h : tableWf {} c.banks = true) : tableWf {} (c.giveBank k g).banks = true := by
  rw [Cell.giveBank_banks]
  exact tableWf_upd _ _ _ _ h

theorem Cell.giveBank_bank (g : Nat) (h : tableWf {} c.banks = true) : (c.giveBank k g).bank k = { c.bank k with region := g } := by
  rw [Cell.bank, Cell.giveBank_banks, look_upd_same _ _ _ _ h]
  rfl

theorem Cell.giveBank_bank_other (g : Nat) (hj : j ≠ k) : (c.giveBank k g).bank j = c.bank j := by
  rw [Cell.bank, Cell.giveBank_banks, look_upd_other _ _ _ _ _ hj]
  rfl

theorem Cell.giveBank_intlv (g : Nat) (h : tableWf {} c.banks = true) : ((c.giveBank k g).bank j).intlv = (c.bank j).intlv := by
  by_cases hj : j = k
  · rw [hj, Cell.giveBank_bank g h]
  · rw [Cell.giveBank_bank_other g hj]

theorem Cell.given_wf (i : Bool) (goal : Option Nat) (h : tableWf {} c.banks = true) : tableWf {} (c.given k i goal).banks = true := by
  cases goal with
  | none => exact h
  | some g =>
    cases i
    · exact Cell.giveBank_wf g h
    · exact Cell.giveBank_wf g (Cell.giveBank_wf g h)

theorem Cell.given_intlv (i : Bool) (goal : Option Nat) (h : tableWf {} c.banks = true) :
    ((c.given k i goal).bank j).intlv = (c.bank j).intlv := by
  cases goal with
  | none => rfl
  | some g =>
    cases i
    · exact Cell.giveBank_intlv g h
    · exact (Cell.giveBank_intlv g (Cell.giveBank_wf g h)).trans (Cell.giveBank_intlv g h)

theorem Cell.given_region (i : Bool) (g : Nat) (h : tableWf {} c.banks = true) : ((c.given k i (some g)).bank k).region = g := by
  have hone : ((c.giveBank k g).bank k).region = g := by rw [Cell.giveBank_bank g h]
  cases i
  · exact hone
  · exact (congrArg Bank.region (Cell.giveBank_bank_other g (pairOf_ne k).symm)).trans hone

end

/-! ## Tiles that a change makes EMPTY (R201, R360) -/

/-- A tile-table entry made EMPTY where a condition holds of it. -/
def emptyWhere (p : Tile → Bool) (q : Nat × Tile) : Nat × Tile := if p q.2 then (q.1, { q.2 with st := .empty }) else q

theorem emptyWhere_empties {p : Tile → Bool} {q : Nat × Tile} (h : p q.2 = true) : (emptyWhere p q).2 = { q.2 with st := .empty } := by
  rw [emptyWhere, if_pos h]

theorem emptyWhere_other {p : Tile → Bool} {q : Nat × Tile} (h : p q.2 = false) : emptyWhere p q = q := by
  rw [emptyWhere, if_neg (by simp [h])]

/-- What holds of every tile of a cell. -/
def Cell.AllTiles (c : Cell) (P : Tile → Prop) : Prop := ∀ q ∈ c.tiles, P q.2

theorem Cell.giveBank_tiles (c : Cell) (k g : Nat) : (c.giveBank k g).tiles = c.tiles.map (emptyWhere (c.tileInBank · k)) := rfl

theorem Cell.setMode_tiles (c : Cell) (k : Nat) (m : BankMode) (i : Bool) : (c.setMode k m i).tiles =
    if (c.bank k).mode = .scratchpad && m ≠ .scratchpad then c.tiles.map (emptyWhere fun t => c.tileInBank t k && t.st = .ready)
    else c.tiles := by
  unfold Cell.setMode
  dsimp only
  split <;> split <;> rfl

section
variable {c : Cell} {P : Tile → Prop} (hP : ∀ t : Tile, P t → P { t with st := .empty })
include hP

theorem emptyWhere_keeps {p : Tile → Bool} {l : Assoc Tile} (h : ∀ q ∈ l, P q.2) : ∀ q ∈ l.map (emptyWhere p), P q.2 := by
  intro q hq
  obtain ⟨e, he, rfl⟩ := List.mem_map.mp hq
  cases hp : p e.2
  · rw [emptyWhere_other hp]
    exact h e he
  · rw [emptyWhere_empties hp]
    exact hP _ (h e he)

theorem Cell.giveBank_allTiles (k g : Nat) (h : c.AllTiles P) : (c.giveBank k g).AllTiles P := by
  rw [Cell.AllTiles, Cell.giveBank_tiles]
  exact emptyWhere_keeps hP h

theorem Cell.setMode_allTiles (k : Nat) (m : BankMode) (i : Bool) (h : c.AllTiles P) : (c.setMode k m i).AllTiles P := by
  rw [Cell.AllTiles, Cell.setMode_tiles]
  split
  · exact emptyWhere_keeps hP h
  · exact h

theorem Cell.applyMode_allTiles (k : Nat) (m : BankMode) (i : Bool) (h : c.AllTiles P) : (c.applyMode k m i).AllTiles P := by
  have hset : (c.setMode k m i).AllTiles P := Cell.setMode_allTiles hP k m i h
  cases i
  case true => exact Cell.setMode_allTiles hP _ m true hset
  case false =>
    cases hi : (c.bank k).intlv
    · rw [Cell.applyMode_alone m hi]
      exact hset
    · rw [Cell.applyMode_paired m hi]
      exact hset

end

/-- The tiles of a bank that is given are EMPTY. -/
theorem Cell.giveBank_empties (c : Cell) (k g : Nat) : (c.giveBank k g).AllTiles fun t => c.tileInBank t k = true → t.st = .empty := by
  intro q hq hin
  rw [Cell.giveBank_tiles] at hq
  obtain ⟨e, -, rfl⟩ := List.mem_map.mp hq
  cases hp : c.tileInBank e.2 k
  · rw [emptyWhere_other hp, hp] at hin
    contradiction
  · rw [emptyWhere_empties hp]

theorem Cell.given_empties (c : Cell) (k : Nat) (i : Bool) (g : Nat) :
    (c.given k i (some g)).AllTiles fun t => c.tileInBank t k = true → t.st = .empty := by
  cases i
  · exact c.giveBank_empties k g
  · exact Cell.giveBank_allTiles (fun _ _ _ => rfl) (pairOf k) g (c.giveBank_empties k g)

/-- No tile of a bank that leaves scratchpad mode is READY. -/
theorem Cell.setMode_leaves (c : Cell) (k : Nat) {m : BankMode} (i : Bool) (hold : (c.bank k).mode = .scratchpad) (hm : m ≠ .scratchpad) :
    (c.setMode k m i).AllTiles fun t => c.tileInBank t k = true → t.st ≠ .ready := by
  intro q hq hin
  rw [Cell.setMode_tiles, if_pos (by simp [hold, hm])] at hq
  obtain ⟨e, -, rfl⟩ := List.mem_map.mp hq
  cases hp : (c.tileInBank e.2 k && e.2.st = .ready)
  · rw [emptyWhere_other hp] at hin ⊢
    simpa [hin] using hp
  · rw [emptyWhere_empties hp]
    exact TileState.noConfusion

theorem Cell.applyMode_leaves (c : Cell) (k : Nat) {m : BankMode} (hold : (c.bank k).mode = .scratchpad) (hm : m ≠ .scratchpad)
    (hi : (c.bank k).intlv = false) : (c.applyMode k m false).AllTiles fun t => c.tileInBank t k = true → t.st ≠ .ready := by
  rw [Cell.applyMode_alone m hi]
  exact c.setMode_leaves k false hold hm

/-! ## The change of a map (R202, R226) -/

theorem State.changeMap_spaces (s : State) (f : Firing) (k : Nat) (m : BankMode) (intlv : Bool) (goal : Option Nat) :
    ∃ ts, s.changeMap f k m intlv goal = (s.updCell f.cell fun _ => { (s.cell f.cell).remap k m intlv goal with
        modeOps := ((s.cell f.cell).remap k m intlv goal).modeOps.filter fun o => !o.ofFiring f }).withSpaces ts ∧
      ts.map (fun q => (q.port, q.buffer)) =
        ((s.cell f.cell).emptied ((s.cell f.cell).remap k m intlv goal)).flatMap fun j => s.destsOf f.region f.x f.y j :=
  State.sendSpaces_tiles f _ (s.updCell f.cell fun _ => { (s.cell f.cell).remap k m intlv goal with
    modeOps := ((s.cell f.cell).remap k m intlv goal).modeOps.filter fun o => !o.ofFiring f })

end Sys2Proof.Machine

section
open Sys2Proof Sys2Proof.Machine Sys2Proof.Claims

/-- Settles O39: an outcome per instruction and condition. The order of the checks, and waiting before them, are the model's choice
(log 35), as are BMODE beginning once (log 31) and the section in a shape trap (log 36). -/
theorem tileEngineStarts : Obligations.TileEngineStarts := by
  unfold Obligations.TileEngineStarts
  refine ⟨?instructions, ?changes, ?remaps⟩
  case instructions =>
    intro pd td ta tb ct bank m intlv t0 s hp f c d a b v start pool kk transposes pools poolArg loads suits
    have htrans : transposes ↔ transShape d a (td = ta) = true := transShape_iff.symm
    refine ⟨?waits, ?engine, ?bmode⟩
    case waits =>
      intro h
      have hready : c.engine.isSome = true ∨ c.tileReady td.toNat = false := h.imp_right And.right
      have hgo : c.engine.isSome = true ∨ c.tileGo f.region td.toNat = false := h.imp_right fun h => Cell.tileGo_of_owned h.1 h.2
      have hpool : ∀ k, s.poolForm pd td ta tb ct k = .next (s.putBack f) :=
        fun k => State.poolForm_waits hp k (hready.imp_right .inl)
      exact ⟨vtrans_waits hp (hready.imp_right .inl), hpool _, hpool _, bload_waits hp (hgo.imp_right .inl), binv_waits hp hgo⟩
    case engine =>
      intro he hd
      have hgo : c.tileGo f.region td.toNat = true := Cell.tileGo_of_ready hd
      refine ⟨fun ha => ?_, fun h => ?_, fun ha => ?_, binv_badShape hp he hgo, binv_notOwned hp he hgo, binv_starts hp he hgo⟩
      · have hga : c.tileGo f.region ta.toNat = true := Cell.tileGo_of_ready ha
        refine ⟨fun h => vtrans_traps hp he hd ha (mt htrans.mpr h), bload_badArg hp he hgo hga, bload_badShape hp he hgo hga,
          bload_notOwned hp he hgo hga, fun hr => ⟨fun h => vtrans_starts hp he hd ha (htrans.mp h) hr,
            fun hl hs hod hoa => bload_starts hp he hgo hga hl hs hod hoa hr⟩, fun hb => ⟨fun h => ?_, fun hv h => ?_, fun hv h hr => ?_⟩⟩
        · have hpool := fun k => State.poolForm_badArg (ct := ct) hp k he hd ha hb h
          exact ⟨hpool .poolMax, hpool .poolAvg⟩
        · have hpool := fun k => State.poolForm_badShape (ct := ct) hp k he hd ha hb hv h
          exact ⟨hpool .poolMax, hpool .poolAvg⟩
        · have hpool := fun k => State.poolForm_starts hp k he hd ha hb hv h hr
          exact ⟨hpool .poolMax, hpool .poolAvg⟩
      · have hpool : ∀ k, s.poolForm pd td ta tb ct k = .next (s.putBack f) :=
          fun k => State.poolForm_waits hp k (.inr (.inr h))
        exact ⟨hpool _, hpool _⟩
      · exact ⟨vtrans_waits hp (.inr (.inr ha)), fun ho => bload_waits hp (.inr (.inr (Cell.tileGo_of_owned ho ha)))⟩
    case bmode =>
      intro w k other owns goal gives arc good banks begun
      exact ⟨bmode_traps hp, bmode_queues hp, fun h hb => ⟨bmode_begins hp h hb, bmode_changes hp h hb⟩⟩
  case changes =>
    intro s f k m intlv goal c d gone
    exact s.changeMap_spaces f k m intlv goal
  case remaps =>
    intro c k m g _ hw other
    refine ⟨fun goal => ⟨?paired, ?alone⟩, fun intlv => ⟨?region, ?given⟩, fun hold hm hi => c.applyMode_leaves k hold hm hi⟩
    case paired =>
      have hg := Cell.given_wf (k := k) true goal hw
      rw [Cell.remap_eq, Cell.applyMode_bank m true hg, show other = pairOf k from rfl, Cell.applyMode_pair m hg]
      simp
    case alone =>
      have hg := Cell.given_wf (k := k) false goal hw
      rw [Cell.remap_eq, Cell.applyMode_bank m false hg, Bank.inMode_mode, Bank.inMode_intlv]
      exact ⟨rfl, rfl, fun hi => Cell.applyMode_unpaired m hg ((Cell.given_intlv false goal hw).trans hi)⟩
    case region =>
      rw [Cell.remap_eq, Cell.applyMode_bank m intlv (Cell.given_wf intlv _ hw), Bank.inMode_region]
      exact Cell.given_region intlv g hw
    case given => exact Cell.applyMode_allTiles (fun _ h hin => rfl) k m intlv (c.given_empties k intlv g)

end
end

section
/-!
PROOF of O22. Rounding toward zero (R261, R262) in the IEEE formats (R257): exact values as rationals, the significands and exponents that
a format holds, and the code that rounding gives, decoded again.
-/

namespace Sys2Proof.Machine

/-! ## Exact values -/

/-- The exact value m * 2^e. -/
def magnitude (m : Nat) (e : Int) : ℚ := m * 2 ^ e

theorem magnitude_le_iff {j k : Nat} {q : Int} : magnitude j q ≤ magnitude k q ↔ j ≤ k := by
  rw [magnitude, magnitude, mul_le_mul_iff_left₀ (by positivity), Nat.cast_le]

theorem magnitude_lt_iff {j k : Nat} {q : Int} : magnitude j q < magnitude k q ↔ j < k := by
  rw [← not_le, magnitude_le_iff, not_le]

/-- A value at a lower exponent. -/
theorem magnitude_shift (m : Nat) {e b : Int} (h : b ≤ e) : magnitude m e = magnitude (m * 2 ^ (e - b).toNat) b := by
  rw [magnitude, magnitude, Nat.cast_mul, Nat.cast_pow, Nat.cast_ofNat, mul_assoc, ← zpow_natCast, Int.toNat_of_nonneg (by omega),
    ← zpow_add₀ two_ne_zero, Int.sub_add_cancel]

theorem lessAt_iff {m n : Nat} {e q : Int} : lessAt m e n q = true ↔ magnitude m e < magnitude n q := by
  rw [lessAt, decide_eq_true_iff, magnitude_shift m (min_le_left e q), magnitude_shift n (min_le_right e q), magnitude_lt_iff]

theorem lessAt_eq_false_iff {m n : Nat} {e q : Int} : lessAt m e n q = false ↔ magnitude n q ≤ magnitude m e := by
  rw [← Bool.not_eq_true, lessAt_iff, not_lt]

/-- A power of two as a value of one bit. -/
theorem magnitude_two_pow (k : Nat) (e : Int) : magnitude (2 ^ k) e = 2 ^ (e + k) := by
  rw [magnitude, Nat.cast_pow, Nat.cast_ofNat, ← zpow_natCast, ← zpow_add₀ two_ne_zero, add_comm]

/-- The leading bit of a value bounds it. -/
theorem leadExp_le {m : Nat} (hm : m ≠ 0) (e : Int) : (2 : ℚ) ^ leadExp m e ≤ magnitude m e := by
  rw [leadExp, ← magnitude_two_pow, magnitude_le_iff]
  exact Nat.log2_self_le hm

theorem lt_leadExp (m : Nat) (e : Int) : magnitude m e < 2 ^ (leadExp m e + 1) := by
  rw [leadExp, Int.add_assoc, ← Nat.cast_succ, ← magnitude_two_pow, magnitude_lt_iff]
  exact Nat.lt_log2_self

/-- Of two significands of b + 1 bits, the second with its leading bit, the one of the lower exponent is the less. -/
theorem magnitude_lt_of_exp_lt {b j k : Nat} {p q : Int} (hj : j < 2 ^ (b + 1)) (hk : 2 ^ b ≤ k) (h : p < q) :
    magnitude j p < magnitude k q :=
  calc magnitude j p < magnitude (2 ^ (b + 1)) p := magnitude_lt_iff.mpr hj
    _ = 2 ^ (p + 1 + b) := by rw [magnitude_two_pow]; congr 1; push_cast; ring
    _ ≤ 2 ^ (q + b) := zpow_le_zpow_right₀ one_le_two (by omega)
    _ = magnitude (2 ^ b) q := (magnitude_two_pow b q).symm
    _ ≤ magnitude k q := magnitude_le_iff.mpr hk

/-! ## Rounding to a multiple of a power of two (R261) -/

/-- Rounding toward zero gives the greatest multiple that is not beyond the value. -/
theorem le_roundAt_rz_iff {neg : Bool} {m k : Nat} {e q : Int} : k ≤ roundAt .rz neg m e q ↔ magnitude k q ≤ magnitude m e := by
  by_cases h : q ≤ e
  · rw [roundAt, if_pos h, magnitude_shift m h, magnitude_le_iff]
  · rw [roundAt, if_neg h, magnitude_shift k (show e ≤ q by omega), magnitude_le_iff, ← Nat.le_div_iff_mul_le (by positivity)]
    simp [roundShift]

theorem roundAt_rz_le (neg : Bool) (m : Nat) (e q : Int) : magnitude (roundAt .rz neg m e q) q ≤ magnitude m e :=
  le_roundAt_rz_iff.mp le_rfl

/-- A multiple is rounded to itself in every mode. -/
theorem roundAt_of_exact {m : Nat} {e q : Int} (h : exactAt m e q = true) (rm : Rm) (neg a : Bool) :
    roundAt rm neg m e q = roundAt .rz a m e q := by
  by_cases hq : q ≤ e
  · simp only [roundAt, if_pos hq]
  · have hr : m % 2 ^ (q - e).toNat = 0 := by simpa [exactAt, hq] using h
    simp only [roundAt, if_neg hq, roundShift, if_pos hr]

theorem exactAt_iff {m : Nat} {e q : Int} (neg : Bool) :
    exactAt m e q = true ↔ magnitude m e ≤ magnitude (roundAt .rz neg m e q) q := by
  by_cases h : q ≤ e
  · simp [exactAt, roundAt, h, magnitude_shift m h]
  · have hround : roundAt .rz neg m e q = m / 2 ^ (q - e).toNat := by simp [roundAt, roundShift, h]
    rw [hround, magnitude_shift _ (show e ≤ q by omega), magnitude_le_iff, exactAt]
    have hdiv := Nat.div_add_mod' m (2 ^ (q - e).toNat)
    simp only [h, decide_false, Bool.false_or, decide_eq_true_eq]
    omega

theorem exactAt_eq_false_iff {m : Nat} {e q : Int} (neg : Bool) :
    exactAt m e q = false ↔ magnitude (roundAt .rz neg m e q) q < magnitude m e := by
  rw [← Bool.not_eq_true, exactAt_iff neg, not_le]

/-! ## The finite numbers of an IEEE format (R257) -/

/-- The significand n and the step d of its exponent above the least, as a finite code of an IEEE format has them: a significand
without its leading bit is of the least exponent. -/
def ieeeHolds (eb mb n d : Nat) : Prop := n < 2 ^ (mb + 1) ∧ (n < 2 ^ mb → d = 0) ∧ d + 2 < 2 ^ eb

theorem four_le_two_pow {eb : Nat} (h : 2 ≤ eb) : 4 ≤ 2 ^ eb := Nat.pow_le_pow_right two_pos h

section
variable {eb mb n d : Nat}

/-- A magnitude code below the infinities is decoded as the number of its fields. -/
theorem decodeMag_ieee (a : Bool) (hn : n < 2 ^ (mb + 1)) (hd : n < 2 ^ mb → d = 0) :
    (Fmt.ieee eb mb).decodeMag a (d * 2 ^ mb + n) = .fin a n ((Fmt.ieee eb mb).qmin + d) := by
  simp only [Fmt.decodeMag, Fmt.prec, Nat.add_sub_cancel, Nat.mul_add_mod_self_right]
  by_cases h : n < 2 ^ mb
  · rw [hd h, Nat.zero_mul, Nat.zero_add, Nat.div_eq_of_lt h, Nat.mod_eq_of_lt h, if_pos rfl, Nat.cast_zero, add_zero]
  · obtain ⟨t, rfl⟩ := Nat.exists_eq_add_of_le (not_lt.mp h)
    have ht : t < 2 ^ mb := by omega
    rw [← Nat.add_assoc, ← Nat.succ_mul, Nat.mul_comm, Nat.mul_add_div (by positivity), Nat.add_mod_left, Nat.div_eq_of_lt ht,
      Nat.mod_eq_of_lt ht, if_neg (by omega)]
    push_cast
    congr 1
    ring

/-- The exponent field of such a code is not that of the infinities. -/
theorem ieeeHolds_field (h : ieeeHolds eb mb n d) : (d * 2 ^ mb + n) / 2 ^ mb < 2 ^ eb - 1 := by
  obtain ⟨hn, -, hd⟩ := h
  rw [Nat.div_lt_iff_lt_mul (by positivity)]
  calc d * 2 ^ mb + n < (d + 2) * 2 ^ mb := by rw [pow_succ] at hn; rw [Nat.add_mul]; omega
    _ ≤ (2 ^ eb - 1) * 2 ^ mb := Nat.mul_le_mul_right _ (by omega)

/-- A signed code of a magnitude below the infinities. -/
theorem decode_signed (a : Bool) {c : Nat} (h : c / 2 ^ mb < 2 ^ eb - 1) :
    (Fmt.ieee eb mb).decode ((Fmt.ieee eb mb).signed a c) = (Fmt.ieee eb mb).decodeMag a c := by
  have hc : c < 2 ^ (eb + mb) := by
    rw [pow_add, ← Nat.div_lt_iff_lt_mul (by positivity)]
    exact h.trans_le (Nat.sub_le _ _)
  have hneg : bit (c + bitOf a * 2 ^ (eb + mb)) (eb + mb) = a := by
    rw [bit, Nat.add_mul_div_right _ _ (by positivity), Nat.div_eq_of_lt hc]
    cases a <;> rfl
  simp only [Fmt.decode, Fmt.signed, hneg, Nat.add_mul_mod_self_right, Nat.mod_eq_of_lt hc, if_neg h.ne]

/-- The code of a significand and an exponent that the format holds is decoded as they are. -/
theorem decode_ieeeHolds (a : Bool) (h : ieeeHolds eb mb n d) :
    (Fmt.ieee eb mb).decode ((Fmt.ieee eb mb).signed a (d * 2 ^ mb + n)) = .fin a n ((Fmt.ieee eb mb).qmin + d) :=
  (decode_signed a (ieeeHolds_field h)).trans (decodeMag_ieee a h.1 h.2.1)

/-- Every finite number that a code stands for is one that the format holds. -/
theorem ieeeHolds_of_decode (heb : 2 ≤ eb) {c j : Nat} {a : Bool} {p : Int} (h : (Fmt.ieee eb mb).decode c = .fin a j p) :
    ∃ d : Nat, p = (Fmt.ieee eb mb).qmin + d ∧ ieeeHolds eb mb j d := by
  have hfour := four_le_two_pow heb
  have ht : c % 2 ^ (eb + mb) % 2 ^ mb < 2 ^ mb := Nat.mod_lt _ (by positivity)
  have hfield : c % 2 ^ (eb + mb) / 2 ^ mb < 2 ^ eb := by
    rw [Nat.div_lt_iff_lt_mul (by positivity), ← pow_add]
    exact Nat.mod_lt _ (by positivity)
  simp only [Fmt.decode, Fmt.decodeMag, Fmt.prec, Nat.add_sub_cancel] at h
  generalize c % 2 ^ (eb + mb) % 2 ^ mb = t at *
  generalize c % 2 ^ (eb + mb) / 2 ^ mb = x at *
  split at h
  · split at h <;> cases h
  · split at h
    · cases h
      exact ⟨0, by simp, by rw [pow_succ]; omega, fun _ => rfl, by omega⟩
    · cases h
      exact ⟨x - 1, by omega, by rw [pow_succ]; omega, fun hj => by omega, by omega⟩

/-- The greatest finite number. -/
theorem ieeeHolds_max (heb : 2 ≤ eb) : ieeeHolds eb mb (2 ^ (mb + 1) - 1) (2 ^ eb - 3) := by
  have hfour := four_le_two_pow heb
  have hpos : 0 < 2 ^ mb := by positivity
  exact ⟨by rw [pow_succ]; omega, fun h => by rw [pow_succ] at h; omega, by omega⟩

theorem maxCode_ieee (heb : 2 ≤ eb) : (Fmt.ieee eb mb).maxCode = (2 ^ eb - 3) * 2 ^ mb + (2 ^ (mb + 1) - 1) := by
  have hfour := four_le_two_pow heb
  have hpos : 0 < 2 ^ mb := by positivity
  obtain ⟨x, hx⟩ := Nat.exists_eq_add_of_le (show 3 ≤ 2 ^ eb by omega)
  simp only [Fmt.maxCode, hx, pow_succ, Nat.add_sub_cancel_left, show 3 + x - 1 = x + 2 by omega, Nat.add_mul]
  omega

theorem maxNum_ieee (heb : 2 ≤ eb) :
    (Fmt.ieee eb mb).maxNum = (2 ^ (mb + 1) - 1, (Fmt.ieee eb mb).qmin + ((2 ^ eb - 3 : Nat) : Int)) := by
  have h := ieeeHolds_max (mb := mb) heb
  rw [Fmt.maxNum, maxCode_ieee heb, decodeMag_ieee false h.1 h.2.1]

/-- No number that the format holds is beyond its greatest. -/
theorem magnitude_le_maxNum (heb : 2 ≤ eb) {j d : Nat} (h : ieeeHolds eb mb j d) :
    magnitude j ((Fmt.ieee eb mb).qmin + d) ≤ magnitude (Fmt.ieee eb mb).maxNum.1 (Fmt.ieee eb mb).maxNum.2 := by
  obtain ⟨hj, -, hd⟩ := h
  have hpos : 0 < 2 ^ mb := by positivity
  rw [maxNum_ieee heb]
  obtain hlt | heq : d < 2 ^ eb - 3 ∨ d = 2 ^ eb - 3 := by omega
  · exact (magnitude_lt_of_exp_lt hj (by rw [pow_succ]; omega) (by omega)).le
  · rw [heq, magnitude_le_iff]
    omega

/-! ## Rounding into an IEEE format (R261, R262) -/

/-- The exponent of the last bit to which a value is rounded: that of its own precision, or the least of the format. -/
def Fmt.lastBit (f : Fmt) (m : Nat) (e : Int) : Int := max (leadExp m e - (f.prec - 1)) f.qmin

theorem lastBit_ieee (m : Nat) (e : Int) :
    (Fmt.ieee eb mb).lastBit m e = max (leadExp m e - mb) (Fmt.ieee eb mb).qmin := by
  simp [Fmt.lastBit, Fmt.prec]

/-- A rounded value that is not beyond the greatest number has the code of its significand and exponent, NX where it is not the
exact one, and no flag where it is. -/
theorem roundIeee_inRange (f : Fmt) (rm : Rm) (a : Bool) {m : Nat} {e : Int}
    (h : lessAt f.maxNum.1 f.maxNum.2 (roundAt rm a m e (f.lastBit m e)) (f.lastBit m e) = false) :
    (roundIeee f rm a m e).1 = f.signed a ((f.lastBit m e - f.qmin).toNat * 2 ^ (f.prec - 1) + roundAt rm a m e (f.lastBit m e)) ∧
    ((roundIeee f rm a m e).2 &&& flagNX ≠ 0 ↔ exactAt m e (f.lastBit m e) = false) ∧
    (exactAt m e (f.lastBit m e) = true → (roundIeee f rm a m e).2 = 0) := by
  rw [Fmt.lastBit] at h ⊢
  simp only [roundIeee, h, Bool.false_eq_true, if_false, true_and]
  cases exactAt m e (max (leadExp m e - (f.prec - 1)) f.qmin)
  · simp only [Bool.not_false, Bool.and_true, if_true, reduceCtorEq, false_imp_iff, and_true]
    split <;> decide
  · simp

/-- Toward zero, a value beyond the greatest number becomes the greatest number, with NX. -/
theorem roundIeee_rz_beyond (f : Fmt) (a : Bool) {m : Nat} {e : Int}
    (h : lessAt f.maxNum.1 f.maxNum.2 (roundAt .rz a m e (f.lastBit m e)) (f.lastBit m e) = true) :
    roundIeee f .rz a m e = (f.signed a f.maxCode, flagOF ||| flagNX) := by
  rw [Fmt.lastBit] at h
  simp only [roundIeee, h, Bool.false_eq_true, if_false, if_true]

/-- A last bit above the least exponent leaves a value its leading bit. -/
theorem le_roundAt_lastBit (a : Bool) {m : Nat} (hm : m ≠ 0) {e : Int}
    (h : (Fmt.ieee eb mb).lastBit m e ≠ (Fmt.ieee eb mb).qmin) : 2 ^ mb ≤ roundAt .rz a m e ((Fmt.ieee eb mb).lastBit m e) := by
  rw [lastBit_ieee] at h
  have hlead : leadExp m e = (Fmt.ieee eb mb).lastBit m e + mb := by
    rw [lastBit_ieee]
    omega
  rw [le_roundAt_rz_iff, magnitude_two_pow, ← hlead]
  exact leadExp_le hm e

/-- A value has no bit above the precision of the format. -/
theorem roundAt_lastBit_lt (a : Bool) (m : Nat) (e : Int) :
    roundAt .rz a m e ((Fmt.ieee eb mb).lastBit m e) < 2 ^ (mb + 1) := by
  rw [← magnitude_lt_iff, magnitude_two_pow]
  calc magnitude (roundAt .rz a m e ((Fmt.ieee eb mb).lastBit m e)) ((Fmt.ieee eb mb).lastBit m e) ≤ magnitude m e := roundAt_rz_le ..
    _ < 2 ^ (leadExp m e + 1) := lt_leadExp m e
    _ ≤ _ := zpow_le_zpow_right₀ one_le_two (by rw [lastBit_ieee]; omega)

/-- A value cut at its last bit and not beyond the greatest number is one that the format holds. -/
theorem ieeeHolds_roundAt (heb : 2 ≤ eb) (a : Bool) {m : Nat} (hm : m ≠ 0) {e : Int} {n : Nat} {q : Int}
    (hq : (Fmt.ieee eb mb).lastBit m e = q) (hn : roundAt .rz a m e q = n)
    (h : lessAt (Fmt.ieee eb mb).maxNum.1 (Fmt.ieee eb mb).maxNum.2 n q = false) :
    ∃ d : Nat, q = (Fmt.ieee eb mb).qmin + d ∧ ieeeHolds eb mb n d := by
  subst hq hn
  have hlt := roundAt_lastBit_lt (eb := eb) (mb := mb) a m e
  have hlead := le_roundAt_lastBit (eb := eb) (mb := mb) a hm (e := e)
  have hmin : (Fmt.ieee eb mb).qmin ≤ (Fmt.ieee eb mb).lastBit m e := le_max_right _ _
  refine ⟨((Fmt.ieee eb mb).lastBit m e - (Fmt.ieee eb mb).qmin).toNat, by omega, hlt, fun hsmall => ?_, ?_⟩
  · by_contra hd
    exact absurd (hlead (by omega)) (by omega)
  · by_contra hd
    have hfour := four_le_two_pow heb
    have hpos : 0 < 2 ^ mb := by positivity
    rw [lessAt_eq_false_iff, maxNum_ieee heb] at h
    exact absurd h (not_le.mpr (magnitude_lt_of_exp_lt (b := mb) (by rw [pow_succ]; omega) (hlead (by omega)) (by omega)))

/-- No number that the format holds lies between the exact value and the value cut at its last bit. -/
theorem magnitude_le_roundAt (a : Bool) {m : Nat} (hm : m ≠ 0) {e : Int} {j d : Nat} (h : ieeeHolds eb mb j d)
    (hle : magnitude j ((Fmt.ieee eb mb).qmin + d) ≤ magnitude m e) :
    magnitude j ((Fmt.ieee eb mb).qmin + d) ≤
      magnitude (roundAt .rz a m e ((Fmt.ieee eb mb).lastBit m e)) ((Fmt.ieee eb mb).lastBit m e) := by
  by_cases hd : (Fmt.ieee eb mb).lastBit m e ≤ (Fmt.ieee eb mb).qmin + d
  · rw [magnitude_shift j hd] at hle ⊢
    exact magnitude_le_iff.mpr (le_roundAt_rz_iff.mpr hle)
  · exact (magnitude_lt_of_exp_lt h.1 (le_roundAt_lastBit a hm (by omega)) (by omega)).le

/-- A value that keeps its bits down to the last, in a mode, has the code of what it keeps. -/
theorem decode_roundIeee (heb : 2 ≤ eb) {rm : Rm} (a : Bool) {m : Nat} (hm : m ≠ 0) {e : Int} {n : Nat} {q : Int}
    (hq : (Fmt.ieee eb mb).lastBit m e = q) (hn : roundAt .rz a m e q = n) (hrm : roundAt rm a m e q = n)
    (h : lessAt (Fmt.ieee eb mb).maxNum.1 (Fmt.ieee eb mb).maxNum.2 n q = false) :
    (Fmt.ieee eb mb).decode (roundIeee (.ieee eb mb) rm a m e).1 = .fin a n q := by
  obtain ⟨d, hd, hholds⟩ := ieeeHolds_roundAt heb a hm hq hn h
  subst hq
  rw [(roundIeee_inRange _ rm a (hrm.symm ▸ h)).1, hrm, hd, add_sub_cancel_left, Int.toNat_natCast]
  exact decode_ieeeHolds a hholds

theorem give_ieee_fin (rm : Rm) (a : Bool) {m : Nat} (hm : m ≠ 0) (e : Int) (g : Word) :
    (Fmt.ieee eb mb).give rm (.fin a m e) g =
      ⟨(roundIeee (.ieee eb mb) rm a m e).1, (roundIeee (.ieee eb mb) rm a m e).2, g⟩ := by
  simp [Fmt.give, hm]

/-- R261 under RM 01 and R262's NX, in an IEEE format. -/
theorem give_rz_ieee (heb : 2 ≤ eb) (a : Bool) {m : Nat} (hm : m ≠ 0) (e : Int) (g : Word) :
    ∃ (k : Nat) (q : Int), (Fmt.ieee eb mb).decode ((Fmt.ieee eb mb).give .rz (.fin a m e) g).code = .fin a k q ∧
      magnitude k q ≤ magnitude m e ∧
      (∀ (c j : Nat) (p : Int), (Fmt.ieee eb mb).decode c = .fin a j p → magnitude j p ≤ magnitude m e → magnitude j p ≤ magnitude k q) ∧
      (((Fmt.ieee eb mb).give .rz (.fin a m e) g).flags &&& flagNX ≠ 0 ↔ magnitude k q < magnitude m e) := by
  rw [give_ieee_fin _ _ hm]
  have hcut := roundAt_rz_le a m e ((Fmt.ieee eb mb).lastBit m e)
  cases h : lessAt (Fmt.ieee eb mb).maxNum.1 (Fmt.ieee eb mb).maxNum.2 (roundAt .rz a m e ((Fmt.ieee eb mb).lastBit m e))
    ((Fmt.ieee eb mb).lastBit m e) with
  | false =>
    refine ⟨_, _, decode_roundIeee heb a hm rfl rfl rfl h, hcut, fun c j p hc hle => ?_,
      (roundIeee_inRange _ .rz a h).2.1.trans (exactAt_eq_false_iff a)⟩
    obtain ⟨d, rfl, hj⟩ := ieeeHolds_of_decode heb hc
    exact magnitude_le_roundAt a hm hj hle
  | true =>
    rw [roundIeee_rz_beyond _ a h]
    have hbeyond := (lessAt_iff.mp h).trans_le hcut
    have hnx : (flagOF ||| flagNX) &&& flagNX ≠ 0 := by decide
    refine ⟨_, _, ?_, hbeyond.le, fun c j p hc _ => ?_, fun _ => hbeyond, fun _ => hnx⟩
    · rw [maxCode_ieee heb, decode_ieeeHolds a (ieeeHolds_max heb), maxNum_ieee heb]
    · obtain ⟨d', rfl, hj⟩ := ieeeHolds_of_decode heb hc
      exact magnitude_le_maxNum heb hj

end

/-- The formats of the scalar float instructions are IEEE formats (R284). -/
theorem ftFmt_ieee (ft : FloatFmt) : ∃ eb mb, 2 ≤ eb ∧ ftFmt ft = .ieee eb mb := by
  cases ft
  · exact ⟨8, 23, by decide, rfl⟩
  · exact ⟨5, 10, by decide, rfl⟩
  · exact ⟨8, 7, by decide, rfl⟩

end Sys2Proof.Machine

section
open Sys2Proof Sys2Proof.Machine

/-- Settles O22: the code is that of the value cut at its last bit, or of the greatest number where that is beyond it, and no number
of the format lies between the two. -/
theorem roundingTowardZero : Obligations.RoundingTowardZero := by
  unfold Obligations.RoundingTowardZero
  intro ft a m e hm f r
  obtain ⟨eb, mb, heb, hf⟩ : ∃ eb mb, 2 ≤ eb ∧ f = .ieee eb mb := ftFmt_ieee ft
  obtain ⟨k, q, hdecode, hle, hgreatest, hnx⟩ := give_rz_ieee (mb := mb) heb a hm e 0
  simp only [r, hf, lessAt_eq_false_iff, lessAt_iff]
  exact ⟨k, q, hdecode, hle, fun c j p hc hlt => lt_of_not_ge fun h => hlt.not_ge (hgreatest c j p hc h), hnx⟩

end
end

section
/-!
PROOF of O21. The special cases of the float arithmetic (R331, R332): what an operation gives for a NaN operand and for numbers, the
special values given in an IEEE format, and the operations on them.
-/

namespace Sys2Proof.Machine

/-! ## Operands -/

theorem Num.isZero_iff {x : Num} : x.isZero = true ↔ ∃ a e, x = .fin a 0 e := by
  cases x <;> simp [Num.isZero]

theorem sigFlag_pair (x y : Num) : sigFlag [x, y] = if x.isSig || y.isSig then flagIV else 0 := by
  simp [sigFlag]

theorem Num.isSig_of_number {x : Num} (h : x.isNan = false) : x.isSig = false := by
  cases x with
  | nan s => cases h
  | inf a => rfl
  | fin a m e => rfl

/-! ## The special values given in a format (R257, R261) -/

theorem give_nan (f : Fmt) (rm : Rm) (s : Bool) (g : Word) : f.give rm (.nan s) g = ⟨f.nanCode, if s then flagIV else 0, g⟩ := by
  cases f <;> rfl

theorem give_ieee_inf (eb mb : Nat) (rm : Rm) (a : Bool) (g : Word) :
    (Fmt.ieee eb mb).give rm (.inf a) g = ⟨(Fmt.ieee eb mb).signed a ((Fmt.ieee eb mb).maxCode + 1), 0, g⟩ := rfl

theorem give_ieee_zero (eb mb : Nat) (rm : Rm) (a : Bool) (e : Int) (g : Word) :
    (Fmt.ieee eb mb).give rm (.fin a 0 e) g = ⟨(Fmt.ieee eb mb).signed a 0, 0, g⟩ := rfl

/-! ## One operation rounded once (R331) -/

section
variable {f : Fmt} {rm : Rm} {g : Word} {x y : Num}

/-- A NaN operand gives the canonical NaN, whatever the operation. -/
theorem Fmt.op2_nan (o : Num → Num → Num × Flags) (h : x.isNan = true ∨ y.isNan = true) :
    (f.op2 rm g o x y).pair = (f.nanCode, if x.isSig || y.isSig then flagIV else 0) := by
  rw [Fmt.op2, if_pos (by simpa using h), sigFlag_pair]
  rfl

/-- Numbers whose result the format holds give its code and the operation's flag. -/
theorem Fmt.op2_given {o : Num → Num → Num × Flags} {v : Num} {fl : Flags} {c : Nat} (hx : x.isNan = false) (hy : y.isNan = false)
    (ho : o x y = (v, fl)) (hv : f.give rm v g = ⟨c, 0, g⟩) : (f.op2 rm g o x y).pair = (c, fl) := by
  simp [Fmt.op2, hx, hy, ho, hv, Rounded.pair]

theorem Fmt.op1_given {o : Num → Num × Flags} {v : Num} {fl : Flags} {c : Nat} (hx : x.isNan = false)
    (ho : o x = (v, fl)) (hv : f.give rm v g = ⟨c, 0, g⟩) : (f.op1 rm g o x).pair = (c, fl) := by
  simp [Fmt.op1, hx, ho, hv, Rounded.pair]

/-- An operation without a value gives the canonical NaN and IV. -/
theorem Fmt.op2_invalid {o : Num → Num → Num × Flags} (hx : x.isNan = false) (hy : y.isNan = false) (ho : o x y = (.nan false, flagIV)) :
    (f.op2 rm g o x y).pair = (f.nanCode, flagIV) :=
  Fmt.op2_given hx hy ho (give_nan f rm false g)

theorem Fmt.op1_invalid {o : Num → Num × Flags} (hx : x.isNan = false) (ho : o x = (.nan false, flagIV)) :
    (f.op1 rm g o x).pair = (f.nanCode, flagIV) :=
  Fmt.op1_given hx ho (give_nan f rm false g)

/-- An infinity times a zero in FFMA is invalid before any NaN is looked for. -/
theorem Fmt.fma_infZero {a : Bool} (z : Num) (h : (x = .inf a ∧ y.isZero = true) ∨ (y = .inf a ∧ x.isZero = true)) :
    (f.fma rm g x y z).pair = (f.nanCode, flagIV) := by
  obtain ⟨rfl, hz⟩ | ⟨rfl, hz⟩ := h
  · simp [Fmt.fma, hz, Rounded.pair]
  · obtain ⟨b, e, rfl⟩ := Num.isZero_iff.mp hz
    simp [Fmt.fma, Num.isZero, Rounded.pair]

end

/-! ## The operations on special values (R331) -/

theorem addNum_inf_opposite (rm : Rm) (a : Bool) : addNum rm (.inf a) (.inf !a) = (.nan false, flagIV) := by
  simp [addNum]

/-- R261: an exact zero sum of opposite signs. -/
theorem addNum_opposite (rm : Rm) (a : Bool) (m : Nat) (e : Int) :
    addNum rm (.fin a m e) (.fin (!a) m e) = (.fin (decide (rm = .rd)) 0 0, 0) := by
  cases a <;> simp [addNum, alignInt, ofInt]

theorem mulNum_zero_inf {x : Num} (h : x.isZero = true) (a : Bool) :
    mulNum x (.inf a) = (.nan false, flagIV) ∧ mulNum (.inf a) x = (.nan false, flagIV) := by
  obtain ⟨b, e, rfl⟩ := Num.isZero_iff.mp h
  exact ⟨rfl, rfl⟩

theorem divNum_zeros {x y : Num} (hx : x.isZero = true) (hy : y.isZero = true) : divNum x y = (.nan false, flagIV) := by
  obtain ⟨a, e, rfl⟩ := Num.isZero_iff.mp hx
  obtain ⟨b, k, rfl⟩ := Num.isZero_iff.mp hy
  rfl

theorem divNum_by_zero (a b : Bool) {m : Nat} (hm : m ≠ 0) (e k : Int) :
    divNum (.fin a m e) (.fin b 0 k) = (.inf (a != b), flagDZ) := by
  simp [divNum, hm]

theorem sqrtNum_negative {m : Nat} (hm : m ≠ 0) (e : Int) : sqrtNum (.fin true m e) = (.nan false, flagIV) := by
  simp [sqrtNum, hm]

theorem Num.number_of_isZero {x : Num} (h : x.isZero = true) : x.isNan = false := by
  obtain ⟨a, e, rfl⟩ := Num.isZero_iff.mp h
  rfl

/-! ## The lesser and the greater of two codes (R332) -/

section
variable {f : Fmt} {c d : Nat} (greater : Bool) (hc : (f.decode c).isNan = true)
include hc

theorem Fmt.pick_nan :
    f.pick greater false c d = (f.nanCode, if (f.decode c).isSig || (f.decode d).isSig then flagIV else 0) := by
  simp [Fmt.pick, hc, sigFlag_pair]

/-- FMINM and FMAXM give the operand that is a number. -/
theorem Fmt.pick_number (hd : (f.decode d).isNan = false) :
    f.pick greater true c d = (d, if (f.decode c).isSig then flagIV else 0) := by
  simp [Fmt.pick, hc, hd, sigFlag_pair, Num.isSig_of_number hd]

end

end Sys2Proof.Machine

section
open Sys2Proof Sys2Proof.Machine

/-- Settles O21: an operation on numbers is rounded once from what it gives for the special values, and a NaN operand comes before it. -/
theorem floatSpecialCases : Obligations.FloatSpecialCases := by
  unfold Obligations.FloatSpecialCases
  intro ft rm x y z f n
  obtain ⟨eb, mb, -, hf⟩ : ∃ eb mb, 2 ≤ eb ∧ f = .ieee eb mb := ftFmt_ieee ft
  refine ⟨fun a h => Fmt.fma_infZero z h, fun h => ⟨Fmt.op2_nan _ h, Fmt.op2_nan _ h, Fmt.op2_nan _ h⟩,
    fun a => Fmt.op2_invalid rfl rfl (addNum_inf_opposite rm a), fun a h => ?mulZeroInf, fun a b => Fmt.op2_invalid rfl rfl rfl,
    fun hx hy => Fmt.op2_invalid (Num.number_of_isZero hx) (Num.number_of_isZero hy) (divNum_zeros hx hy),
    fun a b m e k hm => ?divideByZero, fun a e => ?rootOfZero, fun m e hm => Fmt.op1_invalid rfl (sqrtNum_negative hm e),
    Fmt.op1_invalid rfl rfl, fun a m e _ => ?zeroSum, fun c d g hc => ⟨Fmt.pick_nan g hc, Fmt.pick_number g hc⟩⟩
  case mulZeroInf =>
    have hx := Num.number_of_isZero h
    exact ⟨Fmt.op2_invalid hx rfl (mulNum_zero_inf h a).1, Fmt.op2_invalid rfl hx (mulNum_zero_inf h a).2⟩
  case divideByZero =>
    rw [hf]
    exact Fmt.op2_given rfl rfl (divNum_by_zero a b hm e k) (give_ieee_inf eb mb rm _ 0)
  case rootOfZero =>
    rw [hf]
    exact Fmt.op1_given rfl rfl (give_ieee_zero eb mb rm a 0 0)
  case zeroSum =>
    rw [hf]
    exact Fmt.op2_given rfl rfl (addNum_opposite rm a m e) (give_ieee_zero eb mb rm _ 0 0)

end
end

section
/-!
PROOF of O25. The conversions: a float form's code and flags from its operands (R329, R337, R338), numbers as INT32 (R264), integers that
FP32 holds (R263), and the draw of a binary8 format (R266, R267).
-/

namespace Sys2Proof.Machine

open Claims

/-! ## Operands and results of a float form (R329) -/

theorem portL_eq_mod (s : State) {b n : Nat} (h : b ≤ 8 * n) : (portL b s).toNat = s.sch.cur.l n % 2 ^ b := by
  simp [portL, low, Firing.l, Val.low, Nat.mod_mod_of_dvd _ (Nat.pow_dvd_pow 2 h)]

theorem operandF_l (ft : FloatFmt) (s : State) : operandF ft (s.sch.cur.l 4) = numL ft s := by
  rw [operandF, numL, codeL, portL_eq_mod s (n := 4) (by cases ft <;> decide)]

/-- R325: a signed number of the port. -/
theorem signed_l (s : State) {n : Nat} (h : 0 < n) : signed (8 * n) (s.sch.cur.l n) = (portL (8 * n) s).toInt := by
  have hmod : s.sch.cur.l n % 2 ^ (8 * n) = s.sch.cur.l n := by
    rw [← portL_toNat, Nat.mod_eq_of_lt (portL (8 * n) s).isLt]
  have hpow : 2 ^ (8 * n) = 2 * 2 ^ (8 * n - 1) := by rw [← pow_succ', Nat.sub_add_cancel (by omega)]
  rw [BitVec.toInt_eq_toNat_cond, portL_toNat, signed, hmod, hpow]
  simp only [Nat.mul_lt_mul_left two_pos]

/-- An instruction that fires with one result and its flags sends it. -/
theorem sendsFloat_of_fires {i : Instr} {pd : Pd} {t1 t0 : Target} {r : State → Nat × Flags} (o : Firing → State → Nat × Flags)
    (hpd : i.pd = pd)
    (hi : ∀ s, exec i s = s.sendsForm pd (fun f s => both t0 t1 (Val.of 4 (o f s).1)) (fun f s => (o f s).2) fun _ _ => id)
    (hr : ∀ s, o s.sch.cur s = r s) : SendsFloat i t1 t0 r := by
  intro s hp hsend
  rw [hi, State.sendsForm, State.fire_passed _ _ _ (hpd ▸ hp), hr]
  exact State.finish_ready _ _ _ _ _ hsend

theorem sendsFloat_of_floatForm {i : Instr} {pd : Pd} {t1 t0 : Target} {r : State → Nat × Flags} {o : Nat → Nat → Nat → Nat × Flags}
    (hpd : i.pd = pd) (hi : ∀ s, exec i s = s.floatForm pd t1 t0 o)
    (hr : ∀ s, o (s.sch.cur.l 4) (s.sch.cur.r 4) (s.sch.cur.p 4) = r s) : SendsFloat i t1 t0 r :=
  sendsFloat_of_fires (fun f _ => o (f.l 4) (f.r 4) (f.p 4)) hpd hi hr

/-! ## The instructions, by name (R337, R338) -/

section
variable (pd : Pd) (ft : FloatFmt) (rm : Rm) (t1 t0 : Target)

theorem exec_cvtS (s : State) : exec (.cvtS pd ft rm t1 t0) s = execCvtS pd ft rm t1 t0 s := rfl

theorem exec_cvtH (s : State) : exec (.cvtH pd ft rm t1 t0) s = execCvtH pd ft rm t1 t0 s := rfl

theorem exec_cvtB (s : State) : exec (.cvtB pd ft rm t1 t0) s = execCvtB pd ft rm t1 t0 s := rfl

theorem exec_cvtfi (s : State) : exec (.cvtfi pd ft rm t1 t0) s = execCvtfi pd ft rm t1 t0 s := rfl

theorem exec_cvtif (s : State) : exec (.cvtif pd ft rm t1 t0) s = execCvtif pd ft rm t1 t0 s := rfl

theorem exec_cvtifL (s : State) : exec (.cvtifL pd ft rm t1 t0) s = execCvtifL pd ft rm t1 t0 s := rfl

theorem exec_cvf8 (s : State) : exec (.cvf8 pd ft t1 t0) s = execCvf8 pd ft t1 t0 s := rfl

theorem exec_cvt8 (s : State) : exec (.cvt8 pd ft t1 t0) s = execCvt8 pd ft t1 t0 s := rfl

theorem cvtS_sends : SendsFloat (.cvtS pd ft rm t1 t0) t1 t0 fun s => (fp32.give rm (numL ft s) 0).pair :=
  sendsFloat_of_floatForm rfl (exec_cvtS pd ft rm t1 t0) fun s => by rw [operandF_l]

theorem cvtH_sends : SendsFloat (.cvtH pd ft rm t1 t0) t1 t0 fun s => (fp16.give rm (numL ft s) 0).pair :=
  sendsFloat_of_floatForm rfl (exec_cvtH pd ft rm t1 t0) fun s => by rw [operandF_l]

theorem cvtB_sends : SendsFloat (.cvtB pd ft rm t1 t0) t1 t0 fun s => (bf16.give rm (numL ft s) 0).pair :=
  sendsFloat_of_floatForm rfl (exec_cvtB pd ft rm t1 t0) fun s => by rw [operandF_l]

theorem cvtfi_sends : SendsFloat (.cvtfi pd ft rm t1 t0) t1 t0 fun s =>
    ((BitVec.ofInt 32 (toIntIn rm (-2147483648) 2147483647 (numL ft s)).1).toNat,
      (toIntIn rm (-2147483648) 2147483647 (numL ft s)).2) :=
  sendsFloat_of_floatForm rfl (exec_cvtfi pd ft rm t1 t0) fun s => by rw [operandF_l, BitVec.toNat_ofInt]; rfl

theorem cvtif_sends : SendsFloat (.cvtif pd ft rm t1 t0) t1 t0 fun s => giveInt ft rm (portL 32 s).toInt :=
  sendsFloat_of_floatForm rfl (exec_cvtif pd ft rm t1 t0) fun s => by rw [← signed_l s (n := 4) (by decide)]

theorem cvtifL_sends : SendsFloat (.cvtifL pd ft rm t1 t0) t1 t0 fun s => giveInt ft rm (portL 64 s).toInt :=
  sendsFloat_of_fires (fun f _ => giveInt ft rm (signed 64 (f.l 8))) rfl (exec_cvtifL pd ft rm t1 t0) fun s => by
    rw [← signed_l s (n := 8) (by decide)]

theorem cvf8_sends : SendsFloat (.cvf8 pd ft t1 t0) t1 t0 fun s =>
    ((ftFmt ft).give .rn ((s.vfmt s.sch.cur).decode (portL 8 s).toNat) 0).pair :=
  sendsFloat_of_fires (fun f s => ((ftFmt ft).give .rn ((s.vfmt f).decode (f.l 4 % 256)) 0).pair) rfl (exec_cvf8 pd ft t1 t0) fun s => by
    rw [portL_eq_mod s (n := 4) (by decide)]
    rfl

theorem cvt8_sends {s : State} (hp : s.sch.cur.passes pd = true)
    (hr : s.canSend s.sch.cur
      (toBoth t0 t1 (Val.of 4 ((s.vfmt s.sch.cur).give .rn (numL ft s) (s.rngOf s.sch.cur)).code)) = true) :
    exec (.cvt8 pd ft t1 t0) s = .next (((s.setRng s.sch.cur ((s.vfmt s.sch.cur).give .rn (numL ft s) (s.rngOf s.sch.cur)).rng).raise
      s.sch.cur ((s.vfmt s.sch.cur).give .rn (numL ft s) (s.rngOf s.sch.cur)).flags).sendAll s.sch.cur s.sch.cur.acc.tag false
        (toBoth t0 t1 (Val.of 4 ((s.vfmt s.sch.cur).give .rn (numL ft s) (s.rngOf s.sch.cur)).code))) := by
  rw [exec_cvt8, execCvt8, State.fire_passed _ _ _ hp, operandF_l]
  exact State.finish_ready _ _ _ _ _ hr

end

/-! ## Numbers as integers (R264) -/

/-- An integer is a multiple of 1. -/
theorem roundAt_integer (rm : Rm) (a : Bool) (m : Nat) : roundAt rm a m 0 0 = m := by simp [roundAt]

/-- An integer in the range is itself, without a flag. -/
theorem toIntIn_integer (rm : Rm) {lo hi : Int} (a : Bool) (m : Nat) (hlo : lo ≤ if a then -(m : Int) else m)
    (hhi : (if a then -(m : Int) else m) ≤ hi) : toIntIn rm lo hi (.fin a m 0) = (if a then -(m : Int) else m, 0) := by
  rw [toIntIn, roundAt_integer]
  simp only [if_neg hlo.not_gt, if_neg hhi.not_gt]
  rfl

/-- An integer beyond the range is its nearest end, with IV. -/
theorem toIntIn_above (rm : Rm) {lo hi : Int} {m : Nat} (hlo : lo ≤ m) (hhi : hi < m) : toIntIn rm lo hi (.fin false m 0) = (hi, flagIV) := by
  rw [toIntIn, roundAt_integer]
  simp [hlo.not_gt, hhi]

/-! ## Integers as numbers (R263) -/

theorem eqv_of_magnitude {a : Bool} {k m : Nat} {q e : Int} (h : magnitude k q = magnitude m e) :
    Num.eqv (.fin a k q) (.fin a m e) = true := by
  rw [magnitude_shift k (min_le_left q e), magnitude_shift m (min_le_right q e)] at h
  have hnat := le_antisymm (magnitude_le_iff.mp h.le) (magnitude_le_iff.mp h.ge)
  rw [Num.eqv, decide_eq_true_iff]
  simp only [alignInt]
  exact_mod_cast congrArg (fun n : Nat => if a then -(n : Int) else n) hnat

/-- A value that ends at its last bit and is not beyond the greatest number is given as it is, without a flag. -/
theorem give_exact {eb mb : Nat} (heb : 2 ≤ eb) (rm : Rm) (a : Bool) {m : Nat} (hm : m ≠ 0) (e : Int) (g : Word)
    (hexact : exactAt m e ((Fmt.ieee eb mb).lastBit m e) = true)
    (hmax : magnitude m e ≤ magnitude (Fmt.ieee eb mb).maxNum.1 (Fmt.ieee eb mb).maxNum.2) :
    ((Fmt.ieee eb mb).give rm (.fin a m e) g).flags = 0 ∧
    Num.eqv ((Fmt.ieee eb mb).decode ((Fmt.ieee eb mb).give rm (.fin a m e) g).code) (.fin a m e) = true := by
  have hround := roundAt_of_exact hexact rm a a
  have hle := roundAt_rz_le a m e ((Fmt.ieee eb mb).lastBit m e)
  have hin := lessAt_eq_false_iff.mpr (hle.trans hmax)
  rw [give_ieee_fin _ _ hm, decode_roundIeee heb a hm rfl rfl hround hin]
  exact ⟨(roundIeee_inRange _ rm a (hround.symm ▸ hin)).2.2 hexact, eqv_of_magnitude (hle.antisymm ((exactAt_iff a).mp hexact))⟩

/-- FP32 holds every integer below 2^24. -/
theorem fp32_holds_integer {m : Nat} (hm : m ≠ 0) (h : m < 2 ^ 24) :
    exactAt m 0 (fp32.lastBit m 0) = true ∧ magnitude m 0 ≤ magnitude fp32.maxNum.1 fp32.maxNum.2 := by
  constructor
  · have hlog : ilog2 m < 24 := (Nat.log2_lt hm).mpr h
    have hlast : fp32.lastBit m 0 ≤ 0 := by
      rw [fp32, lastBit_ieee, leadExp]
      exact max_le (by omega) (by decide)
    simp [exactAt, hlast]
  · rw [show fp32.maxNum = (2 ^ 24 - 1, 104) by decide]
    exact (magnitude_lt_of_exp_lt (b := 23) h (by decide) (by decide)).le

theorem giveInt_exact (rm : Rm) {i : Int} (h : i.natAbs < 2 ^ 24) :
    (giveInt .s rm i).2 = 0 ∧ Num.eqv (fp32.decode (giveInt .s rm i).1) (ofInt i 0 false) = true := by
  by_cases hi : i = 0
  · subst hi
    cases rm <;> decide
  · obtain ⟨hexact, hmax⟩ := fp32_holds_integer (by omega) h
    rw [giveInt, ofInt, if_neg hi]
    exact give_exact (by decide) rm _ (by omega) 0 0 hexact hmax

/-! ## The draw of a binary8 format (R266, R267) -/

/-- A finite value leaves the generator, or draws from it once. -/
theorem roundB8_rng (p : Nat) (sgn ext a : Bool) (m : Nat) (e : Int) (g : Word) :
    (roundB8 (.b8 p sgn ext) a m e g).rng = g ∨ (roundB8 (.b8 p sgn ext) a m e g).rng = rngNext g := by
  simp only [roundB8]
  generalize lessAt m e 1 _ = draws
  split
  · exact .inl rfl
  · split
    · exact .inl rfl
    · split
      · exact .inr rfl
      · exact .inl rfl

/-- An infinity draws nothing. -/
theorem give_b8_inf_rng (p : Nat) (sgn ext : Bool) (rm : Rm) (a : Bool) (g : Word) :
    ((Fmt.b8 p sgn ext).give rm (.inf a) g).rng = g := by
  simp only [Fmt.give]
  split
  · rfl
  · split <;> rfl

theorem give_b8_rng (p : Nat) (sgn ext : Bool) (rm : Rm) (x : Num) (g : Word) :
    ((Fmt.b8 p sgn ext).give rm x g).rng = g ∨ ((Fmt.b8 p sgn ext).give rm x g).rng = rngNext g := by
  cases x with
  | nan s => exact .inl rfl
  | inf a => exact .inl (give_b8_inf_rng p sgn ext rm a g)
  | fin a m e =>
    simp only [Fmt.give]
    split
    · exact .inl rfl
    · exact roundB8_rng p sgn ext a m e g

end Sys2Proof.Machine

section
open Sys2Proof Sys2Proof.Machine

/-- Settles O25: each clause is one of the rules above. -/
theorem conversions : Obligations.Conversions := by
  unfold Obligations.Conversions
  refine ⟨fun pd ft rm t1 t0 => ⟨cvtS_sends pd ft rm t1 t0, cvtH_sends pd ft rm t1 t0, cvtB_sends pd ft rm t1 t0,
    cvtfi_sends pd ft rm t1 t0, cvtif_sends pd ft rm t1 t0, cvtifL_sends pd ft rm t1 t0, cvf8_sends pd ft t1 t0,
    fun s hp => ?cvt8⟩, fun rm a => ⟨rfl, rfl, fun m hm => ?above, fun m hm => ?inRange⟩,
    fun rm i hi => giveInt_exact rm hi, fun p sgn ext x g => give_b8_rng p sgn ext .rn x g⟩
  case cvt8 => exact fun hr => cvt8_sends pd ft t1 t0 hp hr
  case above => exact toIntIn_above rm (by omega) (by omega)
  case inRange => exact toIntIn_integer rm a m (by split <;> omega) (by split <;> omega)

end
end

section
/-!
PROOF of O41. The end of a tile-engine operation (R357, R359), a row step of a matrix sequence (R367, R369), and the accumulator's sum and
readout (R271 to R273).
-/

namespace Sys2Proof.Machine

/-! ## TILE_ENGINE_DONE (R357, R359) -/

theorem exec_tileEngineDone (s : State) : exec .tileEngineDone s = execTileEngineDone s := rfl

theorem exec_matrixRowStep (s : State) : exec .matrixRowStep s = execMatrixRowStep s := rfl

/-- The cell after an engine's operation, and the flags of its pooling. -/
def EngineOp.done (e : EngineOp) (c : Cell) : Cell × Flags :=
  match e.kind with
  | .trans => (c.transpose e.td e.ta, 0)
  | .poolMax => c.pool true e.td e.ta e.tb e.l
  | .poolAvg => c.pool false e.td e.ta e.tb e.l
  | .bload => (c.bload e.td e.ta e.l, 0)
  | .binv => (c.binv e.td, 0)

section
variable {s : State} {k : Nat} (hk : k = cellKey s.sch.args.die s.sch.args.x s.sch.args.y)
include hk

theorem tileEngineDone_idle (h : (s.cell k).engine = none) : exec .tileEngineDone s = .next s := by
  subst hk
  rw [exec_tileEngineDone, execTileEngineDone]
  simp only [h]

theorem tileEngineDone_ends {e : EngineOp} (h : (s.cell k).engine = some e) :
    exec .tileEngineDone s = .next (((s.updCell k fun _ => (e.done { s.cell k with engine := none }).1).raiseLate e.firing
      (e.done { s.cell k with engine := none }).2).land e.firing e.firing.acc.tag .none (e.targets.map fun t => (t, Val.of 4 0))) := by
  subst hk
  rw [exec_tileEngineDone, execTileEngineDone]
  simp only [h]
  rfl

/-! ## MATRIX_ROW_STEP (R367, R369) -/

theorem matrixRowStep_idle (h : (s.cell k).seqs = []) : exec .matrixRowStep s = .next s := by
  subst hk
  rw [exec_matrixRowStep, execMatrixRowStep]
  simp only [h]

variable {q : MatSeq} {l : List MatSeq} (h : (s.cell k).seqs = q :: l)
include h

theorem matrixRowStep_goesOn (hrow : q.row + 1 < q.mt) : exec .matrixRowStep s = .next (s.updCell k fun c =>
    { c.rowStep q with seqs := { q with row := q.row + 1 } :: l }) := by
  subst hk
  rw [exec_matrixRowStep, execMatrixRowStep]
  simp [h, hrow.not_ge]

theorem matrixRowStep_ends (hrow : q.mt ≤ q.row + 1) : exec .matrixRowStep s = .next ((s.updCell k fun c =>
    { c.rowStep q with seqs := l }).land q.firing q.firing.acc.tag .none (q.targets.map fun t => (t, Val.of 4 0))) := by
  subst hk
  rw [exec_matrixRowStep, execMatrixRowStep]
  simp [h, hrow]

end

/-! ## A pooling element (R359) -/

theorem bit_eq_testBit (v i : Nat) : bit v i = v.testBit i := by
  rw [bit, Nat.testBit_eq_decide_div_mod_eq, beq_eq_decide]

/-- An element that is not taken leaves value and count as the step finds or clears them. -/
theorem poolElem_notTaken (isMax : Bool) {l : Nat} (v : Num) (x n : Nat) (htake : l.testBit 2 = false) (hlast : l.testBit 1 = false) :
    poolElem isMax l false v x n =
      (if l.testBit 0 then (if isMax then 0xFF800000 else 0) else x, if l.testBit 0 then 0 else n, (fp32.give .rn v 0).flags) := by
  simp [poolElem, bit_eq_testBit, htake, hlast]

/-! ## The accumulator (R271 to R273) -/

theorem accNan_eq : accNan = { s := 0, e := -512 } := by decide

theorem AccEntry.isNan_iff {a : AccEntry} : a.isNan = true ↔ a.s = 0 ∧ a.e = -512 := by
  rw [AccEntry.isNan, Bool.and_eq_true, decide_eq_true_iff, decide_eq_true_iff, ← BitVec.toInt_inj (x := a.e)]
  rfl

theorem accAdd_comm (a b : AccEntry) : accAdd a b = accAdd b a := by
  simp only [accAdd, Bool.or_comm a.isNan, max_comm a.e.toInt, Int.add_comm (roundEven a.s.toInt _)]

theorem accAdd_nan {a : AccEntry} (b : AccEntry) (h : a.isNan = true) : accAdd a b = { s := 0, e := -512 } := by
  rw [accAdd, h, Bool.true_or, if_pos rfl, accNan_eq]

/-- An integer is itself at exponent 0. -/
theorem roundEven_zero (i : Int) : roundEven i 0 = i := by
  simp only [roundEven, roundAt_integer, withSign, decide_eq_true_eq]
  split <;> omega

section
variable {a b : AccEntry} (ha : a.isNan = false) (hb : b.isNan = false) (he : a.e = b.e)
include ha hb he

/-- Entries of one exponent are added without rounding. -/
theorem accAdd_sameExp (hlo : -2 ^ 55 ≤ a.s.toInt + b.s.toInt) (hhi : a.s.toInt + b.s.toInt < 2 ^ 55) :
    accAdd a b = if a.s.toInt + b.s.toInt = 0 then {} else accOf (a.s.toInt + b.s.toInt) a.e.toInt := by
  have hfits : (decide (a.s.toInt + b.s.toInt < -(2 ^ 55)) || decide (2 ^ 55 - 1 < a.s.toInt + b.s.toInt)) = false := by
    simp only [Bool.or_eq_false_iff, decide_eq_false_iff_not]
    omega
  simp only [accAdd, ha, hb, ← he, max_self, Int.sub_self, roundEven_zero, hfits]
  rfl

end

theorem accOf_sum (a b : AccEntry) : accOf (a.s.toInt + b.s.toInt) a.e.toInt = { s := a.s + b.s, e := a.e } := by
  rw [accOf, BitVec.ofInt_add, BitVec.ofInt_toInt, BitVec.ofInt_toInt, BitVec.ofInt_toInt]

/-! ## The readout (R273) -/

theorem AccEntry.readsNan_iff {a : AccEntry} {r : Nat} :
    (decide (r = 0xFF) || a.isNan) = true ↔ r = 0xFF ∨ (a.s = 0 ∧ a.e = -512) := by
  rw [Bool.or_eq_true, decide_eq_true_iff, AccEntry.isNan_iff]

section
variable {a : AccEntry} {r : Nat}

theorem AccEntry.read_nan (h : r = 0xFF ∨ (a.s = 0 ∧ a.e = -512)) : a.read r = .nan false := by
  rw [AccEntry.read, if_pos (AccEntry.readsNan_iff.mpr h)]

theorem AccEntry.read_number (hr : r ≠ 0xFF) (hs : a.s ≠ 0) : a.read r = .fin a.s.msb a.s.toInt.natAbs (a.e.toInt + r - 127) := by
  rw [AccEntry.read, if_neg (mt AccEntry.readsNan_iff.mp (not_or.mpr ⟨hr, fun h => hs h.1⟩)), if_neg hs, BitVec.msb_eq_toInt]

theorem AccEntry.read_zero (hr : r ≠ 0xFF) (hs : a.s = 0) (he : a.e ≠ -512) : a.read r = .fin false 0 0 := by
  rw [AccEntry.read, if_neg (mt AccEntry.readsNan_iff.mp (not_or.mpr ⟨hr, fun h => he h.2⟩)), if_pos hs]

end

end Sys2Proof.Machine

section
open Sys2Proof Sys2Proof.Machine

/-- Settles O41: each clause is one of the rules above. -/
theorem rowStepsAndAccumulator : Obligations.RowStepsAndAccumulator := by
  unfold Obligations.RowStepsAndAccumulator
  refine ⟨fun s => ?steps, fun isMax l v x n htake hlast => ?element,
    fun a b => ⟨accAdd_comm a b, accAdd_nan b, fun ha hb he hsum => ?cancels, fun ha hb he hsum hlo hhi => ?sum⟩,
    fun a r => ⟨AccEntry.read_nan, AccEntry.read_number, AccEntry.read_zero⟩⟩
  case steps =>
    intro g k zero
    exact ⟨tileEngineDone_idle rfl, fun e he => tileEngineDone_ends rfl he, matrixRowStep_idle rfl,
      fun q l h => ⟨matrixRowStep_goesOn rfl h, matrixRowStep_ends rfl h⟩⟩
  case element =>
    rw [poolElem_notTaken isMax v x n htake hlast]
    exact ⟨fun h => by rw [h]; rfl, fun h => by rw [h]; rfl⟩
  case cancels => rw [accAdd_sameExp ha hb he (by omega) (by omega), if_pos hsum]
  case sum => rw [accAdd_sameExp ha hb he hlo hhi, if_neg hsum, accOf_sum]

end
end

section
/-!
PROOF of O2, O3 and O4. A word is the fields of its format and nothing else (R275 to R278); what each opcode reads is well formed and is
written with the fields that were read (R281 to R289); so encoder and decoder are inverse, and reserved words are refused.
-/

namespace Sys2Proof

-- Proofs one after another, as in the tests: in parallel they take more memory at once.
set_option Elab.async false

open Laws

/-! ## A word and its fields (R278) -/

/-- Whether fields are those of a word of their format. -/
def Raw.Fits : Raw → Prop
  | .g op pd x t1 t0 => formatOf op = some .g ∧ op < 128 ∧ pd < 4 ∧ x < 32 ∧ t1 < 512 ∧ t0 < 512
  | .i op pd imm t0 => formatOf op = some .i ∧ op < 128 ∧ pd < 4 ∧ imm < 2 ^ 14 ∧ t0 < 512
  | .m op pd seq pv nx port t0 =>
    formatOf op = some .m ∧ op < 128 ∧ pd < 4 ∧ seq < 32 ∧ pv < 4 ∧ nx < 4 ∧ port < 32 ∧ t0 < 512
  | .q op pd queue lim mode t0 => formatOf op = some .q ∧ op < 128 ∧ pd < 4 ∧ queue < 32 ∧ lim < 32 ∧ mode < 16 ∧ t0 < 512
  | .t op pd td ta tb ct => formatOf op = some .t ∧ op < 128 ∧ pd < 4 ∧ td < 32 ∧ ta < 32 ∧ tb < 32 ∧ ct < 256

/-- Fields that fit their format make a word of 32 bits. -/
theorem Raw.Fits.word_lt : ∀ {r : Raw}, r.Fits → r.word < 2 ^ 32
  | .g .., ⟨_, h⟩ | .i .., ⟨_, h⟩ | .m .., ⟨_, h⟩ | .q .., ⟨_, h⟩ | .t .., ⟨_, h⟩ => by
    simp only [Raw.word]
    omega

theorem bitField_lt (n lo width : Nat) : bitField n lo width < 2 ^ width := Nat.mod_lt _ (Nat.two_pow_pos width)

/-- The field at bit lo, above what stands below it. -/
theorem bitField_high {a v lo k : Nat} (hv : v < 2 ^ lo) (ha : a < 2 ^ k) : bitField (a * 2 ^ lo + v) lo k = a := by
  rw [bitField, Nat.add_comm, Nat.add_mul_div_right _ _ (Nat.two_pow_pos lo), Nat.div_eq_of_lt hv, Nat.zero_add, Nat.mod_eq_of_lt ha]

/-- What stands above a field does not change it. -/
theorem bitField_low {lo k hi : Nat} (a v : Nat) (h : lo + k ≤ hi) : bitField (a * 2 ^ hi + v) lo k = bitField v lo k := by
  obtain ⟨d, rfl⟩ := Nat.exists_eq_add_of_le h
  rw [bitField, bitField, show a * 2 ^ (lo + k + d) = a * 2 ^ d * 2 ^ k * 2 ^ lo by rw [pow_add, pow_add]; ring, Nat.add_comm,
    Nat.add_mul_div_right _ _ (Nat.two_pow_pos lo), Nat.add_mul_mod_self_right]

theorem bitField_bottom {v k : Nat} (h : v < 2 ^ k) : bitField v 0 k = v := by rw [bitField, pow_zero, Nat.div_one, Nat.mod_eq_of_lt h]

/-- A field and what stands below it. -/
theorem bitField_below (w lo k : Nat) : bitField w lo k * 2 ^ lo + w % 2 ^ lo = w % 2 ^ (lo + k) := by
  rw [pow_add, Nat.mod_mul, bitField, Nat.mul_comm, Nat.add_comm]

/-- The word of fields splits into them. -/
theorem split_word {r : Raw} (h : r.Fits) : split r.word = some r := by
  cases r with
  | g op pd x t1 t0 =>
    obtain ⟨hop, h1, h2, h3, h4, h5⟩ := h
    have hword : (Raw.g op pd x t1 t0).word = op * 2 ^ 25 + (pd * 2 ^ 23 + (x * 2 ^ 18 + (t1 * 2 ^ 9 + t0))) := by
      simp only [Raw.word, Nat.add_assoc]
    rw [split, hword]
    simp (disch := omega) only [bitField_high, bitField_low, bitField_bottom, hop]
  | i op pd imm t0 =>
    obtain ⟨hop, h1, h2, h3, h4⟩ := h
    have hword : (Raw.i op pd imm t0).word = op * 2 ^ 25 + (pd * 2 ^ 23 + (imm * 2 ^ 9 + t0)) := by
      simp only [Raw.word, Nat.add_assoc]
    rw [split, hword]
    simp (disch := omega) only [bitField_high, bitField_low, bitField_bottom, hop]
  | m op pd seq pv nx port t0 =>
    obtain ⟨hop, h1, h2, h3, h4, h5, h6, h7⟩ := h
    have hword : (Raw.m op pd seq pv nx port t0).word =
        op * 2 ^ 25 + (pd * 2 ^ 23 + (seq * 2 ^ 18 + (pv * 2 ^ 16 + (nx * 2 ^ 14 + (port * 2 ^ 9 + t0))))) := by
      simp only [Raw.word, Nat.add_assoc]
    rw [split, hword]
    simp (disch := omega) only [bitField_high, bitField_low, bitField_bottom, hop]
  | q op pd queue lim mode t0 =>
    obtain ⟨hop, h1, h2, h3, h4, h5, h6⟩ := h
    have hword : (Raw.q op pd queue lim mode t0).word =
        op * 2 ^ 25 + (pd * 2 ^ 23 + (queue * 2 ^ 18 + (lim * 2 ^ 13 + (mode * 2 ^ 9 + t0)))) := by
      simp only [Raw.word, Nat.add_assoc]
    rw [split, hword]
    simp (disch := omega) only [bitField_high, bitField_low, bitField_bottom, hop]
  | t op pd td ta tb ct =>
    obtain ⟨hop, h1, h2, h3, h4, h5, h6⟩ := h
    have hword : (Raw.t op pd td ta tb ct).word =
        op * 2 ^ 25 + (pd * 2 ^ 23 + (td * 2 ^ 18 + (ta * 2 ^ 13 + (tb * 2 ^ 8 + ct)))) := by
      simp only [Raw.word, Nat.add_assoc]
    rw [split, hword]
    simp (disch := omega) only [bitField_high, bitField_low, bitField_bottom, hop]

/-- What a word splits into fits its format, and is the word again. -/
theorem word_of_split {w : Nat} {r : Raw} (hw : w < 2 ^ 32) (h : split w = some r) : r.Fits ∧ r.word = w := by
  have hlow (k : Nat) : bitField w 0 k = w % 2 ^ k := by rw [bitField, pow_zero, Nat.div_one]
  have hhigh : bitField w 25 7 * 2 ^ 25 + (bitField w 23 2 * 2 ^ 23 + w % 2 ^ 23) = w := by
    rw [bitField_below w 23 2, bitField_below w 25 7, Nat.mod_eq_of_lt hw]
  unfold split at h
  dsimp only at h
  split at h
  case h_1 => cases h
  case h_2 hop =>
    cases h
    refine ⟨⟨hop, bitField_lt .., bitField_lt .., bitField_lt .., bitField_lt .., bitField_lt ..⟩, ?_⟩
    simp only [Raw.word, Nat.add_assoc]
    rw [hlow, bitField_below w 9 9, bitField_below w 18 5, hhigh]
  case h_3 hop =>
    cases h
    refine ⟨⟨hop, bitField_lt .., bitField_lt .., bitField_lt .., bitField_lt ..⟩, ?_⟩
    simp only [Raw.word, Nat.add_assoc]
    rw [hlow, bitField_below w 9 14, hhigh]
  case h_4 hop =>
    cases h
    refine ⟨⟨hop, bitField_lt .., bitField_lt .., bitField_lt .., bitField_lt .., bitField_lt .., bitField_lt .., bitField_lt ..⟩, ?_⟩
    simp only [Raw.word, Nat.add_assoc]
    rw [hlow, bitField_below w 9 5, bitField_below w 14 2, bitField_below w 16 2, bitField_below w 18 5, hhigh]
  case h_5 hop =>
    cases h
    refine ⟨⟨hop, bitField_lt .., bitField_lt .., bitField_lt .., bitField_lt .., bitField_lt .., bitField_lt ..⟩, ?_⟩
    simp only [Raw.word, Nat.add_assoc]
    rw [hlow, bitField_below w 9 4, bitField_below w 13 5, bitField_below w 18 5, hhigh]
  case h_6 hop =>
    cases h
    refine ⟨⟨hop, bitField_lt .., bitField_lt .., bitField_lt .., bitField_lt .., bitField_lt .., bitField_lt ..⟩, ?_⟩
    simp only [Raw.word, Nat.add_assoc]
    rw [hlow, bitField_below w 8 5, bitField_below w 13 5, bitField_below w 18 5, hhigh]

/-! ## The encoder's fields fit their format -/

theorem Pd.code_lt (p : Pd) : p.code < 4 := by cases p <;> decide

theorem boolCode_le (b : Bool) : boolCode b ≤ 1 := by cases b <;> decide

theorem Target.code_lt (t : Target) : t.code < 512 := by
  cases t with
  | slot port adv s =>
    have hs := s.isLt
    have hb := boolCode_le adv
    cases port <;> simp only [Target.code, Port.code] <;> omega
  | arc n => exact n.isLt.trans (by decide)
  | hold h =>
    have hh := h.isLt
    simp only [Target.code]
    omega
  | discard => decide

theorem Completion.code_lt (k : Completion) : k.code < 256 := by
  cases k with
  | none => decide
  | slot port s =>
    have hs := s.isLt
    cases port <;> simp only [Completion.code, Port.code] <;> omega

theorem FloatFmt.code_le (f : FloatFmt) : f.code ≤ 2 := by cases f <;> decide

theorem Rm.code_le (m : Rm) : m.code ≤ 3 := by cases m <;> decide

theorem IntCond.code_lt (c : IntCond) : c.code < 16 := by cases c <;> decide

theorem FloatCond.code_lt (c : FloatCond) : c.code < 8 := by cases c <;> decide

theorem LaneCond.code_lt (c : LaneCond) : c.code < 8 := by cases c <;> decide

theorem Scope.code_lt (c : Scope) : c.code < 8 := by cases c <;> decide

theorem AmotOp.code_lt (o : AmotOp) : o.code < 32 := by cases o <;> decide

theorem TreeOp.code_lt (o : TreeOp) : o.code < 16 := by cases o <;> decide

theorem TileState.code_le (t : TileState) : t.code ≤ 3 := by cases t <;> decide

theorem BankMode.code_le (m : BankMode) : m.code ≤ 3 := by cases m <;> decide

/-- The fields that the encoder writes fit their format. -/
theorem raw_fits {i : Instr} {r : Raw} (h : i.raw = some r) : r.Fits := by
  cases i with
  | nop | send | sendm | endRegion | migr =>
    cases h
    exact ⟨rfl, by decide, Pd.code_lt _, by decide, by decide, by decide⟩
  | mov | lit32 | steer | gate | gaten | sync | iter | nextIter | retire | fret | cnt | bound | tagrd | qlvl | sx32 | zx32 | sysqHandle
  | sysqDie | sysqReplica | sysqCtx | yield | cyc | vadd | vsub | vmul | vmin | vmax | vscale | vabs | vneg | vrcp | vrsq | vexp2
  | vlog2 | vbcast | vredSum | vredMin | vredMax | vcvt | vquant | mzero | mrd | mrda | mstat | rsetup | rstep | rbary | rayxf | raybox
  | raytri | seqget | seqwait | blend =>
    cases h
    exact ⟨rfl, by decide, Pd.code_lt _, by decide, Target.code_lt _, Target.code_lt _⟩
  | merge | vfma | vsel | vclamp =>
    cases h
    exact ⟨rfl, by decide, by decide, by decide, Target.code_lt _, Target.code_lt _⟩
  | frame _ level =>
    cases h
    exact ⟨rfl, by decide, Pd.code_lt _, level.isLt.trans (by decide), Target.code_lt _, Target.code_lt _⟩
  | add _ w | sub _ w | mul _ w | mulh _ w | mulhu _ w | div _ w | divu _ w | rem _ w | remu _ w | and _ w | or _ w | xor _ w
  | andn _ w | shl _ w | shr _ w | sra _ w | rol _ w | ror _ w | min _ w | max _ w | minu _ w | maxu _ w | bfxu _ w | bfxs _ w
  | popc _ w | clz _ w | ctz _ w | neg _ w | abs _ w | sx8 _ w | sx16 _ w | zx8 _ w | zx16 _ w =>
    cases h
    have hw := boolCode_le w
    exact ⟨rfl, by decide, Pd.code_lt _, by omega, Target.code_lt _, Target.code_lt _⟩
  | bfi w | sel w =>
    cases h
    have hw := boolCode_le w
    exact ⟨rfl, by decide, by decide, by omega, Target.code_lt _, Target.code_lt _⟩
  | cmp _ w cc =>
    cases h
    have hw := boolCode_le w
    have hcc := IntCond.code_lt cc
    exact ⟨rfl, by decide, Pd.code_lt _, by omega, Target.code_lt _, Target.code_lt _⟩
  | fadd _ ft rm | fsub _ ft rm | fmul _ ft rm | fdiv _ ft rm | fsqrt _ ft rm | frnd _ ft rm | cvtS _ ft rm | cvtH _ ft rm
  | cvtB _ ft rm | cvtfi _ ft rm | cvtif _ ft rm | cvtifL _ ft rm =>
    cases h
    have hft := FloatFmt.code_le ft
    have hrm := Rm.code_le rm
    exact ⟨rfl, by decide, Pd.code_lt _, by omega, Target.code_lt _, Target.code_lt _⟩
  | ffma ft rm =>
    cases h
    have hft := FloatFmt.code_le ft
    have hrm := Rm.code_le rm
    exact ⟨rfl, by decide, by decide, by omega, Target.code_lt _, Target.code_lt _⟩
  | fmin _ ft | fmax _ ft | fminm _ ft | fmaxm _ ft | fabs _ ft | fneg _ ft | frcp _ ft | frsq _ ft | fexp2 _ ft | flog2 _ ft
  | fsin _ ft | fcos _ ft | cvt8 _ ft | cvf8 _ ft | fclass _ ft =>
    cases h
    have hft := FloatFmt.code_le ft
    exact ⟨rfl, by decide, Pd.code_lt _, by omega, Target.code_lt _, Target.code_lt _⟩
  | fcmp _ ft cc =>
    cases h
    have hft := FloatFmt.code_le ft
    have hcc := FloatCond.code_lt cc
    exact ⟨rfl, by decide, Pd.code_lt _, by omega, Target.code_lt _, Target.code_lt _⟩
  | fenceAcq _ sc | fenceRel _ sc | fenceFull _ sc =>
    cases h
    have hsc := Scope.code_lt sc
    exact ⟨rfl, by decide, Pd.code_lt _, by omega, Target.code_lt _, Target.code_lt _⟩
  | vcmp _ cc =>
    cases h
    have hcc := LaneCond.code_lt cc
    exact ⟨rfl, by decide, Pd.code_lt _, by omega, Target.code_lt _, Target.code_lt _⟩
  | lit _ imm | addi _ imm | andi _ imm | ori _ imm | xori _ imm | trap _ imm =>
    cases h
    exact ⟨rfl, by decide, Pd.code_lt _, imm.isLt, Target.code_lt _⟩
  | wrh _ n | clrh _ n | tsth _ n | tdef _ n | tstate _ n | permit _ n | binv _ n | barr _ n | tailadv _ n | tlread _ n
  | tlwait _ n | collrec _ n | trapf _ n | rdcfg _ n | wrcfg _ n =>
    cases h
    have hn := n.isLt
    exact ⟨rfl, by decide, Pd.code_lt _, by omega, Target.code_lt _⟩
  | rdh _ trap n =>
    cases h
    have hn := n.isLt
    have ht := boolCode_le trap
    exact ⟨rfl, by decide, Pd.code_lt _, by omega, Target.code_lt _⟩
  | tree _ op n =>
    cases h
    have hn := n.isLt
    have ho := TreeOp.code_lt op
    exact ⟨rfl, by decide, Pd.code_lt _, by omega, Target.code_lt _⟩
  | bkpt _ code set =>
    cases h
    have hc := code.isLt
    have hs := set.isLt
    exact ⟨rfl, by decide, Pd.code_lt _, by omega, Target.code_lt _⟩
  | tset _ st n =>
    cases h
    have hn := n.isLt
    have hst := TileState.code_le st
    exact ⟨rfl, by decide, Pd.code_lt _, by omega, Target.code_lt _⟩
  | bmode _ bank mode intlv =>
    cases h
    have hb := bank.isLt
    have hm := BankMode.code_le mode
    have hi := boolCode_le intlv
    exact ⟨rfl, by decide, Pd.code_lt _, by omega, Target.code_lt _⟩
  | ld _ seq pv nx port | st _ seq pv nx port | ldt _ seq pv nx port | stt _ seq pv nx port | pft _ seq pv nx port
  | mnop _ seq pv nx port | scas64 _ seq pv nx port | scas128 _ seq pv nx port | sadd _ seq pv nx port | sswap _ seq pv nx port
  | amoadd _ seq pv nx port | amomin _ seq pv nx port | amomax _ seq pv nx port =>
    cases h
    exact ⟨rfl, by decide, Pd.code_lt _, seq.isLt, pv.isLt, nx.isLt, port.isLt, Target.code_lt _⟩
  | ldh _ seq pv nx port n =>
    cases h
    have hn := n.isLt
    exact ⟨rfl, by decide, Pd.code_lt _, seq.isLt, pv.isLt, nx.isLt, port.isLt, by omega⟩
  | qpush _ queue lim | qpop _ queue lim | qpeek _ queue lim =>
    cases h
    exact ⟨rfl, by decide, Pd.code_lt _, queue.isLt, lim.isLt, by decide, Target.code_lt _⟩
  | amot _ td op =>
    cases h
    exact ⟨rfl, by decide, Pd.code_lt _, td.isLt, AmotOp.code_lt op, by decide, Completion.code_lt _⟩
  | vtrans _ td ta | bload _ td ta =>
    cases h
    exact ⟨rfl, by decide, Pd.code_lt _, td.isLt, ta.isLt, by decide, Completion.code_lt _⟩
  | vpoolmax _ td ta tb | vpoolavg _ td ta tb =>
    cases h
    exact ⟨rfl, by decide, Pd.code_lt _, td.isLt, ta.isLt, tb.isLt, Completion.code_lt _⟩
  | mma _ ta tb | mmaz _ ta tb =>
    cases h
    exact ⟨rfl, by decide, Pd.code_lt _, by decide, ta.isLt, tb.isLt, Completion.code_lt _⟩
  | _ => cases h

/-! ## Decode after encode -/

/-- Every instruction has its member of the family. -/
theorem readRaw (i : Instr) : ReadRaw.Statement i :=
  i.casesOn ReadRaw.nop ReadRaw.mov ReadRaw.lit ReadRaw.lit32 ReadRaw.steer ReadRaw.gate ReadRaw.gaten ReadRaw.merge ReadRaw.sync ReadRaw.iter
    ReadRaw.nextIter ReadRaw.retire ReadRaw.frame ReadRaw.fret ReadRaw.send ReadRaw.sendm ReadRaw.cnt ReadRaw.bound ReadRaw.tagrd
    ReadRaw.qlvl ReadRaw.rdh ReadRaw.wrh ReadRaw.clrh ReadRaw.tsth ReadRaw.endRegion ReadRaw.add ReadRaw.sub ReadRaw.mul ReadRaw.mulh
    ReadRaw.mulhu ReadRaw.div ReadRaw.divu ReadRaw.rem ReadRaw.remu ReadRaw.and ReadRaw.or ReadRaw.xor ReadRaw.andn ReadRaw.shl
    ReadRaw.shr ReadRaw.sra ReadRaw.rol ReadRaw.ror ReadRaw.cmp ReadRaw.min ReadRaw.max ReadRaw.minu ReadRaw.maxu ReadRaw.bfxu
    ReadRaw.bfxs ReadRaw.bfi ReadRaw.popc ReadRaw.clz ReadRaw.ctz ReadRaw.sel ReadRaw.neg ReadRaw.abs ReadRaw.sx8 ReadRaw.sx16
    ReadRaw.sx32 ReadRaw.zx8 ReadRaw.zx16 ReadRaw.zx32 ReadRaw.addi ReadRaw.andi ReadRaw.ori ReadRaw.xori ReadRaw.fadd ReadRaw.fsub
    ReadRaw.fmul ReadRaw.ffma ReadRaw.fdiv ReadRaw.fsqrt ReadRaw.fmin ReadRaw.fmax ReadRaw.fminm ReadRaw.fmaxm ReadRaw.fabs
    ReadRaw.fneg ReadRaw.fcmp ReadRaw.frcp ReadRaw.frsq ReadRaw.fexp2 ReadRaw.flog2 ReadRaw.fsin ReadRaw.fcos ReadRaw.frnd ReadRaw.cvtS
    ReadRaw.cvtH ReadRaw.cvtB ReadRaw.cvtfi ReadRaw.cvtif ReadRaw.cvtifL ReadRaw.cvt8 ReadRaw.cvf8 ReadRaw.fclass ReadRaw.ld ReadRaw.st
    ReadRaw.ldt ReadRaw.stt ReadRaw.ldh ReadRaw.pft ReadRaw.mnop ReadRaw.fenceAcq ReadRaw.fenceRel ReadRaw.fenceFull ReadRaw.scas64
    ReadRaw.scas128 ReadRaw.sadd ReadRaw.sswap ReadRaw.amot ReadRaw.amoadd ReadRaw.amomin ReadRaw.amomax ReadRaw.qpush ReadRaw.qpop
    ReadRaw.qpeek ReadRaw.barr ReadRaw.tree ReadRaw.tailadv ReadRaw.tlread ReadRaw.tlwait ReadRaw.collrec ReadRaw.trap ReadRaw.trapf
    ReadRaw.sysqHandle ReadRaw.sysqDie ReadRaw.sysqReplica ReadRaw.sysqCtx ReadRaw.rdcfg ReadRaw.wrcfg ReadRaw.yield ReadRaw.bkpt
    ReadRaw.cyc ReadRaw.vadd ReadRaw.vsub ReadRaw.vmul ReadRaw.vmin ReadRaw.vmax ReadRaw.vscale ReadRaw.vcmp ReadRaw.vabs ReadRaw.vneg
    ReadRaw.vrcp ReadRaw.vrsq ReadRaw.vexp2 ReadRaw.vlog2 ReadRaw.vbcast ReadRaw.vredSum ReadRaw.vredMin ReadRaw.vredMax ReadRaw.vcvt
    ReadRaw.vquant ReadRaw.vfma ReadRaw.vsel ReadRaw.vclamp ReadRaw.vtrans ReadRaw.vpoolmax ReadRaw.vpoolavg ReadRaw.tdef ReadRaw.tset
    ReadRaw.tstate ReadRaw.bmode ReadRaw.permit ReadRaw.binv ReadRaw.bload ReadRaw.mma ReadRaw.mmaz ReadRaw.mzero ReadRaw.mrd
    ReadRaw.mrda ReadRaw.mstat ReadRaw.rsetup ReadRaw.rstep ReadRaw.rbary ReadRaw.rayxf ReadRaw.raybox ReadRaw.raytri ReadRaw.migr
    ReadRaw.seqget ReadRaw.seqwait ReadRaw.blend ReadRaw.coldReset ReadRaw.moduleReset ReadRaw.dieReset ReadRaw.bringupPhase
    ReadRaw.governorInterval ReadRaw.stepTransitionEnd ReadRaw.thermalBandEntered ReadRaw.thermalTrip ReadRaw.hubPwrCapWrite
    ReadRaw.emergencyHoldSet ReadRaw.emergencyHoldRelease ReadRaw.switchPacketArrival ReadRaw.headerStoreEntry ReadRaw.flitDepart
    ReadRaw.flitReplay ReadRaw.streamOpen ReadRaw.openReceive ReadRaw.refuseReceive ReadRaw.openRetry ReadRaw.grantReceive
    ReadRaw.packetSend ReadRaw.rreqReceive ReadRaw.retransmit ReadRaw.retransmissionTimeout ReadRaw.ackReceive
    ReadRaw.trimmedHeaderReceive ReadRaw.rreqSend ReadRaw.dataPacketReceive ReadRaw.packetDeliver ReadRaw.ackTimer ReadRaw.closeReceive
    ReadRaw.closedReceive ReadRaw.streamSelect ReadRaw.streamResume ReadRaw.streamAbort ReadRaw.linkDown ReadRaw.linkTrained
    ReadRaw.readClear ReadRaw.registerWrite ReadRaw.treeOpStart ReadRaw.treeResult ReadRaw.collPartialReceive ReadRaw.ptpMessage
    ReadRaw.releaseInstant ReadRaw.phaseToken ReadRaw.deadlineTokenReceive ReadRaw.phaseTokenReceive ReadRaw.frameCompletionReport
    ReadRaw.holdoverEnter ReadRaw.relEnable ReadRaw.apertureRead ReadRaw.apertureWrite ReadRaw.tailWrite ReadRaw.hubInvPage
    ReadRaw.hubInvContext ReadRaw.hubInvAll ReadRaw.invalidationComplete ReadRaw.pageWalk ReadRaw.atsTranslationCompletion
    ReadRaw.priResponse ReadRaw.atsInvalidationRequest ReadRaw.atsInvalidationComplete ReadRaw.hostSnoop ReadRaw.keyGenerate
    ReadRaw.keyDestroy ReadRaw.keyCommandDone ReadRaw.attestReport ReadRaw.attestCertificate ReadRaw.attestDone ReadRaw.recordFetch
    ReadRaw.nopRecord ReadRaw.jumpRecord ReadRaw.copyRecord ReadRaw.fillRecord ReadRaw.launchRecord ReadRaw.collRecord
    ReadRaw.recordComplete ReadRaw.chainRetry ReadRaw.chainSkip ReadRaw.chainReset ReadRaw.tokenInject ReadRaw.queueRequest
    ReadRaw.qwaitExpiry ReadRaw.enginePushExpiry ReadRaw.queueSelect ReadRaw.queueReset ReadRaw.regionLoad ReadRaw.regionSelect
    ReadRaw.hangSet ReadRaw.placementSample ReadRaw.bucketStateCopy ReadRaw.bucketRelease ReadRaw.replicaFree ReadRaw.shareReweight
    ReadRaw.tokenArrival ReadRaw.tokenMatch ReadRaw.creditNotice ReadRaw.qualityGate ReadRaw.progressReport ReadRaw.markerReport
    ReadRaw.lapUpdate ReadRaw.lapAck ReadRaw.frameTrap ReadRaw.trapResume ReadRaw.parkReinject ReadRaw.trapKill ReadRaw.killTagsFree
    ReadRaw.regionSilent ReadRaw.drydown ReadRaw.markerArrival ReadRaw.cutComplete ReadRaw.freeze ReadRaw.freezeComplete ReadRaw.save
    ReadRaw.regionRelease ReadRaw.restore ReadRaw.restorePlacement ReadRaw.configUe ReadRaw.tileRowLand ReadRaw.tileDrainComplete
    ReadRaw.roundStart ReadRaw.paramOverwrite ReadRaw.readAhead ReadRaw.tileFillStart ReadRaw.spaceToken ReadRaw.memoryAccessArrival
    ReadRaw.heldAccessPerform ReadRaw.retryReissue ReadRaw.memoryResponse ReadRaw.homeSliceRequest ReadRaw.invalidationAck
    ReadRaw.atomicopCompletion ReadRaw.hostReadCompletion ReadRaw.fenceComplete ReadRaw.endComplete ReadRaw.tileEngineDone
    ReadRaw.matrixRowStep ReadRaw.loadComplete ReadRaw.dieResetRelease ReadRaw.configSingleBitError

/-- An instruction takes a unit of the cell (R442) exactly where it has a word. -/
theorem unit_isSome (i : Instr) : i.unit.isSome = i.raw.isSome := by cases i <;> rfl

theorem decode_word {i : Instr} {r : Raw} (hwf : i.wf = true) (h : i.raw = some r) : decode (BitVec.ofNat 32 r.word) = .ok i := by
  have hfits := raw_fits h
  rw [decode, BitVec.toNat_ofNat, Nat.mod_eq_of_lt hfits.word_lt, decodeNat, split_word hfits]
  exact readRaw i hwf r h

/-! ## The readers read codes (R276 to R287) -/

theorem boolCode_bit (n k : Nat) : boolCode (bitField n k 1 == 1) = bitField n k 1 := by
  have h : bitField n k 1 < 2 := bitField_lt n k 1
  generalize bitField n k 1 = b at h
  interval_cases b <;> rfl

theorem readTarget_ok {n : Nat} {t : Target} (hn : n < 512) (h : readTarget n = .ok t) : t.code = n := by
  have hadv := boolCode_bit n 6
  simp only [bitField] at hadv
  unfold readTarget at h
  dsimp only at h
  split at h
  case h_4 =>
    split at h
    · cases h
      simp only [Target.code, BitVec.toNat_ofNat, bitField, imp_false] at *
      omega
    split at h
    · cases h
      simp only [Target.code, BitVec.toNat_ofNat, bitField, imp_false] at *
      omega
    split at h
    · cases h
      simp only [Target.code, bitField, imp_false] at *
      omega
    cases h
  all_goals
    rename_i hport
    cases h
    simp only [bitField] at hport
    simp only [Target.code, Port.code, BitVec.toNat_ofNat, bitField, hadv]
    omega

theorem readCt_ok {n : Nat} {k : Completion} (hn : n < 256) (h : readCt n = .ok k) : k.code = n := by
  unfold readCt at h
  dsimp only at h
  split at h
  case h_4 =>
    split at h
    · cases h
      simp only [Completion.code, bitField, imp_false] at *
      omega
    cases h
  all_goals
    rename_i hport
    cases h
    simp only [bitField] at hport
    simp only [Completion.code, Port.code, BitVec.toNat_ofNat, bitField]
    omega

theorem readPd_ok {n : Nat} {p : Pd} (h : readPd n = .ok p) : p.code = n := by
  unfold readPd at h
  split at h <;> cases h <;> rfl

theorem readFt_ok {n : Nat} {f : FloatFmt} (h : readFt n = .ok f) : f.code = n := by
  unfold readFt at h
  split at h <;> cases h <;> rfl

theorem readRm_code {n : Nat} (h : n < 4) : (readRm n).code = n := by interval_cases n <;> rfl

theorem readIntCond_ok {n : Nat} {c : IntCond} (h : readIntCond n = .ok c) : c.code = n := by
  unfold readIntCond at h
  split at h <;> cases h <;> rfl

theorem readFloatCond_code {n : Nat} (h : n < 8) : (readFloatCond n).code = n := by interval_cases n <;> rfl

theorem readLaneCond_ok {n : Nat} {c : LaneCond} (h : readLaneCond n = .ok c) : c.code = n := by
  unfold readLaneCond at h
  split at h <;> cases h <;> rfl

theorem readScope_ok {n : Nat} {c : Scope} (h : readScope n = .ok c) : c.code = n := by
  unfold readScope at h
  split at h <;> cases h <;> rfl

theorem readAmotOp_ok {n : Nat} {o : AmotOp} (h : readAmotOp n = .ok o) : o.code = n := by
  unfold readAmotOp at h
  split at h <;> cases h <;> rfl

theorem readTreeOp_ok {n : Nat} {o : TreeOp} (h : readTreeOp n = .ok o) : o.code = n := by
  unfold readTreeOp at h
  split at h <;> cases h <;> rfl

theorem readTileState_code {n : Nat} (h : n < 4) : (readTileState n).code = n := by interval_cases n <;> rfl

theorem readBankMode_code {n : Nat} (h : n < 4) : (readBankMode n).code = n := by interval_cases n <;> rfl

theorem zeroed_ok {n : Nat} {u : Unit} (h : zeroed n = .ok u) : n = 0 := by
  unfold zeroed at h
  split at h
  · assumption
  · cases h

theorem assigned_ok {b : Bool} {u : Unit} (h : assigned b = .ok u) : b = true := by
  unfold assigned at h
  split at h
  · assumption
  · cases h

theorem unusedTarget_ok {n : Nat} {u : Unit} (h : unusedTarget n = .ok u) : n = 0x7F := by
  unfold unusedTarget at h
  split at h
  · assumption
  · cases h

theorem ternary_ok {n : Nat} {u : Unit} (h : ternary n = .ok u) : n = 3 := by
  unfold ternary at h
  split at h
  · assumption
  · cases h

theorem unpredicated_ok {n : Nat} {u : Unit} (h : unpredicated n = .ok u) : n = 0 := by
  unfold unpredicated at h
  split at h
  · assumption
  · cases h

/-! ## What a reader makes of fields -/

/-- Whether what is read from fields, if anything, is well formed and is written with these fields. -/
def Raw.Writes (r : Raw) (m : Except WordCheck Instr) : Prop := ∀ i, m = .ok i → i.wf = true ∧ i.raw = some r

theorem Raw.Writes.pure {r : Raw} {i : Instr} (hwf : i.wf = true) (hraw : i.raw = some r) : r.Writes (.ok i) := by
  rintro _ ⟨⟩
  exact ⟨hwf, hraw⟩

theorem Raw.Writes.error {r : Raw} (e : WordCheck) : r.Writes (.error e) := by
  rintro _ ⟨⟩

theorem Raw.Writes.bind {α : Type} {r : Raw} {x : Except WordCheck α} {f : α → Except WordCheck Instr}
    (h : ∀ a, x = .ok a → r.Writes (f a)) : r.Writes (x >>= f) := by
  cases x with
  | error e => exact .error e
  | ok a => exact h a rfl

/-- The constructor `c` is written as a word of Format G with pd, `x` and both targets. -/
def WritesG (op x : Nat) (c : Pd → Target → Target → Instr) : Prop :=
  ∀ p b a, (c p b a).wf = true ∧ (c p b a).raw = some (.g op p.code x b.code a.code)

section
variable {op pd x t1 t0 : Nat}

theorem gWord_writes {c : Pd → Target → Target → Instr} (h1 : t1 < 512) (h0 : t0 < 512) (hc : WritesG op x c) :
    (Raw.g op pd x t1 t0).Writes (gWord c pd t1 t0) := by
  refine .bind fun p hp => .bind fun b hb => .bind fun a ha => ?_
  rw [← readPd_ok hp, ← readTarget_ok h1 hb, ← readTarget_ok h0 ha]
  exact .pure (hc p b a).1 (hc p b a).2

/-- An opcode that lists only `x` = 0. -/
theorem gWord_writes_zero {c : Pd → Target → Target → Instr} (h1 : t1 < 512) (h0 : t0 < 512) (hc : WritesG op 0 c) :
    (Raw.g op pd x t1 t0).Writes (do assigned (x == 0); gWord c pd t1 t0) := by
  refine .bind fun _ hx => ?_
  obtain rfl : x = 0 := by simpa using assigned_ok hx
  exact gWord_writes h1 h0 hc

theorem gWord3_writes {c : Target → Target → Instr} (h1 : t1 < 512) (h0 : t0 < 512)
    (hc : ∀ b a, (c b a).wf = true ∧ (c b a).raw = some (.g op 3 x b.code a.code)) :
    (Raw.g op pd x t1 t0).Writes (gWord3 c pd t1 t0) := by
  refine .bind fun _ hp => .bind fun b hb => .bind fun a ha => ?_
  rw [ternary_ok hp, ← readTarget_ok h1 hb, ← readTarget_ok h0 ha]
  exact .pure (hc b a).1 (hc b a).2

theorem gSink_writes {c : Pd → Instr} (hc : ∀ p, (c p).wf = true ∧ (c p).raw = some (.g op p.code x 0x7F 0x7F)) :
    (Raw.g op pd x t1 t0).Writes (gSink c pd t1 t0) := by
  refine .bind fun p hp => .bind fun _ hb => .bind fun _ ha => ?_
  rw [← readPd_ok hp, unusedTarget_ok hb, unusedTarget_ok ha]
  exact .pure (hc p).1 (hc p).2

theorem gSink_writes_zero {c : Pd → Instr} (hc : ∀ p, (c p).wf = true ∧ (c p).raw = some (.g op p.code 0 0x7F 0x7F)) :
    (Raw.g op pd x t1 t0).Writes (do assigned (x == 0); gSink c pd t1 t0) := by
  refine .bind fun _ hx => ?_
  obtain rfl : x = 0 := by simpa using assigned_ok hx
  exact gSink_writes hc

/-- An integer word: `k` stands in xop [3:0] and W in bit 4. -/
theorem intWord_writes {k : Nat} {c : Pd → Bool → Target → Target → Instr} (hx : x < 32) (h1 : t1 < 512) (h0 : t0 < 512)
    (hk : bitField x 0 4 = k) (hc : ∀ w, WritesG op (16 * boolCode w + k) (c · w)) :
    (Raw.g op pd x t1 t0).Writes (intWord c x pd t1 t0) := by
  have hsplit : 16 * boolCode (bitField x 4 1 == 1) + k = x := by
    rw [boolCode_bit, ← hk]
    simp only [bitField]
    omega
  have h := hc (bitField x 4 1 == 1)
  rw [hsplit] at h
  exact gWord_writes h1 h0 h

theorem intWord0_writes {c : Pd → Bool → Target → Target → Instr} (hx : x < 32) (h1 : t1 < 512) (h0 : t0 < 512)
    (hc : ∀ w, WritesG op (16 * boolCode w) (c · w)) : (Raw.g op pd x t1 t0).Writes (intWord0 c x pd t1 t0) :=
  .bind fun _ hk => intWord_writes hx h1 h0 (beq_iff_eq.mp (assigned_ok hk)) hc

/-- An integer word without W, whose xop is `k`. -/
theorem narrowWord_writes {k : Nat} {c : Pd → Target → Target → Instr} (hx : x < 32) (h1 : t1 < 512) (h0 : t0 < 512)
    (hk : bitField x 0 4 = k) (hc : WritesG op k c) :
    (Raw.g op pd x t1 t0).Writes (do assigned (bitField x 4 1 == 0); gWord c pd t1 t0) := by
  refine .bind fun _ hz => ?_
  have hz := beq_iff_eq.mp (assigned_ok hz)
  obtain rfl : x = k := by
    simp only [bitField] at hk hz
    omega
  exact gWord_writes h1 h0 hc

/-- A word of entry 3 with W in bit 4 of its xop. -/
theorem wideWord3_writes {c : Bool → Target → Target → Instr} (hx : x < 32) (h1 : t1 < 512) (h0 : t0 < 512)
    (hc : ∀ w b a, (c w b a).wf = true ∧ (c w b a).raw = some (.g op 3 (16 * boolCode w) b.code a.code)) :
    (Raw.g op pd x t1 t0).Writes (do assigned (bitField x 0 4 == 0); gWord3 (c (bitField x 4 1 == 1)) pd t1 t0) := by
  refine .bind fun _ hk => ?_
  have hsplit : 16 * boolCode (bitField x 4 1 == 1) = x := by
    have hk := beq_iff_eq.mp (assigned_ok hk)
    rw [boolCode_bit]
    simp only [bitField] at hk ⊢
    omega
  have h := hc (bitField x 4 1 == 1)
  rw [hsplit] at h
  exact gWord3_writes h1 h0 h

/-- A float word: FT in xop [4:3] and RM in [1:0]. -/
theorem floatWord_writes {c : Pd → FloatFmt → Rm → Target → Target → Instr} (hx : x < 32) (h1 : t1 < 512) (h0 : t0 < 512)
    (hc : ∀ ft rm, readFt (bitField x 3 2) = .ok ft → WritesG op (8 * ft.code + rm.code) (c · ft rm)) :
    (Raw.g op pd x t1 t0).Writes (floatWord c x pd t1 t0) := by
  refine .bind fun ft hft => .bind fun p hp => .bind fun _ hz => .bind fun b hb => .bind fun a ha => ?_
  have hsplit : 8 * ft.code + (readRm (bitField x 0 2)).code = x := by
    have hz := zeroed_ok hz
    rw [readFt_ok hft, readRm_code (bitField_lt _ _ _)]
    simp only [bitField] at hz ⊢
    omega
  obtain ⟨hwf, hraw⟩ := hc ft (readRm (bitField x 0 2)) hft p b a
  rw [hsplit, readPd_ok hp, readTarget_ok h1 hb, readTarget_ok h0 ha] at hraw
  exact .pure hwf hraw

/-- A conversion between formats: FT differs from the destination. -/
theorem cvtWord_writes {d : FloatFmt} {c : Pd → FloatFmt → Rm → Target → Target → Instr} (hx : x < 32) (h1 : t1 < 512)
    (h0 : t0 < 512) (hc : ∀ ft rm, ft ≠ d → WritesG op (8 * ft.code + rm.code) (c · ft rm)) :
    (Raw.g op pd x t1 t0).Writes (cvtWord d c x pd t1 t0) := by
  refine .bind fun ft hft => .bind fun _ hd => floatWord_writes hx h1 h0 fun ft' rm hft' => hc ft' rm ?_
  obtain rfl : ft = ft' := Except.ok.inj (hft.symm.trans hft')
  simpa using assigned_ok hd

/-- A float word with V in bit 2 of its xop. -/
theorem floatWordV_writes {c0 c1 : Pd → FloatFmt → Target → Target → Instr} (hx : x < 32) (h1 : t1 < 512) (h0 : t0 < 512)
    (hc0 : ∀ ft, WritesG op (8 * ft.code) (c0 · ft)) (hc1 : ∀ ft, WritesG op (4 + 8 * ft.code) (c1 · ft)) :
    (Raw.g op pd x t1 t0).Writes (floatWordV c0 c1 x pd t1 t0) := by
  refine .bind fun ft hft => .bind fun p hp => .bind fun _ hz => .bind fun b hb => .bind fun a ha => ?_
  have hz := zeroed_ok hz
  have hftc := readFt_ok hft
  rw [← readPd_ok hp, ← readTarget_ok h1 hb, ← readTarget_ok h0 ha]
  simp only [bitField] at hz hftc
  split
  case isTrue hv =>
    obtain rfl : 4 + 8 * ft.code = x := by
      simp only [bitField] at hv
      omega
    exact .pure (hc1 ft p b a).1 (hc1 ft p b a).2
  case isFalse hv =>
    obtain rfl : 8 * ft.code = x := by
      simp only [bitField] at hv
      omega
    exact .pure (hc0 ft p b a).1 (hc0 ft p b a).2

/-- A float word with FT alone. -/
theorem floatWord1_writes {c : Pd → FloatFmt → Target → Target → Instr} (hx : x < 32) (h1 : t1 < 512) (h0 : t0 < 512)
    (hc : ∀ ft, WritesG op (8 * ft.code) (c · ft)) : (Raw.g op pd x t1 t0).Writes (floatWord1 c x pd t1 t0) := by
  refine .bind fun ft hft => .bind fun p hp => .bind fun _ hz => .bind fun b hb => .bind fun a ha => ?_
  obtain rfl : 8 * ft.code = x := by
    have hz := zeroed_ok hz
    rw [readFt_ok hft]
    simp only [bitField] at hz ⊢
    omega
  rw [← readPd_ok hp, ← readTarget_ok h1 hb, ← readTarget_ok h0 ha]
  exact .pure (hc ft p b a).1 (hc ft p b a).2

end

section
variable {op pd imm t0 : Nat}

/-- The constructor `c` is written as a word of Format I with pd, `imm` and T0. -/
def WritesI (op imm : Nat) (c : Pd → Target → Instr) : Prop := ∀ p a, (c p a).wf = true ∧ (c p a).raw = some (.i op p.code imm a.code)

theorem iWord_writes {c : Pd → Target → Instr} (h0 : t0 < 512) (hc : WritesI op imm c) : (Raw.i op pd imm t0).Writes (iWord c pd t0) := by
  refine .bind fun p hp => .bind fun a ha => ?_
  rw [← readPd_ok hp, ← readTarget_ok h0 ha]
  exact .pure (hc p a).1 (hc p a).2

theorem iWordR_writes {c : Pd → Target → Instr} {rsvd : Nat} (h0 : t0 < 512) (hc : rsvd = 0 → WritesI op imm c) :
    (Raw.i op pd imm t0).Writes (iWordR c rsvd pd t0) := by
  refine .bind fun p hp => .bind fun _ hz => .bind fun a ha => ?_
  have hc := hc (zeroed_ok hz) p a
  rw [← readPd_ok hp, ← readTarget_ok h0 ha]
  exact .pure hc.1 hc.2

/-- A reader of a number that must stand alone in imm14. -/
theorem iWordR_writes_low {n : Nat} {c : BitVec n → Pd → Target → Instr} {rsvd : Nat} (h0 : t0 < 512)
    (hsplit : rsvd = 0 → imm < 2 ^ n) (hc : ∀ v : BitVec n, WritesI op v.toNat (c v)) :
    (Raw.i op pd imm t0).Writes (iWordR (c (BitVec.ofNat n imm)) rsvd pd t0) := by
  refine iWordR_writes h0 fun hz => ?_
  have h := hc (BitVec.ofNat n imm)
  rwa [BitVec.toNat_ofNat, Nat.mod_eq_of_lt (hsplit hz)] at h

end

theorem mWord_writes {op pd seq pv nx port t0 : Nat} {c : Pd → BitVec 5 → BitVec 2 → BitVec 2 → BitVec 5 → Target → Instr}
    (hs : seq < 32) (hv : pv < 4) (hn : nx < 4) (ho : port < 32) (h0 : t0 < 512)
    (hc : ∀ p s v n o a, (c p s v n o a).wf = true ∧
      (c p s v n o a).raw = some (.m op p.code s.toNat v.toNat n.toNat o.toNat a.code)) :
    (Raw.m op pd seq pv nx port t0).Writes (mWord c pd seq pv nx port t0) := by
  refine .bind fun p hp => .bind fun a ha => ?_
  obtain ⟨hwf, hraw⟩ := hc p (BitVec.ofNat 5 seq) (BitVec.ofNat 2 pv) (BitVec.ofNat 2 nx) (BitVec.ofNat 5 port) a
  simp only [BitVec.toNat_ofNat, Nat.mod_eq_of_lt hs, Nat.mod_eq_of_lt hv, Nat.mod_eq_of_lt hn, Nat.mod_eq_of_lt ho, readPd_ok hp,
    readTarget_ok h0 ha] at hraw
  exact .pure hwf hraw

theorem tWord_writes {r : Raw} {pd rsvd ct : Nat} {c : Pd → Completion → Instr} (hct : ct < 256)
    (hc : rsvd = 0 → ∀ p k, p.code = pd → k.code = ct → (c p k).wf = true ∧ (c p k).raw = some r) : r.Writes (tWord c rsvd pd ct) := by
  refine .bind fun p hp => .bind fun _ hz => .bind fun k hk => ?_
  have hc := hc (zeroed_ok hz) p k (readPd_ok hp) (readCt_ok hct hk)
  exact .pure hc.1 hc.2

/-! ## Reading by opcode (R281 to R289) -/

/-- A word of FRAME or FRET: the level or bit 4 (R282). -/
theorem frameWord_writes {pd x t1 t0 : Nat} (hx : x < 32) (h1 : t1 < 512) (h0 : t0 < 512) :
    (Raw.g 0x09 pd x t1 t0).Writes (readG 0x09 pd x t1 t0) := by
  refine .bind fun p hp => .bind fun _ hz => ?_
  have hz := zeroed_ok hz
  rw [← readPd_ok hp]
  split
  case isTrue hf =>
    refine .bind fun b hb => .bind fun a ha => ?_
    rw [← readTarget_ok h1 hb, ← readTarget_ok h0 ha]
    simp only [bitField] at hz hf
    refine .pure rfl (congrArg (fun l => some (Raw.g 0x09 p.code l b.code a.code)) ?_)
    simp only [BitVec.toNat_ofNat, bitField]
    omega
  case isFalse hf =>
    refine .bind fun _ hl => .bind fun b hb => .bind fun a ha => ?_
    have hl := zeroed_ok hl
    rw [← readTarget_ok h1 hb, ← readTarget_ok h0 ha]
    simp only [bitField] at hz hf hl
    obtain rfl : x = 0x10 := by omega
    exact .pure rfl rfl

/-- A word of FENCE: its kind and scope (R285). -/
theorem fenceWord_writes {pd x t1 t0 : Nat} (hx : x < 32) (h1 : t1 < 512) (h0 : t0 < 512) :
    (Raw.g 0x57 pd x t1 t0).Writes (readG 0x57 pd x t1 t0) := by
  refine .bind fun p hp => .bind fun sc hsc => ?_
  have hsc := readScope_ok hsc
  rw [← readPd_ok hp]
  simp only [bitField] at hsc
  split
  case h_4 => exact .error _
  all_goals
    rename_i hkind
    refine .bind fun b hb => .bind fun a ha => ?_
    rw [← readTarget_ok h1 hb, ← readTarget_ok h0 ha]
    simp only [bitField] at hkind
    refine .pure rfl (congrArg (fun y => some (Raw.g 0x57 p.code y b.code a.code)) ?_)
    omega

/-- A word of FCMP (R284). -/
theorem fcmpWord_writes {pd x t1 t0 : Nat} (hx : x < 32) (h1 : t1 < 512) (h0 : t0 < 512) :
    (Raw.g 0x39 pd x t1 t0).Writes (readG 0x39 pd x t1 t0) := by
  refine .bind fun ft hft => gWord_writes h1 h0 fun p b a => ⟨rfl, congrArg (fun y => some (Raw.g 0x39 p.code y b.code a.code)) ?_⟩
  rw [readFt_ok hft, readFloatCond_code (bitField_lt _ _ _)]
  simp only [bitField]
  omega

/-- A word of CVTIF (R284). -/
theorem cvtifWord_writes {pd x t1 t0 : Nat} (hx : x < 32) (h1 : t1 < 512) (h0 : t0 < 512) :
    (Raw.g 0x44 pd x t1 t0).Writes (readG 0x44 pd x t1 t0) := by
  refine .bind fun ft hft => gWord_writes h1 h0 fun p b a => ?_
  have hft := readFt_ok hft
  have hrm := readRm_code (bitField_lt x 0 2)
  simp only [bitField] at hft hrm
  split
  all_goals
    rename_i hl
    simp only [bitField] at hl
    refine ⟨rfl, congrArg (fun y => some (Raw.g 0x44 p.code y b.code a.code)) ?_⟩
    simp only [bitField, hrm, hft]
    omega

theorem mergeWord_writes {pd x t1 t0 : Nat} (h1 : t1 < 512) (h0 : t0 < 512) :
    (Raw.g 0x06 pd x t1 t0).Writes (readG 0x06 pd x t1 t0) := by
  refine .bind fun _ hx => .bind fun _ hp => .bind fun b hb => .bind fun a ha => ?_
  obtain rfl : x = 0 := by simpa using assigned_ok hx
  rw [unpredicated_ok hp, ← readTarget_ok h1 hb, ← readTarget_ok h0 ha]
  exact .pure rfl rfl

theorem cmpWord_writes {pd x t1 t0 : Nat} (hx : x < 32) (h1 : t1 < 512) (h0 : t0 < 512) :
    (Raw.g 0x1D pd x t1 t0).Writes (readG 0x1D pd x t1 t0) := by
  refine .bind fun cc hcc => intWord_writes (k := cc.code) hx h1 h0 (readIntCond_ok hcc).symm fun w p b a => ⟨rfl, rfl⟩

theorem ffmaWord_writes {pd x t1 t0 : Nat} (hx : x < 32) (h1 : t1 < 512) (h0 : t0 < 512) :
    (Raw.g 0x33 pd x t1 t0).Writes (readG 0x33 pd x t1 t0) := by
  refine .bind fun ft hft => .bind fun _ hp => .bind fun _ hz => .bind fun b hb => .bind fun a ha => ?_
  have hz := zeroed_ok hz
  rw [ternary_ok hp, ← readTarget_ok h1 hb, ← readTarget_ok h0 ha]
  refine .pure rfl (congrArg (fun y => some (Raw.g 0x33 3 y b.code a.code)) ?_)
  rw [readFt_ok hft, readRm_code (bitField_lt _ _ _)]
  simp only [bitField] at hz ⊢
  omega

/-- A word of VCMP (R287): its condition stands behind bit 3. -/
theorem vcmpWord_writes {pd x t1 t0 : Nat} (hlo : 8 ≤ x) (h1 : t1 < 512) (h0 : t0 < 512) :
    (Raw.g 0x70 pd x t1 t0).Writes (do
      assigned (decide (x < 16))
      let cc ← readLaneCond (bitField x 0 3)
      gWord (fun p => .vcmp p cc) pd t1 t0) := by
  refine .bind fun _ hx => .bind fun cc hcc => gWord_writes h1 h0 fun p b a =>
    ⟨rfl, congrArg (fun y => some (Raw.g 0x70 p.code y b.code a.code)) ?_⟩
  have hx := of_decide_eq_true (assigned_ok hx)
  rw [readLaneCond_ok hcc]
  simp only [bitField]
  omega

/-- A word of SX and ZX (R283): those to 64 bits have no W. -/
theorem extendWord_writes {pd x t1 t0 : Nat} (hx : x < 32) (h1 : t1 < 512) (h0 : t0 < 512) :
    (Raw.g 0x24 pd x t1 t0).Writes (readG 0x24 pd x t1 t0) := by
  change Raw.Writes _ (match bitField x 0 4 with
    | 0 => intWord .sx8 x pd t1 t0
    | 1 => intWord .sx16 x pd t1 t0
    | 2 => do assigned (bitField x 4 1 == 0); gWord .sx32 pd t1 t0
    | 4 => intWord .zx8 x pd t1 t0
    | 5 => intWord .zx16 x pd t1 t0
    | 6 => do assigned (bitField x 4 1 == 0); gWord .zx32 pd t1 t0
    | _ => .error .subfield)
  split
  case h_7 => exact .error _
  case h_3 hk | h_6 hk => exact narrowWord_writes hx h1 h0 hk fun p b a => ⟨rfl, rfl⟩
  all_goals exact intWord_writes hx h1 h0 ‹_› fun w p b a => ⟨rfl, by cases w <;> rfl⟩

/-- Format G. -/
theorem readG_writes {op pd x t1 t0 : Nat} (hx : x < 32) (h1 : t1 < 512) (h0 : t0 < 512) :
    (Raw.g op pd x t1 t0).Writes (readG op pd x t1 t0) := by
  unfold readG
  split
  -- NOP and END; one instruction for one opcode
  case h_1 | h_13 => exact gSink_writes_zero fun p => ⟨rfl, rfl⟩
  case h_2 | h_3 | h_4 | h_7 | h_61 | h_62 => exact gWord_writes_zero h1 h0 fun p b a => ⟨rfl, rfl⟩
  case h_6 => exact mergeWord_writes h1 h0
  case h_9 => exact frameWord_writes hx h1 h0
  case h_27 => exact cmpWord_writes hx h1 h0
  case h_34 => exact extendWord_writes hx h1 h0
  case h_38 => exact ffmaWord_writes hx h1 h0
  case h_44 => exact fcmpWord_writes hx h1 h0
  case h_55 => exact cvtifWord_writes hx h1 h0
  case h_59 => exact fenceWord_writes hx h1 h0
  -- the integer words (R283)
  case h_14 | h_15 | h_19 | h_20 | h_21 | h_22 | h_23 | h_24 | h_25 => exact intWord0_writes hx h1 h0 fun w p b a => ⟨rfl, rfl⟩
  case h_30 | h_32 => exact wideWord3_writes hx h1 h0 fun w b a => ⟨rfl, rfl⟩
  case h_17 | h_18 | h_26 | h_29 | h_33 =>
    split
    case h_3 => exact .error _
    all_goals exact intWord_writes hx h1 h0 ‹_› fun w p b a => ⟨rfl, by cases w <;> rfl⟩
  case h_16 | h_31 =>
    split
    case h_4 => exact .error _
    all_goals exact intWord_writes hx h1 h0 ‹_› fun w p b a => ⟨rfl, by cases w <;> rfl⟩
  case h_28 =>
    split
    case h_5 => exact .error _
    all_goals exact intWord_writes hx h1 h0 ‹_› fun w p b a => ⟨rfl, by cases w <;> rfl⟩
  -- the float words (R284)
  case h_35 | h_36 | h_37 | h_39 | h_40 | h_50 | h_54 => exact floatWord_writes hx h1 h0 fun ft rm _ p b a => ⟨rfl, rfl⟩
  case h_41 | h_42 | h_43 | h_49 => exact floatWordV_writes hx h1 h0 (fun ft p b a => ⟨rfl, rfl⟩) fun ft p b a => ⟨rfl, rfl⟩
  case h_45 | h_46 | h_47 | h_48 | h_56 | h_57 | h_58 => exact floatWord1_writes hx h1 h0 fun ft p b a => ⟨rfl, rfl⟩
  case h_51 | h_52 | h_53 => exact cvtWord_writes hx h1 h0 fun ft rm hft p b a => ⟨decide_eq_true hft, rfl⟩
  -- the opcodes that list their instructions by xop
  case h_5 | h_11 | h_12 =>
    split
    case h_3 => exact .error _
    all_goals exact gWord_writes h1 h0 fun p b a => ⟨rfl, rfl⟩
  case h_8 | h_67 | h_69 =>
    split
    case h_4 => exact .error _
    all_goals exact gWord_writes h1 h0 fun p b a => ⟨rfl, rfl⟩
  case h_60 | h_66 =>
    split
    case h_5 => exact .error _
    all_goals exact gWord_writes h1 h0 fun p b a => ⟨rfl, rfl⟩
  case h_64 =>
    split
    case h_13 => exact .error _
    all_goals exact gWord_writes h1 h0 fun p b a => ⟨rfl, rfl⟩
  case h_10 =>
    split
    case h_3 => exact .error _
    all_goals exact gSink_writes fun p => ⟨rfl, rfl⟩
  case h_65 =>
    split
    case h_4 => exact .error _
    all_goals exact gWord3_writes h1 h0 fun b a => ⟨rfl, rfl⟩
  case h_68 =>
    split
    case h_4 => exact gSink_writes fun p => ⟨rfl, rfl⟩
    case h_5 => exact .error _
    all_goals exact gWord_writes h1 h0 fun p b a => ⟨rfl, rfl⟩
  case h_63 =>
    split
    case h_7 | h_8 => exact .error _
    case h_9 =>
      simp only [imp_false] at *
      exact vcmpWord_writes (by omega) h1 h0
    all_goals exact gWord_writes h1 h0 fun p b a => ⟨rfl, rfl⟩
  case h_70 => exact .error _

theorem rdcfgIndex_readable {n : Nat} (h : rdcfgIndex n = true) : readableIndices.contains n = true := by
  have hn : n < 65 := by
    simp only [rdcfgIndex, Bool.or_eq_true, decide_eq_true_eq, beq_iff_eq, Bool.and_eq_true] at h
    omega
  revert h
  interval_cases n <;> decide

theorem wrcfgIndex_writable {n : Nat} (h : wrcfgIndex n = true) : writableIndices.contains n = true := by
  have hn : n < 65 := by
    simp only [wrcfgIndex, Bool.or_eq_true, decide_eq_true_eq, beq_iff_eq, Bool.and_eq_true] at h
    omega
  revert h
  interval_cases n <;> decide

section
variable {pd imm t0 : Nat}

/-- The instructions on hold registers (R282). -/
theorem holdWord_writes (hi : imm < 2 ^ 14) (h0 : t0 < 512) : (Raw.i 0x0E pd imm t0).Writes (readI 0x0E pd imm t0) := by
  change Raw.Writes _ (match bitField imm 12 2 with
    | 0 => iWordR (fun p => .rdh p (bitField imm 11 1 == 1) (BitVec.ofNat 5 imm)) (bitField imm 5 6) pd t0
    | 1 => iWordR (fun p => .wrh p (BitVec.ofNat 5 imm)) (bitField imm 5 7) pd t0
    | 2 => iWordR (fun p => .clrh p (BitVec.ofNat 5 imm)) (bitField imm 5 7) pd t0
    | _ => iWordR (fun p => .tsth p (BitVec.ofNat 5 imm)) (bitField imm 5 7) pd t0)
  split
  all_goals
    refine iWordR_writes h0 fun hz p a => ⟨rfl, congrArg (fun y => some (Raw.i 0x0E p.code y a.code)) ?_⟩
    simp only [boolCode_bit, BitVec.toNat_ofNat]
    simp only [bitField, imp_false] at *
    omega

/-- TREE (R286): its operation and its group. -/
theorem treeWord_writes (hi : imm < 2 ^ 14) (h0 : t0 < 512) : (Raw.i 0x62 pd imm t0).Writes (readI 0x62 pd imm t0) := by
  refine .bind fun o ho => iWordR_writes h0 fun hz p a => ⟨rfl, congrArg (fun y => some (Raw.i 0x62 p.code y a.code)) ?_⟩
  rw [readTreeOp_ok ho]
  simp only [BitVec.toNat_ofNat, bitField] at *
  omega

theorem trapWord_writes (hi : imm < 2 ^ 14) (h0 : t0 < 512) : (Raw.i 0x67 pd imm t0).Writes (readI 0x67 pd imm t0) := by
  refine .bind fun _ ht => iWord_writes h0 fun p a => ⟨?_, congrArg (fun y => some (Raw.i 0x67 p.code y a.code)) ?_⟩
  · change decide ((BitVec.ofNat 14 imm).toNat < 0x3FF0) = true
    rw [BitVec.toNat_ofNat, Nat.mod_eq_of_lt hi]
    exact assigned_ok ht
  · rw [BitVec.toNat_ofNat, Nat.mod_eq_of_lt hi]

theorem rdcfgWord_writes (hi : imm < 2 ^ 14) (h0 : t0 < 512) : (Raw.i 0x6A pd imm t0).Writes (readI 0x6A pd imm t0) := by
  refine .bind fun _ hix => iWordR_writes h0 fun hz p a => ?_
  have hlow : bitField imm 0 12 = imm := by
    simp only [bitField] at hz ⊢
    omega
  have hix := rdcfgIndex_readable (hlow ▸ assigned_ok hix)
  have himm : (BitVec.ofNat 12 imm).toNat = imm := by
    simp only [bitField] at hlow
    rw [BitVec.toNat_ofNat]
    omega
  exact ⟨(congrArg readableIndices.contains himm).trans hix, congrArg (fun y => some (Raw.i 0x6A p.code y a.code)) himm⟩

theorem wrcfgWord_writes (hi : imm < 2 ^ 14) (h0 : t0 < 512) : (Raw.i 0x6B pd imm t0).Writes (readI 0x6B pd imm t0) := by
  refine .bind fun _ hix => iWordR_writes h0 fun hz p a => ?_
  have hlow : bitField imm 0 12 = imm := by
    simp only [bitField] at hz ⊢
    omega
  have hix := wrcfgIndex_writable (hlow ▸ assigned_ok hix)
  have himm : (BitVec.ofNat 12 imm).toNat = imm := by
    simp only [bitField] at hlow
    rw [BitVec.toNat_ofNat]
    omega
  exact ⟨(congrArg writableIndices.contains himm).trans hix, congrArg (fun y => some (Raw.i 0x6B p.code y a.code)) himm⟩

theorem bkptWord_writes (hi : imm < 2 ^ 14) (h0 : t0 < 512) : (Raw.i 0x6D pd imm t0).Writes (readI 0x6D pd imm t0) := by
  refine iWord_writes h0 fun p a => ⟨rfl, congrArg (fun y => some (Raw.i 0x6D p.code y a.code)) ?_⟩
  simp only [BitVec.toNat_ofNat, bitField]
  omega

/-- TDEF, TSET and TSTATE (R287). -/
theorem tileWord_writes (hi : imm < 2 ^ 14) (h0 : t0 < 512) : (Raw.i 0x76 pd imm t0).Writes (readI 0x76 pd imm t0) := by
  change Raw.Writes _ (match bitField imm 12 2 with
    | 0 => iWordR (fun p => .tdef p (BitVec.ofNat 5 imm)) (bitField imm 5 7) pd t0
    | 1 => iWordR (fun p => .tset p (readTileState (bitField imm 10 2)) (BitVec.ofNat 5 imm)) (bitField imm 5 5) pd t0
    | 2 => iWordR (fun p => .tstate p (BitVec.ofNat 5 imm)) (bitField imm 5 7) pd t0
    | _ => .error .subfield)
  split
  case h_4 => exact .error _
  all_goals
    refine iWordR_writes h0 fun hz p a => ⟨rfl, congrArg (fun y => some (Raw.i 0x76 p.code y a.code)) ?_⟩
    have hst := readTileState_code (n := bitField imm 10 2) (Nat.mod_lt _ (by decide))
    simp only [BitVec.toNat_ofNat, bitField] at *
    omega

/-- BMODE, PERMIT and BINV (R287); compute mode is of K0 and K1 only. -/
theorem bankWord_writes (hi : imm < 2 ^ 14) (h0 : t0 < 512) : (Raw.i 0x77 pd imm t0).Writes (readI 0x77 pd imm t0) := by
  change Raw.Writes _ (match bitField imm 12 2 with
    | 0 => do
      let p ← readPd pd
      zeroed (bitField imm 0 7)
      zeroed (if bitField imm 8 2 = 3 ∧ 2 ≤ bitField imm 10 2 then 1 else 0)
      let a ← readTarget t0
      return .bmode p (BitVec.ofNat 2 (bitField imm 10 2)) (readBankMode (bitField imm 8 2)) (bitField imm 7 1 == 1) a
    | 1 => iWordR (fun p => .permit p (BitVec.ofNat 5 imm)) (bitField imm 5 7) pd t0
    | 2 => iWordR (fun p => .binv p (BitVec.ofNat 5 imm)) (bitField imm 5 7) pd t0
    | _ => .error .subfield)
  split
  case h_4 => exact .error _
  case h_1 hb =>
    refine .bind fun p hp => .bind fun _ hlow => .bind fun _ hk => .bind fun a ha => ?_
    have hmode := readBankMode_code (bitField_lt imm 8 2)
    rw [← readPd_ok hp, ← readTarget_ok h0 ha]
    have hlow := zeroed_ok hlow
    refine .pure (decide_eq_true fun hc => ?_) (congrArg (fun y => some (Raw.i 0x77 p.code y a.code)) ?_)
    · rw [hc] at hmode
      have hk := zeroed_ok hk
      rw [← hmode] at hk
      rw [BitVec.toNat_ofNat, Nat.mod_eq_of_lt (bitField_lt imm 10 2)]
      by_contra hge
      rw [if_pos ⟨rfl, not_lt.mp hge⟩] at hk
      cases hk
    · rw [hmode, boolCode_bit]
      simp only [BitVec.toNat_ofNat, bitField] at *
      omega
  all_goals
    refine iWordR_writes h0 fun hz p a => ⟨rfl, congrArg (fun y => some (Raw.i 0x77 p.code y a.code)) ?_⟩
    simp only [BitVec.toNat_ofNat, bitField] at *
    omega

/-- Format I. -/
theorem readI_writes {op : Nat} (hi : imm < 2 ^ 14) (h0 : t0 < 512) : (Raw.i op pd imm t0).Writes (readI op pd imm t0) := by
  have himm : (BitVec.ofNat 14 imm).toNat = imm := by rw [BitVec.toNat_ofNat, Nat.mod_eq_of_lt hi]
  unfold readI
  split
  case h_1 | h_3 | h_4 | h_5 | h_6 =>
    exact iWord_writes h0 fun p a => ⟨rfl, congrArg (fun y => some (Raw.i _ p.code y a.code)) himm⟩
  case h_2 => exact holdWord_writes hi h0
  case h_8 => exact treeWord_writes hi h0
  case h_13 => exact trapWord_writes hi h0
  case h_15 => exact rdcfgWord_writes hi h0
  case h_16 => exact wrcfgWord_writes hi h0
  case h_17 => exact bkptWord_writes hi h0
  case h_18 => exact tileWord_writes hi h0
  case h_19 => exact bankWord_writes hi h0
  case h_20 => exact .error _
  all_goals
    refine iWordR_writes h0 fun hz p a => ⟨rfl, congrArg (fun y => some (Raw.i _ p.code y a.code)) ?_⟩
    simp only [BitVec.toNat_ofNat, bitField] at *
    omega

end

/-- LDH (R285): its target is a hold register. -/
theorem ldhWord_writes {pd seq pv nx port t0 : Nat} (hs : seq < 32) (hv : pv < 4) (hn : nx < 4) (ho : port < 32) (h0 : t0 < 512) :
    (Raw.m 0x54 pd seq pv nx port t0).Writes (readM 0x54 pd seq pv nx port t0) := by
  refine .bind fun p hp => .bind fun a ha => ?_
  have ha := readTarget_ok h0 ha
  split
  case h_1 h =>
    rw [← readPd_ok hp, ← ha]
    refine .pure rfl (congrArg some (show Raw.m _ _ _ _ _ _ _ = Raw.m _ _ _ _ _ _ _ from ?_))
    simp only [BitVec.toNat_ofNat, Nat.mod_eq_of_lt hs, Nat.mod_eq_of_lt hv, Nat.mod_eq_of_lt hn, Nat.mod_eq_of_lt ho,
      Target.code]
  case h_2 => exact .error _

/-- Format M. -/
theorem readM_writes {op pd seq pv nx port t0 : Nat} (hs : seq < 32) (hv : pv < 4) (hn : nx < 4) (ho : port < 32) (h0 : t0 < 512) :
    (Raw.m op pd seq pv nx port t0).Writes (readM op pd seq pv nx port t0) := by
  unfold readM
  split
  case h_5 => exact ldhWord_writes hs hv hn ho h0
  case h_15 => exact .error _
  all_goals exact mWord_writes hs hv hn ho h0 fun p s v n o a => ⟨rfl, rfl⟩

/-- Format Q. -/
theorem readQ_writes {op pd queue lim mode t0 : Nat} (hq : queue < 32) (hl : lim < 32) (hm : mode < 16) (h0 : t0 < 512) :
    (Raw.q op pd queue lim mode t0).Writes (readQ op pd queue lim mode t0) := by
  unfold readQ
  split
  case h_2 => exact .error _
  dsimp only
  split
  case h_4 => exact .error _
  all_goals
    refine .bind fun p hp => .bind fun _ hz => .bind fun a ha => ?_
    rw [← readPd_ok hp, ← readTarget_ok h0 ha]
    have hz := zeroed_ok hz
    refine .pure rfl (congrArg some (show Raw.q _ _ _ _ _ _ = Raw.q _ _ _ _ _ _ from ?_))
    simp only [BitVec.toNat_ofNat, Nat.mod_eq_of_lt hq, Nat.mod_eq_of_lt hl, bitField, Raw.q.injEq,
      true_and, and_true] at *
    omega

/-- Format T. -/
theorem readT_writes {op pd td ta tb ct : Nat} (hd : td < 32) (ha : ta < 32) (hb : tb < 32) (hct : ct < 256) :
    (Raw.t op pd td ta tb ct).Writes (readT op pd td ta tb ct) := by
  unfold readT
  dsimp only
  split
  case h_8 => exact .error _
  case h_1 =>
    refine .bind fun o ho => tWord_writes hct fun hz p k hp hk => ⟨rfl, congrArg some (show Raw.t _ _ _ _ _ _ = Raw.t _ _ _ _ _ _ from ?_)⟩
    simp only [BitVec.toNat_ofNat, Nat.mod_eq_of_lt hd, readAmotOp_ok ho, hz, hp, hk]
  all_goals
    refine tWord_writes hct fun hz p k hp hk => ⟨rfl, congrArg some (show Raw.t _ _ _ _ _ _ = Raw.t _ _ _ _ _ _ from ?_)⟩
    simp only [BitVec.toNat_ofNat, Nat.mod_eq_of_lt hd, Nat.mod_eq_of_lt ha, Nat.mod_eq_of_lt hb, hz, hp, hk]

/-! ## Encode after decode -/

/-- Fields that fit their format and are read are written again. -/
theorem read_writes {r : Raw} (h : r.Fits) : r.Writes r.read := by
  cases r with
  | g op pd x t1 t0 =>
    obtain ⟨-, -, -, hx, h1, h0⟩ := h
    exact readG_writes hx h1 h0
  | i op pd imm t0 =>
    obtain ⟨-, -, -, hi, h0⟩ := h
    exact readI_writes hi h0
  | m op pd seq pv nx port t0 =>
    obtain ⟨-, -, -, hs, hv, hn, ho, h0⟩ := h
    exact readM_writes hs hv hn ho h0
  | q op pd queue lim mode t0 =>
    obtain ⟨-, -, -, hq, hl, hm, h0⟩ := h
    exact readQ_writes hq hl hm h0
  | t op pd td ta tb ct =>
    obtain ⟨-, -, -, hd, ha, hb, hct⟩ := h
    exact readT_writes hd ha hb hct

theorem encode_decoded {w : Word} {i : Instr} (h : decode w = .ok i) : i.wf = true ∧ encode i = some w := by
  unfold decode decodeNat at h
  split at h
  · cases h
  · rename_i r hr
    obtain ⟨hfits, hword⟩ := word_of_split w.isLt hr
    obtain ⟨hwf, hraw⟩ := read_writes hfits i h
    refine ⟨hwf, ?_⟩
    rw [encode, hraw, Option.map_some, hword, BitVec.ofNat_toNat, BitVec.setWidth_eq]

/-! ## Reserved words -/

/-- The opcodes that R281 lists as unassigned. -/
theorem formatOf_unassigned : ∀ op < 128, (0x29 ≤ op ∧ op ≤ 0x2F) ∨ (0x48 ≤ op ∧ op ≤ 0x4F) ∨ op = 0x6F ∨ op = 0x7F →
    formatOf op = none := by decide

theorem split_none {w : Nat} (h : formatOf (bitField w 25 7) = none) : split w = none := by
  unfold split
  dsimp only
  rw [h]

/-- A word of LIT or ADDI is read in Format I. -/
theorem decode_lit_or_addi {w : Word} (h : w.toNat / 2 ^ 25 = 0x02 ∨ w.toNat / 2 ^ 25 = 0x25) :
    ∃ c : Pd → Target → Instr, decode w = iWord c (bitField w.toNat 23 2) (bitField w.toNat 0 9) := by
  have hop : bitField w.toNat 25 7 = w.toNat / 2 ^ 25 := Nat.mod_eq_of_lt (by omega)
  rw [decode, decodeNat]
  unfold split
  rw [hop]
  obtain h | h := h
  all_goals
    rw [h]
    exact ⟨_, rfl⟩

theorem iWord_predicate {c : Pd → Target → Instr} (t0 : Nat) : iWord c 3 t0 = .error .predicate := rfl

theorem readTarget_reserved {n : Nat} (hlo : 0x60 ≤ n) (hhi : n ≤ 0x7E) : readTarget n = .error .target := by
  interval_cases n <;> rfl

theorem iWord_target {c : Pd → Target → Instr} {pd t0 : Nat} (hpd : pd < 3) (ht : readTarget t0 = .error .target) :
    iWord c pd t0 = .error .target := by
  rw [iWord, ht]
  interval_cases pd <;> rfl

end Sys2Proof

section
open Sys2Proof

/-- Settles O2: an instruction that takes a unit has fields, which fit their format, so that the word splits into them, and the fields
read as the instruction. -/
theorem decodeAfterEncode : Obligations.DecodeAfterEncode := by
  unfold Obligations.DecodeAfterEncode
  refine ⟨fun i hunit hwf => ?_, fun i hunit => ?_⟩
  · obtain ⟨r, hr⟩ := Option.isSome_iff_exists.mp ((unit_isSome i).symm.trans hunit)
    exact ⟨BitVec.ofNat 32 r.word, by rw [encode, hr, Option.map_some], decode_word hwf hr⟩
  · have hraw : i.raw.isSome = false := by rw [← unit_isSome, hunit, Option.isSome_none]
    rw [encode, Option.isSome_eq_false_iff.mp hraw |> Option.isNone_iff_eq_none.mp, Option.map_none]

/-- Settles O3: a word that decodes is the word of the fields that were read, which the encoder writes for the instruction. -/
theorem encodeAfterDecode : Obligations.EncodeAfterDecode := by
  unfold Obligations.EncodeAfterDecode
  exact fun w i h => encode_decoded h

/-- Settles O4: an unassigned opcode has no format; a word of LIT or ADDI is read in Format I. -/
theorem reservedWordsRefused : Obligations.ReservedWordsRefused := by
  unfold Obligations.ReservedWordsRefused
  refine ⟨fun w h => ?opcode, fun w h hpd => ?predicate, fun w h hpd ht => ?target⟩
  case opcode =>
    have hop : bitField w.toNat 25 7 = w.toNat / 2 ^ 25 := Nat.mod_eq_of_lt (by omega)
    rw [decode, decodeNat, split_none (hop ▸ formatOf_unassigned _ (by omega) h)]
  case predicate =>
    obtain ⟨c, hc⟩ := decode_lit_or_addi h
    rw [hc, show bitField w.toNat 23 2 = 3 from hpd]
    exact iWord_predicate _
  case target =>
    obtain ⟨c, hc⟩ := decode_lit_or_addi h
    rw [hc]
    refine iWord_target hpd (readTarget_reserved ?_ ?_)
    all_goals
      rw [bitField, pow_zero, Nat.div_one]
    · exact ht.1
    · exact ht.2

/-- Settles O1, by evaluating the decoder on the words. -/
theorem decodeOfSpecWords : Obligations.DecodeOfSpecWords := by
  unfold Obligations.DecodeOfSpecWords
  decide

end
end

section
/-!
PROOF of O14, O15, O16, O17, O18 and O19. The scalar integer side of the cell: an instruction that sends at once completes with its
results (R304 to R308), and each number that the model computes is the result of R325 to R328 in bit-vector arithmetic.
-/

namespace Sys2Proof.Machine

-- Proofs one after another, as in the tests: in parallel they take more memory at once.
set_option Elab.async false

open Claims

/-! ## The instructions that send at once (R190, R191) -/

/-- An instruction of the sending form sends what its form gives for the firing. -/
theorem sends_of_sendsForm {i : Instr} {pd : Pd} {fl : State → Flags} {l : State → List (Target × Val)}
    (r : Firing → State → List (Target × Val)) (g : Firing → State → Flags) (hpd : i.pd = pd)
    (hi : ∀ s, exec i s = s.sendsForm pd r g fun _ _ => id) (hr : ∀ s, r s.sch.cur s = l s) (hg : ∀ s, g s.sch.cur s = fl s) :
    Sends i fl l := by
  intro s hp hsend
  rw [hi, State.sendsForm, State.fire_passed _ _ _ (hpd ▸ hp), hr, hg]
  exact State.finish_ready _ _ _ _ _ hsend

/-- The same without flags. -/
theorem sends_of_plainForm {i : Instr} {pd : Pd} {l : State → List (Target × Val)} (r : Firing → State → List (Target × Val))
    (hpd : i.pd = pd) (hi : ∀ s, exec i s = s.sendsForm pd r (fun _ _ => 0) fun _ _ => id) (hr : ∀ s, r s.sch.cur s = l s) :
    Sends i noFlags l :=
  sends_of_sendsForm r (fun _ _ => 0) hpd hi hr fun _ => rfl

/-- A word of 8 n bits is a value of n bytes. -/
theorem val_bytes (n : Nat) (v : BitVec (8 * n)) : val v = Val.of n v.toNat := by
  rw [val, Val.of, Nat.mod_eq_of_lt v.isLt, Nat.mul_div_cancel_left n (by decide)]

/-- A truth value as a token of 4 bytes. -/
theorem val_bitOf (b : Bool) : val (if b then (1 : BitVec 32) else 0) = Val.of 4 (bitOf b) := by cases b <;> rfl

theorem portP_toNat (s : State) (n : Nat) : (portP (8 * n) s).toNat = s.sch.cur.p n := by
  simp [portP, low, Firing.p, Val.low]

section
variable (pd : Pd) (imm : BitVec 14) (t1 t0 : Target)

/-! ## Moving, choosing and joining (R304 to R308) -/

theorem nop_sends : Sends (.nop pd) noFlags fun _ => [] :=
  sends_of_plainForm (fun _ _ => []) rfl (fun _ => rfl) fun _ => rfl

theorem mov_sendsToBoth : Sends (.mov pd t1 t0) noFlags fun s => toBoth t0 t1 s.sch.cur.valL :=
  sends_of_plainForm (fun f _ => both t0 t1 f.valL) rfl (fun _ => rfl) fun _ => rfl

theorem lit_sends : Sends (.lit pd imm t0) noFlags fun _ => [(t0, val (imm.signExtend 64))] :=
  sends_of_plainForm (fun _ _ => [(t0, Val.of 8 (imm.signExtend 64).toNat)]) rfl (fun _ => rfl) fun _ => by rw [val_dword]

theorem lit32_sends : Sends (.lit32 pd t1 t0) noFlags fun s =>
    toBoth t0 t1 (val (((s.cell s.sch.cur.cell).window s.sch.cur.acc.win).words.getD (s.sch.cur.acc.slot + 1) 0)) :=
  sends_of_plainForm (fun f s => both t0 t1 (Val.of 4 (s.constOf f).toNat)) rfl (fun _ => rfl) fun s => by
    rw [val_bytes 4]
    rfl

theorem steer_sends : Sends (.steer pd t1 t0) noFlags fun s =>
    if (portR 64 s).getLsbD 0 then [(t0, s.sch.cur.valL)] else [(t1, s.sch.cur.valL)] :=
  sends_of_plainForm (fun f _ => [(if bit (f.r 8) 0 then t0 else t1, f.valL)]) rfl (fun _ => rfl) fun s => by
    rw [← portR_toNat s 8, bit_toNat]
    split <;> rfl

theorem gate_sends : Sends (.gate pd t1 t0) noFlags fun s =>
    if (portR 64 s).getLsbD 0 then toBoth t0 t1 s.sch.cur.valL else [] :=
  sends_of_plainForm (fun f _ => if bit (f.r 8) 0 then both t0 t1 f.valL else []) rfl (fun _ => rfl) fun s => by
    rw [← portR_toNat s 8, bit_toNat]
    rfl

theorem gaten_sends : Sends (.gaten pd t1 t0) noFlags fun s =>
    if (portR 64 s).getLsbD 0 then [] else toBoth t0 t1 s.sch.cur.valL :=
  sends_of_plainForm (fun f _ => if bit (f.r 8) 0 then [] else both t0 t1 f.valL) rfl (fun _ => rfl) fun s => by
    rw [← portR_toNat s 8, bit_toNat]
    rfl

theorem sync_sends : Sends (.sync pd t1 t0) noFlags fun s => [(t0, s.sch.cur.valL), (t1, s.sch.cur.valR)] :=
  sends_of_plainForm (fun f _ => [(t0, f.valL), (t1, f.valR)]) rfl (fun _ => rfl) fun _ => rfl

theorem cnt_sends : Sends (.cnt pd t1 t0) noFlags fun s =>
    [(t0, val (portL 32 s + 1)), (t1, val (if (portL 32 s + 1).ult (portR 32 s) then (1 : BitVec 32) else 0))] :=
  sends_of_plainForm
    (fun f _ => [(t0, Val.of 4 ((f.l 4 + 1) % 2 ^ 32)), (t1, Val.of 4 (bitOf (decide ((f.l 4 + 1) % 2 ^ 32 < f.r 4))))]) rfl
    (fun _ => rfl) fun s => by
      rw [val_bitOf, val_bytes 4, BitVec.ult, BitVec.toNat_add, ← portL_toNat s 4, ← portR_toNat s 4]
      rfl

theorem bound_sends : Sends (.bound pd t1 t0) noFlags fun s =>
    if (portL 32 s).ult (portR 32 s) then [(t0, val (portL 32 s))] else [(t1, val (portL 32 s))] :=
  sends_of_plainForm (fun f _ => [(if f.l 4 < f.r 4 then t0 else t1, Val.of 4 (f.l 4))]) rfl (fun _ => rfl) fun s => by
    rw [val_wordL, BitVec.ult, ← portL_toNat s 4, ← portR_toNat s 4]
    simp only [decide_eq_true_eq]
    split <;> rfl

end

/-- R306: the value of the one token, from L or from R. -/
theorem exec_merge_ready {s : State} {t1 t0 : Target} {v : Val}
    (hv : s.sch.cur.acc.l = some v ∨ s.sch.cur.acc.l = none ∧ s.sch.cur.acc.r = some v)
    (hsend : s.canSend s.sch.cur (toBoth t0 t1 v) = true) :
    exec (.merge t1 t0) s = .next (s.sendAll s.sch.cur s.sch.cur.acc.tag false (toBoth t0 t1 v)) := by
  have hval : (s.sch.cur.acc.l <|> s.sch.cur.acc.r).getD {} = v := by
    obtain h | ⟨hl, hr⟩ := hv
    · rw [h]; rfl
    · rw [hl, hr]; rfl
  have hfinish := State.finish_ready s s.sch.cur (both t0 t1 v) 0 id hsend
  rw [State.raise_none, ← hval] at hfinish
  rw [← hval]
  exact (State.fire_passed s .always (fun f s => s.finish f (both t0 t1 ((f.acc.l <|> f.acc.r).getD {})) 0 id) rfl).trans hfinish

/-- A discarded token changes nothing (R191). -/
theorem State.send1_discard (s : State) (f : Firing) (tag : Tag) (v : Val) : s.send1 f tag false .discard v = s := rfl

/-! ## Numbers of the model and bit vectors (R323) -/

/-- Signed() of the low m bits of a number is the low m bits read as a signed number. -/
theorem signed_setWidth {m n : Nat} (hm : 0 < m) (v : BitVec n) : signed m v.toNat = (v.setWidth m).toInt := by
  have hpow : 2 ^ m = 2 * 2 ^ (m - 1) := by rw [← pow_succ', Nat.sub_add_cancel hm]
  rw [signed, BitVec.toInt_eq_toNat_cond, BitVec.toNat_setWidth, hpow]
  simp only [Nat.mul_lt_mul_left (show 0 < 2 by decide)]

theorem signed_toNat {n : Nat} (hn : 0 < n) (v : BitVec n) : signed n v.toNat = v.toInt := by
  rw [signed_setWidth hn, BitVec.setWidth_eq]

theorem wrap_eq_toNat (n : Nat) (i : Int) : wrap n i = (BitVec.ofInt n i).toNat := (BitVec.toNat_ofInt ..).symm

theorem signExtend_toNat {m n k : Nat} (hm : 0 < m) (v : BitVec n) : signExtend m k v.toNat = ((v.setWidth m).signExtend k).toNat := by
  rw [signExtend, signed_setWidth hm, wrap_eq_toNat, BitVec.signExtend]

/-- The high half of a number of double width. -/
theorem emod_sq_ediv (p a : Int) (ha : 0 < a) : p % (a * a) / a = p / a % a := by
  have hq := Int.emod_nonneg (p / a) ha.ne'
  have hr := Int.emod_nonneg p ha.ne'
  have hlt := Int.emod_lt_of_pos p ha
  have hlt' := Int.emod_lt_of_pos (p / a) ha
  have e1 := Int.mul_ediv_add_emod p a
  have e2 := Int.mul_ediv_add_emod (p / a) a
  have hmod : p % (a * a) = p % a + a * (p / a % a) := by
    refine ((Int.ediv_emod_unique (q := p / a / a) (mul_pos ha ha)).mpr ⟨?_, by positivity, ?_⟩).2
    · linear_combination a * e2 + e1
    · nlinarith
  rw [hmod, Int.add_mul_ediv_left _ _ ha.ne', Int.ediv_eq_zero_of_lt hr hlt, zero_add]

/-- An integer form whose numbers are those of a bit-vector operation on L, R and P. -/
theorem sends_of_intForm {i : Instr} {wide : Bool} {t1 t0 : Target} {o' : Nat → Nat → Nat → Nat → Nat}
    {o : (n : Nat) → BitVec n → BitVec n → BitVec n → BitVec n} (hi : ∀ s, exec i s = s.intForm i.pd wide t1 t0 o')
    (ho : ∀ n, 32 ≤ n → ∀ l r p : BitVec n, o' n l.toNat r.toNat p.toNat = (o n l r p).toNat) :
    Sends i noFlags fun s =>
      toBoth t0 t1 (val (o (width wide) (portL (width wide) s) (portR (width wide) s) (portP (width wide) s))) := by
  refine sends_of_plainForm
    (fun f _ => both t0 t1 (Val.of (widthOf wide / 8) (o' (widthOf wide) (f.l (widthOf wide / 8)) (f.r (widthOf wide / 8))
      (f.p (widthOf wide / 8))))) rfl hi fun s => ?_
  cases wide
  · have h := ho 32 (by decide) (portL 32 s) (portR 32 s) (portP 32 s)
    rw [portL_toNat s 4, portR_toNat s 4, portP_toNat s 4] at h
    exact congrArg (both t0 t1) ((congrArg (Val.of 4) h).trans (val_bytes 4 _).symm)
  · have h := ho 64 (by decide) (portL 64 s) (portR 64 s) (portP 64 s)
    rw [portL_toNat s 8, portR_toNat s 8, portP_toNat s 8] at h
    exact congrArg (both t0 t1) ((congrArg (Val.of 8) h).trans (val_bytes 8 _).symm)

/-- The same for an operation on L and R. -/
theorem computes_of_intForm {i : Instr} {wide : Bool} {t1 t0 : Target} {o' : Nat → Nat → Nat → Nat → Nat}
    {o : (n : Nat) → BitVec n → BitVec n → BitVec n} (hi : ∀ s, exec i s = s.intForm i.pd wide t1 t0 o')
    (ho : ∀ n, 32 ≤ n → ∀ l r p : BitVec n, o' n l.toNat r.toNat p.toNat = (o n l r).toNat) : Computes i wide t1 t0 o :=
  sends_of_intForm (o := fun n l r _ => o n l r) hi ho

/-- A Format I form at 32 bits. -/
theorem sends_of_immForm {i : Instr} {imm : BitVec 14} {t0 : Target} {o' : Nat → Nat → Nat} {o : BitVec 32 → BitVec 32 → BitVec 32}
    (hi : ∀ s, exec i s = s.immForm i.pd imm t0 o') (ho : ∀ l r : BitVec 32, o' l.toNat r.toNat = (o l r).toNat) :
    Sends i noFlags fun s => [(t0, val (o (portL 32 s) (imm.signExtend 32)))] :=
  sends_of_plainForm (fun f _ => [(t0, Val.of 4 (o' (f.l 4) (imm.signExtend 32).toNat))]) rfl hi fun s => by
    rw [← portL_toNat s 4, ho, val_bytes 4]

section
variable {n : Nat} (l r : BitVec n)

/-! ## Sums, products, logic, shifts (R325) -/

theorem addInt_toNat : addInt n l.toNat r.toNat = (l + r).toNat := (BitVec.toNat_add ..).symm

theorem subInt_toNat : subInt n l.toNat r.toNat = (l - r).toNat := by
  rw [subInt, BitVec.toNat_sub, Nat.mod_eq_of_lt r.isLt, Nat.add_comm]

theorem mulInt_toNat : mulInt n l.toNat r.toNat = (l * r).toNat := (BitVec.toNat_mul ..).symm

theorem mulhInt_toNat (hn : 0 < n) : mulhInt n l.toNat r.toNat =
    (((l.signExtend (2 * n) * r.signExtend (2 * n)) >>> n).setWidth n).toNat := by
  have hprod : l.signExtend (2 * n) * r.signExtend (2 * n) = BitVec.ofInt (2 * n) (l.toInt * r.toInt) := by
    rw [BitVec.ofInt_mul]
    rfl
  have hpos : (0 : Int) < (2 ^ n : Nat) := by positivity
  have hsq : ((2 ^ (2 * n) : Nat) : Int) = (2 ^ n : Nat) * (2 ^ n : Nat) := by
    rw [two_mul, pow_add]
    push_cast
    rfl
  rw [mulhInt, signed_toNat hn, signed_toNat hn, hprod, BitVec.toNat_setWidth, BitVec.toNat_ushiftRight, BitVec.toNat_ofInt,
    Nat.shiftRight_eq_div_pow, wrap]
  apply Int.natCast_inj.mp
  rw [Int.toNat_of_nonneg (Int.emod_nonneg _ hpos.ne'), Int.natCast_emod, Int.natCast_ediv,
    Int.toNat_of_nonneg (Int.emod_nonneg _ (by rw [hsq]; positivity)), hsq, emod_sq_ediv _ _ hpos, Int.emod_emod_of_dvd _ dvd_rfl]

theorem mulhuInt_toNat : mulhuInt n l.toNat r.toNat = (((l.setWidth (2 * n) * r.setWidth (2 * n)) >>> n).setWidth n).toNat := by
  have hle : 2 ^ n ≤ 2 ^ (2 * n) := Nat.pow_le_pow_right (by decide) (by omega)
  have hsq : 2 ^ (2 * n) = 2 ^ n * 2 ^ n := by rw [two_mul, pow_add]
  have hprod : l.toNat * r.toNat < 2 ^ n * 2 ^ n := Nat.mul_lt_mul'' l.isLt r.isLt
  rw [mulhuInt, BitVec.toNat_setWidth, BitVec.toNat_ushiftRight, BitVec.toNat_mul, BitVec.toNat_setWidth, BitVec.toNat_setWidth,
    Nat.mod_eq_of_lt (l.isLt.trans_le hle), Nat.mod_eq_of_lt (r.isLt.trans_le hle), hsq, Nat.mod_eq_of_lt hprod,
    Nat.shiftRight_eq_div_pow, Nat.mod_eq_of_lt (Nat.div_lt_of_lt_mul hprod)]

theorem andnInt_toNat : andnInt n l.toNat r.toNat = (l &&& ~~~r).toNat := by
  rw [andnInt, BitVec.toNat_and, BitVec.toNat_not, Nat.mod_eq_of_lt r.isLt]

theorem shlInt_toNat : shlInt n l.toNat r.toNat = (l <<< (r.toNat % n)).toNat := by
  rw [shlInt, BitVec.toNat_shiftLeft, Nat.shiftLeft_eq]

theorem shrInt_toNat : shrInt n l.toNat r.toNat = (l >>> (r.toNat % n)).toNat := by
  rw [shrInt, BitVec.toNat_ushiftRight, Nat.shiftRight_eq_div_pow]

theorem sraInt_toNat (hn : 0 < n) : sraInt n l.toNat r.toNat = (l.sshiftRight (r.toNat % n)).toNat := by
  rw [sraInt, signed_toNat hn, wrap_eq_toNat, BitVec.sshiftRight, Int.shiftRight_eq_div_pow]

theorem rolInt_toNat : rolInt n l.toNat r.toNat = (l.rotateLeft (r.toNat % n)).toNat := by
  rw [rolInt, BitVec.toNat_rotateLeft, Nat.mod_mod, Nat.shiftLeft_eq, Nat.shiftRight_eq_div_pow]

theorem rorInt_toNat : rorInt n l.toNat r.toNat = (l.rotateRight (r.toNat % n)).toNat := by
  rw [rorInt, BitVec.toNat_rotateRight, Nat.mod_mod, Nat.shiftLeft_eq, Nat.shiftRight_eq_div_pow]

/-! ## Signs and order (R325) -/

theorem negInt_toNat : negInt n l.toNat = (-l).toNat := by
  rw [negInt, subInt, BitVec.toNat_neg, Nat.mod_eq_of_lt l.isLt, Nat.zero_add]

theorem absInt_toNat (hn : 0 < n) : absInt n l.toNat = (if l.msb then -l else l).toNat := by
  rw [absInt, signed_toNat hn, negInt_toNat, BitVec.msb_eq_toInt]
  simp only [decide_eq_true_eq]
  split <;> rfl

theorem pickSigned_lesser (hn : 0 < n) : pickSigned n false l.toNat r.toNat = (if l.sle r then l else r).toNat := by
  rw [pickSigned, signed_toNat hn, signed_toNat hn, BitVec.sle]
  exact (apply_ite BitVec.toNat ..).symm

theorem pickSigned_greater (hn : 0 < n) : pickSigned n true l.toNat r.toNat = (if r.sle l then l else r).toNat := by
  rw [pickSigned, signed_toNat hn, signed_toNat hn, BitVec.sle]
  exact (apply_ite BitVec.toNat ..).symm

theorem min_toNat : min l.toNat r.toNat = (if l.ule r then l else r).toNat := by
  rw [Nat.min_def, BitVec.ule, apply_ite BitVec.toNat]
  simp only [decide_eq_true_eq]

theorem max_toNat : max l.toNat r.toNat = (if r.ule l then l else r).toNat := by
  rw [Nat.max_comm, Nat.max_def, BitVec.ule, apply_ite BitVec.toNat]
  simp only [decide_eq_true_eq]

theorem intHolds_toNat (hn : 0 < n) (cc : IntCond) : intHolds n cc l.toNat r.toNat = condition cc l r := by
  cases cc with
  | eq | ne => simp only [intHolds, condition, ne_eq, BitVec.toNat_inj]
  | lt | le | gt | ge =>
    simp only [intHolds, condition, signed_toNat hn]
    rfl
  | ltu | leu | gtu | geu => rfl

/-! ## Division (R326) -/

theorem signed_eq_intMin_iff (hn : 0 < n) : signed n l.toNat = -(2 ^ (n - 1) : Nat) ↔ l = BitVec.intMin n := by
  rw [signed_toNat hn, ← BitVec.toInt_inj, BitVec.toInt_intMin_of_pos hn]
  push_cast
  rfl

theorem signed_eq_neg_one_iff (hn : 0 < n) : signed n r.toNat = -1 ↔ r = BitVec.allOnes n := by
  rw [signed_toNat hn, ← BitVec.toInt_inj, BitVec.toInt_allOnes, if_pos hn]

theorem divInt_toNat (hn : 0 < n) : divInt n l.toNat r.toNat = (if r = 0 then BitVec.allOnes n
    else if l = BitVec.intMin n ∧ r = BitVec.allOnes n then l else BitVec.ofInt n (l.toInt.tdiv r.toInt)).toNat := by
  simp only [divInt, toNat_eq_zero_iff, signed_eq_intMin_iff l hn, signed_eq_neg_one_iff r hn]
  simp only [signed_toNat hn, wrap_eq_toNat, ← BitVec.toNat_allOnes, apply_ite BitVec.toNat]

theorem remInt_toNat (hn : 0 < n) : remInt n l.toNat r.toNat = (if r = 0 then l
    else if l = BitVec.intMin n ∧ r = BitVec.allOnes n then 0 else BitVec.ofInt n (l.toInt.tmod r.toInt)).toNat := by
  simp only [remInt, toNat_eq_zero_iff, signed_eq_intMin_iff l hn, signed_eq_neg_one_iff r hn]
  simp only [signed_toNat hn, wrap_eq_toNat, apply_ite BitVec.toNat, BitVec.ofNat_eq_ofNat, BitVec.toNat_zero]

theorem divuInt_toNat : divuInt n l.toNat r.toNat = (if r = 0 then BitVec.allOnes n else l / r).toNat := by
  simp only [divuInt, toNat_eq_zero_iff, ← BitVec.toNat_allOnes, apply_ite BitVec.toNat, BitVec.toNat_udiv]

theorem remuInt_toNat : remuInt l.toNat r.toNat = (if r = 0 then l else l % r).toNat := by
  simp only [remuInt, toNat_eq_zero_iff, apply_ite BitVec.toNat, BitVec.toNat_umod]

/-! ## Bit fields (R327) -/

theorem ofBits_getLsbD (p : Nat → Bool) (k : Nat) : (ofBits p : BitVec n).getLsbD k = (decide (k < n) && p k) := by
  rw [ofBits, BitVec.getLsbD_setWidth, BitVec.getLsbD_ofBoolListLE]
  by_cases hk : k < n
  · simp [hk]
  · simp [hk]

/-- A number below 2^n is `ofBits` of its bits. -/
theorem eq_toNat_ofBits {x : Nat} {p : Nat → Bool} (hx : x < 2 ^ n) (h : ∀ k < n, x.testBit k = p k) :
    x = (ofBits p : BitVec n).toNat := by
  refine Nat.eq_of_testBit_eq fun k => ?_
  rw [← BitVec.getLsbD, ofBits_getLsbD]
  by_cases hk : k < n
  · rw [h k hk, decide_eq_true hk, Bool.true_and]
  · rw [decide_eq_false hk, Bool.false_and,
      Nat.testBit_eq_false_of_lt (hx.trans_le (Nat.pow_le_pow_right (by decide) (not_lt.mp hk)))]

theorem fieldPos_toNat : fieldPos r.toNat = fieldPosition r := bits_toNat r rfl

theorem fieldLen_toNat : fieldLen n r.toNat = fieldLength r := by
  rw [fieldLen, fieldPos_toNat, bits_toNat r (n := 7) rfl, fieldLength]
  split <;> omega

theorem fieldPosition_add_fieldLength_le : 0 < fieldLength r → fieldPosition r + fieldLength r ≤ n := by
  rw [fieldLength]
  omega

theorem bfxuInt_testBit (k : Nat) :
    (bfxuInt n l.toNat r.toNat).testBit k = (decide (k < fieldLength r) && l.getLsbD (fieldPosition r + k)) := by
  rw [bfxuInt, fieldPos_toNat, fieldLen_toNat, Nat.testBit_mod_two_pow, Nat.testBit_div_two_pow, BitVec.getLsbD, Nat.add_comm]

theorem bfxuInt_lt_field : bfxuInt n l.toNat r.toNat < 2 ^ fieldLength r := by
  rw [bfxuInt, fieldLen_toNat]
  exact Nat.mod_lt _ (Nat.two_pow_pos _)

theorem fieldLength_le : fieldLength r ≤ n := by
  rw [fieldLength]
  omega

theorem bfxuInt_lt : bfxuInt n l.toNat r.toNat < 2 ^ n :=
  (bfxuInt_lt_field l r).trans_le (Nat.pow_le_pow_right (by decide) (fieldLength_le r))

theorem bfxuInt_toNat : bfxuInt n l.toNat r.toNat =
    (ofBits fun k => decide (k < fieldLength r) && l.getLsbD (fieldPosition r + k) : BitVec n).toNat :=
  eq_toNat_ofBits (bfxuInt_lt l r) fun k _ => bfxuInt_testBit l r k

/-- Below the field its bits, above it ones. -/
theorem testBit_wrap_negative {u len : Nat} (hlen : len ≤ n) (hu : u < 2 ^ len) (k : Nat) (hk : k < n) :
    (wrap n ((u : Int) - (2 ^ len : Nat))).testBit k = if k < len then u.testBit k else true := by
  have hle : 2 ^ len ≤ 2 ^ n := Nat.pow_le_pow_right (by decide) hlen
  have hpow : 2 ^ n = 2 ^ len * 2 ^ (n - len) := by rw [← pow_add, Nat.add_sub_cancel' hlen]
  have hvalue : wrap n ((u : Int) - (2 ^ len : Nat)) = 2 ^ len * (2 ^ (n - len) - 1) + u := by
    have hmod : ((u : Int) - (2 ^ len : Nat)) % (2 ^ n : Nat) = (u : Int) - (2 ^ len : Nat) + (2 ^ n : Nat) := by
      rw [← Int.add_emod_right]
      exact Int.emod_eq_of_lt (by omega) (by omega)
    rw [wrap, hmod, Nat.mul_sub, mul_one, ← hpow]
    omega
  rw [hvalue, Nat.testBit_two_pow_mul_add _ hu, Nat.testBit_two_pow_sub_one]
  split
  · rfl
  · exact decide_eq_true (by omega)

theorem bfxsInt_lt : bfxsInt n l.toNat r.toNat < 2 ^ n := by
  unfold bfxsInt
  dsimp only
  split
  · rw [wrap_eq_toNat]
    exact (BitVec.ofInt n _).isLt
  · exact bfxuInt_lt l r

theorem bfxsInt_toNat : bfxsInt n l.toNat r.toNat = (ofBits fun k =>
    decide (0 < fieldLength r) && l.getLsbD (fieldPosition r + min k (fieldLength r - 1)) : BitVec n).toNat := by
  refine eq_toNat_ofBits (bfxsInt_lt l r) fun k hk => ?_
  have htop := bfxuInt_testBit l r (fieldLength r - 1)
  simp only [bfxsInt, fieldLen_toNat, bit_eq_testBit]
  by_cases hlen : 0 < fieldLength r
  case neg =>
    rw [if_neg (by simp [hlen]), bfxuInt_testBit]
    simp [hlen, show ¬ k < fieldLength r by omega]
  rw [decide_eq_true (by omega), Bool.true_and] at htop
  by_cases hin : k < fieldLength r
  · rw [Nat.min_eq_left (by omega), decide_eq_true hlen, Bool.true_and, Bool.true_and]
    split
    · rw [testBit_wrap_negative (fieldLength_le r) (bfxuInt_lt_field l r) k hk, if_pos hin, bfxuInt_testBit, decide_eq_true hin,
        Bool.true_and]
    · rw [bfxuInt_testBit, decide_eq_true hin, Bool.true_and]
  · rw [Nat.min_eq_right (by omega), decide_eq_true hlen, Bool.true_and, Bool.true_and, htop]
    split
    next hsign =>
      rw [testBit_wrap_negative (fieldLength_le r) (bfxuInt_lt_field l r) k hk, if_neg hin, hsign]
    next hsign =>
      rw [bfxuInt_testBit, decide_eq_false hin, Bool.false_and]
      exact ((Bool.not_eq_true _).mp hsign).symm

/-- The field of BFI as a mask. -/
theorem mask_testBit (k : Nat) : ((2 ^ fieldLength r - 1) * 2 ^ fieldPosition r).testBit k =
    decide (fieldPosition r ≤ k ∧ k < fieldPosition r + fieldLength r) := by
  rw [Nat.testBit_mul_two_pow, Nat.testBit_two_pow_sub_one, ← Bool.decide_and]
  exact decide_eq_decide.mpr (by omega)

theorem mask_lt : (2 ^ fieldLength r - 1) * 2 ^ fieldPosition r < 2 ^ n := by
  by_cases hlen : 0 < fieldLength r
  · have hpos := Nat.two_pow_pos (fieldLength r)
    calc (2 ^ fieldLength r - 1) * 2 ^ fieldPosition r
        < 2 ^ fieldLength r * 2 ^ fieldPosition r := Nat.mul_lt_mul_of_pos_right (by omega) (Nat.two_pow_pos _)
      _ = 2 ^ (fieldLength r + fieldPosition r) := (pow_add ..).symm
      _ ≤ 2 ^ n := Nat.pow_le_pow_right (by decide) (by have := fieldPosition_add_fieldLength_le r hlen; omega)
  · rw [show fieldLength r = 0 by omega]
    simp

theorem bfiInt_toNat (d : BitVec n) : bfiInt n l.toNat r.toNat d.toNat = (ofBits fun k =>
    if fieldPosition d ≤ k ∧ k < fieldPosition d + fieldLength d then r.getLsbD (k - fieldPosition d) else l.getLsbD k :
      BitVec n).toNat := by
  have hmask := mask_lt d
  simp only [bfiInt, fieldLen_toNat, fieldPos_toNat]
  refine eq_toNat_ofBits (Nat.or_lt_two_pow (Nat.and_le_left.trans_lt l.isLt) (Nat.and_le_right.trans_lt hmask)) fun k hk => ?_
  rw [Nat.testBit_or, Nat.testBit_and, Nat.testBit_and, Nat.sub_sub, Nat.add_comm 1, Nat.testBit_two_pow_sub_succ hmask, mask_testBit,
    Nat.testBit_mul_two_pow, decide_eq_true hk, ← BitVec.getLsbD, ← BitVec.getLsbD]
  by_cases hin : fieldPosition d ≤ k ∧ k < fieldPosition d + fieldLength d
  · simp [hin]
  · simp [hin]

/-! ## Counts, selection, extensions (R328) -/

theorem selInt_toNat (p : BitVec n) : (if bit p.toNat 0 then l.toNat else r.toNat) = (if p.getLsbD 0 then l else r).toNat := by
  rw [bit_toNat, apply_ite BitVec.toNat]

theorem zeroExtend_toNat {m : Nat} (hm : m ≤ n) : l.toNat % 2 ^ m = ((l.setWidth m).setWidth n).toNat := by
  have hlt : l.toNat % 2 ^ m < 2 ^ n := (Nat.mod_lt _ (Nat.two_pow_pos m)).trans_le (Nat.pow_le_pow_right (by decide) hm)
  rw [BitVec.toNat_setWidth, BitVec.toNat_setWidth, Nat.mod_eq_of_lt hlt]

theorem bit_toNat_fun : bit l.toNat = fun k => l.getLsbD k := funext (bit_toNat l)

/-- A number that is no greater than the width stands in it. -/
theorem toNat_ofNat_of_le {k : Nat} (hk : k ≤ n) : (BitVec.ofNat n k).toNat = k := by
  rw [BitVec.toNat_ofNat, Nat.mod_eq_of_lt (hk.trans_lt Nat.lt_two_pow_self)]

theorem popcInt_toNat : popcInt n l.toNat = (BitVec.ofNat n ((List.range n).countP fun k => l.getLsbD k)).toNat := by
  rw [toNat_ofNat_of_le ((List.countP_le_length ..).trans_eq List.length_range), popcInt, bit_toNat_fun, List.countP_eq_length_filter]

theorem find?_range_getD_le (p : Nat → Bool) : ((List.range n).find? p).getD n ≤ n := by
  cases h : (List.range n).find? p with
  | none => exact le_rfl
  | some k => exact (List.mem_range.mp (List.mem_of_find?_eq_some h)).le

theorem ctzInt_toNat : ctzInt n l.toNat = (BitVec.ofNat n (((List.range n).find? fun k => l.getLsbD k).getD n)).toNat := by
  rw [toNat_ofNat_of_le (find?_range_getD_le _), ctzInt, bit_toNat_fun]

/-- The highest 1 bit of a number stands at its logarithm. -/
theorem find?_getMsbD (hl : l.toNat ≠ 0) : ((List.range n).find? fun k => l.getMsbD k) = some (n - 1 - l.toNat.log2) := by
  have hlog : l.toNat.log2 < n := (Nat.log2_lt hl).mpr l.isLt
  refine List.find?_range_eq_some.mpr ⟨?_, List.mem_range.mpr (by omega), fun j hj => ?_⟩
  · rw [BitVec.getMsbD, decide_eq_true (by omega), Bool.true_and, show n - 1 - (n - 1 - l.toNat.log2) = l.toNat.log2 by omega]
    exact Nat.testBit_log2 hl
  · rw [BitVec.getMsbD, BitVec.getLsbD, Nat.testBit_lt_two_pow, Bool.and_false, Bool.not_false]
    exact Nat.lt_log2_self.trans_le (Nat.pow_le_pow_right (by decide) (by omega))

theorem clzInt_toNat : clzInt n l.toNat = (BitVec.ofNat n (((List.range n).find? fun k => l.getMsbD k).getD n)).toNat := by
  rw [toNat_ofNat_of_le (find?_range_getD_le _), clzInt]
  split
  next hl =>
    have hnone : ((List.range n).find? fun k => l.getMsbD k) = none := by
      refine List.find?_range_eq_none.mpr fun k _ => ?_
      rw [BitVec.getMsbD, BitVec.getLsbD, hl, Nat.zero_testBit, Bool.and_false, Bool.not_false]
    rw [hnone, Option.getD_none]
  next hl => rw [find?_getMsbD l hl, Option.getD_some, ilog2]

end

section
variable (pd : Pd) (wide : Bool) (t1 t0 : Target)

theorem cmp_sends (cc : IntCond) : Sends (.cmp pd wide cc t1 t0) noFlags fun s =>
    toBoth t0 t1 (val (if condition cc (portL (width wide) s) (portR (width wide) s) then (1 : BitVec 32) else 0)) := by
  refine sends_of_plainForm
    (fun f _ => both t0 t1 (Val.of 4 (bitOf (intHolds (widthOf wide) cc (f.l (widthOf wide / 8)) (f.r (widthOf wide / 8)))))) rfl
    (fun _ => rfl) fun s => ?_
  rw [val_bitOf]
  cases wide
  · rw [← intHolds_toNat _ _ (show 0 < width false by decide)]
    exact congrArg (fun b => both t0 t1 (Val.of 4 (bitOf b)))
      (congrArg₂ (intHolds 32 cc) (portL_toNat s 4).symm (portR_toNat s 4).symm)
  · rw [← intHolds_toNat _ _ (show 0 < width true by decide)]
    exact congrArg (fun b => both t0 t1 (Val.of 4 (bitOf b)))
      (congrArg₂ (intHolds 64 cc) (portL_toNat s 8).symm (portR_toNat s 8).symm)

theorem sx32_sends : Sends (.sx32 pd t1 t0) noFlags fun s => toBoth t0 t1 (val ((portL 32 s).signExtend 64)) :=
  sends_of_plainForm (fun f _ => both t0 t1 (Val.of 8 (signExtend 32 64 (f.l 4)))) rfl (fun _ => rfl) fun s => by
    rw [← portL_toNat s 4, signExtend_toNat (by decide), val_dword, BitVec.setWidth_eq]
    rfl

theorem zx32_sends : Sends (.zx32 pd t1 t0) noFlags fun s => toBoth t0 t1 (val ((portL 32 s).setWidth 64)) :=
  sends_of_plainForm (fun f _ => both t0 t1 (Val.of 8 (f.l 4))) rfl (fun _ => rfl) fun s => by
    rw [val_dword, BitVec.toNat_setWidth_of_le (by decide), portL_toNat s 4]
    rfl

end

end Sys2Proof.Machine

section
open Sys2Proof Sys2Proof.Machine Sys2Proof.Claims

/-- Settles O14. -/
theorem movesSendTheirValue : Obligations.MovesSendTheirValue := by
  unfold Obligations.MovesSendTheirValue
  exact fun pd imm t1 t0 =>
    ⟨nop_sends pd, mov_sendsToBoth pd t1 t0, lit_sends pd imm t0, lit32_sends pd t1 t0, State.send1_discard⟩

/-- Settles O15. -/
theorem choicesAndCounts : Obligations.ChoicesAndCounts := by
  unfold Obligations.ChoicesAndCounts
  exact fun pd t1 t0 => ⟨steer_sends pd t1 t0, gate_sends pd t1 t0, gaten_sends pd t1 t0, sync_sends pd t1 t0, cnt_sends pd t1 t0,
    bound_sends pd t1 t0, fun _ _ => exec_merge_ready⟩

/-- Settles O16: each instruction is an integer form, whose number is that of the bit-vector operation at every width. -/
theorem integerResults : Obligations.IntegerResults := by
  unfold Obligations.IntegerResults
  intro pd w t1 t0
  refine ⟨?add, ?sub, ?mul, ?mulh, ?mulhu, ?and, ?or, ?xor, ?andn, ?shl, ?shr, ?sra, ?rol, ?ror, ?neg, ?abs, ?min, ?max, ?minu, ?maxu,
    fun cc => ?cmp⟩
  case add => exact computes_of_intForm (o' := fun n l r _ => addInt n l r) (fun _ => rfl) fun n _ l r _ => addInt_toNat l r
  case sub => exact computes_of_intForm (o' := fun n l r _ => subInt n l r) (fun _ => rfl) fun n _ l r _ => subInt_toNat l r
  case mul => exact computes_of_intForm (o' := fun n l r _ => mulInt n l r) (fun _ => rfl) fun n _ l r _ => mulInt_toNat l r
  case mulh =>
    exact computes_of_intForm (o' := fun n l r _ => mulhInt n l r) (fun _ => rfl)
      fun n hn l r _ => mulhInt_toNat l r (by omega)
  case mulhu => exact computes_of_intForm (o' := fun n l r _ => mulhuInt n l r) (fun _ => rfl) fun n _ l r _ => mulhuInt_toNat l r
  case and => exact computes_of_intForm (o' := fun _ l r _ => l &&& r) (fun _ => rfl) fun n _ l r _ => (BitVec.toNat_and ..).symm
  case or => exact computes_of_intForm (o' := fun _ l r _ => l ||| r) (fun _ => rfl) fun n _ l r _ => (BitVec.toNat_or ..).symm
  case xor => exact computes_of_intForm (o' := fun _ l r _ => l ^^^ r) (fun _ => rfl) fun n _ l r _ => (BitVec.toNat_xor ..).symm
  case andn => exact computes_of_intForm (o' := fun n l r _ => andnInt n l r) (fun _ => rfl) fun n _ l r _ => andnInt_toNat l r
  case shl => exact computes_of_intForm (o' := fun n l r _ => shlInt n l r) (fun _ => rfl) fun n _ l r _ => shlInt_toNat l r
  case shr => exact computes_of_intForm (o' := fun n l r _ => shrInt n l r) (fun _ => rfl) fun n _ l r _ => shrInt_toNat l r
  case sra =>
    exact computes_of_intForm (o' := fun n l r _ => sraInt n l r) (fun _ => rfl)
      fun n hn l r _ => sraInt_toNat l r (by omega)
  case rol => exact computes_of_intForm (o' := fun n l r _ => rolInt n l r) (fun _ => rfl) fun n _ l r _ => rolInt_toNat l r
  case ror => exact computes_of_intForm (o' := fun n l r _ => rorInt n l r) (fun _ => rfl) fun n _ l r _ => rorInt_toNat l r
  case neg => exact computes_of_intForm (o' := fun n l _ _ => negInt n l) (fun _ => rfl) fun n _ l _ _ => negInt_toNat l
  case abs =>
    exact computes_of_intForm (o' := fun n l _ _ => absInt n l) (fun _ => rfl)
      fun n hn l _ _ => absInt_toNat l (by omega)
  case min =>
    exact computes_of_intForm (o' := fun n l r _ => pickSigned n false l r) (fun _ => rfl)
      fun n hn l r _ => pickSigned_lesser l r (by omega)
  case max =>
    exact computes_of_intForm (o' := fun n l r _ => pickSigned n true l r) (fun _ => rfl)
      fun n hn l r _ => pickSigned_greater l r (by omega)
  case minu => exact computes_of_intForm (o' := fun _ l r _ => min l r) (fun _ => rfl) fun n _ l r _ => min_toNat l r
  case maxu => exact computes_of_intForm (o' := fun _ l r _ => max l r) (fun _ => rfl) fun n _ l r _ => max_toNat l r
  case cmp => exact cmp_sends pd w t1 t0 cc

/-- Settles O17, with the corners of DIV and REM as bit vectors. -/
theorem divisionResults : Obligations.DivisionResults := by
  unfold Obligations.DivisionResults
  exact fun pd w t1 t0 => ⟨computes_of_intForm (o' := fun n l r _ => divInt n l r) (fun _ => rfl)
      fun n hn l r _ => divInt_toNat l r (by omega),
    computes_of_intForm (o' := fun n l r _ => remInt n l r) (fun _ => rfl) fun n hn l r _ => remInt_toNat l r (by omega),
    computes_of_intForm (o' := fun n l r _ => divuInt n l r) (fun _ => rfl) fun n _ l r _ => divuInt_toNat l r,
    computes_of_intForm (o' := fun _ l r _ => remuInt l r) (fun _ => rfl) fun n _ l r _ => remuInt_toNat l r⟩

/-- Settles O18, bit by bit. -/
theorem bitFields : Obligations.BitFields := by
  unfold Obligations.BitFields
  exact fun pd w t1 t0 => ⟨computes_of_intForm (o' := fun n l r _ => bfxuInt n l r) (fun _ => rfl)
      fun n _ l d _ => bfxuInt_toNat l d,
    computes_of_intForm (o' := fun n l r _ => bfxsInt n l r) (fun _ => rfl) fun n _ l d _ => bfxsInt_toNat l d,
    sends_of_intForm (o' := bfiInt) (o := fun _ l r d => ofBits fun k => if fieldPosition d ≤ k ∧ k < fieldPosition d + fieldLength d
      then r.getLsbD (k - fieldPosition d) else l.getLsbD k) (fun _ => rfl) fun n _ l r d => bfiInt_toNat l r d⟩

/-- Settles O19. -/
theorem countsSelectsExtensions : Obligations.CountsSelectsExtensions := by
  unfold Obligations.CountsSelectsExtensions
  intro pd w imm t1 t0
  refine ⟨?popc, ?clz, ?ctz, ?sel, ?sx8, ?sx16, ?zx8, ?zx16, sx32_sends pd t1 t0, zx32_sends pd t1 t0, ?addi, ?andi, ?ori, ?xori⟩
  case popc => exact computes_of_intForm (o' := fun n l _ _ => popcInt n l) (fun _ => rfl) fun n _ l _ _ => popcInt_toNat l
  case clz => exact computes_of_intForm (o' := fun n l _ _ => clzInt n l) (fun _ => rfl) fun n _ l _ _ => clzInt_toNat l
  case ctz => exact computes_of_intForm (o' := fun n l _ _ => ctzInt n l) (fun _ => rfl) fun n _ l _ _ => ctzInt_toNat l
  case sel =>
    exact sends_of_intForm (o' := fun _ l r p => if bit p 0 then l else r) (o := fun _ l r p => if p.getLsbD 0 then l else r) (fun _ => rfl)
      fun n _ l r p => selInt_toNat l r p
  case sx8 =>
    exact computes_of_intForm (o' := fun n l _ _ => signExtend 8 n l) (fun _ => rfl)
      fun n _ l _ _ => signExtend_toNat (by decide) l
  case sx16 =>
    exact computes_of_intForm (o' := fun n l _ _ => signExtend 16 n l) (fun _ => rfl)
      fun n _ l _ _ => signExtend_toNat (by decide) l
  case zx8 =>
    exact computes_of_intForm (o' := fun _ l _ _ => l % 2 ^ 8) (fun _ => rfl)
      fun n hn l _ _ => zeroExtend_toNat l (by omega)
  case zx16 =>
    exact computes_of_intForm (o' := fun _ l _ _ => l % 2 ^ 16) (fun _ => rfl)
      fun n hn l _ _ => zeroExtend_toNat l (by omega)
  case addi => exact sends_of_immForm (o' := addInt 32) (fun _ => rfl) fun l r => addInt_toNat l r
  case andi => exact sends_of_immForm (o' := fun l r => l &&& r) (fun _ => rfl) fun l r => (BitVec.toNat_and ..).symm
  case ori => exact sends_of_immForm (o' := fun l r => l ||| r) (fun _ => rfl) fun l r => (BitVec.toNat_or ..).symm
  case xori => exact sends_of_immForm (o' := fun l r => l ^^^ r) (fun _ => rfl) fun l r => (BitVec.toNat_xor ..).symm

end
end

section
/-!
PROOF of O20, O23 and O24. The scalar float instructions: what each sends (R329), the signs, the order and the classes of numbers (R333,
R334, R339), and the special values of the functions (R335).
-/

namespace Sys2Proof.Machine

-- Proofs one after another, as in the tests: in parallel they take more memory at once.
set_option Elab.async false

open Claims

/-! ## Operands (R329) -/

theorem portR_eq_mod (s : State) {b n : Nat} (h : b ≤ 8 * n) : (portR b s).toNat = s.sch.cur.r n % 2 ^ b := by
  simp [portR, low, Firing.r, Val.low, Nat.mod_mod_of_dvd _ (Nat.pow_dvd_pow 2 h)]

theorem portP_eq_mod (s : State) {b n : Nat} (h : b ≤ 8 * n) : (portP b s).toNat = s.sch.cur.p n % 2 ^ b := by
  simp [portP, low, Firing.p, Val.low, Nat.mod_mod_of_dvd _ (Nat.pow_dvd_pow 2 h)]

theorem ftFmt_bits_le (ft : FloatFmt) : (ftFmt ft).bits ≤ 8 * 4 := by cases ft <;> decide

theorem codeL_eq_mod (ft : FloatFmt) (s : State) : codeL ft s = s.sch.cur.l 4 % 2 ^ (ftFmt ft).bits :=
  portL_eq_mod s (ftFmt_bits_le ft)

theorem codeR_eq_mod (ft : FloatFmt) (s : State) : codeR ft s = s.sch.cur.r 4 % 2 ^ (ftFmt ft).bits :=
  portR_eq_mod s (ftFmt_bits_le ft)

theorem operandF_r (ft : FloatFmt) (s : State) : operandF ft (s.sch.cur.r 4) = numR ft s := by
  rw [operandF, numR, codeR_eq_mod]

theorem operandF_p (ft : FloatFmt) (s : State) : operandF ft (s.sch.cur.p 4) = numP ft s := by
  rw [operandF, numP, portP_eq_mod s (ftFmt_bits_le ft)]

/-! ## The forms of the float instructions (R331, R332, R335) -/

section
variable {i : Instr} {ft : FloatFmt} {t1 t0 : Target}

/-- A function of the number on L. -/
theorem sendsFloat_of_unary (o : Num → Nat × Flags) (hi : ∀ s, exec i s = s.floatForm i.pd t1 t0 fun l _ _ => o (operandF ft l)) :
    SendsFloat i t1 t0 fun s => o (numL ft s) :=
  sendsFloat_of_floatForm rfl hi fun s => by rw [operandF_l]

/-- A function of the numbers on L and R. -/
theorem sendsFloat_of_binary (o : Num → Num → Nat × Flags)
    (hi : ∀ s, exec i s = s.floatForm i.pd t1 t0 fun l r _ => o (operandF ft l) (operandF ft r)) :
    SendsFloat i t1 t0 fun s => o (numL ft s) (numR ft s) :=
  sendsFloat_of_floatForm rfl hi fun s => by rw [operandF_l, operandF_r]

/-- A function of the codes on L and R. -/
theorem sendsFloat_of_codes (o : Nat → Nat → Nat × Flags)
    (hi : ∀ s, exec i s = s.floatForm i.pd t1 t0 fun l r _ => o (l % 2 ^ (ftFmt ft).bits) (r % 2 ^ (ftFmt ft).bits)) :
    SendsFloat i t1 t0 fun s => o (codeL ft s) (codeR ft s) :=
  sendsFloat_of_floatForm rfl hi fun s => by rw [codeL_eq_mod, codeR_eq_mod]

end

/-! ## Signs (R333) -/

section
variable (pd : Pd) {ft : FloatFmt} (t1 t0 : Target) {n : Nat} (hbits : (ftFmt ft).bits = n + 1)
include hbits

theorem fabs_sends {mask : BitVec (n + 1)} (hmask : mask.toNat = 2 ^ n - 1) :
    SendsFloat (.fabs pd ft t1 t0) t1 t0 fun s => ((portL (n + 1) s &&& mask).toNat, 0) :=
  sendsFloat_of_floatForm (o := fun l _ _ => (l % (ftFmt ft).signBit, 0)) rfl (fun _ => rfl) fun s => by
    rw [BitVec.toNat_and, hmask, Nat.and_two_pow_sub_one_eq_mod, portL_eq_mod s (n := 4) (hbits ▸ ftFmt_bits_le ft),
      Nat.mod_mod_of_dvd _ (Nat.pow_dvd_pow 2 (Nat.le_succ n)), Fmt.signBit, hbits, Nat.add_sub_cancel]

theorem fneg_sends {sign : BitVec (n + 1)} (hsign : sign.toNat = 2 ^ n) :
    SendsFloat (.fneg pd ft t1 t0) t1 t0 fun s => ((portL (n + 1) s ^^^ sign).toNat, 0) :=
  sendsFloat_of_floatForm (o := fun l _ _ => ((l % 2 ^ (ftFmt ft).bits) ^^^ (ftFmt ft).signBit, 0)) rfl (fun _ => rfl) fun s => by
    rw [BitVec.toNat_xor, hsign, portL_eq_mod s (n := 4) (hbits ▸ ftFmt_bits_le ft), Fmt.signBit, hbits, Nat.add_sub_cancel]

end

/-! ## Order (R334) -/

theorem Num.isSig_of_not_nan {x y : Num} (h : (x.isNan || y.isNan) = false) : sigFlag [x, y] = 0 := by
  obtain ⟨hx, hy⟩ := Bool.or_eq_false_iff.mp h
  rw [sigFlag_pair, Num.isSig_of_number hx, Num.isSig_of_number hy]
  rfl

theorem Num.eqv_comm (x y : Num) : x.eqv y = y.eqv x := by
  cases x <;> cases y <;> simp [Num.eqv, min_comm, eq_comm]

/-- Of two numbers exactly one of less, equal and greater holds. -/
theorem Num.lt_or_eqv {x y : Num} (h : (x.isNan || y.isNan) = false) : (y.lt x || x.eqv y) = !x.lt y := by
  cases x with
  | nan s => cases h
  | inf a =>
    cases y with
    | nan s => cases h
    | inf b => cases a <;> cases b <;> rfl
    | fin b m e => cases a <;> rfl
  | fin a m e =>
    cases y with
    | nan s => cases h
    | inf b => cases b <;> rfl
    | fin b k q =>
      simp only [Num.lt, Num.eqv, min_comm q e, ← Bool.decide_or, ← decide_not]
      exact decide_eq_decide.mpr (by omega)

theorem Num.lt_of_eqv {x y : Num} (h : x.eqv y = true) : x.lt y = false := by
  cases x with
  | nan s => rfl
  | inf a =>
    cases y with
    | nan s => rfl
    | inf b =>
      obtain rfl : a = b := of_decide_eq_true h
      cases a <;> rfl
    | fin b m e => cases h
  | fin a m e =>
    cases y with
    | nan s => rfl
    | inf b => cases h
    | fin b k q => exact decide_eq_false (of_decide_eq_true h).not_lt

section
variable {x y : Num}

theorem compareNum_nan (h : (x.isNan || y.isNan) = true) (cc : FloatCond) :
    (compareNum cc x y).1 = (match cc with | .ne => true | .un => true | _ => false) ∧
    (compareNum cc x y).2 = (match cc with
      | .lt | .le | .gt | .ge => flagIV
      | _ => if x.isSig || y.isSig then flagIV else 0) := by
  cases cc <;> simp [compareNum, h, sigFlag_pair]

theorem compareNum_quiet (h : (x.isNan || y.isNan) = false) (cc : FloatCond) : (compareNum cc x y).2 = 0 := by
  cases cc <;> simp [compareNum, h, Num.isSig_of_not_nan h]

theorem compareNum_relations (h : (x.isNan || y.isNan) = false) :
    (compareNum .un x y).1 = false ∧ (compareNum .ord x y).1 = true ∧
    (compareNum .ne x y).1 = !(compareNum .eq x y).1 ∧ (compareNum .ge x y).1 = !(compareNum .lt x y).1 ∧
    (compareNum .le x y).1 = !(compareNum .gt x y).1 ∧ (compareNum .gt x y).1 = (compareNum .lt y x).1 ∧
    ((compareNum .eq x y).1 = true → (compareNum .lt x y).1 = false) := by
  have h' : (y.isNan || x.isNan) = false := (Bool.or_comm ..).trans h
  simp only [compareNum, h, h', Bool.not_false, Bool.true_and, Bool.false_or, true_and]
  exact ⟨Num.lt_or_eqv h, by rw [Num.eqv_comm, Num.lt_or_eqv h'], Num.lt_of_eqv⟩

end

/-! ## Classes (R339) -/

theorem Fmt.classBit_le (f : Fmt) (c : Nat) : f.classBit c ≤ 9 := by
  unfold Fmt.classBit
  cases f.decode c with
  | nan s | inf s => cases s <;> simp
  | fin a m e =>
    dsimp only
    split
    · cases a <;> simp
    split
    · cases a <;> simp
    · cases a <;> simp

/-! ## The functions at their special values (R335) -/

theorem Fmt.op1_nan (f : Fmt) (rm : Rm) (g : Word) (o : Num → Num × Flags) (a : Bool) :
    (f.op1 rm g o (.nan a)).pair = (f.nanCode, if a then flagIV else 0) := by
  cases a <;> rfl

theorem signed_false_ieee (eb mb c : Nat) : (Fmt.ieee eb mb).signed false c = c := by simp [Fmt.signed, bitOf]

theorem rsqNum_negative {m : Nat} (hm : m ≠ 0) (e : Int) : rsqNum (.fin true m e) = (.nan false, flagIV) := by
  simp [rsqNum, hm]

theorem log2Num_negative {m : Nat} (hm : m ≠ 0) (e : Int) : log2Num (.fin true m e) = (.nan false, flagIV) := by
  simp [log2Num, hm]

/-- The logarithm of 1, whatever its significand. -/
theorem log2Num_one (k : Nat) : log2Num (.fin false (2 ^ k) (-k)) = (.fin false 0 0, 0) := by
  simp [log2Num, ilog2, leadExp, ofInt]

theorem sinNum_integer (a : Bool) (m : Nat) {e : Int} (he : 0 ≤ e) : sinNum (.fin a m e) = (.fin a 0 0, 0) := by
  simp [sinNum, he]

/-- The cosine at half an odd number. -/
theorem cosNum_half (a : Bool) (m : Nat) : cosNum (.fin a (2 * m + 1) (-1)) = (.fin false 0 0, 0) := by
  have hturn : ((2 * (m : Int) + 1 + 1) % 4).toNat % 2 = 0 := by omega
  simp [cosNum, sinTurn, hturn]

theorem exp2Num_zero (f : Fmt) (a : Bool) (e : Int) :
    (f.op1 .rn 0 exp2Num (.fin a 0 e)).pair.1 = (f.give .rn (.fin false 1 0) 0).code := rfl

end Sys2Proof.Machine

section
open Sys2Proof Sys2Proof.Machine Sys2Proof.Claims

/-- Settles O20: each is a float form on the operands in format FT. -/
theorem floatArithmetic : Obligations.FloatArithmetic := by
  unfold Obligations.FloatArithmetic
  intro pd ft rm t1 t0
  refine ⟨?add, ?sub, ?mul, ?div, ?sqrt, ?ffma, ?rcp, ?rsq, ?exp2, ?log2, ?sin, ?cos, ?min, ?max, ?minm, ?maxm, ?rnd⟩
  case add => exact sendsFloat_of_binary (fun x y => ((ftFmt ft).op2 rm 0 (addNum rm) x y).pair) fun _ => rfl
  case sub => exact sendsFloat_of_binary (fun x y => ((ftFmt ft).op2 rm 0 (subNum rm) x y).pair) fun _ => rfl
  case mul => exact sendsFloat_of_binary (fun x y => ((ftFmt ft).op2 rm 0 mulNum x y).pair) fun _ => rfl
  case div => exact sendsFloat_of_binary (fun x y => ((ftFmt ft).op2 rm 0 divNum x y).pair) fun _ => rfl
  case sqrt => exact sendsFloat_of_unary (fun x => ((ftFmt ft).op1 rm 0 sqrtNum x).pair) fun _ => rfl
  case ffma =>
    exact sendsFloat_of_floatForm
      (o := fun l r p => ((ftFmt ft).fma rm 0 (operandF ft l) (operandF ft r) (operandF ft p)).pair) rfl (fun _ => rfl)
      fun s => by rw [operandF_l, operandF_r, operandF_p]
  case rcp => exact sendsFloat_of_unary (fun x => ((ftFmt ft).op1 .rn 0 rcpNum x).pair) fun _ => rfl
  case rsq => exact sendsFloat_of_unary (fun x => ((ftFmt ft).op1 .rn 0 rsqNum x).pair) fun _ => rfl
  case exp2 => exact sendsFloat_of_unary (fun x => ((ftFmt ft).op1 .rn 0 exp2Num x).pair) fun _ => rfl
  case log2 => exact sendsFloat_of_unary (fun x => ((ftFmt ft).op1 .rn 0 log2Num x).pair) fun _ => rfl
  case sin => exact sendsFloat_of_unary (fun x => ((ftFmt ft).op1 .rn 0 sinNum x).pair) fun _ => rfl
  case cos => exact sendsFloat_of_unary (fun x => ((ftFmt ft).op1 .rn 0 cosNum x).pair) fun _ => rfl
  case min => exact sendsFloat_of_codes ((ftFmt ft).pick false false) fun _ => rfl
  case max => exact sendsFloat_of_codes ((ftFmt ft).pick true false) fun _ => rfl
  case minm => exact sendsFloat_of_codes ((ftFmt ft).pick false true) fun _ => rfl
  case maxm => exact sendsFloat_of_codes ((ftFmt ft).pick true true) fun _ => rfl
  case rnd => exact sendsFloat_of_codes (fun l _ => (ftFmt ft).integral rm l) fun _ => rfl

/-- Settles O23. -/
theorem signsComparisonsClasses : Obligations.SignsComparisonsClasses := by
  unfold Obligations.SignsComparisonsClasses
  refine ⟨fun pd t1 t0 => ⟨fabs_sends pd t1 t0 (n := 31) rfl rfl, fneg_sends pd t1 t0 (n := 31) rfl rfl, fun ft hft => ?half,
    fun ft cc => ?compare, fun ft => ?classes⟩, fun x y => compareNum_nan,
    fun x y h => ⟨compareNum_quiet h, compareNum_relations h⟩, fun ft => (ftFmt ft).classBit_le⟩
  case half =>
    have hbits : (ftFmt ft).bits = 15 + 1 := by
      cases ft with
      | s => exact absurd rfl hft
      | h | b => rfl
    exact ⟨fabs_sends pd t1 t0 hbits rfl, fneg_sends pd t1 t0 hbits rfl⟩
  case compare => exact sendsFloat_of_binary (fun x y => (bitOf (compareNum cc x y).1, (compareNum cc x y).2)) fun _ => rfl
  case classes => exact sendsFloat_of_codes (fun l _ => (2 ^ (ftFmt ft).classBit l, 0)) fun _ => rfl

/-- Settles O24: a function gives its special value, which every format holds. -/
theorem floatFunctionSpecialCases : Obligations.FloatFunctionSpecialCases := by
  unfold Obligations.FloatFunctionSpecialCases
  intro ft a e m f n inf
  obtain ⟨eb, mb, -, hf⟩ : ∃ eb mb, 2 ≤ eb ∧ f = .ieee eb mb := ftFmt_ieee ft
  have hzero : ∀ b : Bool, f.give .rn (.fin b 0 0) 0 = ⟨f.signed b 0, 0, 0⟩ := fun b => hf ▸ give_ieee_zero eb mb .rn b 0 0
  have hinf : ∀ b : Bool, f.give .rn (.inf b) 0 = ⟨f.signed b inf, 0, 0⟩ := fun b => by
    rw [show inf = f.maxCode + 1 from rfl, hf]
    exact give_ieee_inf eb mb .rn b 0
  have hpos : ∀ c, f.signed false c = c := fun c => hf ▸ signed_false_ieee eb mb c
  have hpzero : f.give .rn (.fin false 0 0) 0 = ⟨0, 0, 0⟩ := by rw [hzero, hpos]
  have hpinf : f.give .rn (.inf false) 0 = ⟨inf, 0, 0⟩ := by rw [hinf, hpos]
  exact ⟨fun g => f.op1_nan .rn 0 g a, Fmt.op1_given rfl rfl (hinf a), Fmt.op1_given rfl rfl (hzero a),
    Fmt.op1_given rfl rfl (hinf a), Fmt.op1_given rfl rfl hpzero, fun hm => Fmt.op1_invalid rfl (rsqNum_negative hm e),
    Fmt.op1_invalid rfl rfl, Fmt.op1_given rfl rfl hpzero, Fmt.op1_given rfl rfl hpinf,
    congrArg f.decode (exp2Num_zero f a e), Fmt.op1_given rfl rfl (hinf true),
    fun hm => Fmt.op1_invalid rfl (log2Num_negative hm e), Fmt.op1_invalid rfl rfl, Fmt.op1_given rfl rfl hpinf,
    fun k => Fmt.op1_given rfl (log2Num_one k) hpzero, Fmt.op1_invalid rfl rfl,
    fun he => Fmt.op1_given rfl (sinNum_integer a m he) (hzero a), Fmt.op1_invalid rfl rfl,
    Fmt.op1_given rfl (cosNum_half a m) hpzero⟩

end
end

section
/-!
PROOF of O26. The instructions of tags and frames (R312 to R315, R319, R320), and a tag as its four fields (R6, R191).
-/

namespace Sys2Proof.Machine

-- Proofs one after another, as in the tests: in parallel they take more memory at once.
set_option Elab.async false

open Claims

/-- Two fields side by side as a number. -/
theorem toNat_append_eq {m n : Nat} (x : BitVec m) (y : BitVec n) : (x ++ y).toNat = x.toNat * 2 ^ n + y.toNat := by
  rw [BitVec.toNat_append, ← Nat.shiftLeft_add_eq_or_of_lt y.isLt, Nat.shiftLeft_eq]

/-! ## What each instruction does (R312 to R315, R319, R320) -/

section
variable {s : State} {pd : Pd} (hp : s.sch.cur.passes pd = true) {t1 t0 : Target}
include hp

theorem iter_asks (hsend : s.canSend s.sch.cur (toBoth t0 t1 (Val.of s.sch.cur.valL.len 0)) = true) :
    exec (.iter pd t1 t0) s =
      .next ((s.reserve s.sch.cur [t0, t1] s.sch.cur.valL.len).ask s.sch.cur .iter 0 [t0, t1]) :=
  (State.fire_passed s pd (fun f s => s.startLate f [t0, t1] f.valL.len false fun _ s => s.ask f .iter 0 [t0, t1]) hp).trans
    (State.startLate_ready _ _ _ _ _ hsend)

theorem nextIter_asks (hsend : s.canSend s.sch.cur (toBoth t0 t1 (Val.of s.sch.cur.valL.len 0)) = true) :
    exec (.nextIter pd t1 t0) s = .next (((s.reserve s.sch.cur [t0, t1] s.sch.cur.valL.len).endTag s.sch.cur.region
      s.sch.cur.acc.tag).ask s.sch.cur .iter 0 [t0, t1]) :=
  (State.fire_passed s pd (fun f s => s.startLate f [t0, t1] f.valL.len false fun _ s =>
    (s.endTag f.region f.acc.tag).ask f .iter 0 [t0, t1]) hp).trans (State.startLate_ready _ _ _ _ _ hsend)

theorem retire_sends (hsend : s.canSend s.sch.cur (toBoth t0 t1 s.sch.cur.valL) = true) :
    exec (.retire pd t1 t0) s = .next ((s.retireTag s.sch.cur.region s.sch.cur.acc.tag).sendAll s.sch.cur s.sch.cur.acc.tag false
      (toBoth t0 t1 s.sch.cur.valL)) := by
  have hfinish := State.finish_ready s s.sch.cur (both t0 t1 s.sch.cur.valL) 0
    (fun s' => s'.retireTag s.sch.cur.region s.sch.cur.acc.tag) hsend
  rw [State.raise_none] at hfinish
  exact (State.fire_passed s pd (fun f s => s.finish f (both t0 t1 f.valL) 0 fun s => s.retireTag f.region f.acc.tag) hp).trans hfinish

theorem frame_asks {k : BitVec 3} (hsend : s.canSend s.sch.cur [(t0, s.sch.cur.valL), (t1, Val.of 4 0)] = true) :
    exec (.frame pd k t1 t0) s = .next (((s.reserve s.sch.cur [t0] s.sch.cur.valL.len).reserve s.sch.cur [t1] 4).ask s.sch.cur
      .frame k.toNat [t0, t1]) :=
  (State.fire_passed s pd (fun f s =>
    if s.canSend f [(t0, f.valL), (t1, Val.of 4 0)] then
      .next (((s.reserve f [t0] f.valL.len).reserve f [t1] 4).ask f .frame k.toNat [t0, t1])
    else .next (s.putBack f)) hp).trans (if_pos hsend)

theorem exec_fret : exec (.fret pd t1 t0) s =
    match (s.region s.sch.cur.region).frame? s.sch.cur.frm with
    | none => .next s
    | some g =>
      if g.returned then .next s else
      match g.parent with
      | none => .next (s.returnFrame s.sch.cur.region s.sch.cur.frm)
      | some p =>
        if s.canSend s.sch.cur (toBoth t0 t1 s.sch.cur.valL) then
          .next ((s.sendAll s.sch.cur p false (toBoth t0 t1 s.sch.cur.valL)).returnFrame s.sch.cur.region s.sch.cur.frm)
        else .next (s.putBack s.sch.cur) :=
  State.fire_passed s pd (fun f s =>
    match (s.region f.region).frame? f.frm with
    | none => .next s
    | some g =>
      if g.returned then .next s else
      match g.parent with
      | none => .next (s.returnFrame f.region f.frm)
      | some p =>
        let l := both t0 t1 f.valL
        if s.canSend f l then .next ((s.sendAll f p false l).returnFrame f.region f.frm) else .next (s.putBack f)) hp

theorem fret_unallocated (h : (s.region s.sch.cur.region).frame? s.sch.cur.frm = none) : exec (.fret pd t1 t0) s = .next s := by
  rw [exec_fret hp, h]

section
variable {g : FrameRec} (hg : (s.region s.sch.cur.region).frame? s.sch.cur.frm = some g)
include hg

theorem fret_returned (hret : g.returned = true) : exec (.fret pd t1 t0) s = .next s := by
  rw [exec_fret hp, hg]
  exact if_pos hret

theorem fret_loaderFrame (hret : g.returned = false) (hparent : g.parent = none) :
    exec (.fret pd t1 t0) s = .next (s.returnFrame s.sch.cur.region s.sch.cur.frm) := by
  simp only [exec_fret hp, hg, hret, Bool.false_eq_true, if_false, hparent]

theorem fret_sends {p : Tag} (hret : g.returned = false) (hparent : g.parent = some p)
    (hsend : s.canSend s.sch.cur (toBoth t0 t1 s.sch.cur.valL) = true) :
    exec (.fret pd t1 t0) s = .next ((s.sendAll s.sch.cur p false (toBoth t0 t1 s.sch.cur.valL)).returnFrame s.sch.cur.region
      s.sch.cur.frm) := by
  simp only [exec_fret hp, hg, hret, Bool.false_eq_true, if_false, hparent, hsend, if_true]

end

theorem tagrd_sends {p : Tag} (hparent : p = (((s.region s.sch.cur.region).frame? s.sch.cur.frm).bind FrameRec.parent).getD 0)
    (hsend : s.canSend s.sch.cur (toBoth t0 t1 (val (p ++ s.sch.cur.acc.tag))) = true) :
    exec (.tagrd pd t1 t0) s =
      .next (s.sendAll s.sch.cur s.sch.cur.acc.tag false (toBoth t0 t1 (val (p ++ s.sch.cur.acc.tag)))) := by
  have hval : val (p ++ s.sch.cur.acc.tag) = Val.of 8 (s.sch.cur.acc.tag.toNat + p.toNat * 2 ^ 32) := by
    rw [val_bytes 8, toNat_append_eq, Nat.add_comm]
  rw [hval] at hsend ⊢
  subst hparent
  have hfinish := State.finish_ready s s.sch.cur _ 0 id hsend
  rw [State.raise_none] at hfinish
  exact (State.fire_passed s pd (fun f s =>
    let parent := (((s.region f.region).frame? f.frm).bind FrameRec.parent).getD 0
    s.finish f (both t0 t1 (Val.of 8 (f.acc.tag.toNat + parent.toNat * 2 ^ 32))) 0 id) hp).trans hfinish

theorem qlvl_gates {ps : List Pool} {q : State} (hsend : s.canSend s.sch.cur (toBoth t0 t1 (Val.of 4 0)) = true)
    (htake : s.takePools s.sch.cur.cell s.sch.cur.region (max 1 (slotSends (toBoth t0 t1 (Val.of 4 0))).length) = some (ps, q)) :
    exec (.qlvl pd t1 t0) s = .next ((q.reserve s.sch.cur [t0, t1] 4).updDie s.sch.cur.die fun d =>
      { d with gates := d.gates ++ [{ firing := s.sch.cur, targets := [t0, t1], pools := ps }] }) := by
  have hfire : exec (.qlvl pd t1 t0) s =
      if !s.canSend s.sch.cur (toBoth t0 t1 (Val.of 4 0)) then .next (s.putBack s.sch.cur) else
      match s.takePools s.sch.cur.cell s.sch.cur.region (max 1 (slotSends (toBoth t0 t1 (Val.of 4 0))).length) with
      | none => .next (s.putBack s.sch.cur)
      | some (ps, s') => .next ((s'.reserve s.sch.cur [t0, t1] 4).updDie s.sch.cur.die fun d =>
          { d with gates := d.gates ++ [{ firing := s.sch.cur, targets := [t0, t1], pools := ps }] }) :=
    State.fire_passed s pd (fun f s =>
      let l := later [t0, t1] 4
      if !s.canSend f l then .next (s.putBack f) else
      match s.takePools f.cell f.region (max 1 (slotSends l).length) with
      | none => .next (s.putBack f)
      | some (ps, s') => .next ((s'.reserve f [t0, t1] 4).updDie f.die fun d =>
          { d with gates := d.gates ++ [{ firing := f, targets := [t0, t1], pools := ps }] })) hp
  rw [hfire, hsend, htake]
  rfl

end

/-! ## A tag and its fields (R6, R191) -/

theorem mkTag_toNat (ctx frm gen itr : Nat) :
    (mkTag ctx frm gen itr).toNat = ctx % 1024 * 2 ^ 22 + frm % 256 * 2 ^ 14 + gen % 4 * 2 ^ 12 + itr % 4096 := by
  rw [mkTag, BitVec.toNat_ofNat, Nat.mod_eq_of_lt (by omega)]

theorem mkTag_fields {ctx frm gen itr : Nat} (hctx : ctx < 1024) (hfrm : frm < 256) (hgen : gen < 4) (hitr : itr < 4096) :
    tagCtx (mkTag ctx frm gen itr) = ctx ∧ tagFrm (mkTag ctx frm gen itr) = frm ∧
    tagGen (mkTag ctx frm gen itr) = gen ∧ tagItr (mkTag ctx frm gen itr) = itr := by
  simp only [tagCtx, tagFrm, tagGen, tagItr, mkTag_toNat, bits]
  omega

theorem eq_mkTag (t : Tag) : t = mkTag (tagCtx t) (tagFrm t) (tagGen t) (tagItr t) := by
  have hlt := t.isLt
  apply BitVec.eq_of_toNat_eq
  rw [mkTag_toNat]
  simp only [tagCtx, tagFrm, tagGen, tagItr, bits]
  omega

theorem nextTag_eq (t : Tag) :
    nextTag t = (if t.extractLsb' 0 12 = 0xFFF then t.extractLsb' 14 18 ++ (t.extractLsb' 12 2 + 1) ++ (0 : BitVec 12)
      else t.extractLsb' 12 20 ++ (t.extractLsb' 0 12 + 1)) := by
  have hlt := t.isLt
  have hitr : t.extractLsb' 0 12 = 0xFFF ↔ tagItr t = 4095 := by
    rw [tagItr, bits_toNat t (n := 12) rfl, ← BitVec.toNat_inj]
    rfl
  simp only [nextTag, hitr]
  split
  next h =>
    refine BitVec.eq_of_toNat_eq (Eq.trans ?_ (toNat_append_eq (t.extractLsb' 14 18 ++ (t.extractLsb' 12 2 + 1)) (0 : BitVec 12)).symm)
    rw [toNat_append_eq, mkTag_toNat]
    simp only [BitVec.toNat_add, BitVec.extractLsb'_toNat, Nat.shiftRight_eq_div_pow, BitVec.ofNat_eq_ofNat, BitVec.toNat_ofNat,
      tagCtx, tagFrm, tagGen, tagItr, bits] at h ⊢
    omega
  next h =>
    refine BitVec.eq_of_toNat_eq (Eq.trans ?_ (toNat_append_eq (t.extractLsb' 12 20) (t.extractLsb' 0 12 + 1)).symm)
    simp only [BitVec.toNat_add, BitVec.extractLsb'_toNat, Nat.shiftRight_eq_div_pow, BitVec.ofNat_eq_ofNat, BitVec.toNat_ofNat,
      tagItr, bits] at h ⊢
    omega

end Sys2Proof.Machine

section
open Sys2Proof Sys2Proof.Machine Sys2Proof.Claims

/-- Settles O26. -/
theorem tagsAndFrames : Obligations.TagsAndFrames := by
  unfold Obligations.TagsAndFrames
  refine ⟨fun pd k t1 t0 s hp => ?_, fun _ _ _ _ => mkTag_fields, eq_mkTag, nextTag_eq⟩
  exact ⟨fun h => ⟨iter_asks hp h, nextIter_asks hp h⟩, retire_sends hp, frame_asks hp, fret_unallocated hp,
    fun _ => fret_returned hp, fun _ => fret_loaderFrame hp, fun _ _ hg => fret_sends hp hg, fun _ => tagrd_sends hp,
    fun _ _ => qlvl_gates hp⟩

end
end

section
/-!
PROOF of O33 and O35. TRAP, TRAPF and BKPT (R395 to R397), system queries, configuration and YIELD (R399 to R402).
-/

namespace Sys2Proof.Machine

-- Proofs one after another, as in the tests: in parallel they take more memory at once.
set_option Elab.async false

open Claims

/-! ## Traps of the firing (R395) -/

/-- A trap of any class whose operand is L. -/
theorem State.takeTrap_operandL (s : State) (cls : FaultClass) {code : Nat} (hc : code < 2 ^ 32) :
    s.takeTrap s.sch.cur cls code (s.sch.cur.l 8) = .next (s.report s.sch.cur true cls (code + (portL 64 s).toNat * 2 ^ 32)) := by
  rw [← portL_toNat s 8]
  exact s.takeTrap_firing _ _ hc (portL 64 s).isLt

theorem val_portL (s : State) : val (portL 64 s) = Val.of 8 (s.sch.cur.l 8) := by
  rw [val_bytes 8, portL_toNat s 8]

/-- L passed on to T0 (R395). -/
theorem State.passL_sends {s : State} {t0 : Target} (hsend : s.canSend s.sch.cur [(t0, val (portL 64 s))] = true) :
    s.passL s.sch.cur t0 = .next (s.sendAll s.sch.cur s.sch.cur.acc.tag false [(t0, val (portL 64 s))]) := by
  rw [val_portL] at hsend ⊢
  rw [State.passL, State.finish_ready _ _ _ _ _ hsend, id, State.raise_none]

/-- The flags of H31 that a mask selects (R396). -/
def maskedFlags (s : State) (mask : BitVec 5) : BitVec 5 :=
  if ((s.cell s.sch.cur.cell).holdOf s.sch.cur.region s.sch.cur.frm 31).st = .full
    then (((s.cell s.sch.cur.cell).holdOf s.sch.cur.region s.sch.cur.frm 31).val.extractLsb' 0 5 &&& mask) else 0

theorem maskedFlags_toNat (s : State) (mask : BitVec 5) :
    (if ((s.cell s.sch.cur.cell).holdOf s.sch.cur.region s.sch.cur.frm 31).st = .full
      then ((s.cell s.sch.cur.cell).holdOf s.sch.cur.region s.sch.cur.frm 31).val.toNat % 32 &&& mask.toNat else 0) =
    (maskedFlags s mask).toNat := by
  simp only [maskedFlags, apply_ite BitVec.toNat, BitVec.toNat_and, BitVec.extractLsb'_toNat, Nat.shiftRight_zero, BitVec.ofNat_eq_ofNat,
    BitVec.toNat_ofNat]

/-- Whether the breakpoint set of BKPT is enabled for the accord's context (R397). -/
def bkptArmed (s : State) (set : BitVec 4) : Prop :=
  (s.die s.sch.cur.die).bkpt.mask.getLsbD set.toNat = true ∧ (s.die s.sch.cur.die).bkpt.ctx.toNat = tagCtx s.sch.cur.acc.tag

section
variable {s : State} {pd : Pd} (hp : s.sch.cur.passes pd = true) {t0 : Target}
include hp

theorem exec_trap (imm : BitVec 14) : exec (.trap pd imm t0) s =
    if s.sch.cur.acc.reissue then s.passL s.sch.cur t0 else s.takeTrap s.sch.cur .trap imm.toNat (s.sch.cur.l 8) :=
  State.fire_passed s pd (fun f s => if f.acc.reissue then s.passL f t0 else s.takeTrap f .trap imm.toNat (f.l 8)) hp

theorem exec_trapf (mask : BitVec 5) : exec (.trapf pd mask t0) s =
    if s.sch.cur.acc.reissue then s.passL s.sch.cur t0
    else if ((s.cell s.sch.cur.cell).holdOf s.sch.cur.region s.sch.cur.frm 31).st = .pending then .next (s.putBack s.sch.cur)
    else if maskedFlags s mask ≠ 0 then s.takeTrap s.sch.cur .trap (0x10000 + (maskedFlags s mask).toNat) (s.sch.cur.l 8)
    else s.passL s.sch.cur t0 := by
  have hfire := State.fire_passed s pd (fun f s =>
    let q := (s.cell f.cell).holdOf f.region f.frm 31
    let fl := if q.st = .full then q.val.toNat % 32 &&& mask.toNat else 0
    if f.acc.reissue then s.passL f t0
    else if q.st = .pending then .next (s.putBack f)
    else if fl ≠ 0 then s.takeTrap f .trap (0x10000 + fl) (f.l 8)
    else s.passL f t0) hp
  dsimp only at hfire
  simp only [maskedFlags_toNat, ne_eq, toNat_eq_zero_iff] at hfire
  exact hfire

theorem exec_bkpt (code : BitVec 10) (set : BitVec 4) [Decidable (bkptArmed s set)] : exec (.bkpt pd code set t0) s =
    if s.sch.cur.acc.reissue = false ∧ bkptArmed s set then s.takeTrap s.sch.cur .bkpt code.toNat (s.sch.cur.l 8)
    else s.passL s.sch.cur t0 := by
  have hfire := State.fire_passed s pd (fun f s =>
    let b := (s.die f.die).bkpt
    if !f.acc.reissue && bit b.mask.toNat set.toNat && b.ctx.toNat = tagCtx f.acc.tag then
      s.takeTrap f .bkpt code.toNat (f.l 8)
    else s.passL f t0) hp
  refine hfire.trans (if_congr ?_ rfl rfl)
  simp [bkptArmed, bit_toNat, and_assoc]

theorem trap_traps (imm : BitVec 14) (hissue : s.sch.cur.acc.reissue = false) :
    exec (.trap pd imm t0) s = .next (s.report s.sch.cur true .trap (imm.toNat + (portL 64 s).toNat * 2 ^ 32)) := by
  rw [exec_trap hp, hissue]
  exact s.takeTrap_operandL .trap (imm.isLt.trans (by decide))

theorem trapf_waits (mask : BitVec 5) (hissue : s.sch.cur.acc.reissue = false)
    (hst : ((s.cell s.sch.cur.cell).holdOf s.sch.cur.region s.sch.cur.frm 31).st = .pending) :
    exec (.trapf pd mask t0) s = .next (s.putBack s.sch.cur) := by
  rw [exec_trapf hp, hissue, if_pos hst]
  rfl

theorem trapf_traps (mask : BitVec 5) (hissue : s.sch.cur.acc.reissue = false)
    (hst : ((s.cell s.sch.cur.cell).holdOf s.sch.cur.region s.sch.cur.frm 31).st ≠ .pending) (hfl : maskedFlags s mask ≠ 0) :
    exec (.trapf pd mask t0) s =
      .next (s.report s.sch.cur true .trap (0x10000 + (maskedFlags s mask).toNat + (portL 64 s).toNat * 2 ^ 32)) := by
  have hlt := (maskedFlags s mask).isLt
  rw [exec_trapf hp, hissue, if_neg hst, if_pos hfl]
  exact s.takeTrap_operandL .trap (by omega)

theorem bkpt_traps (code : BitVec 10) {set : BitVec 4} (hissue : s.sch.cur.acc.reissue = false) (harmed : bkptArmed s set) :
    exec (.bkpt pd code set t0) s = .next (s.report s.sch.cur true .bkpt (code.toNat + (portL 64 s).toNat * 2 ^ 32)) := by
  classical
  rw [exec_bkpt hp, if_pos ⟨hissue, harmed⟩]
  exact s.takeTrap_operandL .bkpt (code.isLt.trans (by decide))

section
variable (hsend : s.canSend s.sch.cur [(t0, val (portL 64 s))] = true)
include hsend

theorem trap_passes (imm : BitVec 14) (hissue : s.sch.cur.acc.reissue = true) : exec (.trap pd imm t0) s =
    .next (s.sendAll s.sch.cur s.sch.cur.acc.tag false [(t0, val (portL 64 s))]) := by
  rw [exec_trap hp, if_pos hissue, State.passL_sends hsend]

theorem trapf_passes (mask : BitVec 5) (hissue : s.sch.cur.acc.reissue = true ∨
      ((s.cell s.sch.cur.cell).holdOf s.sch.cur.region s.sch.cur.frm 31).st ≠ .pending ∧ maskedFlags s mask = 0) :
    exec (.trapf pd mask t0) s = .next (s.sendAll s.sch.cur s.sch.cur.acc.tag false [(t0, val (portL 64 s))]) := by
  rw [exec_trapf hp, State.passL_sends hsend]
  obtain h | ⟨hst, hfl⟩ := hissue
  · rw [if_pos h]
  · rw [if_neg hst, if_neg (not_not_intro hfl), ite_self]

theorem bkpt_passes (code : BitVec 10) {set : BitVec 4} (h : s.sch.cur.acc.reissue = true ∨ ¬ bkptArmed s set) :
    exec (.bkpt pd code set t0) s = .next (s.sendAll s.sch.cur s.sch.cur.acc.tag false [(t0, val (portL 64 s))]) := by
  classical
  rw [exec_bkpt hp, if_neg, State.passL_sends hsend]
  rintro ⟨hissue, harmed⟩
  obtain h | h := h
  · exact absurd hissue (by rw [h]; decide)
  · exact h harmed

end

end

/-! ## Queries, configuration and YIELD (R399 to R402) -/

section
variable (pd : Pd) (t1 t0 : Target)

theorem sysqHandle_sends : Sends (.sysqHandle pd t1 t0) noFlags fun s => toBoth t0 t1 (Val.of 8 (s.region s.sch.cur.region).handle) :=
  sends_of_plainForm (fun f s => both t0 t1 (Val.of 8 (s.region f.region).handle)) rfl (fun _ => rfl) fun _ => rfl

theorem sysqDie_sends : Sends (.sysqDie pd t1 t0) noFlags fun s => toBoth t0 t1 (Val.of 4 s.sch.cur.die) :=
  sends_of_plainForm (fun f _ => both t0 t1 (Val.of 4 f.die)) rfl (fun _ => rfl) fun _ => rfl

theorem sysqReplica_sends : Sends (.sysqReplica pd t1 t0) noFlags fun s =>
    toBoth t0 t1 (Val.of 4 ((s.cell s.sch.cur.cell).window s.sch.cur.acc.win).replica) :=
  sends_of_plainForm (fun f s => both t0 t1 (Val.of 4 ((s.cell f.cell).window f.acc.win).replica)) rfl (fun _ => rfl) fun _ => rfl

theorem sysqCtx_sends : Sends (.sysqCtx pd t1 t0) noFlags fun s => toBoth t0 t1 (Val.of 4 (s.region s.sch.cur.region).ctx) :=
  sends_of_plainForm (fun f s => both t0 t1 (Val.of 4 (s.region f.region).ctx)) rfl (fun _ => rfl) fun _ => rfl

theorem cyc_sends : Sends (.cyc pd t1 t0) noFlags fun s => toBoth t0 t1 (val (s.die s.sch.cur.die).fabCycles) :=
  sends_of_plainForm (fun f s => both t0 t1 (Val.of 8 (s.die f.die).fabCycles.toNat)) rfl (fun _ => rfl) fun s => by
    rw [val_dword]
    rfl

theorem rdcfg_sends (ix : BitVec 12) : Sends (.rdcfg pd ix t0) noFlags fun s => [(t0, Val.of 8 (s.cfgRead s.sch.cur ix.toNat))] :=
  sends_of_plainForm (fun f s => [(t0, Val.of 8 (s.cfgRead f ix.toNat))]) rfl (fun _ => rfl) fun _ => rfl

theorem yield_sends : SendsAfter (.yield pd t1 t0) (fun s => s.updCell s.sch.cur.cell fun c => c.updWindow s.sch.cur.acc.win fun w =>
    { w with pass := put 0 0 (look 0 w.pass 0 + 0x10000) w.pass }) noFlags fun s => toBoth t0 t1 s.sch.cur.valL :=
  fun s hp hsend => (State.fire_passed s pd (fun f s => s.finish f (both t0 t1 f.valL) 0 fun s =>
    s.updCell f.cell fun c => c.updWindow f.acc.win fun w =>
      { w with pass := put 0 Unit4.scalar.num (w.passOf .scalar + 0x10000) w.pass }) hp).trans
    (State.finish_ready _ _ _ _ _ hsend)

end

theorem State.cfgRead_registers (s : State) (f : Firing) :
    s.cfgRead f 0x010 = (s.die f.die).pwr.word ∧ s.cfgRead f 0x020 = (s.region f.region).hang ∧
    s.cfgRead f 0x021 = (s.region f.region).margin ∧ s.cfgRead f 0x040 = (s.die f.die).bkpt.mask.toNat ∧
    s.cfgRead f 0x000 = (s.cell f.cell).fmt.word ∧ s.cfgRead f 0x001 = (s.cell f.cell).bankWord ∧
    s.cfgRead f 0x002 = (s.cell f.cell).statWord ∧ s.cfgRead f 0x003 = (s.cell f.cell).ecc.word :=
  ⟨rfl, rfl, rfl, rfl, rfl, rfl, rfl, rfl⟩

theorem State.cfgWrite_hang (s : State) (f : Firing) (v : Dword) :
    s.cfgWrite f 0x020 v.toNat = s.updRegion f.region fun r => { r with hang := max 4096 (v.setWidth 32).toNat } := by
  rw [BitVec.toNat_setWidth]
  rfl

theorem State.cfgWrite_margin (s : State) (f : Firing) (v : Dword) :
    s.cfgWrite f 0x021 v.toNat = s.updRegion f.region fun r => { r with margin := (v.setWidth 8).toNat } := by
  rw [BitVec.toNat_setWidth]
  rfl

theorem State.cfgWrite_mask (s : State) (f : Firing) (v : Dword) :
    s.cfgWrite f 0x040 v.toNat = s.updDie f.die fun d => { d with bkpt := { d.bkpt with mask := v.setWidth 16 } } := by
  rw [← BitVec.ofNat_toNat]
  rfl

theorem State.cfgWrite_share (s : State) (f : Firing) (v : Dword) {ix w : Nat} {win : Window} (hlo : 0x030 ≤ ix) (hhi : ix ≤ 0x037)
    (hwin : (s.cell f.cell).findWin f.region (ix - 0x030) = some (w, win)) :
    s.cfgWrite f ix v.toNat = s.updCell f.cell fun c => c.updWindow w fun q => { q with share := v.setWidth 4 } := by
  rw [State.cfgWrite, if_neg (by omega), if_neg (by omega), if_pos (by simp [hlo, hhi]), hwin, ← BitVec.ofNat_toNat]

section
variable {s : State} {pd : Pd} (hp : s.sch.cur.passes pd = true) {t0 : Target} {ix : BitVec 12}

/-- WRCFG of SCH_BKPT.MASK in another context (R401). -/
def bkptForeign (s : State) (ix : BitVec 12) : Prop :=
  ix = 0x040 ∧ (s.die s.sch.cur.die).bkpt.ctx.toNat ≠ tagCtx s.sch.cur.acc.tag

include hp

theorem exec_wrcfg [Decidable (bkptForeign s ix)] : exec (.wrcfg pd ix t0) s =
    if (s.region s.sch.cur.region).priv = false ∨ bkptForeign s ix then s.takeTrap s.sch.cur .priv ix.toNat (s.sch.cur.l 8)
    else s.finish s.sch.cur [(t0, Val.of 8 (s.sch.cur.l 8))] 0 fun s' => s'.cfgWrite s.sch.cur ix.toNat (s.sch.cur.l 8) := by
  have hix : ix.toNat = 0x040 ↔ ix = 0x040 := by
    rw [← BitVec.toNat_inj]
    rfl
  refine (State.fire_passed s pd (fun f s =>
    let i := ix.toNat
    if !(s.region f.region).priv || (i = 0x040 && (s.die f.die).bkpt.ctx.toNat ≠ tagCtx f.acc.tag) then
      s.takeTrap f .priv i (f.l 8)
    else s.finish f [(t0, Val.of 8 (f.l 8))] 0 fun s => s.cfgWrite f i (f.l 8)) hp).trans (if_congr ?_ rfl rfl)
  simp [bkptForeign, hix]

theorem wrcfg_traps (h : (s.region s.sch.cur.region).priv = false ∨ bkptForeign s ix) :
    exec (.wrcfg pd ix t0) s = .next (s.report s.sch.cur true .priv (ix.toNat + (portL 64 s).toNat * 2 ^ 32)) := by
  classical
  rw [exec_wrcfg hp, if_pos h]
  exact s.takeTrap_operandL .priv (ix.isLt.trans (by decide))

theorem wrcfg_writes (hpriv : (s.region s.sch.cur.region).priv = true) (hown : ¬ bkptForeign s ix)
    (hsend : s.canSend s.sch.cur [(t0, val (portL 64 s))] = true) :
    exec (.wrcfg pd ix t0) s = .next ((s.cfgWrite s.sch.cur ix.toNat (portL 64 s).toNat).sendAll s.sch.cur s.sch.cur.acc.tag false
      [(t0, val (portL 64 s))]) := by
  classical
  have hgranted : ¬ ((s.region s.sch.cur.region).priv = false ∨ bkptForeign s ix) := by simp [hpriv, hown]
  rw [val_portL] at hsend ⊢
  rw [exec_wrcfg hp, if_neg hgranted, State.finish_ready _ _ _ _ _ hsend, State.raise_none, portL_toNat s 8]

end

end Sys2Proof.Machine

section
open Sys2Proof Sys2Proof.Machine Sys2Proof.Claims

/-- Settles O33. -/
theorem trapsAndBreakpoints : Obligations.TrapsAndBreakpoints := by
  unfold Obligations.TrapsAndBreakpoints
  intro pd imm mask code set t0 s hp
  refine ⟨fun hissue => ⟨trap_traps hp imm hissue, trapf_waits hp mask hissue, trapf_traps hp mask hissue, bkpt_traps hp code hissue⟩,
    fun hsend => ⟨fun hissue => ?_, fun hst hfl => trapf_passes hp hsend mask (.inr ⟨hst, hfl⟩),
      fun harmed => bkpt_passes hp hsend code (.inr harmed)⟩⟩
  exact ⟨trap_passes hp hsend imm hissue, trapf_passes hp hsend mask (.inl hissue), bkpt_passes hp hsend code (.inl hissue)⟩

/-- Settles O35. R401 gives the class of WRCFG's trap; that its operand is L is the model's choice (log 35). -/
theorem systemRegisters : Obligations.SystemRegisters := by
  unfold Obligations.SystemRegisters
  intro pd ix t1 t0
  refine ⟨sysqHandle_sends pd t1 t0, sysqDie_sends pd t1 t0, sysqReplica_sends pd t1 t0, sysqCtx_sends pd t1 t0, cyc_sends pd t1 t0,
    rdcfg_sends pd t0 ix, yield_sends pd t1 t0, State.cfgRead_registers, fun s hp => ⟨wrcfg_traps hp, fun hpriv hsend => ?_⟩⟩
  refine ⟨?hang, ?margin, ?mask, ?share⟩
  case hang =>
    rintro rfl
    rw [wrcfg_writes hp hpriv (fun h => absurd h.1 (by decide)) hsend, ← State.cfgWrite_hang]
    rfl
  case margin =>
    rintro rfl
    rw [wrcfg_writes hp hpriv (fun h => absurd h.1 (by decide)) hsend, ← State.cfgWrite_margin]
    rfl
  case mask =>
    rintro rfl hown
    rw [wrcfg_writes hp hpriv hown hsend, ← State.cfgWrite_mask]
    rfl
  case share =>
    intro w win hlo hhi hwin
    have hown : ¬ bkptForeign s ix := fun h => absurd (h.1 ▸ hhi) (by decide)
    rw [wrcfg_writes hp hpriv hown hsend, State.cfgWrite_share s _ _ hlo hhi hwin]

end
end

section
/-!
PROOF of O31. AMOT (R384): one element of a tile read, combined and written in one firing, and the combinations (R252, R383).
-/

namespace Sys2Proof.Machine

-- Proofs one after another, as in the tests: in parallel they take more memory at once.
set_option Elab.async false

open Claims

/-! ## The combinations (R252) -/

section
variable (m v : BitVec 32)

theorem amoPick_eq {greater sgn : Bool} {w : Nat} (x y : BitVec w) {i : BitVec w → Int}
    (hi : ∀ z, (if sgn then signed w z.toNat else ((z.toNat % 2 ^ w : Nat) : Int)) = i z) :
    amoPick greater sgn w x.toNat y.toNat =
      (if (if greater then decide (i y ≤ i x) else decide (i x ≤ i y)) then x else y).toNat := by
  simp only [amoPick, hi]
  rw [Nat.mod_eq_of_lt x.isLt, Nat.mod_eq_of_lt y.isLt, apply_ite BitVec.toNat]

theorem amoPick_lesser_signed : amoPick false true 32 m.toNat v.toNat = (if m.sle v then m else v).toNat :=
  amoPick_eq m v (i := BitVec.toInt) fun z => signed_toNat (by decide) z

theorem amoPick_greater_signed : amoPick true true 32 m.toNat v.toNat = (if v.sle m then m else v).toNat :=
  amoPick_eq m v (i := BitVec.toInt) fun z => signed_toNat (by decide) z

theorem amoPick_lesser : amoPick false false 32 m.toNat v.toNat = (if m.ule v then m else v).toNat := by
  rw [amoPick_eq m v (i := fun z => (z.toNat : Int)) fun z => by rw [Nat.mod_eq_of_lt z.isLt]; rfl]
  simp only [Int.ofNat_le]
  rfl

theorem amoPick_greater : amoPick true false 32 m.toNat v.toNat = (if v.ule m then m else v).toNat := by
  rw [amoPick_eq m v (i := fun z => (z.toNat : Int)) fun z => by rw [Nat.mod_eq_of_lt z.isLt]; rfl]
  simp only [Int.ofNat_le]
  rfl

theorem amotApply_word :
    amotApply .add m.toNat v.toNat = ((m + v).toNat, m.toNat) ∧ amotApply .and m.toNat v.toNat = ((m &&& v).toNat, m.toNat) ∧
    amotApply .or m.toNat v.toNat = ((m ||| v).toNat, m.toNat) ∧ amotApply .xor m.toNat v.toNat = ((m ^^^ v).toNat, m.toNat) ∧
    amotApply .min m.toNat v.toNat = ((if m.sle v then m else v).toNat, m.toNat) ∧
    amotApply .max m.toNat v.toNat = ((if v.sle m then m else v).toNat, m.toNat) ∧
    amotApply .minu m.toNat v.toNat = ((if m.ule v then m else v).toNat, m.toNat) ∧
    amotApply .maxu m.toNat v.toNat = ((if v.ule m then m else v).toNat, m.toNat) ∧
    amotApply .swap m.toNat v.toNat = (v.toNat, m.toNat) := by
  refine ⟨?_, ?_, ?_, ?_, ?_, ?_, ?_, ?_, rfl⟩
  · rw [BitVec.toNat_add]; rfl
  · rw [BitVec.toNat_and]; rfl
  · rw [BitVec.toNat_or]; rfl
  · rw [BitVec.toNat_xor]; rfl
  · rw [← amoPick_lesser_signed]; rfl
  · rw [← amoPick_greater_signed]; rfl
  · rw [← amoPick_lesser]; rfl
  · rw [← amoPick_greater]; rfl

theorem amotApply_dword (m v : BitVec 64) : amotApply .add64 m.toNat v.toNat = ((m + v).toNat, m.toNat) := by
  rw [BitVec.toNat_add]
  rfl

end

/-! ## The firing (R384) -/

theorem amotLen_eq (op : AmotOp) : amotLen op =
    (if op = .add64 then 8 else 4, if op = .add64 ∨ op = .fmin ∨ op = .fmax ∨ op = .fadd then 8 else 4) := by
  cases op <;> rfl

/-- Whether L names an element of the tile that suits the operation (R384). -/
def amotSuits (s : State) (td : BitVec 5) (op : AmotOp) : Prop :=
  let t := (s.cell s.sch.cur.cell).tile td.toNat
  let col := ((portL 64 s).extractLsb' 0 12).toNat
  (portL 64 s).extractLsb' 22 42 = 0 ∧ ((portL 64 s).extractLsb' 12 10).toNat < t.nrows ∧ col < t.ncols ∧ amotFmt op t.fmt = true ∧
    t.bs = false ∧ (op = .add64 → col % 2 = 0 ∧ col + 1 < t.ncols) ∧
    ((s.cell s.sch.cur.cell).bank t.bank.toNat).mode = .scratchpad

section
variable {s : State} {pd : Pd} (hp : s.sch.cur.passes pd = true) {td : BitVec 5} {op : AmotOp} {ct : Completion}

/-- The element's place in the tile's bank. -/
def amotPlace (s : State) (td : BitVec 5) : Nat :=
  ((s.cell s.sch.cur.cell).tile td.toNat).rowAddr ((portL 64 s).extractLsb' 12 10).toNat + 4 * ((portL 64 s).extractLsb' 0 12).toNat

/-- What AMOT stores and what its token carries. -/
def amotResult (s : State) (td : BitVec 5) (op : AmotOp) : Nat × Nat :=
  amotApply op ((s.cell s.sch.cur.cell).bankRead ((s.cell s.sch.cur.cell).tile td.toNat).bank.toNat (amotPlace s td) (amotLen op).1)
    (s.sch.cur.r (amotLen op).1)

include hp

theorem exec_amot [Decidable (amotSuits s td op)] : exec (.amot pd td op ct) s =
    if (s.cell s.sch.cur.cell).tileReady td.toNat = false then .next (s.putBack s.sch.cur)
    else if ¬ amotSuits s td op then s.takeTrap s.sch.cur .trap 0x3FF6 (s.sch.cur.l 8)
    else s.finish s.sch.cur ((ctTargets ct).map fun t => (t, Val.of (amotLen op).2 (amotResult s td op).2)) 0 fun u =>
      u.updCell s.sch.cur.cell fun c => c.bankWrite ((s.cell s.sch.cur.cell).tile td.toNat).bank.toNat (amotPlace s td)
        (toBytes (amotLen op).1 (amotResult s td op).1) := by
  rw [show exec (.amot pd td op ct) s = execAmot pd td op ct s from rfl, execAmot, State.fire_passed _ _ _ hp]
  simp only [bits_portL s 11 0 12 rfl, bits_portL s 21 12 10 rfl, bits_portL s 63 22 42 rfl, ne_eq, toNat_eq_zero_iff]
  refine if_congr (by simp) rfl (if_congr ?_ rfl rfl)
  simp only [amotSuits, Bool.or_eq_true, Bool.and_eq_true, decide_eq_true_eq, Bool.not_eq_true', not_and_or, not_lt, Classical.not_imp,
    Bool.not_eq_true, Bool.not_eq_false]
  tauto

theorem amot_waits (hready : (s.cell s.sch.cur.cell).tileReady td.toNat = false) :
    exec (.amot pd td op ct) s = .next (s.putBack s.sch.cur) := by
  classical
  rw [exec_amot hp, if_pos hready]

theorem amot_traps (hready : (s.cell s.sch.cur.cell).tileReady td.toNat = true) (hsuits : ¬ amotSuits s td op) :
    exec (.amot pd td op ct) s = .next (s.report s.sch.cur true .trap (0x3FF6 + (portL 64 s).toNat * 2 ^ 32)) := by
  classical
  rw [exec_amot hp, if_neg (by simp [hready]), if_pos hsuits]
  exact s.takeTrap_operandL .trap (by decide)

theorem amot_combines (hready : (s.cell s.sch.cur.cell).tileReady td.toNat = true) (hsuits : amotSuits s td op)
    (hsend : s.canSend s.sch.cur ((ctTargets ct).map fun t => (t, Val.of (amotLen op).2 (amotResult s td op).2)) = true) :
    exec (.amot pd td op ct) s = .next ((s.updCell s.sch.cur.cell fun c =>
      c.bankWrite ((s.cell s.sch.cur.cell).tile td.toNat).bank.toNat (amotPlace s td)
        (toBytes (amotLen op).1 (amotResult s td op).1)).sendAll s.sch.cur s.sch.cur.acc.tag false
      ((ctTargets ct).map fun t => (t, Val.of (amotLen op).2 (amotResult s td op).2))) := by
  classical
  rw [exec_amot hp, if_neg (by simp [hready]), if_neg (not_not_intro hsuits), State.finish_ready _ _ _ _ _ hsend, State.raise_none]

end

end Sys2Proof.Machine

section
open Sys2Proof Sys2Proof.Machine Sys2Proof.Claims

/-- Settles O31. R384 gives the code of the trap; that its operand is L is the model's choice (log 35). -/
theorem tileAtomics : Obligations.TileAtomics := by
  unfold Obligations.TileAtomics
  refine ⟨fun pd td op ct s hp => ⟨amot_waits hp, amot_traps hp, fun hready hsuits => ?_⟩, amotApply_word, amotApply_dword⟩
  have h := amot_combines (ct := ct) hp hready hsuits
  rw [amotResult, amotLen_eq] at h
  exact fun hsend => h hsend

end
end

section
/-!
PROOF of O40. The instructions of the matrix unit (R366, R369, R371 to R373): the sequences that MMA and MMAZ start, and what MZERO, MRD,
MRDA and MSTAT do to the accumulator and send.
-/

namespace Sys2Proof.Machine

-- Proofs one after another, as in the tests: in parallel they take more memory at once.
set_option Elab.async false

open Claims

/-! ## Room for a token of a length -/

/-- Room for zeros of a length is room for a value of that length. -/
theorem State.canSend_both {s : State} {f : Firing} {t0 t1 : Target} {n : Nat} (v : Val) (hv : v.len = n)
    (hsend : s.canSend f (toBoth t0 t1 (Val.of n 0)) = true) : s.canSend f (toBoth t0 t1 v) = true := by
  subst hv
  exact (State.canSend_zeroed s f (toBoth t0 t1 v)).symm.trans hsend

theorem bit_portL (s : State) (i : Nat) : bit (s.sch.cur.l 8) i = (portL 64 s).getLsbD i := by
  rw [← portL_toNat s 8]
  exact bit_toNat _ i

/-! ## The instructions, by name -/

section
variable (pd : Pd) (ta tb : BitVec 5) (ct : Completion) (t1 t0 : Target) (s : State)

theorem exec_mma : exec (.mma pd ta tb ct) s = s.sequenceForm false pd ta tb ct := rfl

theorem exec_mmaz : exec (.mmaz pd ta tb ct) s = s.sequenceForm true pd ta tb ct := rfl

theorem exec_mzero : exec (.mzero pd t1 t0) s = execMzero pd t1 t0 s := rfl

theorem exec_mstat : exec (.mstat pd t1 t0) s = execMstat pd t1 t0 s := rfl

theorem exec_mrd : exec (.mrd pd t1 t0) s = s.readoutForm pd t1 t0 fun _ => 127 := rfl

theorem exec_mrda : exec (.mrda pd t1 t0) s = s.readoutForm pd t1 t0 fun f => f.r 4 % 256 := rfl

end

/-! ## MMA and MMAZ (R366, R369, R373) -/

/-- Whether L names rows and a slot of the tiles (R366). -/
def seqStarts (s : State) (ta tb : BitVec 5) : Prop :=
  let v := portL 64 s
  v.extractLsb' 6 2 = 0 ∧ v.extractLsb' 13 3 = 0 ∧ v.extractLsb' 22 42 = 0 ∧
    (v.extractLsb' 0 6).toNat + 1 ≤ ((s.cell s.sch.cur.cell).tile ta.toNat).nrows ∧
    (v.extractLsb' 16 6).toNat < ((s.cell s.sch.cur.cell).tile tb.toNat).nrows

/-- The sequence that the firing asks for. -/
def seqOf (s : State) (zero : Bool) (ta tb : BitVec 5) (ct : Completion) : MatSeq :=
  { zero := zero, ta := ta.toNat, tb := tb.toNat, mt := ((portL 64 s).extractLsb' 0 6).toNat + 1,
    nt := ((portL 64 s).extractLsb' 8 5).toNat + 1, bidx := ((portL 64 s).extractLsb' 16 6).toNat, targets := ctTargets ct,
    firing := s.sch.cur }

theorem State.matrixFree_of_none {s : State} {f : Firing} (h : (s.cell f.cell).seqs = []) : s.matrixFree f = true := by
  rw [State.matrixFree, h]

/-- A sequence of a note no less urgent keeps the unit. -/
theorem State.matrixFree_of_urgent {s : State} {f : Firing} {q : MatSeq} {l : List MatSeq} (h : (s.cell f.cell).seqs = q :: l)
    (hnote : (s.noteOf q.firing).code ≤ (s.noteOf f).code) : s.matrixFree f = false := by
  rw [State.matrixFree, h]
  exact decide_eq_false hnote.not_gt

section
variable {s : State} {pd : Pd} (hp : s.sch.cur.passes pd = true) {ta tb : BitVec 5} {ct : Completion} (zero : Bool)
include hp

theorem State.sequenceForm_fired [Decidable (seqStarts s ta tb)] : s.sequenceForm zero pd ta tb ct =
    if !s.matrixFree s.sch.cur || !(s.cell s.sch.cur.cell).tileGo s.sch.cur.region ta.toNat ||
      !(s.cell s.sch.cur.cell).tileGo s.sch.cur.region tb.toNat then .next (s.putBack s.sch.cur)
    else if ¬ seqStarts s ta tb then s.takeTrap s.sch.cur .trap 0x3FF5 (s.sch.cur.l 8)
    else if !(s.cell s.sch.cur.cell).sourceTile ((s.cell s.sch.cur.cell).tile ta.toNat) (s.cell s.sch.cur.cell).fmt.afmt ||
      !(s.cell s.sch.cur.cell).computeTile ((s.cell s.sch.cur.cell).tile tb.toNat) then s.takeShape s.sch.cur 0xC3 0
    else if !(s.cell s.sch.cur.cell).ownsTile ((s.cell s.sch.cur.cell).tile ta.toNat) s.sch.cur.region ||
      !(s.cell s.sch.cur.cell).ownsTile ((s.cell s.sch.cur.cell).tile tb.toNat) s.sch.cur.region then s.takeShape s.sch.cur 0xC2 0
    else s.startLate s.sch.cur (ctTargets ct) 4 false fun _ s' => s'.updCell s.sch.cur.cell fun c =>
      { c with seqs := seqOf s zero ta tb ct :: c.seqs } := by
  rw [State.sequenceForm, State.fire_passed _ _ _ hp]
  simp only [bits_portL s 7 6 2 rfl, bits_portL s 15 13 3 rfl, bits_portL s 63 22 42 rfl, bits_portL s 5 0 6 rfl,
    bits_portL s 21 16 6 rfl, bits_portL s 12 8 5 rfl, ne_eq, toNat_eq_zero_iff]
  refine if_congr Iff.rfl rfl (if_congr ?_ rfl rfl)
  simp only [seqStarts, Bool.or_eq_true, decide_eq_true_eq, not_and_or, not_le, not_lt]
  tauto

theorem State.sequenceForm_waits (hfree : s.matrixFree s.sch.cur = false) :
    s.sequenceForm zero pd ta tb ct = .next (s.putBack s.sch.cur) := by
  classical
  rw [State.sequenceForm_fired hp, if_pos (by simp [hfree])]

section
variable (hfree : s.matrixFree s.sch.cur = true) (ha : (s.cell s.sch.cur.cell).tileReady ta.toNat = true)
  (hb : (s.cell s.sch.cur.cell).tileReady tb.toNat = true)
include hfree ha hb

theorem State.sequenceForm_traps (hstarts : ¬ seqStarts s ta tb) :
    s.sequenceForm zero pd ta tb ct = .next (trapWith s 0x3FF5 (portL 64 s).toNat) := by
  classical
  rw [State.sequenceForm_fired hp, if_neg (by simp [hfree, Cell.tileGo_of_ready ha, Cell.tileGo_of_ready hb]), if_pos hstarts]
  exact s.takeTrap_portL (by decide)

theorem State.sequenceForm_starts (hstarts : seqStarts s ta tb)
    (hsource : (s.cell s.sch.cur.cell).sourceTile ((s.cell s.sch.cur.cell).tile ta.toNat) (s.cell s.sch.cur.cell).fmt.afmt = true)
    (hcompute : (s.cell s.sch.cur.cell).computeTile ((s.cell s.sch.cur.cell).tile tb.toNat) = true)
    (hoa : (s.cell s.sch.cur.cell).ownsTile ((s.cell s.sch.cur.cell).tile ta.toNat) s.sch.cur.region = true)
    (hob : (s.cell s.sch.cur.cell).ownsTile ((s.cell s.sch.cur.cell).tile tb.toNat) s.sch.cur.region = true)
    (hroom : s.canSend s.sch.cur (later (ctTargets ct) 4) = true) :
    s.sequenceForm zero pd ta tb ct = .next ((s.reserve s.sch.cur (ctTargets ct) 4).updCell s.sch.cur.cell fun c =>
      { c with seqs := seqOf s zero ta tb ct :: c.seqs }) := by
  classical
  rw [State.sequenceForm_fired hp, if_neg (by simp [hfree, Cell.tileGo_of_ready ha, Cell.tileGo_of_ready hb]),
    if_neg (not_not_intro hstarts), if_neg (by simp [hsource, hcompute]), if_neg (by simp [hoa, hob]),
    State.startLate_ready _ _ _ _ _ hroom]

end

end

/-! ## The accumulator (R371, R372) -/

/-- Whether the bits of L that name no field are 0 (R371). -/
def rectGood (s : State) : Prop :=
  (portL 64 s).extractLsb' 6 2 = 0 ∧ (portL 64 s).extractLsb' 13 3 = 0 ∧ (portL 64 s).extractLsb' 17 47 = 0

theorem Cell.clearAcc_rect (c : Cell) (row nt : Nat) : c.clearAcc 0 (row + 1) nt =
    { c with acc := c.acc.filter fun q => !(decide (q.1 / 32 ≤ row) && decide (q.1 % 32 < nt)) } := by
  rw [Cell.clearAcc]
  refine congrArg (fun p => { c with acc := c.acc.filter p }) (funext fun q => ?_)
  simp only [Nat.zero_le, decide_true, Bool.true_and, Nat.zero_add, Nat.lt_succ_iff]

section
variable {s : State} {pd : Pd} (hp : s.sch.cur.passes pd = true) {t1 t0 : Target}
include hp

theorem State.arrayForm_fired (zr : Bool) (m : Firing → Nat → State → Result) [Decidable (rectGood s)] : s.arrayForm zr pd m =
    if s.matrixFree s.sch.cur = false then .next (s.putBack s.sch.cur)
    else if ¬ (rectGood s ∧ (zr = true ∨ (portL 64 s).getLsbD 16 = false)) then s.takeTrap s.sch.cur .trap 0x3FF5 (s.sch.cur.l 8)
    else m s.sch.cur (s.sch.cur.l 8) s := by
  rw [State.arrayForm, State.fire_passed _ _ _ hp]
  simp only [bits_portL s 7 6 2 rfl, bits_portL s 15 13 3 rfl, bits_portL s 63 17 47 rfl, bit_portL, ne_eq, toNat_eq_zero_iff]
  refine if_congr (by simp) rfl (if_congr ?_ rfl rfl)
  cases zr <;> simp [rectGood, imp_iff_not_or, or_assoc]

theorem State.arrayForm_waits (zr : Bool) (m : Firing → Nat → State → Result) (hfree : s.matrixFree s.sch.cur = false) :
    s.arrayForm zr pd m = .next (s.putBack s.sch.cur) := by
  classical
  rw [State.arrayForm_fired hp, if_pos hfree]

section
variable (hfree : s.matrixFree s.sch.cur = true)
include hfree

theorem State.arrayForm_traps {zr : Bool} (m : Firing → Nat → State → Result)
    (h : ¬ (rectGood s ∧ (zr = true ∨ (portL 64 s).getLsbD 16 = false))) :
    s.arrayForm zr pd m = .next (trapWith s 0x3FF5 (portL 64 s).toNat) := by
  classical
  rw [State.arrayForm_fired hp, if_neg (by simp [hfree]), if_pos h]
  exact s.takeTrap_portL (by decide)

theorem State.arrayForm_acts {zr : Bool} (m : Firing → Nat → State → Result) (hrect : rectGood s)
    (hzr : zr = true ∨ (portL 64 s).getLsbD 16 = false) : s.arrayForm zr pd m = m s.sch.cur (s.sch.cur.l 8) s := by
  classical
  rw [State.arrayForm_fired hp, if_neg (by simp [hfree]), if_neg (not_not_intro ⟨hrect, hzr⟩)]

theorem mzero_clears (hrect : rectGood s) (hbit : (portL 64 s).getLsbD 16 = false)
    (hsend : s.canSend s.sch.cur (toBoth t0 t1 (Val.of 8 0)) = true) :
    exec (.mzero pd t1 t0) s = .next ((s.updCell s.sch.cur.cell fun c => { c with
      acc := c.acc.filter fun q => !(decide (q.1 / 32 ≤ ((portL 64 s).extractLsb' 0 6).toNat) &&
        decide (q.1 % 32 < ((portL 64 s).extractLsb' 8 5).toNat + 1)) }).sendAll s.sch.cur s.sch.cur.acc.tag false
          (toBoth t0 t1 (val (portL 64 s)))) := by
  have hready : s.canSend s.sch.cur (both t0 t1 (Val.of 8 (s.sch.cur.l 8))) = true := State.canSend_both _ rfl hsend
  rw [exec_mzero, execMzero, State.arrayForm_acts hp hfree _ hrect (.inr hbit),
    State.finish_ready _ _ _ _ _ hready, State.raise_none, bits_portL s 5 0 6 rfl, bits_portL s 12 8 5 rfl, val_portL]
  simp only [Cell.clearAcc_rect]
  rfl

theorem mstat_sends (hrect : rectGood s) (hbit : (portL 64 s).getLsbD 16 = false)
    (hsend : s.canSend s.sch.cur (toBoth t0 t1 (Val.of 8 0)) = true) :
    exec (.mstat pd t1 t0) s = .next (s.sendAll s.sch.cur s.sch.cur.acc.tag false (toBoth t0 t1 (Val.of 8
      ((s.cell s.sch.cur.cell).accStatus (((portL 64 s).extractLsb' 0 6).toNat + 1) (((portL 64 s).extractLsb' 8 5).toNat + 1))))) := by
  have hready : s.canSend s.sch.cur (both t0 t1 (Val.of 8 ((s.cell s.sch.cur.cell).accStatus (bits (s.sch.cur.l 8) 5 0 + 1)
      (bits (s.sch.cur.l 8) 12 8 + 1)))) = true :=
    State.canSend_both _ rfl hsend
  rw [← bits_portL s 5 0 6 rfl, ← bits_portL s 12 8 5 rfl, exec_mstat, execMstat, State.arrayForm_acts hp hfree _ hrect (.inr hbit),
    State.finish_ready _ _ _ _ _ hready, id, State.raise_none]
  rfl

/-- A readout sends the row, leaves the generator as the draws left it, and clears the row where ZR tells it to. -/
theorem State.readoutForm_sends (r : Firing → Nat) (hrect : rectGood s) (hsend : s.canSend s.sch.cur (toBoth t0 t1
      (Val.of (4 * (((((portL 64 s).extractLsb' 8 5).toNat + 1) * (s.vfmt s.sch.cur).bits + 31) / 32)) 0)) = true) :
    s.readoutForm pd t1 t0 r =
      let row := ((portL 64 s).extractLsb' 0 6).toNat
      let nt := ((portL 64 s).extractLsb' 8 5).toNat + 1
      let q := s.readRow s.sch.cur row nt (r s.sch.cur)
      .next ((((s.setRng s.sch.cur q.2.2).updCell s.sch.cur.cell fun c =>
        if (portL 64 s).getLsbD 16 then c.clearAcc row 1 nt else c).raise s.sch.cur q.2.1).sendAll s.sch.cur s.sch.cur.acc.tag false
          (toBoth t0 t1 (Val.of (4 * ((nt * (s.vfmt s.sch.cur).bits + 31) / 32)) q.1))) := by
  rw [State.readoutForm, State.arrayForm_acts hp hfree _ hrect (.inl rfl)]
  simp only [bits_portL s 5 0 6 rfl, bits_portL s 12 8 5 rfl, bit_portL]
  exact State.finish_ready _ _ _ _ _ (State.canSend_both _ rfl hsend)

end

end

end Sys2Proof.Machine

section
open Sys2Proof Sys2Proof.Machine Sys2Proof.Claims

/-- Settles O40. R373 gives no order of its checks: that waiting comes before them, and the reserved bits before the shapes and the
owners, is the model's choice (log 35). -/
theorem matrixInstructions : Obligations.MatrixInstructions := by
  unfold Obligations.MatrixInstructions
  intro pd ta tb ct t1 t0 s hp f c a b v row nt slot starts seq rect w
  refine ⟨fun q l hseqs hnote => ?waits, fun hnone => ?free⟩
  case waits =>
    have hfree := State.matrixFree_of_urgent hseqs hnote
    rw [exec_mma, exec_mmaz, exec_mzero, exec_mstat, exec_mrd, exec_mrda]
    exact ⟨State.sequenceForm_waits hp false hfree, State.sequenceForm_waits hp true hfree, State.arrayForm_waits hp _ _ hfree,
      State.arrayForm_waits hp _ _ hfree, State.arrayForm_waits hp _ _ hfree, State.arrayForm_waits hp _ _ hfree⟩
  case free =>
    have hfree := State.matrixFree_of_none hnone
    refine ⟨fun ha hb => ?sequence, fun h => ?badRect, fun h => ?badRow,
      fun hrect hbit hsend => ⟨mzero_clears hp hfree hrect hbit hsend, mstat_sends hp hfree hrect hbit hsend⟩,
      fun hrect hsend alt => ?readout⟩
    case sequence =>
      rw [exec_mma, exec_mmaz]
      refine ⟨fun h => ?_, fun h hsource hcompute hoa hob hroom => ?_⟩
      · exact ⟨State.sequenceForm_traps hp false hfree ha hb h, State.sequenceForm_traps hp true hfree ha hb h⟩
      · exact ⟨State.sequenceForm_starts hp false hfree ha hb h hsource hcompute hoa hob hroom,
          State.sequenceForm_starts hp true hfree ha hb h hsource hcompute hoa hob hroom⟩
    case badRect =>
      have hbad : ¬ (rectGood s ∧ (false = true ∨ (portL 64 s).getLsbD 16 = false)) :=
        fun hg => h ⟨hg.1, hg.2.resolve_left (by decide)⟩
      rw [exec_mzero, exec_mstat]
      exact ⟨State.arrayForm_traps hp hfree _ hbad, State.arrayForm_traps hp hfree _ hbad⟩
    case badRow =>
      have hbad : ¬ (rectGood s ∧ (true = true ∨ (portL 64 s).getLsbD 16 = false)) := fun hg => h hg.1
      rw [exec_mrd, exec_mrda]
      exact ⟨State.arrayForm_traps hp hfree _ hbad, State.arrayForm_traps hp hfree _ hbad⟩
    case readout =>
      have hbyte : (portR 8 s).toNat = s.sch.cur.r 4 % 256 := portR_eq_mod s (n := 4) (by decide)
      cases alt
      · exact State.readoutForm_sends hp hfree (fun _ => 127) hrect hsend
      · simp only [if_true, hbyte]
        exact State.readoutForm_sends hp hfree (fun f => f.r 4 % 256) hrect hsend

end
end

section
/-!
PROOF of O42. Triangle setup, coverage and barycentrics (R403 to R406): what the instructions send, and the algebra of edges.
-/

namespace Sys2Proof.Machine

-- Proofs one after another, as in the tests: in parallel they take more memory at once.
set_option Elab.async false

open Claims

/-! ## Operands -/

/-- 32 bits of L at any byte of its first n (R189). -/
theorem word32_portL (s : State) (n i : Nat) : word32 (s.sch.cur.l n) i = ((portL (8 * n) s).extractLsb' (8 * i) 32).toNat := by
  rw [word32, BitVec.extractLsb'_toNat, portL_toNat, Nat.shiftRight_eq_div_pow]

theorem word32_portR (s : State) (n i : Nat) : word32 (s.sch.cur.r n) i = ((portR (8 * n) s).extractLsb' (8 * i) 32).toNat := by
  rw [word32, BitVec.extractLsb'_toNat, portR_toNat, Nat.shiftRight_eq_div_pow]

/-- A signed field of a word (R325). -/
theorem signed_field {n : Nat} (v : BitVec n) (lo : Nat) {k : Nat} (hk : 0 < k) :
    signed k (v.toNat / 2 ^ lo) = (v.extractLsb' lo k).toInt := by
  have hfield : v.extractLsb' lo k = (v >>> lo).setWidth k := by
    apply BitVec.eq_of_toNat_eq
    rw [BitVec.extractLsb'_toNat, BitVec.toNat_setWidth, BitVec.toNat_ushiftRight]
  rw [hfield, ← signed_setWidth hk, BitVec.toNat_ushiftRight, Nat.shiftRight_eq_div_pow]

/-! ## The instructions (R404 to R406) -/

section
variable (pd : Pd) (t1 t0 : Target)

/-- A screen coordinate of the triangle in L, from byte i of it. -/
def coordOf (s : State) (i : Nat) : Option Int := snap (fp32.decode ((portL 192 s).extractLsb' (8 * i) 32).toNat)

theorem exec_rsetup {s : State} (hp : s.sch.cur.passes pd = true) : exec (.rsetup pd t1 t0) s =
    if (portR 32 s).extractLsb' 2 30 ≠ 0 then s.takeTrap s.sch.cur .trap 0x3FFB (s.sch.cur.r 4)
    else s.sendBoth s.sch.cur t1 t0 64 (setupOf ((portR 32 s).getLsbD 0) ((portR 32 s).getLsbD 1)
      [coordOf s 0, coordOf s 8, coordOf s 16] [coordOf s 4, coordOf s 12, coordOf s 20]).value := by
  have hlarge : 4 ≤ s.sch.cur.r 4 ↔ (portR 32 s).extractLsb' 2 30 ≠ 0 := by
    have hlt := (portR 32 s).isLt
    have hword : s.sch.cur.r 4 = (portR 32 s).toNat := (portR_toNat s 4).symm
    rw [hword, ne_eq, ← toNat_eq_zero_iff, BitVec.extractLsb'_toNat, Nat.shiftRight_eq_div_pow]
    omega
  rw [show exec (.rsetup pd t1 t0) s = execRsetup pd t1 t0 s from rfl, execRsetup, State.fire_passed _ _ _ hp]
  refine if_congr hlarge rfl ?_
  simp only [List.map_cons, List.map_nil, num32, word32_portL, bit_descriptor]
  rfl

theorem rsetup_traps {s : State} (hp : s.sch.cur.passes pd = true) (hbits : (portR 32 s).extractLsb' 2 30 ≠ 0) :
    exec (.rsetup pd t1 t0) s = .next (trapWith s 0x3FFB (portR 32 s).toNat) := by
  rw [exec_rsetup pd t1 t0 hp, if_pos hbits]
  exact s.takeTrap_descriptor (by decide)

theorem rsetup_sends {s : State} (hp : s.sch.cur.passes pd = true) (hbits : (portR 32 s).extractLsb' 2 30 = 0)
    (hsend : s.canSend s.sch.cur (toBoth t0 t1 (Val.of 64 0)) = true) :
    exec (.rsetup pd t1 t0) s = .next (s.sendAll s.sch.cur s.sch.cur.acc.tag false (toBoth t0 t1 (Val.of 64
      (setupOf ((portR 32 s).getLsbD 0) ((portR 32 s).getLsbD 1) [coordOf s 0, coordOf s 8, coordOf s 16]
        [coordOf s 4, coordOf s 12, coordOf s 20]).value))) := by
  have hfinish := fun v => State.finish_ready s s.sch.cur (both t0 t1 (Val.of 64 v)) 0 id (State.canSend_both _ rfl hsend)
  simp only [State.raise_none] at hfinish
  rw [exec_rsetup pd t1 t0 hp, if_neg (not_not_intro hbits)]
  exact hfinish _

theorem rstep_sends : Sends (.rstep pd t1 t0) noFlags fun s =>
    toBoth t0 t1 (Val.of 4 (coverage (Setup.read (portL 512 s).toNat) (portR 32 s).toNat)) :=
  sends_of_plainForm (fun f _ => both t0 t1 (Val.of 4 (coverage (Setup.read (f.l 64)) (f.r 4)))) rfl (fun _ => rfl) fun s => by
    rw [← portL_toNat s 64, ← portR_toNat s 4]
    rfl

/-- The sample of a pixel position (R405). -/
theorem sampleAt_position (p : Word) : sampleAt p.toNat 0 0 =
    (256 * (p.extractLsb' 0 16).toInt + 128, 256 * (p.extractLsb' 16 16).toInt + 128) := by
  rw [← signed_field p 0 (by decide), ← signed_field p 16 (by decide), sampleAt, pow_zero, Nat.div_one]
  simp only [Nat.cast_zero, add_zero]

theorem rbary_sends : Sends (.rbary pd t1 t0) noFlags fun s => toBoth t0 t1 (Val.of 8
    (baryOf (Setup.read (portL 512 s).toNat) (portR 32 s) 1 + baryOf (Setup.read (portL 512 s).toNat) (portR 32 s) 2 * 2 ^ 32)) :=
  sends_of_plainForm (fun f _ =>
    let u := Setup.read (f.l 64)
    let p := sampleAt (f.r 4) 0 0
    let lam := fun i => if u.area = 0 then 0x7FC00000 else quotient32 (edgeAt (u.edges.getD i (0, 0, 0)) p.1 p.2) u.area
    both t0 t1 (Val.of 8 (lam 1 + lam 2 * 2 ^ 32))) rfl (fun _ => rfl) fun s => by
      dsimp only
      rw [← portL_toNat s 64, ← portR_toNat s 4, sampleAt_position]
      rfl

end

/-! ## Setup records (R404) -/

/-- The edge through two vertices, positive on its left. -/
def edgeThrough (xa ya xb yb : Int) : Int × Int × Int := (ya - yb, xb - xa, xa * yb - xb * ya)

/-- Twice the signed area of a triangle. -/
def areaOf (xs ys : Fin 3 → Int) : Int := edgeAt (edgeThrough (xs 1) (ys 1) (xs 2) (ys 2)) (xs 0) (ys 0)

/-- An edge times a sign. -/
def turned (k : Int) (e : Int × Int × Int) : Int × Int × Int := (k * e.1, k * e.2.1, k * e.2.2)

theorem edgeAt_turned (k : Int) (e : Int × Int × Int) (x y : Int) : edgeAt (turned k e) x y = k * edgeAt e x y := by
  simp only [edgeAt, turned]
  ring

/-- The setup of three screen positions. -/
def setupAt (culln cullp : Bool) (xs ys : Fin 3 → Int) : Setup :=
  setupOf culln cullp [some (xs 0), some (xs 1), some (xs 2)] [some (ys 0), some (ys 1), some (ys 2)]

section
variable (culln cullp : Bool) (xs ys : Fin 3 → Int)

/-- A record is empty, or has the triangle's edges and area under the sign that makes the area positive. -/
theorem setupAt_cases : setupAt culln cullp xs ys = {} ∨ ∃ k : Int,
    0 < (setupAt culln cullp xs ys).area ∧ (setupAt culln cullp xs ys).area = k * areaOf xs ys ∧ (setupAt culln cullp xs ys).edges =
      [turned k (edgeThrough (xs 1) (ys 1) (xs 2) (ys 2)), turned k (edgeThrough (xs 2) (ys 2) (xs 0) (ys 0)),
        turned k (edgeThrough (xs 0) (ys 0) (xs 1) (ys 1))] := by
  have harea : (ys 1 - ys 2) * xs 0 + (xs 2 - xs 1) * ys 0 + (xs 1 * ys 2 - xs 2 * ys 1) = areaOf xs ys := rfl
  simp only [setupAt, setupOf, harea]
  split
  next => exact .inl rfl
  next h =>
    refine .inr ⟨if areaOf xs ys < 0 then -1 else 1, ?_, rfl, rfl⟩
    simp only [Bool.or_eq_true, decide_eq_true_eq, not_or] at h
    obtain ⟨⟨hzero, -⟩, -⟩ := h
    dsimp only
    split <;> omega

theorem setupAt_area : setupAt culln cullp xs ys = {} ∨ 0 < (setupAt culln cullp xs ys).area :=
  (setupAt_cases culln cullp xs ys).imp_right fun ⟨_, h, _⟩ => h

/-- Each edge takes the area at the vertex opposite to it and 0 at its own, and the three add up to the area everywhere. -/
theorem setupAt_edges (hpos : 0 < (setupAt culln cullp xs ys).area) : ∃ e0 e1 e2, (setupAt culln cullp xs ys).edges = [e0, e1, e2] ∧
    edgeAt e0 (xs 0) (ys 0) = (setupAt culln cullp xs ys).area ∧ edgeAt e0 (xs 1) (ys 1) = 0 ∧ edgeAt e0 (xs 2) (ys 2) = 0 ∧
    edgeAt e1 (xs 1) (ys 1) = (setupAt culln cullp xs ys).area ∧ edgeAt e1 (xs 2) (ys 2) = 0 ∧ edgeAt e1 (xs 0) (ys 0) = 0 ∧
    edgeAt e2 (xs 2) (ys 2) = (setupAt culln cullp xs ys).area ∧ edgeAt e2 (xs 0) (ys 0) = 0 ∧ edgeAt e2 (xs 1) (ys 1) = 0 ∧
    ∀ x y, edgeAt e0 x y + edgeAt e1 x y + edgeAt e2 x y = (setupAt culln cullp xs ys).area := by
  obtain hempty | ⟨k, -, harea, hedges⟩ := setupAt_cases culln cullp xs ys
  · rw [hempty] at hpos
    exact absurd hpos (by decide)
  · refine ⟨_, _, _, hedges, ?_⟩
    simp only [harea, edgeAt_turned]
    simp only [areaOf, edgeAt, edgeThrough]
    refine ⟨trivial, ?_, ?_, ?_, ?_, ?_, ?_, ?_, ?_, fun x y => ?_⟩ <;> ring

/-- Without culling the area of a record is the magnitude of the triangle's. -/
theorem setupAt_area_unculled : (setupAt false false xs ys).area = |areaOf xs ys| := by
  have harea : (ys 1 - ys 2) * xs 0 + (xs 2 - xs 1) * ys 0 + (xs 1 * ys 2 - xs 2 * ys 1) = areaOf xs ys := rfl
  simp only [setupAt, setupOf, harea, Bool.and_false, Bool.or_false, decide_eq_true_eq]
  split
  next h => rw [h, abs_zero]
  next h =>
    dsimp only
    split
    next hneg => rw [abs_of_neg hneg, neg_one_mul]
    next hpos => rw [abs_of_nonneg (not_lt.mp hpos), one_mul]

/-- The triangle with its second and third vertex exchanged. -/
theorem areaOf_reversed : areaOf ![xs 0, xs 2, xs 1] ![ys 0, ys 2, ys 1] = -areaOf xs ys := by
  simp [areaOf, edgeAt, edgeThrough]
  ring

theorem setupAt_area_reversed :
    (setupAt false false ![xs 0, xs 2, xs 1] ![ys 0, ys 2, ys 1]).area = (setupAt false false xs ys).area := by
  rw [setupAt_area_unculled, setupAt_area_unculled, areaOf_reversed, abs_neg]

end

theorem setupOf_none (culln cullp : Bool) (ys : List (Option Int)) (x1 x2 : Option Int) :
    setupOf culln cullp [none, x1, x2] ys = {} := by
  simp [setupOf]

/-! ## Coverage (R405) -/

/-- Of an edge and its negation exactly one covers a sample. -/
theorem insideEdge_negated {p q : Int} (c x y : Int) (hpq : p ≠ 0 ∨ q ≠ 0) :
    insideEdge (p, q, c) x y = true ↔ insideEdge (-p, -q, -c) x y = false := by
  have hneg : edgeAt (-p, -q, -c) x y = -edgeAt (p, q, c) x y := by
    simp only [edgeAt]
    ring
  rw [insideEdge, insideEdge, hneg]
  simp only [Bool.or_eq_true, Bool.and_eq_true, decide_eq_true_eq, Bool.or_eq_false_iff, Bool.and_eq_false_iff, decide_eq_false_iff_not]
  omega

/-- A record without area covers nothing. -/
theorem coverage_empty {u : Setup} (v i : Nat) (h : u.area = 0) : (coverage u v).testBit i = false := by
  have hzero : coverage u v = 0 := by
    simp [coverage, h, sumOf, bitOf]
  rw [hzero, Nat.zero_testBit]

end Sys2Proof.Machine

section
open Sys2Proof Sys2Proof.Machine Sys2Proof.Claims

/-- Settles O42. R404 gives the code of RSETUP's trap; that its operand is R is the model's choice (log 35). -/
theorem triangleSetupAndCoverage : Obligations.TriangleSetupAndCoverage := by
  unfold Obligations.TriangleSetupAndCoverage
  exact ⟨fun pd t1 t0 => ⟨fun s hp => ⟨rsetup_traps pd t1 t0 hp, rsetup_sends pd t1 t0 hp⟩, rstep_sends pd t1 t0, rbary_sends pd t1 t0⟩,
    fun a b xs ys => ⟨setupAt_area a b xs ys, setupAt_edges a b xs ys, setupAt_area_reversed xs ys⟩,
    fun p q c x y => insideEdge_negated c x y, fun u v i => coverage_empty v i,
    fun n culln cullp ys x1 x2 => ⟨rfl, rfl, setupOf_none culln cullp ys x1 x2⟩⟩

end
end

section
/-!
PROOF of O36. Vector arithmetic (R341 to R346): the lanes of a run one by one, and what each instruction sends.
-/

namespace Sys2Proof.Machine

-- Proofs one after another, as in the tests: in parallel they take more memory at once.
set_option Elab.async false

open Claims

/-! ## Lanes of a vector (R341, R343) -/

section
variable (b : Nat) (c : Nat → Nat)

/-- The number with digit `c i` at bit b i, for i below n. -/
def packed (n : Nat) : Nat := (List.range n).foldl (fun a i => a + c i % 2 ^ b * 2 ^ (b * i)) 0

theorem packed_succ (n : Nat) : packed b c (n + 1) = packed b c n + c n % 2 ^ b * 2 ^ (b * n) := by
  simp [packed, List.range_succ]

theorem packed_lt (n : Nat) : packed b c n < 2 ^ (b * n) := by
  induction n with
  | zero => simp [packed]
  | succ n ih =>
    have hdigit : c n % 2 ^ b + 1 ≤ 2 ^ b := Nat.mod_lt _ (Nat.two_pow_pos b)
    calc packed b c (n + 1) = packed b c n + c n % 2 ^ b * 2 ^ (b * n) := packed_succ b c n
      _ < (c n % 2 ^ b + 1) * 2 ^ (b * n) := by rw [Nat.succ_mul]; omega
      _ ≤ 2 ^ b * 2 ^ (b * n) := Nat.mul_le_mul_right _ hdigit
      _ = 2 ^ (b * (n + 1)) := by rw [← pow_add, Nat.mul_succ, Nat.add_comm]

theorem packed_digit {n i : Nat} (hi : i < n) : packed b c n / 2 ^ (b * i) % 2 ^ b = c i % 2 ^ b := by
  induction n with
  | zero => exact absurd hi (Nat.not_lt_zero i)
  | succ n ih =>
    rw [packed_succ]
    obtain rfl | hlt := Nat.eq_or_lt_of_le (Nat.le_of_lt_succ hi)
    · rw [Nat.add_mul_div_right _ _ (Nat.two_pow_pos _), Nat.div_eq_of_lt (packed_lt b c i), Nat.zero_add, Nat.mod_mod]
    · have hpow : 2 ^ (b * n) = 2 ^ (b * (n - i - 1)) * 2 ^ b * 2 ^ (b * i) := by
        rw [← pow_add, ← pow_add, ← Nat.mul_succ, ← Nat.mul_add]
        congr 2
        omega
      rw [hpow, ← Nat.mul_assoc, Nat.add_mul_div_right _ _ (Nat.two_pow_pos _), ← Nat.mul_assoc, Nat.add_mul_mod_self_right, ih hlt]

end

section
variable (f : Fmt) (o : Nat → Word → Rounded) (g : Word)

/-- One lane of a run. -/
def laneStep (q : Nat × Flags × Word) (i : Nat) : Nat × Flags × Word :=
  (q.1 + (o i q.2.2).code % 2 ^ f.bits * 2 ^ (f.bits * i), q.2.1 ||| (o i q.2.2).flags, (o i q.2.2).rng)

theorem runLanes_below (n : Nat) : (List.range n).foldl (laneStep f o) (0, 0, g) =
    (packed f.bits (fun i => (o i (laneGen o g i)).code) n,
      (List.range n).foldl (fun a i => a ||| (o i (laneGen o g i)).flags) 0, laneGen o g n) := by
  induction n with
  | zero => rfl
  | succ n ih =>
    rw [List.range_succ, List.foldl_append, List.foldl_append, ih, packed_succ]
    rfl

theorem runLanes_eq : runLanes f o g = (packed f.bits (fun i => (o i (laneGen o g i)).code) (laneCount f),
    (List.range (laneCount f)).foldl (fun a i => a ||| (o i (laneGen o g i)).flags) 0, laneGen o g (laneCount f)) :=
  runLanes_below f o g (laneCount f)

theorem laneOf_runLanes {i : Nat} (hi : i < laneCount f) :
    laneOf f (runLanes f o g).1 i = (o i (laneGen o g i)).code % 2 ^ f.bits := by
  rw [runLanes_eq]
  exact packed_digit f.bits _ hi

end

theorem laneL_eq (s : State) (i : Nat) : laneL s i = laneOf (s.vfmt s.sch.cur) (s.sch.cur.l (vectorLen (s.vfmt s.sch.cur))) i := by
  rw [laneL, portL_toNat]

theorem laneR_eq (s : State) (i : Nat) : laneR s i = laneOf (s.vfmt s.sch.cur) (s.sch.cur.r (vectorLen (s.vfmt s.sch.cur))) i := by
  rw [laneR, portR_toNat]

theorem laneP_eq (s : State) (i : Nat) : laneP s i = laneOf (s.vfmt s.sch.cur) (s.sch.cur.p (vectorLen (s.vfmt s.sch.cur))) i := by
  rw [laneP, portP_toNat]

/-! ## The forms -/

/-- An instruction of the general form sends its results after its effect. -/
theorem sendsAfter_of_sendsForm {i : Instr} {pd : Pd} {eff : State → State} {fl : State → Flags} {l : State → List (Target × Val)}
    (r : Firing → State → List (Target × Val)) (g : Firing → State → Flags) (e : Firing → State → State → State) (hpd : i.pd = pd)
    (hi : ∀ s, exec i s = s.sendsForm pd r g e) (he : ∀ s, e s.sch.cur s s = eff s) (hr : ∀ s, r s.sch.cur s = l s)
    (hg : ∀ s, g s.sch.cur s = fl s) : SendsAfter i eff fl l := by
  intro s hp hsend
  rw [hi, State.sendsForm, State.fire_passed _ _ _ (hpd ▸ hp), hr, hg, State.finish_ready _ _ _ _ _ hsend, he]

/-- The same for an instruction that runs lanes and leaves the generator as they left it. -/
theorem sendsLanes_of_run {i : Instr} {pd : Pd} {t1 t0 : Target} {o : State → Fmt → Word → Nat → Nat → Nat → Rounded}
    (run : Firing → State → Nat × Flags × Word) (hpd : i.pd = pd)
    (hi : ∀ s, exec i s = s.sendsForm pd (fun f s => both t0 t1 (Val.of (vectorLen (s.vfmt f)) (run f s).1)) (fun f s => (run f s).2.1)
      fun f s u => u.setRng f (run f s).2.2)
    (hrun : ∀ s, run s.sch.cur s = runLanes (s.vfmt s.sch.cur)
      (fun k g => o s (s.vfmt s.sch.cur) g (laneL s k) (laneR s k) (laneP s k)) (s.rngOf s.sch.cur)) : SendsLanes i t1 t0 o :=
  sendsAfter_of_sendsForm _ _ _ hpd hi (fun s => congrArg (fun q => s.setRng s.sch.cur q.2.2) (hrun s))
    (fun s => congrArg (fun q => both t0 t1 (Val.of (vectorLen (s.vfmt s.sch.cur)) q.1)) (hrun s)) fun s => congrArg (fun q => q.2.1) (hrun s)

theorem sendsLanes_of_vectorForm {i : Instr} {pd : Pd} {t1 t0 : Target} {o : Fmt → Word → Nat → Nat → Nat → Rounded} (hpd : i.pd = pd)
    (hi : ∀ s, exec i s = s.vectorForm pd t1 t0 o) : SendsLanes i t1 t0 fun _ => o :=
  sendsLanes_of_run (fun f s => runLanes (s.vfmt f) (fun k g => o (s.vfmt f) g (laneOf (s.vfmt f) (f.l (vectorLen (s.vfmt f))) k)
    (laneOf (s.vfmt f) (f.r (vectorLen (s.vfmt f))) k) (laneOf (s.vfmt f) (f.p (vectorLen (s.vfmt f))) k)) (s.rngOf f)) hpd hi fun s => by
      simp only [laneL_eq, laneR_eq, laneP_eq]

theorem vscale_sendsLanes (pd : Pd) (t1 t0 : Target) : SendsLanes (.vscale pd t1 t0) t1 t0 fun s f g l _ _ =>
    if portR 8 s = 0xFF then ⟨f.nanCode, 0, g⟩
    else f.op1 .rn g (fun x => (x.scale ((portR 8 s).toNat - 127), 0)) (f.decode l) := by
  refine sendsLanes_of_run (fun f s => runLanes (s.vfmt f) (fun k g => if f.r 4 % 256 = 0xFF then ⟨(s.vfmt f).nanCode, 0, g⟩
    else (s.vfmt f).op1 .rn g (fun x => (x.scale (((f.r 4 % 256 : Nat) : Int) - 127), 0))
      ((s.vfmt f).decode (laneOf (s.vfmt f) (f.l (vectorLen (s.vfmt f))) k))) (s.rngOf f)) rfl (fun s => rfl) fun s => ?_
  have hscale : (portR 8 s).toNat = s.sch.cur.r 4 % 256 := portR_eq_mod s (by decide)
  have hnan : portR 8 s = 0xFF ↔ s.sch.cur.r 4 % 256 = 0xFF := by
    rw [← hscale, ← BitVec.toNat_inj]
    rfl
  simp only [hnan, hscale, laneL_eq]

/-! ## Lanes of an integer format (R343, R344) -/

theorem intRange_bounds (n : Nat) (sgn : Bool) : (intRange n sgn).1 ≤ 0 ∧ 0 ≤ (intRange n sgn).2 := by
  have hpow (k : Nat) : (1 : Int) ≤ 2 ^ k := one_le_pow₀ (by decide)
  cases sgn
  · exact ⟨le_refl _, by simpa [intRange] using hpow n⟩
  · exact ⟨by simp [intRange], by simpa [intRange] using hpow (n - 1)⟩

/-- The code of an integer of the range stands for it. -/
theorem laneInt_wrap {n : Nat} (hn : 0 < n) {sgn : Bool} {v : Int} (hlo : (intRange n sgn).1 ≤ v) (hhi : v ≤ (intRange n sgn).2) :
    laneInt (.int n sgn) (wrap n v) = v := by
  cases sgn
  case true =>
    simp only [intRange, if_true] at hlo hhi
    rw [wrap_eq_toNat, laneInt, if_pos rfl, signed_toNat hn, BitVec.toInt_ofInt_eq_self hn hlo (by omega)]
  case false =>
    simp only [intRange, Bool.false_eq_true, if_false] at hlo hhi
    have hpow : ((2 ^ n : Nat) : Int) = 2 ^ n := by norm_cast
    have hmod : v % ((2 ^ n : Nat) : Int) = v := Int.emod_eq_of_lt hlo (by omega)
    rw [laneInt, if_neg Bool.false_ne_true, wrap, hmod, Int.natCast_mod, Int.toNat_of_nonneg hlo, hmod]

/-- Saturation gives the nearest integer of the format. -/
theorem laneInt_saturateTo {n : Nat} (sgn : Bool) (v : Int) (hn : 0 < n) :
    laneInt (.int n sgn) (saturateTo (.int n sgn) v) = max (intRange n sgn).1 (min (intRange n sgn).2 v) := by
  obtain ⟨hneg, hpos⟩ := intRange_bounds n sgn
  exact laneInt_wrap hn (le_max_left _ _) (max_le (hneg.trans hpos) (min_le_left _ _))

theorem lanePick_int (n : Nat) (sgn g : Bool) (l r : Nat) : ((lanePick g (.int n sgn) l r).1 = l ∨ (lanePick g (.int n sgn) l r).1 = r) ∧
    laneInt (.int n sgn) (lanePick g (.int n sgn) l r).1 =
      if g then max (laneInt (.int n sgn) l) (laneInt (.int n sgn) r) else min (laneInt (.int n sgn) l) (laneInt (.int n sgn) r) := by
  simp only [lanePick, Fmt.isInt, if_true]
  cases g
  case true =>
    simp only [if_true, decide_eq_true_eq]
    split
    next h => exact ⟨.inl rfl, (max_eq_left h).symm⟩
    next h => exact ⟨.inr rfl, (max_eq_right (le_of_not_ge h)).symm⟩
  case false =>
    simp only [Bool.false_eq_true, if_false, decide_eq_true_eq]
    split
    next h => exact ⟨.inl rfl, (min_eq_left h).symm⟩
    next h => exact ⟨.inr rfl, (min_eq_right (le_of_not_ge h)).symm⟩

/-- VABS and VNEG of a signed INT8 lane saturate at 127. -/
theorem laneAbs_int8 (l : Nat) : laneInt (.int 8 true) (laneAbs (.int 8 true) l).1 = min 127 ((laneInt (.int 8 true) l).natAbs : Int) := by
  have h := laneInt_saturateTo (n := 8) true ((laneInt (.int 8 true) l).natAbs : Int) (by decide)
  simp only [intRange, if_true] at h
  rw [laneAbs, if_pos rfl, h]
  omega

theorem laneNeg_int8 (l : Nat) : laneInt (.int 8 true) (laneNeg (.int 8 true) l).1 = min 127 (-laneInt (.int 8 true) l) := by
  have h := laneInt_saturateTo (n := 8) true (-laneInt (.int 8 true) l) (by decide)
  have hbound : laneInt (.int 8 true) l < 128 := by
    simp only [laneInt, signed, if_true]
    omega
  simp only [intRange, if_true] at h
  rw [laneNeg, if_pos rfl, h]
  omega

/-- VABS and VNEG of a binary8 lane: the NaN stays, a format without a sign has no negative. -/
theorem laneAbs_signed8 (p : Nat) (ext : Bool) (l : Nat) : (laneAbs (.b8 p true ext) l).1 = if l = 0x80 then l else l % 128 := by
  by_cases h : l = 0x80 <;> simp [laneAbs, h]

theorem laneNeg_signed8 (p : Nat) (ext : Bool) {l : Nat} (hl : l < 256) :
    (laneNeg (.b8 p true ext) l).1 = if l = 0 ∨ l = 0x80 then l else (l + 128) % 256 := by
  have hnibbles : ∀ h < 16, ∀ k < 16, (16 * h + k) ^^^ 0x80 = (16 * h + k + 128) % 256 := by decide
  have hflip := hnibbles (l / 16) (by omega) (l % 16) (Nat.mod_lt _ (by decide))
  rw [Nat.div_add_mod] at hflip
  simp [laneNeg, hflip]

theorem laneNeg_unsigned8 (p : Nat) (ext : Bool) (l : Nat) :
    laneNeg (.b8 p false ext) l = (if l = 0xFF then 0xFF else 0, if l = 0 ∨ l = 0xFF then 0 else flagIV) := by
  by_cases hzero : l = 0
  · simp [laneNeg, hzero]
  · by_cases hnan : l = 0xFF <;> simp [laneNeg, hzero, hnan]

end Sys2Proof.Machine

section
open Sys2Proof Sys2Proof.Machine Sys2Proof.Claims

/-- Settles O36: a run of lanes is the number of its lanes' codes, each taken at the generator that the lanes below it left. -/
theorem vectorLaneArithmetic : Obligations.VectorLaneArithmetic := by
  unfold Obligations.VectorLaneArithmetic
  refine ⟨fun pd t1 t0 => ⟨?_, ?_, ?_, ?_, ?_, ?_, ?_, ?_, ?_, ?_, ?_, ?_, ?_, vscale_sendsLanes pd t1 t0⟩,
    fun f o g => ⟨fun i hi => laneOf_runLanes f o g hi, by rw [runLanes_eq], by rw [runLanes_eq]⟩,
    fun n sgn v hn => laneInt_saturateTo sgn v hn, fun n sgn g l r => lanePick_int n sgn g l r,
    fun l hl => ⟨fun p ext => ⟨laneAbs_signed8 p ext l, laneNeg_signed8 p ext hl, rfl, laneNeg_unsigned8 p ext l⟩,
      laneAbs_int8 l, laneNeg_int8 l, rfl, rfl⟩⟩
  all_goals exact sendsLanes_of_vectorForm rfl fun s => rfl

end
end

section
/-!
PROOF of O37. Vector comparison, selection, broadcast, reduction, conversion and quantisation (R347 to R352).
-/

namespace Sys2Proof.Machine

-- Proofs one after another, as in the tests: in parallel they take more memory at once.
set_option Elab.async false

open Claims

/-! ## Folds over two accumulators -/

theorem foldl_add_or {α : Type} (a : α → Nat) (b : α → Flags) (l : List α) (x : Nat) (y : Flags) :
    l.foldl (fun (q : Nat × Flags) i => (q.1 + a i, q.2 ||| b i)) (x, y) = (l.foldl (fun q i => q + a i) x, l.foldl (fun q i => q ||| b i) y) := by
  induction l generalizing x y with
  | nil => rfl
  | cons i l ih => exact ih ..

/-- Bytes laid out one after another, counted on the way. -/
theorem foldl_bytes (k : Nat → Nat) (n : Nat) :
    ((List.range n).map k).foldl (fun (a : Nat × Nat) v => (a.1 + v * 2 ^ (8 * a.2), a.2 + 1)) (0, 0) =
      ((List.range n).foldl (fun a j => a + k j * 2 ^ (8 * j)) 0, n) := by
  induction n with
  | zero => rfl
  | succ n ih => rw [List.range_succ, List.map_append, List.foldl_append, ih, List.foldl_append]; rfl

/-! ## Formats of a vector (R341) -/

/-- A format code names FP32, FP16, BF16, an integer format of at most 32 bits or a binary8 format (R341). -/
theorem ofCode_cases {P : Fmt → Prop} (c : Nat) (hfp32 : P fp32) (hfp16 : P fp16) (hbf16 : P bf16)
    (hint : ∀ n sgn, n ≤ 32 → P (.int n sgn)) (hb8 : ∀ p sgn ext, P (.b8 p sgn ext)) : P (Fmt.ofCode c) := by
  unfold Fmt.ofCode
  split_ifs
  exacts [hfp32, hfp16, hbf16, hint _ _ (by decide), hint _ _ (by decide), hint _ _ (by decide), hint _ _ (by decide), hint _ _ (by decide),
    hint _ _ (by decide), hb8 _ _ _, hfp32]

theorem vfmt_bits_le (s : State) : (s.vfmt s.sch.cur).bits ≤ 32 :=
  ofCode_cases (P := fun f => f.bits ≤ 32) _ (by decide) (by decide) (by decide) (fun _ _ h => h) fun _ _ _ => show 8 ≤ 32 by decide

theorem laneCount_le (f : Fmt) : laneCount f ≤ 64 := by
  unfold laneCount
  split_ifs <;> decide

/-! ## Comparison, selection and broadcast (R347, R348) -/

theorem laneCompare_lanes (cc : LaneCond) (s : State) (i : Nat) :
    laneCompare cc (s.vfmt s.sch.cur) (laneL s i) (laneR s i) = compareLanes cc s i := rfl

theorem bitOf_lt (b : Bool) : bitOf b < 2 := by cases b <;> decide

/-- A mask of one bit for each lane. -/
theorem packed_bitOf (p : Nat → Bool) {n : Nat} (hn : n ≤ 64) :
    (List.range n).foldl (fun a i => a + bitOf (p i) * 2 ^ i) 0 = (ofBits (n := 64) fun i => decide (i < n) && p i).toNat := by
  have hpacked : (List.range n).foldl (fun a i => a + bitOf (p i) * 2 ^ i) 0 = packed 1 (fun i => bitOf (p i)) n := by
    refine List.foldl_ext _ _ _ fun a i _ => ?_
    change _ = a + bitOf (p i) % 2 ^ 1 * 2 ^ (1 * i)
    rw [Nat.one_mul, pow_one, Nat.mod_eq_of_lt (bitOf_lt (p i))]
  have hlt := packed_lt 1 (fun i => bitOf (p i)) n
  rw [Nat.one_mul] at hlt
  rw [hpacked]
  refine eq_toNat_ofBits (hlt.trans_le (Nat.pow_le_pow_right (by decide) hn)) fun k _ => ?_
  by_cases hk : k < n
  · have hdigit := packed_digit 1 (fun i => bitOf (p i)) hk
    rw [Nat.one_mul, pow_one] at hdigit
    rw [Nat.testBit_eq_decide_div_mod_eq, hdigit]
    cases h : p k <;> simp [bitOf, hk]
  · rw [Nat.testBit_lt_two_pow (hlt.trans_le (Nat.pow_le_pow_right (by decide) (not_lt.mp hk)))]
    simp [hk]

/-- The mask and the flags of VCMP (R347). -/
def maskRun (cc : LaneCond) (f : Firing) (s : State) : Nat × Flags :=
  (List.range (laneCount (s.vfmt f))).foldl (fun (q : Nat × Flags) i =>
    let r := laneCompare cc (s.vfmt f) (laneOf (s.vfmt f) (f.l (vectorLen (s.vfmt f))) i) (laneOf (s.vfmt f) (f.r (vectorLen (s.vfmt f))) i)
    (q.1 + bitOf r.1 * 2 ^ i, q.2 ||| r.2)) (0, 0)

theorem maskRun_eq (cc : LaneCond) (s : State) : maskRun cc s.sch.cur s =
    ((ofBits (n := 64) fun i => decide (i < laneCount (s.vfmt s.sch.cur)) && (compareLanes cc s i).1).toNat,
      (List.range (laneCount (s.vfmt s.sch.cur))).foldl (fun a i => a ||| (compareLanes cc s i).2) 0) := by
  simp only [maskRun, ← laneL_eq, ← laneR_eq, laneCompare_lanes, foldl_add_or, packed_bitOf _ (laneCount_le _)]

section
variable (pd : Pd) (t1 t0 : Target)

theorem vcmp_sends (cc : LaneCond) : Sends (.vcmp pd cc t1 t0)
    (fun s => (List.range (laneCount (s.vfmt s.sch.cur))).foldl (fun a i => a ||| (compareLanes cc s i).2) 0)
    fun s => toBoth t0 t1 (val (ofBits (n := 64) fun i => decide (i < laneCount (s.vfmt s.sch.cur)) && (compareLanes cc s i).1)) := by
  refine sends_of_sendsForm (fun f s => both t0 t1 (Val.of 8 (maskRun cc f s).1)) (fun f s => (maskRun cc f s).2) rfl (fun s => rfl)
    (fun s => ?_) fun s => congrArg Prod.snd (maskRun_eq cc s)
  rw [val_bytes 8]
  exact congrArg (fun q : Nat × Flags => both t0 t1 (Val.of 8 q.1)) (maskRun_eq cc s)

/-- Lanes without flags and draws. -/
theorem runLanes_plain (f : Fmt) (p : Nat → Nat) (g : Word) : (runLanes f (fun i g => ⟨p i, 0, g⟩) g).1 = lanesFrom f p := by
  rw [runLanes_eq]
  rfl

theorem vsel_sends : Sends (.vsel t1 t0) noFlags fun s => toBoth t0 t1 (Val.of (vectorLen (s.vfmt s.sch.cur))
    (lanesFrom (s.vfmt s.sch.cur) fun i => if (portP 64 s).getLsbD i then laneL s i else laneR s i)) :=
  sends_of_plainForm (fun f s => both t0 t1 (Val.of (vectorLen (s.vfmt f)) (runLanes (s.vfmt f) (fun i g =>
    ⟨laneOf (s.vfmt f) (if bit (f.p 8) i then f.l (vectorLen (s.vfmt f)) else f.r (vectorLen (s.vfmt f))) i, 0, g⟩) 0).1))
    rfl (fun _ => rfl) fun s => by
      have hbit (i : Nat) : bit (s.sch.cur.p 8) i = (portP 64 s).getLsbD i := by
        rw [← portP_toNat s 8]
        exact bit_toNat _ i
      have hlane (i : Nat) : laneOf (s.vfmt s.sch.cur) (if (portP 64 s).getLsbD i then s.sch.cur.l (vectorLen (s.vfmt s.sch.cur))
          else s.sch.cur.r (vectorLen (s.vfmt s.sch.cur))) i = if (portP 64 s).getLsbD i then laneL s i else laneR s i := by
        split
        · exact (laneL_eq s i).symm
        · exact (laneR_eq s i).symm
      rw [runLanes_plain]
      simp only [hbit, hlane]
      rfl

theorem vbcast_sends : Sends (.vbcast pd t1 t0) noFlags fun s => toBoth t0 t1 (Val.of (vectorLen (s.vfmt s.sch.cur))
    (lanesFrom (s.vfmt s.sch.cur) fun _ => (portL (s.vfmt s.sch.cur).bits s).toNat)) :=
  sends_of_plainForm (fun f s => both t0 t1 (Val.of (vectorLen (s.vfmt f)) (runLanes (s.vfmt f) (fun _ g =>
    ⟨f.l 4 % 2 ^ (s.vfmt f).bits, 0, g⟩) 0).1)) rfl (fun _ => rfl) fun s => by
      rw [runLanes_plain, ← portL_eq_mod s (n := 4) (vfmt_bits_le s)]
      rfl

/-! ## Reductions (R349) -/

/-- A reduction sends its value and leaves the generator as its draws left it. -/
theorem sendsAfter_of_reduceForm {i : Instr} {o : Fmt → Word → List Nat → Rounded} {r : State → Rounded} (hpd : i.pd = pd)
    (hi : ∀ s, exec i s = s.reduceForm pd t1 t0 o)
    (hr : ∀ s, o (s.vfmt s.sch.cur) (s.rngOf s.sch.cur) ((List.range (laneCount (s.vfmt s.sch.cur))).map (laneL s)) = r s) :
    SendsAfter i (fun s => s.setRng s.sch.cur (r s).rng) (fun s => (r s).flags) fun s => toBoth t0 t1 (Val.of 4 (r s).code) := by
  have hlanes (s : State) : lanesOf (s.vfmt s.sch.cur) (s.sch.cur.l (vectorLen (s.vfmt s.sch.cur))) =
      (List.range (laneCount (s.vfmt s.sch.cur))).map (laneL s) := List.map_congr_left fun i _ => (laneL_eq s i).symm
  intro s hp hsend
  rw [hi, State.reduceForm, State.fire_passed _ _ _ (hpd ▸ hp)]
  dsimp only
  rw [hlanes, hr]
  exact State.finish_ready _ _ _ _ _ hsend

theorem vredSum_sendsAfter : SendsAfter (.vredSum pd t1 t0) (fun s => s.setRng s.sch.cur (Claims.sumOf s).rng) (fun s => (Claims.sumOf s).flags)
    fun s => toBoth t0 t1 (Val.of 4 (Claims.sumOf s).code) := by
  refine sendsAfter_of_reduceForm pd t1 t0 rfl (fun s => show execVredSum pd t1 t0 s = _ from rfl) fun s => ?_
  have hsum (l : List Nat) : l.foldl (fun a c => a + laneInt (s.vfmt s.sch.cur) c) 0 = (l.map (laneInt (s.vfmt s.sch.cur))).sum := by
    rw [List.sum_eq_foldl, List.foldl_map]
  have hsaturate (v : Int) : saturateTo (.int 32 true) v = (BitVec.ofInt 32 (max (-2147483648) (min 2147483647 v))).toNat :=
    wrap_eq_toNat 32 _
  rw [hsum, hsaturate]
  rfl

end

section
variable {n : Nat} {sgn : Bool} (greater : Bool) (g : Word)

/-- Folding the lesser or the greater integer lane ends at an extreme one, without flags. -/
theorem foldl_lanePick_int (l : List Nat) (c : Nat) : ∃ d ∈ c :: l,
    l.foldl (fun (q : Nat × Flags) c => ((lanePick greater (.int n sgn) q.1 c).1, q.2 ||| (lanePick greater (.int n sgn) q.1 c).2)) (c, 0) = (d, 0) ∧
    ∀ e ∈ c :: l, if greater then laneInt (.int n sgn) e ≤ laneInt (.int n sgn) d else laneInt (.int n sgn) d ≤ laneInt (.int n sgn) e := by
  induction l generalizing c with
  | nil => exact ⟨c, List.mem_singleton.mpr rfl, rfl, by cases greater <;> simp⟩
  | cons b l ih =>
    obtain ⟨hmem, hvalue⟩ := lanePick_int n sgn greater c b
    obtain ⟨d, hd, hfold, hbest⟩ := ih (lanePick greater (.int n sgn) c b).1
    have hfirst := hbest _ (List.mem_cons_self ..)
    refine ⟨d, ?member, ?fold, fun e he => ?best⟩
    case member =>
      obtain rfl | htail := List.mem_cons.mp hd
      · obtain h | h := hmem <;> simp [h]
      · exact List.mem_cons_of_mem _ (List.mem_cons_of_mem _ htail)
    case fold =>
      rw [List.foldl_cons, show (0 : Flags) ||| (lanePick greater (.int n sgn) c b).2 = 0 by simp [lanePick, Fmt.isInt]]
      exact hfold
    case best =>
      rw [hvalue] at hfirst
      simp only [List.mem_cons] at he
      obtain rfl | rfl | he := he
      case inr.inr => exact hbest e (List.mem_cons_of_mem _ he)
      all_goals
        cases greater
        all_goals
          simp only [Bool.false_eq_true, if_false, if_true] at hfirst ⊢
          omega

theorem reducePick_int (c : Nat) (l : List Nat) : ∃ d ∈ c :: l,
    (reducePick greater (.int n sgn) g (c :: l)).code = (BitVec.ofInt 32 (laneInt (.int n sgn) d)).toNat ∧
    (reducePick greater (.int n sgn) g (c :: l)).flags = 0 ∧ (reducePick greater (.int n sgn) g (c :: l)).rng = g ∧
    ∀ e ∈ c :: l, if greater then laneInt (.int n sgn) e ≤ laneInt (.int n sgn) d else laneInt (.int n sgn) d ≤ laneInt (.int n sgn) e := by
  obtain ⟨d, hd, hfold, hbest⟩ := foldl_lanePick_int (n := n) (sgn := sgn) greater l c
  refine ⟨d, hd, ?_, ?_, rfl, hbest⟩
  · rw [← wrap_eq_toNat]
    exact congrArg (fun q : Nat × Flags => wrap 32 (laneInt (.int n sgn) q.1)) hfold
  · exact congrArg Prod.snd hfold

theorem reducePick_float {f : Fmt} (hf : f.isInt = false) (c : Nat) (l : List Nat) : (reducePick greater f g (c :: l)).rng = g ∧
    ((reducePick greater f g (c :: l)).code, (reducePick greater f g (c :: l)).flags) =
      l.foldl (fun q d => ((f.pick greater false q.1 d).1, q.2 ||| (f.pick greater false q.1 d).2)) (c, 0) := by
  simp [reducePick, lanePick, hf]

end

/-! ## Conversion (R351) -/

theorem scaledLen_eq (s : State) : scaledLen (s.vfmt s.sch.cur) (s.cell s.sch.cur.cell).fmt.bs = scaledBytes s := by
  rw [scaledLen, scaledBytes, Nat.mul_comm]
  rfl

theorem scaledL_eq (s : State) : scaledL s = s.sch.cur.valL.low (scaledLen (s.vfmt s.sch.cur) (s.cell s.sch.cur.cell).fmt.bs) := by
  rw [scaledL, portL_toNat, scaledLen_eq]
  rfl

theorem sigFlag_single (x : Num) : sigFlag [x] = if x.isSig then flagIV else 0 := by simp [sigFlag]

section
variable (pd : Pd) (t1 t0 : Target)

theorem exec_vcvt {s : State} (hp : s.sch.cur.passes pd = true) : exec (.vcvt pd t1 t0) s =
    if convertsNothing s then s.finish s.sch.cur (both t0 t1 (Val.of 64 (scaledL s))) 0 id
    else s.finish s.sch.cur (both t0 t1 (Val.of (4 * laneCount (s.vfmt s.sch.cur))
        ((List.range (laneCount (s.vfmt s.sch.cur))).foldl (fun a i => a + (convertLane s i).code * 2 ^ (32 * i)) 0)))
      ((List.range (laneCount (s.vfmt s.sch.cur))).foldl (fun a i => a ||| (convertLane s i).flags) 0) id := by
  rw [show exec (.vcvt pd t1 t0) s = execVcvt pd t1 t0 s from rfl, execVcvt, State.fire_passed _ _ _ hp]
  simp only [← scaledL_eq, sigFlag_single, foldl_add_or]
  rfl

/-- FP32 lanes without scales stay as they are. -/
theorem scaledL_of_convertsNothing {s : State} (h : convertsNothing s = true) : scaledL s = (portL 512 s).toNat := by
  obtain ⟨hfmt, hscaled⟩ : s.vfmt s.sch.cur = fp32 ∧ (s.cell s.sch.cur.cell).fmt.bs = false := by simpa [convertsNothing, scaled] using h
  rw [scaledL_eq, hfmt, hscaled]
  exact (portL_toNat s 64).symm

theorem vcvt_sends : Sends (.vcvt pd t1 t0) convertFlags fun s => toBoth t0 t1 (convertValue s) := by
  intro s hp hsend
  dsimp only at hsend ⊢
  rw [exec_vcvt pd t1 t0 hp]
  by_cases h : convertsNothing s = true
  · rw [if_pos h, scaledL_of_convertsNothing h, ← val_bytes 64]
    rw [convertValue, if_pos h] at hsend ⊢
    rw [convertFlags, if_pos h]
    exact State.finish_ready _ _ _ _ _ hsend
  · rw [if_neg h]
    rw [convertValue, if_neg h] at hsend ⊢
    rw [convertFlags, if_neg h]
    exact State.finish_ready _ _ _ _ _ hsend

end

/-! ## Block scales (R350) -/

theorem blockScale_nan (f : Fmt) {l : List Num} (h : l.any Num.isNan = true) : blockScale f l = 0xFF := if_pos h

theorem blockScale_zeros (f : Fmt) {l : List Num} (h : l.any Num.isNan = false) (hzero : ∀ x ∈ l, x.isZero = true ∨ ∃ a, x = .inf a) :
    blockScale f l = 127 := by
  rw [blockScale, if_neg (by simp [h])]
  dsimp only
  split
  case h_1 => rfl
  case h_2 e t hleads =>
    obtain ⟨x, hx, hlead⟩ := List.mem_filterMap.mp (hleads ▸ List.mem_cons_self (a := e) (l := t))
    obtain hx | ⟨a, rfl⟩ := hzero x hx
    · obtain ⟨a, k, rfl⟩ := Num.isZero_iff.mp hx
      simp at hlead
    · simp at hlead

theorem blockScale_le (f : Fmt) {l : List Num} (h : l.any Num.isNan = false) : blockScale f l ≤ 254 := by
  rw [blockScale, if_neg (by simp [h])]
  dsimp only
  split
  · decide
  · omega

/-! ## Quantisation (R352) -/

theorem runLanes_congr {f : Fmt} {o u : Nat → Word → Rounded} (g : Word) (h : ∀ i < laneCount f, o i = u i) :
    runLanes f o g = runLanes f u g :=
  List.foldl_ext _ _ _ fun q i hi => by rw [h i (List.mem_range.mp hi)]

theorem getD_map_range {α : Type} (h : Nat → α) (d : α) {n i : Nat} (hi : i < n) : ((List.range n).map h).getD i d = h i := by
  simp [List.getD_eq_getElem?_getD, hi]

/-- The FP32 lanes of L. -/
theorem wideL_eq (s : State) (i : Nat) :
    wideL s i = fp32.decode (s.sch.cur.l (4 * laneCount (s.vfmt s.sch.cur)) / 2 ^ (32 * i) % 2 ^ 32) := by
  rw [wideL, BitVec.extractLsb'_toNat, Nat.shiftRight_eq_div_pow, show 32 * laneCount (s.vfmt s.sch.cur) = 8 * (4 * laneCount (s.vfmt s.sch.cur)) by omega,
    portL_toNat]

theorem quantLane_eq (s : State) (i : Nat) (g : Word) :
    quantLane (s.vfmt s.sch.cur) (quantScale s (i / 32)) (wideL s i) g = quantLaneOf s i g := by
  rw [quantLane, quantLaneOf, sigFlag_single]
  refine if_congr Iff.rfl rfl ?_
  dsimp only
  split
  · rw [wrap_eq_toNat]
  · rfl

section
variable (s : State)

/-- The lanes, scales and lane results of VQUANT. -/
theorem quant_lanes : (List.range (laneCount (s.vfmt s.sch.cur))).map (fun i =>
    fp32.decode (s.sch.cur.l (4 * laneCount (s.vfmt s.sch.cur)) / 2 ^ (32 * i) % 2 ^ 32)) =
      (List.range (laneCount (s.vfmt s.sch.cur))).map (wideL s) :=
  List.map_congr_left fun i _ => (wideL_eq s i).symm

theorem quant_run : runLanes (s.vfmt s.sch.cur) (fun i g => quantLane (s.vfmt s.sch.cur)
      (((List.range (ceilDiv (laneCount (s.vfmt s.sch.cur)) 32)).map (quantScale s)).getD (i / 32) 127)
      (((List.range (laneCount (s.vfmt s.sch.cur))).map (wideL s)).getD i (.fin false 0 0)) g) (s.rngOf s.sch.cur) = quantRun s := by
  refine runLanes_congr _ fun i hi => funext fun g => ?_
  have hblock : i / 32 < ceilDiv (laneCount (s.vfmt s.sch.cur)) 32 := by
    rw [ceilDiv]
    omega
  rw [getD_map_range _ _ hblock, getD_map_range _ _ hi, quantLane_eq]

end

theorem vquant_sendsAfter (pd : Pd) (t1 t0 : Target) : SendsAfter (.vquant pd t1 t0) (fun s => s.setRng s.sch.cur (quantRun s).2.2)
    (fun s => (quantRun s).2.1) fun s => toBoth t0 t1 (quantValue s) := by
  intro s hp hsend
  have hscales : (List.range (ceilDiv (laneCount (s.vfmt s.sch.cur)) 32)).map (fun j => if (s.cell s.sch.cur.cell).fmt.bs then
      blockScale (s.vfmt s.sch.cur) ((((List.range (laneCount (s.vfmt s.sch.cur))).map (wideL s)).drop (32 * j)).take 32) else 127) =
      (List.range (ceilDiv (laneCount (s.vfmt s.sch.cur)) 32)).map (quantScale s) := rfl
  have hvalue : quantValue s = Val.of (scaledLen (s.vfmt s.sch.cur) (s.cell s.sch.cur.cell).fmt.bs) ((quantRun s).1 +
      (if (s.cell s.sch.cur.cell).fmt.bs then (List.range (ceilDiv (laneCount (s.vfmt s.sch.cur)) 32)).foldl
        (fun a j => a + quantScale s j * 2 ^ (8 * j)) 0 else 0) * 2 ^ (8 * vectorLen (s.vfmt s.sch.cur))) := by
    rw [scaledLen_eq, ite_mul, Nat.zero_mul, Nat.mul_comm]
    rfl
  rw [show exec (.vquant pd t1 t0) s = execVquant pd t1 t0 s from rfl, execVquant,
    State.fire_passed _ _ _ (show s.sch.cur.passes pd = true from hp)]
  simp only [quant_lanes, hscales, quant_run, foldl_bytes]
  dsimp only at hsend ⊢
  rw [hvalue] at hsend ⊢
  exact State.finish_ready _ _ _ _ _ hsend

end Sys2Proof.Machine

section
open Sys2Proof Sys2Proof.Machine Sys2Proof.Claims

/-- Settles O37. That a lane under the scale byte 0xFF is NaN, with IV only where its input signals, is the model's choice (log 33). -/
theorem vectorMasksReductionsConversions : Obligations.VectorMasksReductionsConversions := by
  unfold Obligations.VectorMasksReductionsConversions
  exact ⟨fun pd cc t1 t0 => ⟨vcmp_sends pd t1 t0 cc, vsel_sends t1 t0, vbcast_sends pd t1 t0, vredSum_sendsAfter pd t1 t0,
      sendsAfter_of_reduceForm pd t1 t0 rfl (fun s => rfl) fun s => rfl, sendsAfter_of_reduceForm pd t1 t0 rfl (fun s => rfl) fun s => rfl,
      vcvt_sends pd t1 t0, vquant_sendsAfter pd t1 t0⟩,
    fun n sgn g c l greater => reducePick_int greater g c l, fun f g c l greater hf => reducePick_float greater g hf c l,
    fun f l => ⟨blockScale_nan f, blockScale_zeros f, blockScale_le f⟩⟩

end
end

section
/-!
PROOF of O43. Ray steps (R407 to R409): the codes that an IEEE format gives fit its width, and what each step leaves of its record.
-/

namespace Sys2Proof.Machine

-- Proofs one after another, as in the tests: in parallel they take more memory at once.
set_option Elab.async false

open Claims

/-! ## Codes of an IEEE format (R257) -/

section
variable {eb mb : Nat}

theorem signed_lt (a : Bool) {c : Nat} (h : c < 2 ^ (eb + mb)) : (Fmt.ieee eb mb).signed a c < 2 ^ (1 + eb + mb) := by
  rw [Nat.add_assoc, Nat.add_comm 1, pow_succ, Fmt.signed]
  have hbit := bitOf_lt a
  have hsign : bitOf a * 2 ^ (eb + mb) ≤ 1 * 2 ^ (eb + mb) := Nat.mul_le_mul_right _ (by omega)
  omega

/-- Rounding gives one of the two multiples around the value. -/
theorem roundAt_eq_or (rm : Rm) (a : Bool) (m : Nat) (e q : Int) :
    roundAt rm a m e q = roundAt .rz a m e q ∨ roundAt rm a m e q = roundAt .rz a m e q + 1 := by
  by_cases h : q ≤ e
  · simp [roundAt, h]
  · cases rm
    all_goals
      simp only [roundAt, h, if_false, roundShift]
      split_ifs <;> simp

theorem maxCode_lt (heb : 2 ≤ eb) : (Fmt.ieee eb mb).maxCode + 1 < 2 ^ (eb + mb) := by
  have hfour := four_le_two_pow heb
  have hpos : 0 < 2 ^ mb := by positivity
  calc (Fmt.ieee eb mb).maxCode + 1 = (2 ^ eb - 1) * 2 ^ mb := Nat.sub_add_cancel (Nat.mul_pos (by omega) hpos)
    _ < 2 ^ eb * 2 ^ mb := Nat.mul_lt_mul_of_pos_right (by omega) hpos
    _ = 2 ^ (eb + mb) := (pow_add ..).symm

/-- The code of a rounded value that is not beyond the greatest number. -/
theorem rounded_lt (heb : 2 ≤ eb) (rm : Rm) (a : Bool) {m : Nat} (hm : m ≠ 0) {e : Int} {q : Int} (hq : (Fmt.ieee eb mb).lastBit m e = q)
    (h : lessAt (Fmt.ieee eb mb).maxNum.1 (Fmt.ieee eb mb).maxNum.2 (roundAt rm a m e q) q = false) :
    (q - (Fmt.ieee eb mb).qmin).toNat * 2 ^ mb + roundAt rm a m e q < 2 ^ (eb + mb) := by
  subst hq
  have hfour := four_le_two_pow heb
  have hpos : 0 < 2 ^ mb := by positivity
  have hcut := roundAt_lastBit_lt (eb := eb) (mb := mb) a m e
  have hlead := le_roundAt_lastBit (eb := eb) (mb := mb) a hm (e := e)
  have hmin : (Fmt.ieee eb mb).qmin ≤ (Fmt.ieee eb mb).lastBit m e := le_max_right _ _
  have hround := roundAt_eq_or rm a m e ((Fmt.ieee eb mb).lastBit m e)
  have hstep : ((Fmt.ieee eb mb).lastBit m e - (Fmt.ieee eb mb).qmin).toNat ≤ 2 ^ eb - 3 := by
    by_contra hd
    rw [lessAt_eq_false_iff, maxNum_ieee heb] at h
    have hbit := hlead (by omega)
    exact absurd h (not_le.mpr (magnitude_lt_of_exp_lt (b := mb) (by rw [pow_succ]; omega) (by omega) (by omega)))
  calc _ ≤ (2 ^ eb - 3) * 2 ^ mb + 2 * 2 ^ mb := Nat.add_le_add (Nat.mul_le_mul_right _ hstep) (by rw [pow_succ] at hcut; omega)
    _ = (2 ^ eb - 1) * 2 ^ mb := by rw [← Nat.add_mul]; congr 1; omega
    _ < 2 ^ eb * 2 ^ mb := Nat.mul_lt_mul_of_pos_right (by omega) hpos
    _ = 2 ^ (eb + mb) := (pow_add ..).symm

theorem roundIeee_lt (heb : 2 ≤ eb) (rm : Rm) (a : Bool) {m : Nat} (hm : m ≠ 0) (e : Int) :
    (roundIeee (.ieee eb mb) rm a m e).1 < 2 ^ (1 + eb + mb) := by
  have hmax := maxCode_lt (mb := mb) heb
  by_cases h : lessAt (Fmt.ieee eb mb).maxNum.1 (Fmt.ieee eb mb).maxNum.2 (roundAt rm a m e ((Fmt.ieee eb mb).lastBit m e))
      ((Fmt.ieee eb mb).lastBit m e) = true
  · rw [Fmt.lastBit] at h
    simp only [roundIeee, h, if_true]
    refine signed_lt a ?_
    split_ifs <;> omega
  · rw [Bool.not_eq_true] at h
    rw [(roundIeee_inRange _ rm a h).1]
    exact signed_lt a (rounded_lt heb rm a hm rfl h)

/-- Every number given in an IEEE format has a code of its width. -/
theorem give_lt (heb : 2 ≤ eb) (rm : Rm) (x : Num) (g : Word) : ((Fmt.ieee eb mb).give rm x g).code < 2 ^ (1 + eb + mb) := by
  cases x with
  | nan s =>
    calc (2 ^ (eb + 1) - 1) * 2 ^ (mb - 1) < 2 ^ (eb + 1) * 2 ^ (mb - 1) :=
          Nat.mul_lt_mul_of_pos_right (Nat.sub_lt (by positivity) one_pos) (by positivity)
      _ = 2 ^ (eb + 1 + (mb - 1)) := (pow_add ..).symm
      _ ≤ 2 ^ (1 + eb + mb) := Nat.pow_le_pow_right two_pos (by omega)
  | inf a => exact signed_lt a (maxCode_lt heb)
  | fin a m e =>
    by_cases hm : m = 0
    · simpa only [Fmt.give, hm, if_true] using signed_lt a (by positivity)
    · simpa only [Fmt.give, hm, if_false] using roundIeee_lt heb rm a hm e

end

theorem fp32_give_lt (rm : Rm) (x : Num) (g : Word) : (fp32.give rm x g).code < 2 ^ 32 := give_lt (by decide) rm x g

theorem dot32_lt (l : List (Num × Num)) : (dot32 l).1 < 2 ^ 32 := by
  have hnan : fp32.nanCode < 2 ^ 32 := by decide
  unfold dot32
  dsimp only
  split
  · exact hnan
  · split
    · exact hnan
    · exact fp32_give_lt ..

theorem quotient32_lt (a b : Int) : quotient32 a b < 2 ^ 32 := by
  unfold quotient32
  split
  · decide
  · exact fp32_give_lt ..

theorem slabBound_lt (b org dir : Nat) : slabBound b org dir < 2 ^ 32 := by
  have hgiven (q : Num) : (if q.isNan then (Config.infQuotient (BitVec.ofNat 32 b) (BitVec.ofNat 32 org) (BitVec.ofNat 32 dir)).toNat
      else (fp32.give .rn q 0).code) < 2 ^ 32 := by
    split
    · exact BitVec.isLt _
    · exact fp32_give_lt ..
  exact hgiven _

/-- The lesser and the greater of two codes are one of them or NaN. -/
theorem pick32_lt (greater : Bool) {a b : Nat} (ha : a < 2 ^ 32) (hb : b < 2 ^ 32) : (fp32.pick greater false a b).1 < 2 ^ 32 := by
  have hnan : fp32.nanCode < 2 ^ 32 := by decide
  simp only [Fmt.pick, Bool.false_and, Bool.false_eq_true, if_false]
  split_ifs <;> assumption

/-- A NaN among the factors gives NaN. -/
theorem dot32_nan {l : List (Num × Num)} (h : ∃ p ∈ l, p.1.isNan = true ∨ p.2.isNan = true) : (dot32 l).1 = 0x7FC00000 := by
  have hany : (l.flatMap fun q => [q.1, q.2]).any Num.isNan = true := by
    obtain ⟨p, hp, hnan⟩ := h
    obtain hnan | hnan := hnan
    · exact List.any_eq_true.mpr ⟨p.1, List.mem_flatMap.mpr ⟨p, hp, by simp⟩, hnan⟩
    · exact List.any_eq_true.mpr ⟨p.2, List.mem_flatMap.mpr ⟨p, hp, by simp⟩, hnan⟩
  simp only [dot32, hany, if_true]
  decide

/-! ## Numbers of the operands -/

section
variable (s : State)

theorem num32_ray (i : Nat) : num32 (s.sch.cur.l 64) (4 * i) = rayNum s i := by
  rw [num32, word32_portL, rayNum, ← Nat.mul_assoc]

theorem num32_box (i : Nat) : num32 (s.sch.cur.r 24) (4 * i) = boxNum s i := by
  rw [num32, word32_portR, boxNum, ← Nat.mul_assoc]

theorem num32_entry (i j : Nat) : num32 (s.sch.cur.r 48) (16 * i + 4 * j) = entryOf s i j := by
  rw [num32, word32_portR, entryOf, Nat.mul_add, ← Nat.mul_assoc, ← Nat.mul_assoc]

end

/-! ## RAYXF (R407) -/

theorem ofElems_lt (l : List Nat) : ofElems l < 2 ^ (32 * l.length) := by
  induction l with
  | nil => decide
  | cons x l ih =>
    rw [List.length_cons, Nat.mul_succ, Nat.add_comm, pow_add]
    change x % 2 ^ 32 + 2 ^ 32 * ofElems l < _
    have := Nat.mul_le_mul_left (2 ^ 32) (Nat.succ_le_of_lt ih)
    omega

/-- Word i of a list of words, also under what is packed above them. -/
theorem ofElems_word (l : List Nat) (u : Nat) {i : Nat} (hi : i < l.length) :
    (ofElems l + u * 2 ^ (32 * l.length)) / 2 ^ (32 * i) % 2 ^ 32 = l[i] % 2 ^ 32 := by
  induction l generalizing i with
  | nil => exact absurd hi (Nat.not_lt_zero i)
  | cons x l ih =>
    have hcons : ofElems (x :: l) + u * 2 ^ (32 * (x :: l).length) =
        x % 2 ^ 32 + 2 ^ 32 * (ofElems l + u * 2 ^ (32 * l.length)) := by
      rw [List.length_cons, Nat.mul_succ, pow_add]
      simp only [ofElems, List.foldr_cons]
      ring
    rw [hcons]
    cases i with
    | zero => simp
    | succ i =>
      rw [Nat.mul_succ, Nat.add_comm (32 * i), pow_add, ← Nat.div_div_eq_div_mul, Nat.add_mul_div_left _ _ (by positivity),
        Nat.div_eq_of_lt (Nat.mod_lt _ (by positivity)), Nat.zero_add]
      exact ih (Nat.lt_of_succ_lt_succ hi)

/-- The origin and the direction of RAYXF, with their flags. -/
def raysOf (s : State) : List (Nat × Flags) :=
  [dot32 [(entryOf s 0 0, rayNum s 0), (entryOf s 0 1, rayNum s 1), (entryOf s 0 2, rayNum s 2), (entryOf s 0 3, fp32.decode 0x3F800000)],
    dot32 [(entryOf s 1 0, rayNum s 0), (entryOf s 1 1, rayNum s 1), (entryOf s 1 2, rayNum s 2), (entryOf s 1 3, fp32.decode 0x3F800000)],
    dot32 [(entryOf s 2 0, rayNum s 0), (entryOf s 2 1, rayNum s 1), (entryOf s 2 2, rayNum s 2), (entryOf s 2 3, fp32.decode 0x3F800000)],
    dot32 [(entryOf s 0 0, rayNum s 3), (entryOf s 0 1, rayNum s 4), (entryOf s 0 2, rayNum s 5)],
    dot32 [(entryOf s 1 0, rayNum s 3), (entryOf s 1 1, rayNum s 4), (entryOf s 1 2, rayNum s 5)],
    dot32 [(entryOf s 2 0, rayNum s 3), (entryOf s 2 1, rayNum s 4), (entryOf s 2 2, rayNum s 5)]]

/-- The record that RAYXF sends. -/
def rayxfOf (s : State) : Nat := ofElems ((raysOf s).map Prod.fst) + s.sch.cur.l 64 / 2 ^ 192 * 2 ^ 192

theorem pack_lt {x h a b : Nat} (hx : x < 2 ^ a) (hh : h < 2 ^ b) : x + h * 2 ^ a < 2 ^ (b + a) :=
  calc x + h * 2 ^ a < (h + 1) * 2 ^ a := by rw [Nat.succ_mul]; omega
    _ ≤ 2 ^ b * 2 ^ a := Nat.mul_le_mul_right _ hh
    _ = 2 ^ (b + a) := (pow_add ..).symm

theorem rayxfOf_lt (s : State) : rayxfOf s < 2 ^ 512 := by
  have hray : s.sch.cur.l 64 < 2 ^ 192 * 2 ^ 320 := by
    rw [← portL_toNat s 64, ← pow_add]
    exact BitVec.isLt _
  rw [show 512 = 320 + 192 from rfl]
  exact pack_lt (ofElems_lt _) (Nat.div_lt_of_lt_mul hray)

theorem rayxfOf_high (s : State) : rayxfOf s / 2 ^ 192 = s.sch.cur.l 64 / 2 ^ 192 := by
  have hwords : ofElems ((raysOf s).map Prod.fst) < 2 ^ 192 := ofElems_lt _
  rw [rayxfOf]
  omega

theorem rayxfOf_word (s : State) {i : Nat} (hi : i < 6) : rayxfOf s / 2 ^ (32 * i) % 2 ^ 32 = ((raysOf s).map Prod.fst)[i] := by
  have hword := ofElems_word ((raysOf s).map Prod.fst) (s.sch.cur.l 64 / 2 ^ 192) (i := i) hi
  refine hword.trans (Nat.mod_eq_of_lt ?_)
  interval_cases i <;> exact dot32_lt _

section
variable (pd : Pd) (t1 t0 : Target) {s : State} (hp : s.sch.cur.passes pd = true)
include hp

theorem exec_rayxf : exec (.rayxf pd t1 t0) s =
    s.finish s.sch.cur (both t0 t1 (Val.of 64 (rayxfOf s))) ((raysOf s).foldl (fun a q => a ||| q.2) 0) id := by
  rw [show exec (.rayxf pd t1 t0) s = execRayxf pd t1 t0 s from rfl, execRayxf, State.fire_passed _ _ _ hp]
  have h0 : num32 (s.sch.cur.l 64) 0 = rayNum s 0 := num32_ray s 0
  have h1 : num32 (s.sch.cur.l 64) 4 = rayNum s 1 := num32_ray s 1
  have h2 : num32 (s.sch.cur.l 64) 8 = rayNum s 2 := num32_ray s 2
  have h3 : num32 (s.sch.cur.l 64) 12 = rayNum s 3 := num32_ray s 3
  have h4 : num32 (s.sch.cur.l 64) 16 = rayNum s 4 := num32_ray s 4
  have h5 : num32 (s.sch.cur.l 64) 20 = rayNum s 5 := num32_ray s 5
  simp only [num32_entry, h0, h1, h2, h3, h4, h5]
  rfl

theorem rayxf_sends (hsend : s.canSend s.sch.cur (toBoth t0 t1 (Val.of 64 0)) = true) : ∃ (fl : Flags) (v : BitVec 512),
    exec (.rayxf pd t1 t0) s = .next ((s.raise s.sch.cur fl).sendAll s.sch.cur s.sch.cur.acc.tag false (toBoth t0 t1 (val v))) ∧
    v.extractLsb' 192 320 = (portL 512 s).extractLsb' 192 320 ∧
    ∀ i : Nat, i < 3 →
      (v.extractLsb' (32 * i) 32).toNat = (dot32 [(entryOf s i 0, rayNum s 0), (entryOf s i 1, rayNum s 1), (entryOf s i 2, rayNum s 2),
        (entryOf s i 3, fp32.decode 0x3F800000)]).1 ∧
      (v.extractLsb' (96 + 32 * i) 32).toNat =
        (dot32 [(entryOf s i 0, rayNum s 3), (entryOf s i 1, rayNum s 4), (entryOf s i 2, rayNum s 5)]).1 := by
  have hv : (BitVec.ofNat 512 (rayxfOf s)).toNat = rayxfOf s := by rw [BitVec.toNat_ofNat, Nat.mod_eq_of_lt (rayxfOf_lt s)]
  refine ⟨(raysOf s).foldl (fun a q => a ||| q.2) 0, BitVec.ofNat 512 (rayxfOf s), ?_, ?_, fun i hi => ⟨?_, ?_⟩⟩
  · rw [exec_rayxf pd t1 t0 hp, val_bytes 64, hv]
    exact State.finish_ready _ _ _ _ _ (State.canSend_both _ rfl hsend)
  · apply BitVec.eq_of_toNat_eq
    rw [BitVec.extractLsb'_toNat, BitVec.extractLsb'_toNat, hv, Nat.shiftRight_eq_div_pow, Nat.shiftRight_eq_div_pow, rayxfOf_high,
      ← portL_toNat s 64]
  · rw [BitVec.extractLsb'_toNat, hv, Nat.shiftRight_eq_div_pow, rayxfOf_word s (show i < 6 by omega)]
    interval_cases i <;> rfl
  · rw [BitVec.extractLsb'_toNat, hv, Nat.shiftRight_eq_div_pow, show 96 + 32 * i = 32 * (i + 3) by omega,
      rayxfOf_word s (show i + 3 < 6 by omega)]
    interval_cases i <;> rfl

end

/-! ## RAYBOX (R408) -/

section
variable (v box a : Nat) (q : Nat × Nat × Bool)

/-- A miss stays, and a box with its least above its greatest on an axis is one. -/
theorem slab_miss (h : q.2.2 = true ∨ (fp32.decode (word32 box (12 + 4 * a))).lt (fp32.decode (word32 box (4 * a))) = true) :
    (slab v box a q).2.2 = true := by
  simp only [slab]
  split
  · rfl
  next hle =>
    have hq : q.2.2 = true := h.resolve_right hle
    split
    · simp [hq]
    · exact hq

theorem slab_lt (hq : q.1 < 2 ^ 32) : (slab v box a q).1 < 2 ^ 32 := by
  simp only [slab]
  split
  · exact hq
  · split
    · exact hq
    · refine pick32_lt true hq ?_
      split <;> exact slabBound_lt ..

end

/-- Whether an input of RAYBOX is NaN. -/
def boxBad (s : State) : Bool :=
  (List.range 8).any (fun i => (num32 (s.sch.cur.l 64) (4 * i)).isNan) || (List.range 6).any fun i => (num32 (s.sch.cur.r 24) (4 * i)).isNan

/-- RAYBOX's t_enter, t_exit and miss. -/
def boxSlabs (s : State) : Nat × Nat × Bool :=
  slab (s.sch.cur.l 64) (s.sch.cur.r 24) 2 (slab (s.sch.cur.l 64) (s.sch.cur.r 24) 1 (slab (s.sch.cur.l 64) (s.sch.cur.r 24) 0
    (word32 (s.sch.cur.l 64) 24, word32 (s.sch.cur.l 64) 28, boxBad s)))

theorem boxSlabs_lt (s : State) : (boxSlabs s).1 < 2 ^ 32 :=
  slab_lt _ _ _ _ (slab_lt _ _ _ _ (slab_lt _ _ _ _ (Nat.mod_lt _ (by positivity))))

theorem boxSlabs_miss {s : State} (h : (∃ i, i < 8 ∧ (rayNum s i).isNan = true) ∨ (∃ i, i < 6 ∧ (boxNum s i).isNan = true) ∨
    (∃ i, i < 3 ∧ (boxNum s (i + 3)).lt (boxNum s i) = true)) : (boxSlabs s).2.2 = true := by
  obtain ⟨i, hi, hnan⟩ | ⟨i, hi, hnan⟩ | ⟨i, hi, hlt⟩ := h
  case inl =>
    have hbad : boxBad s = true := Bool.or_eq_true_iff.mpr <| .inl <|
      List.any_eq_true.mpr ⟨i, List.mem_range.mpr hi, (num32_ray s i).symm ▸ hnan⟩
    exact slab_miss _ _ _ _ (.inl (slab_miss _ _ _ _ (.inl (slab_miss _ _ _ _ (.inl hbad)))))
  case inr.inl =>
    have hbad : boxBad s = true := Bool.or_eq_true_iff.mpr <| .inr <|
      List.any_eq_true.mpr ⟨i, List.mem_range.mpr hi, (num32_box s i).symm ▸ hnan⟩
    exact slab_miss _ _ _ _ (.inl (slab_miss _ _ _ _ (.inl (slab_miss _ _ _ _ (.inl hbad)))))
  case inr.inr =>
    rw [← num32_box, ← num32_box, Nat.mul_add, Nat.add_comm] at hlt
    interval_cases i
    · exact slab_miss _ _ _ _ (.inl (slab_miss _ _ _ _ (.inl (slab_miss _ _ _ _ (.inr hlt)))))
    · exact slab_miss _ _ _ _ (.inl (slab_miss _ _ _ _ (.inr hlt)))
    · exact slab_miss _ _ _ _ (.inr hlt)

/-- The value of RAYBOX: t_enter with HIT, or +Inf. -/
def rayboxOf (s : State) : Nat :=
  if !(boxSlabs s).2.2 && le32 (boxSlabs s).1 (boxSlabs s).2.1 then (boxSlabs s).1 + 2 ^ 32 else 0x7F800000

theorem rayboxOf_cases (s : State) : rayboxOf s = 0x7F800000 ∨ (2 ^ 32 ≤ rayboxOf s ∧ rayboxOf s < 2 ^ 33 ∧ (boxSlabs s).2.2 = false) := by
  have hlt := boxSlabs_lt s
  unfold rayboxOf
  split
  next h =>
    have hmiss : (boxSlabs s).2.2 = false := by simpa using (Bool.and_eq_true_iff.mp h).1
    exact .inr ⟨by omega, by omega, hmiss⟩
  next => exact .inl rfl

section
variable (pd : Pd) (t1 t0 : Target) {s : State} (hp : s.sch.cur.passes pd = true)
include hp

theorem exec_raybox : exec (.raybox pd t1 t0) s = s.finish s.sch.cur (both t0 t1 (Val.of 8 (rayboxOf s))) 0 id := by
  rw [show exec (.raybox pd t1 t0) s = execRaybox pd t1 t0 s from rfl, execRaybox, State.fire_passed _ _ _ hp]
  rfl

theorem raybox_sends (hsend : s.canSend s.sch.cur (toBoth t0 t1 (Val.of 8 0)) = true) : ∃ v : BitVec 64,
    exec (.raybox pd t1 t0) s = .next ((s.raise s.sch.cur 0).sendAll s.sch.cur s.sch.cur.acc.tag false (toBoth t0 t1 (val v))) ∧
    v.extractLsb' 33 31 = 0 ∧ (v.getLsbD 32 = false → v = 0x7F800000) ∧
    ((∃ i, i < 8 ∧ (rayNum s i).isNan = true) ∨ (∃ i, i < 6 ∧ (boxNum s i).isNan = true) ∨
      (∃ i, i < 3 ∧ (boxNum s (i + 3)).lt (boxNum s i) = true) → v = 0x7F800000) := by
  have hcases := rayboxOf_cases s
  have hv : (BitVec.ofNat 64 (rayboxOf s)).toNat = rayboxOf s := by
    rw [BitVec.toNat_ofNat]
    omega
  have hinf (h : rayboxOf s = 0x7F800000) : BitVec.ofNat 64 (rayboxOf s) = 0x7F800000 := by rw [h]; rfl
  refine ⟨BitVec.ofNat 64 (rayboxOf s), ?_, ?_, fun hbit => hinf ?_, fun hmiss => hinf ?_⟩
  · rw [exec_raybox pd t1 t0 hp, val_bytes 8, hv]
    exact State.finish_ready _ _ _ _ _ (State.canSend_both _ rfl hsend)
  · rw [← toNat_eq_zero_iff, BitVec.extractLsb'_toNat, hv, Nat.shiftRight_eq_div_pow]
    omega
  · rw [← BitVec.testBit_toNat, hv, Nat.testBit_eq_decide_div_mod_eq, decide_eq_false_iff_not] at hbit
    omega
  · exact hcases.resolve_right fun ⟨_, _, h⟩ => absurd (boxSlabs_miss hmiss) (by simp [h])

end

/-! ## RAYTRI (R409) -/

theorem raytri_sends (pd : Pd) (t1 t0 : Target) {s : State} (hp : s.sch.cur.passes pd = true)
    (hsend : s.canSend s.sch.cur (toBoth t0 t1 (Val.of 64 0)) = true) : exec (.raytri pd t1 t0) s =
    .next ((s.raise s.sch.cur 0).sendAll s.sch.cur s.sch.cur.acc.tag false
      (toBoth t0 t1 (Val.of 64 (rayTri (portL 512 s).toNat (portR 320 s).toNat)))) := by
  rw [show exec (.raytri pd t1 t0) s = execRaytri pd t1 t0 s from rfl, execRaytri, State.fire_passed _ _ _ hp,
    show (portL 512 s).toNat = _ from portL_toNat s 64, show (portR 320 s).toNat = _ from portR_toNat s 40]
  exact State.finish_ready _ _ _ _ _ (State.canSend_both _ rfl hsend)

section
variable (v tri : Nat)

/-- A hit at t is nearer than the record's: before its TMAX, or at it with a lesser PRIM. -/
def nearer (t : Nat) : Bool := (fp32.decode t).lt (num32 v 28) || ((fp32.decode t).eqv (num32 v 28) && decide (word32 tri 36 < word32 v 32))

/-- A record after a hit at t with barycentrics a and b. -/
def hitRecord (t a b : Nat) : Nat :=
  v % 2 ^ 224 + (t + word32 tri 36 * 2 ^ 32 + a * 2 ^ 64 + b * 2 ^ 96) * 2 ^ 224 + v / 2 ^ 352 * 2 ^ 352

/-- Whether an input bars a hit: one that is not finite, or a TMAX that is NaN. -/
def rayBarred : Bool :=
  !((List.range 7).map (fun i => num32 v (4 * i)) ++ (List.range 9).map (fun i => num32 tri (4 * i))).all Num.isFin || (num32 v 28).isNan

theorem rayTri_eq : ∃ (missed : Bool) (t u w d : Int), rayTri v tri =
    if rayBarred v tri then v else if missed || !nearer v tri (quotient32 t d) then v
    else hitRecord v tri (quotient32 t d) (quotient32 u d) (quotient32 w d) := ⟨_, _, _, _, _, rfl⟩

theorem rayTri_cases : rayTri v tri = v ∨ (rayBarred v tri = false ∧
    ∃ t a b, t < 2 ^ 32 ∧ a < 2 ^ 32 ∧ b < 2 ^ 32 ∧ nearer v tri t = true ∧ rayTri v tri = hitRecord v tri t a b) := by
  obtain ⟨missed, t, u, w, d, h⟩ := rayTri_eq v tri
  rw [h]
  split
  next => exact .inl rfl
  next hfree =>
    split
    next => exact .inl rfl
    next hhit =>
      have hnear : nearer v tri (quotient32 t d) = true := by simpa using (not_or.mp (mt Bool.or_eq_true_iff.mpr hhit)).2
      exact .inr ⟨by simpa using hfree, _, _, _, quotient32_lt .., quotient32_lt .., quotient32_lt .., hnear, rfl⟩

theorem rayBarred_of (h : (∃ i, i < 7 ∧ (num32 v (4 * i)).isFin = false) ∨ (∃ i, i < 9 ∧ (num32 tri (4 * i)).isFin = false) ∨
    (num32 v 28).isNan = true) : rayBarred v tri = true := by
  refine Bool.or_eq_true_iff.mpr ?_
  obtain ⟨i, hi, hfin⟩ | ⟨i, hi, hfin⟩ | hnan := h
  · refine .inl ?_
    rw [Bool.not_eq_true', List.all_eq_false]
    exact ⟨_, List.mem_append_left _ (List.mem_map_of_mem (List.mem_range.mpr hi)), by simp [hfin]⟩
  · refine .inl ?_
    rw [Bool.not_eq_true', List.all_eq_false]
    exact ⟨_, List.mem_append_right _ (List.mem_map_of_mem (List.mem_range.mpr hi)), by simp [hfin]⟩
  · exact .inr hnan

section
variable {t a b : Nat} (ht : t < 2 ^ 32) (ha : a < 2 ^ 32) (hb : b < 2 ^ 32)
include ht ha hb

/-- The fields of a record after a hit: TMAX and PRIM are the hit's, and what lies outside TMAX, PRIM, U and V stays. -/
theorem hitRecord_fields : hitRecord v tri t a b % 2 ^ 224 = v % 2 ^ 224 ∧ hitRecord v tri t a b / 2 ^ 352 = v / 2 ^ 352 ∧
    word32 (hitRecord v tri t a b) 28 = t ∧ word32 (hitRecord v tri t a b) 32 = word32 tri 36 := by
  have hprim : word32 tri 36 < 2 ^ 32 := Nat.mod_lt _ (by positivity)
  change _ ∧ _ ∧ hitRecord v tri t a b / 2 ^ 224 % 2 ^ 32 = t ∧ hitRecord v tri t a b / 2 ^ 256 % 2 ^ 32 = word32 tri 36
  rw [hitRecord]
  refine ⟨?_, ?_, ?_, ?_⟩ <;> omega

end

theorem rayTri_keeps : rayTri v tri % 2 ^ 224 = v % 2 ^ 224 ∧ rayTri v tri / 2 ^ 352 = v / 2 ^ 352 := by
  obtain h | ⟨-, t, a, b, ht, ha, hb, -, h⟩ := rayTri_cases v tri
  · rw [h]
    exact ⟨rfl, rfl⟩
  · obtain ⟨hlow, hhigh, -, -⟩ := hitRecord_fields v tri ht ha hb
    rw [h]
    exact ⟨hlow, hhigh⟩

theorem rayTri_nearest : rayTri v tri = v ∨ (num32 (rayTri v tri) 28).lt (num32 v 28) = true ∨
    ((num32 (rayTri v tri) 28).eqv (num32 v 28) = true ∧ word32 (rayTri v tri) 32 < word32 v 32) := by
  refine (rayTri_cases v tri).imp_right fun ⟨_, t, a, b, ht, ha, hb, hnear, h⟩ => ?_
  obtain ⟨-, -, htmax, hprim⟩ := hitRecord_fields v tri ht ha hb
  rw [h, hprim, num32, htmax]
  simpa [nearer] using hnear

theorem rayTri_barred (h : rayBarred v tri = true) : rayTri v tri = v :=
  (rayTri_cases v tri).resolve_right fun ⟨hfree, _⟩ => absurd h (by simp [hfree])

end

end Sys2Proof.Machine

section
open Sys2Proof Sys2Proof.Machine Sys2Proof.Claims

/-- Settles O43. That an infinite TMAX bounds nothing is the model's choice (log 21). -/
theorem raySteps : Obligations.RaySteps := by
  unfold Obligations.RaySteps
  exact ⟨fun pd t1 t0 s hp => ⟨fun hsend => ⟨rayxf_sends pd t1 t0 hp hsend, raytri_sends pd t1 t0 hp hsend⟩, raybox_sends pd t1 t0 hp⟩,
    fun v tri _ => ⟨(rayTri_keeps v tri).1, (rayTri_keeps v tri).2, fun h => rayTri_barred v tri (rayBarred_of v tri h), rayTri_nearest v tri⟩,
    fun l => dot32_nan⟩

end
end

section
/-!
PROOF of O44. Sequence stamps and BLEND (R411 to R414): the counter that a locator names, what its instructions send, and the bytes that
BLEND writes.
-/

namespace Sys2Proof.Machine

-- Proofs one after another, as in the tests: in parallel they take more memory at once.
set_option Elab.async false

open Claims

/-! ## Locators (R411) -/

theorem descriptor_toNat (s : State) : s.sch.cur.r 4 = (portR 32 s).toNat := (portR_toNat s 4).symm

/-- The locator of BLEND, behind the source pixels. -/
theorem locator_toNat (s : State) : word32 (s.sch.cur.r 136) 128 = ((portR 1088 s).extractLsb' 1024 32).toNat := word32_portR s 136 128

theorem locatorOk_of_malformed {l : Nat} (h : l / 32 % 8 ≠ 0 ∨ l / 65536 % 65536 ≠ 0 ∨ 8 < l / 256 % 256) : locatorOk l = false := by
  simp only [locatorOk, Bool.and_eq_false_iff, decide_eq_false_iff_not]
  change (l / 32 % 8 ≠ 0 ∨ l / 65536 % 65536 ≠ 0) ∨ ¬ l / 256 % 256 ≤ 8
  omega

theorem Cell.seqAt_malformed (c : Cell) {l : Nat} (k : Nat) (h : locatorOk l = false) : c.seqAt l k = none := by simp [Cell.seqAt, h]

theorem Cell.bufferAt_malformed (c : Cell) {l : Nat} (k : Nat) (h : locatorOk l = false) : c.bufferAt l k = none := by simp [Cell.bufferAt, h]

/-! ## Bytes of a bank -/

/-- A cell that differs from another in the bytes of its banks alone. -/
def Cell.BytesOnly (c d : Cell) : Prop := d = { c with bytes := d.bytes }

theorem Cell.BytesOnly.bankWrite {c d : Cell} (h : c.BytesOnly d) (bank a : Nat) (bs : List Byte) : c.BytesOnly (d.bankWrite bank a bs) := by
  rw [h]
  rfl

/-- Blending pixels changes bytes alone. -/
theorem Cell.BytesOnly.blend (bank a q src : Nat) (l : List Nat) {c d : Cell} (fl : Flags) (h : c.BytesOnly d) :
    c.BytesOnly (l.foldl (fun (x : Cell × Flags) i =>
      ((x.1.blendPixel bank a q src i).1, x.2 ||| (x.1.blendPixel bank a q src i).2)) (d, fl)).1 := by
  induction l generalizing d fl with
  | nil => exact h
  | cons i l ih => exact ih _ (h.bankWrite ..)

/-! ## The instructions (R412 to R414) -/

section
variable (pd : Pd) (t1 t0 : Target) {s : State} (hp : s.sch.cur.passes pd = true)
include hp

theorem seqget_traps (h : (s.cell s.sch.cur.cell).seqAt (portR 32 s).toNat ((portL 32 s).extractLsb' 0 19).toNat = none) :
    exec (.seqget pd t1 t0) s = .next (trapWith s 0x3FFB (portR 32 s).toNat) := by
  rw [show exec (.seqget pd t1 t0) s = execSeqget pd t1 t0 s from rfl, execSeqget, State.fire_passed _ _ _ hp]
  dsimp only
  rw [bits_wordL s 18 0 19 rfl, descriptor_toNat, h]
  exact s.takeTrap_with (by decide) (by omega)

theorem exec_seqget {j a : Nat}
    (h : (s.cell s.sch.cur.cell).seqAt (portR 32 s).toNat ((portL 32 s).extractLsb' 0 19).toNat = some (j, a)) :
    exec (.seqget pd t1 t0) s =
      if (s.cell s.sch.cur.cell).tileReady j = false then .next (s.putBack s.sch.cur)
      else s.finish s.sch.cur (toBoth t0 t1 (Val.of 4 ((s.cell s.sch.cur.cell).bankRead ((s.cell s.sch.cur.cell).tile j).bank.toNat a 4 % 2 ^ 24))) 0
        fun u => u.updCell s.sch.cur.cell fun c => c.bankWrite ((s.cell s.sch.cur.cell).tile j).bank.toNat a
          (toBytes 3 (((s.cell s.sch.cur.cell).bankRead ((s.cell s.sch.cur.cell).tile j).bank.toNat a 4 % 2 ^ 24 + 1) % 2 ^ 24)) := by
  rw [show exec (.seqget pd t1 t0) s = execSeqget pd t1 t0 s from rfl, execSeqget, State.fire_passed _ _ _ hp]
  dsimp only
  rw [bits_wordL s 18 0 19 rfl, descriptor_toNat, h, Nat.mod_add_mod]
  exact if_congr (by simp) rfl rfl

theorem seqwait_traps (h : (s.cell s.sch.cur.cell).bufferAt (portR 32 s).toNat ((portL 64 s).extractLsb' 0 19).toNat = none) :
    exec (.seqwait pd t1 t0) s = .next (trapWith s 0x3FFB (portR 32 s).toNat) := by
  rw [show exec (.seqwait pd t1 t0) s = execSeqwait pd t1 t0 s from rfl, execSeqwait, State.fire_passed _ _ _ hp]
  dsimp only
  rw [bits_portL s 18 0 19 rfl, descriptor_toNat, h]
  exact s.takeTrap_with (by decide) (by omega)

theorem exec_seqwait {j a : Nat}
    (h : (s.cell s.sch.cur.cell).bufferAt (portR 32 s).toNat ((portL 64 s).extractLsb' 0 19).toNat = some (j, a)) :
    exec (.seqwait pd t1 t0) s =
      if (s.cell s.sch.cur.cell).tileReady j = false ∨ (s.cell s.sch.cur.cell).quadCounter ((s.cell s.sch.cur.cell).tile j).bank.toNat a
          ((portL 64 s).extractLsb' 36 4).toNat ≠ ((portL 64 s).extractLsb' 40 24).toNat then .next (s.putBack s.sch.cur)
      else s.finish s.sch.cur (toBoth t0 t1 (val (portL 64 s))) 0 id := by
  rw [show exec (.seqwait pd t1 t0) s = execSeqwait pd t1 t0 s from rfl, execSeqwait, State.fire_passed _ _ _ hp]
  dsimp only
  rw [bits_portL s 18 0 19 rfl, bits_portL s 39 36 4 rfl, bits_portL s 63 40 24 rfl, descriptor_toNat, h, val_portL]
  exact if_congr (by simp) rfl rfl

theorem blend_traps (h : (s.cell s.sch.cur.cell).bufferAt ((portR 1088 s).extractLsb' 1024 32).toNat
    ((portL 64 s).extractLsb' 0 19).toNat = none) :
    exec (.blend pd t1 t0) s = .next (trapWith s 0x3FFB ((portR 1088 s).extractLsb' 1024 32).toNat) := by
  rw [show exec (.blend pd t1 t0) s = execBlend pd t1 t0 s from rfl, execBlend, State.fire_passed _ _ _ hp]
  dsimp only
  rw [bits_portL s 18 0 19 rfl, locator_toNat, h]
  exact s.takeTrap_with (by decide) (by omega)

end

section
variable (s : State) (bank a : Nat)

/-- The quad's turn that BLEND stores. -/
def blendNext : Nat := (((portL 64 s).extractLsb' 40 24).toNat + 1) % 2 ^ 24

/-- The pixels of BLEND blended, with their flags. -/
def blendRun : Cell × Flags :=
  ((List.range 16).filter fun i => (portL 64 s).getLsbD (20 + i)).foldl (fun (x : Cell × Flags) i =>
    ((x.1.blendPixel bank a ((portL 64 s).extractLsb' 36 4).toNat (s.sch.cur.r 136) i).1,
      x.2 ||| (x.1.blendPixel bank a ((portL 64 s).extractLsb' 36 4).toNat (s.sch.cur.r 136) i).2)) (s.cell s.sch.cur.cell, 0)

/-- The cell that BLEND leaves. -/
def blendCell : Cell := (blendRun s bank a).1.bankWrite bank (a + 2048 + 4 * ((portL 64 s).extractLsb' 36 4).toNat) (toBytes 3 (blendNext s))

/-- Whether the counters of all quads have come to BLEND's next turn. -/
def blendCredit (d : Cell) : Bool :=
  (List.range 16).all fun k => decide ((d.quadCounter bank a k + 2 ^ 24 - blendNext s) % 2 ^ 24 < 2 ^ 23)

/-- The value of BLEND: TILE and its credit bits. -/
def blendValue (d : Cell) : Nat :=
  ((portL 64 s).extractLsb' 0 19).toNat + bitOf (blendCredit s bank a d) * 2 ^ 32 +
    bitOf (blendCredit s bank a d && (portL 64 s).getLsbD 19) * 2 ^ 33

theorem blendCell_bytesOnly : (s.cell s.sch.cur.cell).BytesOnly (blendCell s bank a) :=
  (Cell.BytesOnly.blend bank a _ _ _ 0 (show (s.cell s.sch.cur.cell).BytesOnly (s.cell s.sch.cur.cell) from rfl)).bankWrite ..

/-- No covered pixel blends nothing. -/
theorem blendRun_uncovered (h : (portL 64 s).extractLsb' 20 16 = 0) : blendRun s bank a = (s.cell s.sch.cur.cell, 0) := by
  have hnone : (List.range 16).filter (fun i => (portL 64 s).getLsbD (20 + i)) = [] := by
    rw [List.filter_eq_nil_iff]
    intro i hi
    have hbit := congrArg (fun v : BitVec 16 => v.getLsbD i) h
    simpa [BitVec.getLsbD_extractLsb', List.mem_range.mp hi] using hbit
  rw [blendRun, hnone]
  rfl

end

section
variable (pd : Pd) (t1 t0 : Target) {s : State} (hp : s.sch.cur.passes pd = true) {j a : Nat}
  (h : (s.cell s.sch.cur.cell).bufferAt ((portR 1088 s).extractLsb' 1024 32).toNat ((portL 64 s).extractLsb' 0 19).toNat = some (j, a))
  (hready : (s.cell s.sch.cur.cell).tileReady j = true)
include hp h hready

theorem exec_blend : exec (.blend pd t1 t0) s =
    if (s.cell s.sch.cur.cell).quadCounter ((s.cell s.sch.cur.cell).tile j).bank.toNat a ((portL 64 s).extractLsb' 36 4).toNat ≠
        ((portL 64 s).extractLsb' 40 24).toNat then s.takeTrap s.sch.cur .trap 0x3FFC (s.sch.cur.l 8)
    else s.finish s.sch.cur (toBoth t0 t1 (Val.of 8 (blendValue s ((s.cell s.sch.cur.cell).tile j).bank.toNat a
        (blendCell s ((s.cell s.sch.cur.cell).tile j).bank.toNat a)))) (blendRun s ((s.cell s.sch.cur.cell).tile j).bank.toNat a).2
      fun u => u.updCell s.sch.cur.cell fun _ => blendCell s ((s.cell s.sch.cur.cell).tile j).bank.toNat a := by
  rw [show exec (.blend pd t1 t0) s = execBlend pd t1 t0 s from rfl, execBlend, State.fire_passed _ _ _ hp]
  dsimp only
  simp only [bits_portL s 18 0 19 rfl, bits_portL s 39 36 4 rfl, bits_portL s 63 40 24 rfl, bit_portL, locator_toNat, h, hready,
    Bool.not_true, Bool.false_eq_true, if_false]
  rfl

theorem blend_outOfTurn (hturn : (s.cell s.sch.cur.cell).quadCounter ((s.cell s.sch.cur.cell).tile j).bank.toNat a
      ((portL 64 s).extractLsb' 36 4).toNat ≠ ((portL 64 s).extractLsb' 40 24).toNat) :
    exec (.blend pd t1 t0) s = .next (trapWith s 0x3FFC (portL 64 s).toNat) := by
  rw [exec_blend pd t1 t0 hp h hready, if_pos hturn]
  exact s.takeTrap_portL (by decide)

variable (hturn : (s.cell s.sch.cur.cell).quadCounter ((s.cell s.sch.cur.cell).tile j).bank.toNat a
    ((portL 64 s).extractLsb' 36 4).toNat = ((portL 64 s).extractLsb' 40 24).toNat)
  (hsend : s.canSend s.sch.cur (toBoth t0 t1 (Val.of 8 0)) = true)
include hturn hsend

theorem blend_sends : exec (.blend pd t1 t0) s = .next (((s.updCell s.sch.cur.cell fun _ =>
      blendCell s ((s.cell s.sch.cur.cell).tile j).bank.toNat a).raise s.sch.cur
        (blendRun s ((s.cell s.sch.cur.cell).tile j).bank.toNat a).2).sendAll s.sch.cur s.sch.cur.acc.tag false
      (toBoth t0 t1 (Val.of 8 (blendValue s ((s.cell s.sch.cur.cell).tile j).bank.toNat a
        (blendCell s ((s.cell s.sch.cur.cell).tile j).bank.toNat a))))) := by
  rw [exec_blend pd t1 t0 hp h hready, if_neg (not_not_intro hturn)]
  exact State.finish_ready _ _ _ _ _ (State.canSend_both _ rfl hsend)

end

/-- TILE and the credit bits of BLEND lie in the low bits. -/
theorem blendValue_bits (s : State) (bank a : Nat) (d : Cell) : blendValue s bank a d < 2 ^ 34 ∧
    blendValue s bank a d % 2 ^ 32 = ((portL 64 s).extractLsb' 0 19).toNat := by
  have htile := ((portL 64 s).extractLsb' 0 19).isLt
  have hcredit := bitOf_lt (blendCredit s bank a d)
  have hlast := bitOf_lt (blendCredit s bank a d && (portL 64 s).getLsbD 19)
  rw [blendValue]
  omega

theorem bitOf_mul (b : Bool) (n : Nat) : bitOf b * n = if b then n else 0 := by cases b <;> simp [bitOf]

section
variable (pd : Pd) (t1 t0 : Target) {s : State} (hp : s.sch.cur.passes pd = true)
include hp

theorem seqget_fires {j a : Nat}
    (h : (s.cell s.sch.cur.cell).seqAt (portR 32 s).toNat ((portL 32 s).extractLsb' 0 19).toNat = some (j, a)) :
    ((s.cell s.sch.cur.cell).tileReady j = false → exec (.seqget pd t1 t0) s = .next (s.putBack s.sch.cur)) ∧
    ((s.cell s.sch.cur.cell).tileReady j = true → s.canSend s.sch.cur (toBoth t0 t1 (Val.of 4 0)) = true →
      let n := (s.cell s.sch.cur.cell).bankRead ((s.cell s.sch.cur.cell).tile j).bank.toNat a 4 % 2 ^ 24
      exec (.seqget pd t1 t0) s = .next ((s.updCell s.sch.cur.cell fun c =>
        c.bankWrite ((s.cell s.sch.cur.cell).tile j).bank.toNat a (toBytes 3 ((n + 1) % 2 ^ 24))).sendAll s.sch.cur s.sch.cur.acc.tag false
          (toBoth t0 t1 (Val.of 4 n)))) := by
  rw [exec_seqget pd t1 t0 hp h]
  refine ⟨fun hready => if_pos hready, fun hready hsend => ?_⟩
  have hroom := State.canSend_both (Val.of 4 ((s.cell s.sch.cur.cell).bankRead ((s.cell s.sch.cur.cell).tile j).bank.toNat a 4 % 2 ^ 24))
    rfl hsend
  rw [if_neg (by simp [hready]), State.finish_ready _ _ _ _ _ hroom, State.raise_none]

theorem seqwait_fires {j a : Nat}
    (h : (s.cell s.sch.cur.cell).bufferAt (portR 32 s).toNat ((portL 64 s).extractLsb' 0 19).toNat = some (j, a)) :
    ((s.cell s.sch.cur.cell).tileReady j = true → (s.cell s.sch.cur.cell).quadCounter ((s.cell s.sch.cur.cell).tile j).bank.toNat a
        ((portL 64 s).extractLsb' 36 4).toNat = ((portL 64 s).extractLsb' 40 24).toNat →
      s.canSend s.sch.cur (toBoth t0 t1 (val (portL 64 s))) = true →
      exec (.seqwait pd t1 t0) s = .next (s.sendAll s.sch.cur s.sch.cur.acc.tag false (toBoth t0 t1 (val (portL 64 s))))) ∧
    ((s.cell s.sch.cur.cell).tileReady j = false ∨ (s.cell s.sch.cur.cell).quadCounter ((s.cell s.sch.cur.cell).tile j).bank.toNat a
        ((portL 64 s).extractLsb' 36 4).toNat ≠ ((portL 64 s).extractLsb' 40 24).toNat →
      exec (.seqwait pd t1 t0) s = .next (s.putBack s.sch.cur)) := by
  rw [exec_seqwait pd t1 t0 hp h]
  refine ⟨fun hready hturn hsend => ?_, fun hwait => if_pos hwait⟩
  rw [if_neg (not_or.mpr ⟨by simp [hready], not_not_intro hturn⟩), State.finish_ready _ _ _ _ _ hsend, State.raise_none, id]

section
variable {j a : Nat}
  (h : (s.cell s.sch.cur.cell).bufferAt ((portR 1088 s).extractLsb' 1024 32).toNat ((portL 64 s).extractLsb' 0 19).toNat = some (j, a))
  (hready : (s.cell s.sch.cur.cell).tileReady j = true)
  (hturn : (s.cell s.sch.cur.cell).quadCounter ((s.cell s.sch.cur.cell).tile j).bank.toNat a
    ((portL 64 s).extractLsb' 36 4).toNat = ((portL 64 s).extractLsb' 40 24).toNat)
  (hsend : s.canSend s.sch.cur (toBoth t0 t1 (Val.of 8 0)) = true)
include h hready hturn hsend

theorem blend_fires : ∃ (d : Cell) (fl : Flags) (w : BitVec 64), exec (.blend pd t1 t0) s =
      .next (((s.updCell s.sch.cur.cell fun _ => d).raise s.sch.cur fl).sendAll s.sch.cur s.sch.cur.acc.tag false (toBoth t0 t1 (val w))) ∧
    w.extractLsb' 0 19 = (portL 64 s).extractLsb' 0 19 ∧ w.extractLsb' 19 13 = 0 ∧ w.extractLsb' 34 30 = 0 ∧
    d = { s.cell s.sch.cur.cell with bytes := d.bytes } := by
  obtain ⟨hlt, hlow⟩ := blendValue_bits s ((s.cell s.sch.cur.cell).tile j).bank.toNat a
    (blendCell s ((s.cell s.sch.cur.cell).tile j).bank.toNat a)
  have hfire := blend_sends pd t1 t0 hp h hready hturn hsend
  have htile := ((portL 64 s).extractLsb' 0 19).isLt
  generalize blendValue s _ _ _ = w at hlt hlow hfire
  have hw : (BitVec.ofNat 64 w).toNat = w := by
    rw [BitVec.toNat_ofNat]
    omega
  refine ⟨blendCell s ((s.cell s.sch.cur.cell).tile j).bank.toNat a, (blendRun s ((s.cell s.sch.cur.cell).tile j).bank.toNat a).2,
    BitVec.ofNat 64 w, ?fires, ?tile, ?middle, ?high, blendCell_bytesOnly s ((s.cell s.sch.cur.cell).tile j).bank.toNat a⟩
  case fires =>
    rw [val_bytes 8, hw]
    exact hfire
  case tile =>
    apply BitVec.eq_of_toNat_eq
    rw [BitVec.extractLsb'_toNat, hw, Nat.shiftRight_eq_div_pow]
    omega
  all_goals
    rw [← toNat_eq_zero_iff, BitVec.extractLsb'_toNat, hw, Nat.shiftRight_eq_div_pow]
    omega

/-- Without covered pixels BLEND stores the next turn alone. -/
theorem blend_fires_uncovered (hcover : (portL 64 s).extractLsb' 20 16 = 0) :
    let next := (((portL 64 s).extractLsb' 40 24).toNat + 1) % 2 ^ 24
    let bank := ((s.cell s.sch.cur.cell).tile j).bank.toNat
    let done := (s.cell s.sch.cur.cell).bankWrite bank (a + 2048 + 4 * ((portL 64 s).extractLsb' 36 4).toNat) (toBytes 3 next)
    let credit := (List.range 16).all fun k => decide ((done.quadCounter bank a k + 2 ^ 24 - next) % 2 ^ 24 < 2 ^ 23)
    exec (.blend pd t1 t0) s = .next ((s.updCell s.sch.cur.cell fun _ => done).sendAll s.sch.cur s.sch.cur.acc.tag false (toBoth t0 t1
      (Val.of 8 (((portL 64 s).extractLsb' 0 19).toNat + (if credit then 2 ^ 32 else 0) +
        (if credit && (portL 64 s).getLsbD 19 then 2 ^ 33 else 0))))) := by
  have hfire := blend_sends pd t1 t0 hp h hready hturn hsend
  rw [blendValue, blendCell, blendRun_uncovered s _ a hcover, State.raise_none, bitOf_mul, bitOf_mul] at hfire
  exact hfire

end

end

end Sys2Proof.Machine

section
open Sys2Proof Sys2Proof.Machine Sys2Proof.Claims

/-- Settles O44. The operands of the traps 0x3FFB and 0x3FFC and the trap on a log2 NB above 8 are the model's choice (log 35), as are the
tiles that hold the buffers (log 47). -/
theorem sequenceStampsAndBlend : Obligations.SequenceStampsAndBlend := by
  unfold Obligations.SequenceStampsAndBlend
  intro pd t1 t0 s hp
  refine ⟨seqget_traps pd t1 t0 hp, fun j a h => seqget_fires pd t1 t0 hp h, seqwait_traps pd t1 t0 hp,
    fun j a h => seqwait_fires pd t1 t0 hp h, blend_traps pd t1 t0 hp, fun j a h hready => ⟨blend_outOfTurn pd t1 t0 hp h hready,
      fun hturn hsend => ⟨blend_fires pd t1 t0 hp h hready hturn hsend, blend_fires_uncovered pd t1 t0 hp h hready hturn hsend⟩⟩,
    fun l k h => ?_⟩
  have hok := locatorOk_of_malformed h
  exact ⟨Cell.seqAt_malformed _ k hok, Cell.bufferAt_malformed _ k hok⟩

end
end

section
/-!
PROOF of O45. MIGR (R410): where the entry of the map that R names sends the ray of L.
-/

namespace Sys2Proof.Machine

-- Proofs one after another, as in the tests: in parallel they take more memory at once.
set_option Elab.async false

open Claims

/-! ## The entry (R410) -/

/-- The tile of the map that R names. -/
def migrTile (s : State) : Tile := (s.cell s.sch.cur.cell).tile ((portR 32 s).extractLsb' 12 5).toNat

/-- The entry of the map that R names. -/
def migrEntry (s : State) : BitVec 32 :=
  BitVec.ofNat 32 ((s.cell s.sch.cur.cell).bankRead (migrTile s).bank.toNat
    ((migrTile s).rowAddr (((portR 32 s).extractLsb' 0 12).toNat / (migrTile s).ncols) +
      4 * (((portR 32 s).extractLsb' 0 12).toNat % (migrTile s).ncols)) 4)

/-- Whether R has a reserved bit set, or names no element of 4 bytes of its tile. -/
def migrOutside (s : State) : Prop :=
  (portR 32 s).extractLsb' 22 10 ≠ 0 ∨ fmtBits (migrTile s).fmt.toNat ≠ 32 ∨
    (migrTile s).nrows * (migrTile s).ncols ≤ ((portR 32 s).extractLsb' 0 12).toNat

theorem ofBytes_lt (l : List Byte) : ofBytes l < 2 ^ (8 * l.length) := by
  induction l with
  | nil => decide
  | cons b l ih =>
    have hb := b.isLt
    rw [List.length_cons, Nat.mul_succ, pow_add, ofBytes]
    omega

theorem bankRead_word_lt (c : Cell) (bank a : Nat) : c.bankRead bank a 4 < 2 ^ 32 := ofBytes_lt _

/-- Whether the entry's owner is in the region of the firing. -/
def migrInside (s : State) (e : BitVec 32) : Prop :=
  (e.extractLsb' 28 4).toNat = s.sch.cur.die ∧ (s.region s.sch.cur.region).contains (e.extractLsb' 21 7).toNat (e.extractLsb' 15 6).toNat = true

/-- The ray sent to an owner in the region, as a token in its slot. -/
def State.migrateInside (s : State) (e : BitVec 32) (port : Port) : Result :=
  let k := cellKey s.sch.cur.die (e.extractLsb' 21 7).toNat (e.extractLsb' 15 6).toNat
  if (s.region s.sch.cur.region).image.wpc ≤ (e.extractLsb' 12 3).toNat ∨
      s.slotTakes s.sch.cur.region k (e.extractLsb' 12 3).toNat (e.extractLsb' 6 6).toNat port = false then
    s.takeTrap s.sch.cur .trap 0x3FFA (s.sch.cur.r 4)
  else match s.takeEntry k s.sch.cur.region with
    | none => .next (s.putBack s.sch.cur)
    | some (pool, q) => .next (q.sendSlot s.sch.cur (e.extractLsb' 21 7).toNat (e.extractLsb' 15 6).toNat (e.extractLsb' 12 3).toNat
        (e.extractLsb' 6 6).toNat port s.sch.cur.acc.tag pool (val (portL 512 s)))

/-- The ray sent to an owner outside the region, through the binding that R names. -/
def State.migrateOutside (s : State) (e : BitVec 32) : Result :=
  match (s.region s.sch.cur.region).binding? ((portR 32 s).extractLsb' 17 5).toNat with
  | none => s.takeTrap s.sch.cur .trap 0x3FFA (s.sch.cur.r 4)
  | some b =>
    if b.mode ≠ .element then s.takeTrap s.sch.cur .trap 0x3FFA (s.sch.cur.r 4)
    else .next (s.migrStream s.sch.cur b e.toNat (val (portL 512 s)))

/-- The ray sent to the entry's owner. -/
def State.migrate (s : State) (e : BitVec 32) : Result :=
  match portOf (e.extractLsb' 4 2).toNat with
  | none => s.takeTrap s.sch.cur .trap 0x3FFA (s.sch.cur.r 4)
  | some port =>
    if e.extractLsb' 0 4 ≠ 0 ∨ 8 ≤ (e.extractLsb' 28 4).toNat then s.takeTrap s.sch.cur .trap 0x3FFA (s.sch.cur.r 4)
    else if (e.extractLsb' 28 4).toNat = s.sch.cur.die ∧
        (s.region s.sch.cur.region).contains (e.extractLsb' 21 7).toNat (e.extractLsb' 15 6).toNat = true then s.migrateInside e port
    else s.migrateOutside e

theorem exec_migr {pd : Pd} {s : State} (hp : s.sch.cur.passes pd = true) [Decidable (migrOutside s)] : exec (.migr pd) s =
    if (s.cell s.sch.cur.cell).tileReady ((portR 32 s).extractLsb' 12 5).toNat = false then .next (s.putBack s.sch.cur)
    else if migrOutside s then s.takeTrap s.sch.cur .trap 0x3FFA (s.sch.cur.r 4)
    else s.migrate (migrEntry s) := by
  rw [show exec (.migr pd) s = execMigr pd s from rfl, execMigr, State.fire_passed _ _ _ hp]
  simp only [bits_descriptor s 16 12 5 rfl, bits_descriptor s 11 0 12 rfl, bits_descriptor s 31 22 10 rfl, bits_descriptor s 21 17 5 rfl,
    ne_eq, toNat_eq_zero_iff]
  have hentry : (s.cell s.sch.cur.cell).bankRead (migrTile s).bank.toNat
      ((migrTile s).rowAddr (((portR 32 s).extractLsb' 0 12).toNat / (migrTile s).ncols) +
        4 * (((portR 32 s).extractLsb' 0 12).toNat % (migrTile s).ncols)) 4 = (migrEntry s).toNat := by
    rw [migrEntry, BitVec.toNat_ofNat, Nat.mod_eq_of_lt (bankRead_word_lt _ _ _)]
  rw [migrTile] at hentry
  refine if_congr (by simp) rfl (if_congr (by simp [migrOutside, migrTile, or_assoc]) rfl ?_)
  simp only [hentry, bits_toNat (migrEntry s) (show 27 + 1 - 21 = 7 from rfl), bits_toNat (migrEntry s) (show 20 + 1 - 15 = 6 from rfl),
    bits_toNat (migrEntry s) (show 14 + 1 - 12 = 3 from rfl), bits_toNat (migrEntry s) (show 5 + 1 - 4 = 2 from rfl),
    bits_toNat (migrEntry s) (show 3 + 1 - 0 = 4 from rfl), bits_toNat (migrEntry s) (show 31 + 1 - 28 = 4 from rfl),
    bits_toNat (migrEntry s) (show 11 + 1 - 6 = 6 from rfl), toNat_eq_zero_iff]
  have hray : Val.of 64 (s.sch.cur.l 64) = val (portL 512 s) := by rw [val_bytes 64, portL_toNat s 64]
  rw [hray, State.migrate]
  cases portOf ((migrEntry s).extractLsb' 4 2).toNat with
  | none => rfl
  | some port => exact if_congr (by simp) rfl (if_congr (by simp) (if_congr (by simp) rfl rfl) rfl)

section
variable {pd : Pd} {s : State} (hp : s.sch.cur.passes pd = true)
include hp

theorem migr_waits (hready : (s.cell s.sch.cur.cell).tileReady ((portR 32 s).extractLsb' 12 5).toNat = false) :
    exec (.migr pd) s = .next (s.putBack s.sch.cur) := by
  classical
  rw [exec_migr hp, if_pos hready]

variable (hready : (s.cell s.sch.cur.cell).tileReady ((portR 32 s).extractLsb' 12 5).toNat = true)
include hready

theorem migr_traps_outside (h : migrOutside s) : exec (.migr pd) s = .next (trapWith s 0x3FFA (portR 32 s).toNat) := by
  classical
  rw [exec_migr hp, if_neg (by rw [hready]; decide), if_pos h]
  exact s.takeTrap_descriptor (by decide)

theorem migr_migrates (h : ¬ migrOutside s) : exec (.migr pd) s = s.migrate (migrEntry s) := by
  classical
  rw [exec_migr hp, if_neg (by rw [hready]; decide), if_neg h]

end

/-! ## The owner (R410) -/

section
variable {s : State} {e : BitVec 32}

theorem State.migrate_traps (h : portOf (e.extractLsb' 4 2).toNat = none ∨ e.extractLsb' 0 4 ≠ 0 ∨ 8 ≤ (e.extractLsb' 28 4).toNat) :
    s.migrate e = .next (trapWith s 0x3FFA (portR 32 s).toNat) := by
  rw [State.migrate]
  cases hport : portOf (e.extractLsb' 4 2).toNat with
  | none => exact s.takeTrap_descriptor (by decide)
  | some port =>
    have hbad := h.resolve_left (by rw [hport]; exact Option.some_ne_none port)
    exact (if_pos hbad).trans (s.takeTrap_descriptor (by decide))

section
variable {port : Port} (hport : portOf (e.extractLsb' 4 2).toNat = some port) (hlow : e.extractLsb' 0 4 = 0)
  (hdie : (e.extractLsb' 28 4).toNat < 8)
include hport hlow hdie

theorem State.migrate_inside (h : migrInside s e) : s.migrate e = s.migrateInside e port := by
  rw [State.migrate, hport]
  exact (if_neg (not_or.mpr ⟨not_not_intro hlow, not_le.mpr hdie⟩)).trans (if_pos h)

theorem State.migrate_outside (h : ¬ migrInside s e) : s.migrate e = s.migrateOutside e := by
  rw [State.migrate, hport]
  exact (if_neg (not_or.mpr ⟨not_not_intro hlow, not_le.mpr hdie⟩)).trans (if_neg h)

end

section
variable {port : Port}

theorem State.migrateInside_traps (h : (s.region s.sch.cur.region).image.wpc ≤ (e.extractLsb' 12 3).toNat ∨
    s.slotTakes s.sch.cur.region (cellKey s.sch.cur.die (e.extractLsb' 21 7).toNat (e.extractLsb' 15 6).toNat) (e.extractLsb' 12 3).toNat
      (e.extractLsb' 6 6).toNat port = false) : s.migrateInside e port = .next (trapWith s 0x3FFA (portR 32 s).toNat) :=
  (if_pos h).trans (s.takeTrap_descriptor (by decide))

variable (hwin : (e.extractLsb' 12 3).toNat < (s.region s.sch.cur.region).image.wpc)
  (htakes : s.slotTakes s.sch.cur.region (cellKey s.sch.cur.die (e.extractLsb' 21 7).toNat (e.extractLsb' 15 6).toNat)
    (e.extractLsb' 12 3).toNat (e.extractLsb' 6 6).toNat port = true)
include hwin htakes

theorem State.migrateInside_sends {pool : Pool} {q : State}
    (hentry : s.takeEntry (cellKey s.sch.cur.die (e.extractLsb' 21 7).toNat (e.extractLsb' 15 6).toNat) s.sch.cur.region = some (pool, q)) :
    s.migrateInside e port = .next (q.sendSlot s.sch.cur (e.extractLsb' 21 7).toNat (e.extractLsb' 15 6).toNat
      (e.extractLsb' 12 3).toNat (e.extractLsb' 6 6).toNat port s.sch.cur.acc.tag pool (val (portL 512 s))) := by
  rw [State.migrateInside, hentry]
  exact if_neg (not_or.mpr ⟨not_le.mpr hwin, by rw [htakes]; decide⟩)

theorem State.migrateInside_waits
    (hentry : s.takeEntry (cellKey s.sch.cur.die (e.extractLsb' 21 7).toNat (e.extractLsb' 15 6).toNat) s.sch.cur.region = none) :
    s.migrateInside e port = .next (s.putBack s.sch.cur) := by
  rw [State.migrateInside, hentry]
  exact if_neg (not_or.mpr ⟨not_le.mpr hwin, by rw [htakes]; decide⟩)

end

theorem State.migrateOutside_unbound (h : (s.region s.sch.cur.region).binding? ((portR 32 s).extractLsb' 17 5).toNat = none) :
    s.migrateOutside e = .next (trapWith s 0x3FFA (portR 32 s).toNat) := by
  rw [State.migrateOutside, h]
  exact s.takeTrap_descriptor (by decide)

section
variable {b : Binding} (h : (s.region s.sch.cur.region).binding? ((portR 32 s).extractLsb' 17 5).toNat = some b)
include h

theorem State.migrateOutside_traps (hmode : b.mode ≠ .element) : s.migrateOutside e = .next (trapWith s 0x3FFA (portR 32 s).toNat) := by
  rw [State.migrateOutside, h]
  exact (if_pos hmode).trans (s.takeTrap_descriptor (by decide))

theorem State.migrateOutside_sends (hmode : b.mode = .element) :
    s.migrateOutside e = .next (s.migrStream s.sch.cur b e.toNat (val (portL 512 s))) := by
  rw [State.migrateOutside, h]
  exact if_neg (not_not_intro hmode)

end

end

end Sys2Proof.Machine

section
open Sys2Proof Sys2Proof.Machine Sys2Proof.Claims

/-- Settles O45. The trap on a tile whose elements are not 4 bytes is the model's choice (log 35). -/
theorem rayMigration : Obligations.RayMigration := by
  unfold Obligations.RayMigration
  intro pd s hp
  refine ⟨migr_waits hp, fun hready => ⟨migr_traps_outside hp hready, fun houtside => ?_⟩⟩
  have hmigr := migr_migrates hp hready houtside
  refine ⟨fun h => hmigr.trans (State.migrate_traps h), fun port hport hlow hdie => ⟨fun howner hcell => ?_, fun hout => ?_⟩⟩
  · have hinside := hmigr.trans (State.migrate_inside hport hlow hdie ⟨howner, hcell⟩)
    exact ⟨fun h => hinside.trans (State.migrateInside_traps h), fun hwin htakes =>
      ⟨fun pool q h => hinside.trans (State.migrateInside_sends hwin htakes h), fun h => hinside.trans (State.migrateInside_waits hwin htakes h)⟩⟩
  · have houtside := hmigr.trans (State.migrate_outside hport hlow hdie hout)
    exact ⟨fun h => houtside.trans (State.migrateOutside_unbound h), fun b h =>
      ⟨fun hmode => houtside.trans (State.migrateOutside_traps h hmode), fun hmode => houtside.trans (State.migrateOutside_sends h hmode)⟩⟩

end
end
